-- ==== Sys2Proof/Word.lean ====
section
/-! DEFINITION. The word types of the SX-4 (R3, R4, R84) and the width names the rest of the model uses. -/

namespace Sys2Proof

/-- Eight bits: the unit of memory (R4). -/
abbrev Byte := BitVec 8

/-- Sixteen bits. -/
abbrev Half := BitVec 16

/-- Thirty-two bits: one lane of a vector register, one word of code (R70, R101). -/
abbrev Word := BitVec 32

/-- Sixty-four bits: a scalar register, a global address (R70, R196). -/
abbrev DWord := BitVec 64

/-- One bit per lane, lane i at bit i (R36, R70). -/
abbrev Mask := BitVec 32

/-- A signature of the L1 write notices (R208, R209). -/
abbrev Signature := BitVec 2048

/-- One count per compute die, D0 to D3 (R218). -/
abbrev DieClock := List Nat

end Sys2Proof
end

