-- ==== Sys2Proof/Syntax/Message.lean ====
section
/-! DEFINITION. The contents of the messages that reach the device from outside: host ports (R338, R443), the fabric (R391, R393), the power monitor and the start sequence (R436, R447). Host messages are modelled from their header on, fabric messages by their contents; the framing below stands in other standards (log 3). -/

namespace Sys2Proof

/-- Where a host message came in and the tag its reply copies (R443, R444). -/
structure HostTag where
  port : Nat
  tag : DWord
  deriving DecidableEq, Repr, Inhabited

/-- What a REG_WRITE carries after its offset: the width and the data (R443). -/
structure RegData where
  width : Word
  value : DWord
  deriving DecidableEq, Repr, Inhabited

/-- The level of a CANCEL command: 0 launch, 1 graph, 2 phase, 3 job (R338). -/
inductive Level where
  | launch | graph | phase | job
  deriving DecidableEq, Repr, Inhabited

/-- One lane access of a remote instruction as it travels (R277, R396): `op` is 0 load, 1 store, 2 atomic with return, 3 atomic without return. -/
structure RemoteLane where
  lane : Nat
  addr : DWord
  bytes : Nat
  data : DWord
  data2 : DWord
  deriving DecidableEq, Repr, Inhabited

/-- The kind of a remote access (R277). -/
inductive RemoteKind where
  | load | store | atomRet (op ty : Nat) | atomNoRet (op ty : Nat)
  deriving DecidableEq, Repr, Inhabited

/-- What a UALink request does (R396): a read, a write of the bytes its enables name, or an atomic with or without return. -/
inductive UaOp where
  | read | write (enables : BitVec 256) (data : List Byte) | atomic (op ty : Nat) (ret : Bool) (x xn : DWord)
  deriving DecidableEq, Repr, Inhabited

/-- A UALink request (R396): its address, with the job number in bits 53:48 and bit 55 set for a message, its size, and what it does. -/
structure UaRequest where
  addr : DWord
  size : Nat
  op : UaOp
  deriving DecidableEq, Repr, Inhabited

/-- A remote access, as the target receives it (R395): the sender's number for it, and the job it names with its lanes, or over UALink the request itself (R396). -/
structure RemoteReq where
  peer : Nat
  seq : Nat
  job : Nat
  kind : RemoteKind
  lanes : List RemoteLane
  ualink : Option UaRequest
  deriving DecidableEq, Repr, Inhabited

/-- What a target answers for each lane: the value, or a cause code of R280. -/
structure LaneAnswer where
  lane : Nat
  ok : Bool
  cause : Nat
  value : BitVec 128
  deriving DecidableEq, Repr, Inhabited

/-- The response to a request of this device (R393): the sender's number, and the answers. -/
structure RemoteResp where
  peer : Nat
  seq : Nat
  answers : List LaneAnswer
  deriving DecidableEq, Repr, Inhabited

/-- An `rst` store on its way (R285): the target name, the register, the carried mask and one value a lane. -/
structure RstMsg where
  peer : Nat
  seq : Nat
  name : Word
  reg : Nat
  mask : Mask
  values : List Word
  deriving DecidableEq, Repr, Inhabited

/-- A contribution to a chunk (R402, R404): 1024 f32 elements. -/
structure Contribution where
  job : Nat
  binding : DWord
  chunk : Nat
  step : Nat
  member : Nat
  resend : Bool
  data : List Word
  deriving DecidableEq, Repr, Inhabited

/-- A result delivered to a member (R407). -/
structure ResultMsg where
  job : Nat
  binding : DWord
  chunk : Nat
  step : Nat
  count : Nat
  status : Nat
  data : List Word
  deriving DecidableEq, Repr, Inhabited

/-- A sealed frame sent to a partner (R429): the sender, its job, the offset from the range's base, and the image. -/
structure MirrorMsg where
  peer : Nat
  job : Nat
  offset : Nat
  step : Nat
  image : List Byte
  deriving DecidableEq, Repr, Inhabited

/-- A spare's read of a HOLD copy (R432). -/
structure HoldRead where
  peer : Nat
  forPeer : Nat
  job : Nat
  offset : Nat
  deriving DecidableEq, Repr, Inhabited

/-- An answer from a source of a spare fill: the page it is for, as the read named it, the step of the newest sealed image and its bytes, none when the source has none (R432). -/
structure FillImage where
  job : Nat
  offset : Nat
  step : Nat
  image : Option (List Byte)
  deriving DecidableEq, Repr, Inhabited

/-- What a fill of a spare goes on with (R431, R432, R443): the FILL command with its peer and board store, an image from a partner, or the device's own next step. -/
inductive FillMove where
  | command (h : HostTag) (peer store : Nat) | image (m : FillImage) | go
  deriving DecidableEq, Repr, Inhabited

/-- A reply of the board store (R444): the port it came in on, and whether it answers SNAP_WRITE, or SNAP_READ with the bytes; its tag is the board offset of the request. -/
structure StoreReply where
  port : Nat
  offset : DWord
  read : Bool
  bytes : List Byte
  deriving DecidableEq, Repr, Inhabited

/-- What the firmware check reads (R439): the signing key's modulus, header and body of the image, and its signature. -/
structure SignResult where
  modulus : BitVec 3072
  image : List Byte
  signature : BitVec 3072
  deriving DecidableEq, Repr, Inhabited

/-- What self-test finds (R30): the units that failed, in package order, as HEALTH lists them (R450). -/
structure BistResult where
  failed : BitVec 2048
  deriving DecidableEq, Repr, Inhabited

/-- What training of the stacks finds: the stacks that failed to leave self-refresh (R438). -/
structure HbmResult where
  lost : BitVec 8
  deriving DecidableEq, Repr, Inhabited

/-- The channels that came up, for each peer eight bits: the (peer, mask) pairs of channels that start down (R438). -/
structure FabricResult where
  down : List (Nat × BitVec 8)
  deriving DecidableEq, Repr, Inhabited

/-- One power sample: rail currents in amperes (R447). -/
structure RailSample where
  core : Nat
  memory : Nat
  fabric : Nat
  deriving DecidableEq, Repr, Inhabited

end Sys2Proof
end

