-- ==== Sys2Proof/Syntax/Operand.lean ====
section
/-! DEFINITION. Operand forms and modifier codes of the instructions (R111 to R118, R234, R290), as typed data. -/

namespace Sys2Proof

/-- A vector register number v0 to v223 (R115). -/
abbrev VReg := Fin 224
/-- A scalar register number s0 to s31 (R115). -/
abbrev SReg := Fin 32
/-- A predicate register number p0 to p7 (R70). -/
abbrev PReg := Fin 8
/-- An accumulator tile number ac0 to ac15 (R71). -/
abbrev TileNo := Fin 16
/-- A shape register number sh0 to sh3 (R70). -/
abbrev ShapeNo := Fin 4
/-- A timeline counter number tl0 to tl15 (R70). -/
abbrev TimelineNo := Fin 16

/-- The register an 8-bit operand field names: codes 0x00 to 0xDF are v0 to v223, 0xE0 to 0xFF are s0 to s31 (R115). -/
inductive Reg where
  | v (n : VReg)
  | s (n : SReg)
  deriving DecidableEq, Repr, Inhabited

/-- A register operand with its reuse bit (R81). -/
structure RegOpd where
  reg : Reg
  reuse : Bool
  deriving DecidableEq, Repr, Inhabited

/-- A source operand: a register, or the literal of the 96-bit form (R113). -/
inductive Opd where
  | reg (r : Reg) (reuse : Bool)
  | lit (w : Word)
  deriving DecidableEq, Repr, Inhabited

/-- A predicate guard `p?` or `!p?` (R11, R112). -/
structure Guard where
  neg : Bool
  p : PReg
  deriving DecidableEq, Repr, Inhabited

/-- A predicate code field: an enable bit and a number (R173, R254, R277, R313). -/
structure PSel where
  en : Bool
  p : PReg
  deriving DecidableEq, Repr, Inhabited

/-- The sixteen type codes, in code order (R116). -/
inductive Ty where
  | i32 | w32 | i64 | w64 | f32 | f16 | bf16 | e4m3 | e5m2 | e2m1 | b32 | i16 | w16 | i8 | w8 | b64
  deriving DecidableEq, Repr, Inhabited

/-- The rounding codes, in code order (R10, R117). -/
inductive Rnd where
  | rne | rtz | rtp | rtn | rsd
  deriving DecidableEq, Repr, Inhabited

/-- The `aux` field of a compute instruction: full width, `.lo`, `.hi` (R112, R145). -/
inductive Part where
  | full | lo | hi
  deriving DecidableEq, Repr, Inhabited

/-- Conditions of `cmp`, in code order (R168). -/
inductive Cond where
  | eq | ne | lt | le | gt | ge | ord | uno | tst
  deriving DecidableEq, Repr, Inhabited

/-- How `cmp` combines its result with the old predicate (R168). -/
inductive Comb where
  | set | and | or
  deriving DecidableEq, Repr, Inhabited

/-- Operations of the lane reductions and scans, in code order (R174). -/
inductive RedOp where
  | add | min | max | and | or | xor
  deriving DecidableEq, Repr, Inhabited

/-- Modes of `vote`, in code order (R176). -/
inductive VoteMode where
  | all | any | uni
  deriving DecidableEq, Repr, Inhabited

/-- Access sizes (R234). -/
inductive Size where
  | b32 | b64 | b128
  deriving DecidableEq, Repr, Inhabited

/-- Cache policies of loads, in code order (R240). -/
inductive Policy where
  | l1 | thru | stream
  deriving DecidableEq, Repr, Inhabited

/-- Operations of the atomics, in code order (R250). -/
inductive AtomOp where
  | add | min | max | and | or | xor | exch | cas
  deriving DecidableEq, Repr, Inhabited

/-- Fence semantics, codes 1 to 3 (R265). -/
inductive FenceSem where
  | acq | rel | ar
  deriving DecidableEq, Repr, Inhabited

/-- The five memory scopes, narrowest first (R12, R265). -/
inductive Scope where
  | grp | team | die | dev | pod
  deriving DecidableEq, Repr, Inhabited

/-- Operand b of rows 0x6_ to 0x8_ by its kind `okind` (R234). -/
inductive MOff where
  | vec (r : VReg) (reuse : Bool)
  | sc (r : SReg) (reuse : Bool)
  | lit (w : Word)
  | none (reuse : Bool)
  deriving DecidableEq, Repr, Inhabited

/-- A scalar register or a literal: the S/L operand of rows 0xA_ to 0xC_ (R290). -/
inductive SL where
  | sc (r : SReg)
  | lit (w : Word)
  deriving DecidableEq, Repr, Inhabited

/-- The operand-format pair of `mma`, codes 0 to 6 (R297). -/
inductive MmaPair where
  | bf16 | f16 | e4e4 | e4e5 | e5e4 | e5e5 | e2e2
  deriving DecidableEq, Repr, Inhabited

/-- Directions of the copy engine, in code order (R316). -/
inductive CopyDir where
  | g2w | w2g | g2g | w2w
  deriving DecidableEq, Repr, Inhabited

/-! Payloads: the fields one instruction format carries. -/

/-- Short form with three registers (R111). -/
structure Short3 where
  d : Reg
  a : Reg
  b : Reg
  deriving DecidableEq, Repr, Inhabited

/-- A unary compute instruction (R112, R147). -/
structure Un where
  g : Option Guard
  tr : Bool
  sat : Bool
  ty : Ty
  rnd : Rnd
  part : Part
  d : Reg
  a : Opd
  deriving DecidableEq, Repr, Inhabited

/-- A compute instruction of operands a and b (R112, R147). -/
structure Bin where
  g : Option Guard
  tr : Bool
  sat : Bool
  ty : Ty
  rnd : Rnd
  part : Part
  d : Reg
  a : RegOpd
  b : Opd
  deriving DecidableEq, Repr, Inhabited

/-- A compute instruction of operands a, b and c (R112). -/
structure Tri where
  g : Option Guard
  tr : Bool
  sat : Bool
  ty : Ty
  rnd : Rnd
  part : Part
  d : Reg
  a : RegOpd
  b : Opd
  c : RegOpd
  deriving DecidableEq, Repr, Inhabited

/-- `lut3`: three operands and an 8-bit table (R155). -/
structure Lut where
  g : Option Guard
  tr : Bool
  table : BitVec 8
  d : Reg
  a : RegOpd
  b : Opd
  c : RegOpd
  deriving DecidableEq, Repr, Inhabited

/-- `bs.pack` and `bs.unpack` (R166, R167). -/
structure Bs where
  g : Option Guard
  tr : Bool
  sat : Bool
  ty : Ty
  rnd : Rnd
  d : Reg
  a : RegOpd
  vs : RegOpd
  base : BitVec 8
  deriving DecidableEq, Repr, Inhabited

/-- `cmp` (R168). -/
structure CmpF where
  g : Option Guard
  ty : Ty
  part : Part
  cond : Cond
  comb : Comb
  pd : PReg
  a : RegOpd
  b : Opd
  deriving DecidableEq, Repr, Inhabited

/-- `class` (R170). -/
structure ClassF where
  g : Option Guard
  ty : Ty
  part : Part
  pd : PReg
  a : Opd
  mask : BitVec 8
  deriving DecidableEq, Repr, Inhabited

/-- The shuffles (R173). -/
structure Shfl where
  g : Option Guard
  tr : Bool
  ty : Ty
  d : Reg
  a : RegOpd
  b : Opd
  pn : PSel
  deriving DecidableEq, Repr, Inhabited

/-- `scan`, `scanx` and `rdc` (R174). -/
structure RedF where
  g : Option Guard
  tr : Bool
  sat : Bool
  ty : Ty
  rnd : Rnd
  op : RedOp
  d : Reg
  a : Opd
  deriving DecidableEq, Repr, Inhabited

/-- `plog` (R171). -/
structure PLog where
  g : Option Guard
  table : BitVec 8
  pd : PReg
  pa : PReg
  pb : PReg
  pc : PReg
  deriving DecidableEq, Repr, Inhabited

/-- A load of rows 0x6_ (R240). -/
structure LdF where
  g : Option Guard
  size : Size
  pol : Policy
  d : Reg
  a : RegOpd
  off : MOff
  deriving DecidableEq, Repr, Inhabited

/-- A store of rows 0x6_, data in field c (R240, R244). -/
structure StF where
  g : Option Guard
  size : Size
  a : RegOpd
  off : MOff
  c : RegOpd
  deriving DecidableEq, Repr, Inhabited

/-- `ld.ver` (R243). -/
structure LdVerF where
  g : Option Guard
  size : Size
  d : Reg
  a : RegOpd
  off : MOff
  sm : RegOpd
  deriving DecidableEq, Repr, Inhabited

/-- `ld.rag` (R246). -/
structure LdRagF where
  g : Option Guard
  size : Size
  pol : Policy
  d : Reg
  a : RegOpd
  row : MOff
  sh : ShapeNo
  one : Bool
  deriving DecidableEq, Repr, Inhabited

/-- `atom`, and `ra.atom` with field a the peer and field b the address (R250, R277). -/
structure AtomF where
  g : Option Guard
  ty : Ty
  op : AtomOp
  d : Reg
  a : RegOpd
  off : MOff
  c : RegOpd
  deriving DecidableEq, Repr, Inhabited

/-- `red`, and `ra.red` with field a the peer and field b the address (R252, R277). -/
structure RedMemF where
  g : Option Guard
  ty : Ty
  op : AtomOp
  a : RegOpd
  off : MOff
  c : RegOpd
  deriving DecidableEq, Repr, Inhabited

/-- `red.add.cf32` (R253). -/
structure RedCfF where
  g : Option Guard
  a : RegOpd
  off : MOff
  c : RegOpd
  deriving DecidableEq, Repr, Inhabited

/-- `lk` and `lktry`; the literal is the timeout of `lk` (R254). -/
structure LkF where
  d : Reg
  pd : PSel
  a : RegOpd
  t : Option Word
  deriving DecidableEq, Repr, Inhabited

/-- `ra.ld`: field a the peer, field b the address (R277). -/
structure RaLdF where
  g : Option Guard
  size : Size
  d : Reg
  a : RegOpd
  off : MOff
  pn : PSel
  deriving DecidableEq, Repr, Inhabited

/-- `mma` (R290, R297, R298). -/
structure MmaF where
  g : Option Guard
  tile : TileNo
  a : SReg
  b : SReg
  desc : SReg
  bs : Bool
  pair : MmaPair
  shape : Option ShapeNo
  one : Bool
  ninf : Bool
  wa : Bool
  rb : Bool
  deriving DecidableEq, Repr, Inhabited

/-- `acc.ld` and `acc.st`; `rnd` and `sat` belong to the store (R290, R304). -/
structure AccMemF where
  g : Option Guard
  tile : TileNo
  base : SReg
  pitch : SL
  ty : Ty
  rnd : Rnd
  sat : Bool
  sp : Bool
  deriving DecidableEq, Repr, Inhabited

/-- Both forms of `acc.mov` (R290, R305): the vector register, its reuse bit, the tile, j0 and log2 n. -/
structure AccMovF where
  g : Option Guard
  v : VReg
  reuse : Bool
  tile : TileNo
  j0 : Fin 32
  log2n : BitVec 4
  deriving DecidableEq, Repr, Inhabited

/-- `osm.upd` (R290, R306). -/
structure OsmF where
  g : Option Guard
  d : VReg
  sTile : TileNo
  oEn : Bool
  oTile : TileNo
  deriving DecidableEq, Repr, Inhabited

/-- `rag.rdc` (R290, R313). -/
structure RagRdcF where
  g : Option Guard
  d : VReg
  a : VReg
  reuse : Bool
  row0 : SL
  ty : Ty
  op : RedOp
  pn : PSel
  seq : Bool
  one : Bool
  sh : ShapeNo
  deriving DecidableEq, Repr, Inhabited

/-- `rag.norm` (R290, R315). -/
structure RagNormF where
  g : Option Guard
  d : VReg
  a : VReg
  reuse : Bool
  row0 : SL
  one : Bool
  sh : ShapeNo
  deriving DecidableEq, Repr, Inhabited

/-- `cp` (R290, R316). -/
structure CpF where
  d : Option SReg
  tl : TimelineNo
  dst : SReg
  src : SReg
  len : SL
  dir : CopyDir
  deriving DecidableEq, Repr, Inhabited

/-- `cp.gather` (R290, R317). -/
structure CpGatherF where
  d : Option SReg
  tl : TimelineNo
  dst : SReg
  src : SReg
  desc : SReg
  dir : CopyDir
  deriving DecidableEq, Repr, Inhabited

/-- `rgn`: the live-in masks (R119). -/
structure RgnF where
  vmask : BitVec 32
  smask : BitVec 32
  xmask : BitVec 6
  pmask : BitVec 8
  deriving DecidableEq, Repr, Inhabited

end Sys2Proof
end

