-- ==== Sys2Proof/Syntax.lean ====
section
/-! DEFINITION. The instructions and events of the SX-4: one constructor for each row of the opcode table. Rows 0 to 143 are instructions of code (R111 to R121); the others are the steps of the device's units and the messages that reach it, with what selects or fills them. -/

namespace Sys2Proof

/-- A step of the machine: an instruction of code, or an event of one of the device's units. -/
inductive Instr where
  /-- NOP (R120): Short no-operation; has no effect. -/
  | nop
  /-- BRK (R134): Takes the breakpoint trap before any effect; the record holds the tag and span, and the later span-1 words are not decoded. -/
  | brk (span : Nat) (tag : BitVec 22)
  /-- ADD_I32_SHORT (R120): Short-form i32 add on every lane of the split's mask. -/
  | addI32Short (f : Short3)
  /-- SUB_I32_SHORT (R120): Short-form i32 subtract on every lane of the split's mask. -/
  | subI32Short (f : Short3)
  /-- AND_B32_SHORT (R120): Short-form bitwise and, as lut3 with table 0xC0. -/
  | andB32Short (f : Short3)
  /-- OR_B32_SHORT (R120): Short-form bitwise or, as lut3 with table 0xFC. -/
  | orB32Short (f : Short3)
  /-- XOR_B32_SHORT (R120): Short-form bitwise xor, as lut3 with table 0x3C. -/
  | xorB32Short (f : Short3)
  /-- MOV_B32_SHORT (R120): Short-form 32-bit move; field b is 0. -/
  | movB32Short (d a : Reg)
  /-- ADD_F32_SHORT (R120): Short-form f32 add with rne. -/
  | addF32Short (f : Short3)
  /-- MUL_F32_SHORT (R120): Short-form f32 multiply with rne. -/
  | mulF32Short (f : Short3)
  /-- SHL_B32_SHORT (R120): Short-form 32-bit left shift. -/
  | shlB32Short (f : Short3)
  /-- SHR_B32_SHORT (R120): Short-form 32-bit logical right shift. -/
  | shrB32Short (f : Short3)
  /-- HALT_SHORT (R189): Short-form halt of every lane of the split's mask. -/
  | haltShort
  /-- RET_SHORT (R186): Short-form return through v30. -/
  | retShort
  /-- YIELD_SHORT (R190): Short-form yield of the slot's issue turns. -/
  | yieldShort
  /-- ADD (R151): Adds the elements of two sources per active lane, with wrap, sat or rounding by type. -/
  | add (f : Bin)
  /-- SUB (R151): Subtracts per element and active lane. -/
  | sub (f : Bin)
  /-- MUL (R151): Multiplies per element and active lane. -/
  | mul (f : Bin)
  /-- MULHI (R151): Writes the high half of the exact double-width product. -/
  | mulhi (f : Bin)
  /-- MAD (R151): Integer multiply-add per element. -/
  | mad (f : Tri)
  /-- DIVSTEP (R153): Performs one step of restoring unsigned division on a quotient/remainder pair. -/
  | divstep (f : Bin)
  /-- MIN (R151): Writes the lesser operand per element. -/
  | min (f : Bin)
  /-- MAX (R151): Writes the greater operand per element. -/
  | max (f : Bin)
  /-- ABS (R151): Absolute value per element; for floats, clears the sign bit. -/
  | abs (f : Un)
  /-- NEG (R151): Negation per element; for floats, inverts the sign bit. -/
  | neg (f : Un)
  /-- ADDC (R154): Add with carry in and carry out through a predicate. -/
  | addc (f : Bin) (pn : PReg)
  /-- SUBB (R154): Subtract with borrow in and borrow out through a predicate. -/
  | subb (f : Bin) (pn : PReg)
  /-- LUT3 (R155): Three-input bitwise lookup-table operation. -/
  | lut3 (f : Lut)
  /-- SHL (R156): Left shift by an unsigned amount. -/
  | shl (f : Bin)
  /-- SHR (R156): Logical right shift. -/
  | shr (f : Bin)
  /-- SRA (R156): Arithmetic right shift. -/
  | sra (f : Bin)
  /-- ROT (R156): Left rotation by n mod W. -/
  | rot (f : Bin)
  /-- POPC (R157): Counts the set bits. -/
  | popc (f : Un)
  /-- CLZ (R157): Counts the leading zero bits. -/
  | clz (f : Un)
  /-- BFE (R158): Extracts a bit field, zero- or sign-extended. -/
  | bfe (f : Tri)
  /-- BFI (R159): Inserts a bit field into a base value. -/
  | bfi (f : Tri)
  /-- BREV (R157): Reverses the bit order. -/
  | brev (f : Un)
  /-- BPERM (R160): Byte permute with optional sign replication. -/
  | bperm (f : Tri)
  /-- FMA (R161): Fused multiply-add with a single rounding. -/
  | fma (f : Tri)
  /-- RCP (R162): Correctly rounded reciprocal; long-latency. -/
  | rcp (f : Un)
  /-- RSQ (R162): Correctly rounded reciprocal square root; long-latency. -/
  | rsq (f : Un)
  /-- SQRT (R162): Correctly rounded square root; long-latency. -/
  | sqrt (f : Un)
  /-- EXP2 (R162): Correctly rounded 2^x; long-latency. -/
  | exp2 (f : Un)
  /-- LOG2 (R162): Correctly rounded log2 x; long-latency. -/
  | log2 (f : Un)
  /-- TANH (R162): Correctly rounded tanh; long-latency. -/
  | tanh (f : Un)
  /-- CVT (R164): Converts one element per lane between numeric types. -/
  | cvt (f : Un) (src : Ty) (e : Fin 8)
  /-- CVT_PK (R165): Converts two 32-bit sources into packed narrow elements. -/
  | cvtPk (f : Bin) (src : Ty)
  /-- BS_PACK (R166): Produces block-scaled elements together with their scale bytes. -/
  | bsPack (f : Bs)
  /-- BS_UNPACK (R167): Expands block-scaled elements to f32. -/
  | bsUnpack (f : Bs)
  /-- CMP (R168): Compares the sources and writes, or combines into, a predicate. -/
  | cmp (f : CmpF)
  /-- SEL (R169): Selects between two sources by a predicate. -/
  | sel (f : Bin) (pn : PReg)
  /-- CLASS (R170): Sets a predicate where the value's float class is selected by the mask. -/
  | classOf (f : ClassF)
  /-- SHFL_IDX (R173): Copies from the lane indexed by vb mod 32. -/
  | shflIdx (f : Shfl)
  /-- SHFL_UP (R173): Copies from lane L-n, keeping the own value when out of range. -/
  | shflUp (f : Shfl)
  /-- SHFL_DN (R173): Copies from lane L+n, keeping the own value when out of range. -/
  | shflDn (f : Shfl)
  /-- SHFL_XOR (R194): Copies from lane L xor (n mod 32). -/
  | shflXor (f : Shfl)
  /-- SCAN (R174): Inclusive lane scan in the fixed five-step order. -/
  | scan (f : RedF)
  /-- SCANX (R174): Exclusive lane scan. -/
  | scanx (f : RedF)
  /-- RDC (R174): Lane reduction in the fixed binary tree. -/
  | rdc (f : RedF)
  /-- SORT (R175): Sorts the active lanes' keys with their lane numbers; long-latency. -/
  | sort (f : Un) (down : Bool)
  /-- VOTE (R176): All, any or uniform vote over a predicate. -/
  | vote (g : Option Guard) (mode : VoteMode) (pd pa : PReg)
  /-- BALLOT (R176): Writes the mask of active lanes where the predicate is set. -/
  | ballot (g : Option Guard) (tr : Bool) (d : Reg) (pa : PReg)
  /-- RND (R178): Writes the counter-generator output per lane. -/
  | rnd (g : Option Guard) (tr : Bool) (d : Reg) (a : RegOpd) (b : Opd)
  /-- MOV (R179): Copies a register, scalar or literal. -/
  | mov (f : Un)
  /-- RDLANE (R179): Reads one lane into a scalar. -/
  | rdlane (f : Bin)
  /-- WRLANE (R179): Writes a scalar into one active lane. -/
  | wrlane (f : Bin)
  /-- PLOG (R171): Three-input lookup-table logic on predicates. -/
  | plog (f : PLog)
  /-- PTOV (R171): Converts a predicate to a vector of 0 and 1. -/
  | ptov (g : Option Guard) (tr : Bool) (d : Reg) (pa : PReg)
  /-- VTOP (R171): Converts a vector to a predicate of non-zero lanes. -/
  | vtop (g : Option Guard) (pd : PReg) (a : Opd)
  /-- LD (R241): Global load per active lane under a cache policy. -/
  | ld (f : LdF)
  /-- ST (R241): Global store per active lane through the store buffer. -/
  | st (f : StF)
  /-- LD_SP (R241): Loads from the scratchpad window. -/
  | ldSp (f : LdF)
  /-- ST_SP (R241): Stores to the scratchpad window. -/
  | stSp (f : StF)
  /-- LD_VER (R243): Versioned load of the newest qualifying sealed slot, waiting if none qualifies. -/
  | ldVer (f : LdVerF)
  /-- ST_VER (R244): Versioned store for the writer's current step. -/
  | stVer (f : StF)
  /-- SEAL (R245): Held seal of the page's slot for the current step. -/
  | sealVer (a : RegOpd) (off : MOff)
  /-- LD_RAG (R247): Loads rows of a packed ragged tensor through a shape snapshot. -/
  | ldRag (f : LdRagF)
  /-- ATOM (R251): Returning atomic performed at the home service group. -/
  | atom (f : AtomF)
  /-- RED (R252): Held reduction with no result. -/
  | red (f : RedMemF)
  /-- RED_ADD_CF32 (R253): Held compensated f32 reduction into an S/E pair. -/
  | redAddCf32 (f : RedCfF)
  /-- LK (R255): Closes the region and requests a line lock, waiting for grant or timeout. -/
  | lk (f : LkF)
  /-- LKTRY (R262): Takes a line lock only if it is free at once; otherwise returns BUSY. -/
  | lktry (f : LkF)
  /-- UNLK (R261): Held release of a held line lock. -/
  | unlk (a : RegOpd)
  /-- FENCE (R266): Acquire, release or both at a scope. -/
  | fence (sem : FenceSem) (scope : Scope)
  /-- BAR (R268): Arrives at the team barrier with count 1 and waits for the phase to end. -/
  | bar
  /-- BAR_WAIT (R268): Arrives with count 0 and waits for the phase to end. -/
  | barWait
  /-- ARRIVE_N (R269): Arrives with count n and waits. -/
  | arriveN (n : MOff)
  /-- ARRIVE_N_NW (R269): Arrives with count n without waiting. -/
  | arriveNNw (n : MOff)
  /-- WAIT_CTR (R273): Waits through a watch until a w64 word reaches a value. -/
  | waitCtr (d : SReg) (a c : RegOpd) (t : Option Word)
  /-- POST (R274): Reserves a task drawer; it goes live at hand-over. -/
  | post (d : SReg) (a c : RegOpd) (n : MOff)
  /-- DCNT (R276): Held decrements of task drawers. -/
  | dcnt (g : Option Guard) (a : RegOpd) (n : MOff)
  /-- RA_LD (R277): Remote load from a peer device. -/
  | raLd (f : RaLdF)
  /-- RA_ST (R277): Held remote store to a peer device. -/
  | raSt (f : StF)
  /-- RA_ATOM (R277): Returning remote atomic. -/
  | raAtom (f : AtomF)
  /-- RA_RED (R277): Held remote atomic without return (nr = 1). -/
  | raRed (f : RedMemF)
  /-- RST (R285): Held store into a vector register of a named group. -/
  | rst (g : Option Guard) (a : RegOpd) (vt : VReg) (b : MOff)
  /-- HOLD (R284): Adjusts the hold count of a register in the hold table. -/
  | hold (vr : VReg) (n : MOff)
  /-- NAME_GET (R283): Allocates a pod-wide name, or returns the one held. -/
  | nameGet (d : SReg)
  /-- NAME_FREE (R283): Frees the group's name. -/
  | nameFree
  /-- MRES (R294): Requests accumulator tiles all or nothing, without waiting. -/
  | mres (pd : PReg) (m : SL)
  /-- MREL (R295): Releases reserved tiles once operations on them complete. -/
  | mrel (m : SL)
  /-- MMA (R300): Matrix multiply-accumulate into a tile, optionally shaped. -/
  | mma (f : MmaF)
  /-- ACC_LD (R304): Loads tile rows from memory. -/
  | accLd (f : AccMemF)
  /-- ACC_ST (R304): Stores tile rows to memory with rounding. -/
  | accSt (f : AccMemF)
  /-- ACC_ZERO (R305): Zeroes the active rows of a tile. -/
  | accZero (g : Option Guard) (tile : TileNo)
  /-- ACC_MOV_TO_VEC (R305): Copies tile columns into vector registers. -/
  | accMovToVec (f : AccMovF)
  /-- ACC_MOV_TO_TILE (R305): Copies vector registers into tile columns. -/
  | accMovToTile (f : AccMovF)
  /-- OSM_UPD (R306): Online-softmax update of the running max and sum. -/
  | osmUpd (f : OsmF)
  /-- OSM_FIN (R307): Divides the output rows by the running sum. -/
  | osmFin (g : Option Guard) (tile : TileNo) (a : VReg) (reuse : Bool)
  /-- RAG_RDC (R314): Per-sequence ragged reduction. -/
  | ragRdc (f : RagRdcF)
  /-- RAG_NORM (R315): Normalises lanes by their sequence sum. -/
  | ragNorm (f : RagNormF)
  /-- SH_LD (R310): Loads and checks a shape-record snapshot. -/
  | shLd (sh : ShapeNo) (a : SReg)
  /-- SH_CHK (R311): Compares the record's version word with the snapshot. -/
  | shChk (pd : PReg) (sh : ShapeNo)
  /-- CP (R316): Submits an asynchronous copy to the cluster's copy engine. -/
  | cp (f : CpF)
  /-- CP_GATHER (R317): Submits an indexed gather copy. -/
  | cpGather (f : CpGatherF)
  /-- TL_RD (R320): Reads a timeline counter without acquiring. -/
  | tlRd (d : SReg) (tl : TimelineNo)
  /-- TL_RD_ERR (R320): Reads and clears the timeline's error record. -/
  | tlRdErr (d : SReg) (tl : TimelineNo)
  /-- TL_WAIT (R321): Waits until a timeline counter reaches n, then acquires. -/
  | tlWait (tl : TimelineNo) (n : SL)
  /-- COLL_PUT (R323): Held contribution of a 4 KiB chunk to a collective. -/
  | collPut (a : SReg) (chunk : SL) (src : SReg)
  /-- COLL_QUORUM (R324): Sets the quorum and floor of the owned chunks. -/
  | collQuorum (a : SReg) (qf : SL)
  /-- COLL_CLOSE (R324): Closes an owned chunk's step at once. -/
  | collClose (a : SReg) (chunk : SL)
  /-- COLL_GET (R325): Waits for a chunk result and writes it to memory. -/
  | collGet (d a : SReg) (chunk : SL) (dst : SReg)
  /-- STEP_ADV (R326): Waits for the sideboard's lead rule, then advances step.cur. -/
  | stepAdv (d : SReg) (t : Option Word)
  /-- STEP_RD (R327): Reads a sideboard entry without waiting. -/
  | stepRd (d : SReg) (peer : SL)
  /-- HCMD (R328): Held hutch command on a timeline. -/
  | hcmd (tl : TimelineNo) (sn : SReg)
  /-- TAKE (R329): Claims indices from the core's range of the launch. -/
  | take (d : SReg) (n : SL)
  /-- STEAL (R330): Sends one steal request to another core. -/
  | steal (core : SL)
  /-- GW_LAUNCH (R331): Releases, then submits a graph record to the walker. -/
  | gwLaunch (d a : SReg)
  /-- MIG (R332): Requests migration of the group to a named core. -/
  | mig (d : SReg) (core : SL)
  /-- MIG_NEAR (R333): Migrates to the core beside a line's home slice. -/
  | migNear (d a : SReg)
  /-- SYS_RD (R335): Reads a control register. -/
  | sysRd (d : Reg) (num : Half)
  /-- SYS_WR (R335): Writes a control register that has no row of its own. -/
  | sysWr (num : Half) (c : SReg)
  /-- TRAP (R334): Raises the software trap with a code. -/
  | trapCode (code : Half)
  /-- BRA (R181): Non-dividing branch of the whole split. -/
  | bra (g : Option Guard) (all : Bool) (off : BitVec 30)
  /-- BRD (R182): Divergent branch with a merge point. -/
  | brd (g : Option Guard) (off : BitVec 30) (merge : Option Word)
  /-- MERGE (R185): Waits until all live splits merge at the next clause. -/
  | mergeWait
  /-- CALL (R186): Writes the return address to a link and branches. -/
  | call (link : Reg) (off : BitVec 30)
  /-- RET (R187): Returns through a link, dividing the split on differing targets. -/
  | ret (link : Reg)
  /-- JMP (R187): Computed jump, dividing the split on differing targets. -/
  | jmp (target : Reg) (off : BitVec 30)
  /-- RGN (R119): Closes the region, releases its held effects and opens a new region. -/
  | rgn (f : RgnF)
  /-- XACQ (R74): Acquires extended blocks, waiting for a whole grant. -/
  | xacq (n : BitVec 8)
  /-- XREL (R74): Releases extended blocks. -/
  | xrel (n : BitVec 8)
  /-- HALT (R189): Removes the active lanes from the split for good. -/
  | halt (g : Option Guard)
  /-- YIELD (R190): Gives up issue turns to the slot's other groups. -/
  | yield
  /-- PENDING_TRAP_TAKE (R453): Takes a pending version-ring trap at the split's first issue boundary. -/
  | pendingTrapTake (group : Nat)
  /-- TRAP_ACT_RESUME (R366): trap.act RESUME re-enters the trapped instruction. -/
  | trapActResume
  /-- TRAP_ACT_SKIP (R366): trap.act SKIP continues after the trapped instruction. -/
  | trapActSkip
  /-- TRAP_ACT_HALT (R366): trap.act HALT sends the trapped group down the fatal path. -/
  | trapActHalt
  /-- XLT_INV (R366): Drops the job's translation of a page from every cache. -/
  | xltInv (c : SReg)
  /-- DBG_IFLUSH (R131): Drops the job's instruction-cache lines on every core. -/
  | dbgIflush (c : SReg)
  /-- CTL_LEAD_WRITE (R336): Sets the job's lead bound, capped at 15, and re-evaluates the sideboard. -/
  | ctlLeadWrite (c : SReg)
  /-- SB_MEM_WRITE (R410): Changes the sideboard member mask, effective at the next evaluation. -/
  | sbMemWrite (i : Fin 8) (c : SReg)
  /-- DECREMENT_ARRIVAL (R44): A drawer decrement arrives at a core and is applied, dropped or forwarded. -/
  | decrementArrival (core : Nat)
  /-- WAIT_DEADLINE (R46): A drawer deadline passes, and the group wakes with TIMEOUT. -/
  | waitDeadline (group : Nat)
  /-- TASK_START (R48): Starts a fresh group from a task drawer once a position is free. -/
  | taskStart (core : Nat)
  /-- SWAP (R51): Swaps a blocked active group with the oldest ready pending group. -/
  | swapGroups (core slot : Nat)
  /-- PENDING_MOVE (R452): Moves a ready pending group into a free active position. -/
  | pendingMove (core slot : Nat)
  /-- AGED_PENDING_SWAP (R52): A pending group ready for 4096 clocks is swapped in. -/
  | agedPendingSwap (core slot : Nat)
  /-- SPLIT_MERGE (R39): Two splits with equal program counters merge at a clause start. -/
  | splitMerge (group : Nat)
  /-- DEFERRAL_STEP (R38): A split reaching a deferral merge point parks its lanes or pops the entry. -/
  | deferralStep (group split : Nat)
  /-- OPERATION_COMPLETE (R107): A long-latency operation completes and clears its share of the flag. -/
  | operationComplete (group op : Nat)
  /-- STORE_SEND (R207): The store buffer sends its oldest store toward its homes. -/
  | storeSend (group : Nat)
  /-- STORE_ACK (R207): A store acknowledgement reaches the core. -/
  | storeAck (group op : Nat)
  /-- GROUP_EXIT (R35): After the store drain, frees the group's resources. -/
  | groupExit (group : Nat)
  /-- MIGRATION_ARRIVAL (R66): The migrating group's message arrives at the target core. -/
  | migrationArrival (group : Nat)
  /-- NOTICE_ARRIVAL (R211): Write notices are folded into a core's signature and acknowledged. -/
  | noticeArrival (group core : Nat)
  /-- HOME_WRITE_MESSAGE (R218): A cross-die home write is applied at a die in clock order. -/
  | homeWriteMessage (die source : Nat)
  /-- ATOMIC_SERVICE (R248): The service group performs one queued request as a read-modify-write. -/
  | atomicService (cluster : Nat)
  /-- LOCK_REQUEST (R256): A lock request arrives at the home slice's bench. -/
  | lockRequest (group : Nat)
  /-- LOCK_RESEND (R256): Resends a request refused by a full bench every 1024 clocks. -/
  | lockResend (group : Nat)
  /-- LOCK_RELEASE (R257): A release arrives at the home, freeing the line or passing it to the head waiter. -/
  | lockRelease (slice : Nat)
  /-- LOCK_DEADLINE (R259): A lock waiter's deadline passes; it resumes with TIMEOUT and a report. -/
  | lockDeadline (group : Nat)
  /-- VERSION_STORE (R225): The version home handles a st.ver lane. -/
  | versionStore (home : Nat)
  /-- SLOT_FILL (R225): The hutches fill an opened slot from the newest sealed slot. -/
  | slotFill (home : Nat)
  /-- VERSION_SEAL (R226): The version home applies a seal, or parks and retries it. -/
  | versionSeal (home : Nat)
  /-- VERSION_LOAD (R227): The version home chooses and reads a sealed slot for ld.ver. -/
  | versionLoad (home : Nat)
  /-- STALENESS_TIMEOUT (R228): The staleness timeout ends a wait, held store or parked seal. -/
  | stalenessTimeout (home : Nat)
  /-- COLLAPSE (R222): The collapse engine collapses a replicated page on its first write. -/
  | collapsePage (page : Nat)
  /-- TRANSLATION_MISS (R372): A miss enters the slice's miss queue and is walked. -/
  | translationMiss (core : Nat)
  /-- WALK_COMPLETE (R371): A table walk ends with a mapping or a translation fault. -/
  | walkComplete (slice : Nat)
  /-- REWALK (R372): A replayable miss is walked again every 4096 clocks. -/
  | rewalk (slice : Nat)
  /-- MISS_TIMEOUT (R372): A miss parked beyond the staleness timeout becomes fatal. -/
  | missTimeout (slice : Nat)
  /-- FATAL_FAULT (R375): Runs the fatal path for the group and its team. -/
  | fatalFault (group : Nat)
  /-- DUMP (R377): The dump engine writes the team's dump once the previous dump of the job has finished. -/
  | dumpSection (job : Nat)
  /-- CANCEL_GRACE_EXPIRY (R59): The cancel grace expires and discards the open regions. -/
  | cancelGraceExpiry (team : Nat)
  /-- CANCEL_DISCARDING (R59): When every group has halted, frees resources and writes the CANCELLED record. -/
  | cancelDiscarding (team : Nat)
  /-- TEAM_PLACE (R346): The scheduler places a queued team on a cluster. -/
  | teamPlace
  /-- TEAM_RESTORE (R346): The scheduler restores a swapped team. -/
  | teamRestore
  /-- DISPLACEMENT_START (R348): Starts swapping out a committed set of resident teams. -/
  | displacementStart
  /-- SWAP_OUT (R373): Swaps a team out and writes its context image. -/
  | swapOut (team : Nat)
  /-- QUANTUM_EXPIRY (R64): A team's quantum expires, making it swappable. -/
  | quantumExpiry (team : Nat)
  /-- AGE_LIMIT_EXPIRY (R345): A ready queue unserved for its age limit rises to effective priority 8. -/
  | ageLimitExpiry (job : Nat)
  /-- PHASE_START (R340): Starts the next phase and submits its graphs. -/
  | phaseStart (job : Nat)
  /-- GRAPH_SUBMIT (R351): A waiting graph enters the walker when room frees. -/
  | graphSubmit
  /-- CONDITION_READ (R353): The walker reads a condition word and fires the chosen successor. -/
  | conditionRead (graph : Nat)
  /-- GRAB (R357): The command engine answers a range request with RANGE or EMPTY_POOL. -/
  | grabMessage (core : Nat)
  /-- RANGE (R357): A core installs a range granted from the pool. -/
  | rangeReply (core : Nat)
  /-- EMPTY_POOL (R357): A core receives the holder set and begins stealing. -/
  | emptyPool (core : Nat)
  /-- STEAL_MESSAGE (R357): A victim halves its range, or gives its spare, or answers NONE. -/
  | stealMessage (core : Nat)
  /-- GIVE (R357): The thief installs a stolen range as current or spare. -/
  | giveReply (core : Nat)
  /-- NONE (R357): A victim has nothing; the thief tries the next victim. -/
  | noneReply (core : Nat)
  /-- DRY (R357): The command engine removes a core from the holder set. -/
  | dryMessage (core : Nat)
  /-- RST_ARRIVAL (R286): An rst store arrives and is written, saved, forwarded or dropped. -/
  | rstArrival (m : Option RstMsg)
  /-- REMOTE_REQUEST (R395): The target performs a remote request under its own translation. -/
  | remoteRequest (m : RemoteReq)
  /-- REMOTE_RESPONSE (R393): The response to a remote request arrives and completes its lanes. -/
  | remoteResponse (m : RemoteResp)
  /-- REQUEST_TIMEOUT (R394): A request gets no response in 20 µs; the peer becomes ISOLATED. -/
  | requestTimeout (peer : Nat)
  /-- ISOLATED_EXPIRY (R394): One ms after isolation, the peer enters PROBING. -/
  | isolatedExpiry (peer : Nat)
  /-- PROBE_SEND (R394): Sends a class-0 probe every 100 µs. -/
  | probeSend (peer : Nat)
  /-- PROBE_ANSWER (R394): A probe answer arrives; the second in a row makes the peer UP. -/
  | probeAnswer (peer : Nat)
  /-- PROBE_TIMEOUT (R394): An unanswered probe returns the peer to ISOLATED. -/
  | probeTimeout (peer : Nat)
  /-- FLIT_CRC_FAIL (R390): Resends a failed flit from the replay buffer, marking the channel down after 8 failures in a row. -/
  | flitCrcFail (peer channel : Nat)
  /-- CHANNEL_RETRAINED (R390): A retrained channel rejoins the rotation at a message boundary. -/
  | channelRetrained (peer channel : Nat)
  /-- SIDEBOARD_SEND (R411): Sends the device's own entry every sb.absent/8. -/
  | sideboardSend (job : Nat)
  /-- SIDEBOARD_RECEIPT (R411): A received entry updates the sideboard and restarts the silence clock. -/
  | sideboardReceipt (job peer : Nat) (step : Word)
  /-- SILENCE_TIMEOUT (R413): A silent member is marked absent. -/
  | silenceTimeout (job peer : Nat)
  /-- CONTRIBUTION_SEND (R323): The collective engine reads and sends a contribution, keeping a retained copy. -/
  | contributionSend (die : Nat)
  /-- CONTRIBUTION_ARRIVAL (R404): The owner checks and classifies an arriving contribution. -/
  | contributionArrival (m : Option Contribution)
  /-- CLOSE_TIMER_EXPIRY (R405): The close timer expires, closing with status TIMER or SHORT. -/
  | closeTimerExpiry (chunk : Nat)
  /-- RESULT_ARRIVAL (R407): A member writes a delivered result and its record. -/
  | resultArrival (m : Option ResultMsg)
  /-- COLL_GET_LOST (R408): coll.get returns LOST when the owner becomes isolated or absent, or the 4 × timer expires. -/
  | collGetLost (group op : Nat)
  /-- RESEND (R408): Resends a retained copy marked RESEND once the owner is back. -/
  | resend (copy : Nat)
  /-- COPY_COMPLETE (R318): A copy operation completes and advances its timeline counter. -/
  | copyComplete (op : Nat)
  /-- HUTCH_ENQUEUE (R422): A handed-over hutch command enters its stack's queue, with slot choice. -/
  | hutchEnqueue (op : Nat)
  /-- FUPD (R420): Fused optimizer update per element. -/
  | hutchFupd (stack : Nat)
  /-- SCALE (R420): Scales D by k. -/
  | hutchScale (stack : Nat)
  /-- FADE (R420): Computes D·f − η·S with one rounding. -/
  | hutchFade (stack : Nat)
  /-- HUTCH_COPY (R420): Copies S to D bit for bit. -/
  | hutchCopy (stack : Nat)
  /-- CKSUM (R420): Computes a two-word checksum of D. -/
  | hutchCksum (stack : Nat)
  /-- MIRROR_SEND (R429): Sends a sealed frame to the partner on class 3. -/
  | mirrorSend
  /-- MIRROR_ARRIVAL (R429): The partner stores and seals the mirrored frame. -/
  | mirrorArrival (m : MirrorMsg)
  /-- SNAPSHOT_WRITE (R430): Writes a page image to board non-volatile memory. -/
  | snapshotWrite
  /-- FILL (R431): Fills a spare's versioned pages and reports READY. -/
  | fillPages (m : FillMove)
  /-- ADMIT (R338): Admits a job. -/
  | admitJob (h : HostTag) (record : List Byte)
  /-- WRITE (R338): Writes host bytes into the job's global space. -/
  | hostWrite (h : HostTag) (job : Nat) (addr : DWord) (bytes : List Byte)
  /-- PHASE (R338): Appends a phase to a job. -/
  | appendPhase (h : HostTag) (job : Nat) (addr : DWord)
  /-- CANCEL (R338): Cancels the objects started from a record. -/
  | cancelObject (h : HostTag) (job : Nat) (level : Level) (addr : DWord)
  /-- RETIRE (R338): Completes an idle job with DONE and frees its number. -/
  | retireJob (h : HostTag) (job : Nat)
  /-- REG_READ (R444): Returns a management register value. -/
  | regRead (h : HostTag) (off : DWord) (width : Word)
  /-- REG_WRITE (R444): Writes a management register that has no row of its own. -/
  | regWrite (h : HostTag) (off : DWord) (width : Word) (data : DWord)
  /-- IDENT (R444): Returns the identity record. -/
  | identMessage (h : HostTag)
  /-- ATTEST (R442): Returns a signed attestation report. -/
  | attestMessage (h : HostTag) (nonce : BitVec 256)
  /-- REPLY (R444): A reply from the board store to SNAP_WRITE or SNAP_READ arrives. -/
  | storeReply (m : StoreReply)
  /-- WARM (R437): START_CMD WARM runs a warm restart. -/
  | warmStart (h : HostTag)
  /-- COLD (R436): START_CMD COLD runs a cold start. -/
  | coldStart (h : HostTag)
  /-- FW_COMMIT (R439): Raises ROLLBACK to the running version. -/
  | fwCommit (h : HostTag)
  /-- START (R448): Starts monitor recording. -/
  | monStart (h : HostTag) (bits : Word)
  /-- STOP (R448): Stops monitor recording. -/
  | monStop (h : HostTag) (bits : Word)
  /-- FREEZE (R448): Copies the live monitor records into the window. -/
  | monFreeze (h : HostTag) (bits : Word)
  /-- CLEAR (R448): Zeroes the live monitor records and ECC_CE. -/
  | monClear (h : HostTag) (bits : Word)
  /-- HOST_PORTS_WRITE (R445): Renames the host ports after the reply has been sent. -/
  | hostPortsWrite (h : HostTag) (data : Word)
  /-- REMAP_WRITE (R388): Isolates the peer, installs the entry and starts probing. -/
  | remapWrite (h : HostTag) (peer : Nat) (data : RegData)
  /-- RESMAP_WRITE (R428): Checks and installs a resilience-map entry when its last 8 bytes are written. -/
  | resmapWrite (h : HostTag) (entry : Nat) (off : Nat) (width : Word) (data : DWord)
  /-- POWER_ON (R436): Power-on begins a cold start. -/
  | powerOn
  /-- FUSE (R436): Fuse reading completes and the start moves to SIGN. -/
  | fuseDone
  /-- SIGN (R439): The firmware check completes, passing or entering SECURE_HALT. -/
  | signDone (m : SignResult)
  /-- HBM (R436): HBM training or self-refresh exit completes. -/
  | hbmDone (m : HbmResult)
  /-- BIST (R30): Self-test completes and marks failed units disabled. -/
  | bistDone (m : BistResult)
  /-- FABRIC (R436): Link training completes and the device becomes READY. -/
  | fabricDone (m : FabricResult)
  /-- POWER_SAMPLE (R447): Measures package power every µs, raising the level when over the limit. -/
  | powerSample (m : RailSample)
  /-- LEVEL_FALL (R447): After 1 ms below 95 % of the limit, the level falls by one. -/
  | levelFall
  /-- CREDIT_GRANT (R403): A class credit returned by a receiver arrives, and the sender's engine sends the traffic it was keeping. -/
  | creditGrant (peer cls : Nat)
  /-- NOTICE_ACKNOWLEDGEMENT (R211): A core's acknowledgement of folded notices reaches the releasing group, letting the release perform its own write. -/
  | noticeAcknowledgement (group core : Nat)
  /-- PROBE_RECEIPT (R394): A class-0 probe from a peer arrives and is answered, in every peer state. -/
  | probeReceipt (peer : Nat)
  /-- IDENTITY_RECORD_ARRIVAL (R441): A peer's identity record arrives on class 0 and is kept for later MIRROR and HOLD map checks. -/
  | identityRecordArrival (peer : Nat) (record : List Byte)
  /-- HOLD_COPY_READ (R432): At the partner, a spare's class-3 read of a HOLD copy arrives and the newest sealed image is sent back. -/
  | holdCopyRead (m : HoldRead)
  /-- RESERVED_HOST_MESSAGE (R443): A host message with an unassigned kind, or a HOST_CMD with command code 5 to 255, arrives and is answered REJECTED. -/
  | reservedHostMessage (h : HostTag) (kind code : Nat)
  deriving DecidableEq, Repr

end Sys2Proof
end

