-- ==== Sys2Proof/Config.lean ====
section
/-! DEFINITION. What the spec leaves open, as constants with no body (log 2, 5, 8): whose move comes next, how many clocks a step takes, values nothing in the spec decides, and what is fused into or strapped onto one device. -/

namespace Sys2Proof

/-- A move: a split issues, a unit or the outside makes an event happen, or a host message comes in on a port (R41, R443, log 2). -/
inductive Move where
  | issue (group split : Nat)
  | event (i : Instr)
  | message (port : Nat) (bytes : List Byte)
  deriving Inhabited

namespace Config

/-- The move taken at a step of each number (log 2). -/
opaque nextMove : Nat → Move
/-- Clocks that pass in a step of each number (log 5). -/
opaque elapse : Nat → Nat
/-- A value the spec does not state, at a count (log 2). -/
opaque freeValue : Nat → BitVec 64
/-- The RSA-3072 signature by the device key over a digest (R442, log 8). -/
opaque sign : List Byte → BitVec 3072
/-- The digest fused at manufacture, which the signing key's modulus has to hash to (R439, log 8). -/
opaque keyHash : BitVec 256
/-- Fused serial number (R440, log 8). -/
opaque serial : BitVec 128
/-- Fused ROLLBACK value (R439, R449, log 8). -/
opaque rollback : Word
/-- Board straps (R440, R449, log 8). -/
opaque feed : Word
/-- The device's own place in the fabric, as an entry of the remap table would describe it (R387, log 8). -/
opaque self : Word
/-- Modulus of the device key (R440, log 8). -/
opaque deviceKey : BitVec 3072
/-- The maker's signature of the fused part (R440, log 8). -/
opaque makerSignature : BitVec 3072

end Config
end Sys2Proof
end

