-- ==== Sys2Proof/WellFormed.lean ====
section
/-! DEFINITION. The static checks of an instruction: operand kinds, alignment of register numbers, types, rounding codes and parts (R72, R79, R112 to R119, R145 to R191, R234 to R290). What fails one raises the illegal-instruction trap at the clause check (R122). -/

namespace Sys2Proof

/-- A 64-bit type (R116). -/
def Ty.is64 : Ty → Bool
  | .i64 | .w64 | .b64 => true
  | _ => false
/-- A 16-bit type, whose lane value is a packed pair (R145). -/
def Ty.is16 : Ty → Bool
  | .i16 | .w16 | .f16 | .bf16 => true
  | _ => false
/-- An 8-bit or 4-bit type. -/
def Ty.isNarrow : Ty → Bool
  | .e4m3 | .e5m2 | .e2m1 | .i8 | .w8 => true
  | _ => false
/-- A float type (R85). -/
def Ty.isFloat : Ty → Bool
  | .f32 | .f16 | .bf16 | .e4m3 | .e5m2 | .e2m1 => true
  | _ => false
/-- A raw-bits type (R84). -/
def Ty.isRaw : Ty → Bool
  | .b32 | .b64 => true
  | _ => false
/-- f32, f16 or bf16. -/
def Ty.isF : Ty → Bool
  | .f32 | .f16 | .bf16 => true
  | _ => false
/-- The integer types of row 0x0_ (R150). -/
def Ty.isInt : Ty → Bool
  | .i32 | .w32 | .i64 | .w64 | .i16 | .w16 => true
  | _ => false

/-- A scalar register. -/
def Reg.isS : Reg → Bool
  | .s _ => true
  | .v _ => false
/-- A vector register. -/
def Reg.isV (r : Reg) : Bool := !r.isS
/-- An operand that is a scalar register or a literal. -/
def Opd.isUniform : Opd → Bool
  | .reg r _ => r.isS
  | .lit _ => true
/-- A vector operand of `n` registers starts at a multiple of `n` and ends at or before v223 (R72); scalars are single. -/
def Reg.spans (n : Nat) : Reg → Bool
  | .s _ => true
  | .v k => decide (k.val % n = 0) && decide (k.val + n ≤ 224)
/-- As `Reg.spans`, for an operand. -/
def Opd.spans (n : Nat) : Opd → Bool
  | .reg r _ => r.spans n
  | .lit _ => true
/-- Registers a value of type `t` takes (R72). -/
def Ty.regs (t : Ty) : Nat := if t.is64 then 2 else 1

/-- A scalar destination takes scalar or literal sources only (R115, R146). -/
def scalarForm (d : Reg) (uniform : Bool) : Bool := d.isV || uniform
/-- `.lo` and `.hi` go with a 16-bit type (R145). -/
def partOk (t : Ty) (p : Part) : Bool := p == .full || t.is16
/-- Only a float type takes a rounding code (R117, R150). -/
def rndOk (t : Ty) (r : Rnd) : Bool := t.isFloat || r == .rne

/-- Rows of operands a, b: `types` allowed, widths by the type. -/
def Bin.ok (types : Ty → Bool) (sat rnds parts : Bool) (f : Bin) : Bool :=
  types f.ty && (sat || !f.sat) && (if rnds then rndOk f.ty f.rnd else f.rnd == .rne) &&
  (if parts then partOk f.ty f.part else f.part == .full) &&
  f.d.spans f.ty.regs && f.a.reg.spans f.ty.regs && f.b.spans f.ty.regs && scalarForm f.d (f.a.reg.isS && f.b.isUniform)
/-- As `Bin.ok`, with operand c. -/
def Tri.ok (types : Ty → Bool) (sat rnds parts : Bool) (f : Tri) : Bool :=
  types f.ty && (sat || !f.sat) && (if rnds then rndOk f.ty f.rnd else f.rnd == .rne) &&
  (if parts then partOk f.ty f.part else f.part == .full) &&
  f.d.spans f.ty.regs && f.a.reg.spans f.ty.regs && f.b.spans f.ty.regs && f.c.reg.spans f.ty.regs &&
  scalarForm f.d (f.a.reg.isS && f.b.isUniform && f.c.reg.isS)
/-- Unary instructions (R147). -/
def Un.ok (types : Ty → Bool) (sat rnds parts : Bool) (dregs : Nat) (f : Un) : Bool :=
  types f.ty && (sat || !f.sat) && (if rnds then rndOk f.ty f.rnd else f.rnd == .rne) &&
  (if parts then partOk f.ty f.part else f.part == .full) &&
  f.d.spans dregs && f.a.spans f.ty.regs && scalarForm f.d f.a.isUniform

/-- The types of `add` (R150). -/
def tAdd (t : Ty) : Bool := t.isInt || t.isF
/-- The types of `abs` and `neg` (R150). -/
def tAbs : Ty → Bool
  | .i32 | .i64 | .i16 | .f32 | .f16 | .bf16 => true
  | _ => false
/-- The types of `mulhi` (R150). -/
def tWide : Ty → Bool
  | .i32 | .w32 | .i64 | .w64 => true
  | _ => false
/-- Shifts: the amount is one 32-bit register (R156). -/
def Bin.okShift (types : Ty → Bool) (f : Bin) : Bool :=
  types f.ty && !f.sat && f.rnd == .rne && f.part == .full && f.d.spans f.ty.regs && f.a.reg.spans f.ty.regs &&
  scalarForm f.d (f.a.reg.isS && f.b.isUniform)

/-- Types `cvt` converts between (R163). -/
def tCvt (t : Ty) : Bool := !t.isRaw
/-- The element index of a source (R163). -/
def cvtIndex (s : Ty) (e : Nat) : Bool :=
  if s.is16 then decide (e < 2) else if s == .e2m1 then true else if s.isNarrow then decide (e < 4) else e == 0
/-- `cvt` (R163, R164). -/
def cvtOk (f : Un) (s : Ty) (e : Nat) : Bool :=
  tCvt f.ty && tCvt s && cvtIndex s e && (f.ty.isFloat || s.isFloat || f.rnd == .rne) && partOk f.ty f.part &&
  f.d.spans f.ty.regs && f.a.spans s.regs && scalarForm f.d f.a.isUniform
/-- `cvt.pk` (R165). -/
def cvtPkOk (f : Bin) (s : Ty) : Bool :=
  (s == .f32 || s == .i32 || s == .w32) &&
  ((f.part == .full && (f.ty == .f16 || f.ty == .bf16 || f.ty == .i16 || f.ty == .w16)) ||
   (f.part != .full && (f.ty == .e4m3 || f.ty == .e5m2 || f.ty == .i8 || f.ty == .w8))) &&
  (f.ty.isFloat || s.isFloat || f.rnd == .rne) && f.d.isV
/-- Elements a lane holds of a block-scaled format (R96, R166). -/
def bsN (t : Ty) : Nat := if t == .e2m1 then 8 else 4
/-- A vector register's number, or 0. -/
def Reg.num : Reg → Nat
  | .v n => n.val
  | .s n => n.val
/-- What `bs.pack` and `bs.unpack` share (R166, R167): types, and base. -/
def bsShared (f : Bs) : Bool :=
  (f.ty == .e4m3 || f.ty == .e5m2 || f.ty == .e2m1) && f.base.toNat % bsN f.ty == 0 && decide (f.base.toNat + bsN f.ty ≤ 128) &&
  f.d.isV && f.a.reg.isV && f.vs.reg.isV
/-- `bs.pack` (R166). -/
def bsPackOk (f : Bs) : Bool :=
  bsShared f && f.a.reg.spans (bsN f.ty) && f.vs.reg.num != f.d.num &&
  !(decide (f.a.reg.num ≤ f.vs.reg.num) && decide (f.vs.reg.num < f.a.reg.num + bsN f.ty))
/-- `bs.unpack` (R167). The registers that vs must avoid are here the packed source and the results (log 96). -/
def bsUnpackOk (f : Bs) : Bool :=
  bsShared f && f.d.spans (bsN f.ty) && f.vs.reg.num != f.a.reg.num &&
  !(decide (f.d.num ≤ f.vs.reg.num) && decide (f.vs.reg.num < f.d.num + bsN f.ty))

/-- `cmp` (R168). -/
def CmpF.ok (f : CmpF) : Bool :=
  (match f.cond with
   | .eq | .ne => tAdd f.ty || f.ty.isRaw
   | .lt | .le | .gt | .ge => tAdd f.ty
   | .ord | .uno => f.ty.isF
   | .tst => f.ty.isRaw) &&
  (if f.ty.is16 then f.part != .full else f.part == .full) && f.a.reg.spans f.ty.regs && f.b.spans f.ty.regs
/-- `class` (R170). -/
def ClassF.ok (f : ClassF) : Bool :=
  f.ty.isFloat && (if f.ty.is16 then f.part != .full else f.part == .full)
/-- Shuffles (R173). -/
def Shfl.ok (idx : Bool) (f : Shfl) : Bool :=
  f.ty.isRaw && f.d.isV && f.d.spans f.ty.regs && f.a.reg.spans f.ty.regs && (idx || f.b.isUniform)
/-- Lane reductions and scans (R174). `.sat` is taken with `add` of every type, f32 among them (log 94). -/
def RedF.ok (rdc : Bool) (f : RedF) : Bool :=
  (match f.op with
   | .add | .min | .max => f.ty == .i32 || f.ty == .w32 || f.ty == .f32
   | _ => f.ty == .b32) &&
  ((f.ty == .f32 && f.op == .add) || f.rnd == .rne) && (!f.sat || f.op == .add) && (rdc || f.d.isV)
/-- The scalar or literal that names a lane (R179). -/
def laneOk (f : Bin) : Bool := f.ty.isRaw && !f.sat && f.rnd == .rne && f.part == .full && f.b.isUniform

/-- A reuse bit stands on a register operand only (R118); offset kinds of rows 0x6_ to 0x8_ (R234). -/
def MOff.ok : MOff → Bool
  | .none r => !r
  | _ => true
/-- okind 1 or 2 (R269, R274, R284). -/
def MOff.isCount : MOff → Bool
  | .sc _ _ | .lit _ => true
  | _ => false
/-- okind 1, 2 or 3 (R242, R245). -/
def MOff.isUniform : MOff → Bool
  | .vec _ _ => false
  | m => m.ok
/-- Registers of an access size (R72, R240). -/
def Size.regs : Size → Nat
  | .b32 => 1
  | .b64 => 2
  | .b128 => 4
/-- Bytes of an access size (R234). -/
def Size.bytes : Size → Nat
  | .b32 => 4
  | .b64 => 8
  | .b128 => 16
/-- A data operand: vector registers, or a scalar for `.b32` and `.b64` (R240). -/
def dataOk (z : Size) (r : Reg) : Bool := r.spans z.regs && (r.isV || z != .b128)
/-- A destination in a global or window load (R242). -/
def LdF.okDest (f : LdF) : Bool := f.d.spans f.size.regs && (f.d.isV || (f.size != .b128 && f.a.reg.isS && f.off.isUniform))
/-- `ld` (R235, R240, R242). -/
def LdF.ok (f : LdF) : Bool := f.okDest && f.a.reg.spans 2 && f.off.ok
/-- `ld.sp` (R235, R240): a vector base is one register; the destination is a vector. -/
def LdF.okSp (f : LdF) : Bool := f.d.isV && f.d.spans f.size.regs && f.off.ok && f.pol == .l1
/-- `st`, `st.ver` (R240, R244). -/
def StF.ok (f : StF) : Bool := dataOk f.size f.c.reg && f.a.reg.spans 2 && f.off.ok
/-- `st.sp` (R240). -/
def StF.okSp (f : StF) : Bool := dataOk f.size f.c.reg && f.off.ok
/-- Types of an atomic operation (R250). -/
def atomTy (op : AtomOp) (t : Ty) : Bool :=
  match op with
  | .add | .min | .max => t == .i32 || t == .w32 || t == .i64 || t == .w64 || t == .f32
  | _ => t.isRaw
/-- The data operand of an atomic (R250). -/
def atomData (op : AtomOp) (t : Ty) (r : Reg) : Bool :=
  if op == .cas then r.isV && r.spans (2 * t.regs) else r.spans t.regs
/-- The address of a remote access: an even vector pair or a scalar (R277). -/
def MOff.isAddr : MOff → Bool
  | .vec r _ => decide (r.val % 2 = 0)
  | .sc _ _ => true
  | _ => false
/-- `atom` (R250). -/
def AtomF.ok (f : AtomF) : Bool :=
  atomTy f.op f.ty && atomData f.op f.ty f.c.reg && f.d.isV && f.d.spans f.ty.regs && f.a.reg.spans 2 && f.off.ok
/-- `ra.atom` (R277). -/
def AtomF.okRemote (f : AtomF) : Bool :=
  atomTy f.op f.ty && atomData f.op f.ty f.c.reg && f.d.isV && f.d.spans f.ty.regs && f.off.isAddr
/-- Operations 0 to 5 (R252). -/
def AtomOp.isRed : AtomOp → Bool
  | .exch | .cas => false
  | _ => true
/-- A timeout literal of at most `2^24` in bits 24:0 (R254). -/
def timeoutOk : Option Word → Bool
  | none => true
  | some t => decide (t.toNat ≤ 2 ^ 24)
/-- A deadline literal of `step.adv`: bits 24:0, with bits 31:25 equal to 0 (R326). -/
def deadlineOk : Option Word → Bool
  | none => true
  | some t => decide (t.toNat < 2 ^ 25)

/-- Control registers and their access (R21, R68, R94, R131, R243, R281, R336, R366, R399). -/
inductive CtlKind where
  | ro32 | ro64 | rw32 | rw64 | wo64 | lane32
  deriving DecidableEq, Repr

/-- The register a number names (R335). -/
def ctlKind (n : Nat) : Option CtlKind :=
  if n = 0 then some .lane32
  else if n ≤ 6 then some .ro32
  else if 0x10 ≤ n && n ≤ 0x13 then some .ro64
  else if n = 0x20 || n = 0x21 then some .rw64
  else if 0x30 ≤ n && n ≤ 0x37 then some .rw64
  else if n = 0x38 then some .wo64
  else if n = 0x40 then some .rw64
  else if n = 0x41 then some .ro64
  else if n = 0x50 then some .ro32
  else if n = 0x60 then some .ro32
  else if n = 0x61 then some .rw32
  else if n = 0x62 then some .ro32
  else if n = 0x70 || n = 0x71 then some .wo64
  else if 0x80 ≤ n && n ≤ 0x87 then some .rw64
  else if n = 0x88 then some .rw32
  else if 0x90 ≤ n && n ≤ 0x97 then some .ro64
  else if n = 0x98 then some .ro64
  else none

/-- Numbers whose write is a row of its own in the opcode table (R131, R336, R366, R410). -/
def ownWrite (n : Nat) : Bool := n == 0x38 || n == 0x61 || n == 0x71 || (decide (0x80 ≤ n) && decide (n ≤ 0x87))

/-- `sys.rd` (R335): a per-lane register goes to a vector, a 64-bit register to a pair. -/
def sysRdOk (d : Reg) (n : Nat) : Bool :=
  match ctlKind n with
  | none => false
  | some .lane32 => d.isV
  | some .ro64 | some .rw64 | some .wo64 => d.spans 2
  | some _ => true
/-- `sys.wr` (R335). The per-lane register `id.lane` is refused at the clause check, as R335 has it (log 91). -/
def sysWrOk (n : Nat) : Bool :=
  match ctlKind n with
  | none | some .lane32 => false
  | some _ => !ownWrite n

/-- Types of `acc.ld` and `acc.st` (R290). -/
def AccMemF.okLd (f : AccMemF) : Bool := f.ty.isF && f.rnd == .rne && !f.sat
/-- `acc.st` (R304): with f32 it does not round. -/
def AccMemF.okSt (f : AccMemF) : Bool := f.ty.isF && (f.ty != .f32 || f.rnd == .rne)
/-- `acc.mov` (R305). -/
def AccMovF.ok (toVec : Bool) (f : AccMovF) : Bool :=
  decide (f.log2n.toNat ≤ 5) && decide (f.j0.val + 2 ^ f.log2n.toNat ≤ 32) && decide (f.v.val + 2 ^ f.log2n.toNat ≤ 224) && (!toVec || !f.reuse)
/-- A table of `lut3` depends on an operand: some bits of it `sh` apart differ. An operand without that is not read and may be any register (R155). -/
def lutDep (t : BitVec 8) (sh : Nat) (ks : List Nat) : Bool := ks.any fun k => t.getLsbD k != t.getLsbD (k + sh)
/-- The table depends on operand a (R155). -/
def lutA (t : BitVec 8) : Bool := lutDep t 4 [0, 1, 2, 3]
/-- The table depends on operand b (R155). -/
def lutB (t : BitVec 8) : Bool := lutDep t 2 [0, 1, 4, 5]
/-- The table depends on operand c (R155). -/
def lutC (t : BitVec 8) : Bool := lutDep t 1 [0, 2, 4, 6]
/-- The pairs that take `.bs` (R297). -/
def MmaPair.scaled : MmaPair → Bool
  | .bf16 | .f16 => false
  | _ => true

/-- Whether an instruction of code may stand in a clause; for an event, whether its selectors name units that exist. -/
def Instr.wf : Instr → Bool
  | .nop | .haltShort | .retShort | .yieldShort | .mergeWait | .halt _ | .yield | .rgn _ | .xacq _ | .xrel _ => true
  | .brk span _ => decide (1 ≤ span) && decide (span ≤ 3)
  | .addI32Short f | .subI32Short f | .addF32Short f | .mulF32Short f | .shlB32Short f | .shrB32Short f
  | .andB32Short f | .orB32Short f | .xorB32Short f => scalarForm f.d (f.a.isS && f.b.isS)
  | .movB32Short d a => scalarForm d a.isS
  | .add f | .sub f | .mul f => f.ok tAdd true true true
  | .mulhi f => f.ok tWide false false false
  | .mad f => f.ok Ty.isInt true false true
  | .divstep f => f.ty == .w32 && !f.sat && f.rnd == .rne && f.part == .full && f.d.spans 2 && f.a.reg.spans 2 && scalarForm f.d (f.a.reg.isS && f.b.isUniform)
  | .min f | .max f => f.ok tAdd false false true
  | .abs f | .neg f => f.ok tAbs (!f.ty.isFloat) false true f.ty.regs
  | .addc f _ | .subb f _ => f.ok (· == .w32) false false false && f.d.isV
  | .lut3 f => scalarForm f.d ((f.a.reg.isS || !lutA f.table) && (f.b.isUniform || !lutB f.table) && (f.c.reg.isS || !lutC f.table))
  | .shl f | .shr f | .rot f => f.okShift Ty.isRaw
  | .sra f => f.okShift (fun t => t == .i32 || t == .i64)
  | .popc f | .clz f => f.ok Ty.isRaw false false false 1
  | .bfe f => f.ok (fun t => t == .i32 || t == .w32) false false false
  | .bfi f | .bperm f => f.ok (· == .b32) false false false
  | .brev f => f.ok Ty.isRaw false false false f.ty.regs
  | .fma f => f.ok Ty.isF true true true
  | .rcp f | .rsq f | .sqrt f | .exp2 f | .log2 f | .tanh f => f.ok Ty.isF true true true 1
  | .cvt f s e => cvtOk f s e.val
  | .cvtPk f s => cvtPkOk f s
  | .bsPack f => bsPackOk f
  | .bsUnpack f => bsUnpackOk f
  | .cmp f => f.ok
  | .sel f _ => f.ok Ty.isRaw false false false
  | .classOf f => f.ok
  | .shflIdx f => f.ok true
  | .shflUp f | .shflDn f | .shflXor f => f.ok false
  | .scan f | .scanx f => f.ok false
  | .rdc f => f.ok true
  | .sort f _ => f.ok (fun t => t == .i32 || t == .w32 || t == .f32) false false false 2 && f.d.isV
  | .vote _ _ _ _ => true
  | .ballot _ _ _ _ => true
  | .rnd _ _ d a b => d.isV && d.spans 2 && a.reg.isS && b.spans 2
  | .mov f => f.ok Ty.isRaw false false false f.ty.regs
  | .rdlane f => laneOk f && f.d.isS && f.a.reg.isV && f.a.reg.spans f.ty.regs
  | .wrlane f => laneOk f && f.d.isV && f.d.spans f.ty.regs && f.a.reg.isS
  | .plog _ => true
  | .ptov _ _ d _ => d.isV
  | .vtop _ _ _ => true
  | .ld f => f.ok
  | .st f => f.ok
  | .ldSp f => f.okSp
  | .stSp f => f.okSp
  | .ldVer f => f.d.isV && f.d.spans f.size.regs && f.a.reg.spans 2 && f.off.ok && f.sm.reg.isS
  | .stVer f => f.ok
  | .sealVer a off => a.reg.isS && off.isUniform
  | .ldRag f => f.d.isV && f.d.spans f.size.regs && f.a.reg.isS && (match f.row with | .none _ => false | _ => true)
  | .atom f => f.ok
  | .red f => atomTy f.op f.ty && f.op.isRed && f.c.reg.spans f.ty.regs && f.a.reg.spans 2 && f.off.ok
  | .redAddCf32 f => f.a.reg.spans 2 && f.off.ok
  | .lk f => f.d.isS && f.a.reg.isS && timeoutOk f.t
  | .lktry f => f.d.isS && f.a.reg.isS && f.t == none
  | .unlk a => a.reg.isS
  | .fence _ _ => true
  | .bar | .barWait => true
  | .arriveN n | .arriveNNw n => n.isCount
  | .waitCtr _ a c _ => a.reg.isS && c.reg.isS
  | .post _ a c n => a.reg.isS && c.reg.isS && n.isCount
  | .dcnt _ _ n => (match n with | .none _ => false | _ => true)
  | .raLd f => f.d.isV && f.d.spans f.size.regs && f.off.isAddr
  | .raSt f => dataOk f.size f.c.reg && f.off.isAddr
  | .raAtom f => f.okRemote
  | .raRed f => atomTy f.op f.ty && f.op.isRed && f.c.reg.spans f.ty.regs && f.off.isAddr
  | .rst _ a _ b => a.reg.isS && (match b with | .none _ => false | _ => true)
  | .hold _ n => n.isCount
  | .nameGet _ | .nameFree => true
  | .mres _ m => (match m with | .lit w => decide (w.toNat < 2 ^ 16) | .sc _ => true)
  | .mrel _ => true
  | .mma f => f.desc.val % 2 == 0 && (!f.bs || f.pair.scaled) && (f.shape.isSome || (!f.one && !f.ninf))
  | .accLd f => f.okLd
  | .accSt f => f.okSt
  | .accZero _ _ => true
  | .accMovToVec f => f.ok true
  | .accMovToTile f => f.ok false
  | .osmUpd f => f.d.val % 2 == 0 && (!f.oEn || f.sTile != f.oTile)
  | .osmFin _ _ _ _ => true
  | .ragRdc f => (match f.op with | .add | .min | .max => f.ty == .i32 || f.ty == .w32 || f.ty == .f32 | _ => f.ty == .b32) && (f.seq || !f.pn.en)
  | .ragNorm _ | .shLd _ _ | .shChk _ _ => true
  | .cp _ => true
  | .cpGather f => f.desc.val % 2 == 0 && (f.dir == .g2w || f.dir == .g2g)
  | .tlRd _ _ | .tlWait _ _ => true
  | .tlRdErr d _ => d.val % 2 == 0
  | .collPut _ _ _ | .collQuorum _ _ | .collClose _ _ | .collGet _ _ _ _ | .stepRd _ _ | .take _ _ | .steal _ | .gwLaunch _ _ | .mig _ _ | .migNear _ _ => true
  | .stepAdv _ t => deadlineOk t
  | .hcmd _ sn => sn.val % 4 == 0
  | .sysRd d n => sysRdOk d n.toNat
  | .sysWr n _ => sysWrOk n.toNat
  | .trapCode _ => true
  | .bra _ _ _ => true
  | .brd _ _ _ => true
  | .call link _ => link.spans 2
  | .ret link => link.spans 2
  | .jmp t _ => t.spans 2
  | .xltInv _ | .dbgIflush _ | .ctlLeadWrite _ | .sbMemWrite _ _ => true
  | .decrementArrival c | .taskStart c | .translationMiss c | .grabMessage c | .rangeReply c | .emptyPool c | .stealMessage c | .giveReply c | .noneReply c | .dryMessage c => decide (c < 512)
  | .swapGroups c s | .pendingMove c s | .agedPendingSwap c s => decide (c < 512) && decide (s < 4)
  | .noticeArrival _ c | .noticeAcknowledgement _ c => decide (c < 512)
  | .homeWriteMessage d e => decide (d < 4) && decide (e < 4)
  | .atomicService c => decide (c < 128)
  | .lockRelease s | .walkComplete s | .rewalk s | .missTimeout s => decide (s < 512)
  | .contributionSend d => decide (d < 4)
  | .hutchFupd k | .hutchScale k | .hutchFade k | .hutchCopy k | .hutchCksum k => decide (k < 8)
  | .requestTimeout p | .isolatedExpiry p | .probeSend p | .probeAnswer p | .probeTimeout p | .probeReceipt p => decide (p < 512)
  | .flitCrcFail p c | .channelRetrained p c => decide (p < 512) && decide (c < 8)
  | .creditGrant p c => decide (p < 512) && decide (c < 4)
  | .pendingTrapTake _ | .trapActResume | .trapActSkip | .trapActHalt | .waitDeadline _ | .splitMerge _ | .deferralStep _ _ | .operationComplete _ _
  | .storeSend _ | .storeAck _ _ | .groupExit _ | .migrationArrival _ | .lockRequest _ | .lockResend _ | .lockDeadline _
  | .versionStore _ | .slotFill _ | .versionSeal _ | .versionLoad _ | .stalenessTimeout _ | .collapsePage _ | .fatalFault _ | .dumpSection _
  | .cancelGraceExpiry _ | .cancelDiscarding _ | .teamPlace | .teamRestore | .displacementStart | .swapOut _ | .quantumExpiry _ | .ageLimitExpiry _
  | .phaseStart _ | .graphSubmit | .conditionRead _ | .rstArrival _ | .remoteRequest _ | .remoteResponse _ | .sideboardSend _ | .sideboardReceipt _ _ _
  | .silenceTimeout _ _ | .contributionArrival _ | .closeTimerExpiry _ | .resultArrival _ | .collGetLost _ _ | .resend _ | .copyComplete _ | .hutchEnqueue _
  | .mirrorSend | .mirrorArrival _ | .snapshotWrite | .fillPages _ | .admitJob _ _ | .hostWrite _ _ _ _ | .appendPhase _ _ _ | .cancelObject _ _ _ _ | .retireJob _ _
  | .regRead _ _ _ | .regWrite _ _ _ _ | .identMessage _ | .attestMessage _ _ | .storeReply _ | .warmStart _ | .coldStart _ | .fwCommit _ | .monStart _ _ | .monStop _ _
  | .monFreeze _ _ | .monClear _ _ | .hostPortsWrite _ _ | .remapWrite _ _ _ | .resmapWrite _ _ _ _ _ | .powerOn | .fuseDone | .signDone _ | .hbmDone _ | .bistDone _
  | .fabricDone _ | .powerSample _ | .levelFall | .identityRecordArrival _ _ | .holdCopyRead _ | .reservedHostMessage _ _ _ => true

end Sys2Proof
end

