-- ==== Sys2Proof/Decode.lean ====
section
/-! DEFINITION. Decoding (R110 to R121, R234, R290) and encoding. The words of an instruction become its fields; the fields become an instruction, which is kept only if the same fields encode it, so that a reserved field that is not zero is refused (R2, R122). -/

namespace Sys2Proof

/-- Why words are no instruction; each raises the illegal-instruction trap (R122). -/
inductive Reject where
  | truncated | headerMarker | badCont | reservedOpcode | reservedField | notAllowed
  deriving DecidableEq, Repr, Inhabited

/-- The fields of the 64-bit and 96-bit formats (R112, R113). -/
structure Long where
  op : BitVec 8
  guard : BitVec 5 := 0
  mod : BitVec 3 := 0
  sub : BitVec 4 := 0
  sat : Bool := false
  tr : Bool := false
  d : BitVec 8 := 0
  a : BitVec 8 := 0
  b : BitVec 8 := 0
  c : BitVec 8 := 0
  ra : Bool := false
  rb : Bool := false
  rc : Bool := false
  aux : BitVec 3 := 0
  lit : Option Word := none
  deriving DecidableEq, Repr

/-- The fields of an instruction: short (R111) or long. -/
inductive Fields where
  | short (op : BitVec 6) (d a b : BitVec 8)
  | long (f : Long)
  deriving DecidableEq, Repr

/-! Words and fields. -/

/-- One bit as a word of one bit. -/
def bit1 (b : Bool) : BitVec 1 := BitVec.ofBool b

/-- Word 0 of a long format (R112). -/
def Long.word0 (f : Long) : Word :=
  f.d ++ bit1 f.tr ++ bit1 f.sat ++ f.sub ++ f.mod ++ f.guard ++ f.op ++ (if f.lit.isSome then 0b11#2 else 0b10#2)

/-- Word 1 of a long format (R112). -/
def Long.word1 (f : Long) : Word :=
  f.aux ++ bit1 f.rc ++ bit1 f.rb ++ bit1 f.ra ++ f.c ++ f.b ++ f.a ++ 0b11#2

/-- The words of the fields. -/
def Fields.words : Fields → List Word
  | .short op d a b => [b ++ a ++ d ++ op ++ 0b01#2]
  | .long f => f.word0 :: f.word1 :: f.lit.toList

/-- The fields of words 0 and 1. -/
def Long.ofWords (w0 w1 : Word) (lit : Option Word) : Long where
  op := w0.extractLsb' 2 8
  guard := w0.extractLsb' 10 5
  mod := w0.extractLsb' 15 3
  sub := w0.extractLsb' 18 4
  sat := w0.getLsbD 22
  tr := w0.getLsbD 23
  d := w0.extractLsb' 24 8
  a := w1.extractLsb' 2 8
  b := w1.extractLsb' 10 8
  c := w1.extractLsb' 18 8
  ra := w1.getLsbD 26
  rb := w1.getLsbD 27
  rc := w1.getLsbD 28
  aux := w1.extractLsb' 29 3
  lit := lit

/-- The fields at the head of a list of words (R110). -/
def Fields.ofWords : List Word → Except Reject Fields
  | [] => .error .truncated
  | w0 :: rest =>
    match (w0.extractLsb' 0 2).toNat with
    | 0 => .error .headerMarker
    | 1 => .ok (.short (w0.extractLsb' 2 6) (w0.extractLsb' 8 8) (w0.extractLsb' 16 8) (w0.extractLsb' 24 8))
    | 2 =>
      match rest with
      | w1 :: _ => if w1.extractLsb' 0 2 = 0b11#2 then .ok (.long (Long.ofWords w0 w1 none)) else .error .badCont
      | [] => .error .truncated
    | _ =>
      match rest with
      | w1 :: l :: _ => if w1.extractLsb' 0 2 = 0b11#2 then .ok (.long (Long.ofWords w0 w1 (some l))) else .error .badCont
      | _ => .error .truncated

/-! Codes of operands and modifiers. -/

/-- Operand code of a register (R115). -/
def Reg.code : Reg → BitVec 8
  | .v n => BitVec.ofNat 8 n.val
  | .s n => BitVec.ofNat 8 (224 + n.val)
/-- The register an operand code names (R115). -/
def Reg.ofCode (c : BitVec 8) : Reg :=
  if h : c.toNat < 224 then .v ⟨c.toNat, h⟩ else .s ⟨c.toNat - 224, by omega⟩
/-- Operand code of a scalar register. -/
def sCode (n : SReg) : BitVec 8 := BitVec.ofNat 8 (224 + n.val)
/-- A number held in the low bits of a field. -/
def low (n : Nat) (c : BitVec 8) [NeZero n] : Fin n := Fin.ofNat n c.toNat
/-- The scalar a field names. -/
def sOf (c : BitVec 8) : SReg := low 32 c
/-- The vector a field names. -/
def vOf (c : BitVec 8) : VReg := low 224 c
/-- A number as a field. -/
def num8 (n : Nat) : BitVec 8 := BitVec.ofNat 8 n

/-- Type code (R116). -/
def Ty.code : Ty → BitVec 4
  | .i32 => 0 | .w32 => 1 | .i64 => 2 | .w64 => 3 | .f32 => 4 | .f16 => 5 | .bf16 => 6 | .e4m3 => 7
  | .e5m2 => 8 | .e2m1 => 9 | .b32 => 10 | .i16 => 11 | .w16 => 12 | .i8 => 13 | .w8 => 14 | .b64 => 15
/-- The type of a number (R116). -/
def Ty.byNum : Nat → Ty
  | 0 => .i32 | 1 => .w32 | 2 => .i64 | 3 => .w64 | 4 => .f32 | 5 => .f16 | 6 => .bf16 | 7 => .e4m3
  | 8 => .e5m2 | 9 => .e2m1 | 10 => .b32 | 11 => .i16 | 12 => .w16 | 13 => .i8 | 14 => .w8 | _ => .b64
/-- The type of a code. -/
def Ty.ofCode (c : BitVec 4) : Ty := Ty.byNum c.toNat
/-- Rounding code (R117). -/
def Rnd.code : Rnd → BitVec 3
  | .rne => 0 | .rtz => 1 | .rtp => 2 | .rtn => 3 | .rsd => 4
/-- The rounding of a code; a reserved code gives `rne`, which does not encode back. -/
def Rnd.ofCode (c : BitVec 3) : Rnd :=
  match c.toNat with
  | 1 => .rtz | 2 => .rtp | 3 => .rtn | 4 => .rsd | _ => .rne
/-- Code of `aux` in compute rows (R112). -/
def Part.code : Part → BitVec 3
  | .full => 0 | .lo => 1 | .hi => 2
/-- The part of a code. -/
def Part.ofCode (c : BitVec 3) : Part :=
  match c.toNat with
  | 1 => .lo | 2 => .hi | _ => .full
/-- Guard field (R112, R118). -/
def guardCode : Option Guard → BitVec 5
  | none => 0
  | some g => 1#1 ++ bit1 g.neg ++ BitVec.ofNat 3 g.p.val
/-- The guard of a field. -/
def guardOf (c : BitVec 5) : Option Guard :=
  if c.getLsbD 4 then some { neg := c.getLsbD 3, p := Fin.ofNat 8 (c.extractLsb' 0 3).toNat } else none
/-- A predicate code field with its enable at bit 3 (R173, R254, R277). -/
def PSel.code (p : PSel) : BitVec 8 := 0#4 ++ bit1 p.en ++ BitVec.ofNat 3 p.p.val
/-- The predicate of such a field. -/
def PSel.ofCode (c : BitVec 8) : PSel := { en := c.getLsbD 3, p := Fin.ofNat 8 c.toNat }
/-- Condition code (R168). -/
def Cond.code : Cond → BitVec 4
  | .eq => 0 | .ne => 1 | .lt => 2 | .le => 3 | .gt => 4 | .ge => 5 | .ord => 6 | .uno => 7 | .tst => 8
/-- The condition of a code. -/
def Cond.byNum : Nat → Cond
  | 0 => .eq | 1 => .ne | 2 => .lt | 3 => .le | 4 => .gt | 5 => .ge | 6 => .ord | 7 => .uno | _ => .tst
/-- Combination code (R168). -/
def Comb.code : Comb → BitVec 4
  | .set => 0 | .and => 1 | .or => 2
/-- The combination of a code. -/
def Comb.byNum : Nat → Comb
  | 0 => .set | 1 => .and | _ => .or
/-- Reduction code (R174). -/
def RedOp.num : RedOp → Nat
  | .add => 0 | .min => 1 | .max => 2 | .and => 3 | .or => 4 | .xor => 5
/-- The reduction of a code. -/
def RedOp.byNum : Nat → RedOp
  | 0 => .add | 1 => .min | 2 => .max | 3 => .and | 4 => .or | _ => .xor
/-- Vote mode code (R176). -/
def VoteMode.num : VoteMode → Nat
  | .all => 0 | .any => 1 | .uni => 2
/-- The vote mode of a code. -/
def VoteMode.byNum : Nat → VoteMode
  | 0 => .all | 1 => .any | _ => .uni
/-- Size code (R234). -/
def Size.code : Size → BitVec 4
  | .b32 => 0 | .b64 => 1 | .b128 => 2
/-- The size of a code. -/
def Size.ofCode (c : BitVec 4) : Size :=
  match c.toNat with
  | 0 => .b32 | 1 => .b64 | _ => .b128
/-- Policy code (R240). -/
def Policy.code : Policy → BitVec 3
  | .l1 => 0 | .thru => 1 | .stream => 2
/-- The policy of a code. -/
def Policy.ofCode (c : BitVec 3) : Policy :=
  match c.toNat with
  | 0 => .l1 | 1 => .thru | _ => .stream
/-- Atomic operation code (R250). -/
def AtomOp.num : AtomOp → Nat
  | .add => 0 | .min => 1 | .max => 2 | .and => 3 | .or => 4 | .xor => 5 | .exch => 6 | .cas => 7
/-- The atomic operation of a code. -/
def AtomOp.byNum : Nat → AtomOp
  | 0 => .add | 1 => .min | 2 => .max | 3 => .and | 4 => .or | 5 => .xor | 6 => .exch | _ => .cas
/-- Fence semantics code (R265). -/
def FenceSem.code : FenceSem → BitVec 3
  | .acq => 1 | .rel => 2 | .ar => 3
/-- The fence semantics of a code. -/
def FenceSem.ofCode (c : BitVec 3) : FenceSem :=
  match c.toNat with
  | 1 => .acq | 2 => .rel | _ => .ar
/-- Scope code (R265). -/
def Scope.code : Scope → BitVec 4
  | .grp => 0 | .team => 1 | .die => 2 | .dev => 3 | .pod => 4
/-- The scope of a code. -/
def Scope.ofCode (c : BitVec 4) : Scope :=
  match c.toNat with
  | 0 => .grp | 1 => .team | 2 => .die | 3 => .dev | _ => .pod
/-- Format pair code, without `.bs` (R297). -/
def MmaPair.num : MmaPair → Nat
  | .bf16 => 0 | .f16 => 1 | .e4e4 => 2 | .e4e5 => 3 | .e5e4 => 4 | .e5e5 => 5 | .e2e2 => 6
/-- The format pair of a code. -/
def MmaPair.byNum : Nat → MmaPair
  | 0 => .bf16 | 1 => .f16 | 2 => .e4e4 | 3 => .e4e5 | 4 => .e5e4 | 5 => .e5e5 | _ => .e2e2
/-- Copy direction code (R316). -/
def CopyDir.code : CopyDir → BitVec 3
  | .g2w => 0 | .w2g => 1 | .g2g => 2 | .w2w => 3
/-- The copy direction of a code. -/
def CopyDir.ofCode (c : BitVec 3) : CopyDir :=
  match c.toNat with
  | 0 => .g2w | 1 => .w2g | 2 => .g2g | _ => .w2w

/-! Operand b and operand a as fields (R113, R234, R290). -/

/-- Field, reuse bit and literal of operand b. -/
def Opd.field : Opd → BitVec 8
  | .reg r _ => r.code
  | .lit _ => 0
/-- The reuse bit of an operand. -/
def Opd.reuse : Opd → Bool
  | .reg _ u => u
  | .lit _ => false
/-- The literal of an operand. -/
def Opd.litOf : Opd → Option Word
  | .reg _ _ => none
  | .lit w => some w
/-- The operand of a field, its reuse bit and the literal. -/
def Opd.of (c : BitVec 8) (u : Bool) : Option Word → Opd
  | none => .reg (Reg.ofCode c) u
  | some w => .lit w
/-- The register operand of a field and its reuse bit. -/
def regOpd (c : BitVec 8) (u : Bool) : RegOpd := { reg := Reg.ofCode c, reuse := u }
/-- okind (R234). -/
def MOff.kind : MOff → BitVec 3
  | .vec _ _ => 0 | .sc _ _ => 1 | .lit _ => 2 | .none _ => 3
/-- Field b of an offset. -/
def MOff.field : MOff → BitVec 8
  | .vec r _ => BitVec.ofNat 8 r.val
  | .sc r _ => sCode r
  | _ => 0
/-- The reuse bit of an offset. -/
def MOff.reuse : MOff → Bool
  | .vec _ u | .sc _ u | .none u => u
  | .lit _ => false
/-- The literal of an offset. -/
def MOff.litOf : MOff → Option Word
  | .lit w => some w
  | _ => Option.none
/-- The offset of okind, field, reuse bit and literal. -/
def MOff.of (k : BitVec 3) (c : BitVec 8) (u : Bool) (l : Option Word) : MOff :=
  match (k.extractLsb' 0 2).toNat, l with
  | 0, _ => .vec (vOf c) u
  | 1, _ => .sc (sOf c) u
  | 2, some w => .lit w
  | _, _ => .none u
/-- Field b of an S/L operand. -/
def SL.field : SL → BitVec 8
  | .sc r => sCode r
  | .lit _ => 0
/-- The literal of an S/L operand. -/
def SL.litOf : SL → Option Word
  | .sc _ => none
  | .lit w => some w
/-- The S/L operand of a field and literal. -/
def SL.of (c : BitVec 8) : Option Word → SL
  | none => .sc (sOf c)
  | some w => .lit w
/-- A table in bits 22:15 (R155, R171). -/
def tableOf (f : Long) : BitVec 8 := bit1 f.sat ++ f.sub ++ f.mod
/-- The branch offset in bits 63:34 (R114). -/
def offOf (f : Long) : BitVec 30 := f.aux ++ bit1 f.rc ++ bit1 f.rb ++ bit1 f.ra ++ f.c ++ f.b ++ f.a
/-- A branch offset put into its fields. -/
def Long.withOff (f : Long) (o : BitVec 30) : Long :=
  { f with aux := o.extractLsb' 27 3, rc := o.getLsbD 26, rb := o.getLsbD 25, ra := o.getLsbD 24, c := o.extractLsb' 16 8, b := o.extractLsb' 8 8, a := o.extractLsb' 0 8 }
/-- A 16-bit number in bits 49:34 (R335). -/
def numOf (f : Long) : Half := f.b ++ f.a
/-- An optional S destination (R290). -/
def sdOf (c : BitVec 8) : Option SReg := if c = 0 then none else some (sOf c)
/-- The field of an optional S destination. -/
def sdCode : Option SReg → BitVec 8
  | none => 0
  | some s => sCode s

/-! Instructions to fields. -/

/-- Fields of a unary compute instruction. -/
def Un.fields (op : BitVec 8) (f : Un) : Long :=
  { op, guard := guardCode f.g, mod := f.rnd.code, sub := f.ty.code, sat := f.sat, tr := f.tr, d := f.d.code, a := f.a.field, ra := f.a.reuse, aux := f.part.code, lit := f.a.litOf }
/-- A unary compute instruction of fields. -/
def Un.ofFields (f : Long) : Un :=
  { g := guardOf f.guard, tr := f.tr, sat := f.sat, ty := Ty.ofCode f.sub, rnd := Rnd.ofCode f.mod, part := Part.ofCode f.aux, d := Reg.ofCode f.d, a := Opd.of f.a f.ra f.lit }
/-- Fields of a compute instruction of operands a and b. -/
def Bin.fields (op : BitVec 8) (f : Bin) : Long :=
  { op, guard := guardCode f.g, mod := f.rnd.code, sub := f.ty.code, sat := f.sat, tr := f.tr, d := f.d.code, a := f.a.reg.code, ra := f.a.reuse, b := f.b.field, rb := f.b.reuse, aux := f.part.code, lit := f.b.litOf }
/-- A compute instruction of operands a and b of fields. -/
def Bin.ofFields (f : Long) : Bin :=
  { g := guardOf f.guard, tr := f.tr, sat := f.sat, ty := Ty.ofCode f.sub, rnd := Rnd.ofCode f.mod, part := Part.ofCode f.aux, d := Reg.ofCode f.d, a := regOpd f.a f.ra, b := Opd.of f.b f.rb f.lit }
/-- Fields of a compute instruction of operands a, b and c. -/
def Tri.fields (op : BitVec 8) (f : Tri) : Long :=
  { op, guard := guardCode f.g, mod := f.rnd.code, sub := f.ty.code, sat := f.sat, tr := f.tr, d := f.d.code, a := f.a.reg.code, ra := f.a.reuse, b := f.b.field, rb := f.b.reuse, c := f.c.reg.code, rc := f.c.reuse, aux := f.part.code, lit := f.b.litOf }
/-- A compute instruction of operands a, b and c of fields. -/
def Tri.ofFields (f : Long) : Tri :=
  { g := guardOf f.guard, tr := f.tr, sat := f.sat, ty := Ty.ofCode f.sub, rnd := Rnd.ofCode f.mod, part := Part.ofCode f.aux, d := Reg.ofCode f.d, a := regOpd f.a f.ra, b := Opd.of f.b f.rb f.lit, c := regOpd f.c f.rc }
/-- Fields of `bs.pack` and `bs.unpack` (R166). -/
def Bs.fields (op : BitVec 8) (f : Bs) : Long :=
  { op, guard := guardCode f.g, mod := f.rnd.code, sub := f.ty.code, sat := f.sat, tr := f.tr, d := f.d.code, a := f.a.reg.code, ra := f.a.reuse, b := f.vs.reg.code, rb := f.vs.reuse, c := f.base }
/-- `bs.pack` or `bs.unpack` of fields. -/
def Bs.ofFields (f : Long) : Bs :=
  { g := guardOf f.guard, tr := f.tr, sat := f.sat, ty := Ty.ofCode f.sub, rnd := Rnd.ofCode f.mod, d := Reg.ofCode f.d, a := regOpd f.a f.ra, vs := regOpd f.b f.rb, base := f.c }
/-- Fields of `cmp` (R168). -/
def CmpF.fields (f : CmpF) : Long :=
  { op := 0x34, guard := guardCode f.g, sub := f.ty.code, d := num8 f.pd.val, a := f.a.reg.code, ra := f.a.reuse, b := f.b.field, rb := f.b.reuse, c := f.comb.code ++ f.cond.code, aux := f.part.code, lit := f.b.litOf }
/-- `cmp` of fields. -/
def CmpF.ofFields (f : Long) : CmpF :=
  { g := guardOf f.guard, ty := Ty.ofCode f.sub, part := Part.ofCode f.aux, cond := Cond.byNum (f.c.extractLsb' 0 4).toNat, comb := Comb.byNum (f.c.extractLsb' 4 4).toNat, pd := low 8 f.d, a := regOpd f.a f.ra, b := Opd.of f.b f.rb f.lit }
/-- Fields of `class` (R170). -/
def ClassF.fields (f : ClassF) : Long :=
  { op := 0x36, guard := guardCode f.g, sub := f.ty.code, d := num8 f.pd.val, a := f.a.field, ra := f.a.reuse, c := f.mask, aux := f.part.code, lit := f.a.litOf }
/-- `class` of fields. -/
def ClassF.ofFields (f : Long) : ClassF :=
  { g := guardOf f.guard, ty := Ty.ofCode f.sub, part := Part.ofCode f.aux, pd := low 8 f.d, a := Opd.of f.a f.ra f.lit, mask := f.c }
/-- Fields of a shuffle (R173). -/
def Shfl.fields (op : BitVec 8) (f : Shfl) : Long :=
  { op, guard := guardCode f.g, tr := f.tr, sub := f.ty.code, d := f.d.code, a := f.a.reg.code, ra := f.a.reuse, b := f.b.field, rb := f.b.reuse, c := f.pn.code, lit := f.b.litOf }
/-- A shuffle of fields. -/
def Shfl.ofFields (f : Long) : Shfl :=
  { g := guardOf f.guard, tr := f.tr, ty := Ty.ofCode f.sub, d := Reg.ofCode f.d, a := regOpd f.a f.ra, b := Opd.of f.b f.rb f.lit, pn := PSel.ofCode f.c }
/-- Fields of `scan`, `scanx`, `rdc` (R174). -/
def RedF.fields (op : BitVec 8) (f : RedF) : Long :=
  { op, guard := guardCode f.g, tr := f.tr, sat := f.sat, sub := f.ty.code, mod := f.rnd.code, d := f.d.code, a := f.a.field, ra := f.a.reuse, c := num8 f.op.num, lit := f.a.litOf }
/-- `scan`, `scanx` or `rdc` of fields. -/
def RedF.ofFields (f : Long) : RedF :=
  { g := guardOf f.guard, tr := f.tr, sat := f.sat, ty := Ty.ofCode f.sub, rnd := Rnd.ofCode f.mod, op := RedOp.byNum f.c.toNat, d := Reg.ofCode f.d, a := Opd.of f.a f.ra f.lit }
/-- Puts an offset into field b, okind, reuse and literal (R234). -/
def Long.withMOff (f : Long) (m : MOff) : Long :=
  { f with aux := f.aux ||| m.kind, b := m.field, rb := m.reuse, lit := m.litOf }
/-- The offset of a long format. -/
def mOffOf (f : Long) : MOff := MOff.of f.aux f.b f.rb f.lit
/-- Fields of a store (R240, R244, R277). -/
def StF.fields (op : BitVec 8) (f : StF) : Long :=
  ({ op, guard := guardCode f.g, sub := f.size.code, a := f.a.reg.code, ra := f.a.reuse, c := f.c.reg.code, rc := f.c.reuse } : Long).withMOff f.off
/-- A store of fields. -/
def StF.ofFields (f : Long) : StF :=
  { g := guardOf f.guard, size := Size.ofCode f.sub, a := regOpd f.a f.ra, off := mOffOf f, c := regOpd f.c f.rc }
/-- Fields of a load (R240). -/
def LdF.fields (op : BitVec 8) (f : LdF) : Long :=
  ({ op, guard := guardCode f.g, sub := f.size.code, mod := f.pol.code, d := f.d.code, a := f.a.reg.code, ra := f.a.reuse } : Long).withMOff f.off
/-- A load of fields. -/
def LdF.ofFields (f : Long) : LdF :=
  { g := guardOf f.guard, size := Size.ofCode f.sub, pol := Policy.ofCode f.mod, d := Reg.ofCode f.d, a := regOpd f.a f.ra, off := mOffOf f }
/-- Fields of an atomic with return (R250, R277). -/
def AtomF.fields (op : BitVec 8) (f : AtomF) : Long :=
  ({ op, guard := guardCode f.g, sub := f.ty.code, mod := BitVec.ofNat 3 f.op.num, d := f.d.code, a := f.a.reg.code, ra := f.a.reuse, c := f.c.reg.code, rc := f.c.reuse } : Long).withMOff f.off
/-- An atomic with return of fields. -/
def AtomF.ofFields (f : Long) : AtomF :=
  { g := guardOf f.guard, ty := Ty.ofCode f.sub, op := AtomOp.byNum f.mod.toNat, d := Reg.ofCode f.d, a := regOpd f.a f.ra, off := mOffOf f, c := regOpd f.c f.rc }
/-- Fields of an atomic without return; `nr` is bit 63 (R234, R252, R277). -/
def RedMemF.fields (op : BitVec 8) (nr : BitVec 3) (f : RedMemF) : Long :=
  ({ op, guard := guardCode f.g, sub := f.ty.code, mod := BitVec.ofNat 3 f.op.num, a := f.a.reg.code, ra := f.a.reuse, c := f.c.reg.code, rc := f.c.reuse, aux := nr } : Long).withMOff f.off
/-- An atomic without return of fields. -/
def RedMemF.ofFields (f : Long) : RedMemF :=
  { g := guardOf f.guard, ty := Ty.ofCode f.sub, op := AtomOp.byNum f.mod.toNat, a := regOpd f.a f.ra, off := mOffOf f, c := regOpd f.c f.rc }
/-- Fields of `lk` and `lktry` (R254). -/
def LkF.fields (op : BitVec 8) (f : LkF) : Long :=
  { op, d := f.d.code, a := f.a.reg.code, ra := f.a.reuse, c := f.pd.code, aux := 3, lit := f.t }
/-- `lk` or `lktry` of fields. -/
def LkF.ofFields (f : Long) : LkF := { d := Reg.ofCode f.d, pd := PSel.ofCode f.c, a := regOpd f.a f.ra, t := f.lit }
/-- Fields of `acc.ld` and `acc.st` but for the tile (R290). -/
def AccMemF.fields (op : BitVec 8) (f : AccMemF) : Long :=
  { op, guard := guardCode f.g, sub := f.ty.code, mod := f.rnd.code, sat := f.sat, a := sCode f.base, b := f.pitch.field, aux := if f.sp then 1 else 0, lit := f.pitch.litOf }
/-- `acc.ld` or `acc.st` of fields and the field of the tile. -/
def AccMemF.ofFields (f : Long) (tile : BitVec 8) : AccMemF :=
  { g := guardOf f.guard, tile := low 16 tile, base := sOf f.a, pitch := SL.of f.b f.lit, ty := Ty.ofCode f.sub, rnd := Rnd.ofCode f.mod, sat := f.sat, sp := f.aux.getLsbD 0 }
/-- A code of `shn` and `.one` (R246, R290). -/
def shCode (sh : ShapeNo) (one : Bool) : BitVec 8 := 0#5 ++ bit1 one ++ BitVec.ofNat 2 sh.val

/-- The fields of an instruction of code; events have none. -/
def Instr.fields : Instr → Option Fields
  | .nop => some (.short 0x00 0 0 0)
  | .brk span tag => some (.short 0x01 (tag.extractLsb' 0 6 ++ BitVec.ofNat 2 span) (tag.extractLsb' 6 8) (tag.extractLsb' 14 8))
  | .addI32Short f => some (.short 0x02 f.d.code f.a.code f.b.code)
  | .subI32Short f => some (.short 0x03 f.d.code f.a.code f.b.code)
  | .andB32Short f => some (.short 0x04 f.d.code f.a.code f.b.code)
  | .orB32Short f => some (.short 0x05 f.d.code f.a.code f.b.code)
  | .xorB32Short f => some (.short 0x06 f.d.code f.a.code f.b.code)
  | .movB32Short d a => some (.short 0x07 d.code a.code 0)
  | .addF32Short f => some (.short 0x08 f.d.code f.a.code f.b.code)
  | .mulF32Short f => some (.short 0x09 f.d.code f.a.code f.b.code)
  | .shlB32Short f => some (.short 0x0A f.d.code f.a.code f.b.code)
  | .shrB32Short f => some (.short 0x0B f.d.code f.a.code f.b.code)
  | .haltShort => some (.short 0x0C 0 0 0)
  | .retShort => some (.short 0x0D 0 0 0)
  | .yieldShort => some (.short 0x0E 0 0 0)
  | .add f => some (.long (f.fields 0x00))
  | .sub f => some (.long (f.fields 0x01))
  | .mul f => some (.long (f.fields 0x02))
  | .mulhi f => some (.long (f.fields 0x03))
  | .mad f => some (.long (f.fields 0x04))
  | .divstep f => some (.long (f.fields 0x05))
  | .min f => some (.long (f.fields 0x06))
  | .max f => some (.long (f.fields 0x07))
  | .abs f => some (.long (f.fields 0x08))
  | .neg f => some (.long (f.fields 0x09))
  | .addc f pn => some (.long { f.fields 0x0A with c := num8 pn.val })
  | .subb f pn => some (.long { f.fields 0x0B with c := num8 pn.val })
  | .lut3 f => some (.long { op := 0x10, guard := guardCode f.g, tr := f.tr, sat := f.table.getLsbD 7, sub := f.table.extractLsb' 3 4, mod := f.table.extractLsb' 0 3, d := f.d.code, a := f.a.reg.code, ra := f.a.reuse, b := f.b.field, rb := f.b.reuse, c := f.c.reg.code, rc := f.c.reuse, lit := f.b.litOf })
  | .shl f => some (.long (f.fields 0x11))
  | .shr f => some (.long (f.fields 0x12))
  | .sra f => some (.long (f.fields 0x13))
  | .rot f => some (.long (f.fields 0x14))
  | .popc f => some (.long (f.fields 0x15))
  | .clz f => some (.long (f.fields 0x16))
  | .bfe f => some (.long (f.fields 0x17))
  | .bfi f => some (.long (f.fields 0x18))
  | .brev f => some (.long (f.fields 0x19))
  | .bperm f => some (.long (f.fields 0x1A))
  | .fma f => some (.long (f.fields 0x20))
  | .rcp f => some (.long (f.fields 0x21))
  | .rsq f => some (.long (f.fields 0x22))
  | .sqrt f => some (.long (f.fields 0x23))
  | .exp2 f => some (.long (f.fields 0x24))
  | .log2 f => some (.long (f.fields 0x25))
  | .tanh f => some (.long (f.fields 0x26))
  | .cvt f s e => some (.long { f.fields 0x30 with c := 0#1 ++ BitVec.ofNat 3 e.val ++ s.code })
  | .cvtPk f s => some (.long { f.fields 0x31 with c := 0#4 ++ s.code })
  | .bsPack f => some (.long (f.fields 0x32))
  | .bsUnpack f => some (.long (f.fields 0x33))
  | .cmp f => some (.long f.fields)
  | .sel f pn => some (.long { f.fields 0x35 with c := num8 pn.val })
  | .classOf f => some (.long f.fields)
  | .shflIdx f => some (.long (f.fields 0x40))
  | .shflUp f => some (.long (f.fields 0x41))
  | .shflDn f => some (.long (f.fields 0x42))
  | .shflXor f => some (.long (f.fields 0x43))
  | .scan f => some (.long (f.fields 0x44))
  | .scanx f => some (.long (f.fields 0x45))
  | .rdc f => some (.long (f.fields 0x46))
  | .sort f down => some (.long { f.fields 0x47 with c := num8 down.toNat })
  | .vote g mode pd pa => some (.long { op := 0x48, guard := guardCode g, d := num8 pd.val, a := num8 pa.val, c := num8 mode.num })
  | .ballot g tr d pa => some (.long { op := 0x49, guard := guardCode g, tr, d := d.code, a := num8 pa.val })
  | .rnd g tr d a b => some (.long { op := 0x4A, guard := guardCode g, tr, sub := 15, d := d.code, a := a.reg.code, ra := a.reuse, b := b.field, rb := b.reuse, lit := b.litOf })
  | .mov f => some (.long (f.fields 0x50))
  | .rdlane f => some (.long (f.fields 0x51))
  | .wrlane f => some (.long (f.fields 0x52))
  | .plog f => some (.long { op := 0x53, guard := guardCode f.g, sat := f.table.getLsbD 7, sub := f.table.extractLsb' 3 4, mod := f.table.extractLsb' 0 3, d := num8 f.pd.val, a := num8 f.pa.val, b := num8 f.pb.val, c := num8 f.pc.val })
  | .ptov g tr d pa => some (.long { op := 0x54, guard := guardCode g, tr, d := d.code, a := num8 pa.val })
  | .vtop g pd a => some (.long { op := 0x55, guard := guardCode g, d := num8 pd.val, a := a.field, ra := a.reuse, lit := a.litOf })
  | .ld f => some (.long (f.fields 0x60))
  | .st f => some (.long (f.fields 0x61))
  | .ldSp f => some (.long (f.fields 0x62))
  | .stSp f => some (.long (f.fields 0x63))
  | .ldVer f => some (.long (({ op := 0x64, guard := guardCode f.g, sub := f.size.code, d := f.d.code, a := f.a.reg.code, ra := f.a.reuse, c := f.sm.reg.code, rc := f.sm.reuse } : Long).withMOff f.off))
  | .stVer f => some (.long (f.fields 0x65))
  | .sealVer a off => some (.long (({ op := 0x66, a := a.reg.code, ra := a.reuse } : Long).withMOff off))
  | .ldRag f => some (.long (({ op := 0x67, guard := guardCode f.g, sub := f.size.code, mod := f.pol.code, d := f.d.code, a := f.a.reg.code, ra := f.a.reuse, c := shCode f.sh f.one } : Long).withMOff f.row))
  | .atom f => some (.long (f.fields 0x70))
  | .red f => some (.long (f.fields 0x71 0))
  | .redAddCf32 f => some (.long (({ op := 0x72, guard := guardCode f.g, a := f.a.reg.code, ra := f.a.reuse, c := f.c.reg.code, rc := f.c.reuse } : Long).withMOff f.off))
  | .lk f => some (.long (f.fields 0x73))
  | .lktry f => some (.long (f.fields 0x74))
  | .unlk a => some (.long { op := 0x75, a := a.reg.code, ra := a.reuse, aux := 3 })
  | .fence sem scope => some (.long { op := 0x76, sub := scope.code, mod := sem.code, aux := 3 })
  | .bar => some (.long { op := 0x77, aux := 3 })
  | .barWait => some (.long { op := 0x77, mod := 1, aux := 3 })
  | .arriveN n => some (.long (({ op := 0x78 } : Long).withMOff n))
  | .arriveNNw n => some (.long (({ op := 0x78, mod := 1 } : Long).withMOff n))
  | .waitCtr d a c t => some (.long { op := 0x79, d := sCode d, a := a.reg.code, ra := a.reuse, c := c.reg.code, rc := c.reuse, aux := 3, lit := t })
  | .post d a c n => some (.long (({ op := 0x7A, d := sCode d, a := a.reg.code, ra := a.reuse, c := c.reg.code, rc := c.reuse } : Long).withMOff n))
  | .dcnt g a n => some (.long (({ op := 0x7B, guard := guardCode g, a := a.reg.code, ra := a.reuse } : Long).withMOff n))
  | .raLd f => some (.long (({ op := 0x80, guard := guardCode f.g, sub := f.size.code, d := f.d.code, a := f.a.reg.code, ra := f.a.reuse, c := f.pn.code } : Long).withMOff f.off))
  | .raSt f => some (.long (f.fields 0x81))
  | .raAtom f => some (.long (f.fields 0x82))
  | .raRed f => some (.long (f.fields 0x82 4))
  | .rst g a vt b => some (.long (({ op := 0x83, guard := guardCode g, a := a.reg.code, ra := a.reuse, c := num8 vt.val } : Long).withMOff b))
  | .hold vr n => some (.long (({ op := 0x84, a := num8 vr.val } : Long).withMOff n))
  | .nameGet d => some (.long { op := 0x85, d := sCode d, aux := 3 })
  | .nameFree => some (.long { op := 0x86, aux := 3 })
  | .mres pd m => some (.long { op := 0xA0, d := num8 pd.val, b := m.field, lit := m.litOf })
  | .mrel m => some (.long { op := 0xA1, b := m.field, lit := m.litOf })
  | .mma f => some (.long { op := 0xA2, guard := guardCode f.g, d := num8 f.tile.val, a := sCode f.a, b := sCode f.b, c := sCode f.desc, sub := BitVec.ofNat 4 (f.pair.num + if f.bs then 6 else 0), mod := (match f.shape with | none => 0 | some m => BitVec.ofNat 3 (4 + m.val)), aux := bit1 f.wa ++ bit1 f.ninf ++ bit1 f.one, sat := f.rb })
  | .accLd f => some (.long { f.fields 0xA3 with d := num8 f.tile.val })
  | .accSt f => some (.long { f.fields 0xA4 with c := num8 f.tile.val })
  | .accZero g tile => some (.long { op := 0xA5, guard := guardCode g, d := num8 tile.val })
  | .accMovToVec f => some (.long { op := 0xA6, guard := guardCode f.g, d := num8 f.v.val, a := num8 f.tile.val, c := num8 f.j0.val, sub := f.log2n })
  | .accMovToTile f => some (.long { op := 0xA6, guard := guardCode f.g, mod := 1, d := num8 f.tile.val, a := num8 f.v.val, ra := f.reuse, c := num8 f.j0.val, sub := f.log2n })
  | .osmUpd f => some (.long { op := 0xA7, guard := guardCode f.g, sub := 4, d := num8 f.d.val, a := num8 f.sTile.val, c := 0#3 ++ bit1 f.oEn ++ BitVec.ofNat 4 f.oTile.val })
  | .osmFin g tile a reuse => some (.long { op := 0xA8, guard := guardCode g, sub := 4, d := num8 tile.val, a := num8 a.val, ra := reuse })
  | .ragRdc f => some (.long { op := 0xA9, guard := guardCode f.g, sub := f.ty.code, mod := BitVec.ofNat 3 f.op.num, d := num8 f.d.val, a := num8 f.a.val, ra := f.reuse, b := f.row0.field, c := BitVec.ofNat 3 f.pn.p.val ++ bit1 f.pn.en ++ bit1 f.seq ++ bit1 f.one ++ BitVec.ofNat 2 f.sh.val, lit := f.row0.litOf })
  | .ragNorm f => some (.long { op := 0xAA, guard := guardCode f.g, sub := 4, d := num8 f.d.val, a := num8 f.a.val, ra := f.reuse, b := f.row0.field, c := shCode f.sh f.one, lit := f.row0.litOf })
  | .shLd sh a => some (.long { op := 0xAB, d := num8 sh.val, a := sCode a })
  | .shChk pd sh => some (.long { op := 0xAC, d := num8 pd.val, c := num8 sh.val })
  | .cp f => some (.long { op := 0xB0, d := sdCode f.d, a := sCode f.dst, b := f.len.field, c := sCode f.src, sub := BitVec.ofNat 4 f.tl.val, mod := f.dir.code, lit := f.len.litOf })
  | .cpGather f => some (.long { op := 0xB1, d := sdCode f.d, a := sCode f.dst, b := sCode f.src, c := sCode f.desc, sub := BitVec.ofNat 4 f.tl.val, mod := f.dir.code })
  | .tlRd d tl => some (.long { op := 0xB2, d := sCode d, sub := BitVec.ofNat 4 tl.val })
  | .tlRdErr d tl => some (.long { op := 0xB2, mod := 1, d := sCode d, sub := BitVec.ofNat 4 tl.val })
  | .tlWait tl n => some (.long { op := 0xB3, sub := BitVec.ofNat 4 tl.val, b := n.field, lit := n.litOf })
  | .collPut a k src => some (.long { op := 0xB4, a := sCode a, b := k.field, c := sCode src, lit := k.litOf })
  | .collQuorum a q => some (.long { op := 0xB5, a := sCode a, b := q.field, lit := q.litOf })
  | .collClose a k => some (.long { op := 0xB6, a := sCode a, b := k.field, lit := k.litOf })
  | .collGet d a k dst => some (.long { op := 0xB7, d := sCode d, a := sCode a, b := k.field, c := sCode dst, lit := k.litOf })
  | .stepAdv d t => some (.long { op := 0xB8, d := sCode d, lit := t })
  | .stepRd d p => some (.long { op := 0xB9, d := sCode d, b := p.field, lit := p.litOf })
  | .hcmd tl sn => some (.long { op := 0xBA, a := sCode sn, sub := BitVec.ofNat 4 tl.val })
  | .take d n => some (.long { op := 0xBB, d := sCode d, b := n.field, lit := n.litOf })
  | .steal k => some (.long { op := 0xBC, b := k.field, lit := k.litOf })
  | .gwLaunch d a => some (.long { op := 0xBD, d := sCode d, a := sCode a })
  | .mig d k => some (.long { op := 0xBE, d := sCode d, b := k.field, lit := k.litOf })
  | .migNear d a => some (.long { op := 0xBE, mod := 1, d := sCode d, a := sCode a })
  | .sysRd d n => some (.long { op := 0xC0, d := d.code, a := n.extractLsb' 0 8, b := n.extractLsb' 8 8 })
  | .sysWr n c => some (.long { op := 0xC1, a := n.extractLsb' 0 8, b := n.extractLsb' 8 8, c := sCode c })
  | .xltInv c => some (.long { op := 0xC1, a := 0x71, c := sCode c })
  | .dbgIflush c => some (.long { op := 0xC1, a := 0x38, c := sCode c })
  | .ctlLeadWrite c => some (.long { op := 0xC1, a := 0x61, c := sCode c })
  | .sbMemWrite i c => some (.long { op := 0xC1, a := BitVec.ofNat 8 (0x80 + i.val), c := sCode c })
  | .trapCode n => some (.long { op := 0xC2, a := n.extractLsb' 0 8, b := n.extractLsb' 8 8 })
  | .bra g all off => some (.long (({ op := 0xD0, guard := guardCode g, mod := if all then 1 else 0 } : Long).withOff off))
  | .brd g off m => some (.long (({ op := 0xD1, guard := guardCode g, lit := m } : Long).withOff off))
  | .mergeWait => some (.long { op := 0xD2 })
  | .call link off => some (.long (({ op := 0xD3, d := link.code } : Long).withOff off))
  | .ret link => some (.long { op := 0xD4, a := link.code })
  | .jmp t off => some (.long (({ op := 0xD5, d := t.code } : Long).withOff off))
  | .rgn f => some (.long (({ op := 0xD6, d := f.smask.extractLsb' 24 8, tr := f.xmask.getLsbD 5, sat := f.xmask.getLsbD 4, sub := f.xmask.extractLsb' 0 4, mod := f.pmask.extractLsb' 5 3, guard := f.pmask.extractLsb' 0 5, lit := some f.vmask } : Long).withOff (f.smask.extractLsb' 0 24 ++ 0#6)))
  | .xacq n => some (.long { op := 0xD7, a := n })
  | .xrel n => some (.long { op := 0xD8, a := n })
  | .halt g => some (.long { op := 0xD9, guard := guardCode g })
  | .yield => some (.long { op := 0xDA })
  | _ => none

/-! Fields to instructions. -/

/-- The instruction of a short form (R120). -/
def Instr.ofShort (op : BitVec 6) (d a b : BitVec 8) : Option Instr :=
  let f : Short3 := { d := Reg.ofCode d, a := Reg.ofCode a, b := Reg.ofCode b }
  match op.toNat with
  | 0x00 => some .nop
  | 0x01 => some (.brk (d.extractLsb' 0 2).toNat (b ++ a ++ d.extractLsb' 2 6))
  | 0x02 => some (.addI32Short f)
  | 0x03 => some (.subI32Short f)
  | 0x04 => some (.andB32Short f)
  | 0x05 => some (.orB32Short f)
  | 0x06 => some (.xorB32Short f)
  | 0x07 => some (.movB32Short f.d f.a)
  | 0x08 => some (.addF32Short f)
  | 0x09 => some (.mulF32Short f)
  | 0x0A => some (.shlB32Short f)
  | 0x0B => some (.shrB32Short f)
  | 0x0C => some .haltShort
  | 0x0D => some .retShort
  | 0x0E => some .yieldShort
  | _ => none

/-- Rows 0x0_ to 0x5_ (R121). -/
def Instr.ofCompute (f : Long) : Option Instr :=
  match f.op.toNat with
  | 0x00 => some (.add (Bin.ofFields f))
  | 0x01 => some (.sub (Bin.ofFields f))
  | 0x02 => some (.mul (Bin.ofFields f))
  | 0x03 => some (.mulhi (Bin.ofFields f))
  | 0x04 => some (.mad (Tri.ofFields f))
  | 0x05 => some (.divstep (Bin.ofFields f))
  | 0x06 => some (.min (Bin.ofFields f))
  | 0x07 => some (.max (Bin.ofFields f))
  | 0x08 => some (.abs (Un.ofFields f))
  | 0x09 => some (.neg (Un.ofFields f))
  | 0x0A => some (.addc (Bin.ofFields f) (low 8 f.c))
  | 0x0B => some (.subb (Bin.ofFields f) (low 8 f.c))
  | 0x10 => some (.lut3 { g := guardOf f.guard, tr := f.tr, table := tableOf f, d := Reg.ofCode f.d, a := regOpd f.a f.ra, b := Opd.of f.b f.rb f.lit, c := regOpd f.c f.rc })
  | 0x11 => some (.shl (Bin.ofFields f))
  | 0x12 => some (.shr (Bin.ofFields f))
  | 0x13 => some (.sra (Bin.ofFields f))
  | 0x14 => some (.rot (Bin.ofFields f))
  | 0x15 => some (.popc (Un.ofFields f))
  | 0x16 => some (.clz (Un.ofFields f))
  | 0x17 => some (.bfe (Tri.ofFields f))
  | 0x18 => some (.bfi (Tri.ofFields f))
  | 0x19 => some (.brev (Un.ofFields f))
  | 0x1A => some (.bperm (Tri.ofFields f))
  | 0x20 => some (.fma (Tri.ofFields f))
  | 0x21 => some (.rcp (Un.ofFields f))
  | 0x22 => some (.rsq (Un.ofFields f))
  | 0x23 => some (.sqrt (Un.ofFields f))
  | 0x24 => some (.exp2 (Un.ofFields f))
  | 0x25 => some (.log2 (Un.ofFields f))
  | 0x26 => some (.tanh (Un.ofFields f))
  | 0x30 => some (.cvt (Un.ofFields f) (Ty.ofCode (f.c.extractLsb' 0 4)) (Fin.ofNat 8 (f.c.extractLsb' 4 3).toNat))
  | 0x31 => some (.cvtPk (Bin.ofFields f) (Ty.ofCode (f.c.extractLsb' 0 4)))
  | 0x32 => some (.bsPack (Bs.ofFields f))
  | 0x33 => some (.bsUnpack (Bs.ofFields f))
  | 0x34 => some (.cmp (CmpF.ofFields f))
  | 0x35 => some (.sel (Bin.ofFields f) (low 8 f.c))
  | 0x36 => some (.classOf (ClassF.ofFields f))
  | 0x40 => some (.shflIdx (Shfl.ofFields f))
  | 0x41 => some (.shflUp (Shfl.ofFields f))
  | 0x42 => some (.shflDn (Shfl.ofFields f))
  | 0x43 => some (.shflXor (Shfl.ofFields f))
  | 0x44 => some (.scan (RedF.ofFields f))
  | 0x45 => some (.scanx (RedF.ofFields f))
  | 0x46 => some (.rdc (RedF.ofFields f))
  | 0x47 => some (.sort (Un.ofFields f) (f.c.getLsbD 0))
  | 0x48 => some (.vote (guardOf f.guard) (VoteMode.byNum f.c.toNat) (low 8 f.d) (low 8 f.a))
  | 0x49 => some (.ballot (guardOf f.guard) f.tr (Reg.ofCode f.d) (low 8 f.a))
  | 0x4A => some (.rnd (guardOf f.guard) f.tr (Reg.ofCode f.d) (regOpd f.a f.ra) (Opd.of f.b f.rb f.lit))
  | 0x50 => some (.mov (Un.ofFields f))
  | 0x51 => some (.rdlane (Bin.ofFields f))
  | 0x52 => some (.wrlane (Bin.ofFields f))
  | 0x53 => some (.plog { g := guardOf f.guard, table := tableOf f, pd := low 8 f.d, pa := low 8 f.a, pb := low 8 f.b, pc := low 8 f.c })
  | 0x54 => some (.ptov (guardOf f.guard) f.tr (Reg.ofCode f.d) (low 8 f.a))
  | 0x55 => some (.vtop (guardOf f.guard) (low 8 f.d) (Opd.of f.a f.ra f.lit))
  | _ => none

/-- Rows 0x6_ to 0x8_ (R121, R234). -/
def Instr.ofMemory (f : Long) : Option Instr :=
  match f.op.toNat with
  | 0x60 => some (.ld (LdF.ofFields f))
  | 0x61 => some (.st (StF.ofFields f))
  | 0x62 => some (.ldSp (LdF.ofFields f))
  | 0x63 => some (.stSp (StF.ofFields f))
  | 0x64 => some (.ldVer { g := guardOf f.guard, size := Size.ofCode f.sub, d := Reg.ofCode f.d, a := regOpd f.a f.ra, off := mOffOf f, sm := regOpd f.c f.rc })
  | 0x65 => some (.stVer (StF.ofFields f))
  | 0x66 => some (.sealVer (regOpd f.a f.ra) (mOffOf f))
  | 0x67 => some (.ldRag { g := guardOf f.guard, size := Size.ofCode f.sub, pol := Policy.ofCode f.mod, d := Reg.ofCode f.d, a := regOpd f.a f.ra, row := mOffOf f, sh := Fin.ofNat 4 f.c.toNat, one := f.c.getLsbD 2 })
  | 0x70 => some (.atom (AtomF.ofFields f))
  | 0x71 => some (.red (RedMemF.ofFields f))
  | 0x72 => some (.redAddCf32 { g := guardOf f.guard, a := regOpd f.a f.ra, off := mOffOf f, c := regOpd f.c f.rc })
  | 0x73 => some (.lk (LkF.ofFields f))
  | 0x74 => some (.lktry (LkF.ofFields f))
  | 0x75 => some (.unlk (regOpd f.a f.ra))
  | 0x76 => some (.fence (FenceSem.ofCode f.mod) (Scope.ofCode f.sub))
  | 0x77 => if f.mod = 0 then some .bar else some .barWait
  | 0x78 => if f.mod = 0 then some (.arriveN (mOffOf f)) else some (.arriveNNw (mOffOf f))
  | 0x79 => some (.waitCtr (sOf f.d) (regOpd f.a f.ra) (regOpd f.c f.rc) f.lit)
  | 0x7A => some (.post (sOf f.d) (regOpd f.a f.ra) (regOpd f.c f.rc) (mOffOf f))
  | 0x7B => some (.dcnt (guardOf f.guard) (regOpd f.a f.ra) (mOffOf f))
  | 0x80 => some (.raLd { g := guardOf f.guard, size := Size.ofCode f.sub, d := Reg.ofCode f.d, a := regOpd f.a f.ra, off := mOffOf f, pn := PSel.ofCode f.c })
  | 0x81 => some (.raSt (StF.ofFields f))
  | 0x82 => if f.aux.getLsbD 2 then some (.raRed (RedMemF.ofFields f)) else some (.raAtom (AtomF.ofFields f))
  | 0x83 => some (.rst (guardOf f.guard) (regOpd f.a f.ra) (vOf f.c) (mOffOf f))
  | 0x84 => some (.hold (vOf f.a) (mOffOf f))
  | 0x85 => some (.nameGet (sOf f.d))
  | 0x86 => some .nameFree
  | _ => none

/-- A write of a control register, by its number (R335). -/
def Instr.ofWrite (n : Half) (c : SReg) : Instr :=
  if n.toNat = 0x71 then .xltInv c
  else if n.toNat = 0x38 then .dbgIflush c
  else if n.toNat = 0x61 then .ctlLeadWrite c
  else if 0x80 ≤ n.toNat ∧ n.toNat ≤ 0x87 then .sbMemWrite (Fin.ofNat 8 n.toNat) c
  else .sysWr n c

/-- Rows 0xA_ to 0xD_ (R121, R290, R180). -/
def Instr.ofEngine (f : Long) : Option Instr :=
  match f.op.toNat with
  | 0xA0 => some (.mres (low 8 f.d) (SL.of f.b f.lit))
  | 0xA1 => some (.mrel (SL.of f.b f.lit))
  | 0xA2 => some (.mma { g := guardOf f.guard, tile := low 16 f.d, a := sOf f.a, b := sOf f.b, desc := sOf f.c, bs := decide (8 ≤ f.sub.toNat), pair := MmaPair.byNum (if 8 ≤ f.sub.toNat then f.sub.toNat - 6 else f.sub.toNat), shape := if f.mod.getLsbD 2 then some (Fin.ofNat 4 f.mod.toNat) else none, one := f.aux.getLsbD 0, ninf := f.aux.getLsbD 1, wa := f.aux.getLsbD 2, rb := f.sat })
  | 0xA3 => some (.accLd (AccMemF.ofFields f f.d))
  | 0xA4 => some (.accSt (AccMemF.ofFields f f.c))
  | 0xA5 => some (.accZero (guardOf f.guard) (low 16 f.d))
  | 0xA6 => if f.mod = 0 then some (.accMovToVec { g := guardOf f.guard, v := vOf f.d, reuse := false, tile := low 16 f.a, j0 := low 32 f.c, log2n := f.sub })
            else some (.accMovToTile { g := guardOf f.guard, v := vOf f.a, reuse := f.ra, tile := low 16 f.d, j0 := low 32 f.c, log2n := f.sub })
  | 0xA7 => some (.osmUpd { g := guardOf f.guard, d := vOf f.d, sTile := low 16 f.a, oEn := f.c.getLsbD 4, oTile := low 16 f.c })
  | 0xA8 => some (.osmFin (guardOf f.guard) (low 16 f.d) (vOf f.a) f.ra)
  | 0xA9 => some (.ragRdc { g := guardOf f.guard, d := vOf f.d, a := vOf f.a, reuse := f.ra, row0 := SL.of f.b f.lit, ty := Ty.ofCode f.sub, op := RedOp.byNum f.mod.toNat, pn := { en := f.c.getLsbD 4, p := Fin.ofNat 8 (f.c.extractLsb' 5 3).toNat }, seq := f.c.getLsbD 3, one := f.c.getLsbD 2, sh := Fin.ofNat 4 f.c.toNat })
  | 0xAA => some (.ragNorm { g := guardOf f.guard, d := vOf f.d, a := vOf f.a, reuse := f.ra, row0 := SL.of f.b f.lit, one := f.c.getLsbD 2, sh := Fin.ofNat 4 f.c.toNat })
  | 0xAB => some (.shLd (low 4 f.d) (sOf f.a))
  | 0xAC => some (.shChk (low 8 f.d) (low 4 f.c))
  | 0xB0 => some (.cp { d := sdOf f.d, tl := Fin.ofNat 16 f.sub.toNat, dst := sOf f.a, src := sOf f.c, len := SL.of f.b f.lit, dir := CopyDir.ofCode f.mod })
  | 0xB1 => some (.cpGather { d := sdOf f.d, tl := Fin.ofNat 16 f.sub.toNat, dst := sOf f.a, src := sOf f.b, desc := sOf f.c, dir := CopyDir.ofCode f.mod })
  | 0xB2 => if f.mod = 0 then some (.tlRd (sOf f.d) (Fin.ofNat 16 f.sub.toNat)) else some (.tlRdErr (sOf f.d) (Fin.ofNat 16 f.sub.toNat))
  | 0xB3 => some (.tlWait (Fin.ofNat 16 f.sub.toNat) (SL.of f.b f.lit))
  | 0xB4 => some (.collPut (sOf f.a) (SL.of f.b f.lit) (sOf f.c))
  | 0xB5 => some (.collQuorum (sOf f.a) (SL.of f.b f.lit))
  | 0xB6 => some (.collClose (sOf f.a) (SL.of f.b f.lit))
  | 0xB7 => some (.collGet (sOf f.d) (sOf f.a) (SL.of f.b f.lit) (sOf f.c))
  | 0xB8 => some (.stepAdv (sOf f.d) f.lit)
  | 0xB9 => some (.stepRd (sOf f.d) (SL.of f.b f.lit))
  | 0xBA => some (.hcmd (Fin.ofNat 16 f.sub.toNat) (sOf f.a))
  | 0xBB => some (.take (sOf f.d) (SL.of f.b f.lit))
  | 0xBC => some (.steal (SL.of f.b f.lit))
  | 0xBD => some (.gwLaunch (sOf f.d) (sOf f.a))
  | 0xBE => if f.mod = 0 then some (.mig (sOf f.d) (SL.of f.b f.lit)) else some (.migNear (sOf f.d) (sOf f.a))
  | 0xC0 => some (.sysRd (Reg.ofCode f.d) (numOf f))
  | 0xC1 => some (Instr.ofWrite (numOf f) (sOf f.c))
  | 0xC2 => some (.trapCode (numOf f))
  | 0xD0 => some (.bra (guardOf f.guard) (f.mod.getLsbD 0) (offOf f))
  | 0xD1 => some (.brd (guardOf f.guard) (offOf f) f.lit)
  | 0xD2 => some .mergeWait
  | 0xD3 => some (.call (Reg.ofCode f.d) (offOf f))
  | 0xD4 => some (.ret (Reg.ofCode f.a))
  | 0xD5 => some (.jmp (Reg.ofCode f.d) (offOf f))
  | 0xD6 => some (.rgn { vmask := f.lit.getD 0, smask := f.d ++ (offOf f).extractLsb' 6 24, xmask := bit1 f.tr ++ bit1 f.sat ++ f.sub, pmask := f.mod ++ f.guard })
  | 0xD7 => some (.xacq f.a)
  | 0xD8 => some (.xrel f.a)
  | 0xD9 => some (.halt (guardOf f.guard))
  | 0xDA => some .yield
  | _ => none

/-- The instruction of fields, before the checks. -/
def Instr.ofFields : Fields → Option Instr
  | .short op d a b => Instr.ofShort op d a b
  | .long f => if f.op.toNat < 0x60 then Instr.ofCompute f else if f.op.toNat < 0xA0 then Instr.ofMemory f else Instr.ofEngine f

/-- How many words the instruction takes; a `brk` takes its span (R134). -/
def Fields.length (f : Fields) (i : Instr) : Nat :=
  match i, f with
  | .brk span _, _ => span
  | _, .short _ _ _ _ => 1
  | _, .long g => 2 + g.lit.toList.length

/-- The instruction at the head of a list of words, and its length in words. -/
def decode (ws : List Word) : Except Reject (Instr × Nat) :=
  match Fields.ofWords ws with
  | .error e => .error e
  | .ok f =>
    match Instr.ofFields f with
    | none => .error .reservedOpcode
    | some i =>
      if i.fields = some f then (if i.wf then .ok (i, f.length i) else .error .notAllowed) else .error .reservedField

/-- The words of an instruction of code (R110 to R121); an event has none. -/
def encode (i : Instr) : List Word :=
  match i.fields with
  | some f => f.words
  | none => []

/-- Whether a row is an instruction of code. -/
def Instr.isCode (i : Instr) : Bool := i.fields.isSome

/-! Classes, flags and headers (R102, R105, R107, R121). -/

/-- The engine class; `none` for `nop` and `brk`, which belong to every class (R105). -/
def Instr.engineClass (i : Instr) : Option Nat :=
  match i.fields with
  | some (.short op _ _ _) => if op.toNat < 2 then none else if op.toNat < 0x0C then some 0 else some 3
  | some (.long f) => if f.op.toNat < 0x60 then some 0 else if f.op.toNat < 0xA0 then some 1 else if f.op.toNat < 0xD0 then some 2 else some 3
  | none => none

/-- The long-latency instructions (R121); `ra.atom` without return is one (R234, R239). -/
def Instr.isLong : Instr → Bool
  | .rcp _ | .rsq _ | .sqrt _ | .exp2 _ | .log2 _ | .tanh _ | .sort _ _ | .ld _ | .st _ | .ldSp _ | .stSp _ | .ldVer _ | .stVer _ | .ldRag _
  | .atom _ | .raLd _ | .raAtom _ | .raRed _ | .mma _ | .accLd _ | .accSt _ | .shLd _ _ | .cp _ | .cpGather _ | .collGet _ _ _ _ | .take _ _ => true
  | _ => false

/-- Header fields (R102). -/
def hdrCount (w : Word) : Nat := (w.extractLsb' 2 4).toNat
/-- The class of a header. -/
def hdrClass (w : Word) : Nat := (w.extractLsb' 6 2).toNat
/-- The wait field of a header: bit i for flag ki. -/
def hdrWait (w : Word) : BitVec 12 := w.extractLsb' 8 12
/-- The flag of the first long-latency instruction. -/
def hdrSetA (w : Word) : Nat := (w.extractLsb' 20 4).toNat
/-- The flag of the second. -/
def hdrSetB (w : Word) : Nat := (w.extractLsb' 24 4).toNat
/-- The exclusive-or of nibbles 0 to 6 (R102). -/
def hdrCheck (w : Word) : BitVec 4 :=
  w.extractLsb' 0 4 ^^^ w.extractLsb' 4 4 ^^^ w.extractLsb' 8 4 ^^^ w.extractLsb' 12 4 ^^^ w.extractLsb' 16 4 ^^^ w.extractLsb' 20 4 ^^^ w.extractLsb' 24 4
/-- A header of its fields, with its check nibble. -/
def hdrOf (count cls : Nat) (wait : BitVec 12) (seta setb : Nat) : Word :=
  let w : Word := 0#4 ++ BitVec.ofNat 4 setb ++ BitVec.ofNat 4 seta ++ wait ++ BitVec.ofNat 2 cls ++ BitVec.ofNat 4 count ++ 0#2
  w ||| (hdrCheck w ++ 0#28)

/-! Bytes and words (R4). -/

/-- The word of four bytes, lowest address first. -/
def wordOf (b0 b1 b2 b3 : Byte) : Word := b3 ++ b2 ++ b1 ++ b0
/-- The words of a list of bytes. -/
def wordsOf : List Byte → List Word
  | b0 :: b1 :: b2 :: b3 :: t => wordOf b0 b1 b2 b3 :: wordsOf t
  | _ => []
/-- The low `n` bytes of a number, lowest first. -/
def bytesOf : Nat → Nat → List Byte
  | 0, _ => []
  | n + 1, v => BitVec.ofNat 8 v :: bytesOf n (v / 256)
/-- The number a list of bytes stands for, lowest byte first. -/
def natOf : List Byte → Nat
  | [] => 0
  | b :: t => b.toNat + 256 * natOf t
/-- Sign extension of the low `n` bits (R10). -/
def sext (n v : Nat) : Int := if v % 2 ^ n < 2 ^ (n - 1) then (v % 2 ^ n : Nat) else (v % 2 ^ n : Nat) - (2 ^ n : Nat)

/-- The instruction the decoder reads from a word numbered as the opcode table numbers it: `nbits` bits, and zeros above up to the longest instruction. -/
def decodeTableWord (nbits w : Nat) : Option Instr :=
  match decode (wordsOf (bytesOf 12 (w % 2 ^ nbits))) with
  | .ok (i, _) => some i
  | .error _ => none

end Sys2Proof
end

