-- ==== Sys2Proof/Machine/Num.lean ====
section
/-! DEFINITION. Exact numbers, the float formats, rounding and the orders of arithmetic that the instructions share (R84 to R100, R143, R152, R162, R177). -/

namespace Sys2Proof.Machine

/-- An exact fraction; the denominator is not 0 where the model builds one. -/
structure Frac where
  num : Int
  den : Nat
  deriving DecidableEq, Repr, Inhabited

namespace Frac
/-- The exact sum; denominators that divide each other stay small. -/
def add (a b : Frac) : Frac :=
  if a.den = b.den then ⟨a.num + b.num, a.den⟩
  else if a.den % b.den = 0 then ⟨a.num + b.num * (a.den / b.den : Nat), a.den⟩
  else if b.den % a.den = 0 then ⟨a.num * (b.den / a.den : Nat) + b.num, b.den⟩
  else ⟨a.num * b.den + b.num * a.den, a.den * b.den⟩
/-- The exact product. -/
def mul (a b : Frac) : Frac := ⟨a.num * b.num, a.den * b.den⟩
/-- The negative. -/
def neg (a : Frac) : Frac := ⟨-a.num, a.den⟩
/-- The exact quotient of a nonzero divisor. -/
def div (a b : Frac) : Frac :=
  ⟨(if b.num < 0 then -a.num else a.num) * b.den, a.den * b.num.natAbs⟩
/-- Strict order. -/
def lt (a b : Frac) : Bool := decide (a.num * b.den < b.num * a.den)
/-- `n × 2^e`. -/
def scale (n : Int) (e : Int) : Frac := if 0 ≤ e then ⟨n * 2 ^ e.toNat, 1⟩ else ⟨n, 2 ^ (-e).toNat⟩
/-- An integer. -/
def ofInt (n : Int) : Frac := ⟨n, 1⟩
/-- Zero. -/
def isZero (a : Frac) : Bool := a.num == 0
/-- The value brought to lowest powers of two, so that long sums stay small. -/
def floor (a : Frac) : Int := Int.fdiv a.num a.den
end Frac

/-- A float format (R85): fraction bits, least exponent, bias, width, largest finite magnitude, infinity and canonical NaN. -/
structure Fmt where
  m : Nat
  emin : Int
  bits : Nat
  maxBits : Nat
  inf : Option Nat
  nan : Option Nat
  deriving DecidableEq, Repr

/-- f32 (R85, R87). -/
def Fmt.f32 : Fmt := ⟨23, -126, 32, 0x7F7FFFFF, some 0x7F800000, some 0x7FC00000⟩
/-- f16. -/
def Fmt.f16 : Fmt := ⟨10, -14, 16, 0x7BFF, some 0x7C00, some 0x7E00⟩
/-- bf16. -/
def Fmt.bf16 : Fmt := ⟨7, -126, 16, 0x7F7F, some 0x7F80, some 0x7FC0⟩
/-- e4m3: no infinity, one NaN magnitude. -/
def Fmt.e4m3 : Fmt := ⟨3, -6, 8, 0x7E, none, some 0x7F⟩
/-- e5m2. -/
def Fmt.e5m2 : Fmt := ⟨2, -14, 8, 0x7B, some 0x7C, some 0x7E⟩
/-- e2m1: no infinity, no NaN. -/
def Fmt.e2m1 : Fmt := ⟨1, 0, 4, 7, none, none⟩
/-- The format of a float type; f32 for any other. -/
def fmtOf : Ty → Fmt
  | .f16 => .f16 | .bf16 => .bf16 | .e4m3 => .e4m3 | .e5m2 => .e5m2 | .e2m1 => .e2m1 | _ => .f32

/-- An exact value: NaN, an infinity, a zero of a sign, or a nonzero number. -/
inductive Val where
  | nan | inf (neg : Bool) | zero (neg : Bool) | num (q : Frac)
  deriving DecidableEq, Repr, Inhabited

namespace Val
/-- The value of an encoding (R85, R86). -/
def ofBits (f : Fmt) (x : Nat) : Val :=
  let s := x / 2 ^ (f.bits - 1) % 2 == 1
  let mag := x % 2 ^ (f.bits - 1)
  if mag = 0 then .zero s
  else if mag > f.maxBits then (if f.inf = some mag then .inf s else .nan)
  else
    let e := mag / 2 ^ f.m
    let fr : Int := (mag % 2 ^ f.m : Nat)
    let sg : Int := if s then -1 else 1
    if e = 0 then .num (Frac.scale (sg * fr) (f.emin - f.m))
    else .num (Frac.scale (sg * (fr + 2 ^ f.m)) (f.emin - f.m + (e - 1 : Nat)))
/-- A nonzero fraction, or a zero of a sign. -/
def ofFrac (zeroNeg : Bool) (q : Frac) : Val := if q.isZero then .zero zeroNeg else .num q
/-- An exact integer; 0 is +0. -/
def ofInt (n : Int) : Val := ofFrac false (Frac.ofInt n)
/-- Negative sign. -/
def isNeg : Val → Bool
  | .inf s | .zero s => s
  | .num q => decide (q.num < 0)
  | .nan => false
/-- Change of sign. -/
def neg : Val → Val
  | .nan => .nan | .inf s => .inf (!s) | .zero s => .zero (!s) | .num q => .num q.neg
/-- The exact sum with the signs of zero of R89 and the specials of R152. -/
def add (r : Rnd) : Val → Val → Val
  | .nan, _ | _, .nan => .nan
  | .inf a, .inf b => if a == b then .inf a else .nan
  | .inf a, _ | _, .inf a => .inf a
  | .zero a, .zero b => .zero (if a == b then a else r == .rtn)
  | .zero _, x | x, .zero _ => x
  | .num p, .num q => ofFrac (r == .rtn) (p.add q)
/-- The exact product (R152). -/
def mul : Val → Val → Val
  | .nan, _ | _, .nan => .nan
  | .inf _, .zero _ | .zero _, .inf _ => .nan
  | .inf a, y => .inf (a != y.isNeg)
  | x, .inf b => .inf (x.isNeg != b)
  | .zero a, y => .zero (a != y.isNeg)
  | x, .zero b => .zero (x.isNeg != b)
  | .num p, .num q => .num (p.mul q)
/-- The exact quotient, as IEEE 754-2019 defines it (R307, R315). -/
def div : Val → Val → Val
  | .nan, _ | _, .nan => .nan
  | .inf _, .inf _ | .zero _, .zero _ => .nan
  | .inf a, y => .inf (a != y.isNeg)
  | x, .inf b => .zero (x.isNeg != b)
  | x, .zero b => .inf (x.isNeg != b)
  | .zero a, y => .zero (a != y.isNeg)
  | .num p, .num q => .num (p.div q)
/-- The order of `sort` and of comparisons among values that are not NaN; −0 and +0 equal. -/
def ltNum : Val → Val → Bool
  | .inf a, .inf b => a && !b
  | .inf a, _ => a
  | _, .inf b => !b
  | .num p, .num q => p.lt q
  | .zero _, .num q => decide (0 < q.num)
  | .num p, .zero _ => decide (p.num < 0)
  | _, _ => false
end Val

/-- floor(log2(n / d)) for n, d above 0. -/
def floorLog2 (n d : Nat) : Int :=
  let t : Int := (n.log2 : Int) - (d.log2 : Int)
  let low : Bool := if 0 ≤ t then decide (n < d * 2 ^ t.toNat) else decide (n * 2 ^ (-t).toNat < d)
  if low then t - 1 else t

/-- The encoding of an overflow (R91). -/
def overflow (f : Fmt) (r : Rnd) (sat neg : Bool) : Nat :=
  let s := if neg then 2 ^ (f.bits - 1) else 0
  match f.inf with
  | none => s + f.maxBits
  | some i =>
    if sat then s + f.maxBits
    else match r with
      | .rne | .rsd => s + i
      | .rtz => s + f.maxBits
      | .rtp => if neg then s + f.maxBits else i
      | .rtn => if neg then s + i else f.maxBits

/-- The rounding of an exact nonzero number to a format (R90); `rb` is `rbits16`. -/
def roundNum (f : Fmt) (r : Rnd) (sat : Bool) (rb : Nat) (q : Frac) : Nat :=
  let neg := decide (q.num < 0)
  let n := q.num.natAbs
  let d := q.den
  let e0 := floorLog2 n d
  let e := if e0 < f.emin then f.emin else e0
  let sh : Int := e - f.m
  let nn := if 0 ≤ sh then n else n * 2 ^ (-sh).toNat
  let dd := if 0 ≤ sh then d * 2 ^ sh.toNat else d
  let lo := nn / dd
  let rem := nn % dd
  let up : Bool :=
    if rem = 0 then false
    else match r with
      | .rne => decide (2 * rem > dd) || (decide (2 * rem = dd) && lo % 2 == 1)
      | .rtz => false
      | .rtp => !neg
      | .rtn => neg
      | .rsd => decide (rb < rem * 2 ^ 16 / dd)
  let k := if up then lo + 1 else lo
  let mag := (e - f.emin).toNat * 2 ^ f.m + k
  if mag > f.maxBits then overflow f r sat neg
  else (if neg then 2 ^ (f.bits - 1) else 0) + mag

/-- `fround` (R143): specials pass, NaN is canonical, numbers round. For a format without an infinity, R92 gives the encodings. `cvt` says whether `sat` turns an infinity into the largest finite value (R148, R193). -/
def fround (f : Fmt) (r : Rnd) (sat : Bool) (cvt : Bool) (rb : Nat) : Val → Nat
  | .nan => f.nan.getD 0
  | .inf s =>
    (if s then 2 ^ (f.bits - 1) else 0) +
      match f.inf with
      | some i => if sat && cvt then f.maxBits else i
      | none => f.maxBits
  | .zero s => if s then 2 ^ (f.bits - 1) else 0
  | .num q => roundNum f r sat rb q

/-- Rounding to an integer with spacing 1 (R164). -/
def roundInt (r : Rnd) (rb : Nat) (q : Frac) : Int :=
  let n := q.num.natAbs
  let lo := n / q.den
  let rem := n % q.den
  let neg := decide (q.num < 0)
  let up : Bool :=
    if rem = 0 then false
    else match r with
      | .rne => decide (2 * rem > q.den) || (decide (2 * rem = q.den) && lo % 2 == 1)
      | .rtz => false
      | .rtp => !neg
      | .rtn => neg
      | .rsd => decide (rb < rem * 2 ^ 16 / q.den)
  let k : Int := ((if up then lo + 1 else lo : Nat) : Int)
  if neg then -k else k

/-- Width in bits of a type (R84, R85). -/
def Ty.width : Ty → Nat
  | .i64 | .w64 | .b64 => 64
  | .i16 | .w16 | .f16 | .bf16 => 16
  | .i8 | .w8 | .e4m3 | .e5m2 => 8
  | .e2m1 => 4
  | _ => 32
/-- A signed integer type. -/
def Ty.signed : Ty → Bool
  | .i32 | .i64 | .i16 | .i8 => true
  | _ => false
/-- Least and greatest value of an integer type. -/
def intRange (t : Ty) : Int × Int :=
  if Ty.signed t then (-(2 ^ (Ty.width t - 1) : Nat), (2 ^ (Ty.width t - 1) : Nat) - 1) else (0, (2 ^ Ty.width t : Nat) - 1)
/-- The exact integer of an encoding (R84, `num`). -/
def intOf (t : Ty) (x : Nat) : Int := if Ty.signed t then sext (Ty.width t) x else (x % 2 ^ Ty.width t : Nat)
/-- `wrap` (R143). -/
def wrapInt (t : Ty) (v : Int) : Nat := (v % (2 ^ Ty.width t : Nat)).toNat
/-- `sat` (R84, R143). -/
def satInt (t : Ty) (v : Int) : Nat :=
  let r := intRange t
  wrapInt t (if v < r.1 then r.1 else if r.2 < v then r.2 else v)
/-- `num` of a float encoding. -/
def valOf (t : Ty) (x : Nat) : Val := Val.ofBits (fmtOf t) (x % 2 ^ Ty.width t)

/-- `min` and `max` of floats (R152): the chosen operand's bits. -/
def fminmax (t : Ty) (isMax : Bool) (x y : Nat) : Nat :=
  let f := fmtOf t
  match valOf t x, valOf t y with
  | .nan, .nan => f.nan.getD 0
  | .nan, _ => y
  | _, .nan => x
  | .zero a, .zero b => if isMax then (if a then y else x) else (if b && !a then y else x)
  | a, b => if isMax then (if a.ltNum b then y else x) else (if b.ltNum a then y else x)

/-- Conversion of one value (R92, R164): source type and bits, destination type, mode, `sat`, `rbits16`. -/
def convert (s d : Ty) (r : Rnd) (sat : Bool) (rb : Nat) (x : Nat) : Nat :=
  if s.isFloat then
    if d.isFloat then fround (fmtOf d) r sat true rb (valOf s x)
    else match valOf s x with
      | .nan | .zero _ => 0
      | .inf n => wrapInt d (if n then (intRange d).1 else (intRange d).2)
      | .num q => satInt d (roundInt r rb q)
  else if d.isFloat then fround (fmtOf d) r sat true rb (Val.ofInt (intOf s x))
  else if sat then satInt d (intOf s x) else wrapInt d (intOf s x)

/-! The counter generator (R177). -/

/-- One round of G. -/
def gRound (a b ka kb : Nat) : Nat × Nat :=
  let p := ((a + ka) % 2 ^ 32) * 0xC2B2AE35
  let q := (Nat.xor b kb) * 0x85EBCA77
  let ph := p / 2 ^ 32
  (Nat.xor (p % 2 ^ 32) (q / 2 ^ 32), Nat.xor (q % 2 ^ 32) ((ph * 2 ^ 13) % 2 ^ 32 + ph / 2 ^ 19))
/-- Four rounds of G from the left. -/
def gRounds : Nat → Nat → Nat → Nat → Nat → Nat × Nat
  | 0, a, b, _, _ => (a, b)
  | n + 1, a, b, ka, kb =>
    let ab := gRound a b ka kb
    gRounds n ab.1 ab.2 ((ka + 0x6A09E667) % 2 ^ 32) ((kb + 0xBB67AE85) % 2 ^ 32)
/-- `G(key, ctr, lane)`. -/
def genG (key ctr lane : Nat) : Nat :=
  let b := Nat.xor (Nat.xor (ctr / 2 ^ 32 % 2 ^ 32) (lane * 2 ^ 27)) lane
  let ab := gRounds 4 (ctr % 2 ^ 32) b (key % 2 ^ 32) (key / 2 ^ 32 % 2 ^ 32)
  ab.2 * 2 ^ 32 + ab.1
/-- `rbits16` of element `j` of a lane (R93). -/
def rbits (key ctr lane j : Nat) : Nat := genG key ((ctr + j / 4) % 2 ^ 64) lane / 2 ^ (16 * (j % 4)) % 2 ^ 16

/-! f32 arithmetic in `rne`, for atomics, collectives and hutches. -/

/-- `rne` of a value to f32. -/
def rne32 (v : Val) : Nat := fround .f32 .rne false false 0 v
/-- The value of an f32 encoding. -/
def v32 (x : Nat) : Val := Val.ofBits .f32 (x % 2 ^ 32)
/-- The two-sum step on a compensated pair (R100): new S, new E. -/
def twoSum (s e y : Nat) : Nat × Nat :=
  let t := rne32 ((v32 s).add .rne (v32 y))
  match v32 t with
  | .nan | .inf _ => (t, 0)
  | _ =>
    let sub (a b : Nat) := rne32 ((v32 a).add .rne (v32 b).neg)
    let yv := sub t s
    let sv := sub t yv
    let err := rne32 ((v32 (sub s sv)).add .rne (v32 (sub y yv)))
    (t, rne32 ((v32 e).add .rne (v32 err)))

/-! Roots and transcendentals (R162, R306, R420): exact where the value is rational, else an enclosure narrow enough to round (log 7). -/

/-- Integer square root by bits, from bit `k` down. -/
def isqrtBits : Nat → Nat → Nat → Nat
  | 0, _, acc => acc
  | k + 1, n, acc => let t := acc + 2 ^ k; isqrtBits k n (if t * t ≤ n then t else acc)
/-- floor(√n). -/
def isqrt (n : Nat) : Nat := isqrtBits (n.log2 / 2 + 1) n 0
/-- A number that rounds as √(n/d) does in every mode: √(n/d) itself where it is a fraction of 2^p, else a point strictly between neighbours. -/
def sqrtFrac (q : Frac) : Frac :=
  let n := q.num.natAbs
  let x := n * 2 ^ 640 / q.den
  let r := isqrt x
  if r * r * q.den = n * 2 ^ 640 then ⟨r, 2 ^ 320⟩ else ⟨2 * r + 1, 2 ^ 321⟩

/-- An enclosure: lower and upper bound as multiples of 2^-p. -/
abbrev Encl := Int × Int

/-- Σ x^k / k! for scaled x in [0, 1], lower sum with `fuel` terms: term and sum both rounded down. -/
def expSum (p : Nat) (x : Nat) : Nat → Nat → Nat → Nat → Nat
  | 0, _, _, acc => acc
  | fuel + 1, k, term, acc => let t := term * x / (2 ^ p * k); expSum p x fuel (k + 1) t (acc + t)
/-- An enclosure of e^(x/2^p), 0 ≤ x ≤ 2^p: the lower sum, and it plus one unit a term and the tail. -/
def expEncl (p x : Nat) : Encl :=
  let lo := expSum p x (p / 3 + 8) 1 (2 ^ p) (2 ^ p)
  (lo, lo + 4 * (p / 3 + 8))
/-- Σ 2 z^(2k+1)/(2k+1), the lower sum for z = x/2^p at most 1/3. -/
def atanhSum (p x : Nat) : Nat → Nat → Nat → Nat → Nat
  | 0, _, _, acc => acc
  | fuel + 1, k, pw, acc => atanhSum p x fuel (k + 2) (pw * x / 2 ^ p * x / 2 ^ p) (acc + 2 * pw / k)
/-- An enclosure of ln(n/d) for 1 ≤ n/d ≤ 2: 2 atanh((n − d)/(n + d)). -/
def lnEncl (p n d : Nat) : Encl :=
  let z := (n - d) * 2 ^ p / (n + d)
  let lo := atanhSum p z (p / 3 + 8) 1 z 0
  (lo, lo + 8 * (p / 3 + 8))
/-- ln 2, the lower bound. -/
def ln2Encl (p : Nat) : Encl := lnEncl p 2 1

/-- Both ends of an enclosure, as fractions, when they round alike. -/
def decided (f : Fmt) (r : Rnd) (sat : Bool) (rb : Nat) (lo hi : Frac) : Option Nat :=
  if lo.isZero || hi.isZero || (decide (lo.num < 0) != decide (hi.num < 0)) then none
  else
    let a := roundNum f r sat rb lo
    if a = roundNum f r sat rb hi then some a else none

/-- The rounding of a number whose enclosures at rising precisions are given: that of the first which decides, the last being taken to (log 7). -/
def settle (f : Fmt) (r : Rnd) (sat : Bool) (rb : Nat) (g : Nat → Frac × Frac) : List Nat → Nat
  | [] => 0
  | [p] => roundNum f r sat rb (g p).1
  | p :: t => match decided f r sat rb (g p).1 (g p).2 with
    | some v => v
    | none => settle f r sat rb g t
/-- The precisions tried. -/
def precisions : List Nat := [80, 160, 320, 640, 1280, 2560]

/-- 2^x for an exact x. -/
def exp2Frac (f : Fmt) (r : Rnd) (sat : Bool) (rb : Nat) (q : Frac) : Nat :=
  let i := q.floor
  if q.num = i * q.den then
    roundNum f r sat rb (Frac.scale 1 (if i > 400 then 400 else if i < -400 then -400 else i))
  else if i > 200 then roundNum f r sat rb (Frac.scale 1 200)
  else if i < -400 then roundNum f r sat rb (Frac.scale 1 (-400))
  else
    settle f r sat rb (fun p =>
      let fr : Nat := (q.num - i * q.den).toNat
      let l2 := ln2Encl p
      let lo := expEncl p (fr * l2.1.toNat / q.den)
      let hi := expEncl p (fr * l2.2.toNat / q.den + 1)
      ((Frac.scale lo.1 (-(p : Int))).mul (Frac.scale 1 i), (Frac.scale hi.2 (-(p : Int))).mul (Frac.scale 1 i))) precisions

/-- log2 x for an exact x above 0. -/
def log2Frac (f : Fmt) (r : Rnd) (sat : Bool) (rb : Nat) (q : Frac) : Nat :=
  let n := q.num.natAbs
  let e := floorLog2 n q.den
  let mn := if 0 ≤ e then n else n * 2 ^ (-e).toNat
  let md := if 0 ≤ e then q.den * 2 ^ e.toNat else q.den
  if mn = md then (if e = 0 then 0 else roundNum f r sat rb (Frac.ofInt e))
  else
    settle f r sat rb (fun p =>
      let l2 := ln2Encl p
      let lm := lnEncl p mn md
      ((Frac.ofInt e).add ⟨lm.1, l2.2.toNat⟩, (Frac.ofInt e).add ⟨lm.2, l2.1.toNat⟩)) precisions

/-- An enclosure of tanh a for a above 0, from e^2a. -/
def tanhEncl (a : Frac) (p : Nat) : Frac × Frac :=
  let k := (Frac.mul a ⟨2, 1⟩).floor.toNat
  let fr : Nat := (2 * a.num - (k : Int) * a.den).toNat
  let e1 := expEncl p (2 ^ p)
  let lof := expEncl p (fr * 2 ^ p / a.den)
  let hif := expEncl p (fr * 2 ^ p / a.den + 1)
  let s : Frac := ⟨1, 2 ^ p⟩
  let lo := (Frac.mul ⟨e1.1 ^ k, (2 ^ p) ^ k⟩ (s.mul ⟨lof.1, 1⟩))
  let hi := (Frac.mul ⟨e1.2 ^ k, (2 ^ p) ^ k⟩ (s.mul ⟨hif.2, 1⟩))
  let t (x : Frac) : Frac := (x.add ⟨-1, 1⟩).div (x.add ⟨1, 1⟩)
  (t lo, t hi)
/-- An enclosure of tanh a for a from 0 to 2^-12, from its series. -/
def tanhSeries (a : Frac) : Frac × Frac :=
  let x3 := a.mul (a.mul a)
  let x5 := x3.mul (a.mul a)
  let x7 := x5.mul (a.mul a)
  let mid := (a.add (x3.mul ⟨-1, 3⟩)).add (x5.mul ⟨2, 15⟩)
  (mid.add (x7.mul ⟨-17, 315⟩), mid)
/-- tanh x for an exact nonzero x. -/
def tanhFrac (f : Fmt) (r : Rnd) (sat : Bool) (rb : Nat) (q : Frac) : Nat :=
  let sg := decide (q.num < 0)
  let a : Frac := ⟨q.num.natAbs, q.den⟩
  let signed (x : Frac) : Frac := if sg then x.neg else x
  let ends (e : Frac × Frac) : Frac × Frac := (signed e.1, signed e.2)
  if a.den * 64 < a.num.natAbs then roundNum f r sat rb (signed ⟨2 ^ 100 - 1, 2 ^ 100⟩)
  else
    let small := if a.num.natAbs * 2 ^ 12 < a.den then decided f r sat rb (ends (tanhSeries a)).1 (ends (tanhSeries a)).2 else none
    small.getD (settle f r sat rb (fun p => ends (tanhEncl a p)) precisions)

/-- The unary functions of row 0x2_ (R162). -/
inductive Fn where
  | rcp | rsq | sqrt | exp2 | log2 | tanh
  deriving DecidableEq, Repr
/-- `fround(f(x))` with the special results of R162. -/
def transc (k : Fn) (t : Ty) (r : Rnd) (sat : Bool) (rb : Nat) (x : Nat) : Nat :=
  let f := fmtOf t
  let out (v : Val) := fround f r sat false rb v
  match k, valOf t x with
  | _, .nan => out .nan
  | .rcp, .zero s => out (.inf s)
  | .rcp, .inf s => out (.zero s)
  | .rcp, .num q => out (.num ((Frac.ofInt 1).div q))
  | .rsq, .zero s => out (.inf s)
  | .rsq, .inf s => out (if s then .nan else .zero false)
  | .rsq, .num q => if q.num < 0 then out .nan else out (.num (sqrtFrac ((Frac.ofInt 1).div q)))
  | .sqrt, .zero s => out (.zero s)
  | .sqrt, .inf s => out (if s then .nan else .inf false)
  | .sqrt, .num q => if q.num < 0 then out .nan else out (.num (sqrtFrac q))
  | .exp2, .zero _ => out (.num (Frac.ofInt 1))
  | .exp2, .inf s => out (if s then .zero false else .inf false)
  | .exp2, .num q => exp2Frac f r sat rb q
  | .log2, .zero _ => out (.inf true)
  | .log2, .inf s => out (if s then .nan else .inf false)
  | .log2, .num q => if q.num < 0 then out .nan else log2Frac f r sat rb q
  | .tanh, .zero s => out (.zero s)
  | .tanh, .inf s => out (.num (Frac.ofInt (if s then -1 else 1)))
  | .tanh, .num q => tanhFrac f r sat rb q

/-- rne(√v) to f32 (R420). -/
def sqrt32 (x : Nat) : Nat := transc .sqrt .f32 .rne false 0 x

/-! Lane trees (R98, R99). -/

/-- One level of the tree of R98: neighbours combined in pairs, the lower lane on the left. `i` is the position, `d` the distance. -/
def treeLevel (op : Nat → Nat → Nat → Nat) (d : Nat) : Nat → List Nat → List Nat
  | i, a :: b :: t => op i a b :: treeLevel op d (i + 2 * d) t
  | _, l => l
/-- The tree of R98 over 32 values; `op t i x y` combines at step t for position i. -/
def treeReduce (op : Nat → Nat → Nat → Nat → Nat) (xs : List Nat) : Nat :=
  let l1 := treeLevel (op 0) 1 0 xs
  let l2 := treeLevel (op 1) 2 0 l1
  let l3 := treeLevel (op 2) 4 0 l2
  let l4 := treeLevel (op 3) 8 0 l3
  (treeLevel (op 4) 16 0 l4).headD 0
/-- One step of the scan of R99. -/
def scanStep (op : Nat → Nat → Nat → Nat) (d : Nat) (xs : List Nat) : List Nat :=
  (List.range xs.length).map fun i => if d ≤ i then op i (xs.getD (i - d) 0) (xs.getD i 0) else xs.getD i 0
/-- The scan of R99. -/
def scanTree (op : Nat → Nat → Nat → Nat → Nat) (xs : List Nat) : List Nat :=
  scanStep (op 4) 16 (scanStep (op 3) 8 (scanStep (op 2) 4 (scanStep (op 1) 2 (scanStep (op 0) 1 xs))))
/-- The identity of a lane reduction (R98): −0 for a float sum. -/
def redIdentity (op : RedOp) (t : Ty) : Nat :=
  match op with
  | .add => if t == .f32 then 0x80000000 else 0
  | .max => if t == .f32 then 0xFF800000 else wrapInt t (intRange t).1
  | .min => if t == .f32 then 0x7F800000 else wrapInt t (intRange t).2
  | .and => 0xFFFFFFFF
  | .or | .xor => 0
/-- One combination of a lane reduction (R98, R152, R174). -/
def redCombine (op : RedOp) (t : Ty) (r : Rnd) (sat : Bool) (rb : Nat) (x y : Nat) : Nat :=
  match op with
  | .add =>
    if t == .f32 then fround .f32 r sat false rb ((v32 x).add r (v32 y))
    else if sat then satInt t (intOf t x + intOf t y) else wrapInt t (intOf t x + intOf t y)
  | .min => if t == .f32 then fminmax t false x y else wrapInt t (min (intOf t x) (intOf t y))
  | .max => if t == .f32 then fminmax t true x y else wrapInt t (max (intOf t x) (intOf t y))
  | .and => Nat.land x y
  | .or => Nat.lor x y
  | .xor => Nat.xor x y

/-- Result of an atomic (R251): the new value, none when nothing is written. -/
def atomResult (op : AtomOp) (t : Ty) (old x xn : Nat) : Option Nat :=
  match op with
  | .add => some (if t == .f32 then rne32 ((v32 old).add .rne (v32 x)) else wrapInt t (intOf t old + intOf t x))
  | .min => some (if t == .f32 then fminmax t false old x else wrapInt t (min (intOf t old) (intOf t x)))
  | .max => some (if t == .f32 then fminmax t true old x else wrapInt t (max (intOf t old) (intOf t x)))
  | .and => some (Nat.land old x)
  | .or => some (Nat.lor old x)
  | .xor => some (Nat.xor old x)
  | .exch => some x
  | .cas => if old = x then some xn else none

end Sys2Proof.Machine
end

