-- ==== Sys2Proof/Machine/Store.lean ====
section
/-! DEFINITION. Tables and sparse cells: lists of (key, value) pairs with rising keys. Memory (R199), register cells (R70), tiles (R71) and every table of units are held so; nothing in State is a function. -/

namespace Sys2Proof.Machine

/-- A table: pairs with strictly rising keys. -/
abbrev Tbl (α : Type) := List (Nat × α)

namespace Tbl
variable {α : Type}

/-- The entry at a key. -/
def find : Tbl α → Nat → Option α
  | [], _ => none
  | (j, v) :: t, k => if k = j then some v else find t k

/-- The entry at a key, or `d`. -/
def getD (t : Tbl α) (k : Nat) (d : α) : α := (find t k).getD d

/-- Puts an entry at a key, in its place. -/
def set : Tbl α → Nat → α → Tbl α
  | [], k, v => [(k, v)]
  | (j, w) :: t, k, v => if k < j then (k, v) :: (j, w) :: t else if k = j then (k, v) :: t else (j, w) :: set t k v

/-- Takes the entry at a key out. -/
def erase : Tbl α → Nat → Tbl α
  | [], _ => []
  | (j, w) :: t, k => if k = j then erase t k else (j, w) :: erase t k

/-- Changes the entry at a key where there is one. -/
def modify (f : α → α) : Tbl α → Nat → Tbl α
  | [], _ => []
  | (j, w) :: t, k => if k = j then (j, f w) :: t else (j, w) :: modify f t k

/-- Keeps the entries that satisfy a condition. -/
def filterKV (t : Tbl α) (p : Nat → α → Bool) : Tbl α := t.filter fun e => p e.1 e.2

/-- Changes every entry. -/
def mapVals (f : α → α) (t : Tbl α) : Tbl α := t.map fun e => (e.1, f e.2)

/-- The keys. -/
def keys (t : Tbl α) : List Nat := t.map (·.1)

/-- The values. -/
def vals (t : Tbl α) : List α := t.map (·.2)
end Tbl

/-- Sparse cells with a default: no entry equals the default, so equal contents are equal lists. -/
abbrev Cells (α : Type) := List (Nat × α)

namespace Cells
variable {α : Type}

/-- The content of a cell. -/
def get (d : α) (c : Cells α) (k : Nat) : α := Tbl.getD c k d

/-- Writes a cell; writing the default takes the entry out. -/
def put [DecidableEq α] (d : α) (c : Cells α) (k : Nat) (v : α) : Cells α :=
  if v = d then Tbl.erase c k else Tbl.set c k v
end Cells

/-- Rising keys, all at or above `lo`, and no entry equal to the default. -/
def cellsOk [DecidableEq α] (d : α) : Nat → Cells α → Bool
  | _, [] => true
  | lo, (k, v) :: t => decide (lo ≤ k) && decide (v ≠ d) && cellsOk d (k + 1) t

/-- What a byte of memory that nothing has written reads as (DESIGN CHOICE, log 1). -/
def Memory.unlisted : Byte := 0

/-- The canonical form of memory. -/
def Memory.wf (m : List Host.Cell) : Bool := cellsOk Memory.unlisted 0 m

/-- Replaces element `k` of a list, where there is one. -/
def listSet {α : Type} : List α → Nat → α → List α
  | [], _, _ => []
  | _ :: t, 0, v => v :: t
  | x :: t, k + 1, v => x :: listSet t k v

/-- Changes element `k` of a list, where there is one. -/
def listMod {α : Type} (f : α → α) : List α → Nat → List α
  | [], _ => []
  | x :: t, 0 => f x :: t
  | x :: t, k + 1 => x :: listMod f t k

/-- The first element that satisfies a condition, with its place. -/
def findWhere {α : Type} (p : α → Bool) : List α → Nat → Option (Nat × α)
  | [], _ => none
  | x :: t, i => if p x then some (i, x) else findWhere p t (i + 1)

/-- Puts an element before the first that is not to stand before it. -/
def insertBy {α : Type} (le : α → α → Bool) (x : α) : List α → List α
  | [] => [x]
  | y :: t => if le x y then x :: y :: t else y :: insertBy le x t

/-- A list in the order of `le`; equal elements keep their order. -/
def sortBy {α : Type} (le : α → α → Bool) : List α → List α
  | [] => []
  | x :: t => insertBy le x (sortBy le t)

end Sys2Proof.Machine
end

