-- ==== Sys2Proof/Machine/Units.lean ====
section
/-! DEFINITION. The state of each unit of the device, as plain data: groups and their splits, cores, clusters, homes, jobs and their objects, engines, peers. Every field names the rule that gives it. -/

namespace Sys2Proof.Machine

/-- The codes of R362. -/
inductive ExcCode where
  | illegalInstruction | illegalTarget | unheldRegister | transientLost | divergenceOverflow | mergeMismatch
  | breakpoint | software | readOnlyControl | lockLimit | lockOrder | lockState | holdLimit | divergentBarrier
  | unreservedTile | staleness | versionRing
  | address | alignment | windowBound | replayable | translationFatal | pageAttribute | versionSpan
  | boundaryCrossing | peerRange | invalidShape | shapeRecord | matrixDescriptor | operandDescriptor
  | collectiveArgument | hutchCommand | poisonedData
  deriving DecidableEq, Repr, Inhabited

/-- A trap or fault with what its record needs (R364). -/
structure Exc where
  code : ExcCode
  lane : Option Nat
  info : DWord
  deriving DecidableEq, Repr, Inhabited

/-- The writes of one instruction's result: vector cells (32 × register + lane), scalars, and predicate bits (number, lanes, values) (R70, R83). -/
structure RegWrites where
  vs : List (Nat × Word)
  ss : List (Nat × DWord)
  ps : List (Nat × Mask × Mask)
  deriving DecidableEq, Repr, Inhabited

/-- Kinds of entry into a clause (R451). -/
inductive EntryKind where
  | branch | fallThrough | resumed
  deriving DecidableEq, Repr, Inhabited

/-- An open region: its entry, live-ins and `rs.ctr` at entry (R125, R128, R93). -/
structure Region where
  clause : DWord
  index : Nat
  longs : Nat
  whole : Bool
  vmask : BitVec 32
  smask : BitVec 32
  xmask : BitVec 6
  pmask : BitVec 8
  rsCtr : DWord
  since : Nat
  deriving DecidableEq, Repr, Inhabited

/-- Why a split's last attempt to issue did not issue (R51, R108, R109). `long` is a wait on an operation of the group that sets a clause flag, `table` one on an entry of the core's transaction table (R355). -/
inductive Stall where
  | long | table | other
  deriving DecidableEq, Repr, Inhabited

/-- A split (R36): its place in a clause (R101), the clause as it was checked on entry (R122), mask, region, bypass (R78), merge stack (R183). `entry` is the kind of entry still to be checked; `rest` holds the lanes still to issue of an instruction that issues once for each peer (R278). -/
structure Split where
  pc : DWord
  index : Nat
  entry : Option EntryKind
  code : List Word
  word : Nat
  longs : Nat
  mask : Mask
  region : Region
  bypass : List RegWrites
  merges : List DWord
  mergeWait : Bool
  waitSince : Nat
  stall : Option Stall
  noMatch : Bool
  waitOver : Bool
  rest : Option Mask
  gone : Bool
  deriving DecidableEq, Repr, Inhabited

/-- Where an instruction stands: split, clause, index, active lanes (R364), and its word in the clause; 0 is the header (R42). -/
structure Site where
  split : Nat
  pc : DWord
  index : Nat
  lanes : Mask
  word : Nat := 0
  deriving DecidableEq, Repr, Inhabited

/-- A shape register's snapshot: the record's address, 64 header bytes and the boundary table (R70, R310). -/
structure Snapshot where
  addr : DWord
  header : List Byte
  table : List Nat
  deriving DecidableEq, Repr, Inhabited

/-- A lane of a store: global address, physical address, the page where it is a replicated one (R222), bytes (R207). -/
structure LaneStore where
  lane : Nat
  va : DWord
  pa : Nat
  page : Option Nat
  data : List Byte
  deriving DecidableEq, Repr, Inhabited

/-- A store instruction of the store buffer (R207): its operation, size, lanes, and, once sent, the home numbers its lanes wait for: 4 × the issuing die + the home die, and the number. -/
structure StoreEntry where
  op : Nat
  size : Nat
  lanes : List LaneStore
  marks : List (Nat × Nat)
  deriving DecidableEq, Repr, Inhabited

/-- A cached translation (R369 to R372): job, first address, size, frame, attribute byte, permissions. -/
structure Leaf where
  base : Nat
  size : Nat
  addr : Nat
  frame : Option Nat
  attr : BitVec 8
  r : Bool
  w : Bool
  x : Bool
  deriving DecidableEq, Repr, Inhabited

/-- The lanes of an `ld.ver` and where its values go (R243). -/
structure VerLoad where
  record : Nat
  page : Nat
  minStep : Nat
  bytes : Nat
  dest : Reg
  lanes : List (Nat × Nat)
  since : Nat
  deriving DecidableEq, Repr, Inhabited

/-- How far an `sh.ld` has read its record (R310): its shape register, the record's address and page, the unequal readings so far, and the words of this reading. -/
structure ShapeRead where
  sh : Nat
  va : DWord
  leaf : Leaf
  tries : Nat
  words : List Word
  deriving DecidableEq, Repr, Inhabited

/-- What an outstanding operation is (R107). -/
inductive OpKind where
  | value | load | store | verStore | verLoad (q : VerLoad) | atomic | remote (pn : Option Nat) (dest : Reg) (bytes : Nat)
  | shape (q : ShapeRead) | matrix | collGet | take | fence | pending
  deriving DecidableEq, Repr, Inhabited

/-- An outstanding operation of a group (R40, R107, R109): its flag and split set, what it will write, and what it waits for. `closing` names the split whose closing instruction it is (R128); `past` says that the region it was issued in has closed. `tileReads` are tiles that it has only read (R295), `win` window ranges that it reads, or writes where it is a store (R354). -/
structure Op where
  id : Nat
  kind : OpKind
  flag : Option Nat
  splits : List Nat
  site : Site
  closing : Option Nat
  past : Bool
  entry : Bool
  parts : Nat
  writes : RegWrites
  tr : Bool
  vDests : List Nat
  sDests : List Nat
  pDests : List Nat
  shape : Option (Nat × Option Snapshot)
  tiles : List Nat
  tileReads : List Nat
  win : List (Nat × Nat)
  tileWrites : List (Nat × Nat × Word)
  exc : Option Exc
  verLast : Option Nat
  deriving DecidableEq, Repr, Inhabited

/-- What an atomic request does at its home (R251, R253, R273). -/
inductive AgKind where
  | atomic (op : AtomOp) (ty : Ty) | pair | watch (target : DWord)
  deriving DecidableEq, Repr, Inhabited

/-- Who sent an atomic request: an `atom`, a held effect, a `wait.ctr`, or a remote request that is served here (R248). -/
inductive AgSource where
  | atom (group op lane : Nat) | held (group : Nat) | waiter (group : Nat) | remote (served lane : Nat)
  deriving DecidableEq, Repr, Inhabited

/-- A lane request of an atomic service group's queue (R248); one for a replicated page carries the page and the die that wrote (R222). Its write carries the clock that the sender's die had when it left (R218). -/
structure AgReq where
  kind : AgKind
  pa : Nat
  va : DWord
  job : Nat
  x : DWord
  xn : DWord
  source : AgSource
  park : Option (Nat × Nat)
  clock : DieClock := [0, 0, 0, 0]
  deriving DecidableEq, Repr, Inhabited


/-- A page of a hutch command's ranges: its translation, and the slot the version home chose (R421, R423). -/
structure HutchPage where
  leaf : Leaf
  slot : Option Nat
  deriving DecidableEq, Repr, Inhabited

/-- A hutch command with the pages found at issue (R417, R421); in a queue it has its number, is ready once every slot is chosen (R422, R423), and stands at an element, with the two sums of CKSUM (R420). `err` is the code it is to complete with. -/
structure HutchCmd where
  id : Nat
  words : List DWord
  job : Nat
  team : Nat
  group : Nat
  tl : Nat
  number : Nat
  die : Nat
  stack : Nat
  dst : List HutchPage
  src : List HutchPage
  aux : List HutchPage
  mPages : List HutchPage
  mAddr : DWord
  hyper : List Word
  err : Option Nat
  ready : Bool
  since : Nat
  at_ : Nat
  sums : Nat × Nat
  deriving DecidableEq, Repr, Inhabited

/-- What a held effect does at hand-over (R126). -/
inductive Act where
  | red (reqs : List AgReq)
  | unlk (line : Nat)
  | post (core drawer : Nat)
  | dcnt (ds : List (Word × Word))
  | seal (record : Nat) (page : Nat) (step : Nat)
  | remote (peer : Nat) (kind : RemoteKind) (lanes : List RemoteLane)
  | rst (name : Word) (reg : Nat) (lanes : Mask) (values : List Word)
  | hcmd (tl : Nat) (cmd : HutchCmd)
  | coll (binding : DWord) (chunk : Nat) (step : Nat) (src : DWord)
  deriving DecidableEq, Repr, Inhabited

/-- An entry of the effect buffer (R126, R385). -/
structure Effect where
  split : Nat
  clause : DWord
  index : Nat
  opcode : Nat
  lanes : Mask
  where_ : DWord
  blocks : List DWord
  act : Act
  deriving DecidableEq, Repr, Inhabited

/-- What a release performs once its notices are acknowledged (R211 step 3). -/
inductive RelAct where
  | fence (op : Nat) (acq : Bool)
  | unlk (line : Nat)
  | post (core drawer : Nat)
  | dcnt (handle n : Word)
  | seal (record page step : Nat)
  | arrive (op n : Nat) (waits : Bool)
  | launch (op : Nat) (d : Nat) (record : DWord)
  deriving DecidableEq, Repr, Inhabited

/-- A release in progress (R211): first every earlier access acknowledged, then the notices, core by core. -/
structure Release where
  scope : Scope
  posted : Bool
  toArrive : List Nat
  toAck : List Nat
  act : RelAct
  deriving DecidableEq, Repr, Inhabited

/-- An entry of the hold table (R284). -/
structure Hold where
  reg : Nat
  count : Int
  deriving DecidableEq, Repr, Inhabited

/-- An entry of the deferral stack (R38). -/
structure Deferral where
  split : Nat
  resumePc : DWord
  resumeMask : Mask
  merge : DWord
  parked : Mask
  second : Bool
  deriving DecidableEq, Repr, Inhabited

/-- A pending version-ring trap (R453): the `st.ver`, by its issue, and its dropped lanes with their stores. -/
structure RingTrap where
  op : Nat
  site : Site
  step : Nat
  lanes : List (Nat × Nat × Nat × List Byte)
  deriving DecidableEq, Repr, Inhabited

/-- The trap a group waits on (R365, R366): what was raised, the index of its record, whether it was raised at the clause check, and the stores of a version-ring trap. -/
structure Trapped where
  site : Site
  exc : Exc
  idx : Nat
  clauseCheck : Bool
  ring : Option RingTrap
  deriving DecidableEq, Repr, Inhabited

/-- Stages of a lock request (R256). -/
inductive LockStage where
  | sent | queued | refused (again : Nat) | granted (line : Option (List Byte))
  deriving DecidableEq, Repr, Inhabited

/-- What a group waits on (R45). -/
inductive WaitFor where
  | barrier (phase : Nat)
  | lock (line : Nat) (va : DWord) (sd : SReg) (pd : PSel) (since : Nat) (stage : LockStage)
  | timeline (tl n : Nat)
  | hold (reg : Nat)
  | xacq (n : Nat)
  | sealed (op : Nat)
  | counter (pa : Nat) (sd : SReg)
  | stepAdv (sd : SReg)
  | trap (t : Trapped)
  | page (site : Site) (job : Nat) (va : DWord)
  deriving DecidableEq, Repr, Inhabited

/-- States of a group (R53); ACTIVE and PENDING are `live`, told apart by the position (R50). -/
inductive GroupState where
  | live | waiting | migrating | swapped | halted | exited
  deriving DecidableEq, Repr, Inhabited

/-- A drawer (R42). Kind 0 free, 1 group, 2 task, 3 team; the team kind data is phase, A, E, the group kind data the saved wait operands. -/
structure Drawer where
  gen : BitVec 8
  kind : Nat
  waitKind : Nat
  count : Word
  flags : BitVec 8
  team : Nat
  ownerBlock : Nat
  object : DWord
  deadline : DWord
  entry : DWord
  arg : DWord
  phase : Word
  arrived : Word
  quota : Word
  operands : List DWord
  reserved : Bool
  deriving DecidableEq, Repr, Inhabited

/-- A group (R34 to R46, R70, R380). `v` holds cell 32 × register + lane; `lastIssue` is 0 after a `yield`, 1 before the first issue, else 2 more than the clock of the last one (R52, R190); `readied` is the clock in which a decrement last ended a wait (R60); `discarded` lists the effects a halt discarded (R385); `seen` is the clock of the operations up to the values its `tl.rd` have read (R231); `imageDue` lists what its team's image still has to be brought up to: 0 its h, 1 its failure registers, 2 its drawer (R63, R75, R280); `late` holds the lanes that `rst` stores have written to blocks granted while it is swapped out (R77, R286). -/
structure Group where
  id : Nat
  job : Nat
  team : Nat
  index : Nat
  task : Bool
  state : GroupState
  core : Nat
  slot : Nat
  pos : Nat
  block : Nat
  readyAt : Nat
  lastIssue : Nat
  issueFrom : Nat
  yielded : Option (Nat × List Nat)
  readied : Option Nat
  v : Cells Word
  h : Nat
  s : List DWord
  p : List Mask
  shapes : List (Option Snapshot)
  transients : Tbl Mask
  holds : List Hold
  rsKey : DWord
  rsCtr : DWord
  raFcnt : DWord
  raFlast : DWord
  stepCur : Word
  verLast : Word
  name : Word
  splits : Tbl Split
  deferrals : List Deferral
  ops : List Op
  effects : List Effect
  handed : List Effect
  discarded : List Effect
  releases : List Release
  sb : List StoreEntry
  sent : List StoreEntry
  blocks : List DWord
  full : Bool
  carry : Signature
  outEff : Nat
  outRemote : Nat
  locks : List Nat
  lockVas : List (Nat × DWord)
  wait : Option WaitFor
  waitSeq : Nat
  waitSplit : Nat
  arrivedAt : Nat
  released : Bool
  ringTraps : List RingTrap
  savedTiles : List (Nat × Cells Word)
  savedH : Nat
  savedDrawer : Option Drawer
  seen : DieClock := [0, 0, 0, 0]
  imageDue : List Nat := []
  late : List (Nat × Word) := []
  deriving DecidableEq, Repr, Inhabited

/-- A decrement on its way to a core (R44): handle, amount, status, the job it is sent for; one that wakes a group names the group and the wait it belongs to, as the drawer's generation does; a held one names the group that its acknowledgement goes to. It carries the clock of the release it belongs to (R217, R218). -/
structure Decrement where
  handle : Word
  n : Word
  status : Nat
  job : Nat
  group : Option (Nat × Nat)
  ack : Option Nat
  clock : DieClock
  deriving DecidableEq, Repr, Inhabited

/-- A base block, chunk, control-file entry or tile that no group holds keeps its contents and the job that wrote it (R82). -/
structure Residue where
  job : Option Nat
  cells : Cells Word
  deriving DecidableEq, Repr, Inhabited

/-- A control-file entry (R19, R82). -/
structure CtlFile where
  job : Option Nat
  s : List DWord
  p : List Mask
  deriving DecidableEq, Repr, Inhabited

/-- An accumulator tile (R71, R294): the group it is reserved to, job tag, element 32 i + j. -/
structure Tile where
  owner : Option Nat
  job : Option Nat
  cells : Cells Word
  deriving DecidableEq, Repr, Inhabited

/-- A line of an L1 (R206, R288): physical line, global block address, contents, stream mark, last use, and when it was filled. -/
structure L1Line where
  line : Nat
  va : DWord
  data : List Byte
  stream : Bool
  used : Nat
  filled : Nat
  deriving DecidableEq, Repr, Inhabited

/-- What a translation is for (R371). -/
inductive Access where
  | load | store | fetch
  deriving DecidableEq, Repr, Inhabited

/-- A miss on its way (R372): the group and the instruction that missed, the index its record would carry (R123), the lane, the address, the access. -/
structure Miss where
  group : Nat
  site : Site
  idx : Nat
  lane : Option Nat
  job : Nat
  va : DWord
  access : Access
  deriving DecidableEq, Repr, Inhabited

/-- An entry of a miss queue (R372): an address of the page, requesters, whether it is parked, since when, and when it is walked next. -/
structure MissEntry where
  job : Nat
  va : DWord
  access : Access
  waiters : List Miss
  parked : Bool
  since : Nat
  again : Nat
  deriving DecidableEq, Repr, Inhabited

/-- The retained copy of the tile shelf (R302). -/
structure Shelf where
  group : Nat
  sb : DWord
  pb : Nat
  k : Nat
  sub : Nat
  cols : List Nat
  bytes : List (Nat × List Byte)
  deriving DecidableEq, Repr, Inhabited

/-- The ranges a core holds for a launch (R356). -/
structure Ranges where
  lo : Nat
  hi : Nat
  spareLo : Nat
  spareHi : Nat
  deriving DecidableEq, Repr, Inhabited

/-- A `take` request on a core (R329, R358). -/
structure TakeReq where
  group : Nat
  op : Nat
  launch : Nat
  n : Nat
  sd : Nat
  deriving DecidableEq, Repr, Inhabited

/-- The stage of the steal protocol a core's `take` stands at (R357). -/
inductive TakeStage where
  | grab | range (lo hi : Nat) | empty (holders : List Nat) | steal (victim : Nat) (rest : List Nat)
  deriving DecidableEq, Repr, Inhabited

/-- A STEAL, or the answer to one (R357): thief, launch, whether a `take` waits for it, and the range given. -/
structure StealMsg where
  thief : Nat
  launch : Nat
  forTake : Bool
  lo : Nat
  hi : Nat
  deriving DecidableEq, Repr, Inhabited

/-- A forwarding entry of a core (R67): the group that left, its drawer's index and generation, and the operations whose acknowledgements are owed to this core. -/
structure Forward where
  group : Nat
  drawer : Nat
  gen : BitVec 8
  owed : List Nat
  deriving DecidableEq, Repr, Inhabited

/-- A core (R18, R19, R21, R42, R206, R208, R372, R356). `posMap` binds position p of slot s, at 16 s + p, to a base block (R50); `swaps` lists the pairs of R51 that stand to be exchanged (R350); `lastTake` is the clock of the `take` or STEAL that the core handled last and its rank in that clock: a slot, or 4 for a STEAL (R358). -/
structure Core where
  blocks : Tbl Residue
  chunks : Tbl Residue
  chunkOwners : Tbl Nat
  ctl : Tbl CtlFile
  tiles : Tbl Tile
  drawers : Tbl Drawer
  l1 : List L1Line
  signature : Signature
  icache : List (Nat × Nat × List Byte)
  xlat : List (Nat × Leaf)
  chunkQueue : List (Nat × Nat)
  startQueue : List (Nat × Drawer)
  arrivals : List Decrement
  held : List Decrement
  misses : List Miss
  shelf : Option Shelf
  ranges : Tbl Ranges
  takes : List TakeReq
  lastTake : Option (Nat × Nat)
  stage : Option TakeStage
  dries : List Nat
  steals : List StealMsg
  gives : List StealMsg
  nones : List StealMsg
  matches_ : List (DWord × Option Nat)
  forwards : List Forward
  slotBusy : List Nat
  swaps : List (Nat × Nat)
  posMap : List Nat
  deriving DecidableEq, Repr, Inhabited

/-- What a timeline operation of the copy engine does (R316, R317); it stands at an offset; one stalled there on a page has since when (R318). -/
structure CopyOp where
  id : Nat
  job : Nat
  team : Nat
  group : Nat
  tl : Nat
  number : Nat
  gather : Bool
  dir : CopyDir
  dst : DWord
  src : DWord
  len : Nat
  idx : DWord
  rows : Nat
  die : Nat
  at_ : Nat
  stalled : Option Nat
  deriving DecidableEq, Repr, Inhabited

/-- A cluster's shared units (R13, R14, R372, R316). `sending` holds requests that their senders have not yet put into the queue, each with its sender: a core, or 512 for the fabric (R248). Watches are (address, target, group). -/
structure Cluster where
  sending : List (Nat × AgReq)
  queue : List AgReq
  watches : List (Nat × DWord × Nat)
  xlat : List (Nat × Leaf)
  copies : List CopyOp
  deriving DecidableEq, Repr, Inhabited

/-- A waiter of a lock queue (R256 to R259, R289). -/
structure LockWaiter where
  group : Nat
  marked : Bool
  deriving DecidableEq, Repr, Inhabited

/-- A line of a bench (R256, R260): the holder, the queue, or a free line's poison mark; and the clock of the last holder's release (R217, R218). -/
structure LockLine where
  holder : Option Nat
  queue : List LockWaiter
  poisoned : Bool
  clock : DieClock
  deriving DecidableEq, Repr, Inhabited

/-- An L2 slice (R13): the lines of its 1 MiB, the last used first, its lock bench with the releases on their way (line, poisoned, clock), and its miss queue. A home line's contents are the memory's; a visitor copy's stand at the die. -/
structure Slice where
  lines : List Nat
  bench : Tbl LockLine
  releases : List (Nat × Bool × DieClock)
  misses : List MissEntry
  deriving DecidableEq, Repr, Inhabited

/-- Who stores to a version home (R225, R407, R429, R435). -/
inductive VerFrom where
  | group (g op lane : Nat) | result (job : Nat) | mirror | fill
  deriving DecidableEq, Repr, Inhabited

/-- A store held or queued at a version home (R225); an engine's has the address that its notice names (R230). -/
structure VerStore where
  notice : Option DWord
  source : VerFrom
  offset : Nat
  step : Nat
  data : List Byte
  since : Nat
  deriving DecidableEq, Repr, Inhabited

/-- A seal queued or parked at a version home (R226), with the clock of its release (R217, R218). -/
structure VerSeal where
  job : Nat
  group : Option Nat
  page : Nat
  step : Nat
  since : Nat
  clock : DieClock
  deriving DecidableEq, Repr, Inhabited

/-- A version home's own state beside the record in memory (R224 to R228, R423, R430): what arrived, what is held, the fill due, commands accepted and transfers under way per slot. -/
structure Home where
  job : Nat
  pageSize : Nat
  attr : BitVec 8
  stores : List VerStore
  heldStores : List VerStore
  seals : List VerSeal
  parked : List VerSeal
  loads : List (Nat × Nat)
  fill : Option (Nat × Nat)
  commands : List Nat
  transfers : List Nat
  deriving DecidableEq, Repr, Inhabited

/-- A home write on its way to another die (R218): its number, the clock it carries, and the bytes where that die holds a copy. -/
structure HomeMsg where
  number : Nat
  clock : DieClock
  bytes : List (Nat × Byte)
  deriving DecidableEq, Repr, Inhabited

/-- A compute die's part in R218: applied and causal clocks, visitor copies by line, and the messages in flight to it by source die. -/
structure Die where
  applied : DieClock
  causal : DieClock
  visitors : Tbl (List Byte)
  inbox : List (List HomeMsg)
  deriving DecidableEq, Repr, Inhabited

/-- A timeline counter with its context (R319, R320) and the clock of the operations that have completed (R217, R231). -/
structure Timeline where
  clock : DieClock
  counter : Nat
  accepted : Nat
  done : List Nat
  errOp : Nat
  errCode : Nat
  errX : Nat
  deriving DecidableEq, Repr, Inhabited

/-- A window range entered in the range table (R354): the copy, written or read, start and end. -/
structure WinRange where
  op : Nat
  group : Nat
  written : Bool
  lo : Nat
  hi : Nat
  deriving DecidableEq, Repr, Inhabited

/-- States of a team (R55). -/
inductive TeamState where
  | queued | placing | resident | swappingOut | swapped | restoring | closing | fatal | complete
  deriving DecidableEq, Repr, Inhabited

/-- A section of a dump: its kind, the group it is of, and its body as it stood after step 4 (R379). -/
structure DumpPart where
  kind : Nat
  group : Nat
  body : List Byte
  deriving DecidableEq, Repr, Inhabited

/-- Progress of a team's dump (R375 to R381): the first fault, the sections as they stood after step 4, what is still to be written of a dump that has started, and the second fault. -/
structure DumpState where
  code : ExcCode
  clause : DWord
  info : DWord
  group : Nat
  name : Word
  loc : Word
  clock : Nat
  records : List Nat
  base : Nat
  size : Nat
  offset : Nat
  length : Nat
  written : Nat
  saved : Option (List DumpPart)
  sections : Option (List DumpPart)
  flags : Nat
  second : Option (Nat × DWord × Word × Nat)
  locks : List (Nat × Nat × Nat)
  skip : Bool
  deriving DecidableEq, Repr, Inhabited

/-- A team (R54, R55, R203, R267, R319, R348, R354). `clock` is that of the arrivals at its barrier (R217, R218). `window` holds bytes by offset. `aliases` are the handles its pool drawers had before a swap: of a swapped team with the place in `savedDrawers`, of a resident one with core, index and generation (R63). `imageDue` lists the saved drawers that its image still has to be brought up to; `zeroed` lists, in order, those of tasks whose count is 0 and which have not started (R48); `imageLocks` counts the lines that its image names. -/
structure Team where
  id : Nat
  job : Nat
  launch : Option Nat
  index : Nat
  state : TeamState
  groups : Nat
  lanes : Nat
  entry : DWord
  arg : DWord
  step : Word
  quantum : Nat
  cluster : Nat
  place : Nat
  base : Nat
  windowSize : Nat
  window : Cells Byte
  windowPoison : List Nat
  residentSince : Nat
  quantumOver : Bool
  clock : DieClock
  tls : List Timeline
  ranges : List WinRange
  drawer : Nat
  savedDrawers : List (Nat × Nat × Drawer)
  aliases : List (Word × Nat × Nat × Nat)
  imageDue : List Nat := []
  zeroed : List Nat := []
  imageLocks : Nat := 0
  nextTask : Nat
  cancelled : Bool
  handler : Bool
  s0 : DWord
  s2 : DWord
  image : Option (Nat × Nat)
  dump : Option DumpState
  stopped : Bool
  cancelAt : Option Nat
  deriving DecidableEq, Repr, Inhabited

/-- States of the objects above a team (R56, R59). -/
inductive ObjState where
  | running | cancelling | complete
  deriving DecidableEq, Repr, Inhabited

/-- A launch (R342, R356): its record's fields, its counts and its index pool. -/
structure Launch where
  id : Nat
  job : Nat
  phase : Option Nat
  graph : Option (Nat × Nat)
  record : DWord
  state : ObjState
  fields : List Nat
  coll : DWord
  auto : Option (Nat × DWord)
  done : DWord
  count : Nat
  left : Nat
  flags : Nat
  failed : Bool
  escalated : Bool
  next : Nat
  holders : List Nat
  deriving DecidableEq, Repr, Inhabited

/-- A node of a graph (R341). -/
structure Node where
  kind : Nat
  npred : Nat
  succ : List Nat
  limit : Nat
  target : DWord
  deriving DecidableEq, Repr, Inhabited

/-- A graph in the walker or waiting for room in it (R351, R352). -/
structure Graph where
  id : Nat
  job : Nat
  phase : Nat
  record : DWord
  state : ObjState
  nodes : List Node
  cnt : List Nat
  iter : List Nat
  running : Nat
  starts : List Nat
  conds : List Nat
  condSince : Option Nat
  done : DWord
  count : Nat
  flags : Nat
  stopped : Bool
  failed : Bool
  escalated : Bool
  deriving DecidableEq, Repr, Inhabited

/-- A phase (R340); `skipped` says that some graph of it is not to be submitted any more. -/
structure Phase where
  id : Nat
  job : Nat
  record : DWord
  state : ObjState
  started : Bool
  step : Word
  overlap : Bool
  graphs : List DWord
  toSubmit : List DWord
  skipped : Bool
  left : Nat
  done : DWord
  count : Nat
  flags : Nat
  failed : Bool
  escalated : Bool
  deriving DecidableEq, Repr, Inhabited

/-- A sideboard entry (R410): step, present, when last heard. -/
structure SbEntry where
  step : Word
  present : Bool
  heard : Nat
  deriving DecidableEq, Repr, Inhabited

/-- A job (R339, R344, R363, R399, R410). `codeOld` holds, by physical address, the bytes that its instruction fetch still sees where a store of the job has written others since the last `dbg.iflush` (R135). -/
structure Job where
  number : Nat
  state : ObjState
  prio : Nat
  grace : Nat
  stale : Nat
  age : Nat
  lkcount : Nat
  lkring : DWord
  xroot : Nat
  done : DWord
  handler : DWord
  status : DWord
  step0 : Word
  lead : Word
  count : Nat
  flags : Nat
  escalated : Bool
  phases : List Nat
  swapped : List Nat
  queued : List Nat
  rot : Bool
  readySince : Option Nat
  readyFor : Nat
  aged : Bool
  lockReports : Nat
  dumps : List Nat
  cancelAt : Option Nat
  sbMem : BitVec 512
  sbAbsent : Word
  sideboard : Tbl SbEntry
  codeOld : Tbl Byte
  sbSentAt : Nat
  collDrop : Nat
  collLost : Nat
  trapActs : List DWord
  deriving DecidableEq, Repr, Inhabited

/-- An entry of the name table (R282): generation, and the group that holds it. -/
structure NameEntry where
  gen : BitVec 8
  holder : Option Nat
  exited : Bool
  deriving DecidableEq, Repr, Inhabited

/-- A hutch (R422): queue, and whether self-test disabled it is in the health record. -/
structure Hutch where
  queue : List HutchCmd
  deriving DecidableEq, Repr, Inhabited

/-- A contribution held in staging (R404): weight shift, whether it is late, its step and member, when it arrived, and its data. -/
structure Staged where
  shift : Nat
  late : Bool
  step : Nat
  member : Nat
  since : Nat
  data : List Word
  deriving DecidableEq, Repr, Inhabited

/-- An owned chunk (R404, R405): lowest open step, staging, RESENDs waiting, what the last four closes included, and the steps whose condition is met with the one met first: 0 quorum, 1 timer. -/
structure Chunk where
  job : Nat
  binding : DWord
  chunk : Nat
  open_ : Option Nat
  staged : List Staged
  early : List Staged
  closes : List (List (Nat × Nat))
  ready : List (Nat × Nat)
  deriving DecidableEq, Repr, Inhabited

/-- A contribution sent (R402, R408): binding, chunk, step, when it was sent, whether its copy is retained, whether its result was lost, whether it was resent. -/
structure Retained where
  id : Nat
  job : Nat
  binding : DWord
  chunk : Nat
  step : Nat
  sentAt : Nat
  copy : Bool
  lost : Bool
  resent : Bool
  deriving DecidableEq, Repr, Inhabited

/-- A send a collective engine still has to make (R323, R402), or keeps for want of class-1 credit (R403). -/
structure CollSend where
  job : Nat
  binding : DWord
  chunk : Nat
  step : Nat
  src : DWord
  group : Option Nat
  deriving DecidableEq, Repr, Inhabited

/-- A `coll.get` that waits (R325, R408); its destination line by line: address, physical address, the page where it is a replicated one. -/
structure CollGetWait where
  group : Nat
  op : Nat
  job : Nat
  binding : DWord
  chunk : Nat
  step : Nat
  dst : List (DWord × Nat × Option Nat)
  sd : Nat
  issued : Nat
  deriving DecidableEq, Repr, Inhabited

/-- The collective engines (R402 to R408): owned chunks, quorums set by `coll.quorum` (job, binding, step, q, floor), contributions sent, sends to make by die, gets that wait, and arrivals and results of this device itself. -/
structure CollState where
  chunks : Tbl Chunk
  quorums : List (Nat × DWord × Nat × Nat × Nat)
  retained : List Retained
  sends : List (Nat × CollSend)
  gets : List CollGetWait
  arrivals : List Contribution
  results : List ResultMsg
  deriving DecidableEq, Repr, Inhabited

/-- A write parked behind a claim (R222): one lane of a store and its group, an atomic request, or bytes of an engine at an offset of the page. -/
inductive Parked where
  | store (group op : Nat) (lane : LaneStore) | req (r : AgReq) | raw (off : Nat) (bytes : List Byte)
  deriving DecidableEq, Repr, Inhabited

/-- A page claimed for collapse (R222): job, page, survivor die, and the writes parked behind the claim, in their order of arrival. -/
structure CollapseClaim where
  id : Nat
  job : Nat
  va : Nat
  die : Nat
  parked : List Parked
  deriving DecidableEq, Repr, Inhabited

/-- States of a peer (R394). -/
inductive PeerState where
  | up | isolated | probing
  deriving DecidableEq, Repr, Inhabited

/-- Who waits for the response of a request (R393). -/
inductive ReqOrigin where
  | op (group op : Nat) | held (group : Nat) | rst (group : Nat)
  deriving DecidableEq, Repr, Inhabited

/-- An outstanding or waiting request to a peer (R393, R394, R397). -/
structure OutReq where
  seq : Nat
  origin : ReqOrigin
  job : Nat
  kind : Option RemoteKind
  lanes : List RemoteLane
  rst : Option (Word × Nat × Mask × List Word)
  issued : Nat
  deriving DecidableEq, Repr, Inhabited

/-- A remote request that this device serves (R220, R248, R278, R395): its sender, whether its lanes have been begun, the atomic lanes still in a service group's queue, and the answers so far. -/
structure Served where
  id : Nat
  peer : Nat
  seq : Nat
  job : Nat
  kind : RemoteKind
  lanes : List RemoteLane
  begun : Bool
  left : Nat
  answers : List LaneAnswer
  deriving DecidableEq, Repr, Inhabited

/-- How traffic goes to a peer (R278, R389, R396, R398): on the eight wavelengths of an optical bundle, through a UALink station, as a message write or not, through an Ethernet port, or not at all. -/
inductive Route where
  | own | optical (bundle wavelength : Nat) | station (n : Nat) (message : Bool) | port (n : Nat) | none
  deriving DecidableEq, Repr, Inhabited

/-- What leaves the device for a peer: posted messages, a result's class-0 header apart from its class-1 data (R407), credit that was withheld (R403), and requests as they are sent (R391, R393), to a UALink peer one of R396 for each lane. -/
inductive Posted where
  | contribution (peer : Nat) (m : Contribution) | resultHead (peer job : Nat) (binding : DWord) (chunk step count status : Nat) | resultData (peer job : Nat) (binding : DWord) (chunk step : Nat) (data : List Word) | sideboard (peer job : Nat) (step : Word)
  | mirror (peer : Nat) (m : MirrorMsg) | probe (peer : Nat) | probeAnswer (peer : Nat) | identity (peer : Nat) (record : List Byte) | credit (peer cls : Nat)
  | request (peer : Nat) (r : OutReq) | ualink (peer seq lane : Nat) (u : UaRequest) | answer (peer seq : Nat) (a : List LaneAnswer) | rstAnswer (peer seq cause : Nat)
  | holdRead (peer : Nat) (m : HoldRead) | holdImage (peer : Nat) (m : FillImage)
  deriving DecidableEq, Repr, Inhabited

/-- A peer (R387 to R394, R403, R441): `kept` is what waits for credit of a class; `withheld` says that this device withholds its class-1 credit from the peer. -/
structure Peer where
  state : PeerState
  since : Nat
  outstanding : List OutReq
  waiting : List OutReq
  fails : List Nat
  down : BitVec 8
  probeAt : Nat
  probeOut : Option Nat
  answered : Nat
  everUp : Bool
  identity : Option (List Byte)
  noCredit : BitVec 4
  withheld : Bool
  kept : List (Nat × Posted)
  deriving DecidableEq, Repr, Inhabited

/-- What leaves on a host port (R443, R444): port, kind, status, tag and payload, and of a read for a fill the board store it is for (R431). -/
structure HostMsg where
  port : Nat
  kind : Nat
  status : Nat
  tag : DWord
  payload : List Byte
  store : Option Nat := none
  deriving DecidableEq, Repr, Inhabited

/-- A displacement in progress (R348): the queue's job, the cluster, and the teams still to be swapped out. -/
structure Displacement where
  job : Nat
  cluster : Nat
  teams : List Nat
  deriving DecidableEq, Repr, Inhabited

/-- The scheduler's own state (R345 to R348): the cluster last chosen without a hint, the clock of the last placement, restore or start of a displacement, the displacements; the phases with graphs still to be submitted, in order of submission (R351); and the command engine's clock, which a group's start acquires (R217, R218). -/
structure Sched where
  lastCluster : Nat
  lastAct : Option Nat
  clock : DieClock
  displacements : List Displacement
  waitingPhases : List Nat
  deriving DecidableEq, Repr, Inhabited

/-- A mirror or a snapshot to be sent (R429, R430); a skipped one is only counted. -/
structure Transfer where
  mirror : Bool
  skip : Bool
  entry : Nat
  record : Nat
  slot : Nat
  page : Nat
  size : Nat
  step : Nat
  job : Nat
  frame : Nat
  deriving DecidableEq, Repr, Inhabited

/-- A write of a page's image to the board (R430): the place it goes to, its step, the slot it is read from, its header, and whether the header has been sent. -/
structure SnapWrite where
  place : Nat
  step : Nat
  record : Nat
  slot : Nat
  offset : Nat
  length : Nat
  header : List Byte
  last : Bool
  deriving DecidableEq, Repr, Inhabited

/-- Where a page's board images stand (R430): entry and page, the place of the newer complete image, and the write under way. -/
structure BoardPlace where
  entry : Nat
  page : Nat
  newer : Option Nat
  writing : Option SnapWrite
  deriving DecidableEq, Repr, Inhabited

/-- A fill of a spare (R431 to R433): the FILL being carried out, since when, all its pages by entry, those still to do, the entries filled from the board, whether the source of the first page has been asked, the write of a page under way by record and step, and whether any page had no source. -/
structure FillJob where
  host : HostTag
  peer : Nat
  store : Nat
  since : Nat
  pages : List (Nat × Nat)
  all : List (Nat × Nat)
  fromBoard : List Nat
  asked : Bool
  writing : Option (Nat × Nat)
  partial_ : Bool
  deriving DecidableEq, Repr, Inhabited

/-- A monitor's record (R448, R450). -/
structure MonRec where
  lo : Nat
  hi : Nat
  count : Nat
  buckets : List Nat
  deriving DecidableEq, Repr, Inhabited

end Sys2Proof.Machine
end

