-- ==== Sys2Proof/Machine/State.lean ====
section
/-! DEFINITION. The state of the device (INVENTORY.md, State), the ways a step can stop, and the machine right after reset. -/

namespace Sys2Proof.Machine

/-- States of a start (R436, R450), in the order of START_STAT. -/
inductive StartState where
  | fuse | sign | hbm | bist | fabric | ready | secureHalt
  deriving DecidableEq, Repr, Inhabited

/-- An entry of the resilience map (R427) with its miss count and LOST mark. -/
structure ResEntry where
  base : DWord
  len : DWord
  job : Nat
  ctl : BitVec 8
  partner : Nat
  miss : Nat
  nvm : DWord
  deriving DecidableEq, Repr, Inhabited

/-- The platform (R436 to R450): start, management registers, maps, power, monitor window. No instruction of code writes any of it. -/
structure Platform where
  start : StartState
  self : Word
  failCode : Nat
  warm : Bool
  hostPorts : Word
  feed : Word
  fwVer : Word
  rollback : Word
  fwDigest : BitVec 256
  serial : BitVec 128
  pwrLimit : Word
  level : Nat
  eccCe : DWord
  health : BitVec 2048
  monBase : List Word
  window : List MonRec
  monRunning : Bool
  remap : Tbl Word
  resmap : Tbl ResEntry
  resStage : Tbl (BitVec 256)
  resStat : Nat
  boots : Nat
  linkSaved : Bool
  powerSums : List Nat
  roseAt : Option Nat
  lowSince : Option Nat
  fillJob : Option FillJob
  fillQueue : List (HostTag × Nat × Nat)
  heldPhases : List (HostTag × Nat × DWord)
  places : List BoardPlace
  deriving DecidableEq, Repr, Inhabited

/-- The rest of the device: memory, dies, cores, groups, jobs, engines, peers. `clock` counts arithmetic clocks, and `time` the units of R386 and R447 in which every level's clock is whole: 1008000 to a microsecond. `poison` lists the words whose mark is not that of their stack; `badStacks` are the stacks every word of which was marked (R425, R438); `port` is the clock of the remote accesses performed here, which a later one of them carries (R217, R218, R220). -/
structure Device where
  clock : Nat
  time : Nat
  nextId : Nat
  seed : Nat
  mem : List Host.Cell
  poison : List Nat
  badStacks : BitVec 8
  dies : List Die
  lineClock : Tbl DieClock
  cores : Tbl Core
  clusters : Tbl Cluster
  slices : Tbl Slice
  homes : Tbl Home
  names : Tbl NameEntry
  groups : Tbl Group
  teams : Tbl Team
  launches : Tbl Launch
  graphs : Tbl Graph
  phases : Tbl Phase
  jobs : Tbl Job
  hutches : Tbl Hutch
  coll : CollState
  collapses : List CollapseClaim
  rsts : List RstMsg
  served : List Served
  port : DieClock
  peers : Tbl Peer
  sched : Sched
  transfers : List Transfer
  monitors : List MonRec
  hostOut : List HostMsg
  fabricOut : List (Route × Posted)
  deriving DecidableEq, Repr, Inhabited

/-- Whose move is next: not settled yet, or a split's that is to issue (log 2). -/
inductive Turn where
  | free | issue (group split : Nat)
  deriving DecidableEq, Repr, Inhabited

/-- The state of the machine. `tick` counts steps; free values are taken at it (log 2). -/
structure State where
  dev : Device
  plat : Platform
  turn : Turn
  tick : Nat
  deriving DecidableEq, Repr, Inhabited

/-- Why a step stops with a fault. -/
inductive Fault where
  /-- Raised by every instruction of code when no split of the state is to issue it. Safe: on the device an instruction is issued by a split (R36). -/
  | noIssuingSplit
  /-- Raised by the walk of a table, a clause check or an access of an instruction that meets a physical address outside the stacks (R199). Safe: no such address exists. -/
  | absentAddress
  deriving DecidableEq, Repr, Inhabited

/-- Why a step has no meaning. -/
inductive Refusal where
  /-- Raised by an arm of `exec` whose instruction has no meaning yet, under its mnemonic. Safe: nothing is claimed of it. -/
  | notModelled (mnemonic : String)
  deriving DecidableEq, Repr, Inhabited

/-- A compute die at reset (R218, R437). -/
def Die.reset : Die := { applied := [0, 0, 0, 0], causal := [0, 0, 0, 0], visitors := [], inbox := [[], [], [], []] }

/-- A monitor record with nothing recorded (R448). -/
def MonRec.zero : MonRec := { lo := 0, hi := 0, count := 0, buckets := List.replicate 32 0 }

/-- The platform at reset (R449); what the table gives as straps, running version and fuses stands at 0 until FUSE and SIGN (log 8). -/
def Platform.reset : Platform where
  start := .fuse
  self := 0
  failCode := 0
  warm := false
  hostPorts := 8
  feed := 0
  fwVer := 0
  rollback := 0
  fwDigest := 0
  serial := 0
  pwrLimit := 3600
  level := 0
  eccCe := 0
  health := 0
  monBase := List.replicate 11 1
  window := List.replicate 11 MonRec.zero
  monRunning := false
  remap := []
  resmap := []
  resStage := []
  resStat := 0
  boots := 0
  linkSaved := false
  powerSums := []
  roseAt := none
  lowSince := none
  fillJob := none
  fillQueue := []
  heldPhases := []
  places := []

/-- The device at reset: nothing admitted, nothing listed in memory (log 1, log 6). -/
def Device.reset : Device where
  clock := 0
  time := 0
  nextId := 1
  seed := 0
  mem := []
  poison := []
  badStacks := 0
  dies := List.replicate 4 Die.reset
  lineClock := []
  cores := []
  clusters := []
  slices := []
  homes := []
  names := []
  groups := []
  teams := []
  launches := []
  graphs := []
  phases := []
  jobs := []
  hutches := []
  coll := { chunks := [], quorums := [], retained := [], sends := [], gets := [], arrivals := [], results := [] }
  collapses := []
  rsts := []
  served := []
  port := [0, 0, 0, 0]
  peers := []
  sched := { lastCluster := 127, lastAct := none, clock := [0, 0, 0, 0], displacements := [], waitingPhases := [] }
  transfers := []
  monitors := List.replicate 11 MonRec.zero
  hostOut := []
  fabricOut := []

/-- The machine right after reset (R436): the cold start stands at FUSE. -/
def State.reset : State := { dev := Device.reset, plat := Platform.reset, turn := .free, tick := 0 }

end Sys2Proof.Machine
end

