-- ==== Sys2Proof/Machine/Memory.lean ====
section
/-! DEFINITION. Units of the device by number, memory and poison, homes and dies (R199 to R202, R218), version records (R224), translation (R369 to R371), and the accesses engines make in a job's space. -/

namespace Sys2Proof.Machine

/-! Units by number. -/

/-- A drawer that is free (R42). -/
def Drawer.free (gen : BitVec 8) : Drawer :=
  { gen, kind := 0, waitKind := 0, count := 0, flags := 0, team := 0, ownerBlock := 0, object := 0, deadline := 0, entry := 0, arg := 0, phase := 0, arrived := 0, quota := 0, operands := [], reserved := false }
/-- A core as reset leaves it (R437, log 6). -/
def Core.reset : Core :=
  { blocks := [], chunks := [], chunkOwners := [], ctl := [], tiles := [], drawers := [], l1 := [], signature := 0, icache := [], xlat := [], chunkQueue := [], startQueue := [], arrivals := [], held := [], misses := [], shelf := none, ranges := [], takes := [], lastTake := none, stage := none, dries := [], steals := [], gives := [], nones := [], matches_ := List.replicate 8 (0, none), forwards := [], slotBusy := [0, 0, 0, 0], swaps := [], posMap := List.range 64 }
/-- A cluster as reset leaves it. -/
def Cluster.reset : Cluster := { sending := [], queue := [], watches := [], xlat := [], copies := [] }
/-- A slice as reset leaves it. -/
def Slice.reset : Slice := { lines := [], bench := [], releases := [], misses := [] }
/-- A peer as reset leaves it: ISOLATED (log 9). -/
def Peer.reset : Peer := { state := .isolated, since := 0, outstanding := [], waiting := [], fails := List.replicate 8 0, down := 0, probeAt := 0, probeOut := none, answered := 0, everUp := false, identity := none, noCredit := 0, withheld := false, kept := [] }

namespace Device
/-- Core `c`. -/
def core (d : Device) (c : Nat) : Core := Tbl.getD d.cores c Core.reset
/-- Changes core `c`. -/
def modCore (d : Device) (c : Nat) (f : Core → Core) : Device := { d with cores := Tbl.set d.cores c (f (d.core c)) }
/-- Cluster `c`, in package order. -/
def cluster (d : Device) (c : Nat) : Cluster := Tbl.getD d.clusters c Cluster.reset
/-- Changes cluster `c`. -/
def modCluster (d : Device) (c : Nat) (f : Cluster → Cluster) : Device := { d with clusters := Tbl.set d.clusters c (f (d.cluster c)) }
/-- Slice `k`, in package order. -/
def slice (d : Device) (k : Nat) : Slice := Tbl.getD d.slices k Slice.reset
/-- Changes slice `k`. -/
def modSlice (d : Device) (k : Nat) (f : Slice → Slice) : Device := { d with slices := Tbl.set d.slices k (f (d.slice k)) }
/-- Die `k`. -/
def die (d : Device) (k : Nat) : Die := d.dies.getD k Die.reset
/-- Changes die `k`. -/
def modDie (d : Device) (k : Nat) (f : Die → Die) : Device := { d with dies := listMod f d.dies k }
/-- Changes a group. -/
def modGroup (d : Device) (g : Nat) (f : Group → Group) : Device := { d with groups := Tbl.modify f d.groups g }
/-- Changes a team. -/
def modTeam (d : Device) (t : Nat) (f : Team → Team) : Device := { d with teams := Tbl.modify f d.teams t }
/-- Changes a job. -/
def modJob (d : Device) (j : Nat) (f : Job → Job) : Device := { d with jobs := Tbl.modify f d.jobs j }
/-- Peer `p`. -/
def peer (d : Device) (p : Nat) : Peer := Tbl.getD d.peers p Peer.reset
/-- Changes peer `p`. -/
def modPeer (d : Device) (p : Nat) (f : Peer → Peer) : Device := { d with peers := Tbl.set d.peers p (f (d.peer p)) }
/-- A fresh internal number. -/
def fresh (d : Device) : Nat × Device := (d.nextId, { d with nextId := d.nextId + 1 })
/-- The next free value (log 2). -/
def free (d : Device) : DWord × Device := (Config.freeValue d.seed, { d with seed := d.seed + 1 })
end Device

/-- Bit `n` of HEALTH is set: the unit is disabled (R30, R450). -/
def Platform.disabled (P : Platform) (n : Nat) : Bool := P.health.getLsbD n
/-- Cluster `c` is enabled (R30). -/
def Platform.clusterOn (P : Platform) (c : Nat) : Bool := !P.disabled c
/-- Cluster `c` may take teams: it and its four slices are enabled (R30). -/
def Platform.clusterOk (P : Platform) (c : Nat) : Bool :=
  !P.disabled c && !P.disabled (128 + 4 * c) && !P.disabled (129 + 4 * c) && !P.disabled (130 + 4 * c) && !P.disabled (131 + 4 * c)
/-- Hutch `k` is disabled. -/
def Platform.hutchOff (P : Platform) (k : Nat) : Bool := P.disabled (644 + k)
/-- The remap entry of peer `p` (R387). -/
def Platform.entry (P : Platform) (p : Nat) : Word := Cells.get 0 P.remap p
/-- The entry is valid. -/
def Platform.valid (P : Platform) (p : Nat) : Bool := (P.entry p).getLsbD 31
/-- The peer is no SX-4 (R387). -/
def Platform.foreign (P : Platform) (p : Nat) : Bool := (P.entry p).getLsbD 28

/-- The peer performs one source's requests in arrival order (R387, R397). -/
def Platform.ord (P : Platform) (p : Nat) : Bool := (P.entry p).getLsbD 27
/-- The device's own logical number: the index of the valid entry that describes itself (R387); 0 where none does (log 20). -/
def Platform.own (P : Platform) : Nat :=
  match P.remap.find? (fun e => e.2.getLsbD 31 && (e.2 ||| 0x80000000#32) == (P.self ||| 0x80000000#32)) with
  | some e => e.1
  | none => 0

/-! Memory (R4, R199, R425). -/

/-- A physical address lies in a stack (R199). -/
def physOk (a : Nat) : Bool := decide (a / 2 ^ 36 < 8) && decide (a % 2 ^ 36 < 48 * 10 ^ 9)
/-- The home die of a physical address (R199). -/
def homeDie (a : Nat) : Nat := a / 2 ^ 36 / 2
/-- The home slice of R200 in its die. -/
def sliceHash (a : Nat) : Nat :=
  Nat.xor (Nat.xor (Nat.xor (Nat.xor (a / 2 ^ 6 % 128) (a / 2 ^ 13 % 128)) (a / 2 ^ 20 % 128)) (a / 2 ^ 27 % 128)) (a / 2 ^ 34 % 32)
/-- The first enabled slice at or after `h` (R201). -/
def enabledSlice (P : Platform) (die : Nat) : Nat → Nat → Nat
  | 0, h => h
  | n + 1, h => if P.disabled (128 + die * 128 + h) then enabledSlice P die n ((h + 1) % 128) else h
/-- The home slice of a line, in package order (R200, R201). -/
def homeSlice (P : Platform) (a : Nat) : Nat := homeDie a * 128 + enabledSlice P (homeDie a) 127 (sliceHash a)

namespace Device
/-- One byte of memory. -/
def readByte (d : Device) (a : Nat) : Byte := Cells.get Memory.unlisted d.mem a
/-- Writes one byte of memory: the one place where memory changes. -/
def writeByte (d : Device) (a : Nat) (b : Byte) : Device := { d with mem := Cells.put Memory.unlisted d.mem a b }
/-- `n` bytes from an address. -/
def readBytes (d : Device) (a : Nat) : Nat → List Byte
  | 0 => []
  | n + 1 => d.readByte a :: d.readBytes (a + 1) n
/-- Writes bytes from an address. -/
def writeBytes (d : Device) (a : Nat) : List Byte → Device
  | [] => d
  | b :: t => (d.writeByte a b).writeBytes (a + 1) t
/-- A little-endian number of `n` bytes (R4). -/
def readNat (d : Device) (a n : Nat) : Nat := natOf (d.readBytes a n)
/-- A word's poison mark (R425): a word is listed where its mark is not that of its stack (R438). -/
def wordBad (d : Device) (w : Nat) : Bool := d.poison.contains w != d.badStacks.getLsbD (w / 2 ^ 34)
/-- Sets a word's mark. -/
def markWord (d : Device) (bad : Bool) (w : Nat) : Device :=
  if d.wordBad w = bad then d else { d with poison := if d.poison.contains w then d.poison.filter (· != w) else w :: d.poison }
/-- The word at an address is poisoned. -/
def poisoned (d : Device) (a : Nat) : Bool := d.wordBad (a / 4)
/-- A line is poisoned when any of its words is (R425). -/
def linePoisoned (d : Device) (a : Nat) : Bool := (List.range 16).any fun i => d.wordBad (a / 64 * 16 + i)
/-- Any word of a range is poisoned. -/
def anyPoison (d : Device) (a n : Nat) : Bool := n != 0 && (List.range ((a + n - 1) / 4 - a / 4 + 1)).any fun i => d.wordBad (a / 4 + i)
/-- Clears the marks of the words wholly in a range. -/
def clearPoison (d : Device) (a n : Nat) : Device := (List.range ((a + n) / 4 - (a + 3) / 4)).foldl (fun d i => d.markWord false ((a + 3) / 4 + i)) d
/-- Marks one word (R426). -/
def setPoison (d : Device) (a : Nat) : Device := d.markWord true (a / 4)
end Device

/-- The entrywise greater of two clocks (R218). -/
def clockMax (a b : DieClock) : DieClock := List.zipWith max a b
/-- The clock that says nothing. -/
def clockZero : DieClock := [0, 0, 0, 0]
/-- A timeline of a team when it is placed (R319). -/
def Timeline.start : Timeline := { clock := clockZero, counter := 0, accepted := 0, done := [], errOp := 0, errCode := 0, errX := 0 }
/-- A clock that names one write: number `n` of die `h`. -/
def clockAt (m : Nat × Nat) : DieClock := listSet clockZero m.1 m.2
/-- Merges a clock into a die's causal clock (R218). -/
def Device.mergeClock (d : Device) (k : Nat) (c : DieClock) : Device := d.modDie k fun x => { x with causal := clockMax x.causal c }
/-- The command engine learns of what a die's parties have released (R55, R217). -/
def Device.toCommand (d : Device) (k : Nat) : Device := { d with sched := { d.sched with clock := clockMax d.sched.clock (d.die k).causal } }
/-- A start on a die acquires what the command engine knows (R217). -/
def Device.fromCommand (d : Device) (k : Nat) : Device := d.mergeClock k d.sched.clock
/-- The clock a release write left with a line (R218). -/
def Device.clockOf (d : Device) (a : Nat) : DieClock := Tbl.getD d.lineClock (a / 64) clockZero
/-- Entrywise at or above. -/
def clockLe (a b : DieClock) : Bool := (List.zipWith (fun x y => decide (x ≤ y)) a b).all id

/-- Puts a home write into the inbox of another die (R218). -/
def sendHome (home : Nat) (msg : Nat → HomeMsg) (d : Device) (k : Nat) : Device :=
  if k = home then d else d.modDie k fun x => { x with inbox := listMod (· ++ [msg k]) x.inbox home }

/-- Wakes a group: a decrement of its drawer by `n`, on its way to the core with the clock of what the waiter acquires (R45, R47, R217). -/
def wakeWith (d : Device) (g : Nat) (n : Nat) (status : Nat) (clock : DieClock) : Device :=
  match Tbl.find d.groups g with
  | none => d
  | some x => d.modCore x.core fun c => { c with arrivals := c.arrivals ++ [{ handle := 0, n := BitVec.ofNat 32 n, status, job := x.job, group := some (g, x.waitSeq), ack := none, clock }] }
/-- Wakes a group that acquires nothing by it. -/
def wakeGroup (d : Device) (g : Nat) (n : Nat) (status : Nat) : Device := wakeWith d g n status clockZero

/-- What a wake on the value of a word at its home acquires: the writes the home has applied, and the release that wrote the line (R217, R218). -/
def Device.valueClock (d : Device) (a : Nat) : DieClock := clockMax (d.die (homeDie a)).applied (d.clockOf a)
/-- Tests the watches of a cluster whose word was written (R273). -/
def testWatches (d : Device) (cl : Nat) (lo n : Nat) : Device :=
  let ws := (d.cluster cl).watches
  let hit := ws.filter fun w => decide (w.1 < lo + n) && decide (lo < w.1 + 8) && decide (w.2.1.toNat ≤ d.readNat w.1 8)
  let d := if hit.isEmpty then d else d.modCluster cl fun c => { c with watches := ws.filter fun w => !hit.contains w }
  hit.foldl (fun d w => wakeWith d w.2.2 1 0 (d.valueClock w.1)) d

/-- Marks the line of an address as written by a release of a clock; what it was marked with stays (R215, R218). -/
def tagClock (d : Device) (c : DieClock) (a : Nat) : Device := { d with lineClock := Tbl.set d.lineClock (a / 64) (clockMax (d.clockOf a) c) }
/-- The slice of die `k` that serves a line to the die, in package order (R200 to R202). -/
def dieSlice (P : Platform) (k a : Nat) : Nat := k * 128 + enabledSlice P k 127 (sliceHash a)
/-- Lines a slice holds: 1 MiB (R13). -/
def sliceLines : Nat := 16384
/-- A use of a line at a die's slice: it becomes the last used; the line used least recently goes where the slice is full, with the die's visitor copy of it (R13, R202, log 86). -/
def touchLine (P : Platform) (d : Device) (k a : Nat) : Device :=
  let s := dieSlice P k a
  let all := a / 64 :: (d.slice s).lines.filter (· != a / 64)
  let d := d.modSlice s fun x => { x with lines := all.take sliceLines }
  (all.drop sliceLines).foldl (fun d l => d.modDie k fun x => { x with visitors := Tbl.erase x.visitors l }) d

/-- A write of one home line that carries a clock, performed at the home: bytes, poison marks, the home's number, the messages to the other dies, and the watches (R213, R218, R273, R425). -/
def writeLineAt (P : Platform) (carried : DieClock) (d : Device) (a : Nat) (bytes : List Byte) : Device × (Nat × Nat) :=
  let h := homeDie a
  let n := (d.die h).applied.getD h 0 + 1
  let d := ((touchLine P d h a).writeBytes a bytes).clearPoison a bytes.length
  let cells := (List.range bytes.length).zip bytes |>.map fun e => (a + e.1, e.2)
  let d := d.modDie h fun x => { x with applied := listSet x.applied h n, causal := clockMax x.causal (listSet x.applied h n) }
  let d := [0, 1, 2, 3].foldl (sendHome h fun k => { number := n, clock := carried, bytes := if (Tbl.find (d.die k).visitors (a / 64)).isSome then cells else [] }) d
  (testWatches d (homeSlice P a / 4) a bytes.length, (h, n))

/-- A write of one home line that leaves die `src` now: it carries the die's clock (R218). -/
def writeLine (P : Platform) (src : Nat) (d : Device) (a : Nat) (bytes : List Byte) : Device × (Nat × Nat) := writeLineAt P (d.die src).causal d a bytes
/-- A write of any length, line by line in ascending order; `fuel` bounds the lines. -/
def writePhys (P : Platform) (src : Nat) : Nat → Device → Nat → List Byte → Device × List (Nat × Nat)
  | 0, d, _, _ => (d, [])
  | _ + 1, d, _, [] => (d, [])
  | fuel + 1, d, a, bytes =>
    let k := 64 - a % 64
    let r := writeLine P src d a (bytes.take k)
    let t := writePhys P src fuel r.1 (a + k) (bytes.drop k)
    (t.1, r.2 :: t.2)
/-- A write by an engine of a die, acknowledged before the engine goes on: the die's causal clock names it, so that a visitor copy of the line serves no load of the die before it holds the write (R207, R218, R230). -/
def engineWrite (P : Platform) (src : Nat) (d : Device) (a : Nat) (bytes : List Byte) : Device :=
  let r := writePhys P src (bytes.length + 1) d a bytes
  r.2.foldl (fun d m => d.mergeClock src (clockAt m)) r.1

/-- A fetched line overtakes no write that its home has sent before: those still on their way are already in it (R213, R218). -/
def overtaken (line : Nat) (m : HomeMsg) : HomeMsg := { m with bytes := m.bytes.filter fun x => x.1 / 64 != line }
/-- The line as die `k` has it (R202, R206, R218): `none` while a visitor copy waits for the die's clock. A remote line that the die holds no copy of is fetched, its clock merged, and kept (log 12). -/
def l2Line (P : Platform) (d : Device) (k : Nat) (a : Nat) : Option (List Byte × Device) :=
  let line := a / 64
  let rel (d : Device) := (touchLine P d k a).mergeClock k (d.clockOf a)
  if homeDie a = k then some (d.readBytes (64 * line) 64, rel d)
  else match Tbl.find (d.die k).visitors line with
    | some b => if clockLe (d.die k).causal (d.die k).applied then some (b, rel d) else none
    | none =>
      let b := d.readBytes (64 * line) 64
      let d := (touchLine P d (homeDie a) a).mergeClock k (d.die (homeDie a)).applied
      some (b, rel (d.modDie k fun x => { x with visitors := Tbl.set x.visitors line b, inbox := listMod (·.map (overtaken line)) x.inbox (homeDie a) }))

/-! Pages: placement, version records, the walk. -/

/-- The stacks a place names (R197). -/
def placeStacks (place : Nat) : List Nat :=
  if place = 0 then [0, 1, 2, 3, 4, 5, 6, 7] else if place ≤ 8 then [place - 1] else [2 * (place - 9), 2 * (place - 9) + 1]
/-- The place of `x` in a list, or 0: a frame on a stack that is not of its set counts from the set's first (R198, log 115). -/
def placeIn (x : Nat) : List Nat → Nat → Nat
  | [], _ => 0
  | y :: t, i => if x = y then i else placeIn x t (i + 1)
/-- Physical address of an offset in a page's frame: 4 KiB granules in rotation over the stacks (R198, log 19). -/
def framePhys (attr : BitVec 8) (frame off : Nat) : Nat :=
  let set := placeStacks (attr.extractLsb' 0 4).toNat
  let i0 := placeIn (frame / 2 ^ 36) set 0
  let g := off / 4096
  set.getD ((i0 + g) % set.length) 0 * 2 ^ 36 + frame % 2 ^ 36 + g / set.length * 4096 + off % 4096

/-- An attribute byte that R197 forbids. -/
def badAttr (a : BitVec 8) : Bool :=
  (a.getLsbD 7 && a.getLsbD 6) || decide (2 ≤ (a.extractLsb' 4 2).toNat) || decide (13 ≤ (a.extractLsb' 0 4).toNat)
/-- Versioned page. -/
def Leaf.ver (l : Leaf) : Bool := l.attr.getLsbD 7
/-- Replicated page. -/
def Leaf.repl (l : Leaf) : Bool := l.attr.getLsbD 6
/-- No L1 for this page (R197). -/
def Leaf.noL1 (l : Leaf) : Bool := l.attr.getLsbD 4

/-- A slot of a version record (R224). -/
structure Slot where
  frame : Nat
  step : Nat
  state : Nat
  late : Nat
  deriving DecidableEq, Repr, Inhabited
/-- Slot `j` of the record at `r`. -/
def readSlot (d : Device) (r j : Nat) : Slot :=
  { frame := d.readNat (r + 16 * j) 8, step := d.readNat (r + 16 * j + 8) 4, state := d.readNat (r + 16 * j + 12) 1, late := d.readNat (r + 16 * j + 14) 2 }
/-- The four slots. -/
def readSlots (d : Device) (r : Nat) : List Slot := [readSlot d r 0, readSlot d r 1, readSlot d r 2, readSlot d r 3]
/-- Writes slot `j`. -/
def writeSlot (P : Platform) (d : Device) (r j : Nat) (s : Slot) : Device :=
  engineWrite P (homeDie r) d (r + 16 * j) (bytesOf 8 s.frame ++ bytesOf 4 s.step ++ bytesOf 1 s.state ++ [0] ++ bytesOf 2 s.late)
/-- The newest sealed slot: its number (R224). -/
def newestSealed (ss : List Slot) : Option Nat :=
  (List.range 4).foldl (fun b j =>
    if (ss.getD j default).state = 2 then
      match b with
      | none => some j
      | some i => if (ss.getD i default).step < (ss.getD j default).step then some j else b
    else b) none
/-- A record with a reserved value, outside memory, or with no SEALED slot is invalid (R224). -/
def recordOk (d : Device) (r : Nat) : Bool :=
  physOk r && !d.linePoisoned r && (readSlots d r).all (fun s => decide (s.state ≤ 2)) && [0, 1, 2, 3].all (fun j => d.readNat (r + 16 * j + 13) 1 == 0) && (newestSealed (readSlots d r)).isSome
/-- Charges one late store, seal or command to a slot; the count saturates (R224). -/
def chargeLate (P : Platform) (d : Device) (r j : Nat) : Device :=
  let s := readSlot d r j
  writeSlot P d r j { s with late := min 0xFFFF (s.late + 1) }

/-- How a walk ends (R371). -/
inductive WalkEnd where
  | leaf (l : Leaf) | replayable | fatal | absent
  deriving DecidableEq, Repr
/-- One level of the walk: the entry, or what ends it. `last` is level 4, `top` levels 1 and 2. -/
def walkLevels (d : Device) (acc : Access) (va : Nat) : List Nat → Nat → WalkEnd
  | [], _ => .fatal
  | lvl :: rest, table =>
    let shift := if lvl = 1 then 39 else if lvl = 2 then 30 else if lvl = 3 then 21 else 16
    let idx := va / 2 ^ shift % (if lvl = 4 then 32 else 512)
    let e := table + 16 * idx
    if !physOk e then .absent
    else if d.linePoisoned e then .fatal
    else
      let lo := d.readNat e 8
      let addr := d.readNat (e + 8) 8
      let bit (n : Nat) : Bool := lo.testBit n
      let attr : BitVec 8 := BitVec.ofNat 8 (lo / 2 ^ 56)
      if !bit 48 then (if bit 53 then .replayable else .fatal)
      else if decide (lo % 2 ^ 48 ≠ 0) || bit 54 || bit 55 then .fatal
      else if bit 52 then
        if lvl ≤ 2 then .fatal
        else
          let size := if lvl = 3 then 2 ^ 21 else 2 ^ 16
          let l : Leaf := { base := va / size * size, size, addr, frame := none, attr, r := bit 49, w := bit 50, x := bit 51 }
          if (match acc with | .load => !l.r | .store => !l.w && !l.repl | .fetch => !l.x) then .fatal else .leaf l
      else if lvl = 4 then .fatal
      else if attr ≠ 0 then .fatal
      else walkLevels d acc va rest addr
/-- Where the leaf entry of an address stands, as the walk finds it (R369). -/
def leafEntry (d : Device) (va : Nat) : List Nat → Nat → Option Nat
  | [], _ => none
  | lvl :: rest, table =>
    let shift := if lvl = 1 then 39 else if lvl = 2 then 30 else if lvl = 3 then 21 else 16
    let e := table + 16 * (va / 2 ^ shift % (if lvl = 4 then 32 else 512))
    if (d.readNat e 8).testBit 52 then some e else leafEntry d va rest (d.readNat (e + 8) 8)
/-- The walk of a job's tables (R369). A job that is not admitted has none. -/
def walk (d : Device) (job : Nat) (acc : Access) (va : DWord) : WalkEnd :=
  match Tbl.find d.jobs job with
  | none => .fatal
  | some j => walkLevels d acc va.toNat [1, 2, 3, 4] j.xroot

/-- The frame a leaf gives a die: its own of a replicated page, the newest sealed slot's of a versioned one (R221, R229). `none` where the record is invalid. -/
def leafFrame (d : Device) (l : Leaf) (die : Nat) : Option Nat :=
  if l.repl then some (l.frame.getD (d.readNat (l.addr + 8 * die) 8))
  else if l.ver then
    if recordOk d l.addr then (newestSealed (readSlots d l.addr)).map fun j => (readSlot d l.addr j).frame else none
  else some l.addr
/-- Physical address of an offset in a frame of a leaf's page. A die's frame of a replicated page lies wholly on its own stack (R221, log 19). -/
def Leaf.phys (l : Leaf) (frame off : Nat) : Nat := if l.repl then frame + off else framePhys l.attr frame off
/-- Physical address of `va` through a leaf. -/
def leafPhys (d : Device) (l : Leaf) (die : Nat) (va : Nat) : Option Nat :=
  (leafFrame d l die).map fun f => l.phys f (va - l.base)

/-- How an engine's translation ends (R318, R426): an address, parked, fatal, or an attribute it may not use. -/
inductive EngineXlat where
  | ok (l : Leaf) (pa : Nat) | parked | fatal | attr
  deriving DecidableEq, Repr
/-- An engine translates through the tables (log 15). -/
def engineXlat (d : Device) (job : Nat) (acc : Access) (die : Nat) (va : DWord) : EngineXlat :=
  if va.toNat / 2 ^ 48 ≠ 0 then .fatal
  else match walk d job acc va with
    | .replayable => .parked
    | .fatal | .absent => .fatal
    | .leaf l =>
      if badAttr l.attr then .attr
      else match leafPhys d l die va.toNat with
        | some pa => if physOk pa then .ok l pa else .fatal
        | none => .attr

/-! Writes the device makes in a job's space: records, completion records, host bytes. -/

/-- Reads `n` bytes that do not cross a page; `none` when translation, permission or poison fails (R363). -/
def jobRead (d : Device) (job die : Nat) (va : DWord) (n : Nat) : Option (List Byte) :=
  match engineXlat d job .load die va with
  | .ok _ pa => if d.anyPoison pa n then none else some (d.readBytes pa n)
  | _ => none
/-- A field of `n` bytes as a number; 0 when it cannot be read (R363). -/
def jobNat (d : Device) (job die : Nat) (va : DWord) (n : Nat) : Nat := natOf ((jobRead d job die va n).getD [])

/-- Parks a write behind the claim of a replicated page; the first claims it for its die (R222). -/
def parkWrite (d : Device) (job page die : Nat) (p : Parked) : Device :=
  match findWhere (fun c : CollapseClaim => c.job == job && c.va == page) d.collapses 0 with
  | some (i, c) => { d with collapses := listSet d.collapses i { c with parked := c.parked ++ [p] } }
  | none => { d with nextId := d.nextId + 1, collapses := d.collapses ++ [{ id := d.nextId, job, va := page, die, parked := [p] }] }
/-- Parks bytes that an engine writes (R222). -/
def parkRaw (d : Device) (job : Nat) (l : Leaf) (die : Nat) (off : Nat) (bytes : List Byte) : Device := parkWrite d job l.base die (.raw off bytes)

/-- Writes bytes that do not cross a page; `none` when translation or permission fails or the page is versioned (R56, R363, R454). -/
def jobWrite (P : Platform) (d : Device) (job die : Nat) (va : DWord) (bytes : List Byte) : Option Device :=
  match engineXlat d job .store die va with
  | .ok l pa => if l.ver then none else if l.repl then some (parkRaw d job l die (va.toNat - l.base) bytes) else some (engineWrite P die d pa bytes)
  | _ => none
/-- A store to bytes that no job's instruction fetch is to observe before its `dbg.iflush`: what stood there first is kept for the fetch (R135, log 11). -/
def hideCode (d : Device) (a n : Nat) : Device :=
  { d with jobs := Tbl.mapVals (fun (j : Job) => { j with codeOld := (List.range n).foldl (fun t i => if (Tbl.find t (a + i)).isSome then t else Tbl.set t (a + i) (d.readByte (a + i))) j.codeOld }) d.jobs }
/-- As `jobWrite`; a write that fails is dropped. -/
def jobWriteDrop (P : Platform) (d : Device) (job die : Nat) (va : DWord) (bytes : List Byte) : Device := (jobWrite P d job die va bytes).getD d

/-- Reads a range line by line (R363). -/
def jobReadLines (d : Device) (job die : Nat) (va : DWord) : Nat → Option (List Byte)
  | 0 => some []
  | n + 1 => match jobRead d job die va 64, jobReadLines d job die (va + 64) n with
    | some b, some t => some (b ++ t)
    | _, _ => none
/-- A time in microseconds, in the units of `Device.time` (R386, log 5). -/
def micros (n : Nat) : Nat := 1008000 * n
/-- How long an arithmetic clock lasts at a power level, in those units: 3.6, 3.2, 2.8, 2.4, 2.0 and 2.0 GHz (R447). -/
def clockTime (level : Nat) : Nat := [280, 315, 360, 420, 504, 504].getD level 504

/-! Monitors (R448). -/

/-- The bucket of a sample at a base. -/
def monBucket (base v : Nat) : Nat := if v < base then 0 else (((List.range 30).map (· + 1)).find? fun b => decide (v < base * 2 ^ b)).getD 31
/-- A sample goes into a record. -/
def monSample (base v : Nat) (m : MonRec) : MonRec :=
  { lo := if m.count = 0 then v else min m.lo v, hi := if m.count = 0 then v else max m.hi v, count := (m.count + 1) % 2 ^ 64, buckets := listMod (fun n => min (2 ^ 32 - 1) (n + 1)) m.buckets (monBucket base v) }
/-- A source records a sample, from START to STOP; a value past 32 bits is the greatest the record holds (log 10). -/
def Device.monNote (P : Platform) (source v : Nat) (d : Device) : Device :=
  if P.monRunning then { d with monitors := listMod (monSample (P.monBase.getD source 0).toNat (min v (2 ^ 32 - 1))) d.monitors source } else d

/-! Notices (R208, R209). -/

/-- The three bits a block's notice sets. -/
def noticeBits (va : DWord) : List Nat :=
  let b := va.toNat / 64 % 2 ^ 42
  let b0 := b % 2 ^ 11
  let b1 := b / 2 ^ 11 % 2 ^ 11
  let b2 := b / 2 ^ 22 % 2 ^ 11
  [Nat.xor b0 b1, Nat.xor b1 b2, Nat.xor (Nat.xor b0 b2) (b / 2 ^ 33 % 2 ^ 9)]
/-- A block hits a signature. -/
def sigHit (s : Signature) (va : DWord) : Bool := (noticeBits va).all fun k => s.getLsbD k
/-- A block's notice as a signature. -/
def sigOf (va : DWord) : Signature := (noticeBits va).foldl (fun s k => s ||| (BitVec.ofNat 2048 1 <<< k)) 0
/-- The notice of a list of blocks: all bits when there are more than 256 (R208, R230). -/
def sigOfAll (vas : List DWord) : Signature := if 256 < vas.length then BitVec.allOnes 2048 else vas.foldl (fun s v => s ||| sigOf v) 0
/-- Folds a notice into every core of the device at once, as engines and remote writes post theirs (R220, R230, log 14). -/
def noticeAll (d : Device) (s : Signature) : Device :=
  { d with cores := (List.range 512).foldl (fun t c => Tbl.set t c { Tbl.getD t c Core.reset with signature := (Tbl.getD t c Core.reset).signature ||| s }) d.cores }
/-- The distinct 64-byte blocks of a range of `n` bytes. -/
def blocksOf (va : DWord) (n : Nat) : List DWord :=
  if n = 0 then [] else (List.range ((va.toNat + n - 1) / 64 - va.toNat / 64 + 1)).map fun i => BitVec.ofNat 64 ((va.toNat / 64 + i) * 64)

end Sys2Proof.Machine
end

