-- ==== Sys2Proof/Machine/Operands.lean ====
section
/-! DEFINITION. A group's registers: cells, guards and lanes (R70, R83), transient results (R78, R79), operand values (R113, R143 to R146, R235), results, and which registers an instruction reads and writes (R76, R109). -/

namespace Sys2Proof.Machine

/-- Lane numbers of a mask, ascending. -/
def lanesOf (m : Mask) : List Nat := (List.range 32).filter fun i => m.getLsbD i
/-- The mask of lane numbers. -/
def maskOf (ls : List Nat) : Mask := ls.foldl (fun m i => m ||| (1#32 <<< i)) 0
/-- The lanes of a mask where a condition holds. -/
def maskWhere (m : Mask) (p : Nat → Bool) : Mask := maskOf ((lanesOf m).filter p)

namespace Group
/-- Register `r` at a lane, as the register file holds it. -/
def vFile (g : Group) (r lane : Nat) : Word := Cells.get 0 g.v (32 * r + lane)
/-- Scalar `n` as the control file holds it. -/
def sFile (g : Group) (n : Nat) : DWord := g.s.getD n 0
/-- Predicate `n`. -/
def pred (g : Group) (n : Nat) : Mask := g.p.getD n 0
/-- The group is ACTIVE by its position (R50). -/
def inActive (g : Group) : Bool := decide (g.pos < 8)
end Group

/-- A split, or a split with no lanes. -/
def splitOf (g : Group) (k : Nat) : Option Split := Tbl.find g.splits k
/-- Changes a split. -/
def modSplit (g : Group) (k : Nat) (f : Split → Split) : Group := { g with splits := Tbl.modify f g.splits k }

/-- The lanes a guard selects of a mask (R83). -/
def guardLanes (g : Group) (m : Mask) : Option Guard → Mask
  | none => m
  | some q => if q.neg then m &&& ~~~(g.pred q.p) else m &&& g.pred q.p

/-- The key of a register in the list of transient marks. -/
def regKey : Reg → Nat
  | .v n => n.val
  | .s n => 224 + n.val
/-- A result writes a register. -/
def RegWrites.hits (w : RegWrites) (k : Nat) : Bool :=
  if k < 224 then w.vs.any (fun c => decide (c.1 / 32 = k)) else w.ss.any (fun c => decide (224 + c.1 = k))

/-- The lanes of a register whose value is transient; bit 0 for a scalar (R79). -/
def transientLanes (g : Group) (k : Nat) : Mask := Tbl.getD g.transients k 0
/-- A lane's newest value of a vector register in the bypass (R78). -/
def bypassV (sp : Split) (r lane : Nat) : Option Word := sp.bypass.reverse.findSome? fun w => (w.vs.find? fun c => c.1 == 32 * r + lane).map (·.2)
/-- The newest value of a scalar register in the bypass (R78). -/
def bypassS (sp : Split) (n : Nat) : Option DWord := sp.bypass.reverse.findSome? fun w => (w.ss.find? fun c => c.1 == n).map (·.2)
/-- A vector register at a lane as an instruction of the split reads it: from the bypass where the lane's value is transient (R79). -/
def readV (g : Group) (sp : Split) (r lane : Nat) : Nat :=
  if (transientLanes g r).getLsbD lane then ((bypassV sp r lane).getD (g.vFile r lane)).toNat else (g.vFile r lane).toNat
/-- A scalar register as an instruction of the split reads it. -/
def readS (g : Group) (sp : Split) (n : Nat) : Nat :=
  if transientLanes g (224 + n) != 0 then ((bypassS sp n).getD (g.sFile n)).toNat else (g.sFile n).toNat
/-- Register `r` and the next as one 64-bit value. -/
def readV64 (g : Group) (sp : Split) (r lane : Nat) : Nat := readV g sp r lane + 2 ^ 32 * readV g sp (r + 1) lane

/-- A register operand's value in a type at a lane (R115, R146). -/
def regVal (g : Group) (sp : Split) (t : Ty) (lane : Nat) : Reg → Nat
  | .v n => if t.is64 then readV64 g sp n.val lane else readV g sp n.val lane
  | .s n => if t.is64 then readS g sp n.val else readS g sp n.val % 2 ^ 32
/-- A source operand's value in a type at a lane (R113). -/
def opdVal (g : Group) (sp : Split) (t : Ty) (lane : Nat) : Opd → Nat
  | .reg r _ => regVal g sp t lane r
  | .lit w => if t == .i64 then (w.signExtend 64).toNat else w.toNat
/-- Operand b of rows 0x6_ to 0x8_ as a 32-bit value at a lane. -/
def mOff32 (g : Group) (sp : Split) (lane : Nat) : MOff → Nat
  | .vec r _ => readV g sp r.val lane
  | .sc r _ => readS g sp r.val % 2 ^ 32
  | .lit w => w.toNat
  | .none _ => 0
/-- Operand b as a global offset at a lane (R235). -/
def mOff64 (g : Group) (sp : Split) (lane : Nat) : MOff → Nat
  | .vec r _ => ((BitVec.ofNat 32 (readV g sp r.val lane)).signExtend 64).toNat
  | .sc r _ => readS g sp r.val
  | .lit w => (w.signExtend 64).toNat
  | .none _ => 0
/-- A base register as a global address at a lane (R235). -/
def base64 (g : Group) (sp : Split) (lane : Nat) : Reg → Nat
  | .v n => readV64 g sp n.val lane
  | .s n => readS g sp n.val
/-- The global address of a lane (R235). -/
def globalEa (g : Group) (sp : Split) (a : Reg) (off : MOff) (lane : Nat) : DWord :=
  BitVec.ofNat 64 (base64 g sp lane a + mOff64 g sp lane off)
/-- The window offset of a lane (R235). -/
def windowEa (g : Group) (sp : Split) (a : Reg) (off : MOff) (lane : Nat) : Nat :=
  (regVal g sp .b32 lane a + mOff32 g sp lane off) % 2 ^ 32
/-- An S/L operand (R290): the literal is zero-extended. -/
def slVal (g : Group) (sp : Split) : SL → Nat
  | .sc r => readS g sp r.val
  | .lit w => w.toNat

/-! Results. -/

/-- No write. -/
def RegWrites.none : RegWrites := { vs := [], ss := [], ps := [] }
/-- Cells of `n` consecutive vector registers from `r` at a lane that hold a value of `32 n` bits. -/
def cellsAt (r n lane v : Nat) : List (Nat × Word) :=
  (List.range n).map fun j => (32 * (r + j) + lane, BitVec.ofNat 32 (v / 2 ^ (32 * j)))
/-- One vector result for each lane. -/
def vecWrites (r n : Nat) (lanes : List Nat) (f : Nat → Nat) : RegWrites :=
  { RegWrites.none with vs := lanes.flatMap fun l => cellsAt r n l (f l) }
/-- One scalar result. -/
def scaWrite (n : Nat) (v : Nat) : RegWrites := { RegWrites.none with ss := [(n, BitVec.ofNat 64 v)] }
/-- Predicate bits at the lanes of a mask. -/
def predWrite (n : Nat) (m v : Mask) : RegWrites := { RegWrites.none with ps := [(n, m, v &&& m)] }
/-- Two results in order. -/
def RegWrites.append (a b : RegWrites) : RegWrites := { vs := a.vs ++ b.vs, ss := a.ss ++ b.ss, ps := a.ps ++ b.ps }
/-- A scalar destination's 64 bits (R146): the kept half and upper word under a part. -/
def scalarBits (t : Ty) (p : Part) (old v : Nat) : Nat :=
  if t.is64 then v
  else match p with
    | .full => if t == .i32 then ((BitVec.ofNat 32 v).signExtend 64).toNat else v % 2 ^ 32
    | _ => old / 2 ^ 32 * 2 ^ 32 + v % 2 ^ 32

/-- Registers a result writes: vector numbers, with repeats. -/
def RegWrites.vRegs (w : RegWrites) : List Nat := w.vs.map (fun c => c.1 / 32)

/-- The register file after a result (R83); an ordinary write clears the transient mark (R79). -/
def applyWrites (g : Group) (w : RegWrites) : Group :=
  { g with
    v := w.vs.foldl (fun m c => Cells.put 0 m c.1 c.2) g.v
    s := w.ss.foldl (fun m c => listSet m c.1 c.2) g.s
    p := w.ps.foldl (fun m c => listMod (fun o => (o &&& ~~~c.2.1) ||| (c.2.2 &&& c.2.1)) m c.1) g.p
    transients := g.transients.filter fun k => !w.hits k.1 }
/-- The keys of the vector and scalar registers a result writes. -/
def RegWrites.keys (w : RegWrites) : List Nat := List.eraseDups (w.vs.map (fun (c : Nat × Word) => c.1 / 32) ++ w.ss.map (fun (c : Nat × DWord) => 224 + c.1))
/-- A result enters the split's bypass, which keeps the last three (R78). -/
def pushBypass (g : Group) (k : Nat) (w : RegWrites) : Group :=
  modSplit g k fun sp => { sp with bypass := (sp.bypass ++ [w]).drop (sp.bypass.length - 2) }
/-- The lanes of a register that a result writes; bit 0 for a scalar. -/
def RegWrites.lanesAt (w : RegWrites) (k : Nat) : Mask := if k < 224 then maskOf ((w.vs.filter fun c => c.1 / 32 == k).map (·.1 % 32)) else 1
/-- A result is produced: into the bypass and, unless transient, into the register file (R78, R79). -/
def produce (g : Group) (k : Nat) (tr : Bool) (w : RegWrites) : Group :=
  let g := pushBypass g k w
  if tr then { applyWrites g { RegWrites.none with ps := w.ps } with transients := w.keys.foldl (fun t n => Tbl.set t n (Tbl.getD t n 0 ||| w.lanesAt n)) g.transients } else applyWrites g w

/-! What an instruction reads and writes (R76, R79, R109, R284). -/

end Sys2Proof.Machine

namespace Sys2Proof
open Machine

/-- Registers, shapes and tiles an instruction names. Vector lists hold numbers. -/
structure Uses where
  vr : List Nat := []
  vw : List Nat := []
  sr : List Nat := []
  sw : List Nat := []
  pr : List Nat := []
  pw : List Nat := []
  shr : List Nat := []
  shw : List Nat := []
  tiles : List Nat := []
  deriving Repr, Inhabited

/-- `n` registers from a register, read. -/
def Reg.rd (n : Nat) : Reg → Uses
  | .v r => { vr := (List.range n).map (r.val + ·) }
  | .s r => { sr := [r.val] }
/-- `n` registers from a register, written. -/
def Reg.wr (n : Nat) : Reg → Uses
  | .v r => { vw := (List.range n).map (r.val + ·) }
  | .s r => { sw := [r.val] }
/-- An operand, read. -/
def Opd.rd (n : Nat) : Opd → Uses
  | .reg r _ => r.rd n
  | .lit _ => {}
/-- An offset, read. -/
def MOff.rd (n : Nat) : MOff → Uses
  | .vec r _ => { vr := (List.range n).map (r.val + ·) }
  | .sc r _ => { sr := [r.val] }
  | _ => {}
/-- An S/L operand, read. -/
def SL.rd : SL → Uses
  | .sc r => { sr := [r.val] }
  | .lit _ => {}
/-- A guard, read. -/
def guardRd : Option Guard → Uses
  | some g => { pr := [g.p.val] }
  | none => {}
/-- A predicate code field, written. -/
def PSel.wr (p : PSel) : Uses := if p.en then { pw := [p.p.val] } else {}
/-- A scalar register, read. -/
def sRd (n : SReg) : Uses := { sr := [n.val] }
/-- A scalar register, written. -/
def sWr (n : SReg) : Uses := { sw := [n.val] }
/-- All of a list of uses. -/
def usesAll (l : List Uses) : Uses :=
  { vr := l.flatMap (·.vr), vw := l.flatMap (·.vw), sr := l.flatMap (·.sr), sw := l.flatMap (·.sw), pr := l.flatMap (·.pr), pw := l.flatMap (·.pw), shr := l.flatMap (·.shr), shw := l.flatMap (·.shw), tiles := l.flatMap (·.tiles) }
/-- Row of operands a, b with the widths of a type. -/
def binUses (dn an bn : Nat) (f : Bin) : Uses := usesAll [guardRd f.g, f.d.wr dn, f.a.reg.rd an, f.b.rd bn]
/-- Row of operands a, b, c. -/
def triUses (f : Tri) : Uses := usesAll [guardRd f.g, f.d.wr f.ty.regs, f.a.reg.rd f.ty.regs, f.b.rd f.ty.regs, f.c.reg.rd f.ty.regs]
/-- Unary row. -/
def unUses (dn an : Nat) (f : Un) : Uses := usesAll [guardRd f.g, f.d.wr dn, f.a.rd an]
/-- Registers of an atomic's data (R250). -/
def atomDataRegs (op : AtomOp) (t : Ty) : Nat := if op == .cas then 2 * t.regs else t.regs

/-- What an instruction of code reads and writes. -/
def uses : Instr → Uses
  | .addI32Short f | .subI32Short f | .andB32Short f | .orB32Short f | .xorB32Short f | .addF32Short f | .mulF32Short f | .shlB32Short f | .shrB32Short f =>
    usesAll [f.d.wr 1, f.a.rd 1, f.b.rd 1]
  | .movB32Short d a => usesAll [d.wr 1, a.rd 1]
  | .retShort => { vr := [30, 31] }
  | .add f | .sub f | .mul f | .mulhi f | .min f | .max f => binUses f.ty.regs f.ty.regs f.ty.regs f
  | .divstep f => binUses 2 2 1 f
  | .mad f | .bfe f | .bfi f | .bperm f | .fma f => triUses f
  | .abs f | .neg f | .brev f | .mov f => unUses f.ty.regs f.ty.regs f
  | .popc f | .clz f => unUses 1 f.ty.regs f
  | .rcp f | .rsq f | .sqrt f | .exp2 f | .log2 f | .tanh f => unUses 1 1 f
  | .addc f pn | .subb f pn => usesAll [binUses 1 1 1 f, { pr := [pn.val], pw := [pn.val] }]
  | .lut3 f =>
    usesAll [guardRd f.g, f.d.wr 1, if lutA f.table then f.a.reg.rd 1 else {}, if lutB f.table then f.b.rd 1 else {}, if lutC f.table then f.c.reg.rd 1 else {}]
  | .shl f | .shr f | .sra f | .rot f => binUses f.ty.regs f.ty.regs 1 f
  | .cvt f s _ => unUses f.ty.regs s.regs f
  | .cvtPk f _ => binUses 1 1 1 f
  | .bsPack f => usesAll [guardRd f.g, f.d.wr 1, f.a.reg.rd (bsN f.ty), f.vs.reg.wr 1]
  | .bsUnpack f => usesAll [guardRd f.g, f.d.wr (bsN f.ty), f.a.reg.rd 1, f.vs.reg.rd 1]
  | .cmp f => usesAll [guardRd f.g, f.a.reg.rd f.ty.regs, f.b.rd f.ty.regs, { pr := [f.pd.val], pw := [f.pd.val] }]
  | .sel f pn => usesAll [binUses f.ty.regs f.ty.regs f.ty.regs f, { pr := [pn.val] }]
  | .classOf f => usesAll [guardRd f.g, f.a.rd 1, { pw := [f.pd.val] }]
  | .shflIdx f | .shflUp f | .shflDn f | .shflXor f => usesAll [guardRd f.g, f.d.wr f.ty.regs, f.a.reg.rd f.ty.regs, f.b.rd 1, f.pn.wr]
  | .scan f | .scanx f | .rdc f => usesAll [guardRd f.g, f.d.wr 1, f.a.rd 1]
  | .sort f _ => unUses 2 1 f
  | .vote g _ pd pa => usesAll [guardRd g, { pr := [pa.val], pw := [pd.val] }]
  | .ballot g _ d pa => usesAll [guardRd g, d.wr 1, { pr := [pa.val] }]
  | .rnd g _ d a b => usesAll [guardRd g, d.wr 2, a.reg.rd 1, b.rd 2]
  | .rdlane f | .wrlane f => binUses f.ty.regs f.ty.regs 1 f
  | .plog f => usesAll [guardRd f.g, { pr := [f.pa.val, f.pb.val, f.pc.val], pw := [f.pd.val] }]
  | .ptov g _ d pa => usesAll [guardRd g, d.wr 1, { pr := [pa.val] }]
  | .vtop g pd a => usesAll [guardRd g, a.rd 1, { pw := [pd.val] }]
  | .ld f => usesAll [guardRd f.g, f.d.wr f.size.regs, f.a.reg.rd 2, f.off.rd 1]
  | .ldSp f => usesAll [guardRd f.g, f.d.wr f.size.regs, f.a.reg.rd 1, f.off.rd 1]
  | .st f | .stVer f => usesAll [guardRd f.g, f.a.reg.rd 2, f.off.rd 1, f.c.reg.rd f.size.regs]
  | .stSp f => usesAll [guardRd f.g, f.a.reg.rd 1, f.off.rd 1, f.c.reg.rd f.size.regs]
  | .ldVer f => usesAll [guardRd f.g, f.d.wr f.size.regs, f.a.reg.rd 2, f.off.rd 1, f.sm.reg.rd 1]
  | .sealVer a off => usesAll [a.reg.rd 1, off.rd 1]
  | .ldRag f => usesAll [guardRd f.g, f.d.wr f.size.regs, f.a.reg.rd 1, f.row.rd 1, { shr := [f.sh.val] }]
  | .atom f => usesAll [guardRd f.g, f.d.wr f.ty.regs, f.a.reg.rd 2, f.off.rd 1, f.c.reg.rd (atomDataRegs f.op f.ty)]
  | .red f => usesAll [guardRd f.g, f.a.reg.rd 2, f.off.rd 1, f.c.reg.rd f.ty.regs]
  | .redAddCf32 f => usesAll [guardRd f.g, f.a.reg.rd 2, f.off.rd 1, f.c.reg.rd 1]
  | .lk f | .lktry f => usesAll [f.d.wr 1, f.a.reg.rd 1, f.pd.wr]
  | .unlk a => a.reg.rd 1
  | .arriveN n | .arriveNNw n => n.rd 1
  | .waitCtr d a c _ => usesAll [sWr d, a.reg.rd 1, c.reg.rd 1]
  | .post d a c n => usesAll [sWr d, a.reg.rd 1, c.reg.rd 1, n.rd 1]
  | .dcnt g a n => usesAll [guardRd g, a.reg.rd 1, n.rd 1]
  | .raLd f => usesAll [guardRd f.g, f.d.wr f.size.regs, f.a.reg.rd 1, f.off.rd 2, f.pn.wr]
  | .raSt f => usesAll [guardRd f.g, f.a.reg.rd 1, f.off.rd 2, f.c.reg.rd f.size.regs]
  | .raAtom f => usesAll [guardRd f.g, f.d.wr f.ty.regs, f.a.reg.rd 1, f.off.rd 2, f.c.reg.rd (atomDataRegs f.op f.ty)]
  | .raRed f => usesAll [guardRd f.g, f.a.reg.rd 1, f.off.rd 2, f.c.reg.rd f.ty.regs]
  | .rst g a _ b => usesAll [guardRd g, a.reg.rd 1, b.rd 1]
  | .hold _ n => n.rd 1
  | .nameGet d => sWr d
  | .mres pd m => usesAll [m.rd, { pw := [pd.val] }]
  | .mrel m => m.rd
  | .mma f => usesAll [guardRd f.g, sRd f.a, sRd f.b, { sr := [f.desc.val, f.desc.val + 1], tiles := [f.tile.val], shr := f.shape.toList.map (·.val) }]
  | .accLd f | .accSt f => usesAll [guardRd f.g, sRd f.base, f.pitch.rd, { tiles := [f.tile.val] }]
  | .accZero g t => usesAll [guardRd g, { tiles := [t.val] }]
  | .accMovToVec f => usesAll [guardRd f.g, { vw := (List.range (2 ^ f.log2n.toNat)).map (f.v.val + ·), tiles := [f.tile.val] }]
  | .accMovToTile f => usesAll [guardRd f.g, { vr := (List.range (2 ^ f.log2n.toNat)).map (f.v.val + ·), tiles := [f.tile.val] }]
  | .osmUpd f => usesAll [guardRd f.g, { vr := [f.d.val, f.d.val + 1], vw := [f.d.val, f.d.val + 1], tiles := if f.oEn then [f.sTile.val, f.oTile.val] else [f.sTile.val] }]
  | .osmFin g t a _ => usesAll [guardRd g, { vr := [a.val], tiles := [t.val] }]
  | .ragRdc f => usesAll [guardRd f.g, f.row0.rd, f.pn.wr, { vr := [f.a.val], vw := [f.d.val], shr := [f.sh.val] }]
  | .ragNorm f => usesAll [guardRd f.g, f.row0.rd, { vr := [f.a.val], vw := [f.d.val], shr := [f.sh.val] }]
  | .shLd sh a => usesAll [sRd a, { shw := [sh.val] }]
  | .shChk pd sh => { pw := [pd.val], shr := [sh.val] }
  | .cp f => usesAll [sRd f.dst, sRd f.src, f.len.rd, { sw := f.d.toList.map (·.val) }]
  | .cpGather f => usesAll [sRd f.dst, sRd f.src, { sr := [f.desc.val, f.desc.val + 1], sw := f.d.toList.map (·.val) }]
  | .tlRd d _ => sWr d
  | .tlRdErr d _ => { sw := [d.val, d.val + 1] }
  | .tlWait _ n => n.rd
  | .collPut a k s => usesAll [sRd a, k.rd, sRd s]
  | .collQuorum a q => usesAll [sRd a, q.rd]
  | .collClose a k => usesAll [sRd a, k.rd]
  | .collGet d a k t => usesAll [sWr d, sRd a, k.rd, sRd t]
  | .stepAdv d _ => sWr d
  | .stepRd d p => usesAll [sWr d, p.rd]
  | .hcmd _ n => { sr := [n.val, n.val + 1, n.val + 2, n.val + 3] }
  | .take d n => usesAll [sWr d, n.rd]
  | .steal k => k.rd
  | .gwLaunch d a => usesAll [sWr d, sRd a]
  | .mig d k => usesAll [sWr d, k.rd]
  | .migNear d a => usesAll [sWr d, sRd a]
  | .sysRd d n => d.wr (match ctlKind n.toNat with | some .ro64 | some .rw64 | some .wo64 => 2 | _ => 1)
  | .sysWr _ c | .xltInv c | .dbgIflush c | .ctlLeadWrite c | .sbMemWrite _ c => sRd c
  | .bra g _ _ | .brd g _ _ | .halt g => guardRd g
  | .call link _ => link.wr 2
  | .ret link => link.rd 2
  | .jmp t _ => t.rd 2
  | _ => {}

/-- A vector register lies in a block the group does not hold (R76). -/
def unheldReg (g : Group) (r : Nat) : Bool := decide (32 ≤ r) && decide (32 + 32 * g.h ≤ r)
/-- The instruction names an unheld register. -/
def Uses.unheld (u : Uses) (g : Group) : Bool := (u.vr ++ u.vw).any (unheldReg g)
/-- The instruction reads a transient register whose value has left the bypass, in any of its lanes (R79, log 87). -/
def Uses.lost (u : Uses) (g : Group) (sp : Split) : Bool :=
  u.vr.any (fun r => (lanesOf (transientLanes g r)).any fun l => (bypassV sp r l).isNone) || u.sr.any fun n => transientLanes g (224 + n) != 0 && (bypassS sp n).isNone
/-- The instruction names a destination of an outstanding operation of the split (R109). -/
def Uses.busy (u : Uses) (g : Group) (k : Nat) : Bool :=
  g.ops.any fun o => (o.splits.contains k || !o.tiles.isEmpty) &&
    ((o.splits.contains k && ((u.vr ++ u.vw).any o.vDests.contains || (u.sr ++ u.sw).any o.sDests.contains || (u.pr ++ u.pw).any o.pDests.contains ||
      (u.shr ++ u.shw).any (fun m => (o.shape.map (·.1)) == some m))) || u.tiles.any o.tiles.contains)
/-- The register whose hold has a positive count (R284). -/
def Uses.held (u : Uses) (g : Group) : Option Hold := g.holds.find? fun h => decide (0 < h.count) && (u.vr ++ u.vw).contains h.reg

end Sys2Proof
end

