-- ==== Sys2Proof/Machine/Flags.lean ====
section
/-! DEFINITION. Completion flags and the scoreboard's counts (R40, R107, R108), the place of a split in its clause (R101, R104), regions and live-ins (R125, R128). -/

namespace Sys2Proof.Machine

/-- The count of flag `f` in split `k` (R40, R107). -/
def flagCount (g : Group) (k f : Nat) : Nat := (g.ops.filter fun o => o.flag == some f && o.splits.contains k).length
/-- The count that two splits would have after a merge: distinct operations (R40). -/
def mergedCount (g : Group) (a b f : Nat) : Nat := (g.ops.filter fun o => o.flag == some f && (o.splits.contains a || o.splits.contains b)).length
/-- Every flag of the wait field is clear (R108). -/
def waitClear (g : Group) (k : Nat) (w : BitVec 12) : Bool := (List.range 12).all fun f => !w.getLsbD f || flagCount g k f == 0
/-- The address of the instruction a split stands at (R42, R132). -/
def Split.here (sp : Split) : DWord := sp.pc + BitVec.ofNat 64 (4 * sp.word)
/-- The address of a site's instruction; of a clause check that of the clause (R42). -/
def Site.here (s : Site) : DWord := s.pc + BitVec.ofNat 64 (4 * s.word)
/-- The header of the split's clause. -/
def Split.header (sp : Split) : Word := sp.code.headD 0
/-- The flag the split's next long-latency instruction sets (R107). -/
def nextFlag (sp : Split) : Nat := if sp.longs = 0 then hdrSetA sp.header else hdrSetB sp.header
/-- The instruction a split stands at, and its length. -/
def current (sp : Split) : Option (Instr × Nat) :=
  match decode (sp.code.drop sp.word) with
  | .ok r => some r
  | .error _ => none
/-- The next 16-byte boundary at or after an address. -/
def align16 (a : Nat) : Nat := (a + 15) / 16 * 16
/-- The clause after the split's clause (R104). -/
def nextClause (sp : Split) : DWord := BitVec.ofNat 64 (align16 (sp.pc.toNat + 4 * sp.code.length))
/-- A split sent to a clause, to be checked on entry (R122, R451). -/
def gotoClause (sp : Split) (pc : DWord) (e : EntryKind) : Split := { sp with pc, index := 0, entry := some e, code := [], word := 1, longs := 0, mergeWait := false, rest := none }
/-- A split moved past its instruction: to the next one, or to the next clause (R104). -/
def advance (sp : Split) (i : Instr) (len : Nat) : Split :=
  if sp.index + 1 < hdrCount sp.header then { sp with index := sp.index + 1, word := sp.word + len, longs := sp.longs + i.isLong.toNat, noMatch := false, waitOver := false, mergeWait := false, rest := none }
  else { gotoClause sp (nextClause sp) .fallThrough with noMatch := false, waitOver := false }
/-- A split moved past the instruction it stands at. -/
def advanceCur (sp : Split) : Split :=
  match current sp with
  | some (i, n) => advance sp i n
  | none => sp

/-- A region with the whole held set as live-ins, open at the split's place (R128). -/
def wholeRegion (clock : Nat) (g : Group) (sp : Split) : Region :=
  { clause := sp.pc, index := sp.index, longs := sp.longs, whole := true, vmask := BitVec.allOnes 32, smask := BitVec.allOnes 32, xmask := BitVec.ofNat 6 (2 ^ g.h - 1), pmask := BitVec.allOnes 8, rsCtr := g.rsCtr, since := clock }
/-- A vector register is a live-in of a region. -/
def liveV (r : Region) (n : Nat) : Bool := if n < 32 then r.vmask.getLsbD n else r.whole || r.xmask.getLsbD ((n - 32) / 32)
/-- A result writes a live-in of a region (R128). -/
def hitsLiveIn (r : Region) (w : RegWrites) : Bool :=
  w.vs.any (fun c => liveV r (c.1 / 32)) || w.ss.any (fun c => r.smask.getLsbD c.1) || w.ps.any (fun c => decide (c.2.1 ≠ 0) && r.pmask.getLsbD c.1)

/-- A block enters the written-block list; the 257th marks it full (R208). -/
def addBlock (g : Group) (va : DWord) : Group :=
  let b := va &&& ~~~(63#64)
  if g.full || g.blocks.contains b then g
  else if g.blocks.length < 256 then { g with blocks := g.blocks ++ [b] } else { g with full := true }

/-- Closes the region of split `k`: its held effects go to the queue of the handed-over ones in the order of issue, the operations it has issued stand in a closed region, and a region with the whole held set opens at the split's place. A split of a team that is being cancelled halts there (R59, R127, R128). -/
def closeRegion (clock : Nat) (closing : Bool) (g : Group) (k : Nat) : Group :=
  let mine := g.effects.filter fun e => e.split == k
  let g := { g with effects := g.effects.filter (fun e => e.split != k), handed := g.handed ++ mine, ops := g.ops.map fun o => if o.site.split == k then { o with past := true } else o }
  modSplit g k fun sp => { sp with region := wholeRegion clock g sp, gone := sp.gone || closing }
/-- Closes the regions of the other splits that a scalar write, or an advance of `rs.ctr`, touches (R93, R128). -/
def closeOthers (clock : Nat) (closing : Bool) (g : Group) (k : Nat) (hit : Region → Bool) : Group :=
  (Tbl.keys g.splits).foldl (fun g j => match splitOf g j with
    | some sp => if j ≠ k && hit sp.region then closeRegion clock closing g j else g
    | none => g) g

end Sys2Proof.Machine
end

