-- ==== Sys2Proof/Machine/Groups.lean ====
section
/-! DEFINITION. Groups as the core holds them: location (R21), drawers and handles (R42, R43), blocks and chunks (R73 to R77, R82), positions (R50, R346), waits (R45), and what a group gives back when it ends (R35). -/

namespace Sys2Proof.Machine

/-- A drawer's handle (R43). -/
def handleOf (core idx : Nat) (gen : BitVec 8) : Word := BitVec.ofNat 32 (gen.toNat * 2 ^ 24 + core * 2 ^ 15 + idx * 2 ^ 7)
/-- Location of a place (R21). -/
def locWord (P : Platform) (core slot pos : Nat) : Word :=
  BitVec.ofNat 32 (P.own * 2 ^ 23 + core / 128 * 2 ^ 21 + core / 4 % 32 * 2 ^ 16 + core % 4 * 2 ^ 14 + slot * 2 ^ 12 + pos * 2 ^ 8)
/-- `id.loc` of a group (R21, R22). -/
def locOf (P : Platform) (g : Group) : Word := locWord P g.core g.slot g.pos
/-- Drawer `i` of core `c`. -/
def Device.drawer (d : Device) (c i : Nat) : Drawer := Tbl.getD (d.core c).drawers i (Drawer.free 0)
/-- Writes drawer `i` of core `c`. -/
def Device.setDrawer (d : Device) (c i : Nat) (x : Drawer) : Device := d.modCore c fun k => { k with drawers := Tbl.set k.drawers i x }
/-- Frees a drawer and increments its generation (R43). -/
def Device.freeDrawer (d : Device) (c i : Nat) : Device := d.setDrawer c i (Drawer.free ((d.drawer c i).gen + 1))
/-- The lowest free pool drawer of a core (R42). -/
def Device.poolDrawer (d : Device) (c : Nat) : Option Nat := (List.range 192).map (64 + ·) |>.find? fun i => (d.drawer c i).kind == 0
/-- A team that holds room on its cluster. -/
def Team.onCluster (t : Team) : Bool := !(t.state == .queued || t.state == .swapped || t.state == .complete)
/-- The index a team takes on a cluster, as the owner field of its drawers holds it: the lowest that no team there has (R42, log 88). -/
def freePlace (d : Device) (cluster : Nat) : Nat := ((List.range 8).find? fun i => !(Tbl.vals d.teams).any fun x => x.onCluster && x.cluster == cluster && x.place == i).getD 0

/-! Blocks and chunks. -/

/-- Cells `lo` to `lo + n − 1`, counted from 0. -/
def cutCells {α : Type} (c : Cells α) (lo n : Nat) : Cells α := (c.filter fun e => decide (lo ≤ e.1) && decide (e.1 < lo + n)).map fun e => (e.1 - lo, e.2)
/-- Cells without `lo` to `lo + n − 1`. -/
def dropCells {α : Type} (c : Cells α) (lo n : Nat) : Cells α := c.filter fun e => !(decide (lo ≤ e.1) && decide (e.1 < lo + n))
/-- Puts cells counted from 0 at `lo`. -/
def pasteCells {α : Type} (c : Cells α) (lo : Nat) (x : Cells α) : Cells α := x.foldl (fun m e => Tbl.set m (lo + e.1) e.2) c
/-- Contents a unit keeps for a job: its own when the same job wrote it last, else zero (R82). -/
def Residue.contents (r : Residue) (job : Nat) : Cells Word := if r.job = some job then r.cells else []
/-- The lowest free chunk (R73). -/
def freeChunk (c : Core) : Option Nat := (List.range 64).find? fun i => (Tbl.find c.chunkOwners i).isNone
/-- Number of free chunks. -/
def freeChunks (c : Core) : Nat := 64 - c.chunkOwners.length
/-- Grants block `e` of a group: a chunk of its core, with the contents R82 gives. -/
def takeChunk (d : Device) (gid e : Nat) : Device :=
  match Tbl.find d.groups gid with
  | none => d
  | some g => match freeChunk (d.core g.core) with
    | none => d
    | some c =>
      let x := (Tbl.getD (d.core g.core).chunks c { job := none, cells := [] }).contents g.job
      let d := d.modCore g.core fun k => { k with chunkOwners := Tbl.set k.chunkOwners c (8 * gid + e) }
      d.modGroup gid fun g => { g with v := pasteCells (dropCells g.v (1024 + 1024 * e) 1024) (1024 + 1024 * e) x }
/-- Grants `n` further blocks (R74). -/
def takeChunks (d : Device) (gid : Nat) : Nat → Device
  | 0 => d
  | n + 1 =>
    match Tbl.find d.groups gid with
    | none => d
    | some g => takeChunks ((takeChunk d gid g.h).modGroup gid fun g => { g with h := g.h + 1 }) gid n
/-- Gives block `e` back: its chunk keeps the contents and the job (R82). -/
def giveChunk (d : Device) (gid e : Nat) : Device :=
  match Tbl.find d.groups gid with
  | none => d
  | some g =>
    let x := cutCells g.v (1024 + 1024 * e) 1024
    d.modCore g.core fun k => match k.chunkOwners.find? (fun o => o.2 == 8 * gid + e) with
      | some o => { k with chunkOwners := Tbl.erase k.chunkOwners o.1, chunks := Tbl.set k.chunks o.1 { job := some g.job, cells := x } }
      | none => k
/-- Gives the top `n` blocks back; their contents are lost to the group (R74). -/
def giveChunks (d : Device) (gid : Nat) : Nat → Device
  | 0 => d
  | n + 1 =>
    match Tbl.find d.groups gid with
    | none => d
    | some g => if g.h = 0 then d else
      giveChunks ((giveChunk d gid (g.h - 1)).modGroup gid fun g => { g with h := g.h - 1, v := dropCells g.v (1024 * g.h) 1024 }) gid n
/-- Notes that the image of a swapped group's team still has to be brought up to a part of its record (R63, R75, R280). -/
def noteImage (part : Nat) (g : Group) : Group := if g.savedDrawer.isSome then { g with imageDue := part :: g.imageDue.filter (· != part) } else g
/-- Serves the head of a core's chunk queue while it fits; a swapped-out group's grant takes no chunk, and raises h in its image too (R75). -/
def grantChunks (core : Nat) : Nat → Device → Device
  | 0, d => d
  | fuel + 1, d =>
    match (d.core core).chunkQueue with
    | [] => d
    | (gid, n) :: rest =>
      let pop (d : Device) := d.modCore core fun k => { k with chunkQueue := rest }
      match Tbl.find d.groups gid with
      | none => grantChunks core fuel (pop d)
      | some g =>
        if freeChunks (d.core core) < n then d
        else if g.state == .swapped then grantChunks core fuel (wakeGroup ((pop d).modGroup gid fun g => { noteImage 0 g with h := g.h + n, v := dropCells g.v (1024 + 1024 * g.h) (1024 * n) }) gid 1 0)
        else grantChunks core fuel (wakeGroup (takeChunks (pop d) gid n) gid 1 0)

/-! Positions. -/

/-- Groups that hold a position of a core, one on its way there among them (R66). -/
def groupsOn (d : Device) (core : Nat) : List Group := (Tbl.vals d.groups).filter fun g => decide (g.core = core) && !(g.savedDrawer.isSome || g.state == .exited)
/-- Positions in use of a slot of a core. -/
def usedPos (d : Device) (core slot : Nat) : List Nat := ((groupsOn d core).filter fun g => g.slot == slot).map (·.pos)
/-- Free positions of a slot: active first, then pending, each ascending (R346). -/
def freePos (d : Device) (core slot : Nat) : List Nat := (List.range 16).filter fun p => !(usedPos d core slot).contains p
/-- Free positions of a core. -/
def freePositions (d : Device) (core : Nat) : Nat := ((List.range 4).map fun s => (freePos d core s).length).sum
/-- The slot of a core with the most free positions, the lower on a tie (R346). -/
def roomiestSlot (d : Device) (core : Nat) : Nat :=
  (List.range 4).foldl (fun b s => if (freePos d core b).length < (freePos d core s).length then s else b) 0
/-- The lowest-numbered slot with a free position (R48). -/
def firstSlot (d : Device) (core : Nat) : Option Nat := (List.range 4).find? fun s => !(freePos d core s).isEmpty
/-- The base block that a slot's position map binds to a position (R20, R50). -/
def blockAt (d : Device) (core slot pos : Nat) : Nat := (d.core core).posMap.getD (16 * slot + pos) (16 * slot + pos)
/-- Exchanges what two positions of a slot are bound to (R51). -/
def swapMap (d : Device) (core slot p q : Nat) : Device :=
  d.modCore core fun k => { k with posMap := listSet (listSet k.posMap (16 * slot + p) (blockAt d core slot q)) (16 * slot + q) (blockAt d core slot p) }

/-- The split a group starts with (R34). -/
def firstSplit (pc : DWord) (lanes : Mask) (smask : BitVec 32) (clock : Nat) : Split :=
  { pc, index := 0, entry := some .branch, code := [], word := 1, longs := 0, mask := lanes, region := { clause := pc, index := 0, longs := 0, whole := false, vmask := 0, smask, xmask := 0, pmask := 0, rsCtr := 0, since := clock }, bypass := [], merges := [], mergeWait := false, waitSince := 0, stall := none, noMatch := false, waitOver := false, rest := none, gone := false }

/-- What starts a group (R34, R48). -/
structure GroupSeed where
  job : Nat
  team : Nat
  index : Nat
  task : Bool
  core : Nat
  slot : Nat
  pos : Nat
  lanes : Mask
  entry : DWord
  s0 : DWord
  s2 : DWord
  step : Word
  deriving Repr, Inhabited

/-- Starts a fresh group (R34): registers by R82, then the start values. A task's implicit region has s0 alone as its live-in (R48). -/
def startGroup (d : Device) (x : GroupSeed) : Device :=
  let id := d.nextId
  let block := blockAt d x.core x.slot x.pos
  let k := d.core x.core
  let ctl := Tbl.getD k.ctl block { job := none, s := [], p := [] }
  let keep := ctl.job = some x.job && decide (ctl.s.length = 32) && decide (ctl.p.length = 8)
  let s := if keep then ctl.s else List.replicate 32 0
  let p := if keep then ctl.p else List.replicate 8 0
  let s := listSet s 0 x.s0
  let s := listSet (listSet s 1 (BitVec.ofNat 64 x.index)) 2 x.s2
  let smask : BitVec 32 := if x.task then 1 else 7
  let g : Group := {
    id, job := x.job, team := x.team, index := x.index, task := x.task, state := .live, core := x.core, slot := x.slot, pos := x.pos, block, readyAt := d.clock, lastIssue := 1, issueFrom := d.clock, yielded := none, readied := none,
    v := (Tbl.getD k.blocks block { job := none, cells := [] }).contents x.job, h := 0, s, p := listSet p 0 x.lanes, shapes := [none, none, none, none], transients := [], holds := [], rsKey := 0, rsCtr := 0, raFcnt := 0, raFlast := 0, stepCur := x.step, verLast := 0, name := 0,
    splits := [(0, firstSplit x.entry x.lanes smask d.clock)], deferrals := [], ops := [], effects := [], handed := [], discarded := [], releases := [], sb := [], sent := [], blocks := [], full := false, carry := 0, outEff := 0, outRemote := 0, locks := [], lockVas := [], wait := none, waitSeq := 0, waitSplit := 0, arrivedAt := 0, released := false, ringTraps := [], savedTiles := [], savedH := 0, savedDrawer := none }
  let d := { d with nextId := d.nextId + 1, groups := Tbl.set d.groups id g }
  d.setDrawer x.core block { Drawer.free (d.drawer x.core block).gen with kind := 1, ownerBlock := block, team := x.team }

/-! Waits. -/

/-- Empties the bypass of every split (R78). -/
def emptyBypass (g : Group) : Group := { g with splits := Tbl.mapVals (fun (sp : Split) => { sp with bypass := [] }) g.splits }
/-- What the kind data of a group drawer saves of the waiting instruction: the numbers it completes with (R42, log 54). -/
def waitOperands : WaitFor → List DWord
  | .barrier phase => [BitVec.ofNat 64 phase]
  | .lock _ _ sd pd _ _ => [BitVec.ofNat 64 sd.val, BitVec.ofNat 64 (pd.p.val + 8 * pd.en.toNat)]
  | .timeline tl n => [BitVec.ofNat 64 tl, BitVec.ofNat 64 n]
  | .hold reg => [BitVec.ofNat 64 reg]
  | .xacq n => [BitVec.ofNat 64 n]
  | .sealed op => [BitVec.ofNat 64 op]
  | .counter _ sd | .stepAdv sd => [BitVec.ofNat 64 sd.val]
  | .trap _ => []
  | .page _ _ va => [va]
/-- Begins a wait on the group's own drawer: the status and TIMEOUT are cleared, the other flags stay (R45, R47). -/
def beginWait (d : Device) (gid : Nat) (w : WaitFor) (kind : Nat) (count : Word) (deadline : Nat) (object entry : DWord) : Device :=
  match Tbl.find d.groups gid with
  | none => d
  | some g =>
    let d := d.modGroup gid fun g => { emptyBypass g with state := .waiting, wait := some w }
    let x := d.drawer g.core g.block
    d.setDrawer g.core g.block { x with waitKind := kind, count, flags := x.flags &&& 0x0D, deadline := BitVec.ofNat 64 deadline, object, entry, operands := waitOperands w }
/-- The group's drawer, saved or in its core. -/
def drawerOf (d : Device) (g : Group) : Drawer := g.savedDrawer.getD (d.drawer g.core g.block)
/-- Changes the group's drawer, saved or in its core. -/
def setDrawerOf (d : Device) (g : Group) (x : Drawer) : Device :=
  match g.savedDrawer with
  | some _ => d.modGroup g.id fun h => { noteImage 2 h with savedDrawer := some x }
  | none => d.setDrawer g.core g.block x
/-- Ends a group's wait without completing the instruction. -/
def dropWait (d : Device) (gid : Nat) : Device :=
  match Tbl.find d.groups gid with
  | none => d
  | some g =>
    let d := d.modGroup gid fun g => { g with wait := none, state := if g.state == .waiting then .live else g.state, readyAt := d.clock }
    setDrawerOf d g { drawerOf d g with waitKind := 0, count := 0, deadline := 0 }
/-- Increments the generation of a group's drawer, so that its old handles and what is on its way to it are stale (R44, R46, R367). -/
def bumpDrawer (d : Device) (g : Group) : Device := (setDrawerOf d g { drawerOf d g with gen := (drawerOf d g).gen + 1 }).modGroup g.id fun h => { h with waitSeq := h.waitSeq + 1 }
/-- Removes the watches of a group (R273). -/
def removeWatches (d : Device) (gid : Nat) : Device :=
  { d with clusters := Tbl.mapVals (fun (c : Cluster) => { c with watches := c.watches.filter (fun w => w.2.2 != gid), queue := c.queue.filter (fun r => r.source != .waiter gid), sending := c.sending.filter fun r => r.2.source != .waiter gid }) d.clusters }
/-- Lines whose `unlk` has left the effect buffer: on its way to hand-over, or a release under way (R261). -/
def goingLines (g : Group) : List Nat :=
  g.handed.filterMap (fun e => match e.act with | .unlk l => some l | _ => none) ++ g.releases.filterMap fun r => match r.act with | .unlk l => some l | _ => none
/-- Lines of a bench granted to a group that has not taken them. -/
def untaken (locks : List Nat) (gid : Nat) (s : Slice) : List Nat :=
  (s.bench.filter fun e => e.2.holder == some gid && !locks.contains e.1 && !s.releases.any fun r => r.1 == e.1).map (·.1)
/-- Removes a group's places in the lock queues (R259, R375 step 4); a line granted to it that it has not taken passes on poisoned (R260). -/
def removeWaiter (d : Device) (gid : Nat) : Device :=
  let g := Tbl.find d.groups gid
  let locks := (g.map fun g => g.locks ++ goingLines g).getD []
  let clock := (g.map fun g => (d.die (g.core / 128)).causal).getD clockZero
  { d with slices := Tbl.mapVals (fun (s : Slice) => { s with
      releases := s.releases ++ (untaken locks gid s).map fun l => (l, true, clock)
      bench := Tbl.mapVals (fun (l : LockLine) => { l with queue := l.queue.filter fun w => w.group != gid }) s.bench }) d.slices }
/-- Removes a group's chunk request (R75). -/
def removeChunkReq (d : Device) (gid : Nat) : Device :=
  { d with cores := Tbl.mapVals (fun (c : Core) => { c with chunkQueue := c.chunkQueue.filter fun r => r.1 != gid }) d.cores }
/-- Removes a group's requests from misses (R372). -/
def removeMisses (d : Device) (gid : Nat) : Device :=
  { d with
    cores := Tbl.mapVals (fun (c : Core) => { c with misses := c.misses.filter fun m => m.group != gid }) d.cores
    slices := Tbl.mapVals (fun (s : Slice) => { s with misses := (s.misses.map fun e => { e with waiters := e.waiters.filter fun m => m.group != gid }) }) d.slices }
/-- Removes what stands at version homes for a group's `ld.ver` (R59, R61). -/
def removeVerLoads (d : Device) (gid : Nat) : Device :=
  { d with homes := Tbl.mapVals (fun (h : Home) => { h with loads := h.loads.filter fun l => l.1 != gid }) d.homes }
/-- Abandons a wait but for its places at benches: whatever stands for it elsewhere goes too; a request on its way to a version home is no wait (R59, R61, R375). -/
def leaveWait (d : Device) (gid : Nat) : Device := removeMisses (removeChunkReq (removeWatches (dropWait d gid) gid) gid) gid
/-- Abandons a wait, and its places at benches (R59, R61, R259). -/
def abandonWait (d : Device) (gid : Nat) : Device := removeWaiter (leaveWait d gid) gid

/-- Sends the release of a lock by a group of a die toward its home slice, with the die's clock (R217, R218, R257, R260). -/
def releaseLock (P : Platform) (d : Device) (die line : Nat) (poisoned : Bool) : Device :=
  d.modSlice (homeSlice P line) fun s => { s with releases := s.releases ++ [(line, poisoned, (d.die die).causal)] }

/-- Passes every lock a group holds marked poisoned, but for those that its own `unlk` is releasing (R35, R260). -/
def poisonLocks (P : Platform) (d : Device) (gid : Nat) : Device :=
  match Tbl.find d.groups gid with
  | none => d
  | some g =>
    let go := goingLines g
    ((g.locks.filter fun l => !go.contains l).foldl (fun d l => releaseLock P d (g.core / 128) l true) d).modGroup gid fun g => { g with locks := g.locks.filter go.contains, lockVas := g.lockVas.filter fun x => go.contains x.1 }
/-- Marks the group's name exited (R35, R282). -/
def exitName (d : Device) (g : Group) : Device :=
  if g.name = 0 then d else { d with names := Tbl.modify (fun (e : NameEntry) => { gen := e.gen + 1, holder := none, exited := true }) d.names (g.name.toNat / 256 % 2 ^ 15) }
/-- Frees the tiles a group has reserved; they keep their contents (R82, R295). -/
def freeTiles (d : Device) (gid core : Nat) : Device :=
  d.modCore core fun k => { k with tiles := Tbl.mapVals (fun (t : Tile) => if t.owner = some gid then { t with owner := none } else t) k.tiles }
/-- The index of the drawer a handle names (R43). -/
def handleIndex (h : Word) : Nat := (h.extractLsb' 7 8).toNat
/-- Frees the task drawers whose `post` is discarded; what waits there for such a drawer arrives again, to be dropped as stale (R44, R275). -/
def freePosts (d : Device) (es : List Effect) : Device :=
  es.foldl (fun d e => match e.act with
    | .post c i => (d.freeDrawer c i).modCore c fun k => { k with arrivals := k.arrivals ++ k.held.filter (fun x => handleIndex x.handle == i), held := k.held.filter fun x => handleIndex x.handle != i }
    | _ => d) d
/-- Discards a group's held effects (R129). -/
def discardEffects (d : Device) (gid : Nat) : Device :=
  match Tbl.find d.groups gid with
  | none => d
  | some g => (freePosts d g.effects).modGroup gid fun g => { g with effects := [] }
/-- The tiles a group has reserved, with their contents (R294). -/
def ownTiles (d : Device) (g : Group) : List (Nat × Cells Word) := (d.core g.core).tiles.filterMap fun t => if t.2.owner = some g.id then some (t.1, if t.2.job = some g.job then t.2.cells else []) else none
/-- Clears the match registers of a job that has no group left on a core (R132). -/
def clearMatches (d : Device) (core job : Nat) : Device :=
  if (groupsOn d core).any fun g => g.job == job then d
  else d.modCore core fun k => { k with matches_ := k.matches_.map fun m => if m.2 = some job then (0, none) else m }
/-- Gives the base block, the control file, the chunks and the tiles of a group back to its core; each keeps its contents and the job (R82). -/
def depositRegs (d : Device) (gid : Nat) : Device :=
  match Tbl.find d.groups gid with
  | none => d
  | some g =>
    let d := (List.range g.h).foldl (fun d e => giveChunk d gid e) d
    let d := d.modCore g.core fun k => { k with blocks := Tbl.set k.blocks g.block { job := some g.job, cells := cutCells g.v 0 1024 }, ctl := Tbl.set k.ctl g.block { job := some g.job, s := g.s, p := g.p } }
    freeTiles d gid g.core
/-- Splits that stalled for a reason try again; a group blocked so is ready from now (R51, R52). -/
def retryStalls (w : Stall) (d : Device) (gid : Nat) : Device :=
  d.modGroup gid fun g => if g.splits.any (fun e => e.2.stall == some w) then { g with readyAt := d.clock, splits := Tbl.mapVals (fun (sp : Split) => if sp.stall = some w then { sp with stall := none } else sp) g.splits } else g
/-- A freed entry of a core's transaction table lets every group of the core that stalled on one try again (R355). -/
def freeEntry (d : Device) (core : Nat) : Device := ((groupsOn d core).map (·.id)).foldl (retryStalls .table) d
/-- The entries that the operations of a list hold on a core are freed (R355). -/
def freeEntries (d : Device) (core : Nat) (os : List Op) : Device := if os.any (·.entry) then freeEntry d core else d
/-- Frees a group's resources at exit or discard; the group is EXITED, and what it released is known to the command engine (R35, R55, R59, R375 step 6). -/
def freeGroup (P : Platform) (d : Device) (gid : Nat) : Device :=
  match Tbl.find d.groups gid with
  | none => d
  | some g =>
    let d := poisonLocks P (removeVerLoads (abandonWait d gid) gid) gid
    let d := exitName d g
    let d := discardEffects d gid
    let d := if g.savedDrawer.isSome then d else (depositRegs d gid).freeDrawer g.core g.block
    let d := { d.toCommand (g.core / 128) with groups := Tbl.erase d.groups gid }
    let d := freeEntries (clearMatches d g.core g.job) g.core g.ops
    grantChunks g.core ((d.core g.core).chunkQueue.length + 1) d
/-- A release that an instruction of the group waits for. -/
def RelAct.ofInstr : RelAct → Bool
  | .fence _ _ | .arrive _ _ _ | .launch _ _ _ => true
  | _ => false
/-- An operation that is its instruction's wait, in a group that waits for `w`. -/
def Op.waits (w : Option WaitFor) (o : Op) : Bool :=
  match o.kind with
  | .fence | .pending => true
  | .verLoad _ => w == some (.sealed o.id)
  | _ => false
/-- Halts a group at once: no split of it issues again, an instruction that waits is abandoned, the held effects are discarded, and the reservation of tiles ends (R59, R296, R375). The effects and the tiles stay listed for the dump (R380, R385). On the fatal path its places at benches stand until step 4 (R375). -/
def haltAt (fatal : Bool) (d : Device) (gid : Nat) : Device :=
  match Tbl.find d.groups gid with
  | none => d
  | some g =>
    if g.state == .halted then d else
    let tiles := ownTiles d g
    let d := freeTiles (freePosts (if fatal then leaveWait d gid else abandonWait d gid) g.effects) gid g.core
    let d := freeEntries d g.core (g.ops.filter fun o => o.waits g.wait)
    d.modGroup gid fun h => { h with state := .halted, yielded := none, ringTraps := [], effects := [], discarded := g.effects, savedTiles := if g.savedDrawer.isSome then g.savedTiles else tiles, releases := h.releases.filter (fun r => !r.act.ofInstr), ops := h.ops.filter fun o => !o.waits g.wait }
/-- Halts a group of a team that is cancelled (R59). -/
def haltGroup (d : Device) (gid : Nat) : Device := haltAt false d gid

end Sys2Proof.Machine
end

