-- ==== Sys2Proof/Machine/Objects.lean ====
section
/-! DEFINITION. Records of jobs, phases, graphs and launches (R339 to R343), the start of launches and nodes (R352, R402), completion up the levels (R55, R56, R69) and cancels down them (R58, R59). -/

namespace Sys2Proof.Machine

/-! Records. -/

/-- A field of a record: `n` bytes at an offset. -/
def field (r : List Byte) (off n : Nat) : Nat := natOf ((r.drop off).take n)
/-- A record of 64 bytes as the command engine reads it, none where it cannot be read or is misaligned. -/
def readRecord (d : Device) (job : Nat) (va : DWord) (n : Nat) : Option (List Byte) := if va.toNat % 64 = 0 then jobRead d job 0 va n else none
/-- Class of an entry of the resilience map (R427): 0 NONE, 1 MIRROR, 2 SNAPSHOT, 3 HOLD. -/
def ResEntry.cls (e : ResEntry) : Nat := (e.ctl.extractLsb' 0 2).toNat
/-- A fill visits the pages of an entry (R431, R432): every one but a HOLD copy of another member (log 110). -/
def ResEntry.filled (e : ResEntry) : Bool := e.cls != 3
/-- No phase of a job whose versioned pages are being filled runs before READY (R431). -/
def phaseHeld (P : Platform) (job : Nat) : Bool := P.fillJob.isSome && P.resmap.any fun e => e.2.job == job && e.2.filled
/-- Checks of a job record; the root is a table of 8 KiB and the handler a clause (R101, R339, R343, R369). -/
def jobRecordOk (r : List Byte) : Bool :=
  decide (r.length = 64) && field r 52 12 == 0 && field r 7 1 == 0 && decide (field r 0 1 < 64) && decide (field r 1 1 < 8) && decide (field r 2 1 < 16) &&
  decide (10 ≤ field r 3 1) && decide (field r 3 1 ≤ 26) && decide (16 ≤ field r 4 1) && decide (field r 4 1 ≤ 36) && decide (20 ≤ field r 5 1) && decide (field r 5 1 ≤ 30) && decide (field r 6 1 ≤ 16) &&
  field r 8 8 % 32 == 0 && field r 16 8 % 8192 == 0 && field r 24 8 % 16 == 0 && field r 32 8 % 16 == 0 && field r 40 8 % 64 == 0
/-- Checks of a phase record's header (R340, R343). -/
def phaseHeaderOk (r : List Byte) : Bool :=
  field r 7 1 == 0 && decide (field r 6 1 < 2) && decide (1 ≤ field r 4 2) && decide (field r 4 2 ≤ 256) && field r 8 8 % 16 == 0
/-- Checks of a launch record (R342, R343). -/
def launchOk (r : List Byte) : Bool :=
  decide (r.length = 64) && field r 56 8 % 64 == 0 && field r 52 4 == 0 && decide (1 ≤ field r 48 4) && decide (field r 48 4 ≤ 2 ^ 24) && field r 40 8 % 16 == 0 &&
  field r 24 4 % 512 == 0 && decide (field r 24 4 ≤ 2 ^ 21) && field r 23 1 == 0 && decide (16 ≤ field r 22 1) && decide (field r 22 1 ≤ 26) && decide (1 ≤ field r 21 1) && decide (field r 21 1 ≤ 32) &&
  decide (1 ≤ field r 20 1) && decide (field r 20 1 ≤ 64) && decide (1 ≤ field r 16 4) && decide (field r 16 4 ≤ 2 ^ 20) && field r 0 8 % 16 == 0
/-- A node of a graph record (R341). -/
def readNode (r : List Byte) : Node :=
  { kind := field r 0 1, npred := field r 2 2, succ := [field r 4 2, field r 6 2, field r 8 2, field r 10 2], limit := field r 12 4, target := BitVec.ofNat 64 (field r 16 8) }
/-- Checks of one node by itself (R341, R343). -/
def nodeOk (count : Nat) (kinds : List Nat) (r : List Byte) : Bool :=
  let n := readNode r
  field r 24 8 == 0 && field r 1 1 == 0 && decide (n.kind ≤ 2) && (n.kind == 2 || n.limit == 0) && (if n.kind = 0 then n.target.toNat % 64 == 0 else n.target.toNat % 8 == 0) &&
  n.succ.all (fun e => e == 0xFFFF || (decide (e / 4096 % 8 = 0) && decide (e % 4096 < count) && (decide (e < 2 ^ 15) || kinds.getD (e % 4096) 0 == 2))) &&
  (n.kind == 0 || (n.succ.getD 2 0 == 0xFFFF && n.succ.getD 3 0 == 0xFFFF))
/-- Forward edges into a node. -/
def forwardInto (nodes : List Node) (i : Nat) : Nat := ((nodes.flatMap (·.succ)).filter fun e => e != 0xFFFF && decide (e < 2 ^ 15) && e % 4096 == i).length
/-- Reads and checks a graph record: its done address and nodes, or none where a check fails (R341, R343). -/
def readGraph (d : Device) (job : Nat) (va : DWord) : Option (DWord × List Node) :=
  match readRecord d job va 64 with
  | none => none
  | some h =>
    let n := field h 0 2
    if n = 0 || decide (4096 < n) || field h 16 48 != 0 || field h 2 6 != 0 || field h 8 8 % 16 != 0 then none
    else
      let raw := (List.range n).map fun i => jobRead d job 0 (va + BitVec.ofNat 64 (64 + 32 * i)) 32
      if raw.any (·.isNone) then none
      else
        let bytes := raw.map (·.getD [])
        let nodes := bytes.map readNode
        let kinds := nodes.map (·.kind)
        if bytes.all (nodeOk n kinds) && (List.range n).all (fun i => (nodes.getD i default).npred == forwardInto nodes i) && nodes.any (fun x => x.npred == 0) then some (BitVec.ofNat 64 (field h 8 8), nodes)
        else none

/-- A collective binding (R400). -/
structure Binding where
  mask : Nat
  abase : DWord
  rbase : DWord
  kbase : DWord
  vbase : DWord
  cbase : Nat
  nchunk : Nat
  timer : Nat
  q : Nat
  floor : Nat
  auto : Bool
  fold : Bool
  deriving Repr, Inhabited
/-- The members, ascending (R401). -/
def Binding.members (b : Binding) : List Nat := (List.range 512).filter fun p => b.mask.testBit p
/-- Reads and checks a binding (R400, R401). -/
def readBinding (P : Platform) (d : Device) (job : Nat) (va : DWord) : Option Binding :=
  if va.toNat % 64 ≠ 0 then none
  else match jobRead d job 0 va 64, jobRead d job 0 (va + 64) 64 with
    | some lo, some hi =>
      let a (off : Nat) : DWord := BitVec.ofNat 64 (field lo off 8)
      let b : Binding := { mask := field hi 0 64, abase := a 56, rbase := a 48, kbase := a 40, vbase := a 32, cbase := field lo 28 4, nchunk := field lo 24 4, timer := field lo 20 4, q := field lo 18 2, floor := field lo 16 2, auto := (field lo 0 1).testBit 0, fold := (field lo 0 1).testBit 1 }
      let al (x : DWord) : Bool := x.toNat % 4096 == 0
      let n := b.members.length
      if field lo 1 15 == 0 && decide (field lo 0 1 < 4) && decide (1 ≤ b.nchunk) && decide (b.nchunk ≤ 2 ^ 24) && decide (1 ≤ b.timer) && decide (b.timer ≤ 1000000) && decide (1 ≤ b.q) && decide (b.q ≤ 512) && decide (b.floor ≤ b.q) &&
        al b.abase && al b.rbase && al b.kbase && al b.vbase && b.rbase != 0 && b.kbase != 0 && decide (b.q ≤ n) && b.members.contains P.own && b.members.all (fun p => P.valid p && !P.foreign p) then some b else none
    | _, _ => none
/-- The member that owns a chunk (R401). -/
def Binding.owner (b : Binding) (chunk : Nat) : Nat := b.members.getD (chunk % b.members.length) 0

/-! Lookups. -/

/-- The job of a number. -/
def Device.job (d : Device) (j : Nat) : Option Job := Tbl.find d.jobs j
/-- The launch a team belongs to. -/
def launchOf (d : Device) (t : Team) : Option Launch := t.launch.bind (Tbl.find d.launches)
/-- The lower-numbered host port (R444, R450). -/
def lowPort (P : Platform) : Nat := min (P.hostPorts.toNat % 8) (P.hostPorts.toNat / 8 % 8)

/-! Completion records. -/

/-- A completion record (R56). -/
def completionRecord (count status flags : Nat) : List Byte := bytesOf 8 count ++ bytesOf 4 status ++ bytesOf 4 flags
/-- A completion record, a write of the command engine, from D0 (log 107): a release of what the object's teams released, dropped when it fails (R56, R217, R218). -/
def commandWrite (P : Platform) (d : Device) (job : Nat) (va : DWord) (bytes : List Byte) : Device :=
  let d := d.fromCommand 0
  match jobWrite P d job 0 va bytes with
  | some e =>
    let e := match engineXlat d job .store 0 va with | .ok _ pa => tagClock e e.sched.clock pa | _ => e
    noticeAll e (sigOfAll (blocksOf va bytes.length))
  | none => d
/-- The completion message of a phase or a job (R444). -/
def completionMessage (P : Platform) (d : Device) (job level : Nat) (done : DWord) (rec : List Byte) : Device :=
  { d with hostOut := d.hostOut ++ [{ port := lowPort P, kind := 4, status := 0, tag := 0, payload := bytesOf 4 job ++ bytesOf 4 level ++ bytesOf 8 done.toNat ++ rec }] }
/-- The status of an object that completes (R56, R376). -/
def endStatus (cancelling escalated failed : Bool) : Nat := if cancelling then (if escalated then 2 else 1) else if failed then 2 else 0

/-- A job whose cancel is at its end completes (R56, R59). -/
def checkJob (P : Platform) (d : Device) (j : Nat) : Device :=
  match d.job j with
  | none => d
  | some x =>
    if x.state == .cancelling && (Tbl.vals d.phases).all (fun p => p.job != j || p.state == .complete) && !(Tbl.vals d.teams).any (fun t => t.job == j) then
      let rec_ := completionRecord x.count (endStatus true x.escalated false) x.flags
      completionMessage P (commandWrite P (d.modJob j fun x => { x with state := .complete }) j x.done rec_) j 3 x.done rec_
    else d
/-- A phase that has no running child and none left to start completes (R56, R340). -/
def checkPhase (P : Platform) (d : Device) (p : Nat) : Device :=
  match Tbl.find d.phases p with
  | none => d
  | some x =>
    if x.state != .complete && (x.started || x.state == .cancelling) && x.left == 0 && x.toSubmit.isEmpty then
      let st := endStatus (x.state == .cancelling) x.escalated x.failed
      let rec_ := completionRecord x.count st x.flags
      let d := { d with phases := Tbl.set d.phases p { x with state := .complete } }
      let d := completionMessage P (commandWrite P d x.job x.done rec_) x.job 2 x.done rec_
      let d := if st = 0 then d.modJob x.job fun j => { j with count := j.count + 1 } else d
      checkJob P d x.job
    else d
/-- A graph with no running launch and no start pending completes (R352, R340). -/
def checkGraph (P : Platform) (d : Device) (g : Nat) : Device :=
  match Tbl.find d.graphs g with
  | none => d
  | some x =>
    if x.state != .complete && x.running == 0 && x.starts.isEmpty && x.conds.isEmpty then
      let st := endStatus (x.state == .cancelling) x.escalated x.failed
      let d := commandWrite P { d with graphs := Tbl.set d.graphs g { x with state := .complete } } x.job x.done (completionRecord x.count st x.flags)
      let d := { d with phases := Tbl.modify (fun (p : Phase) => { p with left := p.left - 1, count := if st = 0 then p.count + 1 else p.count, failed := p.failed || st != 0, skipped := p.skipped || (st != 0 && !p.toSubmit.isEmpty), toSubmit := if st = 0 then p.toSubmit else [] }) d.phases x.phase }
      checkPhase P d x.phase
    else d

/-! Starts. -/

/-- A team of a launch, not yet placed (R55, R342). -/
def newTeam (id : Nat) (l : Launch) (index : Nat) (step : Word) : Team :=
  let f (i : Nat) := l.fields.getD i 0
  { id, job := l.job, launch := some l.id, index, state := .queued, groups := f 3, lanes := f 4, entry := BitVec.ofNat 64 (f 0), arg := BitVec.ofNat 64 (f 1), step, quantum := 2 ^ f 5, cluster := 0, place := 0, base := 0, windowSize := f 6, window := [], windowPoison := [], residentSince := 0, quantumOver := false, clock := clockZero,
    tls := [], ranges := [], drawer := 0, savedDrawers := [], aliases := [], nextTask := 64, cancelled := false, handler := false, s0 := BitVec.ofNat 64 index, s2 := BitVec.ofNat 64 (f 1), image := none, dump := none, stopped := false, cancelAt := none }
/-- Puts the teams of a launch into the job's queue, in ascending index (R344). -/
def queueTeams (l : Launch) (step : Word) : Nat → Nat → Device → Device
  | 0, _, d => d
  | n + 1, i, d =>
    let id := d.nextId
    let d := { d with nextId := id + 1, teams := Tbl.set d.teams id (newTeam id l i step) }
    queueTeams l step n (i + 1) (d.modJob l.job fun j => { j with queued := j.queued ++ [id] })
/-- Starts the launch of a graph's node, or ends it at once as failed (R343, R352, R402). -/
def startLaunch (P : Platform) (d : Device) (gid node : Nat) : Device :=
  match Tbl.find d.graphs gid with
  | none => d
  | some g =>
    let record := (g.nodes.getD node default).target
    let step := ((Tbl.find d.phases g.phase).map (·.step)).getD 0
    let r := (readRecord d g.job record 64).getD []
    let coll := BitVec.ofNat 64 (field r 56 8)
    let bind := readBinding P d g.job coll
    let ok := launchOk r && (coll == 0 || (match bind with | some b => !b.auto || decide (b.cbase + field r 16 4 ≤ b.nchunk) | none => false))
    let auto := match bind with | some b => if coll != 0 && b.auto then some (b.cbase, b.abase) else none | none => none
    let id := d.nextId
    let l : Launch := { id, job := g.job, phase := some g.phase, graph := some (gid, node), record, state := .running, fields := [field r 0 8, field r 8 8, field r 16 4, field r 20 1, field r 21 1, field r 22 1, field r 24 4, field r 28 4, field r 32 8, field r 48 4], coll, auto, done := BitVec.ofNat 64 (field r 40 8), count := 0, left := field r 16 4, flags := 0, failed := false, escalated := false, next := 0, holders := [] }
    if ok then
      let d := { d with nextId := id + 1, launches := Tbl.set d.launches id l, graphs := Tbl.set d.graphs gid { g with running := g.running + 1 } }
      queueTeams l step (field r 16 4) 0 d
    else
      let d := { d with nextId := id + 1, launches := Tbl.set d.launches id { l with state := .complete, failed := true, left := 0 }, graphs := Tbl.set d.graphs gid { g with stopped := true, failed := true, starts := [], conds := [] } }
      if r.isEmpty then d else commandWrite P d g.job l.done (completionRecord 0 2 0)
/-- Starts a node: a launch at once, a condition when its word has been read (R352, R353). A stopped graph starts nothing. -/
def startNode (P : Platform) (gid : Nat) (d : Device) (node : Nat) : Device :=
  match Tbl.find d.graphs gid with
  | none => d
  | some g =>
    if g.stopped || g.state != .running then d
    else if (g.nodes.getD node default).kind = 0 then startLaunch P d gid node
    else { d with graphs := Tbl.set d.graphs gid { g with conds := g.conds ++ [node] } }
/-- Fires a successor entry (R352). -/
def fireNode (P : Platform) (gid : Nat) (d : Device) (e : Nat) : Device :=
  if e = 0xFFFF then d
  else if 2 ^ 15 ≤ e then startNode P gid d (e % 4096)
  else match Tbl.find d.graphs gid with
    | none => d
    | some g =>
      let i := e % 4096
      let c := g.cnt.getD i 0 - 1
      if c = 0 then startNode P gid { d with graphs := Tbl.set d.graphs gid { g with cnt := listSet g.cnt i (g.nodes.getD i default).npred } } i
      else { d with graphs := Tbl.set d.graphs gid { g with cnt := listSet g.cnt i c } }
/-- A graph accepted by the walker starts its nodes without predecessors (R352). -/
def beginGraph (P : Platform) (d : Device) (gid : Nat) : Device :=
  match Tbl.find d.graphs gid with
  | none => d
  | some g =>
    let d := { d with graphs := Tbl.set d.graphs gid { g with cnt := g.nodes.map (·.npred), iter := g.nodes.map fun _ => 0, starts := [] } }
    checkGraph P (((List.range g.nodes.length).filter fun i => (g.nodes.getD i default).npred == 0).foldl (startNode P gid) d) gid
/-- Graphs the walker holds (R351). -/
def walkerCount (d : Device) : Nat := ((Tbl.vals d.graphs).filter fun g => g.state != .complete).length
/-- A graph of a phase, before it starts. -/
def newGraph (id job phase : Nat) (record done : DWord) (nodes : List Node) : Graph :=
  { id, job, phase, record, state := .running, nodes, cnt := [], iter := [], running := 0, starts := [0], conds := [], condSince := none, done, count := 0, flags := 0, stopped := false, failed := false, escalated := false }
/-- Submits a checked graph to the walker, which has room for it (R351). A graph below a phase that is being cancelled is cancelled with it: it starts nothing (R58, R59, log 89). -/
def submitGraph (P : Platform) (d : Device) (job phase : Nat) (record done : DWord) (nodes : List Node) : Device :=
  let id := d.nextId
  let g := newGraph id job phase record done nodes
  let d := { d with nextId := id + 1, graphs := Tbl.set d.graphs id g, phases := Tbl.modify (fun (p : Phase) => { p with left := p.left + 1 }) d.phases phase }
  match Tbl.find d.phases phase with
  | some p => if p.state == .running then beginGraph P d id else checkGraph P { d with graphs := Tbl.set d.graphs id { g with state := .cancelling, escalated := p.escalated, stopped := true, starts := [] } } id
  | none => d

/-! Completion of launches and teams. -/

/-- A launch without teams left completes: its ranges go, its record is written, its node fires (R56, R352, R356). -/
def checkLaunch (P : Platform) (d : Device) (lid : Nat) : Device :=
  match Tbl.find d.launches lid with
  | none => d
  | some l =>
    if l.state == .complete || l.left != 0 then d
    else
      let st := endStatus (l.state == .cancelling) l.escalated l.failed
      let d := { d with launches := Tbl.set d.launches lid { l with state := .complete, holders := [] }, cores := Tbl.mapVals (fun (c : Core) => { c with ranges := Tbl.erase c.ranges lid }) d.cores }
      let d := commandWrite P d l.job l.done (completionRecord l.count st l.flags)
      match l.graph with
      | none => d
      | some (gid, node) =>
        let d := { d with graphs := Tbl.modify (fun (g : Graph) => { g with running := g.running - 1, count := if st = 0 then g.count + 1 else g.count, failed := g.failed || st != 0, stopped := g.stopped || st != 0, starts := if st = 0 then g.starts else [], conds := if st = 0 then g.conds else [] }) d.graphs gid }
        let succ := ((Tbl.find d.graphs gid).map fun g => (g.nodes.getD node default).succ).getD []
        let d := if st = 0 then succ.foldl (fireNode P gid) d else d
        checkGraph P d gid
/-- Sets ORPHAN_TASKS in a launch and every object above it (R55). -/
def markOrphan (d : Device) (l : Launch) : Device :=
  let d := { d with launches := Tbl.modify (fun (x : Launch) => { x with flags := x.flags ||| 2 }) d.launches l.id }
  let d := match l.graph with | some (g, _) => { d with graphs := Tbl.modify (fun (x : Graph) => { x with flags := x.flags ||| 2 }) d.graphs g } | none => d
  let d := match l.phase with | some p => { d with phases := Tbl.modify (fun (x : Phase) => { x with flags := x.flags ||| 2 }) d.phases p } | none => d
  d.modJob l.job fun j => { j with flags := j.flags ||| 2 }
/-- How a team ended (R55, R59, R376). -/
inductive TeamEnd where
  | exited | failed | cancelled
  deriving DecidableEq, Repr
/-- The pool drawers of a team, those that a migrated group of it has taken on another core among them: core and index. -/
def teamDrawers (d : Device) (t : Team) : List (Nat × Nat) :=
  d.cores.flatMap fun k => (k.2.drawers.filter fun e => decide (64 ≤ e.1) && e.2.team == t.id && (e.2.kind == 2 || e.2.kind == 3)).map fun e => (k.1, e.1)
/-- Frees what a team has beside its groups: drawers, tasks on start queues, ranges, window (R55, R59, R375). -/
def freeTeamUnits (d : Device) (t : Team) : Device :=
  let d := (teamDrawers d t).foldl (fun d e => d.freeDrawer e.1 e.2) d
  { d with cores := Tbl.mapVals (fun (c : Core) => { c with startQueue := c.startQueue.filter fun e => e.2.team != t.id }) d.cores }
/-- A team completes (R55, R69): drawers of unstarted tasks are freed and marked, an AUTO launch's chunk is sent (R402), the launch counts it. -/
def completeTeam (P : Platform) (d : Device) (tid : Nat) (how : TeamEnd) : Device :=
  match Tbl.find d.teams tid with
  | none => d
  | some t =>
    let orphan := (teamDrawers d t).any fun e => (d.drawer e.1 e.2).kind == 2 && (d.drawer e.1 e.2).count != 0
    let d := freeTeamUnits d t
    let d := (((Tbl.vals d.groups).filter fun g => g.team == tid).map (·.id)).foldl (fun d g => freeGroup P d g) d
    let d := { d with teams := Tbl.erase d.teams tid }
    let d := d.modJob t.job fun j => { j with queued := j.queued.filter (· != tid), swapped := j.swapped.filter (· != tid), dumps := j.dumps.filter (· != tid) }
    match launchOf d t with
    | none => checkJob P d t.job
    | some l =>
      let d := if orphan then markOrphan d l else d
      let d := match how, l.auto with
        | .exited, some (cbase, abase) =>
          let s : CollSend := { job := t.job, binding := l.coll, chunk := cbase + t.index, step := t.step.toNat, src := abase + BitVec.ofNat 64 (4096 * t.index), group := none }
          { d with coll := { d.coll with sends := d.coll.sends ++ [(t.cluster / 32, s)] } }
        | _, _ => d
      let d := { d with launches := Tbl.modify (fun (x : Launch) => { x with left := x.left - 1, count := if how = .exited then x.count + 1 else x.count, failed := x.failed || how == .failed }) d.launches l.id }
      checkJob P (checkLaunch P d l.id) t.job
/-- A team with no live group and no task on a start queue (R55). -/
def teamDone (d : Device) (tid : Nat) : Bool :=
  !(Tbl.vals d.groups).any (fun g => g.team == tid) && !(Tbl.vals d.cores).any (fun (c : Core) => c.startQueue.any fun e => e.2.team == tid)

/-! Cancels (R58, R59). -/

/-- A team that a dump in progress belongs to: its header is not yet written and its first bytes are (R381). -/
def dumping (t : Team) : Bool := match t.dump with
  | some x => !x.skip && decide (0 < x.length)
  | none => false
/-- A team is cancelled: the dump of one in step 5 of R375 ends at its next section; a team is discarded when it is not resident; otherwise it closes its regions, its waiting groups abandoning theirs, and with them those that a decrement has readied in this very clock (R59, R60). Its tasks that have not started leave the start queue (log 109). -/
def cancelTeam (P : Platform) (d : Device) (tid : Nat) : Device :=
  match Tbl.find d.teams tid with
  | none => d
  | some t =>
    match t.state with
    | .queued | .swapped => completeTeam P d tid .cancelled
    | .fatal => d.modTeam tid fun t => { t with cancelled := t.cancelled || dumping t }
    | .closing | .complete => d
    | .placing | .resident | .swappingOut | .restoring =>
      let grace := ((d.job t.job).map fun j => 2 ^ j.grace).getD 0
      let d := d.modTeam tid fun t => { t with state := .closing, cancelAt := some (d.clock + grace), stopped := false, image := none }
      let d := { d with cores := Tbl.mapVals (fun (c : Core) => { c with startQueue := c.startQueue.filter fun e => e.2.team != tid }) d.cores }
      ((Tbl.vals d.groups).filter fun g => g.team == tid && (g.state == .waiting || g.state == .migrating || (g.state == .live && g.readied == some d.clock))).foldl (fun d g => discardEffects (haltGroup d g.id) g.id) d
/-- A launch is cancelled, with its teams. -/
def cancelLaunch (P : Platform) (esc : Bool) (d : Device) (lid : Nat) : Device :=
  match Tbl.find d.launches lid with
  | none => d
  | some l =>
    if l.state != .running then d
    else
      let d := { d with launches := Tbl.set d.launches lid { l with state := .cancelling, escalated := esc, holders := [] }, cores := Tbl.mapVals (fun (c : Core) => { c with ranges := Tbl.erase c.ranges lid }) d.cores }
      let ts := ((Tbl.vals d.teams).filter fun t => t.launch == some lid).map (·.id)
      checkLaunch P (ts.foldl (cancelTeam P) d) lid
/-- A graph is cancelled, with its launches; no node of it starts again. -/
def cancelGraph (P : Platform) (esc : Bool) (d : Device) (gid : Nat) : Device :=
  match Tbl.find d.graphs gid with
  | none => d
  | some g =>
    if g.state != .running then d
    else
      let d := { d with graphs := Tbl.set d.graphs gid { g with state := .cancelling, escalated := esc, stopped := true, starts := [], conds := [] } }
      let ls := ((Tbl.vals d.launches).filter fun l => (l.graph.map (·.1)) == some gid).map (·.id)
      checkGraph P (ls.foldl (cancelLaunch P esc) d) gid
/-- A phase is cancelled, with its graphs; it submits no more. -/
def cancelPhase (P : Platform) (esc : Bool) (d : Device) (p : Nat) : Device :=
  match Tbl.find d.phases p with
  | none => d
  | some x =>
    if x.state != .running then d
    else
      let d := { d with phases := Tbl.set d.phases p { x with state := .cancelling, escalated := esc, skipped := x.skipped || !x.toSubmit.isEmpty, toSubmit := [] } }
      let gs := ((Tbl.vals d.graphs).filter fun g => g.phase == p).map (·.id)
      checkPhase P (gs.foldl (cancelGraph P esc) d) p
/-- A job is cancelled, with its phases and its handler team. -/
def cancelJob (P : Platform) (esc : Bool) (d : Device) (j : Nat) : Device :=
  match d.job j with
  | none => d
  | some x =>
    if x.state != .running then d
    else
      let d := d.modJob j fun x => { x with state := .cancelling, escalated := esc, cancelAt := some d.clock }
      let d := x.phases.foldl (cancelPhase P esc) d
      let hs := ((Tbl.vals d.teams).filter fun t => t.job == j).map (·.id)
      checkJob P (hs.foldl (cancelTeam P) d) j

/-- Halts the groups of closing teams whose splits have all closed their regions and released their effects, and those that wait (R59). -/
def closeSweep (d : Device) : Device :=
  ((Tbl.vals d.groups).filter fun g => ((Tbl.find d.teams g.team).map fun t => t.state == .closing).getD false).foldl (fun d g =>
    if g.state == .waiting || g.state == .migrating then discardEffects (haltGroup d g.id) g.id
    else if g.state == .live && !g.splits.isEmpty && (Tbl.vals g.splits).all (fun sp => sp.gone) && g.handed.isEmpty && g.releases.isEmpty && g.outEff == 0 then haltGroup d g.id
    else d) d

end Sys2Proof.Machine
end

