-- ==== Sys2Proof/Machine/Route.lean ====
section
/-! DEFINITION. How traffic reaches a peer (R278, R387, R389, R398) and UALink requests (R396). -/

namespace Sys2Proof.Machine
open Sys2Proof

/-! Routes. -/

/-- Mode of a peer: 0 optical, 1 UALink, 2 Ethernet (R387). -/
def Platform.mode (P : Platform) (p : Nat) : Nat := ((P.entry p).extractLsb' 29 2).toNat
/-- Endpoint of a peer in UALink or Ethernet mode (R387). -/
def Platform.endpoint (P : Platform) (p : Nat) : Nat := ((P.entry p).extractLsb' 16 10).toNat
/-- The transmit bundle toward an optical peer: that of its group (R387, R389). -/
def Platform.bundle (P : Platform) (p : Nat) : Nat := ((P.entry p).extractLsb' 5 4).toNat
/-- The eight fibres of a bundle (R389). -/
def Platform.fibres (P : Platform) (p : Nat) : List Nat := (List.range 8).map fun i => 8 * P.bundle p + i
/-- The wavelength toward an optical peer, on each fibre of its bundle (R389). -/
def Platform.wavelength (P : Platform) (p : Nat) : Nat := (((P.entry p).extractLsb' 0 5).toNat + 32 - (P.self.extractLsb' 0 5).toNat) % 32
/-- The bundle and the wavelength on which the device receives from an optical peer (R389). -/
def Platform.receives (P : Platform) (p : Nat) : Nat × Nat := (P.bundle p, ((P.self.extractLsb' 0 5).toNat + 32 - ((P.entry p).extractLsb' 0 5).toNat) % 32)
/-- The Ethernet ports that are not host ports (R25, R398). HOST_PORTS names two of the eight at most, so some are always left (R450). -/
def Platform.peerPorts (P : Platform) : List Nat := (List.range 8).filter fun n => n != P.hostPorts.toNat % 8 && n != P.hostPorts.toNat / 8 % 8
/-- What a message is in the traffic classes of R391. -/
def Posted.cls : Posted → Nat
  | .resultHead .. | .sideboard .. | .probe _ | .probeAnswer _ | .identity .. | .credit .. | .rstAnswer .. => 0
  | .contribution .. | .resultData .. => 1
  | .request _ r => if r.rst.isSome then 0 else 2
  | .ualink .. | .answer .. => 2
  | .mirror .. | .holdRead .. | .holdImage .. => 3
/-- The peer a message goes to. -/
def Posted.peer : Posted → Nat
  | .contribution p _ | .resultHead p _ _ _ _ _ _ | .resultData p _ _ _ _ _ | .sideboard p _ _ | .mirror p _ | .probe p | .probeAnswer p | .identity p _ | .credit p _ | .request p _
  | .ualink p _ _ _ | .answer p _ _ | .rstAnswer p _ _ | .holdRead p _ | .holdImage p _ => p
/-- How traffic of a class reaches a peer: UALink peers exchange classes 0 and 1 as message writes (R389, R396, R398). -/
def Platform.route (P : Platform) (p cls : Nat) : Route :=
  if p = P.own then .own
  else match P.mode p with
    | 0 => .optical (P.bundle p) (P.wavelength p)
    | 1 => .station (p % 16) (decide (cls ≤ 1))
    | 2 => match P.peerPorts[P.endpoint p % P.peerPorts.length]? with
      | some n => .port n
      | none => .none
    | _ => .none
/-- Sends a message on its route. -/
def Device.emit (P : Platform) (m : Posted) (d : Device) : Device := { d with fabricOut := d.fabricOut ++ [(P.route m.peer m.cls, m)] }

/-! UALink (R396). -/

/-- The sizes of a read or a write. -/
def uaSizes : List Nat := [64, 128, 256]
/-- The smallest size whose naturally aligned block covers a range. -/
def uaSize (va n : Nat) : Nat := (uaSizes.find? fun z => va / z == (va + n - 1) / z).getD 256
/-- The request that carries one lane of an access to a UALink peer. -/
def carryLane (job : Nat) (kind : RemoteKind) (l : RemoteLane) : UaRequest :=
  let va := l.addr.toNat % 2 ^ 48
  let z := uaSize va l.bytes
  let at_ := va % z
  let whole (op : UaOp) : UaRequest := { addr := BitVec.ofNat 64 (job * 2 ^ 48 + (va - at_)), size := z, op }
  let atom (op ty : Nat) (ret : Bool) : UaRequest := { addr := BitVec.ofNat 64 (job * 2 ^ 48 + va), size := l.bytes, op := .atomic op ty ret l.data l.data2 }
  match kind with
  | .load => whole .read
  | .store => whole (.write (BitVec.ofNat 256 ((2 ^ l.bytes - 1) * 2 ^ at_)) (List.replicate at_ 0 ++ bytesOf l.bytes (l.data.toNat + l.data2.toNat * 2 ^ 64) ++ List.replicate (z - at_ - l.bytes) 0))
  | .atomRet op ty => atom op ty true
  | .atomNoRet op ty => atom op ty false
/-- The messages a request to a peer is sent as. -/
def requestMessages (P : Platform) (peer : Nat) (r : OutReq) : List Posted :=
  match r.kind with
  | some k => if P.mode peer = 1 then r.lanes.map fun l => .ualink peer r.seq l.lane (carryLane r.job k l) else [.request peer r]
  | none => [.request peer r]
/-- The operation and type of an atomic as R250 has them, where they are one it has. -/
def remoteAtom : RemoteKind → Option (AtomOp × Ty)
  | .atomRet op ty | .atomNoRet op ty => if op < 8 && ty < 16 && atomTy (AtomOp.byNum op) (Ty.byNum ty) then some (AtomOp.byNum op, Ty.byNum ty) else none
  | _ => none
/-- The write of the enabled bytes of one word: whole, or byte by byte. -/
def uaWord (addr : DWord) (enables : BitVec 256) (data : List Byte) (i : Nat) : List RemoteLane :=
  let lane (k n : Nat) : RemoteLane := { lane := k, addr := addr + BitVec.ofNat 64 k, bytes := n, data := BitVec.ofNat 64 (natOf ((data.drop k).take n)), data2 := 0 }
  if enables.extractLsb' (4 * i) 4 == BitVec.allOnes 4 then [lane (4 * i) 4]
  else ((List.range 4).filter fun k => enables.getLsbD (4 * i + k)).map fun k => lane (4 * i + k) 1
/-- What an accepted request asks for: the job, the access and its parts; none of a request that the device does not accept. -/
def uaAccess (u : UaRequest) : Option (Nat × RemoteKind × List RemoteLane) :=
  let job := u.addr.toNat / 2 ^ 48
  let va := BitVec.ofNat 64 (u.addr.toNat % 2 ^ 48)
  let fits := u.addr.toNat % u.size == 0 && decide (job < 64)
  match u.op with
  | .read => if fits && uaSizes.contains u.size then some (job, .load, (List.range (u.size / 16)).map fun i => { lane := i, addr := va + BitVec.ofNat 64 (16 * i), bytes := 16, data := 0, data2 := 0 }) else none
  | .write enables data =>
    if fits && uaSizes.contains u.size && data.length == u.size && enables.toNat < 2 ^ u.size then some (job, .store, (List.range (u.size / 4)).flatMap (uaWord va enables data)) else none
  | .atomic op ty ret x xn =>
    let kind : RemoteKind := if ret then .atomRet op ty else .atomNoRet op ty
    match remoteAtom kind with
    | some (_, t) => if fits && u.size == 4 * t.regs then some (job, kind, [{ lane := 0, addr := va, bytes := u.size, data := x, data2 := xn }]) else none
    | none => none

end Sys2Proof.Machine
end

