-- ==== Sys2Proof/Machine/Ops.lean ====
section
/-! DEFINITION. Shared operations of the core: acquires and releases (R210, R211), trap records and taking an exception (R361 to R368, R375), clause entry (R122), translation (R371, R372), results and operations that complete (R107, R128), waits that end (R47), and how an instruction issues (R149, R237, R291). -/

namespace Sys2Proof.Machine

/-! Acquire and notices. -/

/-- The tile shelf without the copy a group left (R302). -/
def dropShelf (gid : Nat) : Option Shelf → Option Shelf
  | some x => if x.group = gid then none else some x
  | none => none
/-- An acquire of team scope or wider by a group on its core (R210); it drops the group's shelf copy (R302). -/
def acquire (d : Device) (gid : Nat) : Device :=
  match Tbl.find d.groups gid with
  | none => d
  | some g =>
    let sig := (d.core g.core).signature
    (d.modGroup gid fun g => { g with carry := g.carry ||| sig }).modCore g.core fun c => { c with l1 := c.l1.filter (fun l => !sigHit sig l.va), signature := 0, shelf := dropShelf gid c.shelf }
/-- An acquire fence of team scope or wider: it acquires what the values read by the group's `tl.rd` count too (R210, R231). -/
def acquireFence (d : Device) (gid : Nat) : Device :=
  match Tbl.find d.groups gid with
  | none => d
  | some g => acquire (d.mergeClock (g.core / 128) g.seen) gid
/-- The cores of a group's instance of a scope on this device (R212). -/
def scopeCores (d : Device) (g : Group) : Scope → List Nat
  | .grp => []
  | .team =>
    let cl := ((Tbl.find d.teams g.team).map (·.cluster)).getD (g.core / 4)
    (List.range 4).map (4 * cl + ·) ++ (((Tbl.vals d.groups).filter fun h => h.team == g.team && h.core / 4 != cl).map (·.core)).eraseDups
  | .die =>
    let die := ((Tbl.find d.teams g.team).map (·.cluster)).getD (g.core / 4) / 32
    (List.range 128).map (128 * die + ·) ++ (((Tbl.vals d.groups).filter fun h => decide (((Tbl.find d.teams h.team).map (·.cluster / 32)) = some die) && h.core / 128 != die).map (·.core)).eraseDups
  | .dev | .pod => List.range 512
/-- Every earlier write of a group is acknowledged, and for pod scope every remote access (R211 step 1). -/
def acked (g : Group) (s : Scope) : Bool :=
  g.sb.isEmpty && g.sent.isEmpty && g.outEff == 0 &&
  g.ops.all (fun o => match o.kind with
    | .store | .verStore | .atomic => false
    | .remote _ _ _ => s != .pod
    | _ => true) && (s != .pod || g.outRemote == 0)
/-- What a release's notice folds into a signature (R208). -/
def noticeOf (g : Group) : Signature := (if g.full then BitVec.allOnes 2048 else g.blocks.foldl (fun s b => s ||| sigOf b) 0) ||| g.carry

/-! Codes, records and the status block (R362 to R364, R454). -/

/-- The number of a code (R362). -/
def ExcCode.num : ExcCode → Nat
  | .illegalInstruction => 0x01 | .illegalTarget => 0x02 | .unheldRegister => 0x03 | .transientLost => 0x04 | .divergenceOverflow => 0x05 | .mergeMismatch => 0x06
  | .breakpoint => 0x07 | .software => 0x08 | .readOnlyControl => 0x09 | .lockLimit => 0x0A | .lockOrder => 0x0B | .lockState => 0x0C | .holdLimit => 0x0D | .divergentBarrier => 0x0E
  | .unreservedTile => 0x0F | .staleness => 0x10 | .versionRing => 0x11
  | .address => 0x20 | .alignment => 0x21 | .windowBound => 0x22 | .replayable => 0x23 | .translationFatal => 0x24 | .pageAttribute => 0x25 | .versionSpan => 0x26
  | .boundaryCrossing => 0x27 | .peerRange => 0x28 | .invalidShape => 0x29 | .shapeRecord => 0x2A | .matrixDescriptor => 0x2B | .operandDescriptor => 0x2C
  | .collectiveArgument => 0x2D | .hutchCommand => 0x2E | .poisonedData => 0x2F
/-- The code's class is TRAP (R362). -/
def ExcCode.isTrap (c : ExcCode) : Bool := decide (c.num < 0x20)
/-- An exception with no lane and no info. -/
def Exc.of (code : ExcCode) : Exc := { code, lane := none, info := 0 }
/-- An exception that a lane decided, with the address it faulted at. -/
def Exc.at_ (code : ExcCode) (lane : Nat) (va : DWord) : Exc := { code, lane := some lane, info := va }

/-- A field of the job's status block, 0 when it cannot be read (R363). -/
def statusNat (d : Device) (job off : Nat) : Nat :=
  match d.job job with
  | some j => jobNat d job 0 (j.status + BitVec.ofNat 64 off) 8
  | none => 0
/-- Writes a field of the status block at device scope; dropped when it fails (R363). -/
def setStatus (P : Platform) (d : Device) (job off v : Nat) : Device :=
  match d.job job with
  | some j => commandWrite P d job (j.status + BitVec.ofNat 64 off) (bytesOf 8 v)
  | none => d
/-- Counts one more in a field of the status block. -/
def bumpStatus (P : Platform) (d : Device) (job off : Nat) : Device := setStatus P d job off (statusNat d job off + 1)
/-- Counts a stale decrement or action (R44, R366). -/
def countStale (P : Platform) (d : Device) (job : Nat) : Device := bumpStatus P d job 0
/-- Counts a fatal fault of the job (R363). -/
def countFatal (P : Platform) (d : Device) (job : Nat) : Device := bumpStatus P d job 64
/-- A trap record (R364). -/
def trapBytes (code kind split index lane seq lanes group team loc name handle pc info dump : Nat) : List Byte :=
  bytesOf 1 code ++ bytesOf 7 0 ++ bytesOf 1 kind ++ bytesOf 1 split ++ bytesOf 1 index ++ bytesOf 1 lane ++ bytesOf 4 seq ++ bytesOf 4 lanes ++ bytesOf 4 group ++ bytesOf 4 team ++
  bytesOf 4 loc ++ bytesOf 4 name ++ bytesOf 4 handle ++ bytesOf 8 pc ++ bytesOf 8 info ++ bytesOf 8 dump
/-- The address of trap record `k`, none without a ring (R363, R364). Reserved bits 5:4 of `trapring` are not looked at (log 106). -/
def trapSlot (d : Device) (job k : Nat) : Option DWord :=
  let w := statusNat d job 8
  if w / 64 = 0 then none else some (BitVec.ofNat 64 (w / 64 * 64 + 64 * (k % 2 ^ (w % 16))))
/-- Writes a trap record and increments traphead; none where there is no ring or the record fails (R364, R454). -/
def writeTrap (P : Platform) (d : Device) (job : Nat) (rec_ : Nat → List Byte) : Option (Device × Nat) :=
  let k := statusNat d job 16
  match trapSlot d job k with
  | none => none
  | some va => (jobWrite P d job 0 va (rec_ k)).map fun d => (setStatus P (noticeAll d (sigOfAll (blocksOf va 64))) job 16 (k + 1), k)

/-! The fatal path, step 1 (R375). -/


/-- The lines a group holds or waits for, for the dump: line, group, state (R379). -/
def groupLocks (d : Device) (g : Group) : List (Nat × Nat × Nat) :=
  let going (l : Nat) : Bool := (g.effects ++ g.handed).any fun e => match e.act with | .unlk x => x == l | _ => false
  (g.lockVas.map fun x => (x.2.toNat, g.index, if going x.1 then 1 else 0)) ++
  (match g.wait with
  | some (.lock line va _ _ _ .queued) =>
    let marked := (Tbl.vals d.slices).any fun s => s.bench.any fun e => e.1 == line && e.2.queue.any fun w => w.group == g.id && w.marked
    [(va.toNat, g.index, if marked then 3 else 2)]
  | some (.lock _ va _ _ _ (.granted _)) => [(va.toNat, g.index, 0)]
  | _ => [])
/-- A team's dump joins its job's queue of dumps, in order of fault (R375 step 5). -/
def queueDump (d : Device) (t : Team) : Device := d.modJob t.job fun j => if j.dumps.contains t.id then j else { j with dumps := j.dumps ++ [t.id] }
/-- The record of a fatal fault is kept as the first fault of its team, gives way to a lower group of the same clock, or is a second fault of a dump in progress; an `alone` one is never that (R375, R381, R454). -/
def noteFatal (P : Platform) (d : Device) (g : Group) (site : Site) (e : Exc) (rec_ : Option Nat) (locks : List (Nat × Nat × Nat)) (alone : Bool) : Device :=
  let first : DumpState := { code := e.code, clause := site.pc, info := e.info, group := g.index, name := g.name, loc := locOf P g, clock := d.clock, records := rec_.toList, base := 0, size := 0, offset := 0, length := 0, written := 0, saved := none, sections := none, flags := 0, second := none, locks, skip := false }
  match Tbl.find d.teams g.team with
  | none => d
  | some t =>
    let busy := (Tbl.vals d.teams).find? fun x => x.launch.isSome && x.launch == t.launch && dumping x
    let d := queueDump d t
    match (if alone then none else busy) with
    | some x =>
      let d := d.modTeam x.id fun x => { x with dump := x.dump.map fun y => { y with second := y.second <|> some (e.code.num, e.info, locOf P g, 0) } }
      d.modTeam t.id fun t => { t with state := .fatal, stopped := false, image := none, dump := t.dump <|> some { first with skip := true } }
    | none => d.modTeam t.id fun t => { t with state := .fatal, stopped := false, image := (if t.state == .swapped then t.image else none), dump := match t.dump with
      | some x =>
        let y := if x.clock == d.clock && decide (g.index < x.group) then first else x
        some { y with records := x.records ++ rec_.toList, locks := x.locks ++ locks }
      | none => some first }
/-- The dump in progress of a team's launch (R381). -/
def dumpOf (d : Device) (t : Option Team) : Option DumpState :=
  t.bind fun t => ((Tbl.vals d.teams).find? fun x => x.launch.isSome && x.launch == t.launch && dumping x).bind (·.dump)
/-- A fatal fault of a group: it is HALTED, the fault is counted and recorded, and a fault of a handler group escalates to its job. The record of a fault that escalates, a handler's or a second fault, has kind 2; a fault after the second is only counted (R368, R375, R376, R381). A trap without a record is `alone`: it is no second fault, and its dump is written (R368, R454). -/
def takeFatalAs (alone : Bool) (P : Platform) (d : Device) (gid : Nat) (site : Site) (idx : Nat) (e : Exc) : Device :=
  match Tbl.find d.groups gid with
  | none => d
  | some g =>
    let t := (Tbl.find d.teams g.team)
    let handler := (t.map (·.handler)).getD false
    let dump := 2 ^ 64 - 1
    let second := if alone then none else dumpOf d t
    let kind := if handler || second.isSome then 2 else 1
    let bytes (k : Nat) := trapBytes e.code.num kind site.split idx (e.lane.getD 0xFF) k site.lanes.toNat g.index ((t.map (·.index)).getD 0) (locOf P g).toNat g.name.toNat 0 site.pc.toNat e.info.toNat dump
    let locks := groupLocks d g
    let d := countFatal P (haltAt true d gid) g.job
    let w := if (second.bind (·.second)).isSome then none else writeTrap P d g.job bytes
    let d := match w with | some r => r.1 | none => d
    let d := noteFatal P d g site e (w.map (·.2)) locks alone
    if handler then cancelJob P true d g.job else d
/-- A fatal fault of a group (R375). -/
def takeFatal (P : Platform) (d : Device) (gid : Nat) (site : Site) (idx : Nat) (e : Exc) : Device := takeFatalAs false P d gid site idx e

/-! Taking an exception (R361, R365). -/

/-- The scheduler makes a handler team when the job has none live (R365). -/
def startHandler (d : Device) (job : Job) (k : Nat) (step : Word) : Device :=
  if (Tbl.vals d.teams).any fun t => t.job == job.number && t.handler then d
  else
    let id := d.nextId
    let t : Team := { newTeam id { (default : Launch) with job := job.number, fields := [job.handler.toNat, 0, 1, 1, 32, 20, 0, 0, 0, 1] } 0 step with launch := none, handler := true, s0 := BitVec.ofNat 64 k, s2 := job.status }
    ({ d with nextId := id + 1, teams := Tbl.set d.teams id t }).modJob job.number fun j => { j with queued := id :: j.queued }
/-- Takes a trap: the record is written, the group waits with wait kind 7 for `trap.act`, and the job's handler group is made where none is live. Without a handler, a ring or a record that can be written it is the fatal path with the trap's code (R365, R368, R454). -/
def takeTrap (P : Platform) (d : Device) (gid : Nat) (site : Site) (idx : Nat) (e : Exc) (check : Bool) (ring : Option RingTrap) : Device :=
  match Tbl.find d.groups gid, (Tbl.find d.groups gid).bind (fun g => d.job g.job) with
  | some g, some j =>
    let t := Tbl.find d.teams g.team
    if (t.map (·.handler)).getD false || j.handler == 0 then takeFatal P d gid site idx e
    else
      let x := drawerOf d g
      let bytes (k : Nat) := trapBytes e.code.num 0 site.split idx (e.lane.getD 0xFF) k site.lanes.toNat g.index ((t.map (·.index)).getD 0) (locOf P g).toNat g.name.toNat (handleOf g.core g.block x.gen).toNat site.pc.toNat e.info.toNat (2 ^ 64 - 1)
      match writeTrap P d g.job bytes with
      | none => takeFatalAs true P d gid site idx e
      | some (d, k) =>
        let d := beginWait d gid (.trap { site, exc := e, idx, clauseCheck := check, ring }) 7 1 0 (j.status + 16) site.here
        startHandler (d.modGroup gid fun g => { g with waitSplit := site.split }) j k g.stepCur
  | _, _ => d
/-- Takes an exception raised at issue, or when an operation completes, by its class (R361); one of a group that has halted is discarded (R375). -/
def takeException (P : Platform) (d : Device) (gid : Nat) (site : Site) (e : Exc) : Device :=
  if ((Tbl.find d.groups gid).map fun g => g.state == .halted).getD true then d
  else if e.code.isTrap then takeTrap P d gid site (1 + site.index) e false none else takeFatal P d gid site (1 + site.index) e
/-- Takes an exception of the clause check; `idx` is 0 for the header (R122, R123). -/
def takeCheck (P : Platform) (d : Device) (gid : Nat) (site : Site) (idx : Nat) (e : Exc) : Device :=
  if e.code.isTrap then takeTrap P d gid site idx e true none else takeFatal P d gid site idx e
/-- Return from a trap by RESUME: the clause is entered again at the trapped instruction (R366, R451). -/
def resumeAt (sp : Split) (site : Site) (noMatch : Bool) : Split := { gotoClause sp site.pc .resumed with index := site.index, noMatch, stall := none }

/-! Translation (R371, R372). -/

/-- How an access of code is translated: the leaf and the address, a miss, or the fault. -/
inductive Xl where
  | ok (l : Leaf) (pa : Nat) | miss | fault (c : ExcCode) | absent
  deriving DecidableEq, Repr
/-- The cached leaf of a page. -/
def findLeaf (xs : List (Nat × Leaf)) (job va : Nat) : Option Leaf := (xs.find? fun e => e.1 == job && decide (e.2.base ≤ va) && decide (va < e.2.base + e.2.size)).map (·.2)
/-- Translates an address for an instruction of a group: address fault, then translation, then the attribute (R196, R197, R237, R371). -/
def xlat (d : Device) (g : Group) (acc : Access) (va : DWord) : Xl :=
  let a := va.toNat
  if a / 2 ^ 48 ≠ 0 then .fault .address
  else match (findLeaf (d.core g.core).xlat g.job a) <|> (findLeaf (d.cluster (g.core / 4)).xlat g.job a) with
    | none => .miss
    | some l =>
      if (match acc with | .load => !l.r | .store => !l.w && !l.repl | .fetch => !l.x) then .fault .translationFatal
      else if badAttr l.attr then .fault .pageAttribute
      else match leafPhys d l (g.core / 128) a with
        | some pa => if physOk pa then .ok l pa else .absent
        | none => .fault .pageAttribute
/-- Puts a leaf into a cache of `n` entries, the oldest leaving (R372). -/
def fillLeaf (xs : List (Nat × Leaf)) (n job : Nat) (l : Leaf) : List (Nat × Leaf) :=
  let ys := xs.filter fun e => !(e.1 == job && decide (e.2.base < l.base + l.size) && decide (l.base < e.2.base + e.2.size))
  (ys ++ [(job, l)]).drop (ys.length + 1 - n)
/-- Drops a job's entry for a page from every translation cache of the device (R222, R366). -/
def dropLeaf (d : Device) (job va : Nat) : Device :=
  let keep (e : Nat × Leaf) : Bool := !(e.1 == job && decide (e.2.base ≤ va) && decide (va < e.2.base + e.2.size))
  { d with cores := Tbl.mapVals (fun (c : Core) => { c with xlat := c.xlat.filter keep }) d.cores, clusters := Tbl.mapVals (fun (c : Cluster) => { c with xlat := c.xlat.filter keep }) d.clusters }
/-- A miss of an instruction goes out once (R372). -/
def sendMiss (d : Device) (g : Group) (site : Site) (idx : Nat) (lane : Option Nat) (va : DWord) (acc : Access) : Device :=
  let m : Miss := { group := g.id, site, idx, lane, job := g.job, va, access := acc }
  let page (x : DWord) := x.toNat / 65536
  let same (x : Miss) : Bool := x.group == m.group && x.site == m.site && page x.va == page va && x.access == acc
  if (d.core g.core).misses.any same || (Tbl.vals d.slices).any (fun s => s.misses.any fun e => e.waiters.any same) then d
  else d.modCore g.core fun c => { c with misses := c.misses ++ [m] }

/-! Clause entry (R122 to R124). -/

/-- How the fetch of a clause's words ends. -/
inductive Fetched where
  | ok (ws : List Word) (d : Device) | miss (va : DWord) (idx : Nat) | fault (c : ExcCode) (va : DWord) (idx : Nat) | absent
/-- A byte as the instruction fetch of a job sees it: as it stood before the job's stores since the last `dbg.iflush` (R135). -/
def codeByte (old : Tbl Byte) (x : Nat × Byte) : Byte := Tbl.getD old x.1 x.2
/-- A line of code as a job's fetch sees it. -/
def codeLine (d : Device) (job line : Nat) (bytes : List Byte) : List Byte :=
  let old := ((d.job job).map (·.codeOld)).getD []
  ((List.range bytes.length).zip bytes).map fun x => codeByte old (64 * line + x.1, x.2)
/-- Fetches one word through the core's instruction cache; a line that it holds is neither translated nor checked again (R131, R135, log 11, log 90). -/
def fetchWord (P : Platform) (d : Device) (g : Group) (va : DWord) (idx : Nat) : Fetched :=
  let line := va.toNat / 64
  match (d.core g.core).icache.find? fun e => e.1 == g.job && e.2.1 == line with
  | some e => .ok [BitVec.ofNat 32 (natOf ((e.2.2.drop (va.toNat % 64)).take 4))] d
  | none =>
    match xlat d g .fetch va with
    | .miss => .miss va idx
    | .fault c => .fault c va idx
    | .absent => .absent
    | .ok _ pa =>
      if d.poisoned pa then .fault .poisonedData va idx
      else match l2Line P d (g.core / 128) pa with
        | none => .miss va idx
        | some (raw, d) =>
          let bytes := codeLine d g.job (pa / 64) raw
          let d := if d.linePoisoned pa then d else d.modCore g.core fun c => { c with icache := c.icache ++ [(g.job, line, bytes)] }
          .ok [BitVec.ofNat 32 (natOf ((bytes.drop (pa % 64)).take 4))] d
/-- Fetches `n` consecutive words. -/
def fetchRun (P : Platform) (g : Group) (idx : Nat) : Nat → Device → DWord → Fetched
  | 0, d, _ => .ok [] d
  | n + 1, d, va =>
    match fetchWord P d g va idx with
    | .ok ws d => match fetchRun P g idx n d (va + 4) with
      | .ok vs d => .ok (ws ++ vs) d
      | r => r
    | r => r
/-- Words of an instruction by its first word: by the length marker, or by the span of a `brk` (R110, R134). -/
def wordsAt (w : Word) : Nat :=
  match (w.extractLsb' 0 2).toNat with
  | 1 => if w.extractLsb' 2 6 = 1 then max 1 (w.extractLsb' 8 2).toNat else 1
  | 2 => 2
  | 3 => 3
  | _ => 1
/-- Fetches the words of the counted instructions. -/
def fetchInstrs (P : Platform) (g : Group) : Nat → Nat → Device → DWord → Fetched
  | 0, _, d, _ => .ok [] d
  | n + 1, idx, d, va =>
    match fetchWord P d g va idx with
    | .ok ws d => match fetchRun P g idx (wordsAt (ws.headD 0) - 1) d (va + 4) with
      | .ok vs d => match fetchInstrs P g n (idx + 1) d (va + BitVec.ofNat 64 (4 * (1 + vs.length))) with
        | .ok us d => .ok (ws ++ vs ++ us) d
        | r => r
      | r => r
    | r => r
/-- A header that R122 does not take for one. -/
def badHeader (w : Word) : Bool := w.extractLsb' 0 2 != 0 || hdrCount w == 0 || hdrCheck w != w.extractLsb' 28 4
/-- Flag fields that R122 refuses. -/
def badFlags (w : Word) : Bool :=
  let bad (f : Nat) : Bool := decide (12 ≤ f) && f != 15
  bad (hdrSetA w) || bad (hdrSetB w) || (hdrSetA w == hdrSetB w && hdrSetA w != 15)
/-- The first instruction with a defect, numbered from 1 (R122, R123); `longs` counts the long-latency ones before. -/
def badInstr (hdr : Word) : Nat → Nat → Nat → List Word → Option Nat
  | 0, _, _, _ => none
  | n + 1, idx, longs, ws =>
    match decode ws with
    | .error _ => some idx
    | .ok (i, len) =>
      let longs' := longs + i.isLong.toNat
      let flag := if longs = 0 then hdrSetA hdr else hdrSetB hdr
      let misplaced := match i.engineClass with
        | none => false
        | some c => if c = 3 then n != 0 else c != hdrClass hdr
      if misplaced || (i.isLong && (decide (2 ≤ longs) || flag == 15)) then some idx else badInstr hdr n (idx + 1) longs' (ws.drop len)
/-- Words and long-latency instructions before an instruction of a checked clause. -/
def placeOf : Nat → Nat → Nat → List Word → Nat × Nat
  | 0, w, longs, _ => (w, longs)
  | n + 1, w, longs, ws =>
    match decode ws with
    | .ok (i, len) => placeOf n (w + len) (longs + i.isLong.toNat) (ws.drop len)
    | .error _ => (w, longs)
/-- How a split's entry into its clause ends. -/
inductive Entered where
  | ok (d : Device) | miss (va : DWord) (idx : Nat) (d : Device) | fault (idx : Nat) (e : Exc) | absent
/-- Words that follow a header word by its count; none after a word that is not marked as a header. -/
def hdrWords (w : Word) : Nat := if w.extractLsb' 0 2 != 0 then 0 else hdrCount w
/-- A split enters a clause: fetch of every word, in ascending address and before any other check, then the check, and the code is kept as it was checked (R122, R451). A resumed entry whose index is past the count found there passes, and its split does not issue (log 97). -/
def enterClause (P : Platform) (d : Device) (g : Group) (k : Nat) (sp : Split) : Entered :=
  let bad : ExcCode := if sp.entry = some .branch then .illegalTarget else .illegalInstruction
  let base := sp.pc &&& ~~~(3#64)
  match fetchWord P d g base 0 with
    | .miss va idx => .miss va idx d
    | .absent => .absent
    | .fault c va idx => .fault idx { code := c, lane := none, info := va }
    | .ok ws d =>
      let hdr := ws.headD 0
      match fetchInstrs P g (hdrWords hdr) 1 d (base + 4) with
        | .miss va idx => .miss va idx d
        | .absent => .absent
        | .fault c va idx => .fault idx { code := c, lane := none, info := va }
        | .ok is d =>
          if sp.pc.toNat % 16 ≠ 0 || badHeader hdr then .fault 0 (Exc.of bad)
          else if badFlags hdr then .fault 0 (Exc.of .illegalInstruction)
          else match badInstr hdr (hdrCount hdr) 1 0 is with
            | some idx => .fault idx (Exc.of .illegalInstruction)
            | none =>
              let p := placeOf sp.index 1 0 is
              .ok (d.modGroup g.id fun g => modSplit g k fun sp => { sp with entry := none, code := hdr :: is, word := p.1, longs := p.2 })

/-! Operations that complete (R107, R128). -/

/-- The team of a group is closing (R59). -/
def closing (d : Device) (g : Group) : Bool := ((Tbl.find d.teams g.team).map fun t => t.state == .closing).getD false
/-- A result is produced for a split, where one that writes no lane enters no bypass (R78, log 112), with the regions it closes: its own when it writes a live-in in the register file, others' when it writes a scalar live-in or `rs.ctr` advances (R79, R93, R128). A halted group has no open region left (R375). -/
def landResult (d : Device) (gid k : Nat) (w : RegWrites) (tr : Bool) (rs : Nat) (close : Bool) : Device :=
  match Tbl.find d.groups gid with
  | none => d
  | some g =>
    let cl := closing d g
    let file := if tr then { w with vs := [], ss := [] } else w
    let own := match splitOf g k with | some sp => hitsLiveIn sp.region file | none => false
    let x := if w.vs.isEmpty && w.ss.isEmpty && w.ps.isEmpty then g else produce g k tr w
    let x := { x with rsCtr := x.rsCtr + BitVec.ofNat 64 rs }
    d.modGroup gid fun _ =>
      if g.state == .halted then x
      else closeOthers d.clock cl (if own || close then closeRegion d.clock cl x k else x) k fun r => rs != 0 || (!tr && w.ss.any fun c => r.smask.getLsbD c.1)
/-- Opens the region that follows a closing instruction, once it completes (R128); the split of a closing team halts there (R59). -/
def reopen (d : Device) (gid k : Nat) : Device :=
  match Tbl.find d.groups gid with
  | none => d
  | some g => d.modGroup gid fun _ => modSplit g k fun sp => { sp with region := wholeRegion d.clock g sp, gone := sp.gone || closing d g }
/-- Writes tile elements on a core. -/
def writeTiles (d : Device) (core job : Nat) (ws : List (Nat × Nat × Word)) : Device :=
  if ws.isEmpty then d
  else d.modCore core fun c => { c with tiles := ws.foldl (fun ts w =>
    let t := Tbl.getD ts w.1 { owner := none, job := none, cells := [] }
    Tbl.set ts w.1 { t with job := some job, cells := Cells.put 0 t.cells w.2.1 w.2.2 }) c.tiles }

/-- A completed operation lets the splits of its group that stalled on one try again. -/
def unblock (d : Device) (gid : Nat) : Device := retryStalls .long d gid

/-- An operation that will not complete leaves its group: what stalled on it tries again (R51, R355). -/
def dropOp (d : Device) (gid : Nat) (o : Op) : Device :=
  let core := ((Tbl.find d.groups gid).map (·.core)).getD 0
  unblock (freeEntries (d.modGroup gid fun g => { g with ops := g.ops.filter fun x => x.id != o.id }) core [o]) gid
/-- A tile element that an operation of a halted group writes goes into the contents kept for the dump (R296, R375). -/
def writeSaved (g : Group) (ws : List (Nat × Nat × Word)) : Group :=
  { g with savedTiles := ws.foldl (fun ts w => Tbl.modify (fun c => Cells.put 0 c w.2.1 w.2.2) ts w.1) g.savedTiles }
/-- An operation writes its destinations and leaves; the regions it touches close, and after a closing instruction the split goes on (R40, R107, R128, R292). -/
def finishOp (d : Device) (gid id : Nat) : Device :=
  match Tbl.find d.groups gid with
  | none => d
  | some g =>
    match g.ops.find? fun o => o.id == id with
    | none => d
    | some o =>
      let k := o.closing.getD (o.splits.headD 4)
      let d := d.modGroup gid fun g => { g with ops := g.ops.filter (fun x => x.id != id), verLast := (match o.verLast with | some v => BitVec.ofNat 32 v | none => g.verLast), shapes := (match o.shape with | some (m, s) => listSet g.shapes m s | none => g.shapes) }
      let d := if g.state == .halted then d.modGroup gid fun g => writeSaved g o.tileWrites else writeTiles d g.core g.job o.tileWrites
      let d := unblock (if o.entry then freeEntry d g.core else d) gid
      let live := g.state == .live || g.state == .waiting
      let d := landResult d gid k o.writes o.tr 0 (live && (!o.tileWrites.isEmpty || o.kind == .matrix || o.kind == .take || o.kind == .pending))
      match o.closing with
      | some k => if live && ((splitOf g k).bind (·.rest)).isNone && !g.ops.any (fun x => x.id != id && x.closing == some k) then reopen (d.modGroup gid fun g => modSplit g k advanceCur) gid k else d
      | none => d

/-! The team barrier (R267 to R270). -/

/-- The team drawer of a team: on core 0 of its cluster (R49). -/
def teamDrawer (d : Device) (t : Team) : Drawer := d.drawer (4 * t.cluster) t.drawer
/-- Ends the barrier phase when A ≥ E: waiters are readied, the excess sets OVERSHOOT, A becomes 0 and the phase number rises (R270). -/
def barrierCheck (d : Device) (tid : Nat) : Device :=
  match Tbl.find d.teams tid with
  | none => d
  | some t =>
    let x := teamDrawer d t
    if x.kind == 3 && decide (x.quota.toNat ≤ x.arrived.toNat) then
      let ws := (Tbl.vals d.groups).filter fun g => g.team == tid && g.wait == some (.barrier x.phase.toNat)
      let d := d.setDrawer (4 * t.cluster) t.drawer { x with flags := if x.quota.toNat < x.arrived.toNat then x.flags ||| 1 else x.flags, arrived := 0, phase := x.phase + 1 }
      ws.foldl (fun d g => wakeWith d g.id 1 0 t.clock) d
    else d
/-- The exit of a launch group takes one from E, for this phase and later ones (R267). -/
def leaveBarrier (d : Device) (tid : Nat) : Device :=
  match Tbl.find d.teams tid with
  | none => d
  | some t =>
    let x := teamDrawer d t
    barrierCheck (d.setDrawer (4 * t.cluster) t.drawer { x with quota := x.quota - 1 }) tid
/-- An arrival with a count: a release to the phase's waiters (R217, R268 to R270); A counts modulo 2^32 (log 117). -/
def arrive (d : Device) (gid k n : Nat) (waits : Bool) : Device :=
  match Tbl.find d.groups gid with
  | none => d
  | some g =>
    match Tbl.find d.teams g.team with
    | none => d
    | some t =>
      let x := teamDrawer d t
      let d := d.modTeam g.team fun t => { t with clock := clockMax t.clock (d.die (g.core / 128)).causal }
      let pc := ((splitOf g k).map (·.here)).getD 0
      let d := d.setDrawer (4 * t.cluster) t.drawer { x with arrived := BitVec.ofNat 32 (x.arrived.toNat + n) }
      let d := if waits then (beginWait d gid (.barrier x.phase.toNat) 1 1 0 (handleOf (4 * t.cluster) t.drawer x.gen |>.zeroExtend 64) pc).modGroup gid fun g => { g with waitSplit := k } else d
      barrierCheck d g.team

/-! Handing over (R126, R127) and releases (R211). -/

/-- A sender sends an atomic request toward the queue of its home's service group; one for a replicated page parks behind the collapse (R222, R248). -/
def sendAtomic (P : Platform) (from_ : Nat) (d : Device) (r : AgReq) : Device :=
  match r.park with
  | some (page, die) => parkWrite d r.job page die (.req r)
  | none => d.modCluster (homeSlice P r.pa / 4) fun c => { c with sending := c.sending ++ [(from_, { r with clock := (d.die (from_ / 128)).causal })] }
/-- Sends a decrement toward the core its handle names (R43, R44). -/
def sendDecrement (d : Device) (x : Decrement) : Device := d.modCore (x.handle.toNat / 2 ^ 15 % 512) fun c => { c with arrivals := c.arrivals ++ [x] }
/-- A task drawer that has come to 0 is readied: its task waits on the core's start queue, and the drawer is freed as it starts (R48). -/
def readyTask (d : Device) (core idx : Nat) : Device :=
  let x := d.drawer core idx
  d.modCore core fun c => { c with startQueue := c.startQueue ++ [(idx, x)] }
/-- A posted drawer goes live: decrements held for it arrive, and a count of 0 starts the task (R275). -/
def livePost (d : Device) (core idx : Nat) : Device :=
  let x := d.drawer core idx
  let d := d.setDrawer core idx { x with reserved := false }
  let h := handleOf core idx x.gen
  let mine := (d.core core).held.filter fun y => y.handle == h
  let d := d.modCore core fun c => { c with held := c.held.filter (fun y => y.handle != h), arrivals := c.arrivals ++ mine }
  if x.count = 0 then readyTask d core idx else d
/-- A failure of a remote access counts and is kept (R280, R281). -/
def noteFailure (g : Group) (high : Word) (peer cause : Nat) : Group :=
  { noteImage 1 g with raFcnt := g.raFcnt + 1, raFlast := BitVec.ofNat 64 (high.toNat * 2 ^ 32 + peer % 512 * 2 ^ 23 + cause) }
/-- The failed lanes of a request, ascending. -/
def noteLanes (peer : Nat) (lanes : List RemoteLane) (as : List LaneAnswer) (g : Group) : Group :=
  as.foldl (fun g a => if a.ok then g else noteFailure g (((lanes.find? fun l => l.lane == a.lane).map fun l => l.addr.setWidth 32).getD 0) peer a.cause) g
/-- A request is answered, lane by lane (R279, R280, R393). An answer to a lane that was not asked says nothing. -/
def completeRequest (d : Device) (peer : Nat) (r : OutReq) (as : List LaneAnswer) : Device :=
  let as := r.lanes.map fun l => (as.find? fun a => a.lane == l.lane).getD { lane := l.lane, ok := false, cause := 3, value := 0 }
  match r.origin with
  | .held gid => d.modGroup gid fun g => noteLanes peer r.lanes as { g with outRemote := g.outRemote - 1 }
  | .rst gid => d.modGroup gid fun g => { g with outRemote := g.outRemote - 1 }
  | .op gid op =>
    match (Tbl.find d.groups gid).bind fun g => g.ops.find? fun o => o.id == op with
    | none => d
    | some o =>
      match o.kind with
      | .remote pn dest bytes =>
        let w : RegWrites := match dest with
          | .v n => { RegWrites.none with vs := as.flatMap fun a => cellsAt n.val (bytes / 4) a.lane (if a.ok then a.value.toNat else 0) }
          | .s _ => RegWrites.none
        let m := maskOf (as.map (·.lane))
        let bad := maskOf ((as.filter fun a => !a.ok).map (·.lane))
        let w := match pn with | some p => w.append (predWrite p m bad) | none => w
        finishOp (d.modGroup gid fun g => noteLanes peer r.lanes as { g with ops := g.ops.map fun x => if x.id == op then { x with writes := w } else x }) gid op
      | _ => d
/-- The answer to an `rst` store: a cause, or 0 (R280, R286). -/
def completeRst (d : Device) (peer : Nat) (r : OutReq) (cause : Nat) : Device :=
  match r.origin, r.rst with
  | .rst gid, some (name, _) => d.modGroup gid fun g =>
    let g := { g with outRemote := g.outRemote - 1 }
    if cause = 0 then g else noteFailure g name peer cause
  | _, _ => d
/-- A request completes with poison: every lane fails with one cause (R280, R394). -/
def failRequest (d : Device) (peer cause : Nat) (r : OutReq) : Device :=
  match r.origin with
  | .rst _ => completeRst d peer r cause
  | _ => completeRequest d peer r (r.lanes.map fun l => { lane := l.lane, ok := false, cause, value := 0 })
/-- The group a request belongs to. -/
def OutReq.group (r : OutReq) : Nat := match r.origin with | .op g _ => g | .held g => g | .rst g => g
/-- The traffic class of a request (R391). -/
def OutReq.cls (r : OutReq) : Nat := if r.rst.isSome then 0 else 2
/-- A waiting request may be sent: its class has credit, and nothing of its group comes before it: to a peer that keeps arrival order no earlier waiting one of its class, to another none that waits or is not answered (R279, R391, R397). -/
def maySend (ord : Bool) (noCredit : BitVec 4) (out before : List OutReq) (r : OutReq) : Bool :=
  !noCredit.getLsbD r.cls && !before.any (fun x => x.group == r.group && (!ord || x.cls == r.cls)) && (ord || !out.any fun x => x.group == r.group)
/-- The waiting requests that may be sent, oldest first. -/
def sendable (ord : Bool) (noCredit : BitVec 4) (out : List OutReq) : List OutReq → List OutReq → List OutReq
  | _, [] => []
  | before, r :: t => (if maySend ord noCredit out before r then [r] else []) ++ sendable ord noCredit out (before ++ [r]) t
/-- The request that is sent next: class 0 has strict priority (R391); among those of class 2 the oldest (log 118). -/
def nextRequest (ord : Bool) (noCredit : BitVec 4) (out waiting : List OutReq) : Option OutReq :=
  let rs := sendable ord noCredit out [] waiting
  (rs.find? fun r => r.cls == 0) <|> rs.head?
/-- A send of a class takes credit; whether the receiver leaves more is free, but for class 0, which it always has room for (R391, R403, log 2). -/
def takeCredit (d : Device) (peer cls : Nat) : Device :=
  if cls = 0 then d
  else
    let r := d.free
    r.2.modPeer peer fun p => { p with noCredit := if r.1.getLsbD 0 then p.noCredit ||| (1#4 <<< cls) else p.noCredit }
/-- Sends a posted message of a class: it is discarded unless the peer is UP, and kept while the class has no credit (R391, R394, R403, log 118). -/
def postTo (P : Platform) (d : Device) (peer cls : Nat) (m : Posted) : Device :=
  let p := d.peer peer
  if !P.valid peer || p.state != .up then d
  else if p.noCredit.getLsbD cls || p.kept.any (fun x => x.1 == cls) then d.modPeer peer fun p => { p with kept := p.kept ++ [(cls, m)] }
  else takeCredit (d.emit P m) peer cls
/-- Sends what waits for a peer as far as the quota of 64 and the credit of its class let it; `rst` stores are of class 0 (R391, R393). -/
def pumpPeer (P : Platform) (peer : Nat) : Nat → Device → Device
  | 0, d => d
  | n + 1, d =>
    let p := d.peer peer
    if p.state == .up && decide (p.outstanding.length < 64) then
      match nextRequest (P.ord peer) p.noCredit p.outstanding p.waiting with
      | none => d
      | some r =>
        let cls := r.cls
        let r' := { r with issued := d.time }
        pumpPeer P peer n (takeCredit (((requestMessages P peer r').foldl (fun d m => d.emit P m) d).modPeer peer fun p => { p with outstanding := p.outstanding ++ [r'], waiting := p.waiting.filter fun x => x.seq != r.seq }) peer cls)
    else d
/-- A request to a peer joins what waits for it; one to the own number is served here (R278). -/
def sendRequest (P : Platform) (d : Device) (peer : Nat) (r : OutReq) : Device :=
  let r := { r with issued := d.time }
  if peer = P.own then d.modPeer peer fun p => { p with outstanding := p.outstanding ++ [r] } else d.modPeer peer fun p => { p with waiting := p.waiting ++ [r] }
/-- Settles what waits for a peer: to an invalid entry or a peer that is not UP every request fails at once, an `rst` to a foreign peer fails, and the others are sent as their turn comes (R387, R393, R394, R397). -/
def settlePeer (P : Platform) (d : Device) (peer : Nat) : Device :=
  let ws := (d.peer peer).waiting
  if ws.isEmpty then d
  else if !P.valid peer || (d.peer peer).state != .up then ws.foldl (fun d r => failRequest d peer 2 r) (d.modPeer peer fun p => { p with waiting := [] })
  else
    let out := if P.foreign peer then ws.filter (·.rst.isSome) else []
    let d := if out.isEmpty then d else d.modPeer peer fun p => { p with waiting := p.waiting.filter (·.rst.isNone) }
    pumpPeer P peer 64 (out.foldl (fun d r => failRequest d peer 3 r) d)
/-- Settles every peer. -/
def settlePeers (P : Platform) (d : Device) : Device := (Tbl.keys d.peers).foldl (settlePeer P) d
/-- Poisons every request to a peer, outstanding or waiting, and isolates it (R388, R394). -/
def isolatePeer (d : Device) (peer : Nat) : Device :=
  let p := d.peer peer
  let d := d.modPeer peer fun p => { p with state := .isolated, since := d.time, outstanding := [], waiting := [], kept := [], answered := 0, probeOut := none }
  (p.outstanding ++ p.waiting).foldl (fun d r => failRequest d peer 2 r) d
/-- A store, atomic or reduction invalidates its lines in the issuing core's L1 (R206). -/
def dropLines (d : Device) (core : Nat) (lines : List Nat) : Device := d.modCore core fun c => { c with l1 := c.l1.filter fun l => !lines.contains l.line }
/-- Blocks enter a group's written-block list (R208). -/
def noteBlocks (d : Device) (gid : Nat) (vas : List DWord) : Device := d.modGroup gid fun g => vas.foldl addBlock g
/-- Hands one effect to its engine (R127, R239); its blocks enter the written-block list (R208). An `unlk` leaves the locks the group holds here (R261). -/
def dispatch (P : Platform) (d : Device) (gid : Nat) (e : Effect) : Device :=
  match Tbl.find d.groups gid with
  | none => d
  | some g =>
    let d := noteBlocks d gid e.blocks
    let hold (n : Nat) (d : Device) : Device := d.modGroup gid fun g => { g with outEff := g.outEff + n }
    let release (s : Scope) (act : RelAct) (d : Device) : Device := d.modGroup gid fun g => { g with releases := g.releases ++ [{ scope := s, posted := false, toArrive := [], toAck := [], act }] }
    match e.act with
    | .red reqs => hold reqs.length (reqs.foldl (sendAtomic P g.core) (dropLines d g.core (reqs.map (·.pa / 64))))
    | .unlk line => (release .dev (.unlk line) d).modGroup gid fun g => { g with locks := g.locks.filter (· != line), lockVas := g.lockVas.filter fun x => x.1 != line }
    | .post c i => release .dev (.post c i) d
    | .dcnt ds => ds.foldl (fun d x => release .dev (.dcnt x.1 x.2) d) d
    | .seal r p s => release .pod (.seal r p s) d
    | .remote peer kind lanes =>
      let id := d.nextId
      (sendRequest P { d with nextId := id + 1 } peer { seq := id, origin := .held gid, job := g.job, kind := some kind, lanes, rst := none, issued := d.time }).modGroup gid fun g => { g with outRemote := g.outRemote + 1 }
    | .rst name reg lanes values =>
      let peer := name.toNat / 2 ^ 23
      let id := d.nextId
      let d := { d with nextId := id + 1 }
      if peer = P.own then hold 1 { d with rsts := d.rsts ++ [{ peer, seq := gid, name, reg, mask := lanes, values }] }
      else (sendRequest P d peer { seq := id, origin := .rst gid, job := g.job, kind := none, lanes := [], rst := some (name, reg, lanes, values), issued := d.time }).modGroup gid fun g => { g with outRemote := g.outRemote + 1 }
    | .hcmd _ _ => d
    | .coll b c s src => hold 1
      { d with coll := { d.coll with sends := d.coll.sends ++ [(g.core / 128, { job := g.job, binding := b, chunk := c, step := s, src, group := some gid })] } }
/-- The version home of a record. -/
def Device.home (d : Device) (r : Nat) : Home := Tbl.getD d.homes r { job := 0, pageSize := 65536, attr := 0, stores := [], heldStores := [], seals := [], parked := [], loads := [], fill := none, commands := [0, 0, 0, 0], transfers := [0, 0, 0, 0] }
/-- The core a group runs on, or 0. -/
def coreOf (d : Device) (gid : Nat) : Nat := ((Tbl.find d.groups gid).map (·.core)).getD 0
/-- Changes a version home. -/
def Device.modHome (d : Device) (r : Nat) (f : Home → Home) : Device := { d with homes := Tbl.set d.homes r (f (d.home r)) }
/-- `gw.launch` submits its graph (R331): 0 ACCEPTED, 1 FULL, 2 REJECTED. -/
def submitLaunch (P : Platform) (d : Device) (g : Group) (record : DWord) : Nat × Device :=
  let phase := (((Tbl.find d.teams g.team).bind (launchOf d)).bind (·.phase))
  match phase, readGraph d g.job record with
  | some p, some (done, nodes) => if 256 ≤ walkerCount d then (1, d) else (0, submitGraph P (d.toCommand (g.core / 128)) g.job p record done nodes)
  | _, _ => (2, d)
/-- The write, arrival or decrement of a release whose notices are acknowledged (R211 step 3). -/
def performRelease (P : Platform) (d : Device) (gid : Nat) (a : RelAct) : Device :=
  let hold (d : Device) : Device := d.modGroup gid fun g => { g with outEff := g.outEff + 1 }
  let die := ((Tbl.find d.groups gid).map (·.core / 128)).getD 0
  let clock := (d.die die).causal
  match a with
  | .fence op acq => finishOp (if acq then acquireFence d gid else d) gid op
  | .unlk line => hold (releaseLock P d die line false)
  | .post c i => livePost (d.mergeClock (c / 128) clock) c i
  | .dcnt h n => match Tbl.find d.groups gid with
    | some g => hold (sendDecrement d { handle := h, n, status := 0, job := g.job, group := none, ack := some gid, clock })
    | none => d
  | .seal r p s => match Tbl.find d.groups gid with
    | some g => hold (d.modHome r fun x => { x with job := g.job, seals := x.seals ++ [{ job := g.job, group := some gid, page := p, step := s, since := d.clock, clock }] })
    | none => d
  | .arrive op n waits =>
    let k := (((Tbl.find d.groups gid).bind fun g => g.ops.find? fun o => o.id == op).bind (·.closing)).getD 0
    if waits then arrive (d.modGroup gid fun g => { g with ops := g.ops.filter fun x => x.id != op }) gid k n true else finishOp (arrive d gid k n false) gid op
  | .launch op sd record => match Tbl.find d.groups gid with
    | some g =>
      let r := submitLaunch P d g record
      finishOp (r.2.modGroup gid fun g => { g with ops := g.ops.map fun o => if o.id == op then { o with writes := scaWrite sd r.1 } else o }) gid op
    | none => d
/-- Lets a group's releases and handed effects go on as far as they can: acknowledged accesses, then notices, then the release's own act; then the next effect (R127, R211). A hutch command at the head waits for its slot (R422); a reduction follows the group's own stores (R127, R213). -/
def pump (P : Platform) (gid : Nat) : Nat → Device → Device
  | 0, d => d
  | n + 1, d =>
    match Tbl.find d.groups gid with
    | none => d
    | some g =>
      match g.releases with
      | r :: rest =>
        if !r.posted then
          if acked g r.scope then
            let cores := scopeCores d g r.scope
            pump P gid n (d.modGroup gid fun g => { g with releases := { r with posted := true, toArrive := cores, toAck := cores } :: rest })
          else d
        else if r.toArrive.isEmpty && r.toAck.isEmpty then
          let wide := r.scope == .dev || r.scope == .pod
          let d := d.modGroup gid fun g => { g with releases := rest, blocks := if wide then [] else g.blocks, full := if wide then false else g.full, carry := if wide then 0 else g.carry, released := g.released || wide }
          pump P gid n (performRelease P d gid r.act)
        else d
      | [] =>
        match g.handed with
        | [] => d
        | e :: rest =>
          match e.act with
          | .hcmd _ _ => d
          | .red _ => if g.sb.isEmpty then pump P gid n (dispatch P (d.modGroup gid fun g => { g with handed := rest }) gid e) else d
          | _ => pump P gid n (dispatch P (d.modGroup gid fun g => { g with handed := rest }) gid e)
/-- Pumps every group that has a release or an effect under way. -/
def pumpAll (P : Platform) (d : Device) : Device :=
  ((Tbl.vals d.groups).filter fun g => !(g.releases.isEmpty && g.handed.isEmpty)).foldl (fun d g => pump P g.id 200 d) d

/-! Waits that end (R46, R47). -/

/-- Steps compare as signed 32-bit differences (R411, R412). -/
def stepDiff (a b : Word) : Int := (a - b).toInt
/-- A peer takes part in a job's sideboard and is present; the device's own entry always is (R410). -/
def sbPresent (P : Platform) (j : Job) (p : Nat) : Bool := p == P.own || (j.sbMem.getLsbD p && !P.foreign p && ((Tbl.find j.sideboard p).map (·.present)).getD false)
/-- The least entry among present members of the sideboard, the device's own included (R412). -/
def sbLeast (P : Platform) (j : Job) : Option Word :=
  ((List.range 512).filter (sbPresent P j)).foldl (fun b p =>
    let s := ((Tbl.find j.sideboard p).map (·.step)).getD j.step0
    match b with | none => some s | some x => if stepDiff s x < 0 then some s else some x) none
/-- `step.adv` of a group whose current step is given is allowed (R412). -/
def leadOk (P : Platform) (j : Job) (cur : Word) : Bool :=
  match sbLeast P j with
  | none => true
  | some l => decide (stepDiff (cur + 1) l ≤ (j.lead.toNat : Int))
/-- The device sends its own entry to every other member (R411). -/
def sendOwn (P : Platform) (d : Device) (job : Nat) : Device :=
  match d.job job with
  | none => d
  | some j =>
    let s := ((Tbl.find j.sideboard P.own).map (·.step)).getD j.step0
    let ps := (List.range 512).filter fun p => j.sbMem.getLsbD p && p != P.own && P.valid p && !P.foreign p
    (ps.foldl (fun d p => postTo P d p 0 (Posted.sideboard p job s)) d).modJob job fun j => { j with sbSentAt := d.time }
/-- An absent member whose entry is at least the least of the other present members is present again (R413). -/
def sbRejoin (P : Platform) (j : Job) : Job :=
  match sbLeast P j with
  | none => j
  | some l => { j with sideboard := j.sideboard.map fun e => if j.sbMem.getLsbD e.1 && !P.foreign e.1 && !e.2.present && decide (0 ≤ stepDiff e.2.step l) then (e.1, { e.2 with present := true }) else e }
/-- The evaluation of the sideboard: members that qualify are present again, and every `step.adv` of the job whose rule holds wakes, once (R326, R412, R413). -/
def sbEvaluate (P : Platform) (d : Device) (job : Nat) : Device :=
  let d := d.modJob job (sbRejoin P)
  match d.job job with
  | none => d
  | some j => ((Tbl.vals d.groups).filter fun g => g.job == job && (match g.wait with | some (.stepAdv _) => true | _ => false) && (drawerOf d g).count != 0 && leadOk P j g.stepCur && !(d.core g.core).arrivals.any fun x => x.group == some (g.id, g.waitSeq)).foldl (fun d g => wakeGroup d g.id 1 0) d
/-- The advance of `step.adv`: the group's step rises, and the device's own entry follows when it is greater (R326, R411). -/
def advanceStep (P : Platform) (d : Device) (gid : Nat) : Device :=
  match Tbl.find d.groups gid with
  | none => d
  | some g =>
    let s := g.stepCur + 1
    let d := d.modGroup gid fun g => { g with stepCur := s }
    match (d.job g.job).bind fun j => some (j, Tbl.find j.sideboard P.own) with
    | some (j, e) =>
      let old := (e.map (·.step)).getD j.step0
      if 0 < stepDiff s old then
        sbEvaluate P (sendOwn P (d.modJob g.job fun j => { j with sideboard := Tbl.set j.sideboard P.own { step := s, present := true, heard := d.time } }) g.job) g.job
      else d
    | none => d
/-- A waiting instruction completes with a result: the group leaves WAITING, and the split goes on after it (R47, R128). -/
def completeWait (d : Device) (gid : Nat) (w : RegWrites) (isClosing : Bool) : Device :=
  match Tbl.find d.groups gid with
  | none => d
  | some g =>
    let k := g.waitSplit
    let d := dropWait d gid
    let d := d.modGroup gid fun g => modSplit g k advanceCur
    let d := landResult d gid k w false 0 false
    if isClosing then reopen d gid k else d
/-- Puts a line into an L1 in place of the line it is, or of the one R288 replaces when all 4096 lines are valid. -/
def fillL1 (ls : List L1Line) (x : L1Line) : List L1Line :=
  let ys := ls.filter fun l => l.line != x.line
  if ys.length < 4096 then ys ++ [x]
  else
    let pool := if ys.any (·.stream) then ys.filter (·.stream) else ys
    match pool with
    | [] => ys ++ [x]
    | l :: t =>
      let out := t.foldl (fun b l => if l.used < b.used then l else b) l
      ys.filter (fun l => l.line != out.line) ++ [x]
/-- Fills a line of a core's L1 with contents; the fill and the use carry the next number (R288). -/
def fillLine (d : Device) (core line : Nat) (va : DWord) (bytes : List Byte) (stream : Bool) : Device :=
  let d := d.modCore core fun c => { c with l1 := fillL1 c.l1 { line, va := BitVec.ofNat 64 (va.toNat / 64 * 64), data := bytes, stream, used := d.nextId, filled := d.nextId } }
  { d with nextId := d.nextId + 1 }
/-- Installs a delivered line in the L1 of a group's core (R257, R288). -/
def installLine (d : Device) (g : Group) (line : Nat) (va : DWord) (bytes : List Byte) : Device := fillLine d g.core line va bytes false
/-- The instruction a group waited in completes from its drawer: `status` as carried, or a wake by deadline (R46, R47). -/
def finishWait (P : Platform) (d : Device) (gid : Nat) (status : Nat) (timeout : Bool) : Device :=
  match Tbl.find d.groups gid with
  | none => d
  | some g =>
    match g.wait with
    | none => d
    | some w =>
      match w with
      | .barrier _ => completeWait (acquire d gid) gid RegWrites.none true
      | .lock line va sd pd _ stage =>
        let st := if timeout then 2 else status
        let got := st == 0 || st == 1
        let m := ((splitOf g g.waitSplit).map (·.mask)).getD 0
        let w := (scaWrite sd.val st).append (if pd.en then predWrite pd.p.val m (if st = 0 then m else 0) else RegWrites.none)
        let d := if got then (acquire d gid).modGroup gid fun g => { g with locks := g.locks ++ [line], lockVas := g.lockVas ++ [(line, va)] } else d
        let d := match got, stage with
          | true, .granted (some bytes) => installLine d g (line / 64) va bytes
          | _, _ => d
        completeWait d gid w true
      | .timeline _ _ => completeWait (acquire d gid) gid RegWrites.none false
      | .hold _ => dropWait d gid
      | .xacq _ => completeWait d gid RegWrites.none true
      | .sealed op =>
        match g.ops.find? fun o => o.id == op with
        | none => dropWait d gid
        | some o =>
          let d := dropWait d gid
          if timeout then takeTrap P (dropOp d gid o) gid o.site (1 + o.site.index) (Exc.of .staleness) false none
          else match o.kind with
            | .verLoad q => d.modHome q.record fun h => { h with loads := h.loads ++ [(gid, op)] }
            | _ => d
      | .counter _ sd => completeWait (if timeout then removeWatches d gid else acquire d gid) gid (scaWrite sd.val (if timeout then 1 else 0)) false
      | .stepAdv sd => completeWait (if timeout then d else advanceStep P d gid) gid (scaWrite sd.val (if timeout then 1 else 0)) true
      | .trap _ => d
      | .page _ _ _ => dropWait d gid

/-! How an instruction issues. -/

/-- What an instruction's meaning sees: the platform, the device, and the issuing group and split with its active lanes. -/
structure Ctx where
  P : Platform
  d : Device
  gid : Nat
  k : Nat
  g : Group
  sp : Split
  lanes : Mask
  deriving Repr, Inhabited
/-- Why an instruction does not issue: it stalls, it raises an exception, after a report has been written (R255) or not, it misses a translation. -/
inductive Stop where
  | stall (w : Stall) | raise (e : Exc) | report (d : Device) (e : Exc) | miss (lane : Option Nat) (va : DWord) (acc : Access) | absent
  deriving Repr, Inhabited
/-- What an instruction that issues does: a new device with its result and the count `rs.ctr` advances by; an operation that goes on; an operation for some of its lanes, after which it issues again for the rest (R278); a wait in which the split stands at it; or a control transfer that has placed the split itself. -/
inductive Done where
  | act (d : Device) (w : RegWrites) (tr : Bool) (rs : Nat) | op (d : Device) (o : Op) (rs : Nat) | part (d : Device) (o : Op) (rest : Mask) | wait (d : Device) | jump (d : Device)
  deriving Repr, Inhabited

/-- Words an instruction takes; a `brk` takes its span (R110, R134). -/
def instrLen : Instr → Nat
  | .brk n _ => n
  | i => (encode i).length
/-- The place of the issuing instruction. -/
def Ctx.site (c : Ctx) : Site := { split := c.k, pc := c.sp.pc, index := c.sp.index, lanes := c.lanes, word := c.sp.word }
/-- The context of a split that is to issue; of an instruction that has issued for some of its lanes, the rest are active. -/
def ctxOf (P : Platform) (d : Device) (gid k : Nat) (g : Option Guard) : Option Ctx :=
  match Tbl.find d.groups gid with
  | none => none
  | some x => (splitOf x k).map fun sp => { P, d, gid, k, g := x, sp, lanes := sp.rest.getD (guardLanes x sp.mask g) }
/-- The context over a changed device. -/
def Ctx.refresh (c : Ctx) (d : Device) : Ctx :=
  let g := (Tbl.find d.groups c.gid).getD c.g
  { c with d, g, sp := (splitOf g c.k).getD c.sp }
/-- A closing instruction of the split is outstanding, or an `ld.ver` that has not chosen its slot (R128, R227). -/
def hasClosing (g : Group) (k : Nat) : Bool := g.ops.any fun o => o.closing == some k
/-- A split stands at a clause start. -/
def atStart (g : Group) (k : Nat) (sp : Split) : Bool := sp.index == 0 && !hasClosing g k
/-- The splits of a group with live lanes. -/
def liveSplits (g : Group) : List (Nat × Split) := g.splits.filter fun e => e.2.mask != 0
/-- A split is held at its clause start by R184. -/
def holdsTop (g : Group) (k : Nat) (sp : Split) : Bool :=
  atStart g k sp && !sp.waitOver && (match sp.merges.getLast? with
    | some a => a == sp.pc && (liveSplits g).any (fun e => e.1 != k && e.2.merges.getLast? == some a && !(atStart g e.1 e.2 && e.2.pc == a))
    | none => false)
/-- A split is held by `merge` (R185). -/
def holdsMerge (g : Group) (k : Nat) (sp : Split) : Bool := sp.mergeWait && !sp.waitOver && (liveSplits g).any fun e => e.1 != k
/-- A split stands where another stands at a clause start, and waits to merge with it (R39, R40). -/
def meets (g : Group) (k : Nat) (sp : Split) : Bool := atStart g k sp && (liveSplits g).any fun e => e.1 != k && atStart g e.1 e.2 && e.2.pc == sp.pc
/-- The top deferral entry of a split (R38). -/
def topDeferral (g : Group) (k : Nat) : Option Deferral := g.deferrals.reverse.find? fun e => e.split == k
/-- A step of R38 is due at the split's clause start. -/
def deferralDue (g : Group) (k : Nat) (sp : Split) : Bool := atStart g k sp && (match topDeferral g k with | some e => e.merge == sp.pc | none => false)
/-- Nothing holds a split of a live group (R36, R38, R39, R127, R184, R185, R453; R108's clause apart): its team runs, and it has lanes. -/
def splitFree (d : Device) (g : Group) (k : Nat) (sp : Split) : Bool :=
  g.state == .live &&
  ((Tbl.find d.teams g.team).map fun t => (t.state == .resident || t.state == .closing || t.state == .fatal) && !t.stopped).getD false &&
  sp.mask != 0 && !sp.gone && g.ringTraps.isEmpty && !deferralDue g k sp && !meets g k sp && !holdsTop g k sp && !holdsMerge g k sp && !g.handed.any (fun e => e.split == k)
/-- A split is ready: nothing holds it, and its last attempt to issue did not stall. -/
def splitReady (d : Device) (g : Group) (e : Nat × Split) : Bool := splitFree d g e.1 e.2 && e.2.stall.isNone
/-- A group is a ready active group of its slot (R50, R190). -/
def readyActive (d : Device) (g : Group) : Bool := decide (g.pos < 8) && g.splits.any (splitReady d g)
/-- A `yield` holds its group still: its time is not over, and a group it lets go ahead is still ready and has not issued (R190). -/
def yieldHolds (d : Device) (g : Group) : Bool :=
  match g.yielded with
  | some (t, others) => decide (d.clock < t) && others.any fun h => ((Tbl.find d.groups h).map fun h => h.core == g.core && h.slot == g.slot && readyActive d h).getD false
  | none => false
/-- A split that may compete for issue (R36, R50, R190): its group is in an active position, and nothing holds the split. -/
def mayIssue (d : Device) (g : Group) (k : Nat) (sp : Split) : Bool :=
  decide (g.pos < 8) && decide (g.issueFrom ≤ d.clock) && !yieldHolds d g && splitFree d g k sp

/-- Closing instructions (R128). -/
def closesFirst : Instr → Bool
  | .atom _ | .raAtom _ | .lk _ | .lktry _ | .xacq _ | .nameGet _ | .bar | .barWait | .arriveN _ | .arriveNNw _ | .stepAdv _ _ | .mig _ _ | .migNear _ _ => true
  | .fence sem _ => sem != .acq
  | _ => false
/-- Closing instructions whose own checks follow the closing (R255). -/
def closesEarly : Instr → Bool
  | .lk _ | .lktry _ => true
  | _ => false
/-- Instructions that count as writing a live-in of their own region and complete at issue (R188, R292). -/
def closesAfter : Instr → Bool
  | .accZero _ _ | .accMovToTile _ | .osmUpd _ | .osmFin _ _ _ _ | .mrel _ | .gwLaunch _ _ | .collQuorum _ _ | .collClose _ _ | .sysWr _ _ | .xltInv _ | .dbgIflush _ | .ctlLeadWrite _ | .sbMemWrite _ _ | .xrel _ => true
  | _ => false
/-- Instructions with a held effect (R126). -/
def isHeldEffect : Instr → Bool
  | .red _ | .redAddCf32 _ | .unlk _ | .post _ _ _ _ | .dcnt _ _ _ | .sealVer _ _ | .raSt _ | .raRed _ | .rst _ _ _ _ | .hcmd _ _ | .collPut _ _ _ => true
  | _ => false
/-- Instructions that take an entry of the outstanding-transaction table (R355). -/
def takesEntry : Instr → Bool
  | .ld _ | .ldSp _ | .ldVer _ | .ldRag _ | .atom _ | .raLd _ | .raAtom _ | .shLd _ _ | .accLd _ | .collGet _ _ _ _ | .take _ _ | .mma _ => true
  | _ => false
/-- Distinct peers of the active lanes, ascending; a scalar names one (R278). -/
def peersOf (c : Ctx) (a : Reg) : List Nat :=
  match a with
  | .v n => sortBy (fun x y => decide (x ≤ y)) (((lanesOf c.lanes).map fun l => readV c.g c.sp n.val l).eraseDups)
  | .s n => if c.lanes = 0 then [] else [readS c.g c.sp n.val % 2 ^ 32]
/-- Entries of the effect buffer that an instruction takes (R126, R278). -/
def heldNeeds (i : Instr) (c : Ctx) : Nat :=
  match i with
  | .raSt f => (peersOf c f.a.reg).length
  | .raRed f => (peersOf c f.a.reg).length
  | _ => if c.lanes = 0 then 0 else 1
/-- Entries a group holds. -/
def entriesOf (g : Group) : Nat := (g.ops.filter fun o => o.entry).length
/-- A match register of the core hits the instruction (R132, R133). -/
def matchHit (c : Ctx) : Bool :=
  !c.sp.noMatch && ((c.d.core c.g.core).matches_).any fun m => m.2 == some c.g.job && m.1.getLsbD 0 && m.1.toNat / 4 * 4 == c.sp.here.toNat
/-- Instructions that take one of the four return sets of a group position (R249). -/
def takesReturn : Instr → Bool
  | .atom _ | .raAtom _ => true
  | _ => false
/-- The return sets in use of a group's position (R249). -/
def returnSets (g : Group) : Nat := (g.ops.filter fun o => match o.kind with | .atomic => true | .remote _ _ _ => o.closing.isSome | _ => false).length
/-- An outstanding closing instruction of a split counts on a clause's flag (R51, R107). -/
def closingFlag (g : Group) (k : Nat) : Bool := g.ops.any fun o => o.closing == some k && o.flag.isSome
/-- What the core checks before any instruction's own checks: stalls, the match registers, unheld and transient-lost registers (R76, R79, R107, R109, R133, R149, R211, R249, R355). Of an instruction that issues for the rest of its lanes only the counts are checked again (R278). -/
def gate (i : Instr) (c : Ctx) : Option Stop :=
  let u := uses i
  let cls := i.engineClass
  let goesOn := c.sp.rest.isSome
  if !goesOn && hasClosing c.g c.k then some (.stall (if closingFlag c.g c.k then .long else .other))
  else if !goesOn && u.busy c.g c.k then some (.stall .long)
  else if i.isLong && decide (nextFlag c.sp < 12) && decide (15 ≤ flagCount c.g c.k (nextFlag c.sp)) then some (.stall .long)
  else if !c.g.releases.isEmpty && (cls == some 1 || cls == some 2) then some (.stall .other)
  else if takesEntry i && decide (64 ≤ entriesOf c.g) then some (.stall .long)
  else if takesEntry i && decide (512 ≤ ((groupsOn c.d c.g.core).map entriesOf).sum) then some (.stall .table)
  else if takesReturn i && decide (4 ≤ returnSets c.g) then some (.stall .long)
  else if goesOn then none
  else if matchHit c then some (.raise (Exc.of .breakpoint))
  else if u.unheld c.g then some (.raise (Exc.of .unheldRegister))
  else if u.lost c.g c.sp then some (.raise (Exc.of .transientLost))
  else none
/-- Marks why a split did not issue (R51). -/
def markStall (d : Device) (gid k : Nat) (w : Stall) : Device := d.modGroup gid fun g => modSplit g k fun sp => { sp with stall := some w }
/-- An instruction that does not issue; none where it meets an address outside the stacks (R199). -/
def onStop (c : Ctx) : Stop → Option Device
  | .stall w => some (markStall c.d c.gid c.k w)
  | .raise e => some (takeException c.P c.d c.gid c.site e)
  | .report d e => some (takeException c.P d c.gid c.site e)
  | .miss lane va acc => some (markStall (sendMiss c.d c.g c.site (1 + c.site.index) lane va acc) c.gid c.k .other)
  | .absent => none
/-- The other ready active groups of a group's slot (R190). -/
def slotPeers (d : Device) (g : Group) : List Nat := ((Tbl.vals d.groups).filter fun h => h.core == g.core && h.slot == g.slot && h.id != g.id && readyActive d h).map (·.id)
/-- A group has issued: for R52 and R190. After a `yield` its splits let every other ready active group of the slot issue once, or 64 issue clocks pass, and it counts as the group that issued least recently. -/
def noteIssue (i : Instr) (d : Device) (gid k : Nat) : Device :=
  match Tbl.find d.groups gid with
  | none => d
  | some g =>
    let y := match i with | .yield | .yieldShort => true | _ => false
    let d := d.modGroup gid fun g => { modSplit g k (fun sp => { sp with stall := none }) with lastIssue := if y then 0 else d.clock + 2, yielded := if y then some (d.clock + 64, slotPeers d g) else none }
    { d with groups := Tbl.mapVals (fun (h : Group) => if h.core == g.core && h.slot == g.slot && h.id != gid then { h with yielded := h.yielded.map fun y => (y.1, y.2.filter (· != gid)) } else h) d.groups }
/-- A split arrives at a clause start where R184 holds it: its wait begins (R185). -/
def noteArrival (d : Device) (gid k : Nat) : Device := d.modGroup gid fun g => modSplit g k fun sp => if sp.index = 0 then { sp with waitSince := d.clock } else sp
/-- An operation that an issue starts: it counts on the clause's flag and takes its number from the device's next number at the issue (R107). -/
def startOp (i : Instr) (c : Ctx) (d : Device) (o : Op) : Device :=
  let flag := if i.isLong && decide (nextFlag c.sp < 12) then some (nextFlag c.sp) else none
  let u := uses i
  let o := { o with id := c.d.nextId, flag, splits := [c.k], site := c.site, entry := takesEntry i, vDests := u.vw, sDests := u.sw, pDests := u.pw }
  { d with nextId := d.nextId + 1 }.modGroup c.gid fun g => { g with ops := g.ops ++ [o] }
/-- What follows an instruction that has issued (R107, R128). -/
def retire (i : Instr) (c : Ctx) : Done → Device
  | .act d w tr rs =>
    let d := d.modGroup c.gid fun g => modSplit g c.k fun sp => advance sp i (instrLen i)
    let d := landResult d c.gid c.k w tr rs (closesAfter i && c.lanes != 0)
    let d := if closesFirst i then reopen d c.gid c.k else d
    noteIssue i (noteArrival d c.gid c.k) c.gid c.k
  | .op d o rs =>
    let d := startOp i c d o
    let d := d.modGroup c.gid fun g => modSplit g c.k fun sp => if o.closing.isSome then { sp with rest := none } else advance sp i (instrLen i)
    noteIssue i (noteArrival (landResult d c.gid c.k RegWrites.none false rs false) c.gid c.k) c.gid c.k
  | .part d o rest => noteIssue i ((startOp i c d o).modGroup c.gid fun g => modSplit g c.k fun sp => { sp with rest := some rest }) c.gid c.k
  | .wait d => noteIssue i (d.modGroup c.gid fun g => { g with waitSplit := c.k }) c.gid c.k
  | .jump d => noteIssue i (noteArrival d c.gid c.k) c.gid c.k
/-- The hold that keeps an instruction from issuing: the group waits on the register (R284). -/
def holdWait (i : Instr) (c : Ctx) : Option Device :=
  (uses i).held c.g |>.map fun h =>
    (beginWait c.d c.gid (.hold h.reg) 4 (BitVec.ofInt 32 h.count) 0 (BitVec.ofNat 64 h.reg) c.sp.here).modGroup c.gid fun g => { g with waitSplit := c.k }
/-- Closes a split's region before a closing instruction (R128); a migration closes every split's (R332). -/
def closeHere (i : Instr) (c : Ctx) : Ctx :=
  let ks := match i with | .mig _ _ | .migNear _ _ => Tbl.keys c.g.splits | _ => [c.k]
  c.refresh (c.d.modGroup c.gid fun g => ks.foldl (fun g k => closeRegion c.d.clock (closing c.d g) g k) g)
/-- Closes each split's region that holds entries, when a 33rd effect would enter (R128). -/
def spillEffects (c : Ctx) : Device :=
  c.d.modGroup c.gid fun g => (Tbl.keys g.splits).foldl (fun g k => if g.effects.any fun e => e.split == k then closeRegion c.d.clock (closing c.d g) g k else g) g
/-- Issues one instruction: the core's checks, the instruction's own, the closing of the region, and its effect. -/
def issue (i : Instr) (c : Ctx) (body : Ctx → Except Stop (Ctx → Done)) : Option Device :=
  match gate i c with
  | some s => onStop c s
  | none =>
    match holdWait i c with
    | some d => some d
    | none =>
      let c := if closesEarly i then closeHere i c else c
      if closesEarly i && (c.sp.gone || !c.g.handed.isEmpty || !c.g.releases.isEmpty) then some c.d
      else match body c with
      | .error s => onStop c s
      | .ok f =>
        if isHeldEffect i && !c.g.effects.isEmpty && decide (32 < c.g.effects.length + heldNeeds i c) then some (spillEffects c)
        else if closesFirst i && c.sp.rest.isNone then
          let c' := closeHere i c
          if c'.sp.gone || !c'.g.handed.isEmpty || !c'.g.releases.isEmpty then some c'.d else some (retire i c' (f c'))
        else some (retire i c (f c))
/-- The common form of every instruction of code: the split whose turn it is issues it. -/
def runCode (i : Instr) (g : Option Guard) (s : State) (body : Ctx → Except Stop (Ctx → Done)) : Host.Outcome State Fault Refusal :=
  match s.turn with
  | .free => .fault .noIssuingSplit
  | .issue gid k =>
    match ctxOf s.plat s.dev gid k g with
    | none => .fault .noIssuingSplit
    | some c =>
      match issue i c body with
      | some d => .next { s with dev := d }
      | none => .fault .absentAddress
/-- The common form of every event: a change of the device where it is due. -/
def runEvent (s : State) (f : Platform → Device → Device) : Host.Outcome State Fault Refusal := .next { s with dev := f s.plat s.dev }
/-- An operation of a kind, with what it will write (R107). -/
def Op.of (kind : OpKind) (writes : RegWrites) (tr : Bool) : Op :=
  { id := 0, kind, flag := none, splits := [], site := { split := 0, pc := 0, index := 0, lanes := 0 }, closing := none, past := false, entry := false, parts := 0, writes, tr, vDests := [], sDests := [], pDests := [], shape := none, tiles := [], tileReads := [], win := [], tileWrites := [], exc := none, verLast := none }
/-- A long-latency instruction with one result for its lanes, written when it completes. -/
def longResult (w : Ctx → RegWrites) (tr : Bool) (rs : Ctx → Nat) : Ctx → Except Stop (Ctx → Done) := fun _ => .ok fun c => .op c.d (Op.of .value (w c) tr) (rs c)
/-- An instruction with one result for its lanes. -/
def result (w : Ctx → RegWrites) (tr : Bool) (rs : Ctx → Nat) : Ctx → Except Stop (Ctx → Done) := fun _ => .ok fun c => .act c.d (w c) tr (rs c)

end Sys2Proof.Machine
end

