-- ==== Sys2Proof/Machine/Compute.lean ====
section
/-! DEFINITION. Rows 0x0_ to 0x2_ and their short forms: arithmetic, logic and bit fields, fused multiply-add and transcendentals (R120, R143 to R162). -/

namespace Sys2Proof

/-- The elements an instruction computes (R145). -/
def Part.elems (t : Ty) : Part → List Nat
  | .full => if t.is16 then [0, 1] else [0]
  | .lo => [0]
  | .hi => [1]

/-- The long form a short form stands for (R120). -/
def Short3.bin (f : Short3) (t : Ty) : Bin :=
  { g := none, tr := false, sat := false, ty := t, rnd := .rne, part := .full, d := f.d, a := { reg := f.a, reuse := false }, b := .reg f.b false }

end Sys2Proof

namespace Sys2Proof.Machine
open Sys2Proof

/-- `elem(x, T, e)` (R143, R145). -/
def elemOf (t : Ty) (e x : Nat) : Nat := if t.is16 then x / 2 ^ (16 * e) % 2 ^ 16 else x % 2 ^ Ty.width t
/-- A lane value with element `e` replaced. -/
def putElem (t : Ty) (e old v : Nat) : Nat :=
  if t.is16 then (if e = 0 then old / 2 ^ 16 * 2 ^ 16 + v % 2 ^ 16 else old % 2 ^ 16 + v % 2 ^ 16 * 2 ^ 16) else v
/-- A lane value of computed elements; the others keep their bits (R83, R145). -/
def mergeElems (t : Ty) (p : Part) (old : Nat) (f : Nat → Nat) : Nat := (p.elems t).foldl (fun x e => putElem t e x (f e)) old
/-- Bits an element of a lane rounds with under `rsd` (R93). -/
def Ctx.rb (c : Ctx) (lane j : Nat) : Nat := rbits c.g.rsKey.toNat c.g.rsCtr.toNat lane j
/-- Counter values an instruction of at most four elements a lane uses (R93). -/
def rsUse (r : Rnd) : Nat := if r == .rsd then 1 else 0
/-- A register operand's value at a lane. -/
def Ctx.rv (c : Ctx) (t : Ty) (lane : Nat) (r : Reg) : Nat := regVal c.g c.sp t lane r
/-- A source operand's value at a lane. -/
def Ctx.ov (c : Ctx) (t : Ty) (lane : Nat) (o : Opd) : Nat := opdVal c.g c.sp t lane o
/-- The result of an element-wise instruction: `f lane e` is element `e` of a lane. A scalar form is computed once, as lane 0 (R83, R144 to R146). The kept half of a partial write comes from the register file, the value of a transient register among them (R79, log 92). -/
def elemWrites (c : Ctx) (d : Reg) (t : Ty) (p : Part) (f : Nat → Nat → Nat) : RegWrites :=
  match d with
  | .v n => vecWrites n.val t.regs (lanesOf c.lanes) fun l => mergeElems t p (c.g.vFile n.val l).toNat (f l)
  | .s n => scaWrite n.val (scalarBits t p (c.g.sFile n.val).toNat (mergeElems t p (c.g.sFile n.val).toNat (f 0)))
/-- The result of a lane value in one register, computed at each lane; a scalar destination is written zero-extended (R146). -/
def laneWrites (c : Ctx) (d : Reg) (n : Nat) (f : Nat → Nat) : RegWrites :=
  match d with
  | .v r => vecWrites r.val n (lanesOf c.lanes) f
  | .s r => scaWrite r.val (f 0)
/-- A unary row. -/
def unWrites (f : Un) (op : Nat → Nat → Nat) (c : Ctx) : RegWrites :=
  elemWrites c f.d f.ty f.part fun l e => op (c.rb l e) (elemOf f.ty e (c.ov f.ty l f.a))
/-- A row of two operands. -/
def binWrites (f : Bin) (op : Nat → Nat → Nat → Nat) (c : Ctx) : RegWrites :=
  elemWrites c f.d f.ty f.part fun l e => op (c.rb l e) (elemOf f.ty e (c.rv f.ty l f.a.reg)) (elemOf f.ty e (c.ov f.ty l f.b))
/-- A row of three operands. -/
def triWrites (f : Tri) (op : Nat → Nat → Nat → Nat → Nat) (c : Ctx) : RegWrites :=
  elemWrites c f.d f.ty f.part fun l e => op (c.rb l e) (elemOf f.ty e (c.rv f.ty l f.a.reg)) (elemOf f.ty e (c.ov f.ty l f.b)) (elemOf f.ty e (c.rv f.ty l f.c.reg))
/-- A row of two operands whose second is a 32-bit amount (R156). -/
def shiftWrites (f : Bin) (op : Nat → Nat → Nat) (c : Ctx) : RegWrites :=
  elemWrites c f.d f.ty f.part fun l _ => op (c.rv f.ty l f.a.reg) (c.ov .b32 l f.b)
/-! What each element's result is (R151 to R161). -/

/-- `sat` or `wrap` of an exact integer (R148, R151). -/
def fitInt (t : Ty) (sat : Bool) (v : Int) : Nat := if sat then satInt t v else wrapInt t v
/-- `fround` of an arithmetic result in the type's format (R148). -/
def fitFloat (t : Ty) (r : Rnd) (sat : Bool) (rb : Nat) (v : Val) : Nat := fround (fmtOf t) r sat false rb v
/-- `add` of one element. -/
def addElem (t : Ty) (r : Rnd) (sat : Bool) (rb x y : Nat) : Nat :=
  if t.isFloat then fitFloat t r sat rb ((valOf t x).add r (valOf t y)) else fitInt t sat (intOf t x + intOf t y)
/-- `sub` of one element. -/
def subElem (t : Ty) (r : Rnd) (sat : Bool) (rb x y : Nat) : Nat :=
  if t.isFloat then fitFloat t r sat rb ((valOf t x).add r (valOf t y).neg) else fitInt t sat (intOf t x - intOf t y)
/-- `mul` of one element. -/
def mulElem (t : Ty) (r : Rnd) (sat : Bool) (rb x y : Nat) : Nat :=
  if t.isFloat then fitFloat t r sat rb ((valOf t x).mul (valOf t y)) else fitInt t sat (intOf t x * intOf t y)
/-- `mulhi` of one element. -/
def mulhiElem (t : Ty) (x y : Nat) : Nat := wrapInt t (Int.fdiv (intOf t x * intOf t y) (2 ^ Ty.width t : Nat))
/-- `mad` of one element. -/
def madElem (t : Ty) (sat : Bool) (x y z : Nat) : Nat := fitInt t sat (intOf t x * intOf t y + intOf t z)
/-- `min` of one element. -/
def minElem (t : Ty) (x y : Nat) : Nat := if t.isFloat then fminmax t false x y else wrapInt t (Min.min (intOf t x) (intOf t y))
/-- `max` of one element. -/
def maxElem (t : Ty) (x y : Nat) : Nat := if t.isFloat then fminmax t true x y else wrapInt t (Max.max (intOf t x) (intOf t y))
/-- `abs` of one element: for floats the sign bit is cleared (R152). -/
def absElem (t : Ty) (sat : Bool) (x : Nat) : Nat := if t.isFloat then x % 2 ^ (Ty.width t - 1) else fitInt t sat (intOf t x).natAbs
/-- `neg` of one element: for floats the sign bit is inverted (R152). -/
def negElem (t : Ty) (sat : Bool) (x : Nat) : Nat := if t.isFloat then Nat.xor x (2 ^ (Ty.width t - 1)) else fitInt t sat (-intOf t x)
/-- `fma` of one element (R161). -/
def fmaElem (t : Ty) (r : Rnd) (sat : Bool) (rb x y z : Nat) : Nat := fitFloat t r sat rb (((valOf t x).mul (valOf t y)).add r (valOf t z))
/-- One step of restoring division: Q in the low word and P in the high (R153). -/
def divStep (qp dv : Nat) : Nat :=
  let q := qp % 2 ^ 32
  let p2 := 2 * (qp / 2 ^ 32) + q / 2 ^ 31
  let q2 := 2 * q % 2 ^ 32
  if dv ≤ p2 then q2 + 1 + (p2 - dv) % 2 ^ 32 * 2 ^ 32 else q2 + p2 % 2 ^ 32 * 2 ^ 32
/-- `lut3` over `n` bits (R155). -/
def lutBits (table : BitVec 8) (a b c : Nat) : Nat → Nat
  | 0 => 0
  | n + 1 => lutBits table a b c n + (if table.getLsbD ((a.testBit n).toNat * 4 + (b.testBit n).toNat * 2 + (c.testBit n).toNat) then 2 ^ n else 0)
/-- `shl` (R156). -/
def shlElem (t : Ty) (x n : Nat) : Nat := if n < Ty.width t then x * 2 ^ n % 2 ^ Ty.width t else 0
/-- `shr` (R156). -/
def shrElem (t : Ty) (x n : Nat) : Nat := if n < Ty.width t then x / 2 ^ n else 0
/-- `sra` (R156). -/
def sraElem (t : Ty) (x n : Nat) : Nat := wrapInt t (Int.fdiv (intOf t x) (2 ^ Min.min n (Ty.width t - 1) : Nat))
/-- `rot` (R156). -/
def rotElem (t : Ty) (x n : Nat) : Nat :=
  let w := Ty.width t
  let k := n % w
  x * 2 ^ k % 2 ^ w + x / 2 ^ (w - k)
/-- Set bits below `n`. -/
def popBits (x : Nat) : Nat → Nat
  | 0 => 0
  | n + 1 => popBits x n + (x.testBit n).toNat
/-- Zero bits above the highest set bit, of `w` bits (R157). -/
def clzBits (w x : Nat) : Nat := if x = 0 then w else w - 1 - x.log2
/-- Bits in reverse order, of `w` bits (R157). -/
def revBits (w x : Nat) : Nat → Nat
  | 0 => 0
  | n + 1 => revBits w x n + (if x.testBit n then 2 ^ (w - 1 - n) else 0)
/-- `bfe` (R158). -/
def bfeElem (t : Ty) (x o w : Nat) : Nat :=
  if 32 ≤ o || w = 0 then 0
  else
    let w := Min.min w (32 - o)
    let f := x / 2 ^ o % 2 ^ w
    if t == .i32 then wrapInt .i32 (sext w f) else f
/-- `bfi` (R159). -/
def bfiElem (x base v : Nat) : Nat :=
  let o := v % 256
  let w := v / 256 % 256
  if w = 0 || 32 ≤ o then base
  else
    let w := Min.min w (32 - o)
    base % 2 ^ o + x % 2 ^ w * 2 ^ o + base / 2 ^ (o + w) * 2 ^ (o + w)
/-- One result byte of `bperm` (R160). -/
def permByte (bytes sel : Nat) : Nat :=
  let b := bytes / 2 ^ (8 * (sel % 8)) % 256
  if 8 ≤ sel % 16 then (if 128 ≤ b then 255 else 0) else b
/-- `bperm` (R160). -/
def bpermElem (a b v : Nat) : Nat :=
  let x := a + b * 2 ^ 32
  permByte x (v % 16) + permByte x (v / 16 % 16) * 2 ^ 8 + permByte x (v / 256 % 16) * 2 ^ 16 + permByte x (v / 4096 % 16) * 2 ^ 24

/-! Row 0x0_ and its short forms. -/

/-- `add` (R151, R152). -/
def execAdd (f : Bin) (s : State) := runCode (.add f) f.g s (result (binWrites f (addElem f.ty f.rnd f.sat)) f.tr fun _ => rsUse f.rnd)
/-- `sub` (R151, R152). -/
def execSub (f : Bin) (s : State) := runCode (.sub f) f.g s (result (binWrites f (subElem f.ty f.rnd f.sat)) f.tr fun _ => rsUse f.rnd)
/-- `mul` (R151, R152). -/
def execMul (f : Bin) (s : State) := runCode (.mul f) f.g s (result (binWrites f (mulElem f.ty f.rnd f.sat)) f.tr fun _ => rsUse f.rnd)
/-- `mulhi` (R151). -/
def execMulhi (f : Bin) (s : State) := runCode (.mulhi f) f.g s (result (binWrites f fun _ => mulhiElem f.ty) f.tr fun _ => 0)
/-- `mad` (R151). -/
def execMad (f : Tri) (s : State) := runCode (.mad f) f.g s (result (triWrites f fun _ => madElem f.ty f.sat) f.tr fun _ => 0)
/-- `divstep` (R153). -/
def execDivstep (f : Bin) (s : State) := runCode (.divstep f) f.g s (result (fun c => laneWrites c f.d 2 fun l => divStep (c.rv .b64 l f.a.reg) (c.ov .b32 l f.b)) f.tr fun _ => 0)
/-- `min` (R151, R152). -/
def execMin (f : Bin) (s : State) := runCode (.min f) f.g s (result (binWrites f fun _ => minElem f.ty) f.tr fun _ => 0)
/-- `max` (R151, R152). -/
def execMax (f : Bin) (s : State) := runCode (.max f) f.g s (result (binWrites f fun _ => maxElem f.ty) f.tr fun _ => 0)
/-- `abs` (R151, R152). -/
def execAbs (f : Un) (s : State) := runCode (.abs f) f.g s (result (unWrites f fun _ => absElem f.ty f.sat) f.tr fun _ => 0)
/-- `neg` (R151, R152). -/
def execNeg (f : Un) (s : State) := runCode (.neg f) f.g s (result (unWrites f fun _ => negElem f.ty f.sat) f.tr fun _ => 0)
/-- The carry or borrow a predicate supplies at a lane (R154). -/
def carryIn (c : Ctx) (pn : PReg) (l : Nat) : Nat := ((c.g.pred pn.val).getLsbD l).toNat
/-- `addc` (R154): sum and carry out. -/
def addcWrites (f : Bin) (pn : PReg) (c : Ctx) : RegWrites :=
  let v (l : Nat) := c.rv .w32 l f.a.reg + c.ov .w32 l f.b + carryIn c pn l
  (laneWrites c f.d 1 v).append (predWrite pn.val c.lanes (maskWhere c.lanes fun l => decide (2 ^ 32 ≤ v l)))
/-- `addc` (R154). -/
def execAddc (f : Bin) (pn : PReg) (s : State) := runCode (.addc f pn) f.g s (result (addcWrites f pn) f.tr fun _ => 0)
/-- `subb` (R154): difference and borrow out. -/
def subbWrites (f : Bin) (pn : PReg) (c : Ctx) : RegWrites :=
  let v (l : Nat) : Int := (c.rv .w32 l f.a.reg : Int) - c.ov .w32 l f.b - carryIn c pn l
  (laneWrites c f.d 1 fun l => wrapInt .w32 (v l)).append (predWrite pn.val c.lanes (maskWhere c.lanes fun l => decide (v l < 0)))
/-- `subb` (R154). -/
def execSubb (f : Bin) (pn : PReg) (s : State) := runCode (.subb f pn) f.g s (result (subbWrites f pn) f.tr fun _ => 0)
/-- Short `add.i32` (R120). -/
def execAddI32Short (f : Short3) (s : State) := runCode (.addI32Short f) none s (result (binWrites (f.bin .i32) (addElem .i32 .rne false)) false fun _ => 0)
/-- Short `sub.i32` (R120). -/
def execSubI32Short (f : Short3) (s : State) := runCode (.subI32Short f) none s (result (binWrites (f.bin .i32) (subElem .i32 .rne false)) false fun _ => 0)
/-- Short `add.f32` (R120). -/
def execAddF32Short (f : Short3) (s : State) := runCode (.addF32Short f) none s (result (binWrites (f.bin .f32) (addElem .f32 .rne false)) false fun _ => 0)
/-- Short `mul.f32` (R120). -/
def execMulF32Short (f : Short3) (s : State) := runCode (.mulF32Short f) none s (result (binWrites (f.bin .f32) (mulElem .f32 .rne false)) false fun _ => 0)

/-! Row 0x1_ and its short forms. -/

/-- `lut3`: 32 bits a lane, 64 in a scalar form, where a literal is extended with zeros (R113, R155, log 114). -/
def lutWrites (table : BitVec 8) (d : Reg) (a : Reg) (b : Opd) (e : Reg) (c : Ctx) : RegWrites :=
  match d with
  | .v n => vecWrites n.val 1 (lanesOf c.lanes) fun l => lutBits table (c.rv .b32 l a) (c.ov .b32 l b) (c.rv .b32 l e) 32
  | .s n => scaWrite n.val (lutBits table (c.rv .b64 0 a) (c.ov .b64 0 b) (c.rv .b64 0 e) 64)
/-- `lut3` (R155). -/
def execLut3 (f : Lut) (s : State) := runCode (.lut3 f) f.g s (result (lutWrites f.table f.d f.a.reg f.b f.c.reg) f.tr fun _ => 0)
/-- Short `and.b32` (R120). -/
def execAndB32Short (f : Short3) (s : State) := runCode (.andB32Short f) none s (result (lutWrites 0xC0 f.d f.a (.reg f.b false) f.a) false fun _ => 0)
/-- Short `or.b32` (R120). -/
def execOrB32Short (f : Short3) (s : State) := runCode (.orB32Short f) none s (result (lutWrites 0xFC f.d f.a (.reg f.b false) f.a) false fun _ => 0)
/-- Short `xor.b32` (R120). -/
def execXorB32Short (f : Short3) (s : State) := runCode (.xorB32Short f) none s (result (lutWrites 0x3C f.d f.a (.reg f.b false) f.a) false fun _ => 0)
/-- `shl` (R156). -/
def execShl (f : Bin) (s : State) := runCode (.shl f) f.g s (result (shiftWrites f (shlElem f.ty)) f.tr fun _ => 0)
/-- `shr` (R156). -/
def execShr (f : Bin) (s : State) := runCode (.shr f) f.g s (result (shiftWrites f (shrElem f.ty)) f.tr fun _ => 0)
/-- `sra` (R156). -/
def execSra (f : Bin) (s : State) := runCode (.sra f) f.g s (result (shiftWrites f (sraElem f.ty)) f.tr fun _ => 0)
/-- `rot` (R156). -/
def execRot (f : Bin) (s : State) := runCode (.rot f) f.g s (result (shiftWrites f (rotElem f.ty)) f.tr fun _ => 0)
/-- Short `shl.b32` (R120). -/
def execShlB32Short (f : Short3) (s : State) := runCode (.shlB32Short f) none s (result (shiftWrites (f.bin .b32) (shlElem .b32)) false fun _ => 0)
/-- Short `shr.b32` (R120). -/
def execShrB32Short (f : Short3) (s : State) := runCode (.shrB32Short f) none s (result (shiftWrites (f.bin .b32) (shrElem .b32)) false fun _ => 0)
/-- `popc` (R157). -/
def execPopc (f : Un) (s : State) := runCode (.popc f) f.g s (result (fun c => laneWrites c f.d 1 fun l => popBits (c.ov f.ty l f.a) (Ty.width f.ty)) f.tr fun _ => 0)
/-- `clz` (R157). -/
def execClz (f : Un) (s : State) := runCode (.clz f) f.g s (result (fun c => laneWrites c f.d 1 fun l => clzBits (Ty.width f.ty) (c.ov f.ty l f.a)) f.tr fun _ => 0)
/-- `brev` (R157). -/
def execBrev (f : Un) (s : State) := runCode (.brev f) f.g s (result (unWrites f fun _ x => revBits (Ty.width f.ty) x (Ty.width f.ty)) f.tr fun _ => 0)
/-- `bfe` (R158). -/
def execBfe (f : Tri) (s : State) := runCode (.bfe f) f.g s (result (triWrites f fun _ => bfeElem f.ty) f.tr fun _ => 0)
/-- `bfi` (R159). -/
def execBfi (f : Tri) (s : State) := runCode (.bfi f) f.g s (result (triWrites f fun _ => bfiElem) f.tr fun _ => 0)
/-- `bperm` (R160). -/
def execBperm (f : Tri) (s : State) := runCode (.bperm f) f.g s (result (triWrites f fun _ => bpermElem) f.tr fun _ => 0)

/-! Row 0x2_. -/

/-- `fma` (R161). -/
def execFma (f : Tri) (s : State) := runCode (.fma f) f.g s (result (triWrites f (fmaElem f.ty f.rnd f.sat)) f.tr fun _ => rsUse f.rnd)
/-- The result of a transcendental (R162). -/
def fnWrites (k : Fn) (f : Un) : Ctx → RegWrites := unWrites f (transc k f.ty f.rnd f.sat)
/-- `rcp` (R162). -/
def execRcp (f : Un) (s : State) := runCode (.rcp f) f.g s (longResult (fnWrites .rcp f) f.tr fun _ => rsUse f.rnd)
/-- `rsq` (R162). -/
def execRsq (f : Un) (s : State) := runCode (.rsq f) f.g s (longResult (fnWrites .rsq f) f.tr fun _ => rsUse f.rnd)
/-- `sqrt` (R162). -/
def execSqrt (f : Un) (s : State) := runCode (.sqrt f) f.g s (longResult (fnWrites .sqrt f) f.tr fun _ => rsUse f.rnd)
/-- `exp2` (R162). -/
def execExp2 (f : Un) (s : State) := runCode (.exp2 f) f.g s (longResult (fnWrites .exp2 f) f.tr fun _ => rsUse f.rnd)
/-- `log2` (R162). -/
def execLog2 (f : Un) (s : State) := runCode (.log2 f) f.g s (longResult (fnWrites .log2 f) f.tr fun _ => rsUse f.rnd)
/-- `tanh` (R162). -/
def execTanh (f : Un) (s : State) := runCode (.tanh f) f.g s (longResult (fnWrites .tanh f) f.tr fun _ => rsUse f.rnd)

end Sys2Proof.Machine
end

