-- ==== Sys2Proof/Machine/Convert.lean ====
section
/-! DEFINITION. Row 0x3_: conversions, block scales, compare, select and class (R163 to R170). -/

namespace Sys2Proof.Machine
open Sys2Proof

/-- A converted value placed in its lane (R164): the whole value, or a half with the other kept. -/
def placeCvt (d : Ty) (p : Part) (old v : Nat) : Nat :=
  if d.is16 then
    match p with
    | .full => if Ty.signed d then wrapInt .i32 (sext 16 v) else v
    | .lo => putElem d 0 old v
    | .hi => putElem d 1 old v
  else if d == .i8 then wrapInt .i32 (sext 8 v) else v
/-- The source element of a lane value (R163). -/
def cvtSource (src : Ty) (e x : Nat) : Nat := x / 2 ^ (Ty.width src * e) % 2 ^ Ty.width src
/-- `cvt` (R164). -/
def cvtWrites (f : Un) (src : Ty) (e : Nat) (c : Ctx) : RegWrites :=
  let v (l : Nat) := convert src f.ty f.rnd f.sat (c.rb l 0) (cvtSource src e (c.ov src l f.a))
  match f.d with
  | .v n => vecWrites n.val f.ty.regs (lanesOf c.lanes) fun l => placeCvt f.ty f.part (c.g.vFile n.val l).toNat (v l)
  | .s n => scaWrite n.val (scalarBits f.ty f.part (c.g.sFile n.val).toNat (placeCvt f.ty f.part (c.g.sFile n.val).toNat (v 0)))
/-- `cvt` (R163, R164). -/
def execCvt (f : Un) (src : Ty) (e : Fin 8) (s : State) := runCode (.cvt f src e) f.g s (result (cvtWrites f src e.val) f.tr fun _ => rsUse f.rnd)
/-- `cvt.pk` (R165). -/
def cvtPkLane (f : Bin) (old x y : Nat) : Nat :=
  if f.ty.is16 then x + y * 2 ^ 16
  else match f.part with
    | .hi => old % 2 ^ 16 + x * 2 ^ 16 + y * 2 ^ 24
    | _ => x + y * 2 ^ 8 + old / 2 ^ 16 * 2 ^ 16
/-- `cvt.pk` (R165). -/
def cvtPkWrites (f : Bin) (src : Ty) (c : Ctx) : RegWrites :=
  let conv (l j x : Nat) := convert src f.ty f.rnd f.sat (c.rb l j) x
  match f.d with
  | .v n => vecWrites n.val 1 (lanesOf c.lanes) fun l => cvtPkLane f (c.g.vFile n.val l).toNat (conv l 0 (c.rv src l f.a.reg)) (conv l 1 (c.ov src l f.b))
  | .s _ => RegWrites.none
/-- `cvt.pk` (R165). -/
def execCvtPk (f : Bin) (src : Ty) (s : State) := runCode (.cvtPk f src) f.g s (result (cvtPkWrites f src) f.tr fun _ => rsUse f.rnd)

/-! Block scales (R95, R96, R166, R167). -/

/-- Emax of an element format (R166). -/
def emaxOf : Ty → Int
  | .e4m3 => 8 | .e5m2 => 15 | _ => 2
/-- The NaN element of a NaN block (R166). -/
def blockNan : Ty → Nat
  | .e4m3 => 0x7F | .e5m2 => 0x7E | _ => 0
/-- Scale byte of a block of values (R166). -/
def blockScale (t : Ty) (xs : List Val) : Nat :=
  if xs.contains .nan then 0xFF
  else
    let m := xs.foldl (fun (b : Frac) v => match v with | .num q => let a : Frac := ⟨q.num.natAbs, q.den⟩; if b.lt a then a else b | _ => b) ⟨0, 1⟩
    if m.num = 0 then 127
    else (Max.max 0 (Min.min 254 (floorLog2 m.num.natAbs m.den - emaxOf t + 127))).toNat
/-- A value times a power of two. -/
def scaleVal (v : Val) (e : Int) : Val :=
  match v with
  | .num q => .num (q.mul (Frac.scale 1 e))
  | x => x
/-- The lanes of block `q` that are active. -/
def blockLanes (n q : Nat) (m : Mask) : List Nat := (lanesOf m).filter fun l => decide (l / (32 / n) = q)
/-- The f32 element `j` of a lane. -/
def bsElem (c : Ctx) (a : Reg) (l j : Nat) : Nat := readV c.g c.sp (a.num + j) l
/-- The scale byte of block `q` (R166). -/
def packScale (f : Bs) (c : Ctx) (q : Nat) : Nat :=
  let n := bsN f.ty
  blockScale f.ty ((blockLanes n q c.lanes).flatMap fun l => (List.range n).map fun j => v32 (bsElem c f.a.reg l j))
/-- `bs.pack`: packed elements at active lanes, and scale bytes whatever the mask (R166). -/
def bsPackWrites (f : Bs) (c : Ctx) : RegWrites :=
  let n := bsN f.ty
  let w := Ty.width f.ty
  let scale (q : Nat) := packScale f c q
  let elem (l j : Nat) : Nat :=
    let k := scale (l / (32 / n))
    if k = 0xFF then blockNan f.ty else fround (fmtOf f.ty) f.rnd f.sat true (c.rb l j) (scaleVal (v32 (bsElem c f.a.reg l j)) (127 - (k : Int)))
  let lane (l : Nat) : Nat := ((List.range n).map fun j => elem l j * 2 ^ (w * j)).sum
  let b := f.base.toNat
  let word (i : Nat) : Nat := ((List.range 4).map fun k => scale (4 * i + k) * 2 ^ (8 * k)).sum
  (vecWrites f.d.num 1 (lanesOf c.lanes) lane).append
    { RegWrites.none with vs := (List.range (n / 4)).map fun i => (32 * f.vs.reg.num + b / 4 + i, BitVec.ofNat 32 (word i)) }
/-- `bs.pack` (R166). -/
def execBsPack (f : Bs) (s : State) := runCode (.bsPack f) f.g s (result (bsPackWrites f) f.tr fun _ => if f.rnd == .rsd then bsN f.ty / 4 else 0)
/-- `bs.unpack` of one element (R167). -/
def unpackElem (f : Bs) (c : Ctx) (l j : Nat) : Nat :=
  let n := bsN f.ty
  let b := f.base.toNat + (n * l + j) / 32
  let k := readV c.g c.sp f.vs.reg.num (b / 4) / 2 ^ (8 * (b % 4)) % 256
  let x := valOf f.ty (readV c.g c.sp f.a.reg.num l / 2 ^ (Ty.width f.ty * j))
  if k = 0xFF then 0x7FC00000 else fround .f32 f.rnd f.sat false (c.rb l j) (scaleVal x ((k : Int) - 127))
/-- `bs.unpack` (R167). -/
def bsUnpackWrites (f : Bs) (c : Ctx) : RegWrites :=
  vecWrites f.d.num (bsN f.ty) (lanesOf c.lanes) fun l => ((List.range (bsN f.ty)).map fun j => unpackElem f c l j * 2 ^ (32 * j)).sum
/-- `bs.unpack` (R167). -/
def execBsUnpack (f : Bs) (s : State) := runCode (.bsUnpack f) f.g s (result (bsUnpackWrites f) f.tr fun _ => if f.rnd == .rsd then bsN f.ty / 4 else 0)

/-! Compare, select, class (R168 to R170). -/

/-- A condition between two encodings (R168). -/
def condHolds (k : Cond) (t : Ty) (x y : Nat) : Bool :=
  let a := valOf t x
  let b := valOf t y
  let nan := a == .nan || b == .nan
  let lt := if t.isFloat then !nan && a.ltNum b else decide (intOf t x < intOf t y)
  let gt := if t.isFloat then !nan && b.ltNum a else decide (intOf t y < intOf t x)
  let eq := if t.isFloat then !nan && !a.ltNum b && !b.ltNum a else x == y
  match k with
  | .eq => eq
  | .ne => !eq
  | .lt => lt
  | .le => lt || eq
  | .gt => gt
  | .ge => gt || eq
  | .ord => !nan
  | .uno => nan
  | .tst => Nat.land x y != 0
/-- The element that `cmp` and `class` look at (R168, R170). -/
def partElem (t : Ty) (p : Part) (x : Nat) : Nat := elemOf t (if p == .hi then 1 else 0) x
/-- `cmp` (R168). -/
def cmpWrites (f : CmpF) (c : Ctx) : RegWrites :=
  let hit (l : Nat) : Bool := condHolds f.cond f.ty (partElem f.ty f.part (c.rv f.ty l f.a.reg)) (partElem f.ty f.part (c.ov f.ty l f.b))
  let m := maskWhere c.lanes hit
  let old := c.g.pred f.pd.val
  predWrite f.pd.val c.lanes (match f.comb with | .set => m | .and => old &&& m | .or => old ||| m)
/-- `cmp` (R168). -/
def execCmp (f : CmpF) (s : State) := runCode (.cmp f) f.g s (result (cmpWrites f) false fun _ => 0)
/-- The lowest lane of a mask, or 0. -/
def lowLane (m : Mask) : Nat := (lanesOf m).headD 0
/-- `sel` (R169): per lane; the scalar form by the lowest lane of the split's mask. -/
def selWrites (f : Bin) (pn : PReg) (c : Ctx) : RegWrites :=
  match f.d with
  | .v n => vecWrites n.val f.ty.regs (lanesOf c.lanes) fun l => if (c.g.pred pn.val).getLsbD l then c.rv f.ty l f.a.reg else c.ov f.ty l f.b
  | .s n => scaWrite n.val (if (c.g.pred pn.val).getLsbD (lowLane c.sp.mask) then c.rv f.ty 0 f.a.reg else c.ov f.ty 0 f.b)
/-- `sel` (R169). -/
def execSel (f : Bin) (pn : PReg) (s : State) := runCode (.sel f pn) f.g s (result (selWrites f pn) f.tr fun _ => 0)
/-- The class of a value: the mask bit of R170. -/
def floatClass (t : Ty) (x : Nat) : Nat :=
  let f := fmtOf t
  let sub := decide (x % 2 ^ (f.bits - 1) < 2 ^ f.m)
  match valOf t x with
  | .nan => 0
  | .inf s => if s then 1 else 7
  | .zero _ => 4
  | .num q => if q.num < 0 then (if sub then 3 else 2) else (if sub then 5 else 6)
/-- `class` (R170). -/
def execClassOf (f : ClassF) (s : State) := runCode (.classOf f) f.g s (result (fun c => predWrite f.pd.val c.lanes (maskWhere c.lanes fun l => f.mask.getLsbD (floatClass f.ty (partElem f.ty f.part (c.ov f.ty l f.a))))) false fun _ => 0)

end Sys2Proof.Machine
end

