-- ==== Sys2Proof/Machine/Lanes.lean ====
section
/-! DEFINITION. Rows 0x4_ and 0x5_: lane instructions, the generator, moves and predicates (R171 to R179, R194), and `nop` and `brk` (R120, R134). -/

namespace Sys2Proof.Machine
open Sys2Proof

/-- A shuffle: lane L takes `a` from `src L`, or keeps its own where that is none; `pn` tells where the source was in range and active (R173). -/
def shflWrites (f : Shfl) (src : Ctx → Nat → Option Nat) (c : Ctx) : RegWrites :=
  let value (l : Nat) : Nat := c.rv f.ty ((src c l).getD l) f.a.reg
  let good (l : Nat) : Bool := match src c l with | some m => c.lanes.getLsbD m | none => false
  let w := vecWrites f.d.num f.ty.regs (lanesOf c.lanes) value
  if f.pn.en then w.append (predWrite f.pn.p.val c.lanes (maskWhere c.lanes good)) else w
/-- `shfl.idx` (R173). -/
def execShflIdx (f : Shfl) (s : State) := runCode (.shflIdx f) f.g s (result (shflWrites f fun c l => some (c.ov .b32 l f.b % 32)) f.tr fun _ => 0)
/-- `shfl.up` (R173): of a scalar n, bits 31:0 are the unsigned value (log 95). -/
def execShflUp (f : Shfl) (s : State) := runCode (.shflUp f) f.g s (result (shflWrites f fun c l => if c.ov .b32 0 f.b ≤ l then some (l - c.ov .b32 0 f.b) else none) f.tr fun _ => 0)
/-- `shfl.dn` (R173): of a scalar n, bits 31:0 are the unsigned value (log 95). -/
def execShflDn (f : Shfl) (s : State) := runCode (.shflDn f) f.g s (result (shflWrites f fun c l => if l + c.ov .b32 0 f.b ≤ 31 then some (l + c.ov .b32 0 f.b) else none) f.tr fun _ => 0)
/-- `shfl.xor` (R194). -/
def execShflXor (f : Shfl) (s : State) := runCode (.shflXor f) f.g s (result (shflWrites f fun c l => some (Nat.xor l (c.ov .b32 0 f.b % 32))) f.tr fun _ => 0)

/-- The values a reduction or scan starts from: inactive lanes hold the identity (R98, R99). -/
def redInputs (f : RedF) (c : Ctx) : List Nat := (List.range 32).map fun l => if c.lanes.getLsbD l then c.ov f.ty l f.a else redIdentity f.op f.ty
/-- One combination of step `t` that writes position `i` (R174). -/
def redStep (f : RedF) (c : Ctx) (t i x y : Nat) : Nat := redCombine f.op f.ty f.rnd f.sat (c.rb i t) x y
/-- Counter values a reduction or scan uses (R174). -/
def redUse (f : RedF) : Nat := if f.rnd == .rsd then 2 else 0
/-- `scan` (R99, R174). -/
def execScan (f : RedF) (s : State) := runCode (.scan f) f.g s (result (fun c => let y := scanTree (redStep f c) (redInputs f c); vecWrites f.d.num 1 (lanesOf c.lanes) fun l => y.getD l 0) f.tr fun _ => redUse f)
/-- `scanx` (R99, R174). -/
def execScanx (f : RedF) (s : State) := runCode (.scanx f) f.g s (result (fun c => let y := scanTree (redStep f c) (redInputs f c); vecWrites f.d.num 1 (lanesOf c.lanes) fun l => if l = 0 then redIdentity f.op f.ty else y.getD (l - 1) 0) f.tr fun _ => redUse f)
/-- `rdc` (R98, R174): every active lane, or a scalar once. -/
def rdcWrites (f : RedF) (c : Ctx) : RegWrites :=
  let v := treeReduce (redStep f c) (redInputs f c)
  match f.d with
  | .v n => vecWrites n.val 1 (lanesOf c.lanes) fun _ => v
  | .s n => scaWrite n.val (scalarBits f.ty .full 0 v)
/-- `rdc` (R98, R174). -/
def execRdc (f : RedF) (s : State) := runCode (.rdc f) f.g s (result (rdcWrites f) f.tr fun _ => redUse f)

/-- The rank of a 32-bit key in the order of `sort`, ascending (R175). -/
def sortRank (t : Ty) (x : Nat) : Int :=
  if t == .f32 then
    match v32 x with
    | .nan => 2 ^ 33
    | _ => if x < 2 ^ 31 then (x : Int) else -1 - ((x - 2 ^ 31 : Nat) : Int)
  else intOf t x
/-- Puts a (rank, key, lane) after every one that is not to stand behind it. -/
def insertKey (down : Bool) (x : Int × Nat × Nat) : List (Int × Nat × Nat) → List (Int × Nat × Nat)
  | [] => [x]
  | y :: t => if (if down then decide (y.1 < x.1) else decide (x.1 < y.1)) then x :: y :: t else y :: insertKey down x t
/-- `sort` (R175): keys and their lanes, into the active lanes in order. -/
def sortWrites (f : Un) (down : Bool) (c : Ctx) : RegWrites :=
  let ls := lanesOf c.lanes
  let ks := ls.foldl (fun acc l => insertKey down (sortRank f.ty (c.ov f.ty l f.a), c.ov f.ty l f.a, l) acc) []
  { RegWrites.none with vs := (ls.zip ks).flatMap fun e => cellsAt f.d.num 2 e.1 (e.2.2.1 + e.2.2.2 * 2 ^ 32) }
/-- `sort` (R175). -/
def execSort (f : Un) (down : Bool) (s : State) := runCode (.sort f down) f.g s (longResult (sortWrites f down) f.tr fun _ => 0)

/-- `vote` (R176). -/
def voteHolds (mode : VoteMode) (m p : Mask) : Bool :=
  match mode with
  | .all => m &&& p == m
  | .any => m &&& p != 0
  | .uni => m &&& p == m || m &&& p == 0
/-- `vote` (R176). -/
def execVote (g : Option Guard) (mode : VoteMode) (pd pa : PReg) (s : State) := runCode (.vote g mode pd pa) g s (result (fun c => predWrite pd.val c.lanes (if voteHolds mode c.lanes (c.g.pred pa.val) then c.lanes else 0)) false fun _ => 0)
/-- `ballot` (R176). -/
def execBallot (g : Option Guard) (tr : Bool) (d : Reg) (pa : PReg) (s : State) := runCode (.ballot g tr d pa) g s (result (fun c => laneWrites c d 1 fun _ => (c.g.pred pa.val &&& c.lanes).toNat) tr fun _ => 0)
/-- `rnd` (R177, R178). -/
def execRnd (g : Option Guard) (tr : Bool) (d : Reg) (a : RegOpd) (b : Opd) (s : State) := runCode (.rnd g tr d a b) g s (result (fun c => vecWrites d.num 2 (lanesOf c.lanes) fun l => genG (c.rv .b64 0 a.reg) (c.ov .b64 l b) l) tr fun _ => 0)

/-! Row 0x5_. -/

/-- `mov` (R179). -/
def execMov (f : Un) (s : State) := runCode (.mov f) f.g s (result (unWrites f fun _ x => x) f.tr fun _ => 0)
/-- Short `mov.b32` (R120). -/
def execMovB32Short (d a : Reg) (s : State) := runCode (.movB32Short d a) none s (result (fun c => laneWrites c d 1 fun l => c.rv .b32 l a) false fun _ => 0)
/-- `rdlane` (R179). -/
def execRdlane (f : Bin) (s : State) := runCode (.rdlane f) f.g s (result (fun c => scaWrite f.d.num (c.rv f.ty (c.ov .b32 0 f.b % 32) f.a.reg)) f.tr fun _ => 0)
/-- `wrlane` (R179). -/
def execWrlane (f : Bin) (s : State) := runCode (.wrlane f) f.g s (result (fun c => vecWrites f.d.num f.ty.regs ((lanesOf c.lanes).filter (· == c.ov .b32 0 f.b % 32)) fun l => c.rv f.ty l f.a.reg) f.tr fun _ => 0)
/-- `plog` (R171). -/
def execPlog (f : PLog) (s : State) := runCode (.plog f) f.g s (result (fun c =>
  let bit (p : PReg) (l : Nat) : Nat := ((c.g.pred p.val).getLsbD l).toNat
  predWrite f.pd.val c.lanes (maskWhere c.lanes fun l => f.table.getLsbD (bit f.pa l * 4 + bit f.pb l * 2 + bit f.pc l))) false fun _ => 0)
/-- `ptov` (R171). -/
def execPtov (g : Option Guard) (tr : Bool) (d : Reg) (pa : PReg) (s : State) := runCode (.ptov g tr d pa) g s (result (fun c => vecWrites d.num 1 (lanesOf c.lanes) fun l => ((c.g.pred pa.val).getLsbD l).toNat) tr fun _ => 0)
/-- `vtop` (R171). -/
def execVtop (g : Option Guard) (pd : PReg) (a : Opd) (s : State) := runCode (.vtop g pd a) g s (result (fun c => predWrite pd.val c.lanes (maskWhere c.lanes fun l => c.ov .b32 l a != 0)) false fun _ => 0)

/-! `nop` and `brk`. -/

/-- `nop` (R120). -/
def execNop (s : State) := runCode .nop none s (result (fun _ => RegWrites.none) false fun _ => 0)
/-- `brk` (R134): the breakpoint trap before any effect; once the trap has been left by RESUME at it, it is taken again. The record's info holds tag and span (R364). -/
def execBrk (span : Nat) (tag : BitVec 22) (s : State) := runCode (.brk span tag) none s fun _ => .error (.raise { code := .breakpoint, lane := none, info := BitVec.ofNat 64 (tag.toNat + span * 2 ^ 22) })

end Sys2Proof.Machine
end

