-- ==== Sys2Proof/Machine/LoadStore.lean ====
section
/-! DEFINITION. Row 0x6_, loads and stores: the checks of each lane (R237), global and window accesses (R241), versioned pages (R243 to R245) and packed ragged rows (R247). -/

namespace Sys2Proof.Machine
open Sys2Proof

/-! Lanes of an access. -/

/-- A lane's access that has passed its checks: its address, the leaf it goes through, and the physical address. -/
structure Place where
  lane : Nat
  va : DWord
  leaf : Leaf
  pa : Nat
  deriving Repr, Inhabited
/-- The checks of one lane of an access to global memory, in the order of R237 item 3; `own` is what the instruction adds. -/
def placeLane (c : Ctx) (acc : Access) (align : Nat) (own : Leaf → Option ExcCode) (lane : Nat) (va : DWord) : Except Stop Place :=
  if va.toNat / 2 ^ 48 ≠ 0 then .error (.raise (Exc.at_ .address lane va))
  else if va.toNat % align ≠ 0 then .error (.raise (Exc.at_ .alignment lane va))
  else match xlat c.d c.g acc va with
    | .miss => .error (.miss (some lane) va acc)
    | .absent => .error .absent
    | .fault e => .error (.raise (Exc.at_ e lane va))
    | .ok l pa => match own l with
      | some e => .error (.raise (Exc.at_ e lane va))
      | none => .ok { lane, va, leaf := l, pa }
/-- The lanes of an access, ascending: the first that fails decides (R237). -/
def placeLanes (c : Ctx) (acc : Access) (align : Nat) (own : Leaf → Option ExcCode) : List (Nat × DWord) → Except Stop (List Place)
  | [] => .ok []
  | x :: t => match placeLane c acc align own x.1 x.2 with
    | .error e => .error e
    | .ok p => match placeLanes c acc align own t with
      | .error e => .error e
      | .ok ps => .ok (p :: ps)
/-- Global addresses of the active lanes. -/
def Ctx.addrs (c : Ctx) (a : Reg) (off : MOff) : List (Nat × DWord) := (lanesOf c.lanes).map fun l => (l, globalEa c.g c.sp a off l)
/-- A versioned page may not be stored to, or acted on, by ordinary accesses (R229). -/
def notVersioned (l : Leaf) : Option ExcCode := if l.ver then some .pageAttribute else none
/-- Only a versioned page may be named (R243 to R245). -/
def mustVersioned (l : Leaf) : Option ExcCode := if l.ver then none else some .pageAttribute
/-- The bytes of a data operand at a lane (R235, R240). -/
def dataBytes (c : Ctx) (z : Size) (lane : Nat) : Reg → List Byte
  | .v n => (List.range z.regs).flatMap fun j => bytesOf 4 (readV c.g c.sp (n.val + j) lane)
  | .s n => bytesOf z.bytes (readS c.g c.sp n.val)
/-- The result of a load: for each lane, a value of the access size. -/
def loadWrites (d : Reg) (z : Size) (vals : List (Nat × Nat)) : RegWrites :=
  match d with
  | .v n => { RegWrites.none with vs := vals.flatMap fun e => cellsAt n.val z.regs e.1 e.2 }
  | .s n => match vals with
    | e :: _ => scaWrite n.val e.2
    | [] => RegWrites.none

/-! Values of loads (R206, R207). -/

/-- A byte as the youngest buffered store over it has it. -/
def bufferedByte (sb : List StoreEntry) (a : Nat) : Option Byte :=
  sb.reverse.findSome? fun s => s.lanes.reverse.findSome? fun l => if l.pa ≤ a && a < l.pa + l.data.length then l.data[a - l.pa]? else none
/-- An access overlaps a store that has been sent but not acknowledged. -/
def overlapsSent (g : Group) (a n : Nat) : Bool := g.sent.any fun s => s.lanes.any fun l => decide (l.pa < a + n) && decide (a < l.pa + l.data.length)
/-- A handed-over reduction of the group that is still to be performed overlaps a range: later accesses of the group wait for it (R127, R213, R216). -/
def pendingRed (d : Device) (g : Group) (a n : Nat) : Bool :=
  let hits (r : AgReq) : Bool := decide (r.pa < a + n) && decide (a < r.pa + 8)
  let mine (r : AgReq) : Bool := r.source == .held g.id && hits r
  g.handed.any (fun e => match e.act with | .red rs => rs.any hits | _ => false) || (Tbl.vals d.clusters).any (fun c => c.queue.any mine || c.sending.any fun r => mine r.2) || d.collapses.any fun c => c.parked.any fun p => match p with | .req r => mine r | _ => false
/-- The line of a lane as its policy gives it: bytes, whether L2 supplied them, and the device after fills and uses; none while a visitor copy has to wait (R206, R210, R218). -/
def lineFor (c : Ctx) (pol : Policy) (p : Place) (d : Device) : Option (List Byte × Bool × Device) :=
  let line := p.pa / 64
  let viaL1 := pol != .thru && !p.leaf.noL1
  let hit := if viaL1 then ((d.core c.g.core).l1.find? fun l => l.line == line && decide (c.g.arrivedAt ≤ l.filled)) else none
  match hit with
  | some l => some (l.data, false, { d.modCore c.g.core (fun k => { k with l1 := k.l1.map fun x => if x.line == line then { x with used := d.nextId } else x }) with nextId := d.nextId + 1 })
  | none => match l2Line c.P d (c.g.core / 128) p.pa with
    | none => none
    | some (bytes, d) => some (bytes, true, if viaL1 && !d.linePoisoned p.pa then fillLine d c.g.core line p.va bytes (pol == .stream) else d)
/-- The value of one lane of `n` bytes, whether it met poison, and the device after it. -/
def laneValue (c : Ctx) (pol : Policy) (n : Nat) (p : Place) (d : Device) : Option (Nat × Bool × Device) :=
  let own := (List.range n).map fun i => bufferedByte c.g.sb (p.pa + i)
  if own.all (·.isSome) then some (natOf (own.map (·.getD 0)), false, d)
  else match lineFor c pol p d with
    | none => none
    | some (bytes, l2, d) =>
      let bs := (bytes.drop (p.pa % 64)).take n
      some (natOf ((own.zip bs).map fun e => e.1.getD e.2), l2 && d.anyPoison p.pa n, d)
/-- The values of the lanes in turn, with the first lane that met poison. -/
def laneValues (c : Ctx) (pol : Policy) (n : Nat) : List Place → Device → Option (List (Nat × Nat) × Option Exc × Device)
  | [], d => some ([], none, d)
  | p :: t, d => match laneValue c pol n p d with
    | none => none
    | some (v, bad, d) => match laneValues c pol n t d with
      | none => none
      | some (vs, e, d) => some ((p.lane, v) :: vs, if bad then some (Exc.at_ .poisonedData p.lane p.va) else e, d)
/-- A load of checked lanes: it waits for a sent store it overlaps, and for a visitor copy (R207, R218); `extra` are values that need no access. -/
def loadPlaces (c : Ctx) (pol : Policy) (z : Size) (dest : Reg) (extra : List (Nat × Nat)) (ps : List Place) : Except Stop (Ctx → Done) :=
  if ps.any fun p => overlapsSent c.g p.pa z.bytes then .error (.stall .long)
  else if ps.any fun p => pendingRed c.d c.g p.pa z.bytes then .error (.stall .other)
  else match laneValues c pol z.bytes ps c.d with
    | none => .error (.stall .other)
    | some (vs, e, d) => .ok fun _ => .op d { Op.of .load (loadWrites dest z (extra ++ vs)) false with exc := e } 0
/-- An instruction of these rows whose guard selects no lane completes at issue without effect (R238). -/
def orNothing (c : Ctx) (r : Except Stop (Ctx → Done)) : Except Stop (Ctx → Done) := if c.lanes = 0 then .ok fun c => .act c.d RegWrites.none false 0 else r
/-- `ld` (R241, R242): a scalar destination takes one access, at the lowest active lane's turn. -/
def ldBody (f : LdF) (c : Ctx) : Except Stop (Ctx → Done) :=
  orNothing c
    (let as := match f.d with | .v _ => c.addrs f.a.reg f.off | .s _ => (c.addrs f.a.reg f.off).take 1
    match placeLanes c .load f.size.bytes (fun _ => none) as with
    | .error e => .error e
    | .ok ps => loadPlaces c f.pol f.size f.d [] ps)
/-- `ld` (R241, R242). -/
def execLd (f : LdF) (s : State) := runCode (.ld f) f.g s (ldBody f)

/-! Stores (R207, R241). -/

/-- Stores not yet acknowledged (R207). -/
def unacked (g : Group) : Nat := g.sb.length + g.sent.length + (g.ops.filter fun o => o.kind == .verStore).length
/-- `st` (R241): into the store buffer, with the line dropped from the core's L1. -/
def stBody (f : StF) (c : Ctx) : Except Stop (Ctx → Done) :=
  orNothing c
    (match placeLanes c .store f.size.bytes notVersioned (c.addrs f.a.reg f.off) with
    | .error e => .error e
    | .ok ps =>
      if ps.any fun p => pendingRed c.d c.g p.pa f.size.bytes then .error (.stall .other)
      else if decide (16 ≤ c.g.sb.length) || decide (255 ≤ unacked c.g) then .error (.stall .long)
      else .ok fun c =>
        let lanes := ps.map fun p => ({ lane := p.lane, va := p.va, pa := p.pa, page := if p.leaf.repl then some p.leaf.base else none, data := dataBytes c f.size p.lane f.c.reg } : LaneStore)
        let d := c.d.modGroup c.gid fun g => { g with sb := g.sb ++ [{ op := c.d.nextId, size := f.size.bytes, lanes, marks := [] }] }
        let d := dropLines (noteBlocks d c.gid (ps.map (·.va))) c.g.core (ps.map fun p => p.pa / 64)
        .op d (Op.of .store RegWrites.none false) 0)
/-- `st` (R241). -/
def execSt (f : StF) (s : State) := runCode (.st f) f.g s (stBody f)

/-! The window (R203, R204, R241). -/

/-- The window of the group's team. -/
def Ctx.team (c : Ctx) : Team := (Tbl.find c.d.teams c.g.team).getD default
/-- The checks of the lanes of a window access: alignment, then the bound (R204, R237). -/
def windowLanes (c : Ctx) (n : Nat) : List (Nat × Nat) → Except Stop (List (Nat × Nat))
  | [] => .ok []
  | x :: t =>
    if x.2 % n ≠ 0 then .error (.raise (Exc.at_ .alignment x.1 (BitVec.ofNat 64 x.2)))
    else if c.team.windowSize ≤ x.2 then .error (.raise (Exc.at_ .windowBound x.1 (BitVec.ofNat 64 x.2)))
    else match windowLanes c n t with
      | .error e => .error e
      | .ok ps => .ok (x :: ps)
/-- Window offsets of the active lanes. -/
def Ctx.offsets (c : Ctx) (a : Reg) (off : MOff) : List (Nat × Nat) := (lanesOf c.lanes).map fun l => (l, windowEa c.g c.sp a off l)
/-- Bytes of a window. -/
def windowBytes (t : Team) (o n : Nat) : List Byte := (List.range n).map fun i => Cells.get 0 t.window (o + i)
/-- Writes bytes of a window; a whole word's mark is cleared (R425). -/
def windowWrite (t : Team) (o : Nat) (bs : List Byte) : Team :=
  { t with
    window := ((List.range bs.length).zip bs).foldl (fun w e => Cells.put 0 w (o + e.1) e.2) t.window
    windowPoison := t.windowPoison.filter fun w => !(decide (o ≤ 4 * w) && decide (4 * w + 4 ≤ o + bs.length)) }
/-- A word of a window range is poisoned. -/
def windowBad (t : Team) (o n : Nat) : Bool := t.windowPoison.any fun w => decide (o < 4 * w + 4) && decide (4 * w < o + n)
/-- A copy the group issued earlier still writes (or, for a store, reads) part of a window range (R354). -/
def windowBusy (c : Ctx) (store : Bool) (o n : Nat) : Bool := c.team.ranges.any fun r => r.group == c.gid && (store || r.written) && decide (r.lo < o + n) && decide (o < r.hi)
/-- `ld.sp` (R241). -/
def ldSpBody (f : LdF) (c : Ctx) : Except Stop (Ctx → Done) :=
  orNothing c
    (match windowLanes c f.size.bytes (c.offsets f.a.reg f.off) with
    | .error e => .error e
    | .ok ps => if ps.any fun p => windowBusy c false p.2 f.size.bytes then .error (.stall .other) else .ok fun c =>
      let bad := ps.find? fun p => windowBad c.team p.2 f.size.bytes
      let w := loadWrites f.d f.size (ps.map fun p => (p.1, natOf (windowBytes c.team p.2 f.size.bytes)))
      .op c.d { Op.of .load w false with win := ps.map (fun p => (p.2, p.2 + f.size.bytes)), exc := bad.map fun p => Exc.at_ .poisonedData p.1 (BitVec.ofNat 64 p.2) } 0)
/-- `ld.sp` (R241). -/
def execLdSp (f : LdF) (s : State) := runCode (.ldSp f) f.g s (ldSpBody f)
/-- `st.sp` (R205, R241): the lanes in ascending order, so that the higher one's bytes stand. -/
def stSpBody (f : StF) (c : Ctx) : Except Stop (Ctx → Done) :=
  orNothing c
    (match windowLanes c f.size.bytes (c.offsets f.a.reg f.off) with
    | .error e => .error e
    | .ok ps => if ps.any fun p => windowBusy c true p.2 f.size.bytes then .error (.stall .other) else .ok fun c =>
      .op (c.d.modTeam c.g.team fun t => ps.foldl (fun t p => windowWrite t p.2 (dataBytes c f.size p.1 f.c.reg)) t) { Op.of .store RegWrites.none false with win := ps.map fun p => (p.2, p.2 + f.size.bytes) } 0)
/-- `st.sp` (R241). -/
def execStSp (f : StF) (s : State) := runCode (.stSp f) f.g s (stSpBody f)

/-! Versioned pages (R243 to R245). -/

/-- Marks a version home with the job and the page it serves. -/
def Device.openHome (d : Device) (job : Nat) (l : Leaf) (f : Home → Home) : Device := d.modHome l.addr fun h => f { h with job, pageSize := l.size, attr := l.attr }
/-- `ld.ver` (R227, R243): the request goes to the version home of the page of the lowest active lane; the split stands at the instruction until the slot is chosen. -/
def ldVerBody (f : LdVerF) (c : Ctx) : Except Stop (Ctx → Done) :=
  orNothing c
    (let as := c.addrs f.a.reg f.off
    match placeLanes c .load f.size.bytes mustVersioned (as.take 1) with
    | .error e => .error e
    | .ok first =>
      let l := (first.headD default).leaf
      match placeLanes c .load f.size.bytes (fun x => (mustVersioned x) <|> (if x.base != l.base then some .versionSpan else none)) as with
      | .error e => .error e
      | .ok ps =>
        let q : VerLoad := { record := l.addr, page := l.base, minStep := c.rv .b32 0 f.sm.reg, bytes := f.size.bytes, dest := f.d, lanes := ps.map fun p => (p.lane, p.va.toNat - l.base), since := c.d.clock }
        .ok fun c => .op (c.d.openHome c.g.job l fun h => { h with loads := h.loads ++ [(c.gid, c.d.nextId)] }) { Op.of (.verLoad q) RegWrites.none false with closing := some c.k } 0)
/-- `ld.ver` (R243). -/
def execLdVer (f : LdVerF) (s : State) := runCode (.ldVer f) f.g s (ldVerBody f)
/-- Physical lines that hold a place in the four frames of its record. -/
def versionLines (d : Device) (p : Place) : List Nat := (readSlots d p.leaf.addr).map fun s => framePhys p.leaf.attr s.frame (p.va.toNat - p.leaf.base) / 64
/-- `st.ver` (R225, R244): each lane goes to the version home of its page, for the step the group stands at. -/
def stVerBody (f : StF) (c : Ctx) : Except Stop (Ctx → Done) :=
  orNothing c
    (match placeLanes c .store f.size.bytes mustVersioned (c.addrs f.a.reg f.off) with
    | .error e => .error e
    | .ok ps =>
      if 255 ≤ unacked c.g then .error (.stall .long)
      else .ok fun c =>
        let id := c.d.nextId
        let d := ps.foldl (fun (d : Device) p =>
          let x : VerStore := { notice := none, source := .group c.gid id p.lane, offset := p.va.toNat - p.leaf.base, step := c.g.stepCur.toNat, data := dataBytes c f.size p.lane f.c.reg, since := c.d.clock }
          d.openHome c.g.job p.leaf fun h => { h with stores := h.stores ++ [x] }) c.d
        let d := dropLines (noteBlocks d c.gid (ps.map (·.va))) c.g.core (ps.flatMap (versionLines c.d))
        .op d { Op.of .verStore RegWrites.none false with parts := ps.length } 0)
/-- `st.ver` (R244). -/
def execStVer (f : StF) (s : State) := runCode (.stVer f) f.g s (stVerBody f)
/-- Puts a held effect into the effect buffer (R126). -/
def holdEffect (c : Ctx) (d : Device) (opcode : Nat) (where_ : DWord) (blocks : List DWord) (act : Act) : Device :=
  d.modGroup c.gid fun g => { g with effects := g.effects ++ [{ split := c.k, clause := c.sp.pc, index := c.sp.index, opcode, lanes := c.lanes, where_, blocks, act }] }
/-- An exception of an instruction that acts for the group as a whole names no lane (R238, R364). -/
def wholeGroup {α : Type} : Except Stop α → Except Stop α
  | .error (.raise e) => .error (.raise { e with lane := none })
  | .error (.miss _ va acc) => .error (.miss none va acc)
  | r => r
/-- `seal` (R226, R245). -/
def sealBody (a : RegOpd) (off : MOff) (c : Ctx) : Except Stop (Ctx → Done) :=
  let va := globalEa c.g c.sp a.reg off 0
  match wholeGroup (placeLanes c .store 1 mustVersioned [(0, va)]) with
  | .error e => .error e
  | .ok ps =>
    let l := (ps.headD default).leaf
    .ok fun c => .act (holdEffect c (c.d.openHome c.g.job l id) 0x66 va [] (.seal l.addr l.base c.g.stepCur.toNat)) RegWrites.none false 0
/-- `seal` (R245). -/
def execSealVer (a : RegOpd) (off : MOff) (s : State) := runCode (.sealVer a off) none s (sealBody a off)

/-! Packed ragged rows (R246, R247, R309, R311). -/

/-- The valid snapshot of a shape register; an invalid one raises the invalid-shape fault (R311). -/
def Ctx.shape (c : Ctx) (n : ShapeNo) : Except Stop Snapshot :=
  match (c.g.shapes.getD n.val none) with
  | some s => .ok s
  | none => .error (.raise (Exc.of .invalidShape))
/-- Packed row count, row pitch and number of sequences of a snapshot (R308). -/
def Snapshot.rows (s : Snapshot) : Nat := field s.header 4 4
/-- Row pitch. -/
def Snapshot.pitch (s : Snapshot) : Nat := field s.header 8 4
/-- Number of sequences. -/
def Snapshot.nseq (s : Snapshot) : Nat := field s.header 12 2
/-- First packed row of sequence `q`; that of `nseq` is the row count (R309). -/
def Snapshot.bound (s : Snapshot) (q : Nat) : Nat := if q < s.nseq then s.table.getD q 0 else s.rows
/-- The sequence of a packed row (R309). -/
def Snapshot.seq (s : Snapshot) (r : Nat) : Nat := ((List.range s.nseq).find? fun q => decide (s.bound q ≤ r) && decide (r < s.bound (q + 1))).getD s.nseq
/-- Rows lie in more than one sequence (R247, R313). -/
def Snapshot.crosses (s : Snapshot) (rows : List Nat) : Bool :=
  match rows with
  | [] => false
  | r :: t => t.any fun x => s.seq x != s.seq r
/-- `ld.rag` (R246, R247). -/
def ldRagBody (f : LdRagF) (c : Ctx) : Except Stop (Ctx → Done) :=
  orNothing c
    (match c.shape f.sh with
    | .error e => .error e
    | .ok s =>
      let rows := (lanesOf c.lanes).map fun l => (l, mOff32 c.g c.sp l f.row)
      let base := base64 c.g c.sp 0 f.a.reg
      let live := rows.filter fun x => decide (x.2 < s.rows)
      match placeLanes c .load f.size.bytes (fun _ => none) (live.map fun x => (x.1, BitVec.ofNat 64 (base + x.2 * s.pitch))) with
      | .error e => .error e
      | .ok ps =>
        if f.one && s.crosses (live.map (·.2)) then .error (.raise (Exc.of .boundaryCrossing))
        else loadPlaces c f.pol f.size f.d ((rows.filter fun x => decide (s.rows ≤ x.2)).map fun x => (x.1, 0)) ps)
/-- `ld.rag` (R246, R247). -/
def execLdRag (f : LdRagF) (s : State) := runCode (.ldRag f) f.g s (ldRagBody f)

end Sys2Proof.Machine
end

