-- ==== Sys2Proof/Machine/Sync.lean ====
section
/-! DEFINITION. Row 0x7_: atomics and reductions (R250 to R253), line locks (R254 to R264), fences and the team barrier (R265 to R271), counters, task drawers and decrements (R272 to R276). -/

namespace Sys2Proof.Machine
open Sys2Proof

/-! Atomics and reductions. -/

/-- The request of one lane of an atomic or reduction; a replicated page's parks behind its collapse (R222, R248). -/
def laneReq (c : Ctx) (kind : AgKind) (source : Nat → AgSource) (x xn : Nat → Nat) (p : Place) : AgReq :=
  { kind, pa := p.pa, va := p.va, job := c.g.job, x := BitVec.ofNat 64 (x p.lane), xn := BitVec.ofNat 64 (xn p.lane), source := source p.lane, park := if p.leaf.repl then some (p.leaf.base, c.g.core / 128) else none }
/-- The new value of `cas` at a lane (R250). -/
def casNew (c : Ctx) (t : Ty) (lane : Nat) : Reg → Nat
  | .v n => if t.is64 then readV64 c.g c.sp (n.val + 2) lane else readV c.g c.sp (n.val + 1) lane
  | .s _ => 0
/-- A buffered store of the group overlaps a range. -/
def bufferedOver (g : Group) (a n : Nat) : Bool := g.sb.any fun s => s.lanes.any fun l => decide (l.pa < a + n) && decide (a < l.pa + l.data.length)
/-- `atom` (R251): one request a lane, in ascending order, to the service groups of the homes; it follows the group's buffered stores to its words (R213). -/
def atomBody (f : AtomF) (c : Ctx) : Except Stop (Ctx → Done) :=
  orNothing c
    (match placeLanes c .store (4 * f.ty.regs) notVersioned (c.addrs f.a.reg f.off) with
    | .error e => .error e
    | .ok ps =>
      if ps.any fun p => bufferedOver c.g p.pa (4 * f.ty.regs) then .error (.stall .other)
      else .ok fun c =>
        let id := c.d.nextId
        let reqs := ps.map (laneReq c (.atomic f.op f.ty) (fun l => .atom c.gid id l) (fun l => c.rv f.ty l f.c.reg) (fun l => if f.op == .cas then casNew c f.ty l f.c.reg else 0))
        let d := noteBlocks (reqs.foldl (sendAtomic c.P c.g.core) c.d) c.gid (ps.map (·.va))
        .op (dropLines d c.g.core (ps.map fun p => p.pa / 64)) { Op.of .atomic RegWrites.none false with closing := some c.k, parts := ps.length } 0)
/-- `atom` (R251). -/
def execAtom (f : AtomF) (s : State) := runCode (.atom f) f.g s (atomBody f)
/-- The body of a held reduction. -/
def heldRed (opcode align : Nat) (kind : AgKind) (a : Reg) (off : MOff) (x : Ctx → Nat → Nat) (c : Ctx) : Except Stop (Ctx → Done) :=
  orNothing c
    (match placeLanes c .store align notVersioned (c.addrs a off) with
    | .error e => .error e
    | .ok ps => .ok fun c =>
      let reqs := ps.map (laneReq c kind (fun _ => .held c.gid) (x c) (fun _ => 0))
      .act (holdEffect c c.d opcode (((ps.map (·.va)).head?).getD 0) (ps.map (·.va)) (.red reqs)) RegWrites.none false 0)
/-- `red` (R252). -/
def execRed (f : RedMemF) (s : State) := runCode (.red f) f.g s (heldRed 0x71 (4 * f.ty.regs) (.atomic f.op f.ty) f.a.reg f.off fun c l => c.rv f.ty l f.c.reg)
/-- `red.add.cf32` (R253). -/
def execRedAddCf32 (f : RedCfF) (s : State) := runCode (.redAddCf32 f) f.g s (heldRed 0x72 8 .pair f.a.reg f.off fun c l => c.rv .f32 l f.c.reg)

/-! Line locks. -/

/-- The highest line a group holds. -/
def topLine (g : Group) : Option DWord := g.lockVas.foldl (fun b x => match b with | none => some x.2 | some y => if y.toNat < x.2.toNat then some x.2 else some y) none
/-- Writes a lock report record (R264); one that cannot be written is dropped (R454). -/
def lockReport (P : Platform) (d : Device) (g : Group) (line : DWord) (kind hloc hname other : Nat) : Device :=
  match d.job g.job with
  | none => d
  | some j =>
    let va := j.lkring + BitVec.ofNat 64 (32 * (j.lockReports % 2 ^ j.lkcount))
    let bytes := bytesOf 8 line.toNat ++ bytesOf 4 kind ++ bytesOf 4 (locOf P g).toNat ++ bytesOf 4 hloc ++ bytesOf 4 hname ++ bytesOf 8 other
    match jobWrite P d g.job 0 va bytes with
    | some d => (noticeAll d (sigOfAll (blocksOf va 32))).modJob g.job fun j => { j with lockReports := j.lockReports + 1 }
    | none => d
/-- A lock may not lie on a versioned or replicated page (R255). -/
def lockPage (l : Leaf) : Option ExcCode := if l.ver || l.repl then some .pageAttribute else none
/-- The checks of `lk` and `lktry` after their region has closed (R255); `ordered` is for `lk`. The translation asks for W, and bits 63:48 are looked at with it (log 116). -/
def lockPlace (ordered : Bool) (a : Reg) (c : Ctx) : Except Stop Place :=
  let va := globalEa c.g c.sp a (.none false) 0
  if va.toNat % 64 ≠ 0 then .error (.raise { code := .alignment, lane := none, info := va })
  else if 4 ≤ c.g.locks.length then .error (.raise (Exc.of .lockLimit))
  else match (if ordered then topLine c.g else none) with
    | some top => if va.toNat ≤ top.toNat then .error (.report (lockReport c.P c.d c.g va 1 (locOf c.P c.g).toNat c.g.name.toNat top.toNat) (Exc.of .lockOrder)) else wholeGroup (placeLane c .store 64 lockPage 0 va)
    | none => wholeGroup (placeLane c .store 64 lockPage 0 va)
/-- `lk` (R255, R256, R259): the group waits, and its request goes to the bench of the line's home slice. -/
def lkBody (f : LkF) (c : Ctx) : Except Stop (Ctx → Done) :=
  match f.d, lockPlace true f.a.reg c with
  | .s sd, .ok p => .ok fun c =>
    let t := (f.t.getD 0).toNat
    .wait (beginWait c.d c.gid (.lock p.pa p.va sd f.pd c.d.clock .sent) 2 1 (if t = 0 then 0 else c.d.clock + t) p.va c.sp.here)
  | _, .error e => .error e
  | .v _, .ok _ => .error (.raise (Exc.of .illegalInstruction))
/-- `lk` (R255). -/
def execLk (f : LkF) (s : State) := runCode (.lk f) none s (lkBody f)
/-- Locked lines of a bench (R256). -/
def benchLines (s : Slice) : Nat := ((Tbl.vals s.bench).filter fun l => l.holder.isSome).length
/-- Waiters of a bench. -/
def benchWaiters (s : Slice) : Nat := ((Tbl.vals s.bench).map fun l => l.queue.length).sum
/-- Line `a` of a bench. -/
def benchLine (s : Slice) (a : Nat) : LockLine := Tbl.getD s.bench a { holder := none, queue := [], poisoned := false, clock := clockZero }
/-- Writes a line of a bench; a free line without a mark or a clock is not listed. -/
def setBench (s : Slice) (a : Nat) (l : LockLine) : Slice :=
  { s with bench := if l.holder.isNone && l.queue.isEmpty && !l.poisoned && l.clock == clockZero then Tbl.erase s.bench a else Tbl.set s.bench a l }
/-- A group holds a line that has been granted (R257, R263). -/
def takeLock (d : Device) (gid line : Nat) (va : DWord) : Device := d.modGroup gid fun g => { g with locks := g.locks ++ [line], lockVas := g.lockVas ++ [(line, va)] }
/-- Results of a lock instruction (R254). -/
def lockWrites (c : Ctx) (f : LkF) (status : Nat) : RegWrites :=
  (match f.d with | .s sd => scaWrite sd.val status | .v _ => RegWrites.none).append (if f.pd.en then predWrite f.pd.p.val c.sp.mask (if status = 0 then c.sp.mask else 0) else RegWrites.none)
/-- `lktry` (R262): decided at the home at once; it stands behind a release of the line that is on its way. A grant acquires the last holder's release (R217, R218). -/
def lktryBody (f : LkF) (c : Ctx) : Except Stop (Ctx → Done) :=
  match lockPlace false f.a.reg c with
  | .error e => .error e
  | .ok p =>
    let k := homeSlice c.P p.pa
    if (c.d.slice k).releases.any fun r => r.1 == p.pa then .error (.stall .other)
    else .ok fun c =>
      let s := c.d.slice k
      let l := benchLine s p.pa
      if l.holder.isNone && decide (benchLines s < 256) then
        let d := c.d.modSlice k fun s => setBench s p.pa { l with holder := some c.gid, poisoned := false }
        .act (takeLock (acquire (d.mergeClock (c.g.core / 128) l.clock) c.gid) c.gid p.pa p.va) (lockWrites c f (if l.poisoned then 1 else 0)) false 0
      else .act c.d (lockWrites c f 4) false 0
/-- `lktry` (R262). -/
def execLktry (f : LkF) (s : State) := runCode (.lktry f) none s (lktryBody f)
/-- `unlk` (R261). -/
def unlkBody (a : RegOpd) (c : Ctx) : Except Stop (Ctx → Done) :=
  let va := globalEa c.g c.sp a.reg (.none false) 0
  match c.g.lockVas.find? fun x => x.2 == va with
  | some x => if (c.g.effects ++ c.g.handed).any fun e => e.act == .unlk x.1 then .error (.raise (Exc.of .lockState)) else .ok fun c => .act (holdEffect c c.d 0x75 va [] (.unlk x.1)) RegWrites.none false 0
  | none => .error (.raise (Exc.of .lockState))
/-- `unlk` (R261). -/
def execUnlk (a : RegOpd) (s : State) := runCode (.unlk a) none s (unlkBody a)

/-! Fences and the barrier. -/

/-- An instruction that goes on as a release: it closes its region and waits for R211. -/
def releaseOp (scope : Scope) (act : Nat → RelAct) (c : Ctx) : Done :=
  .op (c.d.modGroup c.gid fun g => { g with releases := g.releases ++ [{ scope, posted := false, toArrive := [], toAck := [], act := act c.d.nextId }] }) { Op.of .fence RegWrites.none false with closing := some c.k } 0
/-- An earlier load of the group has not completed. -/
def loadsOut (g : Group) : Bool := g.ops.any fun o => match o.kind with | .load | .verLoad _ | .atomic | .remote _ _ _ | .shape _ => true | _ => false
/-- `fence` (R266): a group-scope acquire waits for the group's earlier loads. -/
def fenceBody (sem : FenceSem) (scope : Scope) (c : Ctx) : Except Stop (Ctx → Done) :=
  if scope == .grp && sem != .rel && loadsOut c.g then .error (.stall .long)
  else .ok fun c => match sem with
    | .acq => .act (if scope == .grp then c.d else acquireFence c.d c.gid) RegWrites.none false 0
    | .rel => releaseOp scope (fun id => .fence id false) c
    | .ar => releaseOp scope (fun id => .fence id (scope != .grp)) c
/-- `fence` (R266). -/
def execFence (sem : FenceSem) (scope : Scope) (s : State) := runCode (.fence sem scope) none s (fenceBody sem scope)
/-- A barrier arrival as a team-scope release, unless the group has more than one live split (R268 to R271). -/
def arriveBody (n : Ctx → Nat) (waits : Bool) (c : Ctx) : Except Stop (Ctx → Done) :=
  if 1 < (liveSplits c.g).length then .error (.raise (Exc.of .divergentBarrier)) else .ok fun c => releaseOp .team (fun id => .arrive id (n c) waits) c
/-- `bar` (R268). -/
def execBar (s : State) := runCode .bar none s (arriveBody (fun _ => 1) true)
/-- `bar.wait` (R268). -/
def execBarWait (s : State) := runCode .barWait none s (arriveBody (fun _ => 0) true)
/-- `arrive.n` (R269). -/
def execArriveN (n : MOff) (s : State) := runCode (.arriveN n) none s (arriveBody (fun c => mOff32 c.g c.sp 0 n) true)
/-- `arrive.n.nw` (R269). -/
def execArriveNNw (n : MOff) (s : State) := runCode (.arriveNNw n) none s (arriveBody (fun c => mOff32 c.g c.sp 0 n) false)

/-! Counters and task drawers. -/

/-- `wait.ctr` (R272, R273): the request joins the queue of the service group of the word's home, and the group waits. -/
def waitCtrBody (sd : SReg) (a v : RegOpd) (t : Option Word) (c : Ctx) : Except Stop (Ctx → Done) :=
  match wholeGroup (placeLane c .load 8 notVersioned 0 (globalEa c.g c.sp a.reg (.none false) 0)) with
  | .error e => .error e
  | .ok p => .ok fun c =>
    let n := (t.getD 0).toNat
    let target := BitVec.ofNat 64 (c.rv .b64 0 v.reg)
    let r : AgReq := { kind := .watch target, pa := p.pa, va := p.va, job := c.g.job, x := 0, xn := 0, source := .waiter c.gid, park := none }
    .wait (sendAtomic c.P c.g.core (beginWait c.d c.gid (.counter p.pa sd) 7 1 (if n = 0 then 0 else c.d.clock + n) p.va c.sp.here) r)
/-- `wait.ctr` (R272). -/
def execWaitCtr (d : SReg) (a c : RegOpd) (t : Option Word) (s : State) := runCode (.waitCtr d a c t) none s (waitCtrBody d a c t)
/-- `post` (R274): reserves the lowest free pool drawer, and holds its going live. -/
def postBody (d : SReg) (a v : RegOpd) (n : MOff) (_ : Ctx) : Except Stop (Ctx → Done) :=
  .ok fun c => match c.d.poolDrawer c.g.core with
    | none => .act c.d (scaWrite d.val 0) false 0
    | some i =>
      let x := { Drawer.free (c.d.drawer c.g.core i).gen with kind := 2, count := BitVec.ofNat 32 (mOff32 c.g c.sp 0 n), team := c.g.team, ownerBlock := c.g.block, entry := BitVec.ofNat 64 (c.rv .b64 0 a.reg), arg := BitVec.ofNat 64 (c.rv .b64 0 v.reg), reserved := true }
      let h := handleOf c.g.core i x.gen
      .act (holdEffect c (c.d.setDrawer c.g.core i x) 0x7A (h.zeroExtend 64) [] (.post c.g.core i)) (scaWrite d.val h.toNat) false 0
/-- `post` (R274). -/
def execPost (d : SReg) (a c : RegOpd) (n : MOff) (s : State) := runCode (.post d a c n) none s (postBody d a c n)
/-- `dcnt` (R276): a scalar handle gives one decrement, a vector one for each active lane. -/
def dcntBody (a : RegOpd) (n : MOff) (c : Ctx) : Except Stop (Ctx → Done) :=
  orNothing c (.ok fun c =>
    let ls := match a.reg with | .v _ => lanesOf c.lanes | .s _ => (lanesOf c.lanes).take 1
    let ds : List (Word × Word) := ls.map fun l => (BitVec.ofNat 32 (c.rv .b32 l a.reg), BitVec.ofNat 32 (mOff32 c.g c.sp l n))
    .act (holdEffect c c.d 0x7B ((ds.headD (0, 0)).1.zeroExtend 64) [] (.dcnt ds)) RegWrites.none false 0)
/-- `dcnt` (R276). -/
def execDcnt (g : Option Guard) (a : RegOpd) (n : MOff) (s : State) := runCode (.dcnt g a n) g s (dcntBody a n)

end Sys2Proof.Machine
end

