-- ==== Sys2Proof/Machine/Remote.lean ====
section
/-! DEFINITION. Row 0x8_: remote accesses (R277 to R281), names (R282, R283), holds and `rst` (R284, R285). -/

namespace Sys2Proof.Machine
open Sys2Proof

/-- The addresses of a remote instruction: field b is a vector pair or a scalar (R277). -/
def remoteAddr (c : Ctx) (off : MOff) (lane : Nat) : DWord :=
  match off with
  | .vec r _ => BitVec.ofNat 64 (readV64 c.g c.sp r.val lane)
  | .sc r _ => BitVec.ofNat 64 (readS c.g c.sp r.val)
  | _ => 0
/-- The peer of a lane. -/
def remotePeer (c : Ctx) (a : Reg) (lane : Nat) : Nat := c.rv .b32 lane a
/-- The checks of the active lanes in turn: address, alignment, peer range (R237, R277). -/
def remoteCheck (c : Ctx) (a : Reg) (off : MOff) (n : Nat) : List Nat → Option Exc
  | [] => none
  | l :: t =>
    let va := remoteAddr c off l
    if va.toNat / 2 ^ 48 ≠ 0 then some (Exc.at_ .address l va)
    else if va.toNat % n ≠ 0 then some (Exc.at_ .alignment l va)
    else if 512 ≤ remotePeer c a l then some (Exc.at_ .peerRange l va)
    else remoteCheck c a off n t
/-- The lanes of one peer, with their data (R278). -/
def lanesFor (c : Ctx) (a : Reg) (off : MOff) (n : Nat) (x xn : Nat → Nat) (peer : Nat) : List RemoteLane :=
  ((lanesOf c.lanes).filter fun l => remotePeer c a l == peer).map fun l => { lane := l, addr := remoteAddr c off l, bytes := n, data := BitVec.ofNat 64 (x l), data2 := BitVec.ofNat 64 (xn l) }
/-- The lowest peer that the active lanes name. -/
def firstPeer (c : Ctx) (a : Reg) : Nat := (peersOf c a).headD 0
/-- A returning access: it issues for the lanes of the lowest peer; where other peers are named it issues again for the other lanes, each issue counting on the clause's flag (R107, R278). -/
def remoteFetch (a : Reg) (off : MOff) (n : Nat) (kind : RemoteKind) (dest : Reg) (pn : Option Nat) (closes : Bool) (x xn : Ctx → Nat → Nat) (c : Ctx) : Except Stop (Ctx → Done) :=
  orNothing c
    (match remoteCheck c a off n (lanesOf c.lanes) with
    | some e => .error (.raise e)
    | none => .ok fun c =>
      let p := firstPeer c a
      let r : OutReq := { seq := c.d.nextId, origin := .op c.gid c.d.nextId, job := c.g.job, kind := some kind, lanes := lanesFor c a off n (x c) (xn c) p, rst := none, issued := 0 }
      let d := sendRequest c.P c.d p r
      let o := { Op.of (.remote pn dest n) RegWrites.none false with closing := if closes then some c.k else none }
      let rest := maskWhere c.lanes fun l => remotePeer c a l != p
      if rest = 0 then .op d o 0 else .part d o rest)
/-- A held access: one entry of the effect buffer for each distinct peer, ascending (R278). -/
def remoteHeld (opcode : Nat) (a : Reg) (off : MOff) (n : Nat) (kind : RemoteKind) (x xn : Ctx → Nat → Nat) (c : Ctx) : Except Stop (Ctx → Done) :=
  orNothing c
    (match remoteCheck c a off n (lanesOf c.lanes) with
    | some e => .error (.raise e)
    | none => .ok fun c =>
      let d := (peersOf c a).foldl (fun (d : Device) p =>
        let ls := lanesFor c a off n (x c) (xn c) p
        holdEffect { c with lanes := maskOf (ls.map (·.lane)) } d opcode (((ls.map (·.addr)).head?).getD 0) [] (.remote p kind ls)) c.d
      .act d RegWrites.none false 0)
/-- No data. -/
def noData (_ : Ctx) (_ : Nat) : Nat := 0
/-- The low 64 bits of a data operand. -/
def dataLow (z : Size) (r : Reg) (c : Ctx) (l : Nat) : Nat := natOf ((dataBytes c z l r).take 8)
/-- The high 64 bits of a data operand. -/
def dataHigh (z : Size) (r : Reg) (c : Ctx) (l : Nat) : Nat := natOf ((dataBytes c z l r).drop 8)
/-- `ra.ld` (R277, R280). -/
def execRaLd (f : RaLdF) (s : State) := runCode (.raLd f) f.g s (remoteFetch f.a.reg f.off f.size.bytes .load f.d (if f.pn.en then some f.pn.p.val else none) false noData noData)
/-- `ra.st` (R277). -/
def execRaSt (f : StF) (s : State) := runCode (.raSt f) f.g s (remoteHeld 0x81 f.a.reg f.off f.size.bytes .store (dataLow f.size f.c.reg) (dataHigh f.size f.c.reg))
/-- `ra.atom` with return (R277). -/
def execRaAtom (f : AtomF) (s : State) := runCode (.raAtom f) f.g s (remoteFetch f.a.reg f.off (4 * f.ty.regs) (.atomRet f.op.num f.ty.code.toNat) f.d none true (fun c l => c.rv f.ty l f.c.reg) (fun c l => if f.op == .cas then casNew c f.ty l f.c.reg else 0))
/-- `ra.red`, the `ra.atom` without return (R239, R277). -/
def execRaRed (f : RedMemF) (s : State) := runCode (.raRed f) f.g s (remoteHeld 0x82 f.a.reg f.off (4 * f.ty.regs) (.atomNoRet f.op.num f.ty.code.toNat) (fun c l => c.rv f.ty l f.c.reg) noData)

/-! Names, holds, `rst`. -/

/-- The lowest free index of the name table (R283). -/
def freeName (d : Device) : Option Nat :=
  let free (i : Nat) : Bool := ((Tbl.find d.names i).map fun e => e.holder.isNone).getD true
  ((List.range (d.names.length + 1)).map (· + 1)).find? fun i => free i && decide (i < 2 ^ 15)
/-- `name.get` (R283). -/
def nameGetDone (sd : SReg) (c : Ctx) : Done :=
  if c.g.name ≠ 0 then .act c.d (scaWrite sd.val c.g.name.toNat) false 0
  else match freeName c.d with
    | none => .act c.d (scaWrite sd.val 0) false 0
    | some i =>
      let gen := ((Tbl.find c.d.names i).map (·.gen)).getD 0
      let name : Word := BitVec.ofNat 32 (c.P.own * 2 ^ 23 + i * 2 ^ 8 + gen.toNat)
      .act ({ c.d with names := Tbl.set c.d.names i { gen, holder := some c.gid, exited := false } }.modGroup c.gid fun g => { g with name }) (scaWrite sd.val name.toNat) false 0
/-- `name.get` (R283). -/
def execNameGet (d : SReg) (s : State) := runCode (.nameGet d) none s fun _ => .ok (nameGetDone d)
/-- `name.free` (R283): freeing an entry increments its generation (R282). -/
def nameFreeDone (c : Ctx) : Done :=
  if c.g.name = 0 then .act c.d RegWrites.none false 0
  else .act ({ c.d with names := Tbl.modify (fun (e : NameEntry) => { gen := e.gen + 1, holder := none, exited := false }) c.d.names (c.g.name.toNat / 256 % 2 ^ 15) }.modGroup c.gid fun g => { g with name := 0 }) RegWrites.none false 0
/-- `name.free` (R283). -/
def execNameFree (s : State) := runCode .nameFree none s fun _ => .ok nameFreeDone
/-- The entry of a register in a hold table. -/
def holdOf (hs : List Hold) (r : Nat) : Option Hold := hs.find? fun h => h.reg == r
/-- A hold table with the entry of a register set; a count of 0 frees it (R284). -/
def setHold (hs : List Hold) (r : Nat) (c : Int) : List Hold :=
  let rest := hs.filter fun h => h.reg != r
  if c = 0 then rest else rest ++ [{ reg := r, count := c }]
/-- `hold` (R284): the hold table, or none where the hold-limit trap is raised. -/
def holdTable (hs : List Hold) (r : Nat) (n : Int) : Option (List Hold) :=
  match holdOf hs r with
  | some h => some (setHold hs r (h.count + n))
  | none => if n ≤ 0 then some hs else if hs.length < 4 then some (setHold hs r n) else none
/-- `hold` (R284). -/
def holdBody (vr : VReg) (n : MOff) (c : Ctx) : Except Stop (Ctx → Done) :=
  if unheldReg c.g vr.val then .error (.raise (Exc.of .unheldRegister))
  else match holdTable c.g.holds vr.val (sext 32 (mOff32 c.g c.sp 0 n)) with
    | none => .error (.raise (Exc.of .holdLimit))
    | some hs => .ok fun c => .act (c.d.modGroup c.gid fun g => { g with holds := hs }) RegWrites.none false 0
/-- `hold` (R284). -/
def execHold (vr : VReg) (n : MOff) (s : State) := runCode (.hold vr n) none s (holdBody vr n)
/-- `rst` (R285): held, with the sender's lanes and values. -/
def rstBody (a : RegOpd) (vt : VReg) (b : MOff) (c : Ctx) : Except Stop (Ctx → Done) :=
  orNothing c (.ok fun c =>
    let name : Word := BitVec.ofNat 32 (c.rv .b32 0 a.reg)
    .act (holdEffect c c.d 0x83 (name.zeroExtend 64) [] (.rst name vt.val c.lanes ((List.range 32).map fun l => BitVec.ofNat 32 (mOff32 c.g c.sp l b)))) RegWrites.none false 0)
/-- `rst` (R285). -/
def execRst (g : Option Guard) (a : RegOpd) (vt : VReg) (b : MOff) (s : State) := runCode (.rst g a vt b) g s (rstBody a vt b)

end Sys2Proof.Machine
end

