-- ==== Sys2Proof/Machine/Matrix.lean ====
section
/-! DEFINITION. Row 0xA_: accumulator tiles and `mma` (R290 to R307), shape records and ragged reductions (R308 to R315). -/

namespace Sys2Proof

/-- Format of operand A (R297). -/
def MmaPair.fa : MmaPair → Ty
  | .bf16 => .bf16 | .f16 => .f16 | .e4e4 => .e4m3 | .e4e5 => .e4m3 | .e5e4 => .e5m2 | .e5e5 => .e5m2 | .e2e2 => .e2m1
/-- Format of operand B (R297). -/
def MmaPair.fb : MmaPair → Ty
  | .bf16 => .bf16 | .f16 => .f16 | .e4e4 => .e4m3 | .e4e5 => .e5m2 | .e5e4 => .e4m3 | .e5e5 => .e5m2 | .e2e2 => .e2m1

end Sys2Proof

namespace Sys2Proof.Machine
open Sys2Proof

/-! Ranges of global memory as a unit of the core reads and writes them, line by line. -/

/-- The parts of `n` bytes at an address, cut at lines of 64 bytes. -/
def chunks (va : DWord) (n : Nat) : List (DWord × Nat) :=
  let a := va.toNat
  (List.range ((a % 64 + n + 63) / 64)).map fun i =>
    let lo := max a (64 * (a / 64 + i))
    (BitVec.ofNat 64 lo, min (a + n) (64 * (a / 64 + i + 1)) - lo)
/-- A range an instruction touches: the lane it belongs to, if any, its address and its length. -/
structure Span where
  lane : Option Nat
  va : DWord
  len : Nat
  deriving Repr, Inhabited
/-- The parts of ranges, with their lanes. -/
def spanChunks (ss : List Span) : List Span := ss.flatMap fun s => (chunks s.va s.len).map fun c => { lane := s.lane, va := c.1, len := c.2 }
/-- Checks of a part, naming the range's lane (R237). -/
def placeSpan (c : Ctx) (acc : Access) (own : Leaf → Option ExcCode) (s : Span) : Except Stop Place :=
  match placeLane c acc 1 own (s.lane.getD 0) s.va with
  | .error (.raise e) => .error (.raise { e with lane := s.lane })
  | .error (.miss _ va acc) => .error (.miss s.lane va acc)
  | r => r
/-- The checks of parts in turn. -/
def checkSpans (c : Ctx) (acc : Access) (own : Leaf → Option ExcCode) : List Span → Except Stop (List (Span × Place))
  | [] => .ok []
  | s :: t => match placeSpan c acc own s with
    | .error e => .error e
    | .ok p => match checkSpans c acc own t with
      | .error e => .error e
      | .ok ps => .ok ((s, p) :: ps)
/-- Checks of ranges in ascending address order (R291 item 5). -/
def checkRanges (c : Ctx) (acc : Access) (own : Leaf → Option ExcCode) (ss : List Span) : Except Stop (List (Span × Place)) :=
  checkSpans c acc own (sortBy (fun x y => decide (x.va.toNat ≤ y.va.toNat)) (spanChunks ss))
/-- The parts wait for a sent store or a reduction of the group that they overlap (R207, R216). -/
def spansWait (c : Ctx) (ps : List (Span × Place)) : Option Stall :=
  if ps.any fun p => overlapsSent c.g p.2.pa p.1.len then some .long else if ps.any fun p => pendingRed c.d c.g p.2.pa p.1.len then some .other else none
/-- A part's bytes as a `.thru` load reads them (R206). -/
def thruPart (c : Ctx) (d : Device) (p : Span × Place) : Option (List Byte × Device) :=
  match lineFor c .thru p.2 d with
  | none => none
  | some (bytes, _, d) =>
    let bs := (bytes.drop (p.2.pa % 64)).take p.1.len
    some (((List.range bs.length).zip bs).map fun e => (bufferedByte c.g.sb (p.2.pa + e.1)).getD e.2, d)
/-- The parts' bytes by address, and the device after the reads; none while one has to wait (R218). -/
def thruParts (c : Ctx) : List (Span × Place) → Device → Option (List (Nat × List Byte) × Device)
  | [], d => some ([], d)
  | p :: t, d => match thruPart c d p with
    | none => none
    | some (bs, d) => match thruParts c t d with
      | none => none
      | some (r, d) => some ((p.1.va.toNat, bs) :: r, d)
/-- The bytes of a range out of the parts that were read. -/
def gather (parts : List (Nat × List Byte)) (va : DWord) (n : Nat) : List Byte :=
  (chunks va n).flatMap fun c => ((parts.find? fun p => decide (p.1 = c.1.toNat) && decide (c.2 ≤ p.2.length)).map fun p => p.2.take c.2).getD []

/-! Tiles. -/

/-- Tile `t` of a core. -/
def tileOf (d : Device) (core t : Nat) : Tile := Tbl.getD (d.core core).tiles t { owner := none, job := none, cells := [] }
/-- Element (i, j) of a tile of the group's core. -/
def Ctx.acc (c : Ctx) (t : TileNo) (i j : Nat) : Nat := (Cells.get 0 (tileOf c.d c.g.core t.val).cells (32 * i + j)).toNat
/-- The group has a tile reserved (R296). -/
def ownsTile (c : Ctx) (t : TileNo) : Bool := (tileOf c.d c.g.core t.val).owner == some c.gid
/-- The unreserved-tile trap comes first (R291). -/
def withTile (c : Ctx) (t : TileNo) (r : Except Stop (Ctx → Done)) : Except Stop (Ctx → Done) :=
  if ownsTile c t then r else .error (.raise (Exc.of .unreservedTile))
/-- Elements of a tile to be written. -/
def tileCells (t : TileNo) (rows cols : List Nat) (f : Nat → Nat → Option Nat) : List (Nat × Nat × Word) :=
  rows.flatMap fun i => cols.filterMap fun j => (f i j).map fun v => (t.val, 32 * i + j, BitVec.ofNat 32 v)
/-- The 32 columns. -/
def allCols : List Nat := List.range 32

/-- `mres` (R294). -/
def mresDone (pd : PReg) (m : SL) (c : Ctx) : Done :=
  let mask := slVal c.g c.sp m % 2 ^ 16
  let ts := (List.range 16).filter fun t => mask.testBit t
  let free := ts.all fun t => match (tileOf c.d c.g.core t).owner with | none => true | some o => o == c.gid
  let take (d : Device) (t : Nat) : Device := d.modCore c.g.core fun k =>
    let x := tileOf c.d c.g.core t
    { k with tiles := Tbl.set k.tiles t { owner := some c.gid, job := some c.g.job, cells := if x.job = some c.g.job then x.cells else [] } }
  .act (if free then ts.foldl take c.d else c.d) (predWrite pd.val c.sp.mask (if free then c.sp.mask else 0)) false 0
/-- `mres` (R294). -/
def execMres (pd : PReg) (m : SL) (s : State) := runCode (.mres pd m) none s fun _ => .ok (mresDone pd m)
/-- `mrel` (R295): waits until no outstanding operation of the group reads or writes a tile it releases. -/
def mrelBody (m : SL) (c : Ctx) : Except Stop (Ctx → Done) :=
  let mask := slVal c.g c.sp m % 2 ^ 16
  let ts := (List.range 16).filter fun t => mask.testBit t && (tileOf c.d c.g.core t).owner == some c.gid
  if c.g.ops.any fun o => (o.tiles ++ o.tileReads).any ts.contains then .error (.stall .long)
  else .ok fun c => .act (c.d.modCore c.g.core fun k => { k with tiles := k.tiles.map fun e => if ts.contains e.1 then (e.1, { e.2 with owner := none }) else e }) RegWrites.none false 0
/-- `mrel` (R295). -/
def execMrel (m : SL) (s : State) := runCode (.mrel m) none s (mrelBody m)

/-! `mma`. -/

/-- Element `k` of packed operand bytes (R299). -/
def packedElem (t : Ty) (bs : List Byte) (k : Nat) : Val :=
  match t with
  | .e2m1 => valOf t ((bs.getD (k / 2) 0).toNat / 2 ^ (4 * (k % 2)) % 16)
  | .bf16 | .f16 => valOf t ((bs.getD (2 * k) 0).toNat + 256 * (bs.getD (2 * k + 1) 0).toNat)
  | _ => valOf t (bs.getD k 0).toNat
/-- An element under its block's scale byte (R95). -/
def scaledElem (v : Val) (c : Nat) : Val := if c = 0xFF then .nan else scaleVal v ((c : Int) - 127)
/-- Bytes of `k` elements (R299). -/
def elemBytes (t : Ty) (k : Nat) : Nat := match t with | .e2m1 => (k + 1) / 2 | .bf16 | .f16 => 2 * k | _ => k
/-- Scale bytes of `k` elements, none without `.bs`. -/
def scaleBytes (bs : Bool) (k : Nat) : Nat := if bs then (k + 31) / 32 else 0
/-- An operand row or column: its elements, then its scales (R299). -/
def operandElem (t : Ty) (bs : Bool) (kk : Nat) (data : List Byte) (k : Nat) : Val :=
  let v := packedElem t data k
  if bs then scaledElem v (data.getD (elemBytes t kk + k / 32) 0).toNat else v
/-- The exact sum of one block of 32 products; the last block is completed with zeros (R97), positive ones (log 93). -/
def blockSum (a b : Nat → Val) (kk kb : Nat) : Val :=
  (List.range 32).foldl (fun s k =>
    let p : Val := if kb + k < kk then (a (kb + k)).mul (b (kb + k)) else .zero false
    match s with
    | none => some p
    | some s => some (s.add .rne p)) none |>.getD (.zero false)
/-- An accumulator element over K products, with one rounding for each block (R97). -/
def dot (a b : Nat → Val) (kk : Nat) (acc : Nat) : Nat :=
  (List.range ((kk + 31) / 32)).foldl (fun x i => rne32 ((v32 x).add .rne (blockSum a b kk (32 * i)))) acc
/-- The fields of an `mma`'s operands (R298). -/
structure MmaArgs where
  k : Nat
  pa : Nat
  pb : Nat
  row0 : Nat
  col0 : Nat
  sa : Nat
  sb : Nat
  deriving Repr, Inhabited
/-- Reads the descriptor and the bases (R298). -/
def mmaArgs (f : MmaF) (c : Ctx) : MmaArgs :=
  let lo := readS c.g c.sp f.desc.val
  let hi := readS c.g c.sp (f.desc.val + 1)
  let a := readS c.g c.sp f.a.val
  { k := lo % 2 ^ 16, pa := lo / 2 ^ 16 % 2 ^ 24, pb := lo / 2 ^ 40, row0 := hi % 2 ^ 32, col0 := hi / 2 ^ 32, sa := if f.wa then a % 2 ^ 32 else a, sb := readS c.g c.sp f.b.val }
/-- Rows with in(i) (R300). -/
def mmaRows (c : Ctx) (m : MmaArgs) (s : Option Snapshot) : List Nat := (lanesOf c.lanes).filter fun i => match s with | some s => decide (m.row0 + i < s.rows) | none => true
/-- Columns with col(j) (R300). -/
def mmaCols (m : MmaArgs) (s : Option Snapshot) : List Nat := allCols.filter fun j => match s with | some s => decide (m.col0 + j < s.rows) | none => true
/-- Rows and columns lie in more than one sequence (R300 `.one`). -/
def mmaCrosses (m : MmaArgs) (s : Option Snapshot) (rows cols : List Nat) : Bool := match s with
  | some s => s.crosses (rows.map (m.row0 + ·) ++ cols.map (m.col0 + ·))
  | none => false
/-- Ranges of an operand's lines: elements, then scales under `.bs` (R299). -/
def operandSpans (bs : Bool) (t : Ty) (base pitch kk : Nat) (lane : Nat → Option Nat) (is : List Nat) : List Span :=
  is.flatMap fun i =>
    { lane := lane i, va := BitVec.ofNat 64 (base + i * pitch), len := elemBytes t kk } ::
    (if bs then [{ lane := lane i, va := BitVec.ofNat 64 (base + 32 * pitch + i * scaleBytes bs kk), len := scaleBytes bs kk }] else [])
/-- The code of the format pair, with `.bs`. -/
def mmaSub (f : MmaF) : Nat := f.pair.num + (if f.bs then 6 else 0)
/-- The shelf's copy serves B (R302). -/
def shelfServes (f : MmaF) (c : Ctx) (m : MmaArgs) (cols : List Nat) : Option Shelf :=
  match (c.d.core c.g.core).shelf with
  | some x => if f.rb && x.group == c.gid && x.sb.toNat == m.sb && x.pb == m.pb && x.k == m.k && x.sub == mmaSub f && cols.all x.cols.contains then some x else none
  | none => none
/-- A window range read by the tile fetch unit: its bound, in ascending address order, and the range scoreboard (R204, R291, R298, R354). -/
def windowSpans (c : Ctx) (store : Bool) (ss : List Span) : Option Stop :=
  match (sortBy (fun x y => decide (x.va.toNat ≤ y.va.toNat)) (spanChunks ss)).find? fun s => decide (c.team.windowSize < s.va.toNat + s.len) with
  | some s => some (.raise { code := .windowBound, lane := s.lane, info := s.va })
  | none => if ss.any fun s => windowBusy c store s.va.toNat s.len then some (.stall .other) else none
/-- Window ranges as the range table has them: start and end (R354). -/
def spanRanges (ss : List Span) : List (Nat × Nat) := ss.map fun s => (s.va.toNat, s.va.toNat + s.len)
/-- The bytes of one operand row or column from the window or the parts read. -/
def operandBytes (c : Ctx) (window : Bool) (parts : List (Nat × List Byte)) (ss : List Span) : List Byte :=
  ss.flatMap fun s => if window then windowBytes c.team s.va.toNat s.len else gather parts s.va s.len
/-- The new value of an element, none where it keeps its own (R300). -/
def mmaElem (f : MmaF) (c : Ctx) (m : MmaArgs) (s : Option Snapshot) (a b : Nat → List Byte) (i j : Nat) : Option Nat :=
  let apart := match s with | some s => s.seq (m.row0 + i) != s.seq (m.col0 + j) | none => false
  if apart then (if f.ninf then some 0xFF800000 else none)
  else some (dot (operandElem f.pair.fa f.bs m.k (a i)) (operandElem f.pair.fb f.bs m.k (b j)) m.k (c.acc f.tile i j))
/-- The checks of an `mma` before its addresses (R298, R300). -/
def mmaFault (f : MmaF) (m : MmaArgs) : Option Exc :=
  if m.k = 0 || decide (8192 < m.k) || m.pa % 16 != 0 || m.pb % 16 != 0 then some (Exc.of .matrixDescriptor)
  else if m.sa % 16 ≠ 0 then some { code := .alignment, lane := none, info := BitVec.ofNat 64 m.sa }
  else if m.sb % 16 ≠ 0 then some { code := .alignment, lane := none, info := BitVec.ofNat 64 m.sb }
  else if f.one && f.shape.isNone then some (Exc.of .illegalInstruction) else none
/-- The shape register an `mma` names. -/
def mmaShape (f : MmaF) (c : Ctx) : Except Stop (Option Snapshot) :=
  match f.shape with
  | none => .ok none
  | some n => match c.shape n with
    | .ok s => .ok (some s)
    | .error e => .error e
/-- What an `mma` has read (R298 to R302): the rows and columns it computes, the bytes of its operands' rows and columns, the lane of the first poisoned part, and the device after the reads. -/
structure MmaIn where
  rows : List Nat
  cols : List Nat
  a : List (Nat × List Byte)
  b : List (Nat × List Byte)
  bad : Option (Option Nat)
  d : Device
  deriving Repr, Inhabited
/-- The lane of the first poisoned part of an `mma`'s operands (R298, R425). -/
def mmaBad (c : Ctx) (window : Bool) (aParts : List Span) (d : Device) (ps : List (Span × Place)) : Option (Option Nat) :=
  match ps.find? fun p => d.linePoisoned p.2.pa with
  | some p => some p.1.lane
  | none => if window then (aParts.find? fun s => windowBad c.team s.va.toNat s.len).map (·.lane) else none
/-- The checks of an `mma`'s operands, and their reading at its issue (R298 to R302, log 18). -/
def mmaFetch (f : MmaF) (c : Ctx) (m : MmaArgs) (s : Option Snapshot) : Except Stop MmaIn :=
  let rows := mmaRows c m s
  let cols := mmaCols m s
  let aSpans (i : Nat) : List Span := operandSpans f.bs f.pair.fa m.sa m.pa m.k some [i]
  let bSpans (j : Nat) : List Span := operandSpans f.bs f.pair.fb m.sb m.pb m.k (fun _ => none) [j]
  let shelf := shelfServes f c m cols
  if f.one && mmaCrosses m s rows cols then .error (.raise (Exc.of .boundaryCrossing))
  else match (if f.wa then windowSpans c false (rows.flatMap aSpans) else none) with
  | some e => .error e
  | none => match checkRanges c .load (fun _ => none) ((if f.wa then [] else rows.flatMap aSpans) ++ (if shelf.isSome then [] else cols.flatMap bSpans)) with
    | .error e => .error e
    | .ok ps => match spansWait c ps, thruParts c ps c.d with
      | some w, _ => .error (.stall w)
      | none, none => .error (.stall .other)
      | none, some (parts, d) =>
        let b (j : Nat) : List Byte := match shelf with
          | some x => (Tbl.find x.bytes j).getD []
          | none => operandBytes c false parts (bSpans j)
        .ok { rows, cols, a := rows.map fun i => (i, operandBytes c f.wa parts (aSpans i)), b := cols.map fun j => (j, b j), bad := mmaBad c f.wa (rows.flatMap aSpans) d ps, d }
/-- The shelf after an `mma`: its B operand where that fits and is whole (R302). -/
def mmaShelf (f : MmaF) (c : Ctx) (m : MmaArgs) (x : MmaIn) : Device :=
  let keep := decide (32 * (elemBytes f.pair.fb m.k + scaleBytes f.bs m.k) ≤ 32768) && x.bad.isNone
  x.d.modCore c.g.core fun k => { k with shelf := if keep then some { group := c.gid, sb := BitVec.ofNat 64 m.sb, pb := m.pb, k := m.k, sub := mmaSub f, cols := x.cols, bytes := x.b } else dropShelf c.gid k.shelf }
/-- The operation of an `mma`: the elements of its rows and columns; a poisoned operand raises its fault and writes none (R97, R300, R303). -/
def mmaOp (f : MmaF) (c : Ctx) (m : MmaArgs) (s : Option Snapshot) (x : MmaIn) : Op :=
  let ws := match x.bad with
    | some _ => []
    | none => tileCells f.tile x.rows x.cols (mmaElem f c m s (fun i => (Tbl.find x.a i).getD []) fun j => (Tbl.find x.b j).getD [])
  { Op.of .matrix RegWrites.none false with tiles := [f.tile.val], win := if f.wa then spanRanges (x.rows.flatMap fun i => operandSpans f.bs f.pair.fa m.sa m.pa m.k some [i]) else [], tileWrites := ws, exc := x.bad.map fun l => { code := .poisonedData, lane := l, info := 0 } }
/-- `mma` (R97, R300 to R303). -/
def mmaBody (f : MmaF) (c : Ctx) : Except Stop (Ctx → Done) :=
  withTile c f.tile
    (match mmaShape f c with
    | .error e => .error e
    | .ok s =>
      let m := mmaArgs f c
      match mmaFault f m with
      | some e => .error (.raise e)
      | none =>
        if c.lanes = 0 then .ok fun c => .act c.d RegWrites.none false 0
        else match mmaFetch f c m s with
          | .error e => .error e
          | .ok x => .ok fun c => .op (mmaShelf f c m x) (mmaOp f c m s x) 0)
/-- `mma` (R300). -/
def execMma (f : MmaF) (s : State) := runCode (.mma f) f.g s (mmaBody f)

/-! Rows of a tile to and from memory (R304). -/

/-- Bytes of an element in memory. -/
def accBytes (t : Ty) : Nat := if t == .f32 then 4 else 2
/-- The rows of the active lanes. -/
def accSpans (f : AccMemF) (c : Ctx) : List Span :=
  let b := readS c.g c.sp f.base.val
  let base := if f.sp then b % 2 ^ 32 else b
  let pitch := slVal c.g c.sp f.pitch
  (lanesOf c.lanes).map fun i => { lane := some i, va := BitVec.ofNat 64 (base + i * pitch), len := 32 * accBytes f.ty }
/-- The base and the pitch must be multiples of 16 (R304). -/
def accMisaligned (f : AccMemF) (c : Ctx) : Bool := readS c.g c.sp f.base.val % 16 != 0 || slVal c.g c.sp f.pitch % 16 != 0
/-- The alignment fault of `acc.ld` and `acc.st`. -/
def accFault (f : AccMemF) (c : Ctx) : Stop := .raise { code := .alignment, lane := none, info := BitVec.ofNat 64 (readS c.g c.sp f.base.val) }
/-- An element of memory as f32 bits: the exact conversion (R304). -/
def accWiden (t : Ty) (x : Nat) : Nat := if t == .f32 then x else rne32 (valOf t x)
/-- Elements of a row out of its bytes. -/
def accRow (t : Ty) (bs : List Byte) (j : Nat) : Nat := accWiden t (natOf ((bs.drop (j * accBytes t)).take (accBytes t)))
/-- An `acc.ld` of rows whose bytes are known. -/
def accLoadOp (f : AccMemF) (c : Ctx) (win : List (Nat × Nat)) (bytes : Nat → List Byte) (bad : Option Exc) : Op :=
  let ws := match bad with | some _ => [] | none => tileCells f.tile (lanesOf c.lanes) allCols fun i j => some (accRow f.ty (bytes i) j)
  { Op.of .load RegWrites.none false with tiles := [f.tile.val], win, tileWrites := ws, exc := bad }
/-- `acc.ld` (R304). -/
def accLdBody (f : AccMemF) (c : Ctx) : Except Stop (Ctx → Done) :=
  withTile c f.tile
    (if accMisaligned f c then .error (accFault f c)
    else orNothing c
      (let ss := accSpans f c
      let at_ (i : Nat) : Span := (ss.find? fun s => s.lane == some i).getD default
      if f.sp then
        match windowSpans c false ss with
        | some e => .error e
        | none => .ok fun c => .op c.d (accLoadOp f c (spanRanges ss) (fun i => windowBytes c.team (at_ i).va.toNat (at_ i).len) ((ss.find? fun s => windowBad c.team s.va.toNat s.len).map fun s => { code := .poisonedData, lane := s.lane, info := s.va })) 0
      else match checkRanges c .load (fun _ => none) ss with
        | .error e => .error e
        | .ok ps => match spansWait c ps, thruParts c ps c.d with
          | some w, _ => .error (.stall w)
          | none, none => .error (.stall .other)
          | none, some (parts, d) => .ok fun c => .op d (accLoadOp f c [] (fun i => gather parts (at_ i).va (at_ i).len) ((ps.find? fun p => d.anyPoison p.2.pa p.1.len).map fun p => { code := .poisonedData, lane := p.1.lane, info := p.1.va })) 0))
/-- `acc.ld` (R304). -/
def execAccLd (f : AccMemF) (s : State) := runCode (.accLd f) f.g s (accLdBody f)
/-- A row of a tile as bytes in memory: f32 bits unchanged, other formats rounded (R304). -/
def accStored (f : AccMemF) (c : Ctx) (i : Nat) : List Byte :=
  allCols.flatMap fun j =>
    let x := c.acc f.tile i j
    bytesOf (accBytes f.ty) (if f.ty == .f32 then x else fround (fmtOf f.ty) f.rnd f.sat false (c.rb i j) (v32 x))
/-- Counter values an `acc.st` takes (R93, R304). -/
def accUse (f : AccMemF) : Nat := if f.rnd == .rsd then 8 else 0
/-- `acc.st` (R304): one store instruction of R207, each row cut at its lines. -/
def accStBody (f : AccMemF) (c : Ctx) : Except Stop (Ctx → Done) :=
  withTile c f.tile
    (if accMisaligned f c then .error (accFault f c)
    else if c.lanes = 0 then .ok fun c => .act c.d RegWrites.none false (accUse f)
    else
      let ss := accSpans f c
      if f.sp then
        match windowSpans c true ss with
        | some e => .error e
        | none => .ok fun c => .op (c.d.modTeam c.g.team fun t => ss.foldl (fun t s => windowWrite t s.va.toNat (accStored f c (s.lane.getD 0))) t) { Op.of .store RegWrites.none false with tileReads := [f.tile.val], win := spanRanges ss } (accUse f)
      else match checkRanges c .store notVersioned ss with
        | .error e => .error e
        | .ok ps =>
          if ps.any fun p => pendingRed c.d c.g p.2.pa p.1.len then .error (.stall .other)
          else if decide (16 ≤ c.g.sb.length) || decide (255 ≤ unacked c.g) then .error (.stall .long)
          else .ok fun c =>
            let part (s : Span) (x : DWord × Nat) : LaneStore :=
              let p := ((ps.find? fun q => q.1.lane == s.lane && q.1.va == x.1).map (·.2)).getD default
              { lane := s.lane.getD 0, va := x.1, pa := p.pa, page := if p.leaf.repl then some p.leaf.base else none, data := ((accStored f c (s.lane.getD 0)).drop (x.1.toNat - s.va.toNat)).take x.2 }
            let lanes := ss.flatMap fun s => (chunks s.va s.len).map (part s)
            let d := c.d.modGroup c.gid fun g => { g with sb := g.sb ++ [{ op := c.d.nextId, size := 4, lanes, marks := [] }] }
            .op (dropLines (noteBlocks d c.gid (lanes.map (·.va))) c.g.core (lanes.map fun l => l.pa / 64)) { Op.of .store RegWrites.none false with tileReads := [f.tile.val] } (accUse f))
/-- `acc.st` (R304). -/
def execAccSt (f : AccMemF) (s : State) := runCode (.accSt f) f.g s (accStBody f)

/-! Tiles and registers (R305). -/

/-- A tile instruction that completes at issue: elements written, and registers. -/
def tileAct (c : Ctx) (ws : List (Nat × Nat × Word)) (w : RegWrites) : Done := .act (writeTiles c.d c.g.core c.g.job ws) w false 0
/-- `acc.zero` (R305). -/
def execAccZero (g : Option Guard) (tile : TileNo) (s : State) := runCode (.accZero g tile) g s fun c =>
  withTile c tile (.ok fun c => tileAct c (tileCells tile (lanesOf c.lanes) allCols fun _ _ => some 0) RegWrites.none)
/-- `acc.mov` to vector registers (R305). -/
def execAccMovToVec (f : AccMovF) (s : State) := runCode (.accMovToVec f) f.g s fun c =>
  withTile c f.tile (.ok fun c => .act c.d { RegWrites.none with vs := (lanesOf c.lanes).flatMap fun i => (List.range (2 ^ f.log2n.toNat)).map fun k => (32 * (f.v.val + k) + i, BitVec.ofNat 32 (c.acc f.tile i (f.j0.val + k))) } false 0)
/-- `acc.mov` to a tile (R305). -/
def execAccMovToTile (f : AccMovF) (s : State) := runCode (.accMovToTile f) f.g s fun c =>
  withTile c f.tile (.ok fun c => tileAct c ((lanesOf c.lanes).flatMap fun i => (List.range (2 ^ f.log2n.toNat)).map fun k => (f.tile.val, 32 * i + (f.j0.val + k), BitVec.ofNat 32 (readV c.g c.sp (f.v.val + k) i))) RegWrites.none)

/-! Online softmax (R306, R307). -/

/-- rne(2^(x − y)), the difference exact (R306, log 7). -/
def exp2Diff (x y : Nat) : Nat :=
  match (v32 x).add .rne (v32 y).neg with
  | .nan => rne32 .nan
  | .inf s => rne32 (if s then .zero false else .inf false)
  | .zero _ => rne32 (.num (Frac.ofInt 1))
  | .num q => exp2Frac .f32 .rne false 0 q
/-- One lane of `osm.upd`: the new S row, m, l, and the factor of the O row; none where only S is cleared (R306). -/
def osmLane (row : List Nat) (m l : Nat) : List Nat × Option (Nat × Nat × Nat) :=
  let r := match row with
    | [] => 0
    | x :: t => t.foldl (fun b y => fminmax .f32 true b y) (if (v32 x) == .nan then rne32 .nan else x)
  let mn := fminmax .f32 true m r
  if mn = 0xFF800000 then (row.map fun _ => 0, none)
  else
    let a := exp2Diff m mn
    let s := row.map fun x => exp2Diff x mn
    let t := treeReduce (fun _ _ x y => rne32 ((v32 x).add .rne (v32 y))) s
    (s, some (mn, rne32 (((v32 l).mul (v32 a)).add .rne (v32 t)), a))
/-- `osm.upd` (R306). -/
def osmUpdDone (f : OsmF) (c : Ctx) : Done :=
  let lane (i : Nat) := osmLane (allCols.map (c.acc f.sTile i)) (readV c.g c.sp f.d.val i) (readV c.g c.sp (f.d.val + 1) i)
  let rs := (lanesOf c.lanes).map fun i => (i, lane i)
  let sCells := rs.flatMap fun e => allCols.map fun j => (f.sTile.val, 32 * e.1 + j, BitVec.ofNat 32 (e.2.1.getD j 0))
  let oCells := if f.oEn then rs.flatMap fun e => match e.2.2 with
    | none => []
    | some (_, _, a) => allCols.map fun j => (f.oTile.val, 32 * e.1 + j, BitVec.ofNat 32 (rne32 ((v32 (c.acc f.oTile e.1 j)).mul (v32 a)))) else []
  let vs := rs.flatMap fun e => match e.2.2 with
    | none => []
    | some (mn, l, _) => cellsAt f.d.val 2 e.1 (mn + 2 ^ 32 * l)
  tileAct c (sCells ++ oCells) { RegWrites.none with vs }
/-- `osm.upd` (R306). -/
def execOsmUpd (f : OsmF) (s : State) := runCode (.osmUpd f) f.g s fun c =>
  withTile c f.sTile (if f.oEn && !ownsTile c f.oTile then .error (.raise (Exc.of .unreservedTile)) else .ok (osmUpdDone f))
/-- `osm.fin` (R307). -/
def osmFinDone (t : TileNo) (a : VReg) (c : Ctx) : Done :=
  let rows := (lanesOf c.lanes).filter fun i => readV c.g c.sp a.val i % 2 ^ 31 != 0
  tileAct c (tileCells t rows allCols fun i j => some (rne32 ((v32 (c.acc t i j)).div (v32 (readV c.g c.sp a.val i))))) RegWrites.none
/-- `osm.fin` (R307). -/
def execOsmFin (g : Option Guard) (tile : TileNo) (a : VReg) (reuse : Bool) (s : State) := runCode (.osmFin g tile a reuse) g s fun c => withTile c tile (.ok (osmFinDone tile a))

/-! Ragged reductions (R313 to R315). -/

/-- Lanes with in(L): active, and within the packed rows (R313). -/
def ragLanes (c : Ctx) (s : Snapshot) (row0 : Nat) : List Nat := (lanesOf c.lanes).filter fun l => decide (row0 + l < s.rows)
/-- seg(q): the tree of R98 over the lanes of one sequence (R314). -/
def segment (c : Ctx) (s : Snapshot) (row0 : Nat) (op : RedOp) (t : Ty) (a : VReg) (q : Nat) : Nat :=
  let ins := ragLanes c s row0
  treeReduce (fun _ _ x y => redCombine op t .rne false 0 x y) ((List.range 32).map fun l => if ins.contains l && s.seq (row0 + l) == q then readV c.g c.sp a.val l else redIdentity op t)
/-- empty(op) (R314). -/
def emptyOf (op : RedOp) (t : Ty) : Nat := if op == .add then 0 else redIdentity op t
/-- The results of `rag.rdc` (R314). -/
def ragRdcWrites (f : RagRdcF) (s : Snapshot) (c : Ctx) : RegWrites :=
  let row0 := slVal c.g c.sp f.row0
  let ins := ragLanes c s row0
  let seg := segment c s row0 f.op f.ty f.a
  if !f.seq then vecWrites f.d.val 1 ins fun l => seg (s.seq (row0 + l))
  else
    let q0 := if row0 < s.rows then s.seq row0 else s.nseq
    let has (l : Nat) : Bool := decide (q0 + l < s.nseq) && ins.any fun m => s.seq (row0 + m) == q0 + l
    let w := vecWrites f.d.val 1 (lanesOf c.lanes) fun l => if has l then seg (q0 + l) else emptyOf f.op f.ty
    if f.pn.en then w.append (predWrite f.pn.p.val c.lanes (maskWhere c.lanes fun l => !has l)) else w
/-- A ragged instruction over a valid snapshot; `.one` refuses rows of several sequences (R313). -/
def ragBody (sh : ShapeNo) (one : Bool) (row0 : SL) (w : Snapshot → Ctx → RegWrites) (c : Ctx) : Except Stop (Ctx → Done) :=
  match c.shape sh with
  | .error e => .error e
  | .ok s =>
    let r := slVal c.g c.sp row0
    if one && s.crosses ((ragLanes c s r).map (r + ·)) then .error (.raise (Exc.of .boundaryCrossing))
    else .ok fun c => .act c.d (w s c) false 0
/-- `rag.rdc` (R314). -/
def execRagRdc (f : RagRdcF) (s : State) := runCode (.ragRdc f) f.g s (ragBody f.sh f.one f.row0 (ragRdcWrites f))
/-- The results of `rag.norm` (R315). -/
def ragNormWrites (f : RagNormF) (s : Snapshot) (c : Ctx) : RegWrites :=
  let row0 := slVal c.g c.sp f.row0
  vecWrites f.d.val 1 (ragLanes c s row0) fun l => rne32 ((v32 (readV c.g c.sp f.a.val l)).div (v32 (segment c s row0 .add .f32 f.a (s.seq (row0 + l)))))
/-- `rag.norm` (R315). -/
def execRagNorm (f : RagNormF) (s : State) := runCode (.ragNorm f) f.g s (ragBody f.sh f.one f.row0 (ragNormWrites f))

/-! Shape records (R308 to R311). -/

/-- The checks of a shape record by its header (R309). -/
def shapeHeaderOk (h : List Byte) : Bool :=
  field h 32 32 == 0 && decide (1 ≤ field h 15 1) && decide (field h 15 1 ≤ 4) && decide (field h 14 1 < 16) && decide (field h 12 2 ≤ 256) &&
  field h 8 4 % 16 == 0 && decide (16 ≤ field h 8 4) && decide (field h 16 4 * Ty.width (Ty.byNum (field h 14 1)) ≤ 8 * field h 8 4)
/-- The checks of the boundary table (R309). -/
def shapeTableOk (rows : Nat) (b : List Nat) : Bool :=
  (rows == 0 || b.head? == some 0) && b.all (fun x => decide (x ≤ rows)) && (List.zipWith (fun x y => decide (x ≤ y)) b b.tail).all id
/-- Reads a range as `.thru`, without a lane: its bytes, its places and the device. -/
def readRange (c : Ctx) (va : DWord) (n : Nat) : Except Stop (List Byte × List (Span × Place) × Device) :=
  match checkRanges c .load (fun _ => none) [{ lane := none, va, len := n }] with
  | .error e => .error e
  | .ok ps => match spansWait c ps, thruParts c ps c.d with
    | some w, _ => .error (.stall w)
    | none, none => .error (.stall .other)
    | none, some (parts, d) => .ok (gather parts va n, ps, d)
/-- A poisoned word among ranges read. -/
def rangeBad (d : Device) (ps : List (Span × Place)) : Option Exc := (ps.find? fun p => d.anyPoison p.2.pa p.1.len).map fun p => { code := .poisonedData, lane := none, info := p.1.va }
/-- The header bytes that a reading has. -/
def ShapeRead.bytes (q : ShapeRead) : List Byte := q.words.flatMap fun w => bytesOf 4 w.toNat
/-- Entries of the boundary table, by the header that a reading has (R308). -/
def ShapeRead.nseq (q : ShapeRead) : Nat := field (q.bytes.take 64) 12 2
/-- The reading has the header and the table: what remains is the version word again (R310). -/
def ShapeRead.whole (q : ShapeRead) : Bool := decide (16 ≤ q.words.length) && decide (q.words.length = 16 + q.nseq)
/-- The address of the word that is read next (R310). -/
def ShapeRead.at_ (q : ShapeRead) : Nat := q.va.toNat + if q.whole then 0 else 4 * q.words.length
/-- How a reading stands after a word: it goes on, the record is invalid or torn, or it is the snapshot. -/
inductive ShapeStep where
  | more (q : ShapeRead) | bad | snap (s : Snapshot)
  deriving DecidableEq, Repr, Inhabited
/-- The next word of a reading (R309, R310): after the header, the page check; at the end, the version word again, eight unequal readings being a fault; then the other checks. -/
def shapeStep (q : ShapeRead) (w : Word) : ShapeStep :=
  if q.whole then
    let table := (q.words.drop 16).map (·.toNat)
    let header := q.bytes.take 64
    if q.words.head? != some w then (if 7 ≤ q.tries then .bad else .more { q with tries := q.tries + 1, words := [] })
    else if shapeHeaderOk header && shapeTableOk (field header 4 4) table then .snap { addr := q.va, header, table } else .bad
  else
    let q' := { q with words := q.words ++ [w] }
    if q'.words.length = 16 && decide (q.leaf.base + q.leaf.size < q.va.toNat + 64 + 4 * q'.nseq) then .bad else .more q'
/-- One word of a reading as a `.thru` load of the group reads it (R206, R310): its value and whether it is poisoned, or none where the page gives no frame any more; nothing while the read has to wait (R207, R213, R218). -/
def shapeWord (P : Platform) (d : Device) (g : Group) (q : ShapeRead) : Option (Option (Word × Bool) × Device) :=
  match leafPhys d q.leaf (g.core / 128) q.at_ with
  | none => some (none, d)
  | some pa =>
    if !physOk pa then some (none, d)
    else if overlapsSent g pa 4 || pendingRed d g pa 4 then none
    else (l2Line P d (g.core / 128) pa).map fun r =>
      let bs := (r.1.drop (pa % 64)).take 4
      (some (BitVec.ofNat 32 (natOf (((List.range 4).zip bs).map fun e => (bufferedByte g.sb (pa + e.1)).getD e.2)), r.2.poisoned pa), r.2)
/-- `sh.ld` (R308 to R310): the address checks come first; the record is then read word by word (log 17). -/
def shLdBody (sh : ShapeNo) (a : SReg) (c : Ctx) : Except Stop (Ctx → Done) :=
  let va : DWord := BitVec.ofNat 64 (readS c.g c.sp a.val)
  match wholeGroup (placeLane c .load 64 (fun _ => none) 0 va) with
  | .error e => .error e
  | .ok p => .ok fun c => .op c.d { Op.of (.shape { sh := sh.val, va, leaf := p.leaf, tries := 0, words := [] }) RegWrites.none false with shape := some (sh.val, none) } 0
/-- `sh.ld` (R310). -/
def execShLd (sh : ShapeNo) (a : SReg) (s : State) := runCode (.shLd sh a) none s (shLdBody sh a)
/-- `sh.chk` (R311). -/
def shChkBody (pd : PReg) (sh : ShapeNo) (c : Ctx) : Except Stop (Ctx → Done) :=
  match c.shape sh with
  | .error e => .error e
  | .ok x => match readRange c x.addr 4 with
    | .error e => .error e
    | .ok (w, ps, d) => match rangeBad c.d ps with
      | some e => .error (.raise e)
      | none => .ok fun c => .act d (predWrite pd.val c.sp.mask (if natOf w = field x.header 0 4 then c.sp.mask else 0)) false 0
/-- `sh.chk` (R311). -/
def execShChk (pd : PReg) (sh : ShapeNo) (s : State) := runCode (.shChk pd sh) none s (shChkBody pd sh)

end Sys2Proof.Machine
end

