-- ==== Sys2Proof/Machine/Collect.lean ====
section
/-! DEFINITION. The collective engines: staging and the close of a chunk (R403 to R406), the result at the owner and at a member (R407), and the results a `coll.get` waits for (R408). -/

namespace Sys2Proof.Machine
open Sys2Proof

/-- Counts a contribution dropped (R399). -/
def countDropped (d : Device) (job : Nat) : Device := d.modJob job fun j => { j with collDrop := min (2 ^ 32 - 1) (j.collDrop + 1) }
/-- Counts a contribution not read, a copy not written, or a result not applied (R399). -/
def countUnwritten (d : Device) (job : Nat) : Device := d.modJob job fun j => { j with collLost := min (2 ^ 32 - 1) (j.collLost + 1) }
/-- The quorum and floor of a step: the latest `coll.quorum` at or below it, else the binding's (R324, R405). -/
def quorumOf (d : Device) (b : Binding) (job : Nat) (va : DWord) (step : Nat) : Nat × Nat :=
  match (d.coll.quorums.filter fun q => q.1 == job && q.2.1 == va && decide (q.2.2.1 ≤ step)).getLast? with
  | some q => (q.2.2.2.1, q.2.2.2.2)
  | none => (b.q, b.floor)
/-- The owned chunk of a name, with its key. -/
def findChunk (d : Device) (job : Nat) (va : DWord) (chunk : Nat) : Option (Nat × Chunk) := d.coll.chunks.find? fun e => e.2.job == job && e.2.binding == va && e.2.chunk == chunk
/-- The die whose collective engine holds a chunk (R15, log 101). -/
def engineOf (chunk : Nat) : Nat := chunk % 4
/-- Contributions that the engine of a die holds in staging (R403). -/
def stagedOn (d : Device) (die : Nat) : Nat := ((Tbl.vals d.coll.chunks).map fun c => if engineOf c.chunk = die then c.staged.length + c.early.length else 0).sum
/-- The 4 MiB of staging of a die are full: 1024 contributions of 4 KiB (R15, R403). -/
def stagingFull (d : Device) (die : Nat) : Bool := decide (1024 ≤ stagedOn d die)
/-- Writes an owned chunk. -/
def setChunk (d : Device) (key : Nat) (c : Chunk) : Device := { d with coll := { d.coll with chunks := Tbl.set d.coll.chunks key c } }
/-- Contributions on time for a step (R404). -/
def onTime (c : Chunk) (n : Nat) : List Staged := c.staged.filter fun x => !x.late && x.step == n
/-- What the close of a step includes: its contributions on time, and with the lowest open step the late ones (R405). -/
def forClose (c : Chunk) (n : Nat) : List Staged := c.staged.filter fun x => if x.late then c.open_ == some n else x.step == n
/-- When the timer of a step's close started (R405). -/
def timerStart (c : Chunk) (n : Nat) : Option Nat := (forClose c n).foldl (fun b x => match b with | none => some x.since | some y => some (min x.since y)) none
/-- Steps that hold a contribution, not yet decided. -/
def undecided (c : Chunk) : List Nat :=
  let s := c.open_.getD 0
  (s :: ((c.staged.filter fun x => !x.late).map (·.step)).eraseDups).eraseDups.filter fun n => decide (s ≤ n) && !c.ready.any fun r => r.1 == n
/-- Notes the steps whose quorum is reached (R405). -/
def noteQuorum (d : Device) (b : Binding) (c : Chunk) : Chunk :=
  if c.open_.isNone then c else { c with ready := c.ready ++ ((undecided c).filter fun n => decide ((quorumOf d b c.job c.binding n).1 ≤ (onTime c n).length)).map fun n => (n, 0) }
/-- Notes the steps whose timer has run out (R405). -/
def noteTimers (d : Device) (b : Binding) (c : Chunk) : Chunk :=
  if c.open_.isNone then c else { c with ready := c.ready ++ ((undecided c).filter fun n => match timerStart c n with | some t => decide (t + micros b.timer ≤ d.time) | none => false).map fun n => (n, 1) }
/-- One element of the result (R406). -/
def closeElem (xs : List Staged) (e : Nat) : Word :=
  let ys := xs.map fun x => (x.shift, Val.ofBits .f32 (x.data.getD e 0).toNat)
  let pos := ys.any fun y => y.2 == .inf false
  let neg := ys.any fun y => y.2 == .inf true
  if ys.any (fun y => y.2 == .nan) || (pos && neg) then 0x7FC00000
  else if pos then 0x7F800000
  else if neg then 0xFF800000
  else
    let w := ys.foldl (fun a y => a.add ⟨1, 2 ^ y.1⟩) (Frac.ofInt 0)
    let v := ys.foldl (fun a y => match y.2 with | .num q => a.add (q.mul ⟨1, 2 ^ y.1⟩) | _ => a) (Frac.ofInt 0)
    BitVec.ofNat 32 (rne32 (Val.ofFrac (ys.all fun y => y.2 == .zero true) (v.div w)))
/-- Bytes of 32-bit words. -/
def wordBytes (ws : List Word) : List Byte := ws.flatMap fun w => bytesOf 4 w.toNat
/-- The words of a byte list. -/
def bytesWords (n : Nat) (bs : List Byte) : List Word := (List.range n).map fun i => BitVec.ofNat 32 (field bs (4 * i) 4)
/-- Writes and seals a result at its version home; what cannot be written is counted (R407). -/
def writeVbase (d : Device) (c : Chunk) (b : Binding) (step : Nat) (data : List Word) : Device :=
  if b.vbase = 0 then d
  else
    let va := b.vbase + BitVec.ofNat 64 (4096 * c.chunk)
    match engineXlat d c.job .store (engineOf c.chunk) va with
    | .ok l _ =>
      if !l.ver then countUnwritten d c.job
      else d.openHome c.job l fun h => { h with
        stores := h.stores ++ [({ notice := some va, source := .result c.job, offset := va.toNat - l.base, step, data := wordBytes data, since := d.clock } : VerStore)]
        seals := h.seals ++ [({ job := c.job, group := none, page := l.base, step, since := d.clock, clock := (d.die (engineOf c.chunk)).causal } : VerSeal)] }
    | _ => countUnwritten d c.job
/-- Sends a result to every member in ascending order, its header in class 0 and its data in class 1; the own device takes its copy itself (R391, R407). -/
def sendResult (P : Platform) (d : Device) (b : Binding) (m : ResultMsg) : Device :=
  b.members.foldl (fun d p => if p = P.own then { d with coll := { d.coll with results := d.coll.results ++ [m] } } else postTo P (postTo P d p 0 (Posted.resultHead p m.job m.binding m.chunk m.step m.count m.status)) p 1 (Posted.resultData p m.job m.binding m.chunk m.step m.data)) d
/-- Closes the lowest open step of a chunk (R405 to R407). `timer` says which condition was met. -/
def closeChunk (P : Platform) (d : Device) (key : Nat) (c : Chunk) (b : Binding) (timer : Bool) : Device :=
  let s := c.open_.getD 0
  let xs := sortBy (fun (x y : Staged) => decide (x.member < y.member) || (x.member == y.member && decide (x.step ≤ y.step))) (forClose c s)
  let status := if !timer then 0 else if (quorumOf d b c.job c.binding s).2 ≤ (onTime c s).length then 1 else 2
  let c' := { c with open_ := some (s + 1), staged := c.staged.filter (fun x => !(x.late || x.step == s)), closes := ((c.closes ++ [xs.map fun x => (x.member, x.step)]).drop (c.closes.length - 3)), ready := c.ready.filter fun r => r.1 != s }
  let d := setChunk d key c'
  if xs.isEmpty then d
  else
    let data := (List.range 1024).map (closeElem xs)
    sendResult P (writeVbase d c b s data) b { job := c.job, binding := c.binding, chunk := c.chunk, step := s, count := xs.length, status, data }
/-- Closes every step that is due, in ascending order (R405). -/
def closeDue (P : Platform) (b : Binding) (key : Nat) : Nat → Device → Device
  | 0, d => d
  | n + 1, d =>
    match Tbl.find d.coll.chunks key with
    | none => d
    | some c => match c.ready.find? fun r => some r.1 == c.open_ with
      | none => d
      | some r => closeDue P b key n (closeChunk P d key c b (r.2 != 0))
/-- Class-1 credit returns to every peer it is withheld from, once no staging is full, and a grant goes to each (R391, R403). -/
def returnCredit (P : Platform) (d : Device) : Device :=
  if [0, 1, 2, 3].any (stagingFull d) then d
  else (d.peers.filter fun e => e.2.withheld).foldl (fun d e => d.emit P (.credit e.1 1)) { d with peers := Tbl.mapVals (fun (p : Peer) => { p with withheld := false }) d.peers }
/-- Evaluates an owned chunk: quorums, then the closes that are due, and the credit that their room gives back. -/
def evalChunk (P : Platform) (d : Device) (key : Nat) (timers : Bool) : Device :=
  match Tbl.find d.coll.chunks key with
  | none => d
  | some c => match readBinding P d c.job c.binding with
    | none => d
    | some b =>
      let c := noteQuorum d b (if timers then noteTimers d b c else c)
      returnCredit P (closeDue P b key (c.ready.length + 1) (setChunk d key c))
/-- Evaluates the owned chunks of a collective, after a `coll.quorum`. -/
def evalCollective (P : Platform) (d : Device) (job : Nat) (va : DWord) : Device :=
  ((d.coll.chunks.filter fun e => e.2.job == job && e.2.binding == va).map (·.1)).foldl (fun d k => evalChunk P d k false) d
/-- Rows 2 and 3 of R404 for one contribution, once s is set. -/
def classifyOne (b : Binding) (clock : Nat) (resend : Bool) (m : Contribution) (dc : Nat × Chunk) : Nat × Chunk :=
  let s := dc.2.open_.getD 0
  let add (late : Bool) (shift : Nat) : Nat × Chunk := (dc.1, { dc.2 with staged := dc.2.staged ++ [{ shift, late, step := m.step, member := m.member, since := clock, data := m.data }] })
  if s ≤ m.step && !resend then add false 0
  else
    let k := max 1 (s - m.step)
    if b.fold && k ≤ 3 then add true k else (dc.1 + 1, dc.2)
/-- P's contribution for a step is already included in one of the last four closes, or held (R404, row 1). -/
def alreadyIn (c : Chunk) (m : Contribution) : Bool :=
  c.closes.any (fun l => l.contains (m.member, m.step)) || (c.staged ++ c.early).any fun x => x.member == m.member && x.step == m.step
/-- Contributions dropped and counted. -/
def countMany (d : Device) (job : Nat) : Nat → Device
  | 0 => d
  | n + 1 => countMany (countDropped d job) job n
/-- An arriving contribution is checked and classified (R404), and its chunk evaluated. -/
def contribute (P : Platform) (m : Contribution) (d : Device) : Device :=
  if (d.job m.job).isNone then d
  else match readBinding P d m.job m.binding with
    | none => countDropped d m.job
    | some b =>
      if !decide (m.chunk < b.nchunk) || b.owner m.chunk != P.own || !b.members.contains m.member then countDropped d m.job
      else
        let e := (findChunk d m.job m.binding m.chunk).getD (d.nextId, { job := m.job, binding := m.binding, chunk := m.chunk, open_ := none, staged := [], early := [], closes := [], ready := [] })
        let d := { d with nextId := d.nextId + 1 }
        let c := e.2
        if alreadyIn c m then d
        else if m.resend && c.open_.isNone then setChunk d e.1 { c with early := c.early ++ [{ shift := 0, late := true, step := m.step, member := m.member, since := d.time, data := m.data }] }
        else
          let early := if c.open_.isNone then c.early else []
          let c := if c.open_.isNone then { c with open_ := some m.step, early := [] } else c
          let r := classifyOne b d.time m.resend m (0, c)
          let r := early.foldl (fun r x => classifyOne b d.time true { m with step := x.step, member := x.member, data := x.data } r) r
          evalChunk P (countMany (setChunk d e.1 r.2) m.job r.1) e.1 false
/-- Sends a contribution to the owner of its chunk (R402). -/
def sendContribution (P : Platform) (d : Device) (b : Binding) (m : Contribution) : Device :=
  let o := b.owner m.chunk
  if o = P.own then { d with coll := { d.coll with arrivals := d.coll.arrivals ++ [m] } } else postTo P d o 1 (Posted.contribution o m)
/-- Where the result record of a chunk lies (R400). -/
def recordAt (b : Binding) (chunk : Nat) : DWord := b.rbase + BitVec.ofNat 64 (4096 * b.nchunk + 16 * chunk)
/-- The result record of a chunk: step, count, status. -/
def resultRecord (d : Device) (job : Nat) (b : Binding) (chunk : Nat) : Option (Nat × Nat × Nat) := (jobRead d job 0 (recordAt b chunk) 16).map fun r => (field r 0 4, field r 4 4, field r 8 4)
/-- A delivered result is written: the data, then the record; a copy retained for a step it reaches is dropped (R402, R407). An older step than the record's changes nothing. -/
def deliver (P : Platform) (m : ResultMsg) (d : Device) : Device :=
  match readBinding P d m.job m.binding with
  | none => d
  | some b =>
    if !decide (m.chunk < b.nchunk) then d
    else match resultRecord d m.job b m.chunk with
      | none => d
      | some r =>
        if m.step < r.1 then d
        else
          let va := b.rbase + BitVec.ofNat 64 (4096 * m.chunk)
          let d := jobWriteDrop P d m.job (engineOf m.chunk) va (wordBytes m.data)
          let d := jobWriteDrop P d m.job (engineOf m.chunk) (recordAt b m.chunk) (bytesOf 4 m.step ++ bytesOf 4 m.count ++ bytesOf 4 m.status ++ bytesOf 4 0)
          let d := noticeAll d (sigOfAll (blocksOf va 4096 ++ blocksOf (recordAt b m.chunk) 16))
          { d with coll := { d.coll with retained := d.coll.retained.filter fun x => !(x.job == m.job && x.binding == m.binding && x.chunk == m.chunk && decide (x.step ≤ m.step)) } }
/-- Writes 64 bytes of a result to a line found at issue; a replicated page parks the write (R222, R325, R425). -/
def writeFound (P : Platform) (d : Device) (job die : Nat) (x : DWord × Nat × Option Nat) (bytes : List Byte) : Device :=
  match x.2.2 with
  | none => engineWrite P die d x.2.1 bytes
  | some page => match engineXlat d job .store die x.1 with
    | .ok l pa => if l.repl then parkRaw d job l die (x.1.toNat - page) bytes else engineWrite P die d pa bytes
    | _ => d
/-- Completes a `coll.get` with its result: the engine writes dst and posts its notices, and the group acquires (R230, R325). -/
def finishGet (P : Platform) (d : Device) (w : CollGetWait) (sd : Nat) (data : Option (List Byte)) : Device :=
  let die := ((Tbl.find d.groups w.group).map fun g => g.core / 128).getD 0
  let d := { d with coll := { d.coll with gets := d.coll.gets.filter fun x => !(x.group == w.group && x.op == w.op) } }
  let d : Device := match data with
    | some bs =>
      let d := ((List.range 64).zip w.dst).foldl (fun (d : Device) (e : Nat × (DWord × Nat × Option Nat)) => writeFound P d w.job die e.2 ((bs.drop (64 * e.1)).take 64)) d
      acquire (noticeAll d (sigOfAll (w.dst.map (·.1)))) w.group
    | none => d
  finishOp (d.modGroup w.group fun g => { g with ops := g.ops.map fun o => if o.id == w.op then { o with writes := scaWrite w.sd sd } else o }) w.group w.op
/-- Completes the gets whose result has been delivered (R408). -/
def settleGets (P : Platform) (d : Device) : Device :=
  d.coll.gets.foldl (fun d w =>
    match readBinding P d w.job w.binding with
    | none => d
    | some b => match resultRecord d w.job b w.chunk, jobRead d w.job 0 (b.rbase + BitVec.ofNat 64 (4096 * w.chunk)) 4096 with
      | some r, some bs => if w.step ≤ r.1 then finishGet P d w (r.1 * 2 ^ 32 + r.2.1 % 2 ^ 16 * 2 ^ 16 + r.2.2 % 256) (some bs) else d
      | _, _ => d) d

end Sys2Proof.Machine
end

