-- ==== Sys2Proof/Machine/Engine.lean ====
section
/-! DEFINITION. Row 0xB_: copies and timelines (R316 to R321, R354), collectives (R322 to R325), the sideboard (R326, R327), hutch commands (R328, R417 to R421), index ranges (R329, R330), graph launches (R331) and migration (R66, R332, R333). -/

namespace Sys2Proof.Machine
open Sys2Proof

/-! Timelines. -/

/-- Timeline `n` of a team. -/
def Team.tl (t : Team) (n : Nat) : Timeline := t.tls.getD n Timeline.start
/-- The counter moves over every completed operation that follows it (R319). -/
def tlAdvance : Nat → Timeline → Timeline
  | 0, t => t
  | n + 1, t => if t.done.contains (t.counter + 1) then tlAdvance n { t with counter := t.counter + 1, done := t.done.filter (· != t.counter + 1) } else t
/-- An operation completes, with an error record or without (R319, R320). -/
def tlComplete (t : Timeline) (n code x : Nat) : Timeline :=
  let t := if code != 0 && t.errOp == 0 then { t with errOp := n, errCode := code, errX := x } else t
  tlAdvance (t.done.length + 1) { t with done := n :: t.done }
/-- An operation of a team's timeline, carried out from a die, completes, and waiters whose value is reached wake with the clock of the operations so far (R217, R231, R319, R321). -/
def timelineDone (d : Device) (die tid tl n code x : Nat) : Device :=
  match Tbl.find d.teams tid with
  | none => d
  | some t =>
    let a := t.tl tl
    let b := { tlComplete a n code x with clock := clockMax a.clock (d.die die).causal }
    let d := d.modTeam tid fun t => { t with tls := listSet t.tls tl b }
    ((Tbl.vals d.groups).filter fun g => g.team == tid && (match g.wait with | some (.timeline k m) => k == tl && decide (a.counter < m) && decide (m ≤ b.counter) | _ => false)).foldl (fun d g => wakeWith d g.id 1 0 b.clock) d
/-- A timeline accepts an operation: its number, and the team after it (R319). -/
def tlAccept (d : Device) (tid tl : Nat) : Nat × Device :=
  let n := (((Tbl.find d.teams tid).map fun t => (t.tl tl).accepted).getD 0) + 1
  (n, d.modTeam tid fun t => { t with tls := listSet t.tls tl { t.tl tl with accepted := n } })

/-! Copies. -/

/-- The destination of a direction is the window. -/
def winDst : CopyDir → Bool
  | .g2w | .w2w => true
  | _ => false
/-- The source of a direction is the window. -/
def winSrc : CopyDir → Bool
  | .w2g | .w2w => true
  | _ => false
/-- A copy operand as it is used: a window offset is bits 31:0 (R316). -/
def copyOperand (win : Bool) (v : Nat) : Nat := if win then v % 2 ^ 32 else v
/-- Checks of a copy of `len` bytes (R316): alignment, window bound, address. -/
def copyChecks (W : Nat) (dir : CopyDir) (dst src len : Nat) : Option Exc :=
  let e (c : ExcCode) (v : Nat) : Option Exc := some { code := c, lane := none, info := BitVec.ofNat 64 v }
  if dst % 16 ≠ 0 then e .alignment dst
  else if src % 16 ≠ 0 then e .alignment src
  else if len % 16 ≠ 0 then e .alignment 0
  else if winDst dir && decide (W < dst + len) then e .windowBound dst
  else if winSrc dir && decide (W < src + len) then e .windowBound src
  else if !winDst dir && decide (2 ^ 48 ≤ dst) then e .address dst
  else if !winSrc dir && decide (2 ^ 48 ≤ src) then e .address src
  else none
/-- Range entries of a copy (R354). -/
def copyRanges (op group : Nat) (dir : CopyDir) (dst src len : Nat) : List WinRange :=
  if len = 0 then []
  else (if winDst dir then [{ op, group, written := true, lo := dst, hi := dst + len }] else []) ++ (if winSrc dir then [{ op, group, written := false, lo := src, hi := src + len }] else [])
/-- Accepts a copy (R319, R354): its number, its ranges, and its place at the cluster's copy engine; one without bytes completes at once (R316). -/
def acceptCopy (c : Ctx) (sd : Option SReg) (o : CopyOp) (bytes : Nat) : Done :=
  let a := tlAccept c.d c.g.team o.tl
  let op := { o with id := a.2.nextId, job := c.g.job, team := c.g.team, group := c.gid, number := a.1, die := c.team.cluster / 32 }
  let d := { a.2 with nextId := a.2.nextId + 1 }
  let d := if bytes = 0 then timelineDone d (c.team.cluster / 32) c.g.team o.tl a.1 0 0
    else (d.modTeam c.g.team fun t => { t with ranges := t.ranges ++ copyRanges op.id c.gid o.dir o.dst.toNat o.src.toNat bytes }).modCluster c.team.cluster fun k => { k with copies := k.copies ++ [op] }
  .act d (match sd with | some n => scaWrite n.val a.1 | none => RegWrites.none) false 0
/-- The range table has no room for a copy's entries (R354). -/
def rangesFull (c : Ctx) (dir : CopyDir) (bytes : Nat) : Bool := decide (64 < c.team.ranges.length + (copyRanges 0 0 dir 0 0 bytes).length)
/-- The group's earlier window stores to a copy's ranges are not yet acknowledged, or its earlier window loads from the destination not yet complete (R354). -/
def copyWaits (c : Ctx) (dir : CopyDir) (dst src bytes : Nat) : Bool :=
  (copyRanges 0 0 dir dst src bytes).any fun r => c.g.ops.any fun o => (r.written || o.kind == .store) && o.win.any fun w => decide (w.1 < r.hi) && decide (r.lo < w.2)
/-- What keeps a copy from being accepted (R354). -/
def copyStall (c : Ctx) (dir : CopyDir) (dst src bytes : Nat) : Option Stall :=
  if copyWaits c dir dst src bytes then some .long else if rangesFull c dir bytes then some .other else none
/-- A copy as its instruction gives it. -/
def copyOf (tl : TimelineNo) (gather : Bool) (dir : CopyDir) (dst src len : Nat) (idx : DWord) (rows : Nat) : CopyOp :=
  { id := 0, job := 0, team := 0, group := 0, tl := tl.val, number := 0, gather, dir, dst := BitVec.ofNat 64 dst, src := BitVec.ofNat 64 src, len, idx, rows, die := 0, at_ := 0, stalled := none }
/-- `cp` (R316). -/
def cpBody (f : CpF) (c : Ctx) : Except Stop (Ctx → Done) :=
  let dst := copyOperand (winDst f.dir) (readS c.g c.sp f.dst.val)
  let src := copyOperand (winSrc f.dir) (readS c.g c.sp f.src.val)
  let len := slVal c.g c.sp f.len % 2 ^ 32
  match copyChecks c.team.windowSize f.dir dst src len with
  | some e => .error (.raise e)
  | none => match copyStall c f.dir dst src len with
    | some w => .error (.stall w)
    | none => .ok fun c => acceptCopy c f.d (copyOf f.tl false f.dir dst src len 0 0) len
/-- `cp` (R316). -/
def execCp (f : CpF) (s : State) := runCode (.cp f) none s (cpBody f)
/-- `cp.gather` (R317). -/
def cpGatherBody (f : CpGatherF) (c : Ctx) : Except Stop (Ctx → Done) :=
  let dst := copyOperand (winDst f.dir) (readS c.g c.sp f.dst.val)
  let src := readS c.g c.sp f.src.val
  let idx := readS c.g c.sp f.desc.val
  let q := readS c.g c.sp (f.desc.val + 1)
  let w := q % 2 ^ 24
  let n := q / 2 ^ 24 % 2 ^ 24
  if idx % 4 ≠ 0 || w % 16 != 0 || decide (w < 16) || decide (65536 < w) || q / 2 ^ 48 != 0 then .error (.raise (Exc.of .operandDescriptor))
  else match copyChecks c.team.windowSize f.dir dst src (n * w) with
    | some e => .error (.raise e)
    | none =>
      if 2 ^ 48 ≤ idx then .error (.raise { code := .address, lane := none, info := BitVec.ofNat 64 idx })
      else match copyStall c f.dir dst src (n * w) with
        | some w => .error (.stall w)
        | none => .ok fun c => acceptCopy c f.d (copyOf f.tl true f.dir dst src w (BitVec.ofNat 64 idx) n) (n * w)
/-- `cp.gather` (R317). -/
def execCpGather (f : CpGatherF) (s : State) := runCode (.cpGather f) none s (cpGatherBody f)
/-- `tl.rd` (R231, R320): the counter, and for a later acquire fence the clock of the operations that it counts. -/
def tlRdDone (d : SReg) (tl : TimelineNo) (c : Ctx) : Done :=
  let t := c.team.tl tl.val
  .act (c.d.modGroup c.gid fun g => { g with seen := clockMax g.seen t.clock }) (scaWrite d.val t.counter) false 0
/-- `tl.rd` (R320). -/
def execTlRd (d : SReg) (tl : TimelineNo) (s : State) := runCode (.tlRd d tl) none s fun _ => .ok (tlRdDone d tl)
/-- `tl.rd.err` (R320): the record is cleared. -/
def tlRdErrDone (sd : SReg) (tl : TimelineNo) (c : Ctx) : Done :=
  let t := c.team.tl tl.val
  .act (c.d.modTeam c.g.team fun x => { x with tls := listSet x.tls tl.val { t with errOp := 0, errCode := 0, errX := 0 } })
    ((scaWrite sd.val t.errOp).append (scaWrite (sd.val + 1) (t.errCode % 256 + t.errX % 2 ^ 32 * 2 ^ 32))) false 0
/-- `tl.rd.err` (R320). -/
def execTlRdErr (d : SReg) (tl : TimelineNo) (s : State) := runCode (.tlRdErr d tl) none s fun _ => .ok (tlRdErrDone d tl)
/-- `tl.wait` (R231, R321). -/
def tlWaitDone (tl : TimelineNo) (n : SL) (c : Ctx) : Done :=
  let m := slVal c.g c.sp n
  if m = 0 then .act c.d RegWrites.none false 0
  else if m ≤ (c.team.tl tl.val).counter then .act (acquire (c.d.mergeClock (c.g.core / 128) (c.team.tl tl.val).clock) c.gid) RegWrites.none false 0
  else .wait (beginWait c.d c.gid (.timeline tl.val m) 3 1 0 (BitVec.ofNat 64 tl.val) c.sp.here)
/-- `tl.wait` (R321). -/
def execTlWait (tl : TimelineNo) (n : SL) (s : State) := runCode (.tlWait tl n) none s fun _ => .ok (tlWaitDone tl n)

/-! Collectives. -/

/-- The binding a collective command names: read through the group's translation and checked (R322, R401). -/
def collBinding (c : Ctx) (sa : SReg) : Except Stop (DWord × Binding) :=
  let va := BitVec.ofNat 64 (readS c.g c.sp sa.val)
  if va.toNat % 64 ≠ 0 then .error (.raise (Exc.of .collectiveArgument))
  else match wholeGroup (placeLanes c .load 1 (fun _ => none) [(0, va), (0, va + 64)]) with
    | .error e => .error e
    | .ok _ => match readBinding c.P c.d c.g.job va with
      | some b => .ok (va, b)
      | none => .error (.raise (Exc.of .collectiveArgument))
/-- A chunk of the collective, or the fault (R322). -/
def collChunk (c : Ctx) (b : Binding) (k : SL) : Except Stop Nat :=
  let n := slVal c.g c.sp k
  if n < b.nchunk then .ok n else .error (.raise (Exc.of .collectiveArgument))
/-- The 64 lines of a 4 KiB operand, checked in ascending address (R291, R322). -/
def collRange (c : Ctx) (acc : Access) (own : Leaf → Option ExcCode) (va : DWord) : Except Stop (List Place) :=
  wholeGroup (placeLanes c acc 64 own ((List.range 64).map fun i => (0, va + BitVec.ofNat 64 (64 * i))))
/-- `coll.put` (R323): held; its source is checked at issue (R239, R291). -/
def collPutBody (sa : SReg) (k : SL) (ss : SReg) (c : Ctx) : Except Stop (Ctx → Done) :=
  match collBinding c sa with
  | .error e => .error e
  | .ok (va, b) => match collChunk c b k with
    | .error e => .error e
    | .ok n =>
      let src := BitVec.ofNat 64 (readS c.g c.sp ss.val)
      match collRange c .load (fun _ => none) src with
      | .error e => .error e
      | .ok _ => .ok fun c => .act (holdEffect c c.d 0xB4 src [] (.coll va n c.g.stepCur.toNat src)) RegWrites.none false 0
/-- `coll.put` (R323). -/
def execCollPut (a : SReg) (chunk : SL) (src : SReg) (s : State) := runCode (.collPut a chunk src) none s (collPutBody a chunk src)
/-- `coll.quorum` (R324). -/
def collQuorumBody (sa : SReg) (qf : SL) (c : Ctx) : Except Stop (Ctx → Done) :=
  match collBinding c sa with
  | .error e => .error e
  | .ok (va, _) =>
    let v := slVal c.g c.sp qf
    let q := v % 1024
    let f := v / 2 ^ 16 % 1024
    if q = 0 || decide (512 < q) || decide (q < f) || v != q + f * 2 ^ 16 then .error (.raise (Exc.of .collectiveArgument))
    else .ok fun c =>
      let d := { c.d with coll := { c.d.coll with quorums := c.d.coll.quorums ++ [(c.g.job, va, c.g.stepCur.toNat, q, f)] } }
      .act (evalCollective c.P d c.g.job va) RegWrites.none false 0
/-- `coll.quorum` (R324). -/
def execCollQuorum (a : SReg) (qf : SL) (s : State) := runCode (.collQuorum a qf) none s (collQuorumBody a qf)
/-- Closes an owned chunk of a step by the rule for timer expiry (R324, R405). -/
def collCloseNow (P : Platform) (d : Device) (job : Nat) (va : DWord) (b : Binding) (n step : Nat) : Device :=
  if b.owner n != P.own then d
  else match findChunk d job va n with
    | none => d
    | some (key, x) => match x.open_ with
      | none => d
      | some s =>
        if step < s then d
        else evalChunk P (setChunk d key { x with ready := if x.ready.any (fun r => r.1 == step) then x.ready else x.ready ++ [(step, 1)] }) key false
/-- `coll.close` (R324). -/
def collCloseBody (sa : SReg) (k : SL) (c : Ctx) : Except Stop (Ctx → Done) :=
  match collBinding c sa with
  | .error e => .error e
  | .ok (va, b) => match collChunk c b k with
    | .error e => .error e
    | .ok n => .ok fun c => .act (collCloseNow c.P c.d c.g.job va b n c.g.stepCur.toNat) RegWrites.none false 0
/-- `coll.close` (R324). -/
def execCollClose (a : SReg) (chunk : SL) (s : State) := runCode (.collClose a chunk) none s (collCloseBody a chunk)
/-- `coll.get` (R325): the destination is placed at issue, line by line. -/
def collGetBody (sd sa : SReg) (k : SL) (sdst : SReg) (c : Ctx) : Except Stop (Ctx → Done) :=
  match collBinding c sa with
  | .error e => .error e
  | .ok (va, b) => match collChunk c b k with
    | .error e => .error e
    | .ok n =>
      let dst := BitVec.ofNat 64 (readS c.g c.sp sdst.val)
      match collRange c .store notVersioned dst with
      | .error e => .error e
      | .ok ps => .ok fun c =>
        let w : CollGetWait := { group := c.gid, op := c.d.nextId, job := c.g.job, binding := va, chunk := n, step := c.g.stepCur.toNat, dst := ps.map fun p => (p.va, p.pa, if p.leaf.repl then some p.leaf.base else none), sd := sd.val, issued := c.d.time }
        .op { c.d with coll := { c.d.coll with gets := c.d.coll.gets ++ [w] } } (Op.of .collGet RegWrites.none false) 0
/-- `coll.get` (R325). -/
def execCollGet (d a : SReg) (chunk : SL) (dst : SReg) (s : State) := runCode (.collGet d a chunk dst) none s (collGetBody d a chunk dst)

/-! The sideboard. -/

/-- `step.adv` (R326, R412). -/
def stepAdvDone (sd : SReg) (t : Option Word) (c : Ctx) : Done :=
  match c.d.job c.g.job with
  | some j =>
    if leadOk c.P j c.g.stepCur then .act (advanceStep c.P c.d c.gid) (scaWrite sd.val 0) false 0
    else
      let n := (t.getD 0).toNat
      .wait (beginWait c.d c.gid (.stepAdv sd) 7 1 (if n = 0 then 0 else c.d.clock + n) 0 c.sp.here)
  | none => .act (advanceStep c.P c.d c.gid) (scaWrite sd.val 0) false 0
/-- `step.adv` (R326). -/
def execStepAdv (d : SReg) (t : Option Word) (s : State) := runCode (.stepAdv d t) none s fun _ => .ok (stepAdvDone d t)
/-- The value `step.rd` reads for a selector below 514 (R327). -/
def stepRead (P : Platform) (j : Job) (p : Nat) : Nat :=
  let entry (q : Nat) : Nat := (((Tbl.find j.sideboard q).map (·.step)).getD j.step0).toNat
  if p < 512 then entry p + (if p != P.own && j.sbMem.getLsbD p && !P.foreign p && !sbPresent P j p then 2 ^ 32 else 0)
  else if p = 512 then ((sbLeast P j).getD j.step0).toNat
  else entry P.own
/-- `step.rd` (R327). -/
def stepRdBody (sd : SReg) (p : SL) (c : Ctx) : Except Stop (Ctx → Done) :=
  let n := slVal c.g c.sp p
  if 514 ≤ n then .error (.raise (Exc.of .peerRange))
  else .ok fun c => .act c.d (scaWrite sd.val (match c.d.job c.g.job with | some j => stepRead c.P j n | none => 0)) false 0
/-- `step.rd` (R327). -/
def execStepRd (d : SReg) (peer : SL) (s : State) := runCode (.stepRd d peer) none s (stepRdBody d peer)

/-! Hutch commands. -/

/-- The operation reads an S array (R418). -/
def hutchHasSrc (op : Nat) : Bool := op == 1 || op == 3 || op == 4
/-- Item 1 of R421 on the four words of a command. -/
def hutchWordsOk (ws : List DWord) : Bool :=
  let w (i : Nat) : Nat := (ws.getD i 0).toNat
  let op := w 0 % 256
  decide (1 ≤ op) && decide (op ≤ 5) && w 1 % 64 == 0 && (if hutchHasSrc op then w 2 % 64 == 0 else w 2 == 0) &&
  (match op with | 1 => w 3 % 64 == 0 | 2 => decide (w 3 < 2 ^ 32) | 4 => w 3 == 0 | 5 => w 3 % 8 == 0 | _ => true)
/-- A page as a group's translation has it, without a version record's check (R421 items 2 and 3). -/
def hutchLeaf (c : Ctx) (acc : Access) (va : DWord) : Except Stop Leaf :=
  let e (x : ExcCode) : Except Stop Leaf := .error (.raise { code := x, lane := none, info := va })
  if va.toNat / 2 ^ 48 ≠ 0 then e .address
  else match (findLeaf (c.d.core c.g.core).xlat c.g.job va.toNat) <|> (findLeaf (c.d.cluster (c.g.core / 4)).xlat c.g.job va.toNat) with
    | none => .error (.miss none va acc)
    | some l =>
      if (match acc with | .load => !l.r | .store => !l.w && !l.repl | .fetch => !l.x) then e .translationFatal
      else if badAttr l.attr then e .pageAttribute
      else .ok l
/-- The pages of a range, from an address on, in 64 KiB strides; each leaf once. -/
def hutchPages (get : DWord → Except Stop Leaf) : Nat → Nat → Nat → Except Stop (List HutchPage)
  | 0, _, _ => .ok []
  | n + 1, a, stop => match get (BitVec.ofNat 64 a) with
    | .error e => .error e
    | .ok l =>
      let next := l.base + l.size
      if stop ≤ next then .ok [{ leaf := l, slot := none }]
      else match hutchPages get n next stop with
        | .error e => .error e
        | .ok ps => .ok ({ leaf := l, slot := none } :: ps)
/-- The frames a page of a command may be reached in (R421). -/
def hutchFrames (d : Device) (die : Nat) (l : Leaf) : List Nat := if l.ver then (readSlots d l.addr).map (·.frame) else ((leafFrame d l die).map fun f => [f]).getD []
/-- The stacks of a range, over every frame of its pages (R421). -/
def hutchStacks (d : Device) (die a n : Nat) (ps : List HutchPage) : List Nat :=
  ps.foldl (fun acc p =>
    let lo := max a p.leaf.base - p.leaf.base
    let hi := min (a + n) (p.leaf.base + p.leaf.size) - p.leaf.base
    if hi ≤ lo then acc
    else ((hutchFrames d die p.leaf).flatMap fun f => (List.range ((hi - 1) / 4096 - lo / 4096 + 1)).map fun i => p.leaf.phys f ((lo / 4096 + i) * 4096) / 2 ^ 36).foldl (fun acc s => if acc.contains s then acc else acc ++ [s]) acc) []
/-- The ranges item 2 of R421 checks, in ascending address: which operand, its address, its bytes, its access. -/
def hutchRanges (ws : List DWord) : List (Nat × Nat × Nat × Access) :=
  let w (i : Nat) : Nat := (ws.getD i 0).toNat
  let op := w 0 % 256
  let n := w 0 / 256 % 2 ^ 24
  sortBy (fun (x y : Nat × Nat × Nat × Access) => decide (x.2.1 ≤ y.2.1)) ([(0, w 1, 4 * n, if op = 5 then Access.load else Access.store)] ++ (if hutchHasSrc op then [(1, w 2, 4 * n, Access.load)] else []) ++ (if op = 5 then [(2, w 3, 8, Access.store)] else []))
/-- Translates the ranges in turn. -/
def hutchTranslate (c : Ctx) : List (Nat × Nat × Nat × Access) → Except Stop (List (Nat × List HutchPage))
  | [] => .ok []
  | (k, a, n, acc) :: t => match hutchPages (hutchLeaf c acc) (n / 65536 + 2) a (a + n) with
    | .error e => .error e
    | .ok ps => match hutchTranslate c t with
      | .error e => .error e
      | .ok r => .ok ((k, ps) :: r)
/-- `hcmd` (R328, R417, R421): held. -/
def hcmdBody (tl : TimelineNo) (sn : SReg) (c : Ctx) : Except Stop (Ctx → Done) :=
  let ws := (List.range 4).map fun i => BitVec.ofNat 64 (readS c.g c.sp (sn.val + i))
  let w (i : Nat) : Nat := (ws.getD i 0).toNat
  if !hutchWordsOk ws then .error (.raise (Exc.of .hutchCommand))
  else match hutchTranslate c (hutchRanges ws) with
    | .error e => .error e
    | .ok r =>
      let pages (k : Nat) : List HutchPage := ((r.find? fun e => e.1 == k).map (·.2)).getD []
      let die := c.g.core / 128
      let n := 4 * (w 0 / 256 % 2 ^ 24)
      let all := pages 0 ++ pages 1 ++ pages 2
      let first := ((pages 0).head?.bind fun p => (hutchFrames c.d die p.leaf).head?.map fun f => p.leaf.phys f (w 1 - p.leaf.base) / 2 ^ 36).getD 0
      let sts := (hutchStacks c.d die (w 1) n (pages 0) ++ hutchStacks c.d die (w 2) n (pages 1)).eraseDups
      if all.any fun p => (!p.leaf.ver || recordOk c.d p.leaf.addr) && (hutchFrames c.d die p.leaf).any fun f => !physOk f then .error .absent
      else if all.any (fun p => p.leaf.ver && !recordOk c.d p.leaf.addr) || (w 0 / 2 ^ 32 != 0 && !(pages 0).any fun p => p.leaf.ver) || decide (1 < sts.length) || (pages 1 ++ pages 2).any (fun p => p.leaf.ver || p.leaf.repl) then .error (.raise (Exc.of .hutchCommand))
      else .ok fun c =>
        let cmd : HutchCmd := { id := c.d.nextId, words := ws, job := c.g.job, team := c.g.team, group := c.gid, tl := tl.val, number := 0, die, stack := sts.headD first, dst := pages 0, src := pages 1, aux := pages 2, mPages := [], mAddr := 0, hyper := [], err := none, ready := false, since := 0, at_ := 0, sums := (0, 0) }
        .act (holdEffect c { c.d with nextId := c.d.nextId + 1 } 0xBA (ws.getD 1 0) [] (.hcmd tl.val cmd)) RegWrites.none false 0
/-- `hcmd` (R328). -/
def execHcmd (tl : TimelineNo) (sn : SReg) (s : State) := runCode (.hcmd tl sn) none s (hcmdBody tl sn)

/-! Index ranges and graphs. -/

/-- The launch of the group's team that has an index range, or 0 (R329, R342). -/
def rangeLaunch (d : Device) (g : Group) : Nat :=
  match (Tbl.find d.teams g.team).bind (launchOf d) with
  | some l => if l.fields.getD 7 0 = 0 then 0 else l.id
  | none => 0
/-- A core has handled, in this clock, a STEAL or a `take` of a higher slot: a `take` of the slot would come before it (R358). -/
def takeLate (d : Device) (g : Group) : Bool := match (d.core g.core).lastTake with | some (t, rank) => t == d.clock && decide (g.slot < rank) | none => false
/-- `take` (R329, R358): a request on the core. -/
def takeBody (sd : SReg) (n : SL) (c : Ctx) : Except Stop (Ctx → Done) :=
  let k := slVal c.g c.sp n
  if k = 0 || decide (65536 < k) then .error (.raise (Exc.of .operandDescriptor))
  else if takeLate c.d c.g then .error (.stall .other)
  else .ok fun c => .op (c.d.modCore c.g.core fun x => { x with lastTake := some (c.d.clock, c.g.slot), takes := x.takes ++ [{ group := c.gid, op := c.d.nextId, launch := rangeLaunch c.d c.g, n := k, sd := sd.val }] }) (Op.of .take RegWrites.none false) 0
/-- `take` (R329). -/
def execTake (d : SReg) (n : SL) (s : State) := runCode (.take d n) none s (takeBody d n)
/-- A core's ranges for a launch (R356). -/
def rangesOf (x : Core) (l : Nat) : Ranges := Tbl.getD x.ranges l { lo := 0, hi := 0, spareLo := 0, spareHi := 0 }
/-- `steal` (R330, R358). -/
def stealDone (k : SL) (c : Ctx) : Done :=
  let v := slVal c.g c.sp k
  let l := rangeLaunch c.d c.g
  let r := rangesOf (c.d.core c.g.core) l
  .act (if decide (512 ≤ v) || v == c.g.core || l == 0 || decide (r.spareLo < r.spareHi) then c.d else c.d.modCore v fun x => { x with steals := x.steals ++ [{ thief := c.g.core, launch := l, forTake := false, lo := 0, hi := 0 }] }) RegWrites.none false 0
/-- `steal` (R330). -/
def execSteal (core : SL) (s : State) := runCode (.steal core) none s fun _ => .ok (stealDone core)
/-- `gw.launch` (R211, R291, R331): a device-scope release, which follows every effect that the group has handed over, then the graph is submitted; a misaligned address is one of the record's own checks (R343). -/
def gwLaunchBody (sd sa : SReg) (c : Ctx) : Except Stop (Ctx → Done) :=
  let record := BitVec.ofNat 64 (readS c.g c.sp sa.val)
  if !c.g.handed.isEmpty || !c.g.releases.isEmpty then .error (.stall .other)
  else match wholeGroup (placeLanes c .load 1 (fun _ => none) [(0, record)]) with
  | .error e => .error e
  | .ok _ => .ok fun c => .op (c.d.modGroup c.gid fun g => { g with releases := g.releases ++ [{ scope := .dev, posted := false, toArrive := [], toAck := [], act := .launch c.d.nextId sd.val record }] }) { Op.of .pending RegWrites.none false with closing := some c.k } 0
/-- `gw.launch` (R331). -/
def execGwLaunch (d a : SReg) (s : State) := runCode (.gwLaunch d a) none s (gwLaunchBody d a)

/-! Migration. -/

/-- The first free chunk of a core becomes block `e` of a group, whose contents travel with it. -/
def claimChunk (gid core : Nat) (d : Device) (e : Nat) : Device :=
  match freeChunk (d.core core) with
  | some k => d.modCore core fun x => { x with chunkOwners := Tbl.set x.chunkOwners k (8 * gid + e) }
  | none => d
/-- A core has the room a migration needs (R66). -/
def migRoom (d : Device) (g : Group) (t : Nat) : Bool := (firstSlot d t).isSome && decide (g.h ≤ freeChunks (d.core t))
/-- What is owed to a group's old core: the acknowledgements of its stores and operations (R67). -/
def owedOps (g : Group) : List Nat := (g.sb ++ g.sent).map (·.op) ++ g.ops.map (·.id)
/-- Moves a group off its core: it travels as one message, its place at the target held; the old core keeps a forwarding entry (R66, R67). -/
def departGroup (d : Device) (g : Group) (t : Nat) : Device :=
  let x := d.drawer g.core g.block
  let d := (depositRegs d g.id).freeDrawer g.core g.block
  let slot := (firstSlot d t).getD 0
  let pos := (freePos d t slot).headD 0
  let block := blockAt d t slot pos
  let d := (List.range g.h).foldl (claimChunk g.id t) d
  let d := d.setDrawer t block { x with gen := (d.drawer t block).gen, ownerBlock := block }
  let d := d.modGroup g.id fun g => { emptyBypass g with state := .migrating, core := t, slot, pos, block, yielded := none }
  let d := d.modCore g.core fun k => { k with shelf := dropShelf g.id k.shelf, forwards := k.forwards ++ [{ group := g.id, drawer := g.block, gen := x.gen, owed := owedOps g }] }
  let d := clearMatches d g.core g.job
  grantChunks g.core ((d.core g.core).chunkQueue.length + 1) d
/-- The status of a migration (R332): a core is disabled with its cluster (R30). -/
def migStatus (P : Platform) (d : Device) (g : Group) (t : Nat) : Nat :=
  if decide (512 ≤ t) || !P.clusterOn (t / 4) then 1
  else if t = g.core then 3
  else if (Tbl.vals (d.core g.core).tiles).any fun x => x.owner == some g.id then 2
  else if migRoom d g t then 0 else 1
/-- The migration itself, after every region has closed (R332). -/
def migDone (sd : SReg) (t : Nat) (c : Ctx) : Done :=
  let d := c.d.modCore c.g.core fun k => { k with shelf := dropShelf c.gid k.shelf }
  let st := migStatus c.P d c.g t
  if st = 0 then .op (departGroup d c.g t) { Op.of .pending (scaWrite sd.val 0) false with closing := some c.k } 0
  else .act d (scaWrite sd.val st) false 0
/-- Another split has a closing instruction outstanding (R332). -/
def othersClosing (c : Ctx) : Bool := c.g.ops.any fun o => match o.closing with | some k => k != c.k | none => false
/-- `mig` (R332). -/
def migBody (sd : SReg) (k : SL) (c : Ctx) : Except Stop (Ctx → Done) :=
  if othersClosing c then .error (.stall .other) else .ok fun c => migDone sd (slVal c.g c.sp k) c
/-- `mig` (R332). -/
def execMig (d : SReg) (core : SL) (s : State) := runCode (.mig d core) none s (migBody d core)
/-- `mig.near` (R333). -/
def migNearBody (sd sa : SReg) (c : Ctx) : Except Stop (Ctx → Done) :=
  if othersClosing c then .error (.stall .other)
  else match wholeGroup (placeLane c .load 1 (fun _ => none) 0 (BitVec.ofNat 64 (readS c.g c.sp sa.val))) with
    | .error e => .error e
    | .ok p => .ok fun c => migDone sd (homeSlice c.P p.pa) c
/-- `mig.near` (R333). -/
def execMigNear (d a : SReg) (s : State) := runCode (.migNear d a) none s (migNearBody d a)

end Sys2Proof.Machine
end

