-- ==== Sys2Proof/Machine/Control.lean ====
section
/-! DEFINITION. Row 0xD_: branches and splits (R37, R38, R181 to R183), `merge` (R185), calls and computed jumps (R186, R187), `halt` (R189), `yield` (R190), regions (R119) and extended blocks (R74, R75, R191). -/

namespace Sys2Proof.Machine
open Sys2Proof

/-- The target of an offset in 16-byte units from the branch's own clause (R114, R180). -/
def branchTarget (sp : Split) (off : BitVec 30) : DWord := sp.pc + BitVec.ofInt 64 (16 * off.toInt)
/-- The merge point of a `brd` (R114, R182). -/
def mergePoint (sp : Split) (off : BitVec 30) (merge : Option Word) : DWord :=
  match merge with
  | some w => sp.pc + BitVec.ofInt 64 (16 * w.toInt)
  | none => branchTarget sp off
/-- The split is transferred to a clause as a whole. -/
def jumpTo (c : Ctx) (target : DWord) : Done := .jump (c.d.modGroup c.gid fun g => modSplit g c.k fun sp => { gotoClause sp target .branch with noMatch := false, waitOver := false })
/-- The lowest free split number of a group. -/
def freeSplit (g : Group) : Nat := ([0, 1, 2, 3].find? fun k => (splitOf g k).isNone).getD 3
/-- The group's number of splits. -/
def splitCount (g : Group) : Nat := g.splits.length
/-- Divides a split: the lanes `t` form a new split at a clause with the given merge stack, the rest stay; the parent's region closes, and both begin regions with the whole held set (R37, R40, R187, R188). -/
def divide (clock : Nat) (cl : Bool) (g : Group) (k : Nat) (t : Mask) (target : DWord) (merges : List DWord) (parent : Split → Split) : Group :=
  match splitOf g k with
  | none => g
  | some sp =>
    let n := freeSplit g
    let child := { gotoClause sp target .branch with mask := t, merges, bypass := [], noMatch := false, waitOver := false, stall := none, waitSince := clock }
    let g := modSplit g k fun sp => { parent { sp with merges } with mask := sp.mask &&& ~~~t }
    let g := closeRegion clock cl g k
    let g := { g with splits := Tbl.set g.splits n child, ops := g.ops.map fun o => if o.splits.contains k then { o with splits := o.splits ++ [n] } else o }
    modSplit g n fun sp => { sp with region := wholeRegion clock g sp, gone := cl }
/-- `bra` (R181): taken with any selected lane, or with `.all` when every lane is. -/
def braDone (g : Option Guard) (all : Bool) (off : BitVec 30) (c : Ctx) : Done :=
  if g.isNone || (if all then c.lanes == c.sp.mask else c.lanes != 0) then jumpTo c (branchTarget c.sp off) else .act c.d RegWrites.none false 0
/-- `bra` (R181). -/
def execBra (g : Option Guard) (all : Bool) (off : BitVec 30) (s : State) := runCode (.bra g all off) g s fun _ => .ok (braDone g all off)
/-- The push of a deferral (R38): the split goes on with the lanes of T. -/
def defer (c : Ctx) (target merge : DWord) : Done :=
  let e : Deferral := { split := c.k, resumePc := nextClause c.sp, resumeMask := c.sp.mask &&& ~~~c.lanes, merge, parked := 0, second := false }
  .jump (c.d.modGroup c.gid fun g =>
    closeRegion c.d.clock (closing c.d g) (modSplit { g with deferrals := g.deferrals ++ [e] } c.k fun sp => { gotoClause sp target .branch with mask := c.lanes, noMatch := false, waitOver := false }) c.k)
/-- `brd` (R37, R38, R182, R183). -/
def brdBody (off : BitVec 30) (merge : Option Word) (c : Ctx) : Except Stop (Ctx → Done) :=
  let target := branchTarget c.sp off
  let m := mergePoint c.sp off merge
  if c.lanes = 0 then .ok fun c => .act c.d RegWrites.none false 0
  else if c.lanes = c.sp.mask then .ok fun c => jumpTo c target
  else if splitCount c.g < 4 then
    if 8 ≤ c.sp.merges.length then .error (.raise (Exc.of .divergenceOverflow))
    else .ok fun c => .jump (c.d.modGroup c.gid fun g => divide c.d.clock (closing c.d g) g c.k c.lanes target (c.sp.merges ++ [m]) fun sp => { gotoClause sp (nextClause sp) .fallThrough with noMatch := false, waitOver := false })
  else if 16 ≤ c.g.deferrals.length then .error (.raise (Exc.of .divergenceOverflow))
  else .ok fun c => defer c target m
/-- `brd` (R182). -/
def execBrd (g : Option Guard) (off : BitVec 30) (merge : Option Word) (s : State) := runCode (.brd g off merge) g s (brdBody off merge)
/-- `merge` (R185): the split waits at the start of the next clause; with one split nothing. -/
def mergeDone (c : Ctx) : Done :=
  let more := decide (1 < (liveSplits c.g).length)
  .jump (c.d.modGroup c.gid fun g => modSplit g c.k fun sp => { gotoClause sp (nextClause sp) .fallThrough with mergeWait := more, noMatch := false, waitOver := false })
/-- `merge` (R185). -/
def execMergeWait (s : State) := runCode .mergeWait none s fun _ => .ok mergeDone
/-- The link of a call: a pair at the active lanes, or a scalar (R186). -/
def linkWrites (c : Ctx) (link : Reg) (ra : Nat) : RegWrites :=
  match link with
  | .v n => vecWrites n.val 2 (lanesOf c.lanes) fun _ => ra
  | .s n => scaWrite n.val ra
/-- `call` (R186). -/
def callDone (link : Reg) (off : BitVec 30) (c : Ctx) : Done :=
  let w := linkWrites c link (nextClause c.sp).toNat
  match jumpTo c (branchTarget c.sp off) with
  | .jump d => .jump (landResult d c.gid c.k w false 0 false)
  | x => x
/-- `call` (R186). -/
def execCall (link : Reg) (off : BitVec 30) (s : State) := runCode (.call link off) none s fun _ => .ok (callDone link off)
/-- A computed transfer (R187): lanes with the lowest lane's target divide off where targets differ. -/
def computedBody (target : Ctx → Nat → DWord) (c : Ctx) : Except Stop (Ctx → Done) :=
  let t0 (c : Ctx) : DWord := target c ((lanesOf c.lanes).headD 0)
  let part (c : Ctx) : Mask := maskWhere c.lanes fun l => target c l == t0 c
  if part c = c.lanes then .ok fun c => jumpTo c (t0 c)
  else if splitCount c.g < 4 then .ok fun c => .jump (c.d.modGroup c.gid fun g => divide c.d.clock (closing c.d g) g c.k (part c) (t0 c) c.sp.merges fun sp => { sp with mergeWait := false })
  else .error (.raise (Exc.of .divergenceOverflow))
/-- The 64-bit value of a link or target register at a lane (R186). -/
def linkValue (c : Ctx) (r : Reg) (lane : Nat) : DWord := BitVec.ofNat 64 (base64 c.g c.sp lane r)
/-- `ret` (R187). -/
def execRet (link : Reg) (s : State) := runCode (.ret link) none s (computedBody fun c => linkValue c link)
/-- `ret` through v30 (R186). -/
def execRetShort (s : State) := runCode .retShort none s (computedBody fun c => linkValue c (.v (Fin.ofNat 224 30)))
/-- `jmp` (R186, R187). -/
def execJmp (t : Reg) (off : BitVec 30) (s : State) := runCode (.jmp t off) none s (computedBody fun c l => linkValue c t l + BitVec.ofInt 64 (16 * off.toInt))
/-- A split ends: its region closes, and it leaves every operation (R40, R189). -/
def endSplit (clock : Nat) (g : Group) (k : Nat) : Group :=
  let g := closeRegion clock false g k
  { g with splits := Tbl.erase g.splits k, ops := g.ops.map fun o => { o with splits := o.splits.filter (· != k) } }
/-- Writes the top deferral entry of a split in its place, or takes it off the stack (R38). -/
def putDeferral (es : List Deferral) (k : Nat) (x : Option Deferral) : List Deferral :=
  match findWhere (fun e : Deferral => e.split == k) es.reverse 0 with
  | some (i, _) => match x with
    | some e => (listSet es.reverse i e).reverse
    | none => (es.reverse.eraseIdx i).reverse
  | none => es
/-- A step of R38 for a split that stands at the merge point of its top entry: its region closes, and it goes on with the lanes of N, or with all its lanes. One that has no lane left takes the next entry in turn, or ends (R38, R189); `fuel` bounds the entries. -/
def deferralApply (clock : Nat) (cl : Bool) (k : Nat) : Nat → Group → Group
  | 0, g => g
  | fuel + 1, g =>
    match splitOf g k, topDeferral g k with
    | some sp, some e =>
      let g := closeRegion clock cl g k
      let at_ (pc : DWord) (sp : Split) : Split := { gotoClause sp pc .resumed with noMatch := false, waitOver := false }
      let place (f : Split → Split) (g : Group) : Group := modSplit g k fun sp => { f sp with region := wholeRegion clock g (f sp) }
      if e.second then
        let g := place (fun sp => { (if sp.mask = 0 then at_ e.merge sp else sp) with mask := sp.mask ||| e.parked }) { g with deferrals := putDeferral g.deferrals k none }
        if sp.mask ||| e.parked = 0 then deferralApply clock cl k fuel g else g
      else place (fun sp => { at_ e.resumePc sp with mask := e.resumeMask }) { g with deferrals := putDeferral g.deferrals k (some { e with parked := sp.mask, second := true }) }
    | some _, none => endSplit clock g k
    | none, _ => g
/-- `halt` of the active lanes (R188, R189). -/
def haltDone (c : Ctx) : Done :=
  if c.lanes = 0 then .act c.d RegWrites.none false 0
  else
    let left := c.sp.mask &&& ~~~c.lanes
    if left ≠ 0 then .jump (c.d.modGroup c.gid fun g => closeRegion c.d.clock (closing c.d g) (modSplit g c.k fun sp => { gotoClause { sp with mask := left } (nextClause sp) .fallThrough with noMatch := false, waitOver := false }) c.k)
    else .jump (c.d.modGroup c.gid fun g => deferralApply c.d.clock (closing c.d g) c.k 17 (modSplit g c.k fun sp => { sp with mask := 0 }))
/-- `halt` (R189). -/
def execHalt (g : Option Guard) (s : State) := runCode (.halt g) g s fun _ => .ok haltDone
/-- `halt` of the whole split (R189). -/
def execHaltShort (s : State) := runCode .haltShort none s fun _ => .ok haltDone
/-- `yield` changes no state of the program; its issue turns are given up as it issues (R190). -/
def yieldDone (c : Ctx) : Done := .act c.d RegWrites.none false 0
/-- `yield` (R190). -/
def execYield (s : State) := runCode .yield none s fun _ => .ok yieldDone
/-- Short `yield` (R190). -/
def execYieldShort (s : State) := runCode .yieldShort none s fun _ => .ok yieldDone
/-- `rgn` (R80, R119): the open region closes, and one with the named live-ins opens at the next clause. -/
def rgnBody (f : RgnF) (c : Ctx) : Except Stop (Ctx → Done) :=
  let named (k : Nat) : Bool := if k < 32 then f.vmask.getLsbD k else if k < 224 then f.xmask.getLsbD ((k - 32) / 32) else f.smask.getLsbD (k - 224)
  if (List.range 6).any fun e => f.xmask.getLsbD e && decide (c.g.h ≤ e) then .error (.raise (Exc.of .unheldRegister))
  else if (Tbl.keys c.g.transients).any named then .error (.raise (Exc.of .transientLost))
  else .ok fun c => .jump (c.d.modGroup c.gid fun g =>
    let cl := closing c.d g
    let g := closeRegion c.d.clock cl g c.k
    modSplit g c.k fun sp =>
      let sp := { gotoClause sp (nextClause sp) .fallThrough with noMatch := false, waitOver := false }
      { sp with region := { clause := sp.pc, index := 0, longs := 0, whole := false, vmask := f.vmask, smask := f.smask, xmask := f.xmask, pmask := f.pmask, rsCtr := g.rsCtr, since := c.d.clock } })
/-- `rgn` (R119). -/
def execRgn (f : RgnF) (s : State) := runCode (.rgn f) none s (rgnBody f)
/-- `xacq` (R74, R75): at once when nothing waits before it and the chunks are free. -/
def xacqBody (n : BitVec 8) (c : Ctx) : Except Stop (Ctx → Done) :=
  let k := n.toNat
  if k = 0 || decide (6 < c.g.h + k) then .error (.raise (Exc.of .illegalInstruction))
  else .ok fun c =>
    let core := c.d.core c.g.core
    if core.chunkQueue.isEmpty && decide (k ≤ freeChunks core) then .act (takeChunks c.d c.gid k) RegWrites.none false 0
    else .wait (beginWait (c.d.modCore c.g.core fun x => { x with chunkQueue := x.chunkQueue ++ [(c.gid, k)] }) c.gid (.xacq k) 5 1 0 0 c.sp.here)
/-- `xacq` (R191). -/
def execXacq (n : BitVec 8) (s : State) := runCode (.xacq n) none s (xacqBody n)
/-- `xrel` (R74, R191). -/
def xrelBody (n : BitVec 8) (c : Ctx) : Except Stop (Ctx → Done) :=
  let k := n.toNat
  if k = 0 || decide (c.g.h < k) then .error (.raise (Exc.of .illegalInstruction))
  else .ok fun c => .act (grantChunks c.g.core ((c.d.core c.g.core).chunkQueue.length + 1) (giveChunks c.d c.gid k)) RegWrites.none false 0
/-- `xrel` (R191). -/
def execXrel (n : BitVec 8) (s : State) := runCode (.xrel n) none s (xrelBody n)

end Sys2Proof.Machine
end

