-- ==== Sys2Proof/Machine/System.lean ====
section
/-! DEFINITION. Row 0xC_: reads and writes of control registers (R68, R131, R335, R336, R366, R399 and the tables they name) and `trap` (R334). -/

namespace Sys2Proof.Machine
open Sys2Proof

/-- `trap` (R334): the software trap with its code. -/
def execTrapCode (code : Half) (s : State) := runCode (.trapCode code) none s fun _ => .error (.raise { code := .software, lane := none, info := code.zeroExtend 64 })

/-! Control registers. -/

/-- The tiles a group has reserved, as a mask (R294, R336). -/
def heldTiles (d : Device) (g : Group) : Nat := ((d.core g.core).tiles.filter fun e => e.2.owner == some g.id).foldl (fun m e => m + 2 ^ e.1) 0
/-- Completion counts of the group's own launch, graph, phase and job (R57, R68). -/
def ownCount (d : Device) (g : Group) (level : Nat) : Nat :=
  let l := (Tbl.find d.teams g.team).bind (launchOf d)
  match level with
  | 0 => (l.map (·.count)).getD 0
  | 1 => (((l.bind (·.graph)).bind fun x => Tbl.find d.graphs x.1).map (·.count)).getD 0
  | 2 => (((l.bind (·.phase)).bind fun x => Tbl.find d.phases x).map (·.count)).getD 0
  | _ => ((d.job g.job).map (·.count)).getD 0
/-- A match register as a job reads it (R132). -/
def matchRead (d : Device) (g : Group) (i : Nat) : Nat :=
  let m := (d.core g.core).matches_.getD i (0, none)
  if m.2 = some g.job then m.1.toNat else 0
/-- `peer.iso` word `i` (R399). -/
def isoWord (P : Platform) (d : Device) (i : Nat) : Nat :=
  ((List.range 64).filter fun b => 64 * i + b != P.own && (!P.valid (64 * i + b) || (d.peer (64 * i + b)).state != .up)).foldl (fun m b => m + 2 ^ b) 0
/-- A control register as an instruction of a split reads it; a write-only one reads 0 (R335). -/
def ctlRead (c : Ctx) (n : Nat) : Nat :=
  let t := Tbl.find c.d.teams c.g.team
  let job (f : Job → Nat) : Nat := ((c.d.job c.g.job).map f).getD 0
  if n = 0x01 then (locOf c.P c.g).toNat
  else if n = 0x02 then c.g.name.toNat
  else if n = 0x03 then c.g.index
  else if n = 0x04 then (t.map (·.index)).getD 0
  else if n = 0x05 then c.k
  else if n = 0x06 then c.g.job
  else if 0x10 ≤ n && n ≤ 0x13 then ownCount c.d c.g (n - 0x10)
  else if n = 0x20 then c.g.rsKey.toNat
  else if n = 0x21 then c.g.rsCtr.toNat
  else if 0x30 ≤ n && n ≤ 0x37 then matchRead c.d c.g (n - 0x30)
  else if n = 0x40 then c.g.raFcnt.toNat
  else if n = 0x41 then c.g.raFlast.toNat
  else if n = 0x50 then c.g.verLast.toNat
  else if n = 0x60 then c.g.stepCur.toNat
  else if n = 0x61 then job fun j => j.lead.toNat
  else if n = 0x62 then heldTiles c.d c.g
  else if 0x80 ≤ n && n ≤ 0x87 then job fun j => (j.sbMem.extractLsb' (64 * (n - 0x80)) 64).toNat
  else if n = 0x88 then job fun j => j.sbAbsent.toNat
  else if 0x90 ≤ n && n ≤ 0x97 then isoWord c.P c.d (n - 0x90)
  else if n = 0x98 then job fun j => j.collDrop + j.collLost * 2 ^ 32
  else 0
/-- The register has 64 bits. -/
def ctlWide (n : Nat) : Bool := match ctlKind n with | some .ro64 | some .rw64 | some .wo64 => true | _ => false
/-- `sys.rd` (R335). -/
def sysRdWrites (d : Reg) (n : Nat) (c : Ctx) : RegWrites :=
  match d with
  | .s k => scaWrite k.val (ctlRead c n)
  | .v r => vecWrites r.val (if ctlWide n then 2 else 1) (lanesOf c.lanes) fun l => if n = 0 then l else ctlRead c n
/-- `sys.rd` (R335). -/
def execSysRd (d : Reg) (num : Half) (s : State) := runCode (.sysRd d num) none s (result (sysRdWrites d num.toNat) false fun _ => 0)
/-- A write of a control register that has no row of its own: the device after it, and what it adds to `rs.ctr` (R93, R131, R335, R366, R399). -/
def ctlWrite (c : Ctx) (n : Nat) (v : DWord) : Device × Nat :=
  if n = 0x20 then (c.d.modGroup c.gid fun g => { g with rsKey := v }, 0)
  else if n = 0x21 then (c.d, (v - c.g.rsCtr).toNat)
  else if 0x30 ≤ n && n ≤ 0x37 then (c.d.modCore c.g.core fun k => { k with matches_ := listSet k.matches_ (n - 0x30) (v &&& ~~~2#64, some c.g.job) }, 0)
  else if n = 0x40 then (c.d.modGroup c.gid fun g => { g with raFcnt := v }, 0)
  else if n = 0x70 then (c.d.modJob c.g.job fun j => { j with trapActs := j.trapActs ++ [v] }, 0)
  else if n = 0x88 then (c.d.modJob c.g.job fun j => { j with sbAbsent := BitVec.ofNat 32 (min 10000000 (max 1000 (v.toNat % 2 ^ 32))) }, 0)
  else (c.d, 0)
/-- `sys.wr` (R335): a read-only register raises its trap. -/
def sysWrBody (n : Nat) (sc : SReg) (_ : Ctx) : Except Stop (Ctx → Done) :=
  match ctlKind n with
  | some .ro32 | some .ro64 => .error (.raise (Exc.of .readOnlyControl))
  | _ => .ok fun c =>
    let r := ctlWrite c n (BitVec.ofNat 64 (readS c.g c.sp sc.val))
    .act r.1 RegWrites.none false r.2
/-- `sys.wr` (R335). -/
def execSysWr (num : Half) (sc : SReg) (s : State) := runCode (.sysWr num sc) none s (sysWrBody num.toNat sc)
/-- The value a control write takes. -/
def writeValue (c : Ctx) (sc : SReg) : DWord := BitVec.ofNat 64 (readS c.g c.sp sc.val)
/-- `sys.wr xlt.inv` (R366). -/
def execXltInv (sc : SReg) (s : State) := runCode (.xltInv sc) none s fun _ => .ok fun c => .act (dropLeaf c.d c.g.job (writeValue c sc).toNat) RegWrites.none false 0
/-- A byte belongs to a store that its group has not had acknowledged (R135). -/
def storeOut (d : Device) (a : Nat) : Bool := (Tbl.vals d.groups).any fun g => g.sent.any fun e => e.lanes.any fun l => decide (l.pa ≤ a) && decide (a < l.pa + l.data.length)
/-- Drops a job's instruction-cache lines on every core, and what its fetch keeps of the contents before stores that have been acknowledged (R131, R135). -/
def flushCode (d : Device) (job : Nat) : Device :=
  { d with cores := Tbl.mapVals (fun (c : Core) => { c with icache := c.icache.filter fun e => e.1 != job }) d.cores }.modJob job fun j => { j with codeOld := j.codeOld.filter fun e => storeOut d e.1 }
/-- `sys.wr dbg.iflush` (R131). -/
def execDbgIflush (sc : SReg) (s : State) := runCode (.dbgIflush sc) none s fun _ => .ok fun c => .act (flushCode c.d c.g.job) RegWrites.none false 0
/-- `sys.wr ctl.lead` (R336): a write above 15 writes 15; the sideboard evaluates its rule again (R412). -/
def execCtlLeadWrite (sc : SReg) (s : State) := runCode (.ctlLeadWrite sc) none s fun _ => .ok fun c =>
  .act (sbEvaluate c.P (c.d.modJob c.g.job fun j => { j with lead := BitVec.ofNat 32 (min 15 ((writeValue c sc).toNat % 2 ^ 32)) }) c.g.job) RegWrites.none false 0
/-- Replaces word `i` of the member mask. -/
def maskWord (m : BitVec 512) (i : Nat) (v : DWord) : BitVec 512 := (m &&& ~~~((BitVec.allOnes 64).zeroExtend 512 <<< (64 * i))) ||| (v.zeroExtend 512 <<< (64 * i))
/-- `sys.wr sb.mem` (R399, R410). -/
def execSbMemWrite (i : Fin 8) (sc : SReg) (s : State) := runCode (.sbMemWrite i sc) none s fun _ => .ok fun c =>
  .act (sbEvaluate c.P (c.d.modJob c.g.job fun j => { j with sbMem := maskWord j.sbMem i.val (writeValue c sc) }) c.g.job) RegWrites.none false 0

end Sys2Proof.Machine
end

