-- ==== Sys2Proof/Machine/Wakes.lean ====
section
/-! DEFINITION. Drawers and waits: decrements (R44, R63), deadlines (R46), tasks (R48), the actions on a trapped group (R366, R367) and pending version-ring traps (R453). -/

namespace Sys2Proof.Machine
open Sys2Proof

/-! Decrements. -/

/-- A drawer after a decrement, and whether it came to 0 (R44, R47). A decrement of 0 changes nothing (R276). -/
def decrement (x : Drawer) (n status : Nat) : Drawer × Bool :=
  if n = 0 then (x, false)
  else if x.count = 0 then ({ x with flags := x.flags ||| 1 }, false)
  else if n < x.count.toNat then ({ x with count := x.count - BitVec.ofNat 32 n }, false)
  else ({ x with count := 0, flags := (x.flags &&& 0x0F) ||| BitVec.ofNat 8 (16 * status) ||| (if x.count.toNat < n then 1 else 0) }, true)
/-- A drawer whose deadline has passed: count 0, TIMEOUT, a new generation (R46, R47). -/
def expire (x : Drawer) : Drawer := { x with count := 0, flags := (x.flags &&& 0x0F) ||| 2, gen := x.gen + 1 }
/-- What is done to a trapped group (R366, R453); none where the action is not one. The first instruction issued after a return from a breakpoint trap is not checked against the match registers (R133). -/
def trapAction (P : Platform) (d : Device) (gid : Nat) (t : Trapped) (action : Nat) : Device :=
  let site := t.site
  let brk := t.exc.code == .breakpoint
  let halt := takeFatal P d gid site t.idx t.exc
  let again (r : RingTrap) : Device :=
    let id := d.nextId
    let d := r.lanes.foldl (fun (d : Device) x => d.modHome x.1 fun h => { h with stores := h.stores ++ [({ notice := none, source := .group gid id x.2.1, offset := x.2.2.1, step := r.step, data := x.2.2.2, since := d.clock } : VerStore)] }) (dropWait d gid)
    ({ d with nextId := id + 1 }).modGroup gid fun g => { g with ops := g.ops ++ [{ Op.of .verStore RegWrites.none false with id, site, parts := r.lanes.length }] }
  match action, t.ring with
  | 0, some r => again r
  | 0, none => (dropWait d gid).modGroup gid fun g => modSplit g site.split fun sp => resumeAt sp site brk
  | 1, some _ => dropWait d gid
  | 1, none =>
    if t.clauseCheck then halt
    else (dropWait d gid).modGroup gid fun g => modSplit g site.split fun sp =>
      if sp.code.isEmpty then resumeAt sp site brk
      else if site.index + 1 < hdrCount sp.header then { resumeAt sp site brk with index := site.index + 1 }
      else resumeAt sp { site with pc := nextClause sp, index := 0 } brk
  | 2, _ => halt
  | _, _ => d
/-- A wait that has come to its end: the waiting instruction completes from the drawer. A swapped-out group keeps the end in its saved drawer (R47, R63). -/
def endWait (P : Platform) (d : Device) (gid : Nat) : Device :=
  match Tbl.find d.groups gid with
  | none => d
  | some g =>
    if g.state == .swapped then d
    else
      let x := drawerOf d g
      match g.wait with
      | some (.trap t) => trapAction P d gid t (x.flags.toNat / 16)
      | some _ => finishWait P d gid (x.flags.toNat / 16) (x.flags.getLsbD 1)
      | none => d
/-- A decrement of a group's own drawer (R44, R46). One that comes after the deadline finds the wait timed out. -/
def decrementGroup (P : Platform) (d : Device) (g : Group) (n status : Nat) : Device :=
  let r := decrement (drawerOf d g) n status
  let d := setDrawerOf d g r.1
  if r.2 then (endWait P d g.id).modGroup g.id fun g => { g with readied := some d.clock } else d
/-- The deadline of a group's wait has passed: TIMEOUT, and later decrements are stale (R46). -/
def timeoutGroup (P : Platform) (d : Device) (g : Group) : Device :=
  let d := (setDrawerOf d g (expire (drawerOf d g))).modGroup g.id fun g => { g with waitSeq := g.waitSeq + 1 }
  endWait P (removeWatches d g.id) g.id
/-- A group's drawer has a deadline that lies behind the clock, and its count stands. -/
def pastDeadline (d : Device) (g : Group) : Bool := let x := drawerOf d g; x.deadline != 0 && x.count != 0 && decide (x.deadline.toNat < d.clock)
/-- Where a handle's drawer stands: on a core, or saved with a swapped team (R63). -/
inductive Holder where
  | core (c i : Nat) | saved (team i : Nat) | gone
  deriving DecidableEq, Repr
/-- Finds the drawer a handle names, by the handles a team keeps across a swap (R43, R63). -/
def findDrawer (d : Device) (h : Word) : Holder :=
  match (Tbl.vals d.teams).findSome? fun t => (t.aliases.find? fun a => a.1 == h).map fun a => (t, a) with
  | some (t, a) =>
    if !t.savedDrawers.isEmpty then .saved t.id a.2.1
    else if (d.drawer a.2.1 a.2.2.1).kind != 0 && (d.drawer a.2.1 a.2.2.1).gen.toNat == a.2.2.2 then .core a.2.1 a.2.2.1 else .gone
  | none =>
    let c := h.toNat / 2 ^ 15 % 512
    let i := h.toNat / 2 ^ 7 % 256
    let x := d.drawer c i
    if x.kind != 0 && handleOf c i x.gen == h then .core c i else .gone
/-- A core's forwarding entry still stands: its group is on its way, or an acknowledgement owed to the core has not come (R67). -/
def forwardLives (d : Device) (f : Forward) : Bool :=
  match Tbl.find d.groups f.group with
  | some g => g.state == .migrating || (owedOps g).any f.owed.contains
  | none => false
/-- The handle that a forwarding entry of a core sends a handle on with: the group's drawer where it is now (R67). -/
def forwardHandle (d : Device) (core : Nat) (h : Word) : Option (Nat × Word) :=
  match (d.core core).forwards.find? fun f => forwardLives d f && handleOf core f.drawer f.gen == h with
  | some f => (Tbl.find d.groups f.group).map fun g => (g.core, handleOf g.core g.block (drawerOf d g).gen)
  | none => none
/-- Forwarding entries that have served leave (R67). -/
def settleForwards (d : Device) : Device := { d with cores := Tbl.mapVals (fun (c : Core) => if c.forwards.isEmpty then c else { c with forwards := c.forwards.filter (forwardLives d) }) d.cores }
/-- What a decrement of a swapped team's drawer carries is known where the team is restored (R217). -/
def learn (d : Device) (c : DieClock) : Device := { d with sched := { d.sched with clock := clockMax d.sched.clock c } }
/-- The job of a drawer's owner (R44). -/
def drawerJob (d : Device) (x : Drawer) : Option Nat := (Tbl.find d.teams x.team).map (·.job)
/-- A decrement by handle: applied to a task drawer, held for a reserved one, sent on by a forwarding entry, or dropped and counted (R44, R67, R275, R276). -/
def decrementHandle (P : Platform) (d : Device) (core : Nat) (y : Decrement) : Device :=
  match findDrawer d y.handle with
  | .gone => match forwardHandle d core y.handle with
    | some (c, h) => d.modCore c fun k => { k with arrivals := k.arrivals ++ [{ y with handle := h, ack := none }] }
    | none => countStale P d y.job
  | .saved tid i =>
    match (Tbl.find d.teams tid).bind fun t => t.savedDrawers[i]? with
    | some (c, k, x) => if x.kind != 2 || drawerJob d x != some y.job then countStale P d y.job else (learn d y.clock).modTeam tid fun t => { t with savedDrawers := listSet t.savedDrawers i (c, k, (decrement x y.n.toNat y.status).1), imageDue := i :: t.imageDue.filter (· != i), zeroed := if (decrement x y.n.toNat y.status).2 then t.zeroed ++ [i] else t.zeroed }
    | none => countStale P d y.job
  | .core c i =>
    let x := d.drawer c i
    if x.kind != 2 || drawerJob d x != some y.job then countStale P d y.job
    else if c != core then d.modCore c fun k => { k with arrivals := k.arrivals ++ [{ y with ack := none }] }
    else if x.reserved then d.modCore c fun k => { k with held := k.held ++ [{ y with ack := none }] }
    else
      let r := decrement x y.n.toNat y.status
      let d := d.setDrawer c i r.1
      if r.2 then readyTask d c i else d
/-- The wait is one for a lock, which only its home ends by deadline (R259). -/
def lockWait (g : Group) : Bool := match g.wait with | some (.lock _ _ _ _ _ _) => true | _ => false
/-- DECREMENT_ARRIVAL at a core: the oldest on its way there, with the clock that it carries (R44, R46, R63, R67, R217). One for a wait that has come to its end finds the drawer at 0; one for another generation of the drawer, behind its deadline, or for a group that is gone, is stale. -/
def decrementArrives (core : Nat) (P : Platform) (d : Device) : Device :=
  match (d.core core).arrivals with
  | [] => d
  | y :: rest =>
    let d := (d.modCore core fun k => { k with arrivals := rest }).mergeClock (core / 128) y.clock
    let d := match y.ack with | some g => d.modGroup g fun g => { g with outEff := g.outEff - 1 } | none => d
    match y.group with
    | none => decrementHandle P d core y
    | some (gid, seq) =>
      match Tbl.find d.groups gid with
      | none => countStale P d y.job
      | some g =>
        if g.state != .swapped && g.core != core then d.modCore g.core fun k => { k with arrivals := k.arrivals ++ [y] }
        else if g.waitSeq != seq then countStale P d y.job
        else if pastDeadline d g && !lockWait g then countStale P (timeoutGroup P d g) y.job
        else decrementGroup P (if g.state == .swapped then learn d y.clock else d) g y.n.toNat y.status
/-- DECREMENT_ARRIVAL (R44). -/
def execDecrementArrival (core : Nat) (s : State) := runEvent s (decrementArrives core)
/-- WAIT_DEADLINE (R46): every wait but a lock's, whose deadline its home ends (R259). A decrement in the deadline's own clock comes first. -/
def waitExpires (gid : Nat) (P : Platform) (d : Device) : Device :=
  match Tbl.find d.groups gid with
  | none => d
  | some g => match g.wait with
    | none => d
    | some _ => if pastDeadline d g && !lockWait g then timeoutGroup P d g else d
/-- WAIT_DEADLINE (R46). -/
def execWaitDeadline (group : Nat) (s : State) := runEvent s (waitExpires group)

/-! Tasks. -/

/-- Groups of a team that live. -/
def liveGroups (d : Device) (tid : Nat) : Nat := ((Tbl.vals d.groups).filter fun g => g.team == tid && g.state != .exited).length
/-- The first task of a core's start queue that may start: its team is resident and has fewer than 64 live groups (R48). -/
def nextTask (d : Device) (core : Nat) : Option (Nat × Drawer × Team) :=
  (d.core core).startQueue.findSome? fun e => match Tbl.find d.teams e.2.team with
    | some t => if t.state == .resident && decide (liveGroups d t.id < 64) then some (e.1, e.2, t) else none
    | none => none
/-- TASK_START (R48): a fresh group, with an acquire (R217), in the lowest slot that has a free position. -/
def taskStarts (core : Nat) (_ : Platform) (d : Device) : Device :=
  match nextTask d core, firstSlot d core with
  | some (i, x, t), some slot =>
    let gid := d.nextId
    let d := d.modCore core fun k => { k with startQueue := k.startQueue.filter fun e => e.1 != i }
    let d := startGroup d { job := t.job, team := t.id, index := t.nextTask, task := true, core, slot, pos := (freePos d core slot).headD 0, lanes := BitVec.allOnes 32, entry := x.entry, s0 := x.arg, s2 := t.s2, step := t.step }
    acquire ((d.freeDrawer core i).modTeam t.id fun t => { t with nextTask := t.nextTask + 1 }) gid
  | _, _ => d
/-- TASK_START (R48). -/
def execTaskStart (core : Nat) (s : State) := runEvent s (taskStarts core)

/-! Actions on trapped groups. -/

/-- The number of the event that carries out a value written to `trap.act`: its action, where action 3 goes with HALT. -/
def actionOf (v : DWord) : Nat := min 2 (v.toNat / 2 ^ 32 % 4)
/-- The lowest job whose oldest waiting action is of a kind. -/
def pendingAct (d : Device) (kind : Nat) : Option (Nat × DWord) := d.jobs.findSome? fun e => match e.2.trapActs with | v :: _ => if actionOf v = kind then some (e.1, v) else none | [] => none
/-- The trapped group of a job that a handle names; a handle is that of its drawer as it is now (R366, R367). -/
def trappedGroup (d : Device) (job : Nat) (h : Word) : Option Group :=
  (Tbl.vals d.groups).find? fun g => g.job == job && g.state == .waiting && (match g.wait with | some (.trap _) => true | _ => false) && handleOf g.core g.block (drawerOf d g).gen == h
/-- A `trap.act` write takes effect; one that names no trapped group of the job, or is not an action, is counted stale (R366). -/
def trapActs (kind : Nat) (P : Platform) (d : Device) : Device :=
  match pendingAct d kind with
  | none => d
  | some (job, v) =>
    let d := d.modJob job fun j => { j with trapActs := j.trapActs.drop 1 }
    match trappedGroup d job (v.setWidth 32) with
    | some g => if v.toNat / 2 ^ 32 < 3 then decrementGroup P d g 1 kind else countStale P d job
    | none => countStale P d job
/-- TRAP_ACT_RESUME (R366). -/
def execTrapActResume (s : State) := runEvent s (trapActs 0)
/-- TRAP_ACT_SKIP (R366). -/
def execTrapActSkip (s : State) := runEvent s (trapActs 1)
/-- TRAP_ACT_HALT (R366). -/
def execTrapActHalt (s : State) := runEvent s (trapActs 2)
/-- PENDING_TRAP_TAKE (R453): the oldest pending version-ring trap of a group in issue. -/
def pendingTrap (gid : Nat) (P : Platform) (d : Device) : Device :=
  match Tbl.find d.groups gid with
  | none => d
  | some g => match g.ringTraps with
    | r :: rest =>
      if g.state == .live then takeTrap P (d.modGroup gid fun g => { g with ringTraps := rest }) gid r.site (1 + r.site.index) (Exc.of .versionRing) false (some r) else d
    | [] => d
/-- PENDING_TRAP_TAKE (R453). -/
def execPendingTrapTake (group : Nat) (s : State) := runEvent s (pendingTrap group)

end Sys2Proof.Machine
end

