-- ==== Sys2Proof/Machine/Slots.lean ====
section
/-! DEFINITION. Positions and splits: swaps and moves of a slot (R51, R52, R350, R452), merges (R39, R40, R184), steps of the deferral stack (R38), operations that complete (R107), exits (R35) and arrivals of migrating groups (R66). -/

namespace Sys2Proof.Machine
open Sys2Proof

/-! Positions. -/

/-- The groups of a slot. -/
def slotGroups (d : Device) (core slot : Nat) : List Group := (groupsOn d core).filter fun g => g.slot == slot
/-- A pending group is ready: a split of it is held by nothing, and is not known to be blocked on an operation or on the core's transaction table (R51, R355). -/
def readyPending (d : Device) (g : Group) : Bool := decide (8 ≤ g.pos) && g.splits.any fun e => splitFree d g e.1 e.2 && e.2.stall != some .long && e.2.stall != some .table
/-- An active group that gives its position up: it waits, or none of its splits can issue and one is blocked on an operation that sets a flag (R51, R355). -/
def blockedActive (d : Device) (g : Group) : Bool :=
  decide (g.pos < 8) && (g.state == .waiting || (g.state == .live && g.splits.any (fun e => e.2.stall == some .long || e.2.stall == some .table) && !g.splits.any (splitReady d g)))
/-- The better of two pending groups: ready earlier, then the lower base block (R52). -/
def olderPending (a b : Group) : Bool := decide (a.readyAt < b.readyAt) || (a.readyAt == b.readyAt && decide (a.block < b.block))
/-- The best group of a list. -/
def bestGroup (better : Group → Group → Bool) : List Group → Option Group
  | [] => none
  | g :: t => match bestGroup better t with
    | none => some g
    | some h => if better h g then some h else some g
/-- The ready pending groups of a slot, in the order of R52. -/
def readyPendings (d : Device) (core slot : Nat) : List Group := sortBy (fun a b => !olderPending b a) ((slotGroups d core slot).filter (readyPending d))
/-- The oldest ready pending group of a slot. -/
def oldestPending (d : Device) (core slot : Nat) : Option Group := (readyPendings d core slot).head?
/-- The slot is not in the two clocks of a swap (R350). -/
def slotFree (d : Device) (core slot : Nat) : Bool := decide ((d.core core).slotBusy.getD slot 0 ≤ d.clock)
/-- Rebinds two positions of a slot, which takes the two clocks (R51, R452). -/
def rebind (d : Device) (core slot p q : Nat) : Device := (swapMap d core slot p q).modCore core fun k => { k with slotBusy := listSet k.slotBusy slot (d.clock + 2) }
/-- Exchanges the positions of two groups; the incoming one may issue in the third clock (R51). -/
def exchange (d : Device) (core slot : Nat) (out into : Group) : Device :=
  let d := d.modGroup out.id fun g => { emptyBypass g with pos := into.pos }
  let d := d.modGroup into.id fun g => { g with pos := out.pos, issueFrom := d.clock + 2 }
  rebind d core slot out.pos into.pos
/-- The pairs of R51 that are due in a slot now: blocked active groups in ascending position with the ready pending groups in the order of R52 (R350). -/
def duePairs (d : Device) (core slot : Nat) : List (Nat × Nat) :=
  (sortBy (fun (a b : Group) => decide (a.pos ≤ b.pos)) ((slotGroups d core slot).filter (blockedActive d)) |>.map (·.id)).zip ((readyPendings d core slot).map (·.id))
/-- A pair stands: its groups are in an active and a pending position of the slot. -/
def pairStands (d : Device) (core slot : Nat) (x : Nat × Nat) : Bool :=
  (slotGroups d core slot).any (fun g => g.id == x.1 && decide (g.pos < 8)) && (slotGroups d core slot).any fun g => g.id == x.2 && decide (8 ≤ g.pos)
/-- The pairs of a slot that are still to be exchanged: those of one clock are held until all are (R350). -/
def swapPairs (d : Device) (core slot : Nat) : List (Nat × Nat) :=
  match (d.core core).swaps.filter (pairStands d core slot) with
  | [] => duePairs d core slot
  | ps => ps
/-- SWAP (R51, R350): the next pair of a slot that is due. -/
def swapBlocked (core slot : Nat) (_ : Platform) (d : Device) : Device :=
  if !slotFree d core slot then d
  else match swapPairs d core slot with
    | [] => d
    | p :: rest => match Tbl.find d.groups p.1, Tbl.find d.groups p.2 with
      | some out, some into => exchange (d.modCore core fun k => { k with swaps := k.swaps.filter (fun x => [0, 1, 2, 3].any fun s => s != slot && pairStands d core s x) ++ rest }) core slot out into
      | _, _ => d
/-- SWAP (R51). -/
def execSwapGroups (core slot : Nat) (s : State) := runEvent s (swapBlocked core slot)
/-- PENDING_MOVE (R452): the oldest ready pending group into the lowest free active position, after every swap of R51 that is due. -/
def pendingMoves (core slot : Nat) (_ : Platform) (d : Device) : Device :=
  match (freePos d core slot).find? fun p => decide (p < 8), oldestPending d core slot with
  | some p, some g =>
    if slotFree d core slot && (swapPairs d core slot).isEmpty then rebind (d.modGroup g.id fun g => { g with pos := p, issueFrom := d.clock + 2 }) core slot p g.pos else d
  | _, _ => d
/-- PENDING_MOVE (R452). -/
def execPendingMove (core slot : Nat) (s : State) := runEvent s (pendingMoves core slot)
/-- AGED_PENDING_SWAP (R52, R350): a group ready for 4096 clocks and the active group that issued least recently, the one of lower position on a tie (log 100), when no swap of R51 and no move is due. -/
def agedSwap (core slot : Nat) (_ : Platform) (d : Device) : Device :=
  match oldestPending d core slot, bestGroup (fun a b => decide (a.lastIssue < b.lastIssue) || (a.lastIssue == b.lastIssue && decide (a.pos < b.pos))) ((slotGroups d core slot).filter fun g => decide (g.pos < 8)) with
  | some into, some out =>
    if slotFree d core slot && decide (into.readyAt + 4096 ≤ d.clock) && (swapPairs d core slot).isEmpty && !(freePos d core slot).any (fun p => decide (p < 8)) then exchange d core slot out into else d
  | _, _ => d
/-- AGED_PENDING_SWAP (R52). -/
def execAgedPendingSwap (core slot : Nat) (s : State) := runEvent s (agedSwap core slot)

/-! Merges and deferrals. -/

/-- No flag count of the merged split would pass 15 (R40). -/
def flagsFit (g : Group) (a b : Nat) : Bool := (List.range 12).all fun f => decide (mergedCount g a b f ≤ 15)
/-- Two splits may merge now (R39). -/
def canMerge (g : Group) (a b : Nat × Split) : Bool :=
  decide (a.1 < b.1) && atStart g a.1 a.2 && atStart g b.1 b.2 && a.2.pc == b.2.pc && a.2.mask != 0 && b.2.mask != 0 && !deferralDue g a.1 a.2 && !deferralDue g b.1 b.2 && flagsFit g a.1 b.1
/-- The first pair of splits that may merge, in ascending numbers (R39, R184, log 113). -/
def mergePair (g : Group) : Option ((Nat × Split) × (Nat × Split)) := g.splits.findSome? fun a => (g.splits.find? fun b => canMerge g a b).map fun b => (a, b)
/-- The merge stack of a merged split (R184). -/
def mergedStack (a b : Split) : List DWord :=
  let top (s : Split) : Bool := s.merges.getLast? == some a.pc
  let base := match top a, top b with
    | true, true => if a.merges.length < b.merges.length then b.merges else a.merges
    | true, false => a.merges
    | false, true => b.merges
    | false, false => a.merges
  (base.reverse.dropWhile (· == a.pc)).reverse
/-- The group after two splits have merged (R39, R40, R184); the entry into the clause is that of the lower number (R451, log 113). A wait of `merge` passes to the merged split, and ends where no other split is left (R185). -/
def mergeSplits (clock : Nat) (cl : Bool) (g0 : Group) (a b : Nat × Split) : Group :=
  let stack := mergedStack a.2 b.2
  let g := closeRegion clock cl (closeRegion clock cl g0 a.1) b.1
  let re (k : Nat) : Nat := if k = b.1 then a.1 else k
  let g := { g with
    splits := Tbl.erase g.splits b.1
    ops := g.ops.map fun o => { o with splits := (o.splits.map re).eraseDups }
    deferrals := g.deferrals.map fun e => { e with split := re e.split }
    handed := g.handed.map fun e => { e with split := re e.split }
    ringTraps := g.ringTraps.map fun r => { r with site := { r.site with split := re r.site.split } } }
  let g := modSplit g a.1 fun sp => { sp with mask := sp.mask ||| b.2.mask, merges := stack, bypass := [], mergeWait := (a.2.mergeWait || b.2.mergeWait) && decide (2 < (liveSplits g0).length), waitSince := if a.2.mergeWait then a.2.waitSince else b.2.waitSince, waitOver := false, stall := none, noMatch := false }
  modSplit g a.1 fun sp => { sp with region := wholeRegion clock g sp }
/-- SPLIT_MERGE (R39). -/
def splitsMerge (gid : Nat) (_ : Platform) (d : Device) : Device :=
  match Tbl.find d.groups gid with
  | none => d
  | some g =>
    if g.state != .live then d
    else match mergePair g with
      | some (a, b) => d.modGroup gid fun _ => mergeSplits d.clock (closing d g) g a b
      | none => d
/-- SPLIT_MERGE (R39). -/
def execSplitMerge (group : Nat) (s : State) := runEvent s (splitsMerge group)
/-- DEFERRAL_STEP (R38). -/
def deferralSteps (gid k : Nat) (_ : Platform) (d : Device) : Device :=
  match Tbl.find d.groups gid with
  | none => d
  | some g => match splitOf g k with
    | some sp => if g.state == .live && deferralDue g k sp then d.modGroup gid fun _ => deferralApply d.clock (closing d g) k 17 g else d
    | none => d
/-- DEFERRAL_STEP (R38). -/
def execDeferralStep (group split : Nat) (s : State) := runEvent s (deferralSteps group split)

/-! Operations, exit, arrival. -/

/-- An operation that has failed: it leaves, its shape register stays invalid, and its fault is taken (R237, R303, R310). -/
def failOp (P : Platform) (d : Device) (gid : Nat) (o : Op) (e : Exc) : Device :=
  takeException P (unblock ((if o.entry then freeEntry d (coreOf d gid) else d).modGroup gid fun g => { g with ops := g.ops.filter (fun x => x.id != o.id), shapes := match o.shape with | some (m, _) => listSet g.shapes m none | none => g.shapes }) gid) gid o.site e
/-- An `sh.ld` reads its next word; at the end it completes with the snapshot, or fails (R309, R310). -/
def readShape (P : Platform) (d : Device) (g : Group) (o : Op) (q : ShapeRead) : Device :=
  let bad : Exc := { code := .shapeRecord, lane := none, info := q.va }
  let put (d : Device) (f : Op → Op) : Device := d.modGroup g.id fun g => { g with ops := g.ops.map fun x => if x.id == o.id then f x else x }
  match shapeWord P d g q with
  | none => d
  | some (none, d) => failOp P d g.id o bad
  | some (some (w, poisoned), d) =>
    if poisoned then failOp P d g.id o { code := .poisonedData, lane := none, info := BitVec.ofNat 64 q.at_ }
    else match shapeStep q w with
      | .more q => put d fun x => { x with kind := .shape q }
      | .bad => failOp P d g.id o bad
      | .snap s => finishOp (put d fun x => { x with shape := some (q.sh, some s) }) g.id o.id
/-- OPERATION_COMPLETE (R107): an operation with nothing outside the core left to wait for; an `sh.ld` reads its next word. One that met poison raises its fault without a result (R237, R303). -/
def operationCompletes (gid op : Nat) (P : Platform) (d : Device) : Device :=
  match Tbl.find d.groups gid with
  | none => d
  | some g => match g.ops.find? fun o => o.id == op with
    | none => d
    | some o =>
      match o.kind with
      | .shape q => readShape P d g o q
      | .value | .load | .matrix =>
        match o.exc with
        | none => finishOp d gid op
        | some e => failOp P d gid o e
      | _ => d
/-- OPERATION_COMPLETE (R107). -/
def execOperationComplete (group op : Nat) (s : State) := runEvent s (operationCompletes group op)
/-- A group with no split left has nothing outstanding (R35). -/
def drained (g : Group) : Bool := g.state == .live && g.splits.isEmpty && g.handed.isEmpty && g.releases.isEmpty && g.sb.isEmpty && g.sent.isEmpty && g.ops.isEmpty && g.outEff == 0 && g.outRemote == 0 && g.ringTraps.isEmpty
/-- GROUP_EXIT (R35, R55, R69): its effects are released at device scope, and a team without a group or task left completes; one that is being swapped out or cancelled does so too where its groups have all exited of themselves. -/
def groupExits (gid : Nat) (P : Platform) (d : Device) : Device :=
  match Tbl.find d.groups gid with
  | none => d
  | some g =>
    if !drained g then d
    else
      let d := freeGroup P (noticeAll d (noticeOf g)) gid
      let d := if g.task then d else leaveBarrier d g.team
      match Tbl.find d.teams g.team with
      | some t => if (t.state == .resident || t.state == .swappingOut || t.state == .closing) && teamDone d t.id then completeTeam P d t.id .exited else d
      | none => d
/-- GROUP_EXIT (R35). -/
def execGroupExit (group : Nat) (s : State) := runEvent s (groupExits group)
/-- MIGRATION_ARRIVAL (R66, R332, R451): the group is at its target, `mig` completes, and every split enters its clause again. -/
def migrationArrives (gid : Nat) (_ : Platform) (d : Device) : Device :=
  match Tbl.find d.groups gid with
  | none => d
  | some g =>
    if g.state != .migrating then d
    else
      let d := { d.modGroup gid (fun g => { g with state := .live, arrivedAt := d.nextId, readyAt := d.clock, issueFrom := d.clock }) with nextId := d.nextId + 1 }
      let d := match g.ops.find? fun o => o.kind == .pending with | some o => finishOp d gid o.id | none => d
      d.modGroup gid fun g => { g with splits := Tbl.mapVals (fun (sp : Split) => if sp.entry.isNone then { sp with entry := some .resumed, code := [] } else sp) g.splits }
/-- MIGRATION_ARRIVAL (R66). -/
def execMigrationArrival (group : Nat) (s : State) := runEvent s (migrationArrives group)

end Sys2Proof.Machine
end

