-- ==== Sys2Proof/Machine/Homes.lean ====
section
/-! DEFINITION. What happens at a line's home: notices (R211), cross-die writes (R218), stores and their acknowledgements (R207), the atomic service groups (R248, R273), lock benches (R256 to R260) and the collapse of replicated pages (R222). -/

namespace Sys2Proof.Machine
open Sys2Proof

/-! Notices. -/

/-- Changes the release a group is at. -/
def modRelease (d : Device) (gid : Nat) (f : Release → Release) : Device := d.modGroup gid fun g => { g with releases := match g.releases with | r :: t => f r :: t | [] => [] }
/-- NOTICE_ARRIVAL (R208, R211): the group's notice is folded into a core's signature. -/
def noticeArrives (gid core : Nat) (_ : Platform) (d : Device) : Device :=
  match Tbl.find d.groups gid with
  | none => d
  | some g => match g.releases with
    | r :: _ => if r.posted && r.toArrive.contains core then modRelease (d.modCore core fun c => { c with signature := c.signature ||| noticeOf g }) gid fun r => { r with toArrive := r.toArrive.filter (· != core) } else d
    | [] => d
/-- NOTICE_ARRIVAL (R211). -/
def execNoticeArrival (group core : Nat) (s : State) := runEvent s (noticeArrives group core)
/-- NOTICE_ACKNOWLEDGEMENT (R211): it follows the folding. -/
def noticeAcked (gid core : Nat) (_ : Platform) (d : Device) : Device := modRelease d gid fun r => if r.posted && !r.toArrive.contains core then { r with toAck := r.toAck.filter (· != core) } else r
/-- NOTICE_ACKNOWLEDGEMENT (R211). -/
def execNoticeAcknowledgement (group core : Nat) (s : State) := runEvent s (noticeAcked group core)

/-! Cross-die writes. -/

/-- A visitor copy after a write of one of its bytes. -/
def visitorByte (vs : Tbl (List Byte)) (x : Nat × Byte) : Tbl (List Byte) := Tbl.modify (fun b => listSet b (x.1 % 64) x.2) vs (x.1 / 64)
/-- HOME_WRITE_MESSAGE (R218): the oldest write from a die, once its number and the clock it carries allow it. -/
def homeWrite (die source : Nat) (_ : Platform) (d : Device) : Device :=
  let x := d.die die
  match x.inbox.getD source [] with
  | [] => d
  | m :: rest =>
    if x.applied.getD source 0 + 1 = m.number && clockLe m.clock x.applied then
      d.modDie die fun x =>
        let applied := listSet x.applied source m.number
        { x with applied, causal := clockMax x.causal applied, visitors := m.bytes.foldl visitorByte x.visitors, inbox := listSet x.inbox source rest }
    else d
/-- HOME_WRITE_MESSAGE (R218). -/
def execHomeWriteMessage (die source : Nat) (s : State) := runEvent s (homeWrite die source)

/-! Stores. -/

/-- A lane of a store is performed at its home: a release marks the line with its clock, and instruction fetch does not see the bytes yet. The acknowledgement of another die's home reaches the issuing die behind the number of the write, so the store waits for it (R135, R207, R213, R218). -/
def storeAt (P : Platform) (src : Nat) (tagged : Bool) (d : Device) (a : Nat) (bytes : List Byte) : Device × List (Nat × Nat) :=
  let d := if tagged then tagClock d (d.die src).causal a else d
  let r := writePhys P src (bytes.length + 1) (hideCode d a bytes.length) a bytes
  (r.1, if homeDie a = src then [] else r.2.map fun m => (4 * src + m.1, m.2))
/-- Sends one lane of a store; one to a page that is still replicated parks behind its collapse (R222). -/
def sendLane (P : Platform) (g : Group) (op : Nat) (r : Device × List (Nat × Nat)) (l : LaneStore) : Device × List (Nat × Nat) :=
  let src := g.core / 128
  let put (d : Device) (pa : Nat) : Device × List (Nat × Nat) := let w := storeAt P src g.released d pa l.data; (w.1, r.2 ++ w.2)
  match l.page with
  | none => put r.1 l.pa
  | some page => match engineXlat r.1 g.job .store src l.va with
    | .ok leaf pa => if leaf.repl then (parkWrite r.1 g.job page src (.store g.id op l), r.2) else put r.1 pa
    | _ => put r.1 l.pa
/-- STORE_SEND (R207): the oldest buffered store, its lanes in ascending order. A group that is swapped out or on its way sends from its new place (R232). -/
def storeSends (gid : Nat) (P : Platform) (d : Device) : Device :=
  match Tbl.find d.groups gid with
  | none => d
  | some g => match g.sb with
    | [] => d
    | e :: rest =>
      if g.state == .swapped || g.state == .migrating then d else
      let r := e.lanes.foldl (sendLane P g e.op) (d, [])
      unblock (r.1.modGroup gid fun g => { g with sb := rest, sent := g.sent ++ [{ e with marks := r.2 }] }) gid
/-- STORE_SEND (R207). -/
def execStoreSend (group : Nat) (s : State) := runEvent s (storeSends group)
/-- The issuing die has applied a home's write (R207, R218). -/
def markDone (d : Device) (m : Nat × Nat) : Bool := decide (m.2 ≤ (d.die (m.1 / 4)).applied.getD (m.1 % 4) 0)
/-- A lane of a store is parked behind a claim. -/
def storeParked (d : Device) (gid op : Nat) : Bool := d.collapses.any fun c => c.parked.any fun p => match p with | .store g o _ => g == gid && o == op | _ => false
/-- STORE_ACK (R206, R207). A store to the window has nothing to wait for. -/
def storeAcks (gid op : Nat) (_ : Platform) (d : Device) : Device :=
  match Tbl.find d.groups gid with
  | none => d
  | some g =>
    if !(g.ops.any fun o => o.id == op && o.kind == .store) || (g.sb.any fun e => e.op == op) || storeParked d gid op then d
    else match g.sent.find? fun e => e.op == op with
      | none => finishOp d gid op
      | some e =>
        if e.marks.all (markDone d) then finishOp ((dropLines d g.core (e.lanes.map fun l => l.pa / 64)).modGroup gid fun g => { g with sent := g.sent.filter fun x => x.op != op }) gid op else d
/-- STORE_ACK (R207). -/
def execStoreAck (group op : Nat) (s : State) := runEvent s (storeAcks group op)

/-! Atomics. -/

/-- Bytes an atomic request reads and writes. -/
def AgKind.size : AgKind → Nat
  | .atomic _ t => 4 * t.regs
  | .pair => 8
  | .watch _ => 8
/-- The new contents of an atomic request's bytes (R251, R253). -/
def agNew (r : AgReq) (old : Nat) : Option Nat :=
  match r.kind with
  | .atomic op t => atomResult op t old r.x.toNat r.xn.toNat
  | .pair => let p := twoSum (old % 2 ^ 32) (old / 2 ^ 32) r.x.toNat; some (p.1 + p.2 * 2 ^ 32)
  | .watch _ => none
/-- A returning lane's value joins its instruction's result; the last one completes it (R249, R251). -/
def returnLane (P : Platform) (d : Device) (gid op lane size old : Nat) (bad : Option Exc) : Device :=
  let w (o : Op) : RegWrites := match o.vDests with
    | r :: _ => { o.writes with vs := o.writes.vs ++ cellsAt r (size / 4) lane old }
    | [] => o.writes
  let d := d.modGroup gid fun g => { g with ops := g.ops.map fun o => if o.id == op then { o with writes := w o, parts := o.parts - 1, exc := o.exc <|> bad } else o }
  match (Tbl.find d.groups gid).bind fun g => g.ops.find? fun o => o.id == op with
  | none => d
  | some o =>
    if o.parts != 0 then d
    else match o.exc with
      | none => finishOp d gid op
      | some e => failOp P d gid o e
/-- The write of a read-modify-write, which lies in one line, with the clock it carries; that of a release marks the line with it (R135, R215, R218). -/
def atomicWrite (P : Platform) (carried : DieClock) (tagged : Bool) (d : Device) (a : Nat) (bytes : List Byte) : Device :=
  (writeLineAt P carried (hideCode (if tagged then tagClock d carried a else d) a bytes.length) a bytes).1
/-- A read-modify-write at the home; a poisoned word is neither read nor written (R215, R237, R248). -/
def performAtomic (P : Platform) (d : Device) (carried : DieClock) (tagged : Bool) (r : AgReq) : Device × Nat × Bool :=
  let n := r.kind.size
  if d.anyPoison r.pa n then (d, 0, true)
  else
    let old := d.readNat r.pa n
    match agNew r old with
    | some v => (atomicWrite P carried tagged d r.pa (bytesOf n v), old, false)
    | none => (d, old, false)
/-- Who sends a request into a service group's queue: the core of its group, or the fabric (R248). -/
def senderOf (d : Device) : AgSource → Nat
  | .atom g _ _ | .held g | .waiter g => coreOf d g
  | .remote _ _ => 512
/-- The first request of a sender enters the queue. -/
def admitFrom (cl sender : Nat) (d : Device) : Device :=
  d.modCluster cl fun c => match c.sending.find? fun x => x.1 == sender with
    | some x => { c with sending := c.sending.erase x, queue := c.queue ++ [x.2] }
    | none => c
/-- Requests enter the queue, which holds 512, one after another: those of one sender in their order, and of which sender the next one is, is free (R248, log 2). -/
def admitSome (cl : Nat) : Nat → Device → Device
  | 0, d => d
  | n + 1, d =>
    match ((d.cluster cl).sending.map (·.1)).eraseDups with
    | [] => d
    | [s] => if (d.cluster cl).queue.length < 512 then admitSome cl n (admitFrom cl s d) else d
    | s :: ss =>
      if (d.cluster cl).queue.length < 512 then
        let r := d.free
        admitSome cl n (admitFrom cl ((s :: ss).getD (r.1.toNat % (ss.length + 1)) s) r.2)
      else d
/-- How many requests enter before the next service is free, but for the one an empty queue takes (R248, log 2). -/
def admitRequests (cl : Nat) (d : Device) : Device :=
  let c := d.cluster cl
  if c.sending.isEmpty then d
  else if c.queue.isEmpty && c.sending.length == 1 then admitSome cl 1 d
  else
    let r := d.free
    admitSome cl (if c.queue.isEmpty then 1 + r.1.toNat % c.sending.length else r.1.toNat % (c.sending.length + 1)) r.2
/-- The request is performed for a group; the acknowledgement brings to the group's die the home's clock and that of the release write whose value it read, and the line leaves the L1 of its core (R206, R215, R218, R252). Of a group that is gone only the write is left. -/
def groupAtomic (P : Platform) (d : Device) (gid : Nat) (r : AgReq) : Device × Nat × Bool :=
  match Tbl.find d.groups gid with
  | none => performAtomic P d r.clock false r
  | some g =>
    let read := d.clockOf r.pa
    let x := performAtomic P d r.clock g.released r
    (dropLines (x.1.mergeClock (g.core / 128) (clockMax (x.1.die (homeDie r.pa)).applied read)) g.core [r.pa / 64], x.2)
/-- A remote write at its home: it carries the clock of the remote accesses before it, and is among those after it (R217, R218, R220). -/
def portWrite (d : Device) (a : Nat) (write : Device → Device) : Device :=
  let h := homeDie a
  let d := write (tagClock (d.mergeClock h d.port) d.port a)
  { d with port := clockMax d.port (clockAt (h, (d.die h).applied.getD h 0)) }
/-- A remote atomic's lane: answered once it is performed, with its notice to every core (R220, R280). -/
def portAtomic (P : Platform) (d : Device) (id lane : Nat) (r : AgReq) : Device :=
  let bad := d.anyPoison r.pa r.kind.size
  let old := d.readNat r.pa r.kind.size
  let a : LaneAnswer := if bad then { lane, ok := false, cause := 7, value := 0 } else { lane, ok := true, cause := 0, value := BitVec.ofNat 128 old }
  let d := if bad then d else noticeAll (portWrite d r.pa fun d => (performAtomic P d (d.die (homeDie r.pa)).causal false r).1) (sigOf r.va)
  { d with served := d.served.map fun s => if s.id == id then { s with left := s.left - 1, answers := s.answers ++ [a] } else s }
/-- An atomic request of an `atom`, a held effect or a peer is performed, and answered (R248, R249, R251). -/
def serveRequest (P : Platform) (d : Device) (r : AgReq) : Device :=
  match r.source with
  | .held gid => (groupAtomic P d gid r).1.modGroup gid fun g => { g with outEff := g.outEff - 1 }
  | .atom gid op lane =>
    let x := groupAtomic P d gid r
    returnLane P x.1 gid op lane r.kind.size x.2.1 (if x.2.2 then some (Exc.at_ .poisonedData lane r.va) else none)
  | .remote id lane => portAtomic P d id lane r
  | .waiter _ => d
/-- ATOMIC_SERVICE (R248, R273): requests enter a service group's queue, and the one at its head is performed; a watch that finds 128 watches waits, and compares the word as it stands, poisoned or not (log 108). -/
def atomicServes (cl : Nat) (P : Platform) (d : Device) : Device :=
  let d := admitRequests cl d
  match (d.cluster cl).queue with
  | [] => d
  | r :: rest =>
    let pop (d : Device) : Device := d.modCluster cl fun c => { c with queue := rest }
    match r.source with
    | .waiter gid =>
      let target := match r.kind with | .watch t => t | _ => 0
      if target.toNat ≤ d.readNat r.pa 8 then wakeWith (pop d) gid 1 0 (d.valueClock r.pa)
      else if (d.cluster cl).watches.length < 128 then (pop d).modCluster cl fun c => { c with watches := c.watches ++ [(r.pa, target, gid)] }
      else d
    | _ => serveRequest P (pop d) r
/-- ATOMIC_SERVICE (R248). -/
def execAtomicService (cluster : Nat) (s : State) := runEvent s (atomicServes cluster)

/-! Locks. -/

/-- Changes the stage of a group's lock request. -/
def setStage (d : Device) (gid : Nat) (st : LockStage) : Device :=
  d.modGroup gid fun g => { g with wait := match g.wait with | some (.lock l va sd pd since _) => some (.lock l va sd pd since st) | w => w }
/-- A lock is granted to a waiting group; the time since its issue is a sample (R257, R448). -/
def lockGranted (P : Platform) (d : Device) (gid : Nat) (bytes : Option (List Byte)) : Device :=
  let since := match (Tbl.find d.groups gid).bind (·.wait) with | some (.lock _ _ _ _ since _) => since | _ => d.clock
  setStage (d.monNote P 6 (d.clock - since)) gid (.granted bytes)
/-- LOCK_REQUEST (R256, R260): at the bench of the line's home. A grant brings the clock of the last holder's release (R217, R218). -/
def lockRequests (gid : Nat) (P : Platform) (d : Device) : Device :=
  match (Tbl.find d.groups gid).bind (·.wait) with
  | some (.lock line _ _ _ _ .sent) =>
    let k := homeSlice P line
    let s := d.slice k
    let l := benchLine s line
    if l.holder.isNone then
      if benchLines s < 256 then wakeWith (lockGranted P (d.modSlice k fun s => setBench s line { l with holder := some gid, poisoned := false }) gid none) gid 1 (if l.poisoned then 1 else 0) l.clock
      else setStage d gid (.refused (d.clock + 1024))
    else if benchWaiters s < 256 then setStage (d.modSlice k fun s => setBench s line { l with queue := l.queue ++ [{ group := gid, marked := false }] }) gid .queued
    else setStage d gid (.refused (d.clock + 1024))
  | _ => d
/-- LOCK_REQUEST (R256). -/
def execLockRequest (group : Nat) (s : State) := runEvent s (lockRequests group)
/-- LOCK_RESEND (R256): a refused request goes out again after 1024 clocks. -/
def lockResends (gid : Nat) (_ : Platform) (d : Device) : Device :=
  match (Tbl.find d.groups gid).bind (·.wait) with
  | some (.lock _ _ _ _ _ (.refused again)) => if again ≤ d.clock then setStage d gid .sent else d
  | _ => d
/-- LOCK_RESEND (R256). -/
def execLockResend (group : Nat) (s : State) := runEvent s (lockResends group)
/-- A team is on its way out or out (R258). -/
def teamAway (d : Device) (g : Group) : Bool := ((Tbl.find d.teams g.team).map fun t => t.state == .swappingOut || t.state == .swapped).getD false
/-- Passes a line to its waiters in turn, with the clock of the release (R217, R257, R258, R260). -/
def passLock (P : Platform) (k line : Nat) (poisoned : Bool) : Nat → Device → Device
  | 0, d => d
  | n + 1, d =>
    let l := benchLine (d.slice k) line
    match l.queue with
    | [] => d.modSlice k fun s => setBench s line { holder := none, queue := [], poisoned, clock := l.clock }
    | w :: rest =>
      let put (d : Device) (l : LockLine) : Device := d.modSlice k fun s => setBench s line l
      match Tbl.find d.groups w.group with
      | none => passLock P k line poisoned n (put d { l with queue := rest })
      | some g =>
        if teamAway d g then
          if w.marked then passLock P k line poisoned n (wakeGroup (setStage (put d { l with queue := rest }) w.group (.granted none)) w.group 1 3)
          else passLock P k line poisoned n (put d { l with queue := rest ++ [{ w with marked := true }] })
        else
          let resident := ((Tbl.find d.teams g.team).map fun t => t.state == .resident).getD false
          let bytes := if resident then some (d.readBytes (line / 64 * 64) 64) else none
          wakeWith (lockGranted P (put d { holder := some w.group, queue := rest, poisoned := false, clock := l.clock }) w.group bytes) w.group 1 (if poisoned then 1 else 0) l.clock
/-- LOCK_RELEASE (R257): the oldest release on its way to a slice. -/
def lockReleases (k : Nat) (P : Platform) (d : Device) : Device :=
  match (d.slice k).releases with
  | [] => d
  | (line, poisoned, clock) :: rest =>
    let d := d.modSlice k fun s => { s with releases := rest }
    let l := benchLine (d.slice k) line
    let d := match l.holder with
      | some g => if poisoned then d else d.modGroup g fun g => { g with outEff := g.outEff - 1 }
      | none => d
    let d := d.modSlice k fun s => setBench s line { l with holder := none, clock := clockMax l.clock clock }
    passLock P k line poisoned (2 * l.queue.length + 1) d
/-- LOCK_RELEASE (R257). -/
def execLockRelease (slice : Nat) (s : State) := runEvent s (lockReleases slice)
/-- `id.loc` and `id.name` of a holder in a report (R264). -/
def holderFields (P : Platform) (d : Device) (l : LockLine) : Nat × Nat :=
  match l.holder.bind (Tbl.find d.groups) with
  | some g => (if g.state == .swapped then 0xFFFFFFFF else (locOf P g).toNat, g.name.toNat)
  | none => (0xFFFFFFFF, 0)
/-- LOCK_DEADLINE (R259, R264): the waiter leaves the queue, its report is written, and it resumes with TIMEOUT. A grant made before comes first. -/
def lockExpires (gid : Nat) (P : Platform) (d : Device) : Device :=
  match Tbl.find d.groups gid with
  | none => d
  | some g => match g.wait with
    | some (.lock line va _ _ since stage) =>
      if !pastDeadline d g then d
      else
        let waited := min (2 ^ 32 - 1) (d.clock - since)
        match stage with
        | .granted _ => d
        | .queued =>
          let k := homeSlice P line
          let l := benchLine (d.slice k) line
          let at_ := ((findWhere (fun w : LockWaiter => w.group == gid) l.queue 0).map (·.1)).getD 0
          let h := holderFields P d l
          let d := d.modSlice k fun s => setBench s line { l with queue := l.queue.filter fun w => w.group != gid }
          timeoutGroup P (lockReport P d g va 0 h.1 h.2 (waited + at_ * 2 ^ 32)) g
        | .sent | .refused _ => timeoutGroup P (lockReport P d g va 0 0xFFFFFFFE 0 (waited + 0xFFFFFFFF * 2 ^ 32)) g
    | _ => d
/-- LOCK_DEADLINE (R259). -/
def execLockDeadline (group : Nat) (s : State) := runEvent s (lockExpires group)

/-! Collapse. -/

/-- Rewrites the leaf entry of a replicated page to the survivor's frame, without `repl`, with write permission, and with the survivor's stack as its place (R222, R370, log 19). -/
def rewriteLeaf (P : Platform) (d : Device) (e frame : Nat) : Device :=
  let lo := d.readNat e 8
  let lo := (lo % 2 ^ 56 + lo / 2 ^ 60 * 2 ^ 60 + (1 + frame / 2 ^ 36) * 2 ^ 56)
  let lo := (if lo.testBit 62 then lo - 2 ^ 62 else lo) ||| 2 ^ 50
  engineWrite P (homeDie e) d e (bytesOf 8 lo ++ bytesOf 8 frame)
/-- Replays one parked write through the new translation; each is performed before the next (R222). -/
def replay (P : Platform) (c : CollapseClaim) (d : Device) (p : Parked) : Device :=
  let pa (va : DWord) : Option Nat := match engineXlat d c.job .store c.die va with | .ok _ a => some a | _ => none
  match p with
  | .store gid op l =>
    match Tbl.find d.groups gid, pa l.va with
    | some g, some a =>
      let r := storeAt P (g.core / 128) g.released d a l.data
      r.1.modGroup gid fun g => { g with sent := g.sent.map fun e => if e.op == op then { e with marks := e.marks ++ r.2 } else e }
    | none, some a => engineWrite P c.die d a l.data
    | _, none => d
  | .req r => match pa r.va with
    | some a => serveRequest P d { r with pa := a, park := none, clock := (d.die (senderOf d r.source / 128)).causal }
    | none => d
  | .raw off bytes => match pa (BitVec.ofNat 64 (c.va + off)) with
    | some a => noticeAll (engineWrite P c.die d a bytes) (sigOfAll (blocksOf (BitVec.ofNat 64 (c.va + off)) bytes.length))
    | none => d
/-- Watches of the page move to the survivor's frame (R222, R273). -/
def rehomeWatches (P : Platform) (d : Device) (job : Nat) (l : Leaf) : Device :=
  let inside (va : DWord) : Bool := decide (l.base ≤ va.toNat) && decide (va.toNat < l.base + l.size)
  let waits := (Tbl.vals d.groups).filter fun g => g.job == job && (match g.wait with | some (.counter _ _) => inside (drawerOf d g).object | _ => false)
  waits.foldl (fun d g =>
    let va := (drawerOf d g).object
    match engineXlat d job .load 0 va with
    | .ok _ pa =>
      let old := (Tbl.vals d.clusters).flatMap fun c => c.watches.filter (fun w => w.2.2 == g.id) |>.map (·.2.1)
      let queued := (Tbl.vals d.clusters).flatMap fun c => (c.queue ++ c.sending.map (·.2)).filter fun r => r.source == .waiter g.id
      let target := old ++ queued.filterMap fun r => match r.kind with | .watch t => some t | _ => none
      match target with
      | t :: _ => sendAtomic P g.core (removeWatches d g.id) { kind := .watch t, pa, va, job, x := 0, xn := 0, source := .waiter g.id, park := none }
      | [] => d
    | _ => d) d
/-- A lane of a store that has still to be performed, or to be acknowledged, stands at the page's new frame (R206, R207, R222). -/
def rehomeLane (pa : DWord → Option Nat) (page : Nat) (l : LaneStore) : LaneStore :=
  if l.page = some page then { l with pa := (pa l.va).getD l.pa, page := none } else l
/-- As `rehomeLane`, of an atomic request. -/
def rehomeReq (pa : DWord → Option Nat) (page : Nat) (r : AgReq) : AgReq :=
  if (r.park.map (·.1)) = some page then { r with pa := (pa r.va).getD r.pa, park := none } else r
/-- As `rehomeReq`, of the reductions of held effects. -/
def rehomeEffect (pa : DWord → Option Nat) (page : Nat) (e : Effect) : Effect :=
  match e.act with
  | .red rs => { e with act := .red (rs.map (rehomeReq pa page)) }
  | _ => e
/-- What a job's groups still hold for a collapsed page moves to its new frame: buffered and sent stores and held reductions, so that later accesses of the group find them there (R206, R207, R213, R222). -/
def rehomeGroups (d : Device) (job die page : Nat) : Device :=
  let pa (va : DWord) : Option Nat := match engineXlat d job .store die va with | .ok _ a => some a | _ => none
  let store (e : StoreEntry) : StoreEntry := { e with lanes := e.lanes.map (rehomeLane pa page) }
  { d with groups := Tbl.mapVals (fun (g : Group) => if g.job = job then { g with sb := g.sb.map store, sent := g.sent.map store, effects := g.effects.map (rehomeEffect pa page), handed := g.handed.map (rehomeEffect pa page) } else g) d.groups }
/-- The edge whose collapse engine carries out a claim: that of the die that wrote (R24). -/
def CollapseClaim.edge (c : CollapseClaim) : Nat := c.die / 2
/-- The collapse of a claimed page (R222), by the engine of its edge; which of the claims that wait comes next is the move's (R24, log 2): the frame of the writing die survives, every translation is rewritten, and the parked writes follow in order. -/
def collapseClaim (P : Platform) (c : CollapseClaim) (d : Device) : Device :=
    let d := { d with collapses := d.collapses.filter fun x => x.id != c.id }
    let d := match engineXlat d c.job .store c.die (BitVec.ofNat 64 c.va), (d.job c.job).bind fun j => leafEntry d c.va [1, 2, 3, 4] j.xroot with
      | .ok l _, some e =>
        if l.repl then
          let d := dropLeaf (rewriteLeaf P d e (d.readNat (l.addr + 8 * c.die) 8)) c.job c.va
          rehomeGroups (rehomeWatches P d c.job l) c.job c.die l.base
        else d
      | _, _ => d
    c.parked.foldl (replay P c) d
/-- A replicated page that an engine or a peer is about to write is collapsed first, for a die (R222, log 13). -/
def collapseFor (P : Platform) (die : Nat) (d : Device) (job : Nat) (va : DWord) : Device :=
  match engineXlat d job .store die va with
  | .ok l _ =>
    if l.repl then
      let d := parkRaw d job l die (va.toNat - l.base) []
      match d.collapses.find? fun c => c.job == job && c.va == l.base with
      | some c => collapseClaim P c d
      | none => d
    else d
  | _ => d
/-- Where bytes that an engine is about to write go: replicated pages among them collapse first, and every piece is translated before any is written (R222, R316, R338). -/
def enginePlaces (P : Platform) (die : Nat) (d : Device) (job : Nat) (xs : List (DWord × List Byte)) : Device × List (Nat × List Byte) :=
  let d := xs.foldl (fun d x => collapseFor P die d job x.1) d
  (d, xs.filterMap fun x => match engineXlat d job .store die x.1 with | .ok _ pa => some (pa, x.2) | _ => none)
/-- The oldest claim of a page that waits for the collapse engine of an edge (R24). -/
def claimAt (d : Device) (page edge : Nat) : Option CollapseClaim := d.collapses.find? fun c => c.va == page && c.edge == edge
/-- COLLAPSE (R222) of the claimed page of an address, by an edge's engine; of claims of two jobs at the address on both edges, whose engine is first is free (R24, log 2). -/
def collapse (page : Nat) (P : Platform) (d : Device) : Device :=
  match claimAt d page 0, claimAt d page 1 with
  | none, none => d
  | some c, none | none, some c => collapseClaim P c d
  | some a, some b =>
    let r := d.free
    collapseClaim P (if r.1.getLsbD 0 then b else a) r.2
/-- COLLAPSE (R222). -/
def execCollapsePage (page : Nat) (s : State) := runEvent s (collapse page)

end Sys2Proof.Machine
end

