-- ==== Sys2Proof/Machine/Versions.lean ====
section
/-! DEFINITION. Version homes: the slot a store, seal or command goes to, fills, loads of sealed slots, and the staleness timeout (R224 to R228, R423, R429, R430). -/

namespace Sys2Proof.Machine
open Sys2Proof

/-- What R225 does with a store for a step. -/
inductive SlotFor where
  | apply (j : Nat) | late (j : Nat) | fresh (j : Nat) | hold
  deriving DecidableEq, Repr
/-- The slot of least step among those a condition admits. -/
def leastSlot (ss : List Slot) (p : Nat → Bool) : Option Nat :=
  ([0, 1, 2, 3].filter p).foldl (fun b j => match b with
    | none => some j
    | some i => if (ss.getD j default).step < (ss.getD i default).step then some j else b) none
/-- The table of R225: the slots, which of them a transfer keeps from being reclaimed (R430), and the step. -/
def slotFor (ss : List Slot) (busy : Nat → Bool) (s : Nat) : SlotFor :=
  let st (j : Nat) : Slot := ss.getD j default
  let top := (newestSealed ss).getD 0
  match [0, 1, 2, 3].find? fun j => (st j).state == 1 && (st j).step == s with
  | some j => .apply j
  | none => match [0, 1, 2, 3].find? fun j => (st j).state == 2 && (st j).step == s with
    | some j => .late j
    | none =>
      if s < (st top).step then .late top
      else match [0, 1, 2, 3].find? fun j => (st j).state == 0 with
        | some j => .fresh j
        | none => match leastSlot ss fun j => (st j).state == 2 && j != top && decide ((st j).step < s) && !busy j with
          | some j => .fresh j
          | none => .hold
/-- A slot that a transfer reads (R430). -/
def slotBusyAt (h : Home) (j : Nat) : Bool := h.transfers.getD j 0 != 0
/-- The choice for a step at a version home. -/
def chooseSlot (d : Device) (r s : Nat) : SlotFor := slotFor (readSlots d r) (slotBusyAt (d.home r)) s
/-- Opens a slot for a step; its fill is due (R225). -/
def openSlot (P : Platform) (d : Device) (r j s : Nat) : Device :=
  let top := (newestSealed (readSlots d r)).getD 0
  (writeSlot P d r j { readSlot d r j with step := s, state := 1, late := 0 }).modHome r fun h => { h with fill := some (j, top), commands := listSet h.commands j 0 }
/-- Copies the contents of a frame into another, with their poison marks (R225, R425). -/
def copyFrame (P : Platform) (attr : BitVec 8) (src dst : Nat) : Nat → Device → Device
  | 0, d => d
  | n + 1, d =>
    let d := copyFrame P attr src dst n d
    let a := framePhys attr src (64 * n)
    let b := framePhys attr dst (64 * n)
    let d' := engineWrite P (homeDie b) d b (d.readBytes a 64)
    (List.range 16).foldl (fun x i => if d.poisoned (a + 4 * i) then x.setPoison (b + 4 * i) else x) d'
/-- What instruction fetch is not to observe of a frame's contents follows them into another frame (R135, R225). -/
def moveHidden (d : Device) (attr : BitVec 8) (src dst n : Nat) : Device :=
  let move (old : Tbl Byte) (t : Tbl Byte) (i : Nat) : Tbl Byte := match Tbl.find old (framePhys attr src i) with
    | some b => Tbl.set t (framePhys attr dst i) b
    | none => Tbl.erase t (framePhys attr dst i)
  { d with jobs := Tbl.mapVals (fun (j : Job) => if j.codeOld.isEmpty then j else { j with codeOld := (List.range n).foldl (move j.codeOld) j.codeOld }) d.jobs }
/-- SLOT_FILL (R225): an opened slot takes the contents of the newest sealed one, and the hutches post their notice (R230). -/
def slotFills (r : Nat) (P : Platform) (d : Device) : Device :=
  let h := d.home r
  match h.fill with
  | none => d
  | some (j, top) => (noticeAll (copyFrame P h.attr (readSlot d r top).frame (readSlot d r j).frame (h.pageSize / 64) (moveHidden d h.attr (readSlot d r top).frame (readSlot d r j).frame h.pageSize)) (BitVec.allOnes 2048)).modHome r fun h => { h with fill := none }
/-- SLOT_FILL (R225). -/
def execSlotFill (home : Nat) (s : State) := runEvent s (slotFills home)

/-! Stores. -/

/-- A store's acknowledgement: the group's instruction completes with its last lane; a result that was not applied is counted (R207, R407). -/
def ackVersion (d : Device) (x : VerStore) (applied : Bool) : Device :=
  match x.source with
  | .group g op _ =>
    let d := d.modGroup g fun g => { g with ops := g.ops.map fun o => if o.id == op then { o with parts := o.parts - 1 } else o }
    if ((Tbl.find d.groups g).bind fun g => g.ops.find? fun o => o.id == op).any fun o => o.parts == 0 then finishOp d g op else d
  | .result job => if applied then d else countUnwritten d job
  | .mirror | .fill => d
/-- The die a store's writes are made from. -/
def versionDie (d : Device) (r : Nat) (x : VerStore) : Nat := match x.source with | .group g _ _ => ((Tbl.find d.groups g).map fun g => g.core / 128).getD (homeDie r) | _ => homeDie r
/-- Writes a store into a slot's frame, line by line: a page's image may cross granules. A group's store is not observed by instruction fetch before its `dbg.iflush` (R135). -/
def writeFrame (P : Platform) (src : Nat) (code : Bool) (attr : BitVec 8) (frame : Nat) : Nat → Nat → List Byte → Device → Device
  | 0, _, _, d => d
  | n + 1, off, bytes, d =>
    if bytes.isEmpty then d
    else
      let k := 64 - off % 64
      let a := framePhys attr frame off
      writeFrame P src code attr frame n (off + k) (bytes.drop k) (engineWrite P src (if code then hideCode d a (min k bytes.length) else d) a (bytes.take k))
/-- Applies a store to a slot's frame; an engine's posts its notice (R230). -/
def applyStore (P : Platform) (d : Device) (r j : Nat) (x : VerStore) : Device :=
  let d := writeFrame P (versionDie d r x) (match x.source with | .group _ _ _ => true | _ => false) (d.home r).attr (readSlot d r j).frame (x.data.length + 1) x.offset x.data d
  ackVersion (match x.notice with | some va => noticeAll d (sigOfAll (blocksOf va x.data.length)) | none => d) x true
/-- The seal's group is acknowledged. -/
def ackSeal (d : Device) (x : VerSeal) : Device := match x.group with | some g => d.modGroup g fun g => { g with outEff := g.outEff - 1 } | none => d
/-- Groups that wait for a sealed slot of a record. -/
def sealWaiters (d : Device) (r : Nat) : List Group :=
  (Tbl.vals d.groups).filter fun g => match g.wait with
    | some (.sealed op) => g.ops.any fun o => o.id == op && (match o.kind with | .verLoad q => q.record == r | _ => false)
    | _ => false
/-- The resilience-map entry that covers a page of a job (R427). -/
def coverEntry (P : Platform) (job page : Nat) : Option (Nat × ResEntry) := P.resmap.find? fun e => e.2.job == job && decide (e.2.base.toNat ≤ page) && decide (page < e.2.base.toNat + e.2.len.toNat)
/-- The transfers a seal of a page gives rise to (R429, R430). -/
def transfersFor (P : Platform) (d : Device) (r j : Nat) (x : VerSeal) : List Transfer :=
  match coverEntry P x.job x.page with
  | none => []
  | some (k, e) =>
    let cls := (e.ctl.extractLsb' 0 2).toNat
    let iv := (e.ctl.extractLsb' 4 4).toNat
    let t : Transfer := { mirror := true, skip := false, entry := k, record := r, slot := j, page := x.page, size := (d.home r).pageSize, step := x.step, job := x.job, frame := (readSlot d r j).frame }
    let busy := d.transfers.any (fun y => !y.mirror && !y.skip && y.entry == k && y.page == x.page) || P.places.any fun p => p.entry == k && p.page == x.page && p.writing.isSome
    (if cls = 1 then [t] else []) ++ (if (cls == 1 || cls == 2) && decide (1 ≤ iv) && x.step % 2 ^ (iv - 1) == 0 then [{ t with mirror := false, skip := busy }] else [])
/-- The seal is applied to an OPEN slot, and marks the record with the clock of its release: waiters wake, and transfers start (R217, R218, R226, R227, R429, R430). -/
def sealSlot (P : Platform) (d : Device) (r j : Nat) (x : VerSeal) : Device :=
  let d := writeSlot P (tagClock d x.clock r) r j { readSlot d r j with state := 2 }
  let ts := transfersFor P d r j x
  let n := (ts.filter fun t => !t.skip).length
  let d := { d with transfers := d.transfers ++ ts }.modHome r fun h => { h with transfers := listMod (· + n) h.transfers j }
  (sealWaiters d r).foldl (fun d g => wakeGroup d g.id 1 0) (ackSeal d x)
/-- A fill's image is sealed with its store, as one operation; the seal waits where commands still write the slot (R226, R423, R435). -/
def sealImage (P : Platform) (d : Device) (r j : Nat) (x : VerStore) : Device :=
  if x.source = .fill then
    let y : VerSeal := { job := (d.home r).job, group := none, page := (x.notice.getD 0).toNat, step := x.step, since := x.since, clock := clockZero }
    if (d.home r).commands.getD j 0 = 0 then sealSlot P d r j y else d.modHome r fun h => { h with seals := h.seals ++ [y] }
  else d
/-- One row of R225 for a store; `none` where it has to be held. A store that opens a slot stands before the others, for when the slot is filled. -/
def storeRow (P : Platform) (d : Device) (r : Nat) (x : VerStore) : Option Device :=
  if !recordOk d r then some (ackVersion d x false)
  else match chooseSlot d r x.step with
    | .apply j => some (sealImage P (applyStore P d r j x) r j x)
    | .late j => some (ackVersion (chargeLate P d r j) x false)
    | .fresh j => some ((openSlot P d r j x.step).modHome r fun h => { h with heldStores := x :: h.heldStores })
    | .hold => none
/-- A held store to which a row applies now, with the others. -/
def firstHeld (d : Device) (r : Nat) : List VerStore → Option (VerStore × List VerStore)
  | [] => none
  | x :: t => if !recordOk d r || chooseSlot d r x.step != .hold then some (x, t) else (firstHeld d r t).map fun p => (p.1, x :: p.2)
/-- VERSION_STORE (R225): a held store to which a row applies, else the next that arrived; while a fill is due nothing is applied. -/
def versionStores (r : Nat) (P : Platform) (d : Device) : Device :=
  let h := d.home r
  if h.fill.isSome then d
  else match firstHeld d r h.heldStores with
    | some (x, rest) => (storeRow P (d.modHome r fun h => { h with heldStores := rest }) r x).getD d
    | none => match h.stores with
      | [] => d
      | x :: rest =>
        let d' := d.modHome r fun h => { h with stores := rest }
        (storeRow P d' r x).getD (d'.modHome r fun h => { h with heldStores := h.heldStores ++ [x] })
/-- VERSION_STORE (R225). -/
def execVersionStore (home : Nat) (s : State) := runEvent s (versionStores home)

/-! Seals. -/

/-- A result's own write still stands before its seal (R407). -/
def resultPending (h : Home) (x : VerSeal) : Bool := x.group.isNone && (h.stores ++ h.heldStores).any fun y => y.step == x.step && (match y.source with | .group _ _ _ => false | _ => true)
/-- What a seal does now (R226): it is done with, or has to go on waiting, or is parked. -/
inductive SealNow where
  | done (d : Device) | wait | park
/-- One row of R226. -/
def sealRow (P : Platform) (d : Device) (r : Nat) (x : VerSeal) : SealNow :=
  let h := d.home r
  if resultPending h x then .wait
  else if !recordOk d r then .done (ackSeal d x)
  else match chooseSlot d r x.step with
    | .apply j => if h.commands.getD j 0 = 0 then .done (sealSlot P d r j x) else .wait
    | .late j => .done (ackSeal (if (readSlot d r j).step = x.step then d else chargeLate P d r j) x)
    | .fresh j => .done ((openSlot P d r j x.step).modHome r fun h => { h with seals := x :: h.seals })
    | .hold => .park
/-- The first seal of a list that is done with, with the others. -/
def firstSeal (P : Platform) (d : Device) (r : Nat) : List VerSeal → Option (VerSeal × List VerSeal)
  | [] => none
  | x :: t => match sealRow P d r x with
    | .done _ => some (x, t)
    | _ => (firstSeal P d r t).map fun p => (p.1, x :: p.2)
/-- VERSION_SEAL (R226): a parked seal that can be applied, else the next that arrived: applied, parked, or left waiting for commands of its slot or its result (R407, R423). -/
def versionSeals (r : Nat) (P : Platform) (d : Device) : Device :=
  let h := d.home r
  let run (d : Device) (x : VerSeal) : Device := match sealRow P d r x with | .done d => d | _ => d
  if h.fill.isSome then d
  else match firstSeal P d r h.parked with
    | some (x, rest) => run (d.modHome r fun h => { h with parked := rest }) x
    | none => match h.seals with
      | [] => d
      | x :: rest =>
        let d' := d.modHome r fun h => { h with seals := rest }
        match sealRow P d' r x with
        | .done d => d
        | _ => d'.modHome r fun h => { h with parked := h.parked ++ [x] }
/-- VERSION_SEAL (R226). -/
def execVersionSeal (home : Nat) (s : State) := runEvent s (versionSeals home)

/-! Loads. -/

/-- The SEALED slot of largest step at or above a minimum (R227). -/
def loadSlot (ss : List Slot) (m : Nat) : Option Nat :=
  match newestSealed ss with
  | some j => if m ≤ (ss.getD j default).step then some j else none
  | none => none
/-- The lanes of an `ld.ver` read from one slot: its result, the step read, and poison (R227, R237). The group's die learns of the seal's release, and of what the homes of the record and of the lanes have applied (R216 to R218). -/
def readLanes (d : Device) (gid k : Nat) (op : Nat) (q : VerLoad) (j : Nat) : Device :=
  let s := readSlot d q.record j
  let attr := (d.home q.record).attr
  let pa (off : Nat) : Nat := framePhys attr s.frame off
  let vals := q.lanes.map fun l => (l.1, d.readNat (pa l.2) q.bytes)
  let bad := q.lanes.find? fun l => d.anyPoison (pa l.2) q.bytes
  let w : RegWrites := match q.dest with
    | .v n => { RegWrites.none with vs := vals.flatMap fun e => cellsAt n.val ((q.bytes + 3) / 4) e.1 e.2 }
    | .s n => scaWrite n.val ((vals.head?.map (·.2)).getD 0)
  let die := ((Tbl.find d.groups gid).map fun g => g.core / 128).getD 0
  let d := d.mergeClock die (q.lanes.foldl (fun c l => clockMax c (d.die (homeDie (pa l.2))).applied) (d.valueClock q.record))
  (acquire d gid).modGroup gid fun g =>
    modSplit { g with ops := g.ops.map fun o => if o.id == op then { o with kind := .load, closing := none, writes := w, verLast := some s.step, exc := bad.map fun l => Exc.at_ .poisonedData l.1 (BitVec.ofNat 64 (q.page + l.2)) } else o } k advanceCur
/-- VERSION_LOAD (R227, R243): the slot is chosen and read in one step, and the time since the issue is a sample (R448); with none, the group waits for a seal, and one that has halted abandons the instruction (R375). -/
def versionLoads (r : Nat) (P : Platform) (d : Device) : Device :=
  match (d.home r).loads with
  | [] => d
  | (gid, op) :: rest =>
    let pop (d : Device) : Device := d.modHome r fun h => { h with loads := rest }
    match (Tbl.find d.groups gid).bind fun g => (g.ops.find? fun o => o.id == op).map fun o => (g, o) with
    | none => pop d
    | some (g, o) =>
      match o.kind, o.closing with
      | .verLoad q, some k =>
        if !recordOk d r then takeException P (dropOp (pop d) gid o) gid o.site { code := .pageAttribute, lane := none, info := BitVec.ofNat 64 q.page }
        else match loadSlot (readSlots d r) q.minStep with
          | some j => readLanes ((pop d).monNote P 7 (d.clock - q.since)) gid k op q j
          | none =>
            if g.state == .live then
              let limit := ((d.job g.job).map fun j => q.since + 2 ^ j.stale).getD 0
              (beginWait (pop d) gid (.sealed op) 6 1 limit (BitVec.ofNat 64 q.page) o.site.here).modGroup gid fun g => { g with waitSplit := k }
            else if g.state == .halted then dropOp (pop d) gid o
            else d.modHome r fun h => { h with loads := rest ++ [(gid, op)] }
      | _, _ => pop d
/-- VERSION_LOAD (R227). -/
def execVersionLoad (home : Nat) (s : State) := runEvent s (versionLoads home)

/-! Staleness. -/

/-- A time has lain past a job's staleness timeout (R228). -/
def stale (d : Device) (job since : Nat) : Bool := match d.job job with | some j => decide (since + 2 ^ j.stale < d.clock) | none => true
/-- A held store past its time: it is dropped, and a group's lane joins the pending version-ring trap of its instruction (R225, R453). -/
def dropHeld (r : Nat) (d : Device) (x : VerStore) : Device :=
  match x.source with
  | .group gid op lane =>
    match (Tbl.find d.groups gid).bind fun g => (g.ops.find? fun o => o.id == op).map fun o => (g, o) with
    | none => d
    | some (g, o) =>
      let l := (r, lane, x.offset, x.data)
      let bit : Mask := 1#32 <<< lane
      let same (t : RingTrap) : Bool := t.op == op
      let traps := if g.ringTraps.any same then g.ringTraps.map fun t => if same t then { t with site := { t.site with lanes := t.site.lanes ||| bit }, lanes := t.lanes ++ [l] } else t
        else g.ringTraps ++ [{ op, site := { o.site with lanes := bit }, step := x.step, lanes := [l] }]
      ackVersion (d.modGroup gid fun g => { g with ringTraps := if g.state == .halted then [] else traps }) x false
  | _ => ackVersion d x false
/-- STALENESS_TIMEOUT (R226, R228) at a version home: held stores, parked seals and waiting loads past their time. -/
def stalenessEnds (r : Nat) (P : Platform) (d : Device) : Device :=
  let h := d.home r
  let old := h.heldStores.filter fun x => stale d h.job x.since && recordOk d r && chooseSlot d r x.step == .hold
  let oldSeals := h.parked.filter fun x => stale d x.job x.since && (match sealRow P d r x with | .park => true | _ => false)
  let d := d.modHome r fun h => { h with heldStores := h.heldStores.filter (fun x => !old.contains x), parked := h.parked.filter fun x => !oldSeals.contains x }
  let d := old.foldl (dropHeld r) d
  let d := oldSeals.foldl (fun d x => ackSeal (match newestSealed (readSlots d r) with | some j => chargeLate P d r j | none => d) x) d
  ((sealWaiters d r).filter (pastDeadline d)).foldl (fun d g => timeoutGroup P d g) d
/-- STALENESS_TIMEOUT (R228). -/
def execStalenessTimeout (home : Nat) (s : State) := runEvent s (stalenessEnds home)

end Sys2Proof.Machine
end

