-- ==== Sys2Proof/Machine/Translation.lean ====
section
/-! DEFINITION. The miss queues of the slices (R372): misses that enter, walks that end (R371), walks repeated for parked pages, and misses parked too long. -/

namespace Sys2Proof.Machine
open Sys2Proof

/-- The level at which the tables stop on an address: that of its leaf, or of the first entry that is no table (R369). -/
def pageLevel (d : Device) (va : Nat) : List Nat → Nat → Nat
  | [], _ => 4
  | lvl :: rest, table =>
    let shift := if lvl = 1 then 39 else if lvl = 2 then 30 else if lvl = 3 then 21 else 16
    let e := table + 16 * (va / 2 ^ shift % (if lvl = 4 then 32 else 512))
    if (d.readNat e 8).testBit 52 || !(d.readNat e 8).testBit 48 then lvl else pageLevel d va rest (d.readNat (e + 8) 8)
/-- The size of the page of an address: 2 MiB where the tables stop at level 3, else 64 KiB (R369, log 51). -/
def pageBytes (d : Device) (job : Nat) (va : DWord) : Nat :=
  match Tbl.find d.jobs job with
  | none => 65536
  | some j => if pageLevel d va.toNat [1, 2, 3, 4] j.xroot = 3 then 2 ^ 21 else 65536
/-- Two misses are to one page: one entry and one walk serve both, whatever their accesses (R372). -/
def sameMiss (d : Device) (e : MissEntry) (m : Miss) : Bool :=
  let n := pageBytes d m.job m.va
  e.job == m.job && e.va.toNat / n == m.va.toNat / n
/-- A group in issue parks on a page: wait kind 8 (R45, R361). -/
def parkGroup (d : Device) (m : Miss) : Device :=
  match Tbl.find d.groups m.group with
  | none => d
  | some g => if g.state == .live then (beginWait d m.group (.page m.site m.job m.va) 8 1 0 m.va m.site.here).modGroup m.group fun g => { g with waitSplit := m.site.split } else d
/-- TRANSLATION_MISS (R372): the oldest miss of core j enters the queue of slice j of its cluster; one that finds the queue full is held. -/
def missEnters (core : Nat) (_ : Platform) (d : Device) : Device :=
  match (d.core core).misses with
  | [] => d
  | m :: rest =>
    let pop (d : Device) : Device := d.modCore core fun c => { c with misses := rest }
    let es := (d.slice core).misses
    match findWhere (fun e => sameMiss d e m) es 0 with
    | some (i, e) =>
      let d := (pop d).modSlice core fun s => { s with misses := listSet es i { e with waiters := e.waiters ++ [m] } }
      if e.parked then parkGroup d m else d
    | none =>
      if es.length < 512 then (pop d).modSlice core fun s => { s with misses := es ++ [{ job := m.job, va := m.va, access := m.access, waiters := [m], parked := false, since := d.clock, again := d.clock }] } else d
/-- TRANSLATION_MISS (R372). -/
def execTranslationMiss (core : Nat) (s : State) := runEvent s (missEnters core)

/-- The mapping a die caches: of a replicated page its own frame (R221). -/
def resolveLeaf (d : Device) (l : Leaf) (die : Nat) : Leaf := if l.repl then { l with frame := some (d.readNat (l.addr + 8 * die) 8) } else l
/-- A walk that finds the page fills the caches and wakes the groups parked on it (R372). -/
def walkFound (slice : Nat) (d : Device) (e : MissEntry) (l : Leaf) : Device :=
  let l := resolveLeaf d l (slice / 128)
  let d := d.modCluster (slice / 4) fun c => { c with xlat := fillLeaf c.xlat 2048 e.job l }
  let cores := (e.waiters.filterMap fun m => (Tbl.find d.groups m.group).map (·.core)).eraseDups.filter fun c => c / 4 == slice / 4
  let d := cores.foldl (fun (d : Device) c => d.modCore c fun x => { x with xlat := fillLeaf x.xlat 64 e.job l }) d
  let parked := ((e.waiters.map (·.group)).eraseDups).filter fun g => match (Tbl.find d.groups g).bind (·.wait) with
    | some (.page _ j va) => e.waiters.any fun m => m.group == g && m.job == j && m.va == va
    | _ => false
  parked.foldl (fun d g => wakeGroup d g 1 0) d
/-- A walk that fails fatally raises the fault in every requester (R371, R372); one swapped out issues again once it is back. -/
def walkFatal (P : Platform) (d : Device) (e : MissEntry) : Device :=
  e.waiters.foldl (fun d m => match Tbl.find d.groups m.group with
    | none => d
    | some g =>
      if g.state == .swapped then wakeGroup d m.group 1 0
      else if g.state == .live || g.state == .waiting then takeFatal P d m.group m.site m.idx { code := .translationFatal, lane := m.lane, info := m.va }
      else d) d
/-- What the one walk of an entry finds: the mapping, where it admits the access of some requester; else what ends the walk (R371). -/
def walkEntry (d : Device) (e : MissEntry) : WalkEnd :=
  let isLeaf (w : WalkEnd) : Bool := match w with | .leaf _ => true | _ => false
  (((e.access :: e.waiters.map (·.access)).map fun a => walk d e.job a e.va).find? isLeaf).getD (walk d e.job e.access e.va)
/-- Whether a leaf refuses an access (R371). -/
def Leaf.denies (l : Leaf) : Access → Bool
  | .load => !l.r
  | .store => !l.w && !l.repl
  | .fetch => !l.x
/-- Writes a slice's miss queue. -/
def setMisses (d : Device) (slice : Nat) (es : List MissEntry) : Device := d.modSlice slice fun s => { s with misses := es }
/-- The end of a walk of entry `i` of a slice's queue (R371, R372); none where the walk meets an address outside the stacks (R199). -/
def walkEnds (P : Platform) (slice : Nat) (d : Device) (i : Nat) (e : MissEntry) : Option Device :=
  let es := (d.slice slice).misses
  let gone := setMisses d slice (es.eraseIdx i)
  match walkEntry d e with
  | .leaf l =>
    if l.repl && !physOk (l.addr + 8 * (slice / 128)) then none
    else
      let part (denied : Bool) : MissEntry := { e with waiters := e.waiters.filter fun m => l.denies m.access == denied }
      some (walkFatal P (walkFound slice gone (part false) l) (part true))
  | .fatal => some (walkFatal P gone e)
  | .absent => none
  | .replayable =>
    let d := setMisses d slice (listSet es i { e with parked := true, since := if e.parked then e.since else d.clock, again := d.clock + 4096 })
    some (if e.parked then d else e.waiters.foldl parkGroup d)
/-- An event whose walk may meet an address outside the stacks (R199). -/
def runWalk (s : State) (f : Platform → Device → Option Device) : Host.Outcome State Fault Refusal :=
  match f s.plat s.dev with
  | some d => .next { s with dev := d }
  | none => .fault .absentAddress
/-- Walks the first entry that a condition admits. -/
def walkFirst (slice : Nat) (p : Device → MissEntry → Bool) (P : Platform) (d : Device) : Option Device :=
  match findWhere (p d) (d.slice slice).misses 0 with
  | some (i, e) => walkEnds P slice d i e
  | none => some d
/-- WALK_COMPLETE (R371): the oldest entry that is not parked. -/
def execWalkComplete (slice : Nat) (s : State) := runWalk s (walkFirst slice fun _ e => !e.parked)
/-- REWALK (R372): a parked entry 4096 clocks after its last walk. -/
def execRewalk (slice : Nat) (s : State) := runWalk s (walkFirst slice fun d e => e.parked && decide (e.again ≤ d.clock))
/-- MISS_TIMEOUT (R372): a miss parked longer than its job's staleness timeout. -/
def missTimesOut (slice : Nat) (P : Platform) (d : Device) : Device :=
  let es := (d.slice slice).misses
  match findWhere (fun (e : MissEntry) => e.parked && stale d e.job e.since) es 0 with
  | some (i, e) => walkFatal P (setMisses d slice (es.eraseIdx i)) e
  | none => d
/-- MISS_TIMEOUT (R372). -/
def execMissTimeout (slice : Nat) (s : State) := runEvent s (missTimesOut slice)

end Sys2Proof.Machine
end

