-- ==== Sys2Proof/Machine/Dump.lean ====
section
/-! DEFINITION. The fatal path after its first step (R375), dumps and the layout they share with context images (R377 to R381, R384, R385), and the end of a cancel (R59). -/

namespace Sys2Proof.Machine
open Sys2Proof

/-! Bodies of sections (R379, R380). -/

/-- Pads bytes to a length. -/
def padTo (n : Nat) (bs : List Byte) : List Byte := bs ++ List.replicate (n - bs.length) 0
/-- The tiles a group has reserved, on its core or saved: number and contents. -/
def groupTiles (d : Device) (g : Group) : List (Nat × Cells Word) :=
  if g.savedDrawer.isSome || g.state == .halted then g.savedTiles else ((d.core g.core).tiles.filter fun e => e.2.owner == some g.id).map fun e => (e.1, if e.2.job = some g.job then e.2.cells else [])
/-- A group's state as CONTROL shows it. -/
def stateCode (g : Group) : Nat :=
  match g.state with
  | .live => if g.pos < 8 then 0 else 1
  | .waiting => 2
  | .migrating => 3
  | .swapped => 4
  | .halted => 5
  | .exited => 6
/-- A split record. -/
def splitBytes (g : Group) (k : Nat) : List Byte :=
  match splitOf g k with
  | none => List.replicate 128 0
  | some sp =>
    let flags := ((List.range 12).map fun f => min 15 (flagCount g k f) * 16 ^ f).sum
    let r := sp.region
    padTo 128 (bytesOf 8 sp.pc.toNat ++ bytesOf 4 sp.index ++ bytesOf 4 sp.mask.toNat ++ bytesOf 8 flags ++ bytesOf 8 r.clause.toNat ++
      bytesOf 4 (r.index % 16 + r.longs % 4 * 16 + (if r.whole then 2 ^ 31 else 0)) ++ bytesOf 4 (r.xmask.toNat + r.pmask.toNat * 256) ++ bytesOf 4 r.vmask.toNat ++ bytesOf 4 r.smask.toNat ++
      bytesOf 4 sp.merges.length ++ bytesOf 4 0 ++ bytesOf 8 r.rsCtr.toNat ++ sp.merges.flatMap fun m => bytesOf 8 m.toNat)
/-- An entry of the deferral stack. -/
def deferralBytes (e : Deferral) : List Byte :=
  bytesOf 8 e.resumePc.toNat ++ bytesOf 8 e.merge.toNat ++ bytesOf 4 e.resumeMask.toNat ++ bytesOf 4 e.parked.toNat ++ bytesOf 4 (e.split + (if e.second then 256 else 0)) ++ bytesOf 4 0
/-- CONTROL (R380). -/
def controlBody (d : Device) (g : Group) : List Byte :=
  padTo 256 (g.s.flatMap fun x => bytesOf 8 x.toNat) ++ padTo 32 (g.p.flatMap fun x => bytesOf 4 x.toNat) ++
  bytesOf 8 g.rsKey.toNat ++ bytesOf 8 g.rsCtr.toNat ++ bytesOf 8 g.raFcnt.toNat ++ bytesOf 8 g.raFlast.toNat ++
  bytesOf 4 g.stepCur.toNat ++ bytesOf 4 g.verLast.toNat ++ bytesOf 4 g.name.toNat ++ bytesOf 4 ((groupTiles d g).foldl (fun m t => m + 2 ^ t.1) 0) ++
  padTo 32 (g.holds.flatMap fun h => bytesOf 4 (h.reg + 256) ++ bytesOf 4 (BitVec.ofInt 32 h.count).toNat) ++
  bytesOf 4 (stateCode g) ++ bytesOf 4 g.h ++ bytesOf 4 ((Tbl.keys g.splits).foldl (fun m k => m + 2 ^ k) 0) ++ bytesOf 4 0 ++
  splitBytes g 0 ++ splitBytes g 1 ++ splitBytes g 2 ++ splitBytes g 3 ++
  bytesOf 4 g.deferrals.length ++ bytesOf 12 0 ++ padTo 512 (g.deferrals.flatMap deferralBytes)
/-- Blocks of a group whose contents VECTOR holds: of a swapped group those that it held as its image was written (R77, R379). -/
def vectorBlocks (g : Group) : Nat := if g.savedDrawer.isSome then g.savedH else g.h
/-- VECTOR. -/
def vectorBody (g : Group) : List Byte := (List.range (1024 * (1 + vectorBlocks g))).flatMap fun i => bytesOf 4 (Cells.get 0 g.v i).toNat
/-- SHAPE. -/
def shapeBody (g : Group) : List Byte :=
  let at_ (m : Nat) : Option Snapshot := (g.shapes.getD m none)
  let ms := List.range 4
  bytesOf 4 (ms.foldl (fun x m => if (at_ m).isSome then x + 2 ^ m else x) 0) ++ bytesOf 12 0 ++ (ms.flatMap fun m => bytesOf 8 (((at_ m).map fun s => s.addr.toNat).getD 0)) ++
  ms.flatMap fun m => match at_ m with
    | some s => padTo 64 s.header ++ padTo 1024 (s.table.flatMap fun x => bytesOf 4 x)
    | none => List.replicate 1088 0
/-- TILES. -/
def tilesBody (d : Device) (g : Group) : List Byte :=
  (groupTiles d g).flatMap fun t => bytesOf 4 t.1 ++ bytesOf 12 0 ++ (List.range 1024).flatMap fun i => bytesOf 4 (Cells.get 0 t.2 i).toNat
/-- An entry of STORES. -/
def storeBytes (e : StoreEntry) : List Byte :=
  let lane (k : Nat) : Option LaneStore := e.lanes.find? fun l => l.lane == k
  let ks := List.range 32
  bytesOf 4 (maskOf (e.lanes.map (·.lane))).toNat ++ bytesOf 4 (if e.size = 4 then 0 else if e.size = 8 then 1 else 2) ++ bytesOf 8 0 ++
  (ks.flatMap fun k => bytesOf 8 (((lane k).map fun l => l.va.toNat).getD 0)) ++ ks.flatMap fun k => padTo 16 (((lane k).map (·.data)).getD [])
/-- STORES. -/
def storesBody (g : Group) : List Byte :=
  bytesOf 4 g.sb.length ++ bytesOf 4 (unacked g) ++ bytesOf 4 (g.blocks.length + (if g.full then 2 ^ 31 else 0)) ++ bytesOf 4 0 ++
  padTo 12544 (g.sb.flatMap storeBytes) ++ padTo 2048 (g.blocks.flatMap fun b => bytesOf 8 b.toNat) ++ bytesOf 256 g.carry.toNat
/-- WINDOW. -/
def windowBody (t : Team) : List Byte := (List.range t.windowSize).map fun i => Cells.get 0 t.window i
/-- A drawer's 64 bytes (R42, log 54). -/
def drawerBytes (slot : Nat) (x : Drawer) : List Byte :=
  bytesOf 4 x.count.toNat ++ bytesOf 1 (x.waitKind * 16 + x.kind) ++ bytesOf 1 x.flags.toNat ++ bytesOf 2 (slot % 8 * 2 ^ 13 + x.ownerBlock) ++ bytesOf 8 x.object.toNat ++ bytesOf 8 x.deadline.toNat ++
  bytesOf 8 x.entry.toNat ++ bytesOf 8 x.arg.toNat ++ padTo 24 (if x.kind = 3 then bytesOf 4 x.phase.toNat ++ bytesOf 4 x.arrived.toNat ++ bytesOf 4 x.quota.toNat else x.operands.flatMap fun o => bytesOf 8 o.toNat)
/-- The groups of a team, in ascending `id.group`. -/
def teamGroups (d : Device) (tid : Nat) : List Group := sortBy (fun (a b : Group) => decide (a.index ≤ b.index)) ((Tbl.vals d.groups).filter fun g => g.team == tid)
/-- A team's pool drawers with their handles: in a core, or saved. -/
def poolDrawers (d : Device) (t : Team) : List (Word × Drawer) :=
  if t.savedDrawers.isEmpty then (teamDrawers d t).map fun e => (handleOf e.1 e.2 (d.drawer e.1 e.2).gen, d.drawer e.1 e.2)
  else t.savedDrawers.map fun e => (handleOf e.1 e.2.1 e.2.2.gen, e.2.2)
/-- The team drawer, in its core or saved. -/
def barrierDrawer (d : Device) (t : Team) : Drawer := (((poolDrawers d t).find? fun e => e.2.kind == 3).map (·.2)).getD (Drawer.free 0)
/-- DRAWERS. -/
def drawersBody (d : Device) (t : Team) : List Byte :=
  let one (h : Word) (x : Drawer) : List Byte := bytesOf 4 h.toNat ++ bytesOf 12 0 ++ drawerBytes t.place x
  let pool := sortBy (fun (a b : Word × Drawer) => decide (a.1.toNat ≤ b.1.toNat)) (poolDrawers d t)
  ((teamGroups d t.id).flatMap fun g => one (handleOf g.core g.block (drawerOf d g).gen) (drawerOf d g)) ++
  ((pool.filter fun e => e.2.kind == 3).flatMap fun e => one e.1 e.2) ++ (pool.filter fun e => e.2.kind == 2).flatMap fun e => one e.1 e.2
/-- BARRIER. -/
def barrierBody (d : Device) (t : Team) : List Byte :=
  let x := barrierDrawer d t
  bytesOf 4 x.phase.toNat ++ bytesOf 4 x.arrived.toNat ++ bytesOf 4 x.quota.toNat ++ bytesOf 4 (x.flags.toNat % 2)
/-- LOCKS. -/
def locksBody (ls : List (Nat × Nat × Nat)) : List Byte := ls.flatMap fun l => bytesOf 8 l.1 ++ bytesOf 4 l.2.1 ++ bytesOf 4 l.2.2
/-- TIMELINE. -/
def timelineBody (t : Team) : List Byte :=
  (List.range 16).flatMap fun n => let x := t.tl n; bytesOf 8 x.counter ++ bytesOf 8 x.accepted ++ bytesOf 8 x.errOp ++ bytesOf 8 (x.errCode % 256 + x.errX % 2 ^ 32 * 2 ^ 32)
/-- EFFECTS: what the halt discarded (R385). -/
def effectsBody (g : Group) : List Byte :=
  bytesOf 4 g.discarded.length ++ bytesOf 12 0 ++ g.discarded.flatMap fun e =>
    bytesOf 8 e.clause.toNat ++ bytesOf 1 e.index ++ bytesOf 1 e.split ++ bytesOf 1 e.opcode ++ bytesOf 1 0 ++ bytesOf 4 e.lanes.toNat ++ bytesOf 8 e.where_.toNat ++ bytesOf 8 0
/-- What names the team in a section header. -/
def teamMark : Nat := 0xFFFFFFFF
/-- The body of a section: its kind, and the group's number inside the model. -/
def sectionBody (d : Device) (t : Team) (locks : List (Nat × Nat × Nat)) (kind gid : Nat) : List Byte :=
  let g := (Tbl.find d.groups gid).getD default
  match kind with
  | 1 => controlBody d g
  | 2 => vectorBody g
  | 3 => shapeBody g
  | 4 => tilesBody d g
  | 5 => storesBody g
  | 6 => windowBody t
  | 7 => drawersBody d t
  | 8 => barrierBody d t
  | 9 => locksBody locks
  | 10 => timelineBody t
  | _ => effectsBody g
/-- The sections of a dump, or of an image, in their order (R379). -/
def sectionList (d : Device) (t : Team) (image : Bool) : List (Nat × Nat) :=
  let gs := teamGroups d t.id
  (gs.flatMap fun g => [(1, g.id), (2, g.id), (3, g.id), (4, g.id), (5, g.id)]) ++ [(6, 0), (7, 0), (8, 0), (9, 0), (10, 0)] ++ (if image then [] else gs.map fun g => (11, g.id))
/-- The sections of a dump, or of an image, as they stand now. -/
def dumpParts (d : Device) (t : Team) (locks : List (Nat × Nat × Nat)) (image : Bool) : List DumpPart :=
  (sectionList d t image).map fun k => { kind := k.1, group := k.2, body := sectionBody d t locks k.1 k.2 }
/-- Bytes of the body of a section of a team's image (R379). -/
def bodySize (d : Device) (t : Team) (kind gid : Nat) : Nat :=
  let g := (Tbl.find d.groups gid).getD default
  match kind with
  | 1 => 1424
  | 2 => 4096 * (1 + vectorBlocks g)
  | 3 => 4400
  | 4 => 4112 * (groupTiles d g).length
  | 5 => 14864
  | 6 => t.windowSize
  | 7 => 80 * ((teamGroups d t.id).length + (poolDrawers d t).length)
  | 8 => 16
  | 9 => 16 * (if t.image.isSome && (t.state == .swapped || t.state == .fatal) then t.imageLocks else ((teamGroups d t.id).flatMap (groupLocks d)).length)
  | 10 => 512
  | _ => 0
/-- Bytes that sections take in a team's image, with their headers. -/
def sectionsSize (d : Device) (t : Team) (ss : List (Nat × Nat)) : Nat := (ss.map fun s => 16 + bodySize d t s.1 s.2).sum
/-- Where the body of a section lies in a team's image, from its start (R378, R379). -/
def bodyAt (d : Device) (t : Team) (kind gid : Nat) : Nat := 128 + sectionsSize d t ((sectionList d t true).takeWhile fun s => s != (kind, gid)) + 16
/-- The address of a byte of a section's body in a team's image. -/
def imageAddr (d : Device) (t : Team) (kind gid off : Nat) : DWord := BitVec.ofNat 64 ((t.image.getD (0, 0)).1 + bodyAt d t kind gid + off)
/-- A section: its header and its body. -/
def sectionBytes (d : Device) (kind gid : Nat) (body : List Byte) : List Byte :=
  bytesOf 4 kind ++ bytesOf 4 (if 6 ≤ kind && kind ≤ 10 then teamMark else (((Tbl.find d.groups gid).map (·.index)).getD 0)) ++ bytesOf 8 body.length ++ body
/-- The fields of a header (R378). -/
structure DumpHeader where
  flags : Nat
  code : Nat
  second : Nat
  clause : Nat
  info : Nat
  info2 : Nat
  loc2 : Nat
  kind2 : Nat
  length : Nat
  sections : Nat
  group : Nat
  name : Nat
  loc : Nat
  clock : Nat
  deriving Repr, Inhabited
/-- The 128 bytes of a header. -/
def headerBytes (d : Device) (t : Team) (h : DumpHeader) : List Byte :=
  padTo 128 (bytesOf 4 1 ++ bytesOf 4 h.flags ++ bytesOf 4 h.code ++ bytesOf 4 h.second ++ bytesOf 8 h.clause ++ bytesOf 8 h.info ++ bytesOf 8 h.info2 ++ bytesOf 4 h.loc2 ++ bytesOf 4 h.kind2 ++ bytesOf 8 h.length ++ bytesOf 4 h.sections ++
    bytesOf 4 h.group ++ bytesOf 4 h.name ++ bytesOf 4 h.loc ++ bytesOf 4 t.job ++ bytesOf 4 t.index ++ bytesOf 8 (((launchOf d t).map fun l => l.record.toNat).getD 0) ++ bytesOf 8 h.clock)

/-! Writes of an engine in a job's space. -/

/-- Writes bytes line by line until one fails (R230, R377). -/
def writeRun (P : Platform) (job die : Nat) : Nat → DWord → List Byte → Device → Device × Bool
  | 0, _, _, d => (d, true)
  | n + 1, va, bytes, d =>
    if bytes.isEmpty then (d, true)
    else
      let k := 64 - va.toNat % 64
      match jobWrite P d job die va (bytes.take k) with
      | none => (d, false)
      | some d => writeRun P job die n (va + BitVec.ofNat 64 k) (bytes.drop k) d
/-- Writes a range and posts its notices; whether it was written whole. -/
def engineRun (P : Platform) (job die : Nat) (d : Device) (va : DWord) (bytes : List Byte) : Device × Bool :=
  let r := writeRun P job die (bytes.length + 1) va bytes d
  (noticeAll r.1 (sigOfAll (blocksOf va bytes.length)), r.2)
/-- The compute die an edge's engine reaches memory from: D0 for F0, D2 for F1. The spec does not say (R24); the model's choice (log 99). -/
def edgeDie (cluster : Nat) : Nat := cluster / 64 * 2

/-! The fatal path (R375). -/

/-- Takes a copy off its cluster's engine, with its ranges. -/
def dropCopy (d : Device) (o : CopyOp) : Device :=
  ({ d with clusters := Tbl.mapVals (fun (c : Cluster) => { c with copies := c.copies.filter fun x => x.id != o.id }) d.clusters }).modTeam o.team fun t => { t with ranges := t.ranges.filter fun r => r.op != o.id }
/-- A copy ends: the notices of what it wrote are posted, its ranges leave, and its timeline moves (R230, R319, R354). -/
def endCopy (d : Device) (o : CopyOp) (code wrote : Nat) : Device :=
  let d := if winDst o.dir then d else noticeAll d (sigOfAll (blocksOf o.dst wrote))
  timelineDone (dropCopy d o) o.die o.team o.tl o.number code o.at_
/-- A copy that stands on a page that is not mapped ends with code 2 FATAL (R318, R375 step 3). -/
def endStalled (d : Device) (o : CopyOp) : Device :=
  match o.stalled with
  | some _ => endCopy d o 2 o.at_
  | none => d
/-- Sixteen bytes of an image as memory has them, poisoned or not; zeros where the page is not there. -/
def imageUnit (d : Device) (t : Team) (va : DWord) : List Byte :=
  match engineXlat d t.job .load (edgeDie t.cluster) va with
  | .ok _ pa => d.readBytes pa 16
  | _ => List.replicate 16 0
/-- The sections of the dump of a swapped team: those of its image, as memory has it, and the effects, of which it has none (R374). -/
def imageParts (d : Device) (t : Team) : List DumpPart :=
  ((sectionList d t true).map fun k => { kind := k.1, group := k.2, body := (List.range (bodySize d t k.1 k.2 / 16)).flatMap fun i => imageUnit d t (imageAddr d t k.1 k.2 (16 * i)) }) ++
  (teamGroups d t.id).map fun g => { kind := 11, group := g.id, body := effectsBody g }
/-- What a dump keeps of a team: its state, or its image (R374, R375, R379). -/
def keptParts (d : Device) (t : Team) (locks : List (Nat × Nat × Nat)) : List DumpPart := if t.image.isSome then imageParts d t else dumpParts d t locks false
/-- Every accepted engine operation of a team has completed (R319, R373). -/
def enginesQuiet (t : Team) : Bool := t.tls.all fun x => x.counter == x.accepted
/-- Every operation of the team's groups has run to completion, and its copies are drained (R375 steps 2 and 3). -/
def fatalDrained (d : Device) (t : Team) : Bool :=
  (teamGroups d t.id).all (fun g => g.ops.isEmpty && g.sb.isEmpty && g.sent.isEmpty && g.handed.isEmpty && g.releases.isEmpty) && enginesQuiet t
/-- The fatal path of a halted team as far as it has come (R375 steps 3 and 4): once its copies are drained its held locks pass poisoned and its places at benches go; once every operation has run to completion the dump keeps its state as it stands. -/
def fatalGoesOn (P : Platform) (d : Device) (tid : Nat) : Device :=
  match Tbl.find d.teams tid with
  | none => d
  | some t =>
    if t.state != .fatal || !t.stopped || !enginesQuiet t then d
    else
      let d := (teamGroups d t.id).foldl (fun d h => poisonLocks P (removeWaiter d h.id) h.id) d
      if !fatalDrained d t then d
      else d.modTeam t.id fun t => { t with dump := t.dump.map fun x => { x with saved := x.saved <|> some (keptParts d t x.locks) } }
/-- FATAL_FAULT (R375 steps 2 to 4): every group of the team halts, stalled copies end, and held locks pass poisoned once its copies are drained. -/
def fatalSpreads (gid : Nat) (P : Platform) (d : Device) : Device :=
  match (Tbl.find d.groups gid).bind fun g => (Tbl.find d.teams g.team).map fun t => (g, t) with
  | none => d
  | some (g, t) =>
    if g.state != .halted || t.state != .fatal || t.stopped then d
    else
      let others := (teamGroups d t.id).filter fun h => h.state != .halted
      let locks := others.flatMap (groupLocks d)
      let d := others.foldl (fun d h => haltAt true d h.id) d
      let d := ((Tbl.vals d.clusters).flatMap fun c => c.copies.filter fun o => o.team == t.id).foldl endStalled d
      let d := d.modTeam t.id fun t => { t with stopped := true, dump := t.dump.map fun x => { x with locks := x.locks ++ locks } }
      fatalGoesOn P d t.id
/-- FATAL_FAULT (R375). -/
def execFatalFault (group : Nat) (s : State) := runEvent s (fatalSpreads group)

/-- Body bytes that cannot be read: of the window its poisoned words, and what the team's image has poisoned (R374, R381). -/
def badBytes (d : Device) (t : Team) (kind len offset : Nat) : List Nat :=
  match t.image with
  | some (place, _) => (List.range len).filter fun i => match engineXlat d t.job .load (edgeDie t.cluster) (BitVec.ofNat 64 (place + offset + 16 + i)) with
    | .ok _ pa => d.poisoned pa
    | _ => false
  | none => if kind = 6 then (List.range len).filter fun i => t.windowPoison.contains (i / 4) else []
/-- Writes the header, advances `dumpnext`, escalates after a second fault and frees the team (R375 step 6, R377, R378, R381). -/
def endDump (P : Platform) (d : Device) (t : Team) (x : DumpState) : Device :=
  let flags := x.flags ||| (if x.second.isSome then 12 else 0)
  let s := x.second.getD (0, 0, BitVec.ofNat 32 teamMark, 0)
  let h : DumpHeader := { flags, code := x.code.num, second := s.1, clause := x.clause.toNat, info := x.info.toNat, info2 := s.2.1.toNat, loc2 := s.2.2.1.toNat, kind2 := s.2.2.2, length := x.length, sections := x.written, group := x.group, name := x.name.toNat, loc := x.loc.toNat, clock := x.clock }
  let d := (engineRun P t.job (edgeDie t.cluster) d (BitVec.ofNat 64 (x.base + x.offset)) (headerBytes d t h)).1
  let d := setStatus P d t.job 40 (x.offset + (x.length + 63) / 64 * 64)
  let d := match x.second, t.launch with
    | some _, some l => cancelLaunch P true d l
    | _, _ => d
  completeTeam P d t.id .failed
/-- The offset of the poisoned line that holds a byte of a section's body, from the start of that body: a line of the window, or of the image the body is read from (R384, log 103). -/
def badLine (t : Team) (at_ i : Nat) : DWord :=
  match t.image with
  | some (place, _) => BitVec.ofNat 64 ((place + at_ + 16 + i) / 64 * 64) - BitVec.ofNat 64 (place + at_ + 16)
  | none => BitVec.ofNat 64 (i / 64 * 64)
/-- Writes the next section; a poisoned line in it is a second fault (R381, R384). -/
def dumpNext (P : Platform) (d : Device) (t : Team) (x : DumpState) : Device :=
  match x.sections.getD [] with
  | [] => endDump P d t { x with flags := if x.second.isSome then x.flags else x.flags ||| 2 }
  | ⟨kind, gid, body⟩ :: rest =>
    if t.cancelled && x.written != 0 then endDump P d t { x with flags := x.flags ||| 8 }
    else
      if x.size < x.offset + x.length + 16 + body.length then endDump P d t { x with flags := x.flags ||| 16 }
      else
        let bad := badBytes d t kind body.length x.length
        let clean := ((List.range body.length).zip body).map fun e => if bad.contains e.1 then 0 else e.2
        let r := engineRun P t.job (edgeDie t.cluster) d (BitVec.ofNat 64 (x.base + x.offset + x.length)) (sectionBytes d kind gid clean)
        if !r.2 then endDump P r.1 t { x with flags := x.flags ||| 32 }
        else
          let y := { x with length := x.length + 16 + body.length, written := x.written + 1, sections := some rest }
          match x.second with
          | some (c, i, l, _) => endDump P r.1 t { y with second := some (c, i, l, kind) }
          | none => match bad with
            | i :: _ => endDump P (countFatal P r.1 t.job) t { y with second := some (ExcCode.poisonedData.num, badLine t x.length i, BitVec.ofNat 32 teamMark, kind) }
            | [] => r.1.modTeam t.id fun t => { t with dump := some y }
/-- Whether the ring still holds record `k`: none of the later records took its place (R364). -/
def recordStands (d : Device) (job k : Nat) : Bool := decide (statusNat d job 16 ≤ k + 2 ^ (statusNat d job 8 % 16))
/-- Puts the place of the dump into the records of the faults that caused it, at device scope (R230, R364, R377). -/
def patchRecords (P : Platform) (d : Device) (job offset : Nat) (ks : List Nat) : Device :=
  (ks.filter (recordStands d job)).foldl (fun d k => match trapSlot d job k with
    | some va => noticeAll (jobWriteDrop P d job 0 (va + 56) (bytesOf 8 offset)) (sigOfAll (blocksOf (va + 56) 8))
    | none => d) d
/-- DUMP (R377): the first dump of a job's queue starts, or goes on by one section. -/
def dumpSteps (job : Nat) (P : Platform) (d : Device) : Device :=
  match ((d.job job).bind fun j => j.dumps.head?).bind (Tbl.find d.teams) with
  | none => d
  | some t => match t.dump with
    | none => d
    | some x =>
      if x.sections.isSome then dumpNext P d t x
      else match x.saved with
      | none => d
      | some parts =>
      if x.skip then completeTeam P d t.id .failed
      else
        let base := statusNat d job 24
        let size := statusNat d job 32
        let next := statusNat d job 40
        if size < next + 128 then completeTeam P d t.id .failed
        else dumpNext P (patchRecords P d job next x.records) t { x with base, size, offset := next, length := 128, sections := some parts }
/-- DUMP (R377). -/
def execDumpSection (job : Nat) (s : State) := runEvent s (dumpSteps job)

/-! The end of a cancel (R59). -/

/-- CANCEL_GRACE_EXPIRY (R59): every group of a closing team halts, and its open regions are discarded with their held effects. -/
def graceExpires (tid : Nat) (_ : Platform) (d : Device) : Device :=
  match Tbl.find d.teams tid with
  | none => d
  | some t => match t.cancelAt with
    | some at_ => if t.state == .closing && decide (at_ ≤ d.clock) then (teamGroups d tid).foldl (fun d g => discardEffects (haltGroup d g.id) g.id) d else d
    | none => d
/-- CANCEL_GRACE_EXPIRY (R59). -/
def execCancelGraceExpiry (team : Nat) (s : State) := runEvent s (graceExpires team)
/-- CANCEL_DISCARDING (R59): when every group of a closing team has halted and its accepted operations have completed (R319), its resources are freed, and the objects above it complete as their last part goes. -/
def cancelDiscards (tid : Nat) (P : Platform) (d : Device) : Device :=
  match Tbl.find d.teams tid with
  | none => d
  | some t => if t.state == .closing && enginesQuiet t && (teamGroups d tid).all (fun g => g.state == .halted) then completeTeam P d tid .cancelled else d
/-- CANCEL_DISCARDING (R59). -/
def execCancelDiscarding (team : Nat) (s : State) := runEvent s (cancelDiscards team)

end Sys2Proof.Machine
end

