-- ==== Sys2Proof/Machine/Scheduler.lean ====
section
/-! DEFINITION. The scheduler: queues and their heads (R344), fit and placement (R346, R347), rotation and ages (R345, R360), displacement (R348), swap-out and restore (R61 to R64, R373, R374), and the walker's events (R340, R351 to R353). -/

namespace Sys2Proof.Machine
open Sys2Proof

/-! Queues and room. -/

/-- The head of a job's queue: its handler team, else its first swapped team, else its first queued one (R344, R365). -/
def queueHead (d : Device) (j : Job) : Option Team :=
  match (j.queued.filterMap (Tbl.find d.teams)).find? (·.handler) with
  | some t => some t
  | none => (j.swapped ++ j.queued).head?.bind (Tbl.find d.teams)
/-- A team holds its cluster's resources. -/
def occupies (t : Team) : Bool := match t.state with | .placing | .resident | .swappingOut | .restoring | .closing => true | .fatal => t.image.isNone | _ => false
/-- Teams on a cluster, but for those on a list. -/
def teamsOn (d : Device) (cl : Nat) (out : List Nat) : List Team := (Tbl.vals d.teams).filter fun t => occupies t && t.cluster == cl && !out.contains t.id
/-- The team of a group is on a list. -/
def teamOut (d : Device) (out : List Nat) (gid : Nat) : Bool := ((Tbl.find d.groups gid).map fun g => out.contains g.team).getD false
/-- Free positions of a core once some teams have left. -/
def roomPositions (d : Device) (core : Nat) (out : List Nat) : Nat := 64 - ((groupsOn d core).filter fun g => !out.contains g.team).length
/-- Free chunks of a core once some teams have left. -/
def roomChunks (d : Device) (core : Nat) (out : List Nat) : Nat := 64 - ((d.core core).chunkOwners.filter fun o => !teamOut d out (o.2 / 8)).length
/-- Free pool drawers of a core once some teams have left. -/
def roomDrawers (d : Device) (core : Nat) (out : List Nat) : Nat := 192 - ((d.core core).drawers.filter fun e => decide (64 ≤ e.1) && e.2.kind != 0 && !out.contains e.2.team).length
/-- A tile number is free on a core once some teams have left. -/
def roomTile (d : Device) (core : Nat) (out : List Nat) (t : Nat) : Bool := match (tileOf d core t).owner with | none => true | some g => teamOut d out g
/-- The core of a cluster that holds a byte of a window (R203). -/
def windowCore (o : Nat) : Nat := o / 128 % 4
/-- Where the byte lies in that core's scratchpad, for a window at base `b` (R203). -/
def windowLocal (b o : Nat) : Nat := b + o / 512 * 128 + o % 128
/-- The lowest window base that fits (R203, R346). -/
def windowBase (d : Device) (cl : Nat) (out : List Nat) (w : Nat) : Option Nat :=
  let used := (teamsOn d cl out).map fun t => (t.base, t.base + t.windowSize / 4)
  (sortBy (fun x y => decide (x ≤ y)) (0 :: used.map (·.2))).find? fun b => decide (b + w / 4 ≤ 2 ^ 19) && !used.any fun u => decide (b < u.2) && decide (u.1 < b + w / 4)
/-- Indices of the groups a team has to place. -/
def groupIndices (d : Device) (t : Team) : List Nat := if t.state == .queued then List.range t.groups else (teamGroups d t.id).map (·.index)
/-- Task drawers a swapped team has to restore on a core of its cluster. -/
def taskDrawers (t : Team) (k : Nat) : Nat := (t.savedDrawers.filter fun e => e.2.2.kind == 2 && e.1 % 4 == k).length
/-- A team fits a cluster once some teams have left (R346). -/
def fits (P : Platform) (d : Device) (t : Team) (cl : Nat) (out : List Nat) : Bool :=
  let is := groupIndices d t
  let gs := if t.state == .queued then [] else teamGroups d t.id
  P.clusterOk cl && decide ((teamsOn d cl out).length < 8) && (windowBase d cl out t.windowSize).isSome &&
  [0, 1, 2, 3].all fun k =>
    let core := 4 * cl + k
    let mine := gs.filter fun g => g.index % 4 == k
    decide ((is.filter fun i => i % 4 == k).length ≤ roomPositions d core out) && decide ((mine.map (·.h)).sum ≤ roomChunks d core out) &&
    decide (taskDrawers t k + (if k = 0 then 1 else 0) ≤ roomDrawers d core out) && mine.all (fun g => g.savedTiles.all fun x => roomTile d core out x.1) &&
    (let ns : List Nat := mine.flatMap fun g => g.savedTiles.map (·.1); decide ns.Nodup)
/-- The clusters in the order of the search (R347). -/
def searchOrder (P : Platform) (d : Device) (t : Team) : List Nat × Bool :=
  let hint := BitVec.ofNat 64 (((launchOf d t).map fun l => l.fields.getD 8 0).getD 0)
  let plain := (List.range 128).map fun i => (d.sched.lastCluster + 1 + i) % 128
  if hint = 0 then (plain, false)
  else match engineXlat d t.job .load 0 hint with
    | .ok _ pa =>
      let k := homeSlice P pa / 4
      let die := k / 32
      let c := k % 32
      ([0, 1, 2, 3].flatMap fun x => (List.range 32).map fun i => Nat.xor die x * 32 + Nat.xor c i, true)
    | _ => (plain, false)
/-- The displacement of a job. -/
def displacementOf (d : Device) (j : Nat) : Option Displacement := d.sched.displacements.find? fun x => x.job == j
/-- A cluster kept for another job's head (R348). -/
def reservedFor (d : Device) (j cl : Nat) : Bool := d.sched.displacements.any fun x => x.cluster == cl && x.job != j
/-- The cluster a head is placed on; one that its displacement has cleared comes first. -/
def chooseCluster (P : Platform) (d : Device) (j : Nat) (t : Team) : Option Nat :=
  let own := ((displacementOf d j).map fun x => [x.cluster]).getD []
  (own ++ (searchOrder P d t).1).find? fun cl => !reservedFor d j cl && fits P d t cl []

/-! Images and displacement. -/

/-- Bytes of a team's image: its header and its sections (R374, R379). -/
def imageSize (d : Device) (t : Team) : Nat := 128 + sectionsSize d t (sectionList d t true)
/-- The first place in a job's swap area that an image fits, in units of 64 KiB (R374). -/
def claimImage (d : Device) (t : Team) : Option (Nat × Nat) :=
  let base := statusNat d t.job 48
  let units := statusNat d t.job 56 / 65536
  let n := (imageSize d t + 65535) / 65536
  let used := (Tbl.vals d.teams).filterMap fun x => if x.job = t.job then x.image else none
  let at_ (u : Nat) : Nat := base + 65536 * u
  ((List.range (units + 1)).find? fun u => decide (u + n ≤ units) && !used.any fun x => decide (at_ u < x.1 + x.2) && decide (x.1 < at_ (u + n))).map fun u => (at_ u, 65536 * n)
/-- Every live group of a team is WAITING (R64). -/
def allWaiting (d : Device) (tid : Nat) : Bool := (teamGroups d tid).all fun g => g.state == .waiting
/-- Priority of a team: its job's (R348). -/
def teamPrio (d : Device) (t : Team) : Nat := ((d.job t.job).map (·.prio)).getD 0
/-- The class of a resident team for a head at priority `p` (R348). -/
def swapClass (d : Device) (p : Nat) (t : Team) : Option Nat :=
  if t.state != .resident then none
  else if allWaiting d t.id && decide (teamPrio d t ≤ p) then some 1
  else if teamPrio d t < p then some 2
  else if teamPrio d t = p && t.quantumOver then some 3
  else none
/-- The teams of a cluster that may leave for a head, in order; one whose image has no place is skipped (R348, R374). -/
def candidates (d : Device) (p cl : Nat) : List Team :=
  let cs := (teamsOn d cl []).filterMap fun t => (swapClass d p t).bind fun c => if (claimImage d t).isSome then some (c, t) else none
  (sortBy (fun (x y : Nat × Team) => decide (x.1 < y.1) || (x.1 == y.1 && (decide (teamPrio d x.2 < teamPrio d y.2) || (teamPrio d x.2 == teamPrio d y.2 && decide (x.2.residentSince ≤ y.2.residentSince))))) cs).map (·.2)
/-- The fewest of them, in that order, that leave room. -/
def fewest (P : Platform) (d : Device) (t : Team) (cl : Nat) (cs : List Team) : Option (List Nat) :=
  (((List.range cs.length).map fun n => (cs.take (n + 1)).map (·.id)).find? fun out => fits P d t cl out)
/-- What a displacement for a head swaps out, and where (R348). -/
def chooseDisplacement (P : Platform) (d : Device) (j p : Nat) (t : Team) : Option (Nat × List Nat) :=
  (List.range 128).foldl (fun b cl =>
    if reservedFor d j cl then b
    else match fewest P d t cl (candidates d p cl), b with
      | some ts, some (_, us) => if ts.length < us.length then some (cl, ts) else b
      | some ts, none => some (cl, ts)
      | none, _ => b) none
/-- The effective priority of a queue (R345, R365). -/
def effPrio (d : Device) (j : Job) : Nat := if j.aged || ((queueHead d j).map (·.handler)).getD false then 8 else j.prio
/-- How a queue stands (R345, R348). -/
inductive QueueNow where
  | place (cl : Nat) | displace (cl : Nat) (ts : List Nat) | displacing | idle
  deriving DecidableEq, Repr
/-- How a job's queue stands. -/
def queueNow (P : Platform) (d : Device) (j : Job) : QueueNow :=
  match queueHead d j with
  | none => .idle
  | some t =>
    if ((displacementOf d j.number).map fun x => !x.teams.isEmpty).getD false then .displacing
    else match chooseCluster P d j.number t with
      | some cl => .place cl
      | none => match chooseDisplacement P d j.number (effPrio d j) t with
        | some x => .displace x.1 x.2
        | none => .idle
/-- The queue is ready (R345). -/
def QueueNow.ready : QueueNow → Bool
  | .place _ | .displace _ _ => true
  | _ => false
/-- The scheduler's choice of R345: the set S, and the queue served or for which a displacement starts. -/
def scheduleChoice (P : Platform) (d : Device) : Option (List Nat × Job × QueueNow) :=
  let ready := (Tbl.vals d.jobs).filterMap fun j => let q := queueNow P d j; if q.ready then some (j, q) else none
  let top := ready.foldl (fun m x => max m (effPrio d x.1)) 0
  let S := ready.filter fun x => effPrio d x.1 == top
  let pool := if S.all fun x => x.1.rot then S else S.filter fun x => !x.1.rot
  pool.head?.map fun w => (S.map fun x => x.1.number, w.1, w.2)
/-- The scheduler has acted in this clock, or may (R345): one placement, restore or start of a displacement a clock. -/
def schedFree (d : Device) : Bool := d.sched.lastAct != some d.clock
/-- The scheduler acts in this clock. -/
def schedActs (d : Device) : Device := { d with sched := { d.sched with lastAct := some d.clock } }
/-- Resets the rotation bits of S when all are 1, but for that of a queue for which a displacement starts (R345, R360, log 104). -/
def resetRot (d : Device) (S : List Nat) (but : Option Nat) : Device :=
  if S.all fun j => ((d.job j).map (·.rot)).getD false then (S.filter fun j => some j != but).foldl (fun d j => d.modJob j fun j => { j with rot := false }) d else d
/-- A queue has been served (R345): its rotation bit is set and its age starts afresh. -/
def served (d : Device) (j : Nat) : Device :=
  ({ d with sched := { d.sched with displacements := d.sched.displacements.filter fun x => x.job != j } }).modJob j fun x => { x with rot := true, aged := false, readySince := none, readyFor := 0 }

/-! Placement (R346). -/

/-- The place of the next group on a core: slot and position. -/
def nextPlace (d : Device) (core : Nat) : Nat × Nat := let slot := roomiestSlot d core; (slot, (freePos d core slot).headD 0)
/-- Starts the groups of a team in ascending index, each with an acquire (R217). -/
def startGroups (t : Team) (cl : Nat) (d : Device) (i : Nat) : Device :=
  let core := 4 * cl + i % 4
  let p := nextPlace d core
  let gid := d.nextId
  acquire (startGroup d { job := t.job, team := t.id, index := i, task := false, core, slot := p.1, pos := p.2, lanes := BitVec.ofNat 32 (2 ^ t.lanes - 1), entry := t.entry, s0 := t.s0, s2 := t.s2, step := t.step }) gid
/-- The cluster the search has chosen without a hint is remembered (R347). -/
def noteCluster (P : Platform) (d : Device) (t : Team) (cl : Nat) : Device := if (searchOrder P d t).2 then d else { d with sched := { d.sched with lastCluster := cl } }
/-- A team is placed on a cluster (R34, R49, R54, R267). -/
def placeTeam (P : Platform) (d : Device) (t : Team) (cl : Nat) : Device :=
  let base := (windowBase d cl [] t.windowSize).getD 0
  let i := (d.poolDrawer (4 * cl)).getD 64
  let place := freePlace d cl
  let d := (noteCluster P d t cl).fromCommand (cl / 32)
  let d := (d.setDrawer (4 * cl) i { Drawer.free (d.drawer (4 * cl) i).gen with kind := 3, team := t.id, quota := BitVec.ofNat 32 t.groups }).modTeam t.id fun t =>
    { t with state := .placing, cluster := cl, place, base, window := [], windowPoison := [], residentSince := d.clock, quantumOver := false, tls := List.replicate 16 Timeline.start, drawer := i }
  let d := d.modJob t.job fun j => { j with queued := j.queued.filter (· != t.id) }
  ((List.range t.groups).foldl (startGroups t cl) d).modTeam t.id fun t => { t with state := .resident }
/-- TEAM_PLACE (R346). -/
def teamPlaces (P : Platform) (d : Device) : Device :=
  match scheduleChoice P d with
  | some (S, j, .place cl) => match queueHead d j with
    | some t => if t.state == .queued && schedFree d then placeTeam P (served (resetRot (schedActs d) S none) j.number) t cl else d
    | none => d
  | _ => d
/-- TEAM_PLACE (R346). -/
def execTeamPlace (s : State) := runEvent s teamPlaces

/-! Swap-out (R373). -/

/-- A swap-out starts: issue stops, and the image's place is claimed; without one issue goes on (R373 step 1, R374). -/
def beginSwap (d : Device) (tid : Nat) : Device :=
  match Tbl.find d.teams tid with
  | none => d
  | some t => match claimImage d t with
    | some x => d.modTeam tid fun t => { t with state := .swappingOut, stopped := true, image := some x }
    | none => d
/-- DISPLACEMENT_START (R348): the set is committed; up to 4 of its swap-outs start. -/
def displacementStarts (P : Platform) (d : Device) : Device :=
  match scheduleChoice P d with
  | some (S, j, .displace cl ts) =>
    if !schedFree d then d else
    let d := resetRot (schedActs d) S (some j.number)
    { d with sched := { d.sched with displacements := (d.sched.displacements.filter fun x => x.job != j.number) ++ [{ job := j.number, cluster := cl, teams := ts }] } }
  | _ => d
/-- DISPLACEMENT_START (R348). -/
def execDisplacementStart (s : State) := runEvent s displacementStarts
/-- Swap-outs in progress. -/
def swapsRunning (d : Device) : Nat := ((Tbl.vals d.teams).filter fun t => t.state == .swappingOut).length
/-- Starts swap-outs of the committed sets, in the order of choice, while fewer than 4 are in progress; a team that has left its set's cluster otherwise, or has no place for its image, is no longer in it (R348, R374). -/
def startSwaps : List Nat → Device → Device
  | [], d => d
  | tid :: rest, d =>
    match Tbl.find d.teams tid with
    | none => startSwaps rest d
    | some t => startSwaps rest (if t.state == .resident && decide (swapsRunning d < 4) then beginSwap d tid else d)
/-- Teams of a set whose swap-out is still to come or under way. -/
def stillLeaving (d : Device) (t : Nat) : Bool := ((Tbl.find d.teams t).map fun t => t.state == .swappingOut || (t.state == .resident && (claimImage d t).isSome)).getD false
/-- Time toward the age limit (R345, R348). -/
def ageQueue (P : Platform) (clock : Nat) (d : Device) (j : Job) : Job :=
  match queueNow P d j with
  | .place _ | .displace _ _ => { j with readySince := j.readySince <|> some (clock - j.readyFor) }
  | .displacing => { j with readyFor := match j.readySince with | some t => clock - t | none => j.readyFor, readySince := none }
  | .idle => { j with readySince := none, readyFor := 0 }
/-- What the scheduler does of itself after each step. -/
def schedSweep (P : Platform) (d : Device) : Device :=
  let d := startSwaps (d.sched.displacements.flatMap (·.teams)) d
  let d := { d with sched := { d.sched with displacements := (d.sched.displacements.map fun (x : Displacement) => { x with teams := x.teams.filter (stillLeaving d) }).filter fun x => ((d.job x.job).bind (queueHead d)).isSome } }
  { d with jobs := Tbl.mapVals (fun (j : Job) => ageQueue P d.clock d j) d.jobs }

/-- An operation that stays in the context: a store not yet acknowledged (R61), and a `coll.get` issued in a region that has closed (R109, log 105). -/
def keptOp (o : Op) : Bool := match o.kind with | .store | .verStore => true | .collGet => o.past | _ => false
/-- An operation that a swap-out waits for: a closing instruction, an instruction that counts as writing a live-in, and what was issued in a region that has closed, since no region issues it again (R109, R129, R292). An `ld.ver` leaves its split at the instruction, which issues again. -/
def awaitedOp (o : Op) : Bool :=
  match o.kind with
  | .verLoad _ => false
  | .matrix | .take | .fence | .pending => true
  | _ => !keptOp o && (o.closing.isSome || o.past || !o.tiles.isEmpty)
/-- Nothing the swap-out of a group has to wait for is left: operations, and what closed regions released (R129, R373 step 2). -/
def groupQuiet (g : Group) : Bool := g.handed.isEmpty && g.releases.isEmpty && g.state != .migrating && !g.ops.any awaitedOp
/-- Waits that a swap-out keeps (R62). -/
def keptWait : Option WaitFor → Bool
  | some (.barrier _) | some (.lock _ _ _ _ _ _) | some (.xacq _) | some (.stepAdv _) => true
  | _ => false
/-- A split waits for a merge at the clause start at which its region begins (R185, R192). -/
def waitsAtEntry (sp : Split) : Bool := sp.mergeWait && sp.index == 0 && sp.region.index == 0 && sp.region.clause == sp.pc
/-- A split as it re-executes its discarded region, entered again with the group's `rs.ctr` (R61, R93, R125); one in a wait that is kept stays where it waits, and its clause is entered as a resumed one (R451). A wait for a merge at the region's own start goes on (R192, log 105). -/
def rewind (keep : Bool) (clock : Nat) (ctr : DWord) (sp : Split) : Split :=
  if keep then { sp with entry := some .resumed, bypass := [], stall := none }
  else { gotoClause sp sp.region.clause .resumed with index := sp.region.index, region := { sp.region with rsCtr := ctr, since := clock }, bypass := [], stall := none, noMatch := false, waitOver := false, mergeWait := waitsAtEntry sp }
/-- The value `rs.ctr` goes back to: that recorded with the discarded region that was entered first, the lower split before the higher (R93, R125). -/
def rewindCtr (g : Group) (kept : Nat → Bool) : DWord :=
  let first (b : Option Region) (e : Nat × Split) : Option Region := match b with
    | some r => if e.2.region.since < r.since then some e.2.region else b
    | none => some e.2.region
  (((g.splits.filter fun e => !kept e.1).foldl first none).map (·.rsCtr)).getD g.rsCtr
/-- Step 3 for one group: open regions and held effects are discarded, waits other than those of R62 abandoned, and what its operations left elsewhere goes (R61, R62, R367, R373). -/
def preempt (d : Device) (gid : Nat) : Device :=
  match Tbl.find d.groups gid with
  | none => d
  | some g =>
    let keepWait := keptWait g.wait
    let trapped := match g.wait with | some (.trap _) => true | _ => false
    let ring := match g.wait with | some (.trap t) => t.ring.toList | _ => []
    let d := if keepWait then removeMisses d gid else if g.wait.isSome then abandonWait d gid else removeVerLoads (removeMisses d gid) gid
    let d := if trapped then bumpDrawer d g else d
    let d := discardEffects d gid
    let d := { d with coll := { d.coll with gets := d.coll.gets.filter fun w => w.group != gid || g.ops.any fun o => o.id == w.op && keptOp o } }
    let d := freeEntries d g.core (g.ops.filter fun o => !keptOp o)
    d.modGroup gid fun g =>
      let kept (k : Nat) : Bool := keepWait && k == g.waitSplit
      let ctr := rewindCtr g kept
      { g with ops := g.ops.filter keptOp, rsCtr := ctr, splits := g.splits.map fun e => (e.1, rewind (kept e.1) d.clock ctr e.2), ringTraps := ring ++ g.ringTraps, yielded := none }
/-- A group's drawer is saved and its units go back to the core (R61, R373 step 5). -/
def saveGroup (d : Device) (gid : Nat) : Device :=
  match Tbl.find d.groups gid with
  | none => d
  | some g =>
    let x := d.drawer g.core g.block
    let tiles := groupTiles d g
    let d := (depositRegs d gid).freeDrawer g.core g.block
    let d := d.modGroup gid fun g => { g with state := .swapped, savedDrawer := some x, savedTiles := tiles, savedH := g.h, imageDue := [], late := [] }
    let d := d.modCore g.core fun k => { k with shelf := dropShelf gid k.shelf }
    let d := clearMatches d g.core g.job
    grantChunks g.core ((d.core g.core).chunkQueue.length + 1) d
/-- The drawers of a team are saved with the handles they had (R43, R63), and the order in which its tasks wait on start queues (R48). -/
def saveDrawers (d : Device) (t : Team) : Device :=
  let es := teamDrawers d t
  let saved := es.map fun e => (e.1, e.2, d.drawer e.1 e.2)
  let names := ((List.range es.length).zip es).flatMap fun n =>
    let x := d.drawer n.2.1 n.2.2
    ((handleOf n.2.1 n.2.2 x.gen, n.1, 0, 0) : Word × Nat × Nat × Nat) :: (t.aliases.filter fun a => a.2.1 == n.2.1 && a.2.2.1 == n.2.2 && a.2.2.2 == x.gen.toNat).map fun a => (a.1, n.1, 0, 0)
  let waiting := d.cores.flatMap fun k => k.2.startQueue.filterMap fun e => if e.2.team = t.id then (findWhere (fun x => x == (k.1, e.1)) es 0).map (·.1) else none
  let d := es.foldl (fun d e => d.freeDrawer e.1 e.2) d
  let d := { d with cores := Tbl.mapVals (fun (c : Core) => { c with startQueue := c.startQueue.filter fun e => e.2.team != t.id }) d.cores }
  d.modTeam t.id fun t => { t with savedDrawers := saved, aliases := names, zeroed := waiting, imageDue := [] }
/-- The header and sections of an image (R374). -/
def imageBytes (d : Device) (t : Team) : List Byte :=
  let locks := (teamGroups d t.id).flatMap (groupLocks d)
  let parts := dumpParts d t locks true
  let body := parts.flatMap fun s => sectionBytes d s.kind s.group s.body
  headerBytes d t { flags := 3, code := 0, second := 0, clause := 0, info := 0, info2 := 0, loc2 := 0, kind2 := 0, length := 128 + body.length, sections := parts.length, group := 0, name := 0, loc := 0, clock := 0 } ++ body
/-- Bytes of an image up to the line of the first poisoned word of the window, which the engine cannot write; none where it can write all (R374). -/
def poisonedAt (d : Device) (t : Team) : Option Nat :=
  (sortBy (fun x y => decide (x ≤ y)) (t.windowPoison.filter fun w => decide (4 * w < t.windowSize))).head?.map fun w => (bodyAt d t 6 0 + 4 * w) / 64 * 64
/-- Writes a team's image; whether it was written whole. A poisoned word of the window ends the writing at its line (R374). -/
def writeContext (P : Platform) (d : Device) (t : Team) : Device × Bool :=
  let bytes := imageBytes d t
  let r := engineRun P t.job (edgeDie t.cluster) d (BitVec.ofNat 64 (t.image.getD (0, 0)).1) (bytes.take ((poisonedAt d t).getD bytes.length))
  (r.1, r.2 && (poisonedAt d t).isNone)
/-- SWAP_OUT (R373 steps 2 to 5): when nothing is left to wait for, regions are discarded, the image is written and the cluster's resources are freed; an image that cannot be written leaves the team where it is. -/
def swapsOut (tid : Nat) (P : Platform) (d : Device) : Device :=
  match Tbl.find d.teams tid with
  | none => d
  | some t =>
    if t.state != .swappingOut || !(teamGroups d tid).all groupQuiet || !enginesQuiet t then d
    else
      let d := (teamGroups d tid).foldl (fun d g => preempt d g.id) d
      let r := writeContext P d t
      if !r.2 then (countFatal P r.1 t.job).modTeam tid fun t => { t with state := .resident, stopped := false, image := none }
      else
        let locks := ((teamGroups d tid).flatMap (groupLocks d)).length
        let d := (teamGroups r.1 tid).foldl (fun d g => saveGroup d g.id) (saveDrawers r.1 t)
        (d.modTeam tid fun t => { t with state := .swapped, stopped := false, imageLocks := locks }).modJob t.job fun j => { j with swapped := j.swapped ++ [tid] }
/-- SWAP_OUT (R373). -/
def execSwapOut (team : Nat) (s : State) := runEvent s (swapsOut team)

/-! Restore. -/

/-- Backs a restored group's blocks with chunks of its core: those it held keep their contents, those granted meanwhile take what the chunk held (R75, R77). -/
def backBlock (gid : Nat) (d : Device) (e : Nat) : Device :=
  match Tbl.find d.groups gid with
  | none => d
  | some g => if e < g.savedH then claimChunk gid g.core d e else takeChunk d gid e
/-- Moves a group's chunk request to its new core's queue. -/
def moveRequest (d : Device) (gid core : Nat) : Device :=
  if (d.core core).chunkQueue.any fun r => r.1 == gid then d
  else
    let reqs := (Tbl.vals d.cores).flatMap fun c => c.chunkQueue.filter fun r => r.1 == gid
    if reqs.isEmpty then d else (removeChunkReq d gid).modCore core fun k => { k with chunkQueue := k.chunkQueue ++ reqs }
/-- Bytes of a section's body as a team's image in memory holds them, read 16 at a time; none where they cannot be read. -/
def imageRead (d : Device) (t : Team) (kind gid off n : Nat) : Option (List Byte) :=
  ((List.range (n / 16)).mapM fun i => jobRead d t.job (edgeDie t.cluster) (imageAddr d t kind gid (off + 16 * i)) 16).map List.flatten
/-- Writes bytes of a section's body into a swapped team's image in memory, with their notices (R63, R230, R286). -/
def imagePut (P : Platform) (t : Team) (kind gid off : Nat) (bytes : List Byte) (d : Device) : Device :=
  (engineRun P t.job (edgeDie t.cluster) d (imageAddr d t kind gid off) bytes).1
/-- The saved drawers of a team in the order of DRAWERS (R379). -/
def savedOrder (t : Team) : List Nat :=
  let at_ (i : Nat) : Nat × Nat × Drawer := t.savedDrawers.getD i (0, 0, Drawer.free 0)
  let h (i : Nat) : Nat := (handleOf (at_ i).1 (at_ i).2.1 (at_ i).2.2.gen).toNat
  let is := sortBy (fun x y => decide (h x ≤ h y)) (List.range t.savedDrawers.length)
  is.filter (fun i => (at_ i).2.2.kind == 3) ++ is.filter fun i => (at_ i).2.2.kind == 2
/-- Where saved drawer `i` stands in the body of DRAWERS. -/
def drawerAt (d : Device) (t : Team) (i : Nat) : Nat := 80 * ((teamGroups d t.id).length + ((savedOrder t).takeWhile (· != i)).length) + 16
/-- Where a group's drawer stands in the body of DRAWERS. -/
def groupDrawerAt (d : Device) (t : Team) (gid : Nat) : Nat := 80 * ((teamGroups d t.id).takeWhile fun h => h.id != gid).length + 16
/-- A part of a swapped group's image is brought up to its record (R63, R75, R280). -/
def putPart (P : Platform) (t : Team) (g : Group) (d : Device) (part : Nat) : Device :=
  match part with
  | 0 => imagePut P t 1 g.id 0x174 (bytesOf 4 g.h) d
  | 1 => imagePut P t 1 g.id 0x130 (bytesOf 8 g.raFcnt.toNat ++ bytesOf 8 g.raFlast.toNat) d
  | _ => imagePut P t 7 0 (groupDrawerAt d t g.id) (drawerBytes t.place (drawerOf d g)) d
/-- The image of a swapped team follows what has happened to its saved record: drawers, h of a group, its failure registers (R63, R75, R280). -/
def imageFollows (P : Platform) (d : Device) (t : Team) : Device :=
  let gs := (teamGroups d t.id).filter fun g => !g.imageDue.isEmpty
  if t.imageDue.isEmpty && gs.isEmpty then d
  else
    let d := t.imageDue.foldl (fun d i => imagePut P t 7 0 (drawerAt d t i) (drawerBytes t.place (t.savedDrawers.getD i (0, 0, Drawer.free 0)).2.2) d) d
    let d := gs.foldl (fun d g => (g.imageDue.foldl (putPart P t g) d).modGroup g.id fun g => { g with imageDue := [] }) d
    d.modTeam t.id fun t => { t with imageDue := [] }
/-- Every swapped team's image follows its record. -/
def imagesFollow (P : Platform) (d : Device) : Device := ((Tbl.vals d.teams).filter fun t => t.state == .swapped && t.image.isSome).foldl (imageFollows P) d
/-- Cells of 32-bit words from the bytes of an image. -/
def cellsOf (bs : List Byte) : Cells Word := (List.range (bs.length / 4)).foldl (fun c i => Cells.put 0 c i (BitVec.ofNat 32 (field bs (4 * i) 4))) []
/-- A register array from the bytes of an image. -/
def wordsOf (w size n off : Nat) (bs : List Byte) : List (BitVec w) := (List.range n).map fun i => BitVec.ofNat w (field bs (off + size * i) size)
/-- A hold table entry, where it is used (R380). -/
def holdFrom (bs : List Byte) (i : Nat) : Option Hold :=
  let x := field bs (0x150 + 8 * i) 4
  if x.testBit 8 then some { reg := x % 256, count := (BitVec.ofNat 32 (field bs (0x154 + 8 * i) 4)).toInt } else none
/-- A split as its record in CONTROL holds it; what the record has no place for is as it was saved (R380, log 30). -/
def splitFrom (bs : List Byte) (k : Nat) (sp : Split) : Split :=
  let at_ (off n : Nat) : Nat := field bs (0x180 + 128 * k + off) n
  let x := at_ 32 4
  { sp with
    pc := BitVec.ofNat 64 (at_ 0 8), index := at_ 8 4, mask := BitVec.ofNat 32 (at_ 12 4), merges := wordsOf 64 8 (min 8 (at_ 48 4)) (0x180 + 128 * k + 64) bs
    region := { sp.region with clause := BitVec.ofNat 64 (at_ 24 8), index := x % 16, longs := x / 16 % 4, whole := x.testBit 31, xmask := BitVec.ofNat 6 (at_ 36 4), pmask := BitVec.ofNat 8 (at_ 36 4 / 256), vmask := BitVec.ofNat 32 (at_ 40 4), smask := BitVec.ofNat 32 (at_ 44 4), rsCtr := BitVec.ofNat 64 (at_ 56 8) } }
/-- An entry of the deferral stack (R380). -/
def deferralFrom (bs : List Byte) (i : Nat) : Deferral :=
  let at_ (off n : Nat) : Nat := field bs (0x390 + 32 * i + off) n
  { split := at_ 24 4 % 4, resumePc := BitVec.ofNat 64 (at_ 0 8), resumeMask := BitVec.ofNat 32 (at_ 16 4), merge := BitVec.ofNat 64 (at_ 8 8), parked := BitVec.ofNat 32 (at_ 20 4), second := (at_ 24 4).testBit 8 }
/-- The control file, the control registers, the hold table, the splits and the deferral stack of a group, as its CONTROL body holds them (R380). -/
def fromControl (bs : List Byte) (g : Group) : Group :=
  { g with
    s := wordsOf 64 8 32 0 bs, p := wordsOf 32 4 8 0x100 bs, rsKey := BitVec.ofNat 64 (field bs 0x120 8), rsCtr := BitVec.ofNat 64 (field bs 0x128 8), raFcnt := BitVec.ofNat 64 (field bs 0x130 8), raFlast := BitVec.ofNat 64 (field bs 0x138 8),
    stepCur := BitVec.ofNat 32 (field bs 0x140 4), verLast := BitVec.ofNat 32 (field bs 0x144 4),
    holds := (List.range 4).filterMap (holdFrom bs)
    splits := g.splits.map fun e => (e.1, splitFrom bs e.1 e.2)
    deferrals := (List.range (min 16 (field bs 0x380 4))).map (deferralFrom bs) }
/-- The snapshot of a shape register, as the SHAPE body holds it (R308, R379). -/
def shapeFrom (bs : List Byte) (m : Nat) : Option Snapshot :=
  if (field bs 0 4).testBit m then
    let header := (bs.drop (48 + 1088 * m)).take 64
    some { addr := BitVec.ofNat 64 (field bs (16 + 8 * m) 8), header, table := (List.range (min 256 (field header 12 2))).map fun i => field bs (112 + 1088 * m + 4 * i) 4 }
  else none
/-- A lane of a buffered store, as STORES holds it: an address that the image has changed is translated anew (R379, log 30). -/
def laneFrom (d : Device) (job die : Nat) (e : StoreEntry) (va : DWord) (data : List Byte) (k : Nat) : Option LaneStore :=
  match e.lanes.find? fun l => l.lane == k && l.va == va with
  | some l => some { l with data }
  | none => match engineXlat d job .store die va with
    | .ok l pa => some { lane := k, va, pa, page := if l.repl then some l.base else none, data }
    | _ => none
/-- A buffered store, as STORES holds it. -/
def storeFrom (d : Device) (job die : Nat) (bs : List Byte) (i : Nat) (e : StoreEntry) : StoreEntry :=
  let at_ (off n : Nat) : Nat := field bs (16 + 784 * i + off) n
  let size := if at_ 4 4 = 0 then 4 else if at_ 4 4 = 1 then 8 else 16
  { e with size, lanes := (List.range 32).filterMap fun k => if (at_ 0 4).testBit k then laneFrom d job die e (BitVec.ofNat 64 (at_ (16 + 8 * k) 8)) ((bs.drop (16 + 784 * i + 272 + 16 * k)).take size) k else none }
/-- The store buffer, the written-block list and the carry signature of a group, as its STORES body holds them (R232, R379). -/
def fromStores (d : Device) (die : Nat) (bs : List Byte) (g : Group) : Group :=
  let n := field bs 8 4
  { g with
    sb := ((List.range g.sb.length).zip g.sb).map fun e => storeFrom d g.job die bs e.1 e.2
    blocks := wordsOf 64 8 (min 256 (n % 2 ^ 31)) 12560 bs, full := n.testBit 31, carry := BitVec.ofNat 2048 (natOf ((bs.drop 14608).take 256)) }
/-- A drawer, as DRAWERS holds it (R42, R379); its kind and its owner are the device's. -/
def drawerFrom (bs : List Byte) (at_ : Nat) (x : Drawer) : Drawer :=
  let f (off n : Nat) : Nat := field bs (at_ + off) n
  { x with
    count := BitVec.ofNat 32 (f 0 4), waitKind := f 4 1 / 16, flags := BitVec.ofNat 8 (f 5 1), object := BitVec.ofNat 64 (f 8 8), deadline := BitVec.ofNat 64 (f 16 8), entry := BitVec.ofNat 64 (f 24 8), arg := BitVec.ofNat 64 (f 32 8)
    phase := if x.kind = 3 then BitVec.ofNat 32 (f 40 4) else x.phase, arrived := if x.kind = 3 then BitVec.ofNat 32 (f 44 4) else x.arrived, quota := if x.kind = 3 then BitVec.ofNat 32 (f 48 4) else x.quota
    operands := wordsOf 64 8 x.operands.length (at_ + 40) bs }
/-- A timeline, as TIMELINE holds it. -/
def timelineFrom (bs : List Byte) (n : Nat) (x : Timeline) : Timeline :=
  let f (off : Nat) : Nat := field bs (32 * n + off) 8
  { x with counter := f 0, accepted := f 8, errOp := f 16, errCode := f 24 % 256, errX := f 24 / 2 ^ 32 }
/-- The tiles of a group, as its TILES body holds them (R379). -/
def tilesFrom (bs : List Byte) (ts : List (Nat × Cells Word)) : List (Nat × Cells Word) :=
  ((List.range ts.length).zip ts).map fun e => (e.2.1, cellsOf ((bs.drop (4112 * e.1 + 16)).take 4096))
/-- A group as its team's image in memory holds it; what cannot be read is as it was saved (R61, R374, log 30). -/
def groupFromImage (d : Device) (t : Team) (g : Group) : Group :=
  let read (kind : Nat) : Option (List Byte) := imageRead d t kind g.id 0 (bodySize d t kind g.id)
  let g := match read 1 with | some bs => fromControl bs g | none => g
  let g := match read 3 with | some bs => { g with shapes := (List.range 4).map (shapeFrom bs) } | none => g
  let g := match read 5 with | some bs => fromStores d (edgeDie t.cluster) bs g | none => g
  let g := match imageRead d t 7 0 (groupDrawerAt d t g.id) 64, g.savedDrawer with | some bs, some x => { g with savedDrawer := some (drawerFrom bs 0 x) } | _, _ => g
  let g := match imageRead d t 2 g.id 0 (bodySize d t 2 g.id) with | some bs => { g with v := cellsOf bs } | none => g
  match imageRead d t 4 g.id 0 (bodySize d t 4 g.id) with
  | some bs => { g with savedTiles := tilesFrom bs g.savedTiles }
  | none => g
/-- A team's window as its image holds it. -/
def windowFromImage (d : Device) (t : Team) : Cells Byte :=
  match imageRead d t 6 0 0 t.windowSize with
  | some bs => ((List.range bs.length).zip bs).foldl (fun c e => Cells.put 0 c e.1 e.2) []
  | none => t.window
/-- A team as its image holds it: window, drawers and timelines. -/
def teamFromImage (d : Device) (t : Team) : Team :=
  let drawer (i : Nat) (x : Drawer) : Drawer := match imageRead d t 7 0 (drawerAt d t i) 64 with | some bs => drawerFrom bs 0 x | none => x
  { t with
    window := windowFromImage d t
    savedDrawers := ((List.range t.savedDrawers.length).zip t.savedDrawers).map fun e => (e.2.1, e.2.2.1, drawer e.1 e.2.2.2)
    tls := match imageRead d t 10 0 0 512 with | some bs => ((List.range t.tls.length).zip t.tls).map fun e => timelineFrom bs e.1 e.2 | none => t.tls }
/-- A group is restored on a cluster (R61, R62, R296, R346, R451). -/
def restoreGroup (P : Platform) (cl : Nat) (d : Device) (g : Group) : Device :=
  let core := 4 * cl + g.index % 4
  let p := nextPlace d core
  let block := blockAt d core p.1 p.2
  let x := g.savedDrawer.getD (Drawer.free 0)
  let d := d.setDrawer core block { x with gen := (d.drawer core block).gen, ownerBlock := block }
  let d := d.modCore core fun k => { k with tiles := g.savedTiles.foldl (fun ts t => Tbl.set ts t.1 { owner := some g.id, job := some g.job, cells := t.2 }) k.tiles }
  let d := d.modGroup g.id fun g => { g with state := if g.wait.isSome then .waiting else .live, core, slot := p.1, pos := p.2, block, savedDrawer := none, savedTiles := [], readyAt := d.clock, issueFrom := d.clock, arrivedAt := d.nextId }
  let d := (List.range g.h).foldl (backBlock g.id) { d with nextId := d.nextId + 1 }
  let d := moveRequest (d.modGroup g.id fun g => { g with savedH := 0, late := [], v := g.late.foldl (fun v x => Cells.put 0 v x.1 x.2) g.v, waitSeq := if g.wait.isSome then g.waitSeq else g.waitSeq + 1 }) g.id core
  let d := grantChunks core ((d.core core).chunkQueue.length + 1) d
  if g.wait.isSome && x.count == 0 then endWait P d g.id else d
/-- Restores the saved drawers: the team drawer on core 0, task drawers on the core of their old index; tasks whose count is 0 go on that core's start queue in the order in which they reached zero (R48, R63, R346). -/
def restoreDrawers (tid cl : Nat) (d : Device) : Device :=
  match Tbl.find d.teams tid with
  | none => d
  | some t =>
    let n := t.savedDrawers.length
    (t.zeroed ++ (List.range n).filter fun i => !t.zeroed.contains i).foldl (fun (d : Device) i =>
      match t.savedDrawers[i]? with
      | none => d
      | some (c, _, x) =>
        let core := 4 * cl + (if x.kind = 3 then 0 else c % 4)
        let k := (d.poolDrawer core).getD 64
        let gen := (d.drawer core k).gen
        let d := d.setDrawer core k { x with gen }
        let d := d.modTeam tid fun t => { t with drawer := if x.kind = 3 then k else t.drawer, aliases := t.aliases ++ (t.aliases.filter fun a => a.2.1 == i && a.2.2.2 == 0 && a.2.2.1 == 0).map fun a => (a.1, core, k, gen.toNat + 2 ^ 8) }
        if x.kind = 2 && x.count == 0 then readyTask d core k else d) d
/-- A line of a swapped team's image is poisoned (R374). -/
def imagePoisoned (d : Device) (t : Team) : Bool :=
  match t.image with
  | none => false
  | some (a, n) => (List.range ((min n (imageSize d t) + 63) / 64)).any fun i => match engineXlat d t.job .load (edgeDie t.cluster) (BitVec.ofNat 64 (a + 64 * i)) with
    | .ok _ pa => d.anyPoison pa 64
    | _ => false
/-- Restores a team on a cluster (R61, R346, R374). -/
def restoreTeam (P : Platform) (d : Device) (t : Team) (cl : Nat) : Device :=
  let d := d.modJob t.job fun j => { j with swapped := j.swapped.filter (· != t.id) }
  if imagePoisoned d t then
    match teamGroups d t.id with
    | g :: _ => takeFatal P d g.id { split := 0, pc := ((splitOf g 0).map (·.pc)).getD 0, index := 0, lanes := 0 } 0 (Exc.of .poisonedData)
    | [] => d
  else
    let base := (windowBase d cl [] t.windowSize).getD 0
    let place := freePlace d cl
    let gs := (teamGroups d t.id).map fun g => groupFromImage d t g
    let team := teamFromImage d t
    let d := d.modTeam t.id fun _ => team
    let d := gs.foldl (fun (d : Device) g => d.modGroup g.id fun _ => g) d
    let d := restoreDrawers t.id cl ((noteCluster P d t cl).fromCommand (cl / 32))
    let d := d.modTeam t.id fun t => { t with state := .restoring, cluster := cl, place, base, residentSince := d.clock, quantumOver := false, savedDrawers := [], zeroed := [], imageDue := [], aliases := t.aliases.filterMap fun a => if 2 ^ 8 ≤ a.2.2.2 then some (a.1, a.2.1, a.2.2.1, a.2.2.2 - 2 ^ 8) else none, image := none }
    ((teamGroups d t.id).foldl (restoreGroup P cl) d).modTeam t.id fun t => { t with state := .resident }
/-- TEAM_RESTORE (R346). -/
def teamRestores (P : Platform) (d : Device) : Device :=
  match scheduleChoice P d with
  | some (S, j, .place cl) => match queueHead d j with
    | some t => if t.state == .swapped && schedFree d && decide (swapsRunning d < 4) then restoreTeam P (served (resetRot (schedActs d) S none) j.number) t cl else d
    | none => d
  | _ => d
/-- TEAM_RESTORE (R346). -/
def execTeamRestore (s : State) := runEvent s teamRestores

/-! Timers. -/

/-- QUANTUM_EXPIRY (R64). -/
def quantumExpires (tid : Nat) (_ : Platform) (d : Device) : Device :=
  match Tbl.find d.teams tid with
  | some t => if t.state == .resident && decide (t.residentSince + t.quantum ≤ d.clock) then d.modTeam tid fun t => { t with quantumOver := true } else d
  | none => d
/-- QUANTUM_EXPIRY (R64). -/
def execQuantumExpiry (team : Nat) (s : State) := runEvent s (quantumExpires team)
/-- AGE_LIMIT_EXPIRY (R345). -/
def ageExpires (job : Nat) (_ : Platform) (d : Device) : Device :=
  match d.job job with
  | some j => match j.readySince with
    | some t => if t + 2 ^ j.age ≤ d.clock then d.modJob job fun j => { j with aged := true } else d
    | none => d
  | none => d
/-- AGE_LIMIT_EXPIRY (R345). -/
def execAgeLimitExpiry (job : Nat) (s : State) := runEvent s (ageExpires job)

/-! Phases and graphs. -/

/-- Submits the next graph of the phase that comes first in order of submission, when the walker has room; a graph whose check fails fails its phase, which submits no more (R340, R343, R351). -/
def submitNext (P : Platform) (d : Device) : Device :=
  match d.sched.waitingPhases with
  | [] => d
  | p :: rest =>
    let drop (d : Device) : Device := { d with sched := { d.sched with waitingPhases := rest } }
    match Tbl.find d.phases p with
    | none => drop d
    | some x => match x.toSubmit with
      | [] => drop d
      | r :: more =>
        if 256 ≤ walkerCount d then d
        else match readGraph d x.job r with
          | some (done, nodes) => submitGraph P { d with phases := Tbl.set d.phases p { x with toSubmit := more } } x.job p r done nodes
          | none => checkPhase P (drop { d with phases := Tbl.set d.phases p { x with toSubmit := [], skipped := true, failed := true } }) p
/-- Submits graphs as far as the walker has room. -/
def submitAll (P : Platform) : Nat → Device → Device
  | 0, d => d
  | n + 1, d => submitAll P n (submitNext P d)
/-- GRAPH_SUBMIT (R351). -/
def execGraphSubmit (s : State) := runEvent s submitNext
/-- The next phase of a job that has not started, and whether it may start (R340). -/
def nextPhase (d : Device) (j : Job) : Option (Phase × Bool) :=
  let ps := j.phases.filterMap (Tbl.find d.phases)
  match findWhere (fun (p : Phase) => !p.started && p.state == .running) ps 0 with
  | none => none
  | some (0, p) => some (p, true)
  | some (i + 1, p) =>
    let before := ps.getD i default
    some (p, before.state == .complete || (p.overlap && before.started && before.toSubmit.isEmpty && !before.skipped))
/-- PHASE_START (R340): its graphs go to the walker in list order. While the job's pages are being filled it does not start (R431). -/
def phaseStarts (job : Nat) (P : Platform) (d : Device) : Device :=
  match d.job job with
  | none => d
  | some j => match nextPhase d j with
    | some (p, true) =>
      if j.state != .running || phaseHeld P job then d
      else
        let d := { d with phases := Tbl.set d.phases p.id { p with started := true, toSubmit := p.graphs }, sched := { d.sched with waitingPhases := d.sched.waitingPhases ++ [p.id] } }
        submitAll P (p.graphs.length + 1) d
    | _ => d
/-- PHASE_START (R340). -/
def execPhaseStart (job : Nat) (s : State) := runEvent s (phaseStarts job)
/-- What follows a condition word (R352). -/
def fireCondition (P : Platform) (d : Device) (gid node : Nat) (w : Nat) : Device :=
  match Tbl.find d.graphs gid with
  | none => d
  | some g =>
    let x := g.nodes.getD node default
    let g := { g with conds := g.conds.erase node, condSince := none }
    let iter := g.iter.getD node 0
    let go := w != 0 && (x.kind == 1 || x.limit == 0 || decide (iter < x.limit))
    let g := if x.kind = 1 then g else if go then { g with iter := listSet g.iter node (iter + 1) } else if w != 0 then { g with flags := g.flags ||| 1 } else g
    checkGraph P (fireNode P gid { d with graphs := Tbl.set d.graphs gid g } (x.succ.getD (if go then 0 else 1) 0xFFFF)) gid
/-- The completion record of some launch of a graph is parked behind the collapse of its page (R222, R353). -/
def recordsParked (d : Device) (g : Graph) : Bool :=
  (Tbl.vals d.launches).any fun l => (l.graph.map (·.1)) == some g.id && l.state == .complete && d.collapses.any fun c => c.job == g.job && c.parked.any fun p => match p with
    | .raw off _ => c.va + off == l.done.toNat
    | _ => false
/-- CONDITION_READ (R353): the oldest condition of a graph, an acquire of what its launches released; records that are parked and a page that is not mapped are waited for, the page up to the job's staleness timeout (R372). -/
def conditionReads (gid : Nat) (P : Platform) (d : Device) : Device :=
  match Tbl.find d.graphs gid with
  | none => d
  | some g => match g.conds with
    | [] => d
    | node :: _ =>
      let va := (g.nodes.getD node default).target
      let fail := checkGraph P { d with graphs := Tbl.set d.graphs gid { g with stopped := true, failed := true, starts := [], conds := [], condSince := none } } gid
      if recordsParked d g then d else
      match engineXlat d g.job .load 0 va with
      | .ok _ pa => if d.anyPoison pa 8 then fail else fireCondition P d gid node (d.readNat pa 8)
      | .parked => match g.condSince with
        | none => { d with graphs := Tbl.set d.graphs gid { g with condSince := some d.clock } }
        | some t => if stale d g.job t then fail else d
      | _ => fail
/-- CONDITION_READ (R353). -/
def execConditionRead (graph : Nat) (s : State) := runEvent s (conditionReads graph)

end Sys2Proof.Machine
end

