-- ==== Sys2Proof/Machine/Steal.lean ====
section
/-! DEFINITION. Index ranges: `take` requests as a core serves them (R329, R358, R359) and the messages of the steal protocol (R356, R357). -/

namespace Sys2Proof.Machine
open Sys2Proof

/-- Changes a core's ranges for a launch. -/
def setRanges (d : Device) (core l : Nat) (r : Ranges) : Device := d.modCore core fun x => { x with ranges := Tbl.set x.ranges l r }
/-- The launch is running; the ranges of any other are gone (R356). -/
def launchLive (d : Device) (l : Nat) : Bool := ((Tbl.find d.launches l).map fun x => x.state == .running).getD false
/-- The head `take` of a core completes with a count (R329). -/
def finishTake (d : Device) (core : Nat) (t : TakeReq) (lo k : Nat) : Device :=
  let d := d.modCore core fun x => { x with takes := x.takes.drop 1, stage := none }
  finishOp (d.modGroup t.group fun g => { g with ops := g.ops.map fun o => if o.id == t.op then { o with writes := scaWrite t.sd (lo + k * 2 ^ 32) } else o }) t.group t.op
/-- Serves the head `take` of a core: from its current range, from the spare, or by a GRAB (R329, R357). -/
def serveTake (core : Nat) : Nat → Device → Device
  | 0, d => d
  | n + 1, d =>
    let x := d.core core
    match x.stage, x.takes with
    | none, t :: rest =>
      let r := rangesOf x t.launch
      if (Tbl.find d.groups t.group).isNone then serveTake core n (d.modCore core fun x => { x with takes := rest })
      else if t.launch = 0 || !launchLive d t.launch then serveTake core n (finishTake d core t r.lo 0)
      else
        let k := min t.n (r.hi - r.lo)
        if 0 < k then serveTake core n (finishTake (setRanges d core t.launch { r with lo := r.lo + k }) core t r.lo k)
        else if r.spareLo < r.spareHi then serveTake core n (setRanges d core t.launch { lo := r.spareLo, hi := r.spareHi, spareLo := 0, spareHi := 0 })
        else d.modCore core fun x => { x with stage := some .grab }
    | _, _ => d
/-- Serves every core that has a `take` to serve. -/
def serveTakes (d : Device) : Device := d.cores.foldl (fun d e => if e.2.takes.isEmpty then d else serveTake e.1 (2 * e.2.takes.length + 2) d) d
/-- GRAB (R357): the command engine's answer. -/
def grabs (core : Nat) (_ : Platform) (d : Device) : Device :=
  let x := d.core core
  let answer (s : TakeStage) (d : Device) : Device := d.modCore core fun x => { x with stage := some s }
  match x.stage, x.takes with
  | some .grab, t :: _ =>
    match Tbl.find d.launches t.launch with
    | some l =>
      let k := min (l.fields.getD 9 0) (l.fields.getD 7 0 - l.next)
      if l.state == .running && decide (0 < k) then answer (.range l.next (l.next + k)) { d with launches := Tbl.set d.launches t.launch { l with next := l.next + k, holders := if l.holders.contains core then l.holders else l.holders ++ [core] } }
      else answer (.empty l.holders) d
    | none => answer (.empty []) d
  | _, _ => d
/-- GRAB (R357). -/
def execGrabMessage (core : Nat) (s : State) := runEvent s (grabs core)
/-- Installs a range: as current where that is empty, else as spare (R357). -/
def installRange (d : Device) (core l lo hi : Nat) : Device :=
  let r := rangesOf (d.core core) l
  if !launchLive d l then d
  else if r.hi ≤ r.lo then setRanges d core l { r with lo, hi } else setRanges d core l { r with spareLo := lo, spareHi := hi }
/-- RANGE (R357). -/
def rangeArrives (core : Nat) (_ : Platform) (d : Device) : Device :=
  let x := d.core core
  match x.stage, x.takes with
  | some (.range lo hi), t :: _ => (installRange d core t.launch lo hi).modCore core fun x => { x with stage := none }
  | _, _ => d
/-- RANGE (R357). -/
def execRangeReply (core : Nat) (s : State) := runEvent s (rangeArrives core)
/-- The order a thief asks its victims in (R357): its cluster, its die, the rest, each cyclically from its own number. -/
def victimOrder (core : Nat) (holders : List Nat) : List Nat :=
  let ring := ((List.range 511).map fun i => (core + 1 + i) % 512).filter fun c => holders.contains c
  (ring.filter fun c => c / 4 == core / 4) ++ (ring.filter fun c => c / 128 == core / 128 && c / 4 != core / 4) ++ ring.filter fun c => c / 128 != core / 128
/-- Asks the next victim, or ends with a count of 0 (R357). -/
def askNext (d : Device) (core : Nat) (t : TakeReq) : List Nat → Device
  | [] => finishTake d core t (rangesOf (d.core core) t.launch).lo 0
  | v :: rest => (d.modCore core fun x => { x with stage := some (.steal v rest) }).modCore v fun x => { x with steals := x.steals ++ [{ thief := core, launch := t.launch, forTake := true, lo := 0, hi := 0 }] }
/-- EMPTY_POOL (R357): DRY goes out, and the stealing begins. -/
def poolEmpty (core : Nat) (_ : Platform) (d : Device) : Device :=
  let x := d.core core
  match x.stage, x.takes with
  | some (.empty hs), t :: _ => askNext (d.modCore core fun x => { x with dries := x.dries ++ [t.launch] }) core t (victimOrder core hs)
  | _, _ => d
/-- EMPTY_POOL (R357). -/
def execEmptyPool (core : Nat) (s : State) := runEvent s (poolEmpty core)
/-- STEAL (R357) at the victim; a `take` of the same clock that comes after it waits for the next (R358). -/
def stealArrives (core : Nat) (_ : Platform) (d : Device) : Device :=
  match (d.core core).steals with
  | [] => d
  | m :: rest =>
    let d := d.modCore core fun x => { x with steals := rest, lastTake := some (d.clock, 4) }
    let r := rangesOf (d.core core) m.launch
    let n := r.hi - r.lo
    let give (lo hi : Nat) (r : Ranges) : Device := (setRanges d core m.launch r).modCore m.thief fun x => { x with gives := x.gives ++ [{ m with lo, hi }] }
    if 2 ≤ n then let mid := r.lo + (n + 1) / 2; give mid r.hi { r with hi := mid }
    else if r.spareLo < r.spareHi then give r.spareLo r.spareHi { r with spareLo := 0, spareHi := 0 }
    else d.modCore m.thief fun x => { x with nones := x.nones ++ [m] }
/-- STEAL (R357). -/
def execStealMessage (core : Nat) (s : State) := runEvent s (stealArrives core)
/-- GIVE (R357) at the thief. -/
def giveArrives (core : Nat) (_ : Platform) (d : Device) : Device :=
  match (d.core core).gives with
  | [] => d
  | m :: rest =>
    (installRange d core m.launch m.lo m.hi).modCore core fun x => { x with gives := rest, stage := match x.stage with | some (.steal _ _) => if m.forTake then none else x.stage | s => s }
/-- GIVE (R357). -/
def execGiveReply (core : Nat) (s : State) := runEvent s (giveArrives core)
/-- NONE (R357) at the thief. -/
def noneArrives (core : Nat) (_ : Platform) (d : Device) : Device :=
  match (d.core core).nones with
  | [] => d
  | m :: rest =>
    let d := d.modCore core fun x => { x with nones := rest }
    match (d.core core).stage, (d.core core).takes with
    | some (.steal _ vs), t :: _ => if m.forTake then askNext d core t vs else d
    | _, _ => d
/-- NONE (R357). -/
def execNoneReply (core : Nat) (s : State) := runEvent s (noneArrives core)
/-- DRY (R357): the core leaves the holder set. -/
def dryArrives (core : Nat) (_ : Platform) (d : Device) : Device :=
  match (d.core core).dries with
  | [] => d
  | l :: rest => { d.modCore core (fun x => { x with dries := rest }) with launches := Tbl.modify (fun (x : Launch) => { x with holders := x.holders.filter (· != core) }) d.launches l }
/-- DRY (R357). -/
def execDryMessage (core : Nat) (s : State) := runEvent s (dryArrives core)

end Sys2Proof.Machine
end

