-- ==== Sys2Proof/Machine/Fabric.lean ====
section
/-! DEFINITION. The fabric: `rst` stores at their target (R286, R287), remote accesses served here (R220, R278, R395, R396), responses and timeouts (R393, R394), the states of a peer and its probes (R394, R441), flits and channels (R390), credit (R391, R403) and the sideboard (R410 to R413). -/

namespace Sys2Proof.Machine
open Sys2Proof

/-! Stores to a named register. -/

/-- The hold table of CONTROL (R380). -/
def holdBytes (g : Group) : List Byte := padTo 32 (g.holds.flatMap fun h => bytesOf 4 (h.reg + 256) ++ bytesOf 4 (BitVec.ofInt 32 h.count).toNat)
/-- The saved context of a swapped group follows an `rst` store: the carried lanes of its register, its hold table and its drawer (R63, R286). Of a block without saved contents the lanes are kept beside the image (R77). -/
def rstIntoImage (P : Platform) (d : Device) (gid : Nat) (m : RstMsg) : Device :=
  match Tbl.find d.groups gid with
  | none => d
  | some g => match Tbl.find d.teams g.team with
    | none => d
    | some t =>
      if g.state != .swapped || t.image.isNone then d
      else
        let d := imagePut P t 1 gid 0x150 (holdBytes g) d
        let d := imagePut P t 7 0 (80 * ((teamGroups d t.id).takeWhile fun h => h.id != gid).length + 16) (drawerBytes t.place (drawerOf d g)) d
        if 32 * (1 + vectorBlocks g) ≤ m.reg then d.modGroup gid fun g => { g with late := g.late ++ (lanesOf m.mask).map fun l => (32 * m.reg + l, m.values.getD l 0) }
        else (lanesOf m.mask).foldl (fun d l => imagePut P t 2 gid (128 * m.reg + 4 * l) (bytesOf 4 (m.values.getD l 0).toNat) d) d
/-- What the target makes of an `rst` store: a cause of R280, or 0, and the device after it (R284, R286). -/
def applyRst (P : Platform) (d : Device) (m : RstMsg) : Nat × Device :=
  let i := m.name.toNat / 256 % 2 ^ 15
  match Tbl.find d.names i with
  | none => (4, d)
  | some e => match e.holder.bind (Tbl.find d.groups) with
    | none => (4, d)
    | some g =>
      if e.gen.toNat != m.name.toNat % 256 then (4, d)
      else if unheldReg g m.reg then (6, d)
      else
        let h := holdOf g.holds m.reg
        if h.isNone && decide (4 ≤ g.holds.length) then (5, d)
        else
          let c := ((h.map (·.count)).getD 0) - 1
          let cells := (lanesOf m.mask).map fun l => (32 * m.reg + l, m.values.getD l 0)
          let d := d.modGroup g.id fun g => { applyWrites g { RegWrites.none with vs := cells } with holds := setHold g.holds m.reg c, transients := Tbl.erase g.transients m.reg }
          let waits := match g.wait with | some (.hold r) => r == m.reg && !((drawerOf d g).count == 0) | _ => false
          (0, rstIntoImage P (if waits then wakeGroup d g.id 1 0 else d) g.id m)
/-- RST_ARRIVAL (R286): a store from a peer, which is answered, or the oldest one from a group of this device, which is acknowledged to it (R211). -/
def rstArrives (m : Option RstMsg) (P : Platform) (d : Device) : Device :=
  match m with
  | none => match d.rsts with
    | [] => d
    | m :: rest =>
      let r := applyRst P { d with rsts := rest } m
      r.2.modGroup m.seq fun g => let g := { g with outEff := g.outEff - 1 }; if r.1 = 0 then g else noteFailure g m.name P.own r.1
  | some m =>
    if m.peer = P.own then d
    else
      let r := applyRst P d m
      if P.valid m.peer && (r.2.peer m.peer).state == .up then r.2.emit P (.rstAnswer m.peer m.seq r.1) else r.2
/-- RST_ARRIVAL (R286). -/
def execRstArrival (m : Option RstMsg) (s : State) := runEvent s (rstArrives m)

/-! Remote accesses at their target. -/

/-- A failed lane. -/
def failLane (l : RemoteLane) (cause : Nat) : LaneAnswer := { lane := l.lane, ok := false, cause, value := 0 }
/-- A lane that is done, with its value. -/
def doneLane (l : RemoteLane) (v : Nat) : LaneAnswer := { lane := l.lane, ok := true, cause := 0, value := BitVec.ofNat 128 v }
/-- The access writes. -/
def remoteWrites : RemoteKind → Bool
  | .load => false
  | _ => true
/-- The fabric as a sender of atomic requests (R248). -/
def fabricSender : Nat := 512
/-- One lane of a remote access in a job of this device, which enters memory from D0 (R220, R280, R395, log 107): its answer, none where it has gone to its home's service group (R248). A load's value brings its clock to the accesses that follow (R217, R218). -/
def serveLane (P : Platform) (s : Served) (d : Device) (l : RemoteLane) : Option LaneAnswer × Device :=
  let d := if remoteWrites s.kind then collapseFor P 0 d s.job l.addr else d
  match engineXlat d s.job (if remoteWrites s.kind then .store else .load) 0 l.addr with
  | .ok leaf pa =>
    if remoteWrites s.kind && leaf.ver then (some (failLane l 3), d)
    else match s.kind with
      | .load =>
        if d.anyPoison pa l.bytes then (some (failLane l 7), d)
        else (some (doneLane l (d.readNat pa l.bytes)), { d with port := clockMax d.port (d.valueClock pa) })
      | .store => (some (doneLane l 0), noticeAll (portWrite d pa fun d => (storeAt P (homeDie pa) false d pa (bytesOf l.bytes (l.data.toNat + l.data2.toNat * 2 ^ 64))).1) (sigOf l.addr))
      | _ => match remoteAtom s.kind with
        | none => (some (failLane l 3), d)
        | some (op, ty) => (none, sendAtomic P fabricSender d { kind := .atomic op ty, pa, va := l.addr, job := s.job, x := l.data, xn := l.data2, source := .remote s.id l.lane, park := none })
  | _ => (some (failLane l 3), d)
/-- Changes a request that is served. -/
def modServed (d : Device) (id : Nat) (f : Served → Served) : Device := { d with served := d.served.map fun s => if s.id == id then f s else s }
/-- A request is begun, its lanes in ascending order; one that names a job not admitted fails whole (R395). -/
def beginServed (P : Platform) (d : Device) (s : Served) : Device :=
  if (d.job s.job).isNone then modServed d s.id fun s => { s with begun := true, answers := s.lanes.map fun l => failLane l 3 }
  else
    let d := modServed d s.id fun s => { s with begun := true }
    s.lanes.foldl (fun d l => match serveLane P s d l with
      | (some a, d) => modServed d s.id fun s => { s with answers := s.answers ++ [a] }
      | (none, d) => modServed d s.id fun s => { s with left := s.left + 1 }) d
/-- The outstanding request of that number to the peer, and the device with it taken from the list. -/
def takeRequest (d : Device) (peer seq : Nat) : Option (OutReq × Device) :=
  ((d.peer peer).outstanding.find? fun r => r.seq == seq).map fun r => (r, d.modPeer peer fun p => { p with outstanding := p.outstanding.filter fun x => x.seq != seq })
/-- A request whose every lane is done is answered: one of the device to itself completes, a peer's answer goes out (R278, R280, R393). -/
def answerServed (P : Platform) (d : Device) (s : Served) : Device :=
  let d := { d with served := d.served.filter fun x => x.id != s.id }
  if s.peer = P.own then
    match takeRequest d s.peer s.seq with
    | some (r, d) => completeRequest d s.peer r s.answers
    | none => d
  else if P.valid s.peer && (d.peer s.peer).state == .up then d.emit P (.answer s.peer s.seq s.answers) else d
/-- The request is to go on: all its lanes are done, or it is not begun and no earlier one of the same peer is left. A peer's are performed in their order of arrival; the device's own are taken in a group's order of issue as they arrive (R279, R397). -/
def servedDue (P : Platform) (earlier : List Served) (s : Served) : Bool := (s.begun && s.left == 0) || (!s.begun && (s.peer == P.own || !earlier.any fun x => x.peer == s.peer))
/-- The first request that is to go on. -/
def nextServed (P : Platform) : List Served → List Served → Option Served
  | _, [] => none
  | earlier, s :: rest => if servedDue P earlier s then some s else nextServed P (s :: earlier) rest
/-- Lets the requests that are served here go on as far as they can. -/
def settleServed (P : Platform) : Nat → Device → Device
  | 0, d => d
  | n + 1, d => match nextServed P [] d.served with
    | none => d
    | some s => settleServed P n (if s.begun then answerServed P d s else beginServed P d s)
/-- Lets every request that is served here go on. -/
def serveAll (P : Platform) (d : Device) : Device := settleServed P (2 * d.served.length) d
/-- A request joins those that are served here. -/
def addServed (P : Platform) (d : Device) (peer seq job : Nat) (kind : RemoteKind) (lanes : List RemoteLane) : Device :=
  serveAll P { d with nextId := d.nextId + 1, served := d.served ++ [{ id := d.nextId, peer, seq, job, kind, lanes, begun := false, left := 0, answers := [] }] }
/-- The first request of its group among those of the device to itself that are not answered (R279). -/
def firstOwn (d : Device) (own seq : Nat) : Option OutReq :=
  ((d.peer own).outstanding.find? fun r => r.seq == seq).bind fun r => (d.peer own).outstanding.find? (fun x => x.group == r.group) |>.bind fun x => if x.seq = seq then some r else none
/-- A UALink request (R396): one that is not accepted, or names a job not admitted here, has no effect and is answered with the error completion, which is TARGET_FAULT (R280); a message of an SX-4 is no memory write (log 3, log 119). -/
def ualinkArrives (P : Platform) (d : Device) (peer seq : Nat) (u : UaRequest) : Device :=
  let error := if P.valid peer && (d.peer peer).state == .up then d.emit P (.answer peer seq [{ lane := 0, ok := false, cause := 3, value := 0 }]) else d
  if u.addr.getLsbD 55 && !P.foreign peer then d
  else match uaAccess u with
    | some (job, kind, lanes) => if (d.job job).isSome then addServed P d peer seq job kind lanes else error
    | none => error
/-- REMOTE_REQUEST (R278, R279, R395, R396): a request of the device to itself is performed here in its group's order of issue; a peer's after those that came from it before. From a UALink peer it comes as that link's own requests. -/
def remoteArrives (m : RemoteReq) (P : Platform) (d : Device) : Device :=
  if m.peer = P.own then
    match firstOwn d P.own m.seq with
    | some r => match r.kind with
      | some k => if d.served.any fun s => s.peer == P.own && s.seq == m.seq then d else addServed P d P.own m.seq r.job k r.lanes
      | none => d
    | none => d
  else if P.mode m.peer = 1 then (match m.ualink with | some u => ualinkArrives P d m.peer m.seq u | none => d)
  else if m.ualink.isSome then d
  else addServed P d m.peer m.seq m.job m.kind m.lanes
/-- REMOTE_REQUEST (R395). -/
def execRemoteRequest (m : RemoteReq) (s : State) := runEvent s (remoteArrives m)
/-- Fabric clocks since a time: 2.0 GHz at every level (R447, R448). -/
def fabricClocks (d : Device) (since : Nat) : Nat := (d.time - since) / 504
/-- REMOTE_RESPONSE (R280, R393): one to a request that has completed already is discarded (R394). Its round trip is a sample of its class (R448). -/
def responseArrives (m : RemoteResp) (P : Platform) (d : Device) : Device :=
  if m.peer = P.own then d
  else match takeRequest d m.peer m.seq with
    | none => d
    | some (r, d) =>
      let d := d.monNote P (2 + r.cls) (fabricClocks d r.issued)
      match r.rst with
      | some _ => completeRst d m.peer r ((m.answers.head?.map fun a => if a.ok then 0 else a.cause).getD 0)
      | none => completeRequest d m.peer r m.answers
/-- REMOTE_RESPONSE (R393). -/
def execRemoteResponse (m : RemoteResp) (s : State) := runEvent s (responseArrives m)
/-- REQUEST_TIMEOUT (R394): a request without a response for 20 µs completes with TIMEOUT, every other to the peer with ISOLATED. -/
def requestTimesOut (peer : Nat) (P : Platform) (d : Device) : Device :=
  let p := d.peer peer
  if peer = P.own || p.state != .up then d
  else match p.outstanding.find? fun r => decide (r.issued + micros 20 < d.time) with
    | none => d
    | some r => match takeRequest d peer r.seq with
      | some (r, d) => isolatePeer (failRequest d peer 1 r) peer
      | none => d
/-- REQUEST_TIMEOUT (R394). -/
def execRequestTimeout (peer : Nat) (s : State) := runEvent s (requestTimesOut peer)

/-! Identity (R440). -/

/-- The identity record (R440). -/
def identityRecord (P : Platform) : List Byte :=
  bytesOf 4 1 ++ bytesOf 4 P.feed.toNat ++ bytesOf 8 0 ++ bytesOf 16 P.serial.toNat ++ List.replicate 224 0 ++ bytesOf 384 Config.deviceKey.toNat ++ bytesOf 384 Config.makerSignature.toNat

/-! States of a peer. -/

/-- A peer begins to be probed (R388, R394). -/
def beginProbing (d : Device) (peer : Nat) : Device := d.modPeer peer fun p => { p with state := .probing, since := d.time, probeAt := d.time, probeOut := none, answered := 0 }
/-- ISOLATED_EXPIRY (R394): 1 ms after entry. -/
def isolatedExpires (peer : Nat) (P : Platform) (d : Device) : Device :=
  if P.valid peer && peer != P.own && (d.peer peer).state == .isolated && decide ((d.peer peer).since + micros 1000 ≤ d.time) then beginProbing d peer else d
/-- ISOLATED_EXPIRY (R394). -/
def execIsolatedExpiry (peer : Nat) (s : State) := runEvent s (isolatedExpires peer)
/-- PROBE_SEND (R394): one every 100 µs. Nothing goes out to the own number (R278, R389). -/
def probeSends (peer : Nat) (P : Platform) (d : Device) : Device :=
  let p := d.peer peer
  if peer != P.own && p.state == .probing && p.probeOut.isNone && decide (p.probeAt ≤ d.time) then
    (d.emit P (.probe peer)).modPeer peer fun p => { p with probeOut := some d.time, probeAt := d.time + micros 100 }
  else d
/-- PROBE_SEND (R394). -/
def execProbeSend (peer : Nat) (s : State) := runEvent s (probeSends peer)
/-- PROBE_ANSWER (R394, R441): two in a row within 20 µs make the peer UP; when it first is, the identity record goes to it. -/
def probeAnswered (peer : Nat) (P : Platform) (d : Device) : Device :=
  let p := d.peer peer
  match p.state, p.probeOut with
  | .probing, some t =>
    if d.time ≤ t + micros 20 then
      let d := d.monNote P 2 (fabricClocks d t)
      if 1 ≤ p.answered then
        let d := d.modPeer peer fun p => { p with state := .up, since := d.time, probeOut := none, answered := 0, everUp := true }
        if p.everUp then d else d.emit P (.identity peer (identityRecord P))
      else d.modPeer peer fun p => { p with probeOut := none, answered := p.answered + 1 }
    else d
  | _, _ => d
/-- PROBE_ANSWER (R394). -/
def execProbeAnswer (peer : Nat) (s : State) := runEvent s (probeAnswered peer)
/-- PROBE_TIMEOUT (R394): a probe not answered within 20 µs. -/
def probeTimesOut (peer : Nat) (P : Platform) (d : Device) : Device :=
  match (d.peer peer).state, (d.peer peer).probeOut with
  | .probing, some t => if peer != P.own && decide (t + micros 20 < d.time) then isolatePeer d peer else d
  | _, _ => d
/-- PROBE_TIMEOUT (R394). -/
def execProbeTimeout (peer : Nat) (s : State) := runEvent s (probeTimesOut peer)
/-- PROBE_RECEIPT (R394): a peer's probe is answered unless nothing may go out to it. -/
def probeArrives (peer : Nat) (P : Platform) (d : Device) : Device :=
  if P.valid peer && peer != P.own && (d.peer peer).state != .isolated then d.emit P (.probeAnswer peer) else d
/-- PROBE_RECEIPT (R394). -/
def execProbeReceipt (peer : Nat) (s : State) := runEvent s (probeArrives peer)
/-- IDENTITY_RECORD_ARRIVAL (R441). -/
def identityArrives (peer : Nat) (record : List Byte) (_ : Platform) (d : Device) : Device := d.modPeer peer fun p => { p with identity := some record }
/-- IDENTITY_RECORD_ARRIVAL (R441). -/
def execIdentityRecordArrival (peer : Nat) (record : List Byte) (s : State) := runEvent s (identityArrives peer record)
/-- FLIT_CRC_FAIL (R390): the flit is sent again; the eighth failure in a row marks the channel down, and the last channel down isolates the peer. Whether flits have passed since the failure before is free (log 2). -/
def flitFails (peer channel : Nat) (P : Platform) (d : Device) : Device :=
  let p := d.peer peer
  if !P.valid peer || P.mode peer != 0 || p.down.getLsbD channel then d
  else
    let r := d.free
    let n := if r.1.getLsbD 0 then 1 else p.fails.getD channel 0 + 1
    let d := r.2.modPeer peer fun p => { p with fails := listSet p.fails channel n, down := if 8 ≤ n then p.down ||| (1#8 <<< channel) else p.down }
    if (d.peer peer).down == BitVec.allOnes 8 && p.state != .isolated then isolatePeer d peer else d
/-- FLIT_CRC_FAIL (R390). -/
def execFlitCrcFail (peer channel : Nat) (s : State) := runEvent s (flitFails peer channel)
/-- CHANNEL_RETRAINED (R390): the channel is in the rotation from the next message on. -/
def channelBack (peer channel : Nat) (_ : Platform) (d : Device) : Device :=
  if (d.peer peer).down.getLsbD channel then d.modPeer peer fun p => { p with down := p.down &&& ~~~(1#8 <<< channel), fails := listSet p.fails channel 0 } else d
/-- CHANNEL_RETRAINED (R390). -/
def execChannelRetrained (peer channel : Nat) (s : State) := runEvent s (channelBack peer channel)
/-- Sends the messages kept for credit of a class, in order, while there is credit. -/
def sendKept (P : Platform) (peer cls : Nat) : Nat → Device → Device
  | 0, d => d
  | n + 1, d =>
    let p := d.peer peer
    if p.noCredit.getLsbD cls then d
    else match p.kept.find? fun x => x.1 == cls with
      | none => d
      | some x => sendKept P peer cls n (takeCredit ((d.emit P x.2).modPeer peer fun p => { p with kept := p.kept.erase x }) peer cls)
/-- CREDIT_GRANT (R391, R403): the class has credit again, and what was kept for it goes. -/
def creditArrives (peer cls : Nat) (P : Platform) (d : Device) : Device :=
  let d := d.modPeer peer fun p => { p with noCredit := p.noCredit &&& ~~~(1#4 <<< cls) }
  sendKept P peer cls ((d.peer peer).kept.length) d
/-- CREDIT_GRANT (R391). -/
def execCreditGrant (peer cls : Nat) (s : State) := runEvent s (creditArrives peer cls)

/-! The sideboard (R410 to R413). -/

/-- SIDEBOARD_SEND (R411): an eighth of `sb.absent` after the last sending. -/
def sideboardSends (job : Nat) (P : Platform) (d : Device) : Device :=
  match d.job job with
  | some j => if j.sbSentAt + micros j.sbAbsent.toNat / 8 ≤ d.time then sendOwn P d job else d
  | none => d
/-- SIDEBOARD_SEND (R411). -/
def execSideboardSend (job : Nat) (s : State) := runEvent s (sideboardSends job)
/-- A member of a job's sideboard other than the device (R410). -/
def sbMember (P : Platform) (j : Job) (p : Nat) : Bool := j.sbMem.getLsbD p && !P.foreign p && p != P.own
/-- SIDEBOARD_RECEIPT (R411, R413): the greater entry stands, and the peer's silence clock starts afresh. -/
def sideboardArrives (job peer : Nat) (step : Word) (P : Platform) (d : Device) : Device :=
  match d.job job with
  | none => d
  | some j =>
    if !sbMember P j peer then d
    else
      let e := (Tbl.find j.sideboard peer).getD { step := j.step0, present := true, heard := d.time }
      sbEvaluate P (d.modJob job fun j => { j with sideboard := Tbl.set j.sideboard peer { e with step := if 0 < stepDiff step e.step then step else e.step, heard := d.time } }) job
/-- SIDEBOARD_RECEIPT (R411). -/
def execSideboardReceipt (job peer : Nat) (step : Word) (s : State) := runEvent s (sideboardArrives job peer step)
/-- SILENCE_TIMEOUT (R413): a member not heard for `sb.absent` is absent. -/
def silenceEnds (job peer : Nat) (P : Platform) (d : Device) : Device :=
  match d.job job with
  | none => d
  | some j => match Tbl.find j.sideboard peer with
    | some e =>
      if sbMember P j peer && e.present && decide (e.heard + micros j.sbAbsent.toNat < d.time) then
        sbEvaluate P (d.modJob job fun j => { j with sideboard := Tbl.set j.sideboard peer { e with present := false } }) job
      else d
    | none => d
/-- SILENCE_TIMEOUT (R413). -/
def execSilenceTimeout (job peer : Nat) (s : State) := runEvent s (silenceEnds job peer)

end Sys2Proof.Machine
end

