-- ==== Sys2Proof/Machine/Members.lean ====
section
/-! DEFINITION. Events of the collective engines: contributions sent and received (R323, R402 to R404), close timers (R405), results (R407), results known to be lost and resends (R408). -/

namespace Sys2Proof.Machine
open Sys2Proof

/-- Reads a contribution's 4 KiB (R323); none where a page fails or a line is poisoned. -/
def readSource (d : Device) (job die : Nat) (va : DWord) : Option (List Byte) := jobReadLines d job die va 64
/-- Writes and records the retained copy of a contribution; an older copy of the chunk is overwritten (R402, R408). -/
def retain (P : Platform) (d : Device) (s : CollSend) (die : Nat) (b : Binding) (data : List Byte) : Device :=
  let r := engineRun P s.job die d (b.kbase + BitVec.ofNat 64 (4096 * s.chunk)) data
  let d := if r.2 then noticeAll r.1 (sigOfAll (blocksOf (b.kbase + BitVec.ofNat 64 (4096 * s.chunk)) 4096)) else countUnwritten r.1 s.job
  let same (x : Retained) : Bool := x.job == s.job && x.binding == s.binding && x.chunk == s.chunk
  let old := d.coll.retained.map fun x => if same x then { x with copy := false } else x
  { d with nextId := d.nextId + 1, coll := { d.coll with retained := old ++ [{ id := d.nextId, job := s.job, binding := s.binding, chunk := s.chunk, step := s.step, sentAt := d.time, copy := r.2, lost := false, resent := false }] } }
/-- CONTRIBUTION_SEND (R323, R402): the oldest send of a die's engine, one that HEALTH marks as disabled among them (log 98). A `coll.put` is performed by it (R211). -/
def contributionSends (die : Nat) (P : Platform) (d : Device) : Device :=
  match findWhere (fun (e : Nat × CollSend) => e.1 == die) d.coll.sends 0 with
  | none => d
  | some (i, _, s) =>
    let d := { d with coll := { d.coll with sends := d.coll.sends.eraseIdx i } }
    let d := match s.group with | some g => d.modGroup g fun g => { g with outEff := g.outEff - 1 } | none => d
    match readBinding P d s.job s.binding, readSource d s.job die s.src with
    | some b, some data => sendContribution P (retain P d s die b data) b { job := s.job, binding := s.binding, chunk := s.chunk, step := s.step, member := P.own, resend := false, data := bytesWords 1024 data }
    | _, _ => countUnwritten d s.job
/-- CONTRIBUTION_SEND (R402). -/
def execContributionSend (die : Nat) (s : State) := runEvent s (contributionSends die)
/-- CONTRIBUTION_ARRIVAL (R403, R404): a peer's, or the oldest of the device's own that has room. Where the staging of the chunk's engine is full, the peer keeps the contribution and class-1 credit is withheld from it. -/
def contributionArrives (m : Option Contribution) (P : Platform) (d : Device) : Device :=
  match m with
  | some m =>
    if m.member = P.own || (d.peer m.member).withheld then d
    else if stagingFull d (engineOf m.chunk) then d.modPeer m.member fun p => { p with withheld := true }
    else contribute P m d
  | none => match d.coll.arrivals.find? fun m => !stagingFull d (engineOf m.chunk) with
    | some m => contribute P m { d with coll := { d.coll with arrivals := d.coll.arrivals.erase m } }
    | none => d
/-- CONTRIBUTION_ARRIVAL (R404). -/
def execContributionArrival (m : Option Contribution) (s : State) := runEvent s (contributionArrives m)
/-- CLOSE_TIMER_EXPIRY (R405) of an owned chunk. -/
def execCloseTimerExpiry (chunk : Nat) (s : State) := runEvent s fun P d => evalChunk P d chunk true
/-- RESULT_ARRIVAL (R407): an owner's, or the oldest of the device's own. -/
def resultArrives (m : Option ResultMsg) (P : Platform) (d : Device) : Device :=
  match m with
  | some m => deliver P m d
  | none => match d.coll.results with
    | m :: rest => deliver P m { d with coll := { d.coll with results := rest } }
    | [] => d
/-- RESULT_ARRIVAL (R407). -/
def execResultArrival (m : Option ResultMsg) (s : State) := runEvent s (resultArrives m)
/-- The owner of a chunk is lost to this member: ISOLATED, or absent from the job's sideboard (R408). -/
def ownerLost (P : Platform) (d : Device) (job o : Nat) : Bool :=
  o != P.own && (!P.valid o || (d.peer o).state == .isolated || ((d.job job).map fun j => sbMember P j o && !sbPresent P j o).getD false)
/-- When the member sent its contribution for a chunk and step. -/
def sentAt (d : Device) (w : CollGetWait) : Option Nat := (d.coll.retained.find? fun x => x.job == w.job && x.binding == w.binding && x.chunk == w.chunk && x.step == w.step).map (·.sentAt)
/-- A waiting `coll.get` has lost its result (R408). -/
def getLost (P : Platform) (d : Device) (w : CollGetWait) (b : Binding) : Bool :=
  let since := match sentAt d w with | some t => min t w.issued | none => w.issued
  ownerLost P d w.job (b.owner w.chunk) || decide (since + 4 * micros b.timer < d.time)
/-- COLL_GET_LOST (R325, R408): status LOST; the step and count of a result that is lost are free (log 2). -/
def getsLost (gid op : Nat) (P : Platform) (d : Device) : Device :=
  match d.coll.gets.find? fun w => w.group == gid && w.op == op with
  | none => d
  | some w =>
    let lost := match readBinding P d w.job w.binding with | some b => getLost P d w b | none => true
    if !lost then d
    else
      let r := d.free
      let d := { r.2 with coll := { r.2.coll with retained := r.2.coll.retained.map fun x => if x.job == w.job && x.binding == w.binding && x.chunk == w.chunk && x.step == w.step then { x with lost := true } else x } }
      finishGet P d w (r.1.toNat / 2 ^ 16 * 2 ^ 16 + 3) none
/-- COLL_GET_LOST (R408). -/
def execCollGetLost (group op : Nat) (s : State) := runEvent s (getsLost group op)
/-- RESEND (R408): once, when the owner is UP and present again. -/
def resends (id : Nat) (P : Platform) (d : Device) : Device :=
  match d.coll.retained.find? fun x => x.id == id with
  | none => d
  | some x =>
    match readBinding P d x.job x.binding with
    | none => d
    | some b =>
      let o := b.owner x.chunk
      let here := o == P.own || (P.valid o && (d.peer o).state == .up && !ownerLost P d x.job o)
      if x.lost && x.copy && !x.resent && here then
        match readSource d x.job 0 (b.kbase + BitVec.ofNat 64 (4096 * x.chunk)) with
        | some data =>
          let d := { d with coll := { d.coll with retained := d.coll.retained.map fun y => if y.id == id then { y with resent := true } else y } }
          sendContribution P d b { job := x.job, binding := x.binding, chunk := x.chunk, step := x.step, member := P.own, resend := true, data := bytesWords 1024 data }
        | none => d
      else d
/-- RESEND (R408). -/
def execResend (copy : Nat) (s : State) := runEvent s (resends copy)

end Sys2Proof.Machine
end

