-- ==== Sys2Proof/Machine/Copies.lean ====
section
/-! DEFINITION. The copy engine (R316 to R319): a copy goes on by one 64-byte granule at a time, and completes after its last. -/

namespace Sys2Proof.Machine
open Sys2Proof

/-- What an engine finds of bytes it is to read or write: they can be reached, their page is not mapped yet, or the copy stops with a code of R318. -/
inductive Reach where
  | bytes (bs : List Byte) (bad : Bool) | parked | stop (code : Nat)
  deriving Repr
/-- How a translation of the copy engine ends (R318). -/
def reachOf (x : EngineXlat) (f : Leaf → Nat → Reach) : Reach :=
  match x with
  | .ok l pa => f l pa
  | .parked => .parked
  | .fatal => .stop 2
  | .attr => .stop 3
/-- Bytes in a job's space that do not cross a line. -/
def reachGlobal (d : Device) (o : CopyOp) (va : DWord) (n : Nat) : Reach := reachOf (engineXlat d o.job .load o.die va) fun _ pa => .bytes (d.readBytes pa n) (d.anyPoison pa n)
/-- Bytes of the window of the copy's team. -/
def reachWindow (d : Device) (o : CopyOp) (off n : Nat) : Reach := match Tbl.find d.teams o.team with
  | some t => .bytes (windowBytes t off n) (windowBad t off n)
  | none => .stop 2
/-- Sixteen bytes of a gather at an offset of its destination: of row k, from src + idx[k] × w, or zeros (R317). -/
def reachRow (d : Device) (o : CopyOp) (off : Nat) : Reach :=
  match reachGlobal d o (o.idx + BitVec.ofNat 64 (4 * (off / o.len))) 4 with
  | .bytes bs bad =>
    let i := natOf bs
    if bad then .bytes (List.replicate 16 0) true
    else if i = 0xFFFFFFFF then .bytes (List.replicate 16 0) false
    else reachGlobal d o (o.src + BitVec.ofNat 64 (i * o.len + off % o.len)) 16
  | r => r
/-- Sixteen source bytes at an offset of the destination. -/
def reachSource (d : Device) (o : CopyOp) (off : Nat) : Reach :=
  if o.gather then reachRow d o off else if winSrc o.dir then reachWindow d o (o.src.toNat + off) 16 else reachGlobal d o (o.src + BitVec.ofNat 64 off) 16
/-- Where sixteen destination bytes go: nothing to be said of the window; a versioned page stops the copy (R318). -/
def reachDest (d : Device) (o : CopyOp) (off : Nat) : Reach :=
  if winDst o.dir then .bytes [] false else reachOf (engineXlat d o.job .store o.die (o.dst + BitVec.ofNat 64 off)) fun l _ => if l.ver then .stop 3 else .bytes [] false
/-- The units of a granule in ascending order, as one. -/
def reachAll (f : Nat → Reach) : Nat → Nat → Reach
  | 0, _ => .bytes [] false
  | n + 1, off => match f off with
    | .bytes bs bad => match reachAll f n (off + 16) with
      | .bytes cs bad' => .bytes (bs ++ cs) (bad || bad')
      | r => r
    | r => r
/-- A granule: its source, then its destination. -/
def reachGranule (d : Device) (o : CopyOp) (off n : Nat) : Reach :=
  match reachAll (reachSource d o) (n / 16) off with
  | .bytes bs bad => match reachAll (reachDest d o) (n / 16) off with
    | .bytes _ _ => .bytes bs bad
    | r => r
  | r => r
/-- Marks the words of a range of memory. -/
def markRange (d : Device) (a n : Nat) : Device := (List.range (n / 4)).foldl (fun d i => d.setPoison (a + 4 * i)) d
/-- Marks the words of a range of the window. -/
def markWindow (t : Team) (off n : Nat) : Team := { t with windowPoison := t.windowPoison ++ ((List.range (n / 4)).map fun i => off / 4 + i).filter fun w => !t.windowPoison.contains w }
/-- Sixteen bytes of a granule go to their place. -/
def putUnit (P : Platform) (o : CopyOp) (bad : Bool) (d : Device) (x : Nat × List Byte) : Device := let d := engineWrite P o.die d x.1 x.2; if bad then markRange d x.1 x.2.length else d
/-- Writes a granule, collapsing a replicated page (R222, R316); one with poison in its source is poisoned whole (R318). -/
def putGranule (P : Platform) (o : CopyOp) (bad : Bool) (d : Device) (off : Nat) (bs : List Byte) : Device :=
  if winDst o.dir then
    d.modTeam o.team fun t => let t := windowWrite t (o.dst.toNat + off) bs; if bad then markWindow t (o.dst.toNat + off) bs.length else t
  else
    let r := enginePlaces P o.die d o.job ((List.range (bs.length / 16)).map fun i => (o.dst + BitVec.ofNat 64 (off + 16 * i), (bs.drop (16 * i)).take 16))
    r.2.foldl (putUnit P o bad) r.1
/-- Bytes a copy writes in all. -/
def CopyOp.total (o : CopyOp) : Nat := if o.gather then o.rows * o.len else o.len

/-- The team of a copy has been halted by a fatal fault (R375). -/
def copyHalted (d : Device) (o : CopyOp) : Bool := ((Tbl.find d.teams o.team).map fun t => t.state == .fatal && t.stopped).getD false
/-- Changes a copy. -/
def modCopy (d : Device) (id : Nat) (f : CopyOp → CopyOp) : Device :=
  { d with clusters := Tbl.mapVals (fun (c : Cluster) => { c with copies := c.copies.map fun o => if o.id == id then f o else o }) d.clusters }
/-- A copy goes on by one granule. One on a page that is not mapped waits for it, no longer than the staleness timeout (R318). -/
def copyGoes (P : Platform) (d : Device) (o : CopyOp) : Device :=
  if o.total ≤ o.at_ then endCopy d { o with at_ := 0 } 0 o.total
  else
    let n := min 64 (o.total - o.at_)
    match reachGranule d o o.at_ n with
    | .bytes bs bad =>
      let d := putGranule P o bad d o.at_ bs
      if bad then endCopy d o 1 (o.at_ + n) else modCopy d o.id fun o => { o with at_ := o.at_ + n, stalled := none }
    | .stop code => endCopy d o code o.at_
    | .parked =>
      let since := o.stalled.getD d.clock
      if copyHalted d o || stale d o.job since then endCopy d o 2 o.at_ else modCopy d o.id fun o => { o with stalled := some since }
/-- COPY_COMPLETE (R318): the copy engine of a cluster on one of its copies. -/
def copyCompletes (op : Nat) (P : Platform) (d : Device) : Device :=
  match ((Tbl.vals d.clusters).flatMap fun c => c.copies).find? fun o => o.id == op with
  | some o => copyGoes P d o
  | none => d
/-- COPY_COMPLETE (R318). -/
def execCopyComplete (op : Nat) (s : State) := runEvent s (copyCompletes op)

end Sys2Proof.Machine
end

