-- ==== Sys2Proof/Machine/Hutch.lean ====
section
/-! DEFINITION. The hutches (R416 to R426): acceptance of a command and the choice of its slots (R419, R421 to R423), and its operation, one element at a time (R420, R424, R426). -/

namespace Sys2Proof.Machine
open Sys2Proof

/-- A hutch with an empty queue. -/
def Hutch.reset : Hutch := { queue := [] }
/-- The hutch of a stack. -/
def Device.hutch (d : Device) (k : Nat) : Hutch := Tbl.getD d.hutches k Hutch.reset
/-- Changes the hutch of a stack. -/
def Device.modHutch (d : Device) (k : Nat) (f : Hutch → Hutch) : Device := { d with hutches := Tbl.set d.hutches k (f (d.hutch k)) }
/-- Word `i` of a command (R417). -/
def HutchCmd.word (c : HutchCmd) (i : Nat) : Nat := (c.words.getD i 0).toNat
/-- The operation. -/
def HutchCmd.op (c : HutchCmd) : Nat := c.word 0 % 256
/-- The element count. -/
def HutchCmd.n (c : HutchCmd) : Nat := c.word 0 / 256 % 2 ^ 24
/-- The step of the destination slot. -/
def HutchCmd.step (c : HutchCmd) : Nat := c.word 0 / 2 ^ 32

/-! Acceptance. -/

/-- A leaf as an engine's store finds it. -/
def engineLeaf (d : Device) (job die : Nat) (va : DWord) : Except Stop Leaf :=
  match engineXlat d job .store die va with
  | .ok l _ => .ok l
  | _ => .error .absent
/-- The hyperparameter block and the checks of M (R419, R421): none where it gives BAD_BLOCK. -/
def readBlock (d : Device) (c : HutchCmd) : Option HutchCmd :=
  match jobRead d c.job c.die (c.words.getD 3 0) 64 with
  | none => none
  | some b =>
    let m := field b 32 8
    if field b 28 4 ≠ 0 || field b 40 8 != 0 || field b 48 8 != 0 || field b 56 8 != 0 || m % 64 != 0 then none
    else match hutchPages (engineLeaf d c.job c.die) (8 * c.n / 65536 + 2) m (m + 8 * c.n) with
      | .error _ => none
      | .ok ps =>
        let ver := c.dst.any fun p => p.leaf.ver
        if ps.any (fun p => p.leaf.repl || (p.leaf.ver && !ver)) || (hutchStacks d c.die m (8 * c.n) ps).any (· != c.stack) then none
        else some { c with mPages := ps, mAddr := BitVec.ofNat 64 m, hyper := bytesWords 7 b }
/-- Replicated pages of D collapse, and their leaves are those that survive (R222, R421). -/
def collapseDst (P : Platform) (d : Device) (c : HutchCmd) : Device × HutchCmd :=
  let d := c.dst.foldl (fun d p => if p.leaf.repl then collapseFor P c.die d c.job (BitVec.ofNat 64 p.leaf.base) else d) d
  (d, { c with dst := c.dst.map fun p => if p.leaf.repl then (match engineXlat d c.job .store c.die (BitVec.ofNat 64 p.leaf.base) with | .ok l _ => { p with leaf := l } | _ => p) else p })
/-- What the version home of a page answers a command (R423): the slot, a code of R318 or R426, that there is no slot to use yet, or that it opens none before the fill of another is done. -/
inductive SlotAnswer where
  | slot (j : Nat) | fail (code : Nat) | wait | later
  deriving DecidableEq, Repr
/-- The version home of a page chooses a slot for a command, and counts the command (R423). -/
def askSlot (P : Platform) (step : Nat) (d : Device) (p : HutchPage) : SlotAnswer × Device :=
  let r := p.leaf.addr
  let count (d : Device) (j : Nat) : Device := d.modHome r fun h => { h with commands := listMod (· + 1) h.commands j }
  if !recordOk d r then (.fail 3, d)
  else
    let d := d.modHome r fun h => { h with pageSize := p.leaf.size, attr := p.leaf.attr }
    match chooseSlot d r step with
    | .apply j => (.slot j, count d j)
    | .late j => (.fail 17, chargeLate P d r j)
    | .fresh j => if (d.home r).fill.isSome then (.later, d) else (.slot j, count (openSlot P d r j step) j)
    | .hold => (.wait, d)
/-- Asks for the slots of the versioned pages of a list that have none yet, in order. -/
def askSlots (P : Platform) (step : Nat) : Device → List HutchPage → Option SlotAnswer × List HutchPage × Device
  | d, [] => (none, [], d)
  | d, p :: t =>
    if p.leaf.ver && p.slot.isNone then
      let a := askSlot P step d p
      match a.1 with
      | .slot j =>
        let r := askSlots P step a.2 t
        (r.1, { p with slot := some j } :: r.2.1, r.2.2)
      | x => (some x, p :: t, a.2)
    else
      let r := askSlots P step d t
      (r.1, p :: r.2.1, r.2.2)
/-- The command after its homes have been asked: ready, failed, or still waiting, no longer than the staleness timeout (R423). -/
def placeCommand (P : Platform) (d : Device) (c : HutchCmd) : HutchCmd × Device :=
  let a := askSlots P c.step d c.dst
  let c := { c with dst := a.2.1 }
  let r := if a.1.isSome then (a.1, c, a.2.2) else let b := askSlots P c.step a.2.2 c.mPages; (b.1, { c with mPages := b.2.1 }, b.2.2)
  let c := r.2.1
  let d := r.2.2
  match r.1 with
  | none => ({ c with ready := true }, d)
  | some (.fail code) => ({ c with ready := true, err := some code }, d)
  | some .later => (c, d)
  | some _ => (if stale d c.job c.since then { c with ready := true, err := some 18 } else c, d)
/-- The load of a hutch's queue: its commands, and the fills that stand ahead of them (R422, R423). -/
def queueLoad (d : Device) (k : Nat) : Nat :=
  let q := (d.hutch k).queue
  q.length + ((((q.flatMap fun c => c.dst ++ c.mPages).filter fun p => p.leaf.ver && (d.home p.leaf.addr).fill.isSome).map (·.leaf.addr)).eraseDups).length
/-- Accepts a command that a closed region hands over, where its hutch's queue has room for it and for the fills it is due (R319, R421 to R423). -/
def acceptCommand (P : Platform) (d : Device) (gid : Nat) (c : HutchCmd) : Device :=
  if 64 ≤ queueLoad d c.stack then d
  else
    let a := tlAccept (d.modGroup gid fun g => { g with handed := g.handed.drop 1 }) c.team c.tl
    let c := { c with number := a.1, since := d.clock }
    let r : HutchCmd × Device :=
      if P.hutchOff c.stack then ({ c with ready := true, err := some 19 }, a.2)
      else
        let b := if c.op = 1 then readBlock a.2 c else some c
        match b with
        | none => ({ c with ready := true, err := some 20 }, a.2)
        | some c => let x := collapseDst P a.2 c; placeCommand P x.1 x.2
    let d' := r.2.modHutch c.stack fun h => { h with queue := h.queue ++ [r.1] }
    if 64 < queueLoad d' c.stack then d else d'
/-- HUTCH_ENQUEUE (R422): a command handed over goes into its stack's queue; one there that waits for a slot asks again. -/
def hutchEnqueues (op : Nat) (P : Platform) (d : Device) : Device :=
  let handed := (Tbl.vals d.groups).findSome? fun g => match g.handed with
    | e :: _ => (match e.act with | .hcmd _ c => if c.id == op && g.releases.isEmpty then some (g.id, c) else none | _ => none)
    | [] => none
  match handed with
  | some (gid, c) => acceptCommand P d gid c
  | none => match ((Tbl.vals d.hutches).flatMap fun h => h.queue).find? fun c => c.id == op && !c.ready with
    | some c => let r := placeCommand P d c; r.2.modHutch c.stack fun h => { h with queue := h.queue.map fun x => if x.id == op then r.1 else x }
    | none => d
/-- HUTCH_ENQUEUE (R422). -/
def execHutchEnqueue (op : Nat) (s : State) := runEvent s (hutchEnqueues op)

/-! Operation. -/

/-- Physical address of a byte of a command's range, through its page and the slot chosen for it. -/
def hutchPhys (d : Device) (die : Nat) (ps : List HutchPage) (va : Nat) : Nat :=
  match ps.find? fun p => decide (p.leaf.base ≤ va) && decide (va < p.leaf.base + p.leaf.size) with
  | none => 0
  | some p =>
    let f := match p.slot with | some j => (readSlot d p.leaf.addr j).frame | none => (leafFrame d p.leaf die).getD 0
    p.leaf.phys f (va - p.leaf.base)
/-- Where the words of element `e` stand. -/
structure ElemAt where
  dst : Nat
  src : Nat
  m : Nat
  v : Nat
/-- The places of an element's words (R417, R419). -/
def elemAt (d : Device) (c : HutchCmd) (e : Nat) : ElemAt :=
  let at_ (ps : List HutchPage) (base : Nat) : Nat := hutchPhys d c.die ps (base + 4 * e)
  let m := c.mAddr.toNat
  { dst := at_ c.dst (c.word 1), src := at_ c.src (c.word 2), m := at_ c.mPages m, v := at_ c.mPages (m + 4 * c.n) }
/-- The words an element reads (R420). -/
def elemReads (op : Nat) (x : ElemAt) : List Nat :=
  match op with
  | 1 => [x.dst, x.src, x.m, x.v]
  | 2 => [x.dst]
  | 3 => [x.dst, x.src]
  | 4 => [x.src]
  | _ => [x.dst]
/-- The words an element writes (R420, R426). -/
def elemTargets (op : Nat) (x : ElemAt) : List Nat :=
  match op with
  | 1 => [x.dst, x.m, x.v]
  | 5 => []
  | _ => [x.dst]
/-- `SCALE` of one element (R420). -/
def scaleElem (x k : Nat) : Nat := rne32 ((v32 x).mul (v32 k))
/-- `FADE` of one element, with one rounding (R420). -/
def fadeElem (x g f η : Nat) : Nat := rne32 (((v32 x).mul (v32 f)).add .rne ((v32 η).mul (v32 g)).neg)
/-- `FUPD` of one element (R420): the new D, m and v. -/
def fupdElem (hyper : List Word) (x g m v : Nat) : Nat × Nat × Nat :=
  let h (i : Nat) : Val := v32 (hyper.getD i 0).toNat
  let one := Val.ofInt 1
  let g := v32 g
  let mix (β old new : Val) : Nat := rne32 ((β.mul old).add .rne (((one.add .rne β.neg).mul new)))
  let m' := mix (h 1) (v32 m) g
  let v' := rne32 (((h 2).mul (v32 v)).add .rne (((one.add .rne (h 2).neg).mul g).mul g))
  let den := rne32 ((v32 (sqrt32 (rne32 ((v32 v').mul (h 5))))).add .rne (h 3))
  let u := rne32 ((v32 (rne32 ((v32 m').mul (h 4)))).div (v32 den))
  (rne32 (((v32 x).mul (one.add .rne ((h 0).mul (h 6)).neg)).add .rne ((h 0).mul (v32 u)).neg), m', v')
/-- What an element writes, in the order of `elemTargets`. -/
def elemValues (d : Device) (c : HutchCmd) (x : ElemAt) : List Nat :=
  let w (a : Nat) : Nat := d.readNat a 4
  match c.op with
  | 1 => let r := fupdElem c.hyper (w x.dst) (w x.src) (w x.m) (w x.v); [r.1, r.2.1, r.2.2]
  | 2 => [scaleElem (w x.dst) (c.word 3 % 2 ^ 32)]
  | 3 => [fadeElem (w x.dst) (w x.src) (c.word 3 % 2 ^ 32) (c.word 3 / 2 ^ 32)]
  | 4 => [w x.src]
  | _ => []
/-- A command completes (R230, R319, R423, R426): its homes count it no more, its notices are posted, its timeline moves, and the queue goes on. -/
def endCommand (d : Device) (c : HutchCmd) (code x touched : Nat) : Device :=
  let d := (c.dst ++ c.mPages).foldl (fun d p => match p.slot with
    | some j => d.modHome p.leaf.addr fun h => { h with commands := listMod (· - 1) h.commands j }
    | none => d) d
  let blocks := (if c.op = 5 then (if touched = c.n ∧ code = 0 then blocksOf (c.words.getD 3 0) 8 else []) else blocksOf (c.words.getD 1 0) (4 * touched)) ++
    (if c.op = 1 then blocksOf c.mAddr (4 * touched) ++ blocksOf (c.mAddr + BitVec.ofNat 64 (4 * c.n)) (4 * touched) else [])
  timelineDone ((noticeAll d (sigOfAll blocks)).modHutch c.stack fun h => { h with queue := h.queue.drop 1 }) (c.stack / 2) c.team c.tl c.number code x
/-- Writes a word from the base die of its stack. -/
def hutchWrite (P : Platform) (d : Device) (w : Nat × Nat) : Device := engineWrite P (homeDie w.1) d w.1 (bytesOf 4 w.2)
/-- The element a command stands at (R424, R426). -/
def hutchElement (P : Platform) (d : Device) (c : HutchCmd) : Device :=
  let e := c.at_
  let x := elemAt d c e
  if (elemReads c.op x).any d.poisoned then endCommand ((elemTargets c.op x).foldl (fun d a => d.setPoison a) d) c 16 e (e + 1)
  else
    let w := d.readNat x.dst 4
    let c' := { c with at_ := e + 1, sums := if c.op = 5 then ((c.sums.1 + w) % 2 ^ 32, (c.sums.2 + (c.n - e) * w) % 2 ^ 32) else c.sums }
    (((elemTargets c.op x).zip (elemValues d c x)).foldl (hutchWrite P) d).modHutch c.stack fun h => { h with queue := c' :: h.queue.drop 1 }
/-- CKSUM stores its result after the last element (R420); what completes at the command's stack follows that write (R217, R218, R424). -/
def hutchResult (P : Platform) (d : Device) (c : HutchCmd) : Device :=
  if c.op = 5 then
    let a := hutchPhys d c.die c.aux (c.word 3)
    let d := engineWrite P (homeDie a) d a (bytesOf 8 (c.sums.2 * 2 ^ 32 + c.sums.1))
    d.mergeClock (c.stack / 2) (d.die (homeDie a)).causal
  else d
/-- A slot a command writes is still being filled (R423). -/
def fillAhead (d : Device) (c : HutchCmd) : Bool := (c.dst ++ c.mPages).any fun p => p.leaf.ver && (d.home p.leaf.addr).fill.isSome
/-- The command at the head of a stack's queue goes on by one element, or ends. -/
def hutchRuns (op stack : Nat) (P : Platform) (d : Device) : Device :=
  match (d.hutch stack).queue with
  | [] => d
  | c :: _ =>
    if c.op ≠ op || !c.ready then d
    else match c.err with
      | some code => endCommand d c code 0 0
      | none =>
        if fillAhead d c then d
        else if c.at_ < c.n then hutchElement P d c
        else endCommand (hutchResult P d c) c 0 0 c.n
/-- FUPD (R420). -/
def execHutchFupd (stack : Nat) (s : State) := runEvent s (hutchRuns 1 stack)
/-- SCALE (R420). -/
def execHutchScale (stack : Nat) (s : State) := runEvent s (hutchRuns 2 stack)
/-- FADE (R420). -/
def execHutchFade (stack : Nat) (s : State) := runEvent s (hutchRuns 3 stack)
/-- COPY (R420). -/
def execHutchCopy (stack : Nat) (s : State) := runEvent s (hutchRuns 4 stack)
/-- CKSUM (R420). -/
def execHutchCksum (stack : Nat) (s : State) := runEvent s (hutchRuns 5 stack)

end Sys2Proof.Machine
end

