-- ==== Sys2Proof/Machine/Resilience.lean ====
section
/-! DEFINITION. Resilience of versioned pages: mirrors (R429), snapshots on the board (R430), HOLD copies read by a spare (R432), and the fill of a spare (R431 to R433, R435). -/

namespace Sys2Proof.Machine
open Sys2Proof

/-- Runs an event that may change the platform. -/
def runPlatform (s : State) (f : Platform → Device → Platform × Device) : Host.Outcome State Fault Refusal := let r := f s.plat s.dev; .next { s with plat := r.1, dev := r.2 }

/-! The resilience map. -/

/-- An address lies in an entry's range. -/
def ResEntry.covers (e : ResEntry) (a : Nat) : Bool := decide (e.base.toNat ≤ a) && decide (a < e.base.toNat + e.len.toNat)
/-- Counts a mirror or a snapshot skipped; the count saturates (R427). -/
def countMiss (P : Platform) (k : Nat) : Platform := { P with resmap := Tbl.modify (fun (e : ResEntry) => { e with miss := min 0xFFFFFFFF (e.miss + 1) }) P.resmap k }
/-- The page of a job at an address, with whatever permission its leaf has. -/
def mapLeaf (d : Device) (job : Nat) (va : DWord) : Option Leaf :=
  match walk d job .load va, walk d job .store va with
  | .leaf l, _ | _, .leaf l => some l
  | _, _ => none
/-- The versioned page of a job at an address. -/
def versionedLeaf (d : Device) (job : Nat) (va : DWord) : Option Leaf := (mapLeaf d job va).bind fun l => if l.ver && !badAttr l.attr && recordOk d l.addr then some l else none
/-- Bytes of a slot's frame, granule by granule. -/
def frameBytes (d : Device) (attr : BitVec 8) (frame : Nat) (n : Nat) : List Byte := (List.range (n / 64)).flatMap fun i => d.readBytes (framePhys attr frame (64 * i)) 64
/-- A transfer of a slot has ended: the slot can be reclaimed again (R430). -/
def endTransfer (d : Device) (record slot : Nat) : Device := d.modHome record fun h => { h with transfers := listMod (· - 1) h.transfers slot }
/-- The edge whose snapshot engine serves a transfer: that of the page's version home (R24, R429). -/
def Transfer.edge (t : Transfer) : Nat := homeDie t.record / 2
/-- The first transfer of a kind at an edge, with its place in the list. -/
def firstTransfer (d : Device) (mirror : Bool) (edge : Nat) : Option (Nat × Transfer) := findWhere (fun (t : Transfer) => t.mirror == mirror && t.edge == edge) d.transfers 0
/-- The snapshot engine of an edge takes its first transfer of a kind; where both edges have one, whose engine moves is free (R24, log 2). -/
def takeTransfer (d : Device) (mirror : Bool) : Option (Transfer × Device) :=
  let take (d : Device) (x : Nat × Transfer) : Transfer × Device := (x.2, { d with transfers := d.transfers.eraseIdx x.1 })
  match firstTransfer d mirror 0, firstTransfer d mirror 1 with
  | some x, some y => let r := d.free; some (take r.2 (if r.1.getLsbD 0 then y else x))
  | some x, none | none, some x => some (take d x)
  | none, none => none
/-- The image a transfer sends. -/
def transferImage (d : Device) (t : Transfer) : List Byte := frameBytes d (d.home t.record).attr t.frame t.size

/-! Mirrors. -/

/-- MIRROR_SEND (R429): the oldest mirror goes to the partner on class 3, or is skipped and counted; whether an UP partner has a matching HOLD entry is the partner's state, and free here (log 71). -/
def mirrorSends (P : Platform) (d : Device) : Platform × Device :=
  match takeTransfer d true with
  | none => (P, d)
  | some (t, d) =>
    let d' := endTransfer d t.record t.slot
    match Tbl.find P.resmap t.entry with
    | none => (P, d')
    | some e =>
      let r := d'.free
      if (d.peer e.partner).state == .up && r.1.getLsbD 0 then
        (P, postTo P r.2 e.partner 3 (Posted.mirror e.partner { peer := P.own, job := t.job, offset := t.page - e.base.toNat, step := t.step, image := transferImage d t }))
      else (countMiss P t.entry, r.2)
/-- MIRROR_SEND (R429). -/
def execMirrorSend (s : State) := runPlatform s mirrorSends
/-- The HOLD entry of a peer for a job (R429, R432). -/
def holdEntry (P : Platform) (peer job : Nat) : Option ResEntry := (P.resmap.find? fun e => e.2.cls == 3 && e.2.partner == peer && e.2.job == job).map (·.2)
/-- The version home of a page is asked to write a mirror's image as a store for its step, and then to seal that step (R225, R226, R429). -/
def writeMirror (d : Device) (job : Nat) (l : Leaf) (step : Nat) (image : List Byte) : Device :=
  d.openHome job l fun h => { h with
    stores := h.stores ++ [({ notice := some (BitVec.ofNat 64 l.base), source := .mirror, offset := 0, step, data := image, since := d.clock } : VerStore)]
    seals := h.seals ++ [({ job, group := none, page := l.base, step, since := d.clock, clock := clockZero } : VerSeal)] }
/-- MIRROR_ARRIVAL (R429): one without a matching HOLD entry is dropped. -/
def mirrorArrives (m : MirrorMsg) (P : Platform) (d : Device) : Device :=
  match holdEntry P m.peer m.job with
  | none => d
  | some e =>
    let va := e.base.toNat + m.offset
    if !e.covers va then d
    else match versionedLeaf d m.job (BitVec.ofNat 64 va) with
      | some l => writeMirror d m.job l m.step (m.image.take l.size)
      | none => d
/-- MIRROR_ARRIVAL (R429). -/
def execMirrorArrival (m : MirrorMsg) (s : State) := runEvent s (mirrorArrives m)
/-- HOLD_COPY_READ (R432): the newest sealed image of a HOLD copy goes back to the spare. -/
def holdCopyRead (m : HoldRead) (P : Platform) (d : Device) : Device :=
  let none_ : FillImage := { job := m.job, offset := m.offset, step := 0, image := none }
  let image : FillImage := match holdEntry P m.forPeer m.job with
    | none => none_
    | some e =>
      let va := e.base.toNat + m.offset
      match (if e.covers va then versionedLeaf d m.job (BitVec.ofNat 64 va) else none) with
      | none => none_
      | some l => match newestSealed (readSlots d l.addr) with
        | some j => { none_ with step := (readSlot d l.addr j).step, image := some (frameBytes d l.attr (readSlot d l.addr j).frame l.size) }
        | none => none_
  if P.valid m.peer && (d.peer m.peer).state == .up then postTo P d m.peer 3 (Posted.holdImage m.peer image) else d
/-- HOLD_COPY_READ (R432). -/
def execHoldCopyRead (m : HoldRead) (s : State) := runEvent s (holdCopyRead m)

/-! Snapshots. -/

/-- One bit of the CRC-32 of IEEE 802.3, in its reflected form (R430). -/
def crcBit (c : Nat) : Nat := if c % 2 = 1 then Nat.xor (c / 2) 0xEDB88320 else c / 2
/-- One byte of it. -/
def crcByte (c : Nat) (b : Byte) : Nat := crcBit (crcBit (crcBit (crcBit (crcBit (crcBit (crcBit (crcBit (Nat.xor c b.toNat))))))))
/-- The CRC-32 of an image (R430). -/
def crc32 (bs : List Byte) : Nat := Nat.xor (bs.foldl crcByte 0xFFFFFFFF) 0xFFFFFFFF
/-- The 64-byte header of an image (R430): VA, step, length and CRC-32, in that order (log 22). -/
def snapHeader (va step : Nat) (image : List Byte) : List Byte := padTo 64 (bytesOf 8 va ++ bytesOf 4 step ++ bytesOf 4 image.length ++ bytesOf 4 (crc32 image))
/-- Board offset of a place of a page (R430): page i of a range owns two places of P + 64 bytes. -/
def placeOffset (e : ResEntry) (page size place : Nat) : Nat := e.nvm.toNat + (page - e.base.toNat) / size * 2 * (size + 64) + place * (size + 64)
/-- A message to a board store, its own or the one that a FILL names (R431, R443, R444); its tag is the board offset, so that the reply tells what it answers (log 22). -/
def toStore (P : Platform) (d : Device) (store : Option Nat) (kind off : Nat) (payload : List Byte) : Device :=
  { d with hostOut := d.hostOut ++ [{ port := lowPort P, kind, status := 0, tag := BitVec.ofNat 64 off, payload := bytesOf 8 off ++ payload, store }] }
/-- Sets what is known of a page's images. -/
def setPlace (ps : List BoardPlace) (x : BoardPlace) : List BoardPlace := x :: ps.filter fun p => !(p.entry == x.entry && p.page == x.page)
/-- What is known of a page's images. -/
def placeFor (P : Platform) (entry page : Nat) : BoardPlace := (P.places.find? fun p => p.entry == entry && p.page == page).getD { entry, page, newer := none, writing := none }
/-- SNAPSHOT_WRITE (R430): the oldest snapshot: its image goes to the place that does not hold the newer complete one, and its header follows once the store has answered; a skipped one is counted. -/
def snapshotWrites (P : Platform) (d : Device) : Platform × Device :=
  match takeTransfer d false with
  | none => (P, d)
  | some (t, d) =>
    if t.skip then (countMiss P t.entry, d)
    else match Tbl.find P.resmap t.entry with
      | none => (P, endTransfer d t.record t.slot)
      | some e =>
        let x := placeFor P t.entry t.page
        let place := match x.newer with | some 0 => 1 | _ => 0
        let image := transferImage d t
        let off := placeOffset e t.page t.size place
        let w : SnapWrite := { place, step := t.step, record := t.record, slot := t.slot, offset := off, length := t.size, header := snapHeader t.page t.step image, last := false }
        ({ P with places := setPlace P.places { x with writing := some w } }, toStore P d none 5 off image)
/-- SNAPSHOT_WRITE (R430). -/
def execSnapshotWrite (s : State) := runPlatform s snapshotWrites
/-- The store has answered a write (R430): after the image the header is sent, and after the header the image is complete. -/
def snapAnswered (off : Nat) (P : Platform) (d : Device) : Platform × Device :=
  match P.places.find? fun p => match p.writing with | some w => (if w.last then w.offset + w.length else w.offset) == off | none => false with
  | none => (P, d)
  | some x => match x.writing with
    | none => (P, d)
    | some w =>
      if w.last then ({ P with places := setPlace P.places { x with newer := some w.place, writing := none } }, endTransfer d w.record w.slot)
      else ({ P with places := setPlace P.places { x with writing := some { w with last := true } } }, toStore P d none 5 (w.offset + w.length) w.header)

/-! The fill of a spare. -/

/-- The versioned pages of an entry's range, ascending. -/
def entryPages (d : Device) (k : Nat) (e : ResEntry) : Nat → Nat → List (Nat × Nat)
  | 0, _ => []
  | n + 1, a =>
    if !e.covers a then []
    else match mapLeaf d e.job (BitVec.ofNat 64 a) with
      | none => entryPages d k e n (a + 65536)
      | some l => (if l.ver then [(k, l.base)] else []) ++ entryPages d k e n (l.base + l.size)
/-- Every versioned page a fill visits, in ascending base and page order (R431, R432). -/
def sparePages (P : Platform) (d : Device) : List (Nat × Nat) :=
  let es := sortBy (fun (x y : Nat × ResEntry) => decide (x.2.base.toNat ≤ y.2.base.toNat)) (P.resmap.filter fun e => e.2.filled)
  es.flatMap fun e => entryPages d e.1 e.2 (e.2.len.toNat / 65536) e.2.base.toNat
/-- A fill begins (R431). -/
def startFill (P : Platform) (d : Device) (h : HostTag) (peer store : Nat) : Platform :=
  let ps := sparePages P d
  { P with fillJob := some { host := h, peer, store, since := d.time, pages := ps, all := ps, fromBoard := [], asked := false, writing := none, partial_ := false } }
/-- A reply on the port and with the tag of its request (R444). -/
def replyTo (d : Device) (h : HostTag) (status : Nat) (payload : List Byte) : Device := { d with hostOut := d.hostOut ++ [{ port := h.port, kind := 3, status, tag := h.tag, payload }] }
/-- The reply to a host command (R338, R444). -/
def replyCmd (d : Device) (h : HostTag) (code status : Nat) : Device := replyTo d h status (bytesOf 8 code)
/-- The graph addresses of a phase record, none where one cannot be read or is misaligned (R340, R343). -/
def phaseGraphs (d : Device) (job : Nat) (va : DWord) : Nat → Option (List DWord)
  | 0 => some []
  | n + 1 => match phaseGraphs d job va n, jobRead d job 0 (va + BitVec.ofNat 64 (16 + 8 * n)) 8 with
    | some gs, some b => if natOf b % 64 = 0 then some (gs ++ [BitVec.ofNat 64 (natOf b)]) else none
    | _, _ => none
/-- PHASE (R338, R340): appends a phase to its job, unless the job is not running or the record's check fails. -/
def addPhase (d : Device) (h : HostTag) (job : Nat) (va : DWord) : Device :=
  match d.job job, readRecord d job va 16 with
  | some j, some r => match phaseGraphs d job va (field r 4 2 % 257) with
    | some gs =>
      if j.state != .running || !phaseHeaderOk r then replyCmd d h 2 2
      else
        let p : Phase := { id := d.nextId, job, record := va, state := .running, started := false, skipped := false, step := BitVec.ofNat 32 (field r 0 4), overlap := field r 6 1 == 1, graphs := gs, toSubmit := [], left := 0, done := BitVec.ofNat 64 (field r 8 8), count := 0, flags := 0, failed := false, escalated := false }
        replyCmd ({ d with nextId := d.nextId + 1, phases := Tbl.set d.phases p.id p }.modJob job fun j => { j with phases := j.phases ++ [p.id] }) h 2 0
    | none => replyCmd d h 2 2
  | _, _ => replyCmd d h 2 2
/-- A message came in on a port that is named a host port (R445, R450). -/
def portNamed (P : Platform) (h : HostTag) : Bool := h.port == P.hostPorts.toNat % 8 || h.port == P.hostPorts.toNat / 8 % 8
/-- Carries out a host message: on a port not named it is discarded (R445), and before READY it is answered BUSY (R436). -/
def whenReady (h : HostTag) (busy : List Byte) (f : Platform → Device → Platform × Device) (P : Platform) (d : Device) : Platform × Device :=
  if !portNamed P h then (P, d) else if P.start != .ready then (P, replyTo d h 1 busy) else f P d
/-- A FILL command (R431): it starts, or waits behind the one under way, or is refused BUSY as the fifth. -/
def fillCommand (h : HostTag) (peer store : Nat) (P : Platform) (d : Device) : Platform × Device :=
  match P.fillJob with
  | none => (startFill P d h peer store, d)
  | some _ => if P.fillQueue.length < 4 then ({ P with fillQueue := P.fillQueue ++ [(h, peer, store)] }, d) else (P, replyTo d h 1 [])
/-- Changes the fill under way. -/
def modFill (P : Platform) (f : FillJob → FillJob) : Platform := { P with fillJob := P.fillJob.map f }
/-- A MIRROR source has not been UP all the time since a fill began (R433). -/
def sourceLeft (d : Device) (j : FillJob) (e : ResEntry) : Bool := (d.peer e.partner).state != .up || decide (j.since < (d.peer e.partner).since)
/-- Ranges whose partner has left UP restart from the board, from their first pages, once a page that is being written is settled (R432, R433, R435). -/
def restartRanges (P : Platform) (d : Device) (j : FillJob) : FillJob :=
  let lost := (P.resmap.filter fun e => e.2.cls == 1 && !j.fromBoard.contains e.1 && sourceLeft d j e.2).map (·.1)
  let pages := j.all.filter fun p => j.pages.contains p || lost.contains p.1
  if lost.isEmpty || j.writing.isSome then j
  else { j with fromBoard := j.fromBoard ++ lost, pages, asked := j.asked && pages.head? == j.pages.head? && !pages.head?.any fun p => lost.contains p.1 }
/-- The first page is done with. -/
def nextPage (j : FillJob) : FillJob := { j with pages := j.pages.drop 1, asked := false, writing := none }
/-- The first page has no source: it keeps its mapped sealed slot, its entry is LOST and the status PARTIAL (R432). -/
def pageLost (P : Platform) (k : Nat) : Platform :=
  modFill { P with resmap := Tbl.modify (fun (e : ResEntry) => { e with ctl := e.ctl ||| 8#8 }) P.resmap k } fun j => { nextPage j with partial_ := true }
/-- The version home of a page is asked to write and seal an image under its step, as one operation (R225, R226, R435). -/
def writeImage (d : Device) (job : Nat) (l : Leaf) (step : Nat) (image : List Byte) : Device :=
  d.openHome job l fun h => { h with stores := h.stores ++ [({ notice := some (BitVec.ofNat 64 l.base), source := .fill, offset := 0, step, data := image, since := d.clock } : VerStore)] }
/-- The first page takes an image, unless it has a newer sealed one (R432, R435). -/
def fillPage (P : Platform) (d : Device) (k page : Nat) (step : Nat) (image : List Byte) : Platform × Device :=
  match Tbl.find P.resmap k with
  | none => (pageLost P k, d)
  | some e => match versionedLeaf d e.job (BitVec.ofNat 64 page) with
    | none => (pageLost P k, d)
    | some l =>
      match (newestSealed (readSlots d l.addr)).filter fun j => decide (step < (readSlot d l.addr j).step) with
      | some j => (modFill P nextPage, chargeLate P d l.addr j)
      | none => (modFill P fun j => { j with writing := some (l.addr, step) }, writeImage d e.job l step (image.take l.size))
/-- The home has written and sealed a page's image, or given it up (R225, R226, R228). -/
def imageSettled (d : Device) (record step : Nat) : Bool :=
  let h := d.home record
  h.fill.isNone && !(h.stores ++ h.heldStores).any (fun x => x.source == .fill) && !(h.seals ++ h.parked).any fun x => x.group.isNone && x.step == step
/-- A fill has no page left (R431): its status is reported, the held phases go on, and the next FILL begins. -/
def fillReady (P : Platform) (d : Device) (j : FillJob) : Platform × Device :=
  let d := replyTo d j.host 0 (bytesOf 4 j.peer ++ bytesOf 4 (if j.partial_ then 1 else 0))
  let d := P.heldPhases.foldl (fun d x => addPhase d x.1 x.2.1 x.2.2) d
  let P := { P with fillJob := none, heldPhases := [] }
  match P.fillQueue with
  | [] => (P, d)
  | (h, peer, store) :: rest => (startFill { P with fillQueue := rest } d h peer store, d)
/-- The page size of a versioned page. -/
def pageSizeOf (d : Device) (job page : Nat) : Nat := ((mapLeaf d job (BitVec.ofNat 64 page)).map (·.size)).getD 65536
/-- Asks the source of a fill's first page: the partner's HOLD copy, or the board for both its places (R432). -/
def askSource (P : Platform) (d : Device) (j : FillJob) (k page : Nat) (e : ResEntry) : Platform × Device :=
  let P' := modFill P fun _ => { j with asked := true }
  let size := pageSizeOf d e.job page
  if e.cls = 1 && !j.fromBoard.contains k then (P', postTo P d e.partner 3 (Posted.holdRead e.partner { peer := P.own, forPeer := j.peer, job := e.job, offset := page - e.base.toNat }))
  else if (e.ctl.extractLsb' 4 4).toNat = 0 then (pageLost (modFill P fun _ => j) k, d)
  else (P', toStore P d (some j.store) 6 (placeOffset e page size 0) (bytesOf 8 (2 * (size + 64))))
/-- A fill goes on (R431 to R433). -/
def fillGoes (P : Platform) (d : Device) (j0 : FillJob) : Platform × Device :=
  let j := restartRanges P d j0
  let P := modFill P fun _ => j
  match j.writing with
  | some (r, s) => if imageSettled d r s then (modFill P nextPage, d) else (P, d)
  | none => match j.pages with
    | [] => fillReady P d j
    | (k, page) :: _ =>
      if j.asked then (P, d)
      else match Tbl.find P.resmap k with
        | some e => askSource P d j k page e
        | none => (pageLost P k, d)
/-- The image of a place of the board, complete when its header is that of the image (R430). -/
def placeImage (page size : Nat) (bs : List Byte) : Option (Nat × List Byte) :=
  let image := bs.take size
  let h := bs.drop size
  let step := field h 8 4
  if image.length = size && h.take 64 == snapHeader page step image then some (step, image) else none
/-- The complete image of the larger step, with the place that holds it (R430). -/
def boardImage (page size : Nat) (bs : List Byte) : Option (Nat × Nat × List Byte) :=
  match placeImage page size bs, placeImage page size (bs.drop (size + 64)) with
  | some a, some b => if a.1 < b.1 then some (1, b) else some (0, a)
  | some a, none => some (0, a)
  | none, b => b.map fun b => (1, b)
/-- An image of the first page's source has come. -/
def fillImage (P : Platform) (d : Device) (j : FillJob) (partner : Bool) (image : Option (Nat × List Byte)) : Platform × Device :=
  match j.pages with
  | (k, page) :: _ =>
    let fromPartner := ((Tbl.find P.resmap k).map fun e => e.cls == 1).getD false && !j.fromBoard.contains k
    if !j.asked || j.writing.isSome || partner != fromPartner then (P, d)
    else match image with
      | some (step, bs) => fillPage P d k page step bs
      | none => (pageLost P k, d)
  | [] => (P, d)
/-- An image from a partner is for the page that a fill stands at. -/
def answersHead (P : Platform) (j : FillJob) (m : FillImage) : Bool :=
  match j.pages with
  | (k, page) :: _ => (Tbl.find P.resmap k).any fun e => e.job == m.job && page == e.base.toNat + m.offset
  | [] => false
/-- FILL (R431). -/
def fillMoves (m : FillMove) (P : Platform) (d : Device) : Platform × Device :=
  match m with
  | .command h peer store => whenReady h [] (fillCommand h peer store) P d
  | .go => match P.fillJob with | some j => fillGoes P d j | none => (P, d)
  | .image m => match P.fillJob with | some j => if answersHead P j m then fillImage P d j true (m.image.map fun b => (m.step, b)) else (P, d) | none => (P, d)
/-- FILL (R431). -/
def execFillPages (m : FillMove) (s : State) := runPlatform s (fillMoves m)
/-- REPLY (R444) of the board store: to a read for the fill under way, which tells where the newer complete image stands (R430), or to a write of a snapshot. On a port that is not named it is discarded (R445). -/
def storeReplies (m : StoreReply) (P : Platform) (d : Device) : Platform × Device :=
  if !portNamed P { port := m.port, tag := 0 } then (P, d)
  else if m.read then
    match P.fillJob with
    | none => (P, d)
    | some j => match j.pages with
      | (k, page) :: _ =>
        match Tbl.find P.resmap k with
        | none => (P, d)
        | some e =>
          let size := pageSizeOf d e.job page
          if m.offset.toNat = placeOffset e page size 0 then
            let x := boardImage page size m.bytes
            let P := match x with | some y => { P with places := setPlace P.places { placeFor P k page with newer := some y.1 } } | none => P
            fillImage P d j false (x.map (·.2))
          else (P, d)
      | [] => (P, d)
  else snapAnswered m.offset.toNat P d
/-- REPLY (R444). -/
def execStoreReply (m : StoreReply) (s : State) := runPlatform s (storeReplies m)

end Sys2Proof.Machine
end

