-- ==== Sys2Proof/Machine/HostCommands.lean ====
section
/-! DEFINITION. The command engine: host commands (R338) and their replies (R444). Messages are carried out one at a time, in order of arrival (R443). -/

namespace Sys2Proof.Machine
open Sys2Proof

/-- A host command of a code that leaves the platform as it is. -/
def hostCommand (h : HostTag) (code : Nat) (f : Platform → Device → Device) : Platform → Device → Platform × Device := whenReady h (bytesOf 8 code) fun P d => (P, f P d)

/-! ADMIT. -/

/-- The sideboard member mask at admission: every valid entry that is not foreign (R399). -/
def initialMembers (P : Platform) : BitVec 512 := BitVec.ofNat 512 (((List.range 512).filter fun p => P.valid p && !P.foreign p).foldl (fun m p => m + 2 ^ p) 0)
/-- A job as its record gives it (R339, R399, R410). -/
def newJob (P : Platform) (time : Nat) (r : List Byte) : Job :=
  let a (off : Nat) : DWord := BitVec.ofNat 64 (field r off 8)
  let step0 := BitVec.ofNat 32 (field r 48 4)
  { number := field r 0 1, state := .running, prio := field r 1 1, grace := field r 3 1, stale := field r 4 1, age := field r 5 1, lkcount := field r 6 1, lkring := a 8, xroot := field r 16 8, done := a 24, handler := a 32, status := a 40, step0, lead := BitVec.ofNat 32 (field r 2 1),
    count := 0, flags := 0, escalated := false, phases := [], swapped := [], queued := [], rot := false, readySince := none, readyFor := 0, aged := false, lockReports := 0, dumps := [], cancelAt := none,
    sbMem := initialMembers P, sbAbsent := 100000, sideboard := (List.range 512).map fun p => (p, { step := step0, present := true, heard := time }), sbSentAt := time, collDrop := 0, collLost := 0, trapActs := [], codeOld := [] }
/-- ADMIT (R338): the job is admitted, and its own entry goes to every member (R410). -/
def admits (h : HostTag) (r : List Byte) (P : Platform) (d : Device) : Device :=
  let n := field r 0 1
  if !jobRecordOk r || (d.job n).isSome || decide (64 ≤ d.jobs.length) then replyCmd d h 0 2
  else replyCmd (sendOwn P { d with jobs := Tbl.set d.jobs n (newJob P d.time r) } n) h 0 0
/-- ADMIT (R338). -/
def execAdmitJob (h : HostTag) (record : List Byte) (s : State) := runPlatform s (hostCommand h 0 (admits h record))

/-! WRITE. -/

/-- The pieces of a range that do not cross a line: address and bytes. -/
def linePieces : Nat → DWord → List Byte → List (DWord × List Byte)
  | 0, _, _ => []
  | n + 1, va, bs =>
    if bs.isEmpty then []
    else
      let k := 64 - va.toNat % 64
      (va, bs.take k) :: linePieces n (va + BitVec.ofNat 64 k) (bs.drop k)
/-- A page that a WRITE touches can be written (R338). -/
def hostWritable (d : Device) (job : Nat) (va : DWord) : Bool := match engineXlat d job .store 0 va with | .ok l _ => !l.ver | _ => false
/-- The bytes of a WRITE go to memory, from D0 (log 107): every page is translated before anything is written, and a replicated one is written through its collapse (R222, R338). -/
def hostPieces (P : Platform) (job : Nat) (d : Device) (ps : List (DWord × List Byte)) : Device :=
  let r := enginePlaces P 0 d job ps
  r.2.foldl (fun d x => engineWrite P 0 d x.1 x.2) r.1
/-- WRITE (R338). What the command engine starts after it follows the writes (R217, R218). -/
def hostWrites (h : HostTag) (job : Nat) (va : DWord) (bytes : List Byte) (P : Platform) (d : Device) : Device :=
  let ps := linePieces (bytes.length + 1) va bytes
  if (d.job job).isNone || bytes.isEmpty || decide (4096 < bytes.length) || !ps.all (fun x => hostWritable d job x.1) then replyCmd d h 1 2
  else replyCmd ((noticeAll (hostPieces P job d ps) (sigOfAll (blocksOf va bytes.length))).toCommand 0) h 1 0
/-- WRITE (R338). -/
def execHostWrite (h : HostTag) (job : Nat) (addr : DWord) (bytes : List Byte) (s : State) := runPlatform s (hostCommand h 1 (hostWrites h job addr bytes))

/-! PHASE. -/

/-- PHASE (R338, R340); one of a job whose pages are being filled is held until READY (R431). -/
def phaseCommand (h : HostTag) (job : Nat) (va : DWord) (P : Platform) (d : Device) : Platform × Device :=
  if phaseHeld P job then ({ P with heldPhases := P.heldPhases ++ [(h, job, va)] }, d) else (P, addPhase d h job va)
/-- PHASE (R338). -/
def execAppendPhase (h : HostTag) (job : Nat) (addr : DWord) (s : State) := runPlatform s (whenReady h (bytesOf 8 2) (phaseCommand h job addr))

/-! CANCEL. -/

/-- The objects of a job that were started from a record at a level: each with its state. A phase that is pending has not been started (R338, R340). -/
def startedFrom (d : Device) (job : Nat) (level : Level) (va : DWord) : List (Nat × ObjState) :=
  match level with
  | .launch => ((Tbl.vals d.launches).filter fun l => l.job == job && l.record == va).map fun l => (l.id, l.state)
  | .graph => ((Tbl.vals d.graphs).filter fun g => g.job == job && g.record == va).map fun g => (g.id, g.state)
  | .phase => ((Tbl.vals d.phases).filter fun p => p.job == job && p.record == va && p.started).map fun p => (p.id, p.state)
  | .job => ((d.job job).map fun j => (job, j.state)).toList
/-- Cancels one object, unless it is cancelling already (R58). -/
def cancelOne (P : Platform) (level : Level) (d : Device) (id : Nat) : Device :=
  match level with
  | .launch => cancelLaunch P false d id
  | .graph => cancelGraph P false d id
  | .phase => cancelPhase P false d id
  | .job => cancelJob P false d id
/-- CANCEL (R338, R58): every live object started from the record. -/
def cancels (h : HostTag) (job : Nat) (level : Level) (va : DWord) (P : Platform) (d : Device) : Device :=
  let xs := startedFrom d job level va
  if (d.job job).isNone || xs.isEmpty then replyCmd d h 3 2
  else if xs.all (fun x => x.2 == .complete) then replyCmd d h 3 3
  else replyCmd (((xs.filter fun x => x.2 == .running).map (·.1)).foldl (cancelOne P level) d) h 3 0
/-- CANCEL (R338). -/
def execCancelObject (h : HostTag) (job : Nat) (level : Level) (addr : DWord) (s : State) := runPlatform s (hostCommand h 3 (cancels h job level addr))

/-! RETIRE. -/

/-- Frees a job's number: nothing of the job is left in the device but what it wrote to memory; staging that it filled has room again (R403). -/
def freeJob (P : Platform) (d : Device) (n : Nat) : Device :=
  let keep (e : Nat × Nat × List Byte) : Bool := e.1 != n
  returnCredit P { d with
    jobs := Tbl.erase d.jobs n
    phases := d.phases.filter fun e => e.2.job != n
    graphs := d.graphs.filter fun e => e.2.job != n
    launches := d.launches.filter fun e => e.2.job != n
    cores := Tbl.mapVals (fun (c : Core) => { c with xlat := c.xlat.filter (fun e => e.1 != n), icache := c.icache.filter keep, misses := c.misses.filter fun m => m.job != n }) d.cores
    clusters := Tbl.mapVals (fun (c : Cluster) => { c with xlat := c.xlat.filter fun e => e.1 != n }) d.clusters
    slices := Tbl.mapVals (fun (k : Slice) => { k with misses := k.misses.filter fun m => m.job != n }) d.slices
    coll := { d.coll with chunks := d.coll.chunks.filter (fun e => e.2.job != n), quorums := d.coll.quorums.filter (fun q => q.1 != n), retained := d.coll.retained.filter (fun r => r.job != n), sends := d.coll.sends.filter fun x => x.2.job != n } }
/-- The teams a job still has when no phase is left, its handler's, are freed with what they hold (R56, log 75). -/
def freeTeams (P : Platform) (d : Device) (n : Nat) : Device :=
  (((Tbl.vals d.teams).filter fun t => t.job == n).map (·.id)).foldl (fun d t =>
    completeTeam P { d with clusters := Tbl.mapVals (fun (c : Cluster) => { c with copies := c.copies.filter fun o => o.team != t }) d.clusters } t .cancelled) d
/-- RETIRE (R338, R56): a job that is complete frees its number; one with no phase running or pending completes with DONE first. A number that no job has is answered BUSY, as every other case is. -/
def retires (h : HostTag) (n : Nat) (P : Platform) (d : Device) : Device :=
  match d.job n with
  | none => replyCmd d h 4 1
  | some j =>
    if j.state = .complete then replyCmd (freeJob P d n) h 4 0
    else if j.state = .running && (Tbl.vals d.phases).all (fun p => p.job != n || p.state == .complete) then
      let rec_ := completionRecord j.count 0 j.flags
      replyCmd (freeJob P (completionMessage P (commandWrite P (freeTeams P d n) n j.done rec_) n 3 j.done rec_) n) h 4 0
    else replyCmd d h 4 1
/-- RETIRE (R338). -/
def execRetireJob (h : HostTag) (job : Nat) (s : State) := runPlatform s (hostCommand h 4 (retires h job))

/-- A kind that is not assigned, or a host command's code that is not (R338, R443). -/
def reservedMessage (kind code : Nat) : Bool := (kind == 0 && decide (5 ≤ code)) || decide (10 ≤ kind)
/-- RESERVED_HOST_MESSAGE (R338, R443): REJECTED. -/
def execReservedHostMessage (h : HostTag) (kind code : Nat) (s : State) :=
  let payload := if kind = 0 then bytesOf 8 (code % 256) else []
  runPlatform s (whenReady h payload fun P d => (P, if reservedMessage kind code then replyTo d h 2 payload else d))

end Sys2Proof.Machine
end

