-- ==== Sys2Proof/Machine/Digest.lean ====
section
/-! DEFINITION. SHA-256 (FIPS 180-4) and the signature check RSASSA-PKCS1-v1_5 of RFC 8017, which R439, R440 and R442 name (log 8). -/

namespace Sys2Proof.Machine
open Sys2Proof

/-! SHA-256. -/

/-- The first 32 bits of the fractional parts of the cube roots of the first 64 primes. -/
def shaK : List Word :=
  [0x428a2f98, 0x71374491, 0xb5c0fbcf, 0xe9b5dba5, 0x3956c25b, 0x59f111f1, 0x923f82a4, 0xab1c5ed5, 0xd807aa98, 0x12835b01, 0x243185be, 0x550c7dc3, 0x72be5d74, 0x80deb1fe, 0x9bdc06a7, 0xc19bf174,
   0xe49b69c1, 0xefbe4786, 0x0fc19dc6, 0x240ca1cc, 0x2de92c6f, 0x4a7484aa, 0x5cb0a9dc, 0x76f988da, 0x983e5152, 0xa831c66d, 0xb00327c8, 0xbf597fc7, 0xc6e00bf3, 0xd5a79147, 0x06ca6351, 0x14292967] ++
  [0x27b70a85, 0x2e1b2138, 0x4d2c6dfc, 0x53380d13, 0x650a7354, 0x766a0abb, 0x81c2c92e, 0x92722c85, 0xa2bfe8a1, 0xa81a664b, 0xc24b8b70, 0xc76c51a3, 0xd192e819, 0xd6990624, 0xf40e3585, 0x106aa070,
   0x19a4c116, 0x1e376c08, 0x2748774c, 0x34b0bcb5, 0x391c0cb3, 0x4ed8aa4a, 0x5b9cca4f, 0x682e6ff3, 0x748f82ee, 0x78a5636f, 0x84c87814, 0x8cc70208, 0x90befffa, 0xa4506ceb, 0xbef9a3f7, 0xc67178f2]
/-- The initial hash value: square roots of the first eight primes. -/
def shaInit : List Word := [0x6a09e667, 0xbb67ae85, 0x3c6ef372, 0xa54ff53a, 0x510e527f, 0x9b05688c, 0x1f83d9ab, 0x5be0cd19]
/-- Octets of a number, the most significant first. -/
def octets (n x : Nat) : List Byte := (bytesOf n x).reverse
/-- The number of octets, the most significant first. -/
def ofOctets (bs : List Byte) : Nat := natOf bs.reverse
/-- A message padded to whole blocks of 64 octets. -/
def shaPad (bs : List Byte) : List Byte := bs ++ [0x80] ++ List.replicate ((119 - bs.length % 64) % 64) 0 ++ octets 8 (8 * bs.length)
/-- The message schedule, newest word first. -/
def shaExtend : Nat → List Word → List Word
  | 0, ws => ws
  | n + 1, ws =>
    let w (i : Nat) : Word := ws.getD i 0
    let s0 (x : Word) : Word := x.rotateRight 7 ^^^ x.rotateRight 18 ^^^ (x >>> 3)
    let s1 (x : Word) : Word := x.rotateRight 17 ^^^ x.rotateRight 19 ^^^ (x >>> 10)
    shaExtend n ((s1 (w 1) + w 6 + s0 (w 14) + w 15) :: ws)
/-- One round: the working variables, and a schedule word with its constant. -/
def shaRound (v : List Word) (wk : Word × Word) : List Word :=
  match v with
  | [a, b, c, d, e, f, g, h] =>
    let t1 := h + (e.rotateRight 6 ^^^ e.rotateRight 11 ^^^ e.rotateRight 25) + ((e &&& f) ^^^ (~~~e &&& g)) + wk.2 + wk.1
    let t2 := (a.rotateRight 2 ^^^ a.rotateRight 13 ^^^ a.rotateRight 22) + ((a &&& b) ^^^ (a &&& c) ^^^ (b &&& c))
    [t1 + t2, a, b, c, d + t1, e, f, g]
  | _ => v
/-- The hash value after a block. -/
def shaBlock (h : List Word) (block : List Byte) : List Word :=
  let ws := (List.range 16).map fun i => BitVec.ofNat 32 (ofOctets ((block.drop (4 * i)).take 4))
  (h.zip (((shaExtend 48 ws.reverse).reverse.zip shaK).foldl shaRound h)).map fun x => x.1 + x.2
/-- The hash value after a message of whole blocks. -/
def shaBlocks : Nat → List Word → List Byte → List Word
  | 0, h, _ => h
  | n + 1, h, bs => if bs.isEmpty then h else shaBlocks n (shaBlock h (bs.take 64)) (bs.drop 64)
/-- The SHA-256 digest: 32 octets. -/
def sha256 (bs : List Byte) : List Byte := (shaBlocks (bs.length / 64 + 2) shaInit (shaPad bs)).flatMap fun w => octets 4 w.toNat

/-! RSASSA-PKCS1-v1_5. -/

/-- `x ^ (2 ^ n) mod m`. -/
def squareMod (m : Nat) : Nat → Nat → Nat
  | 0, x => x % m
  | n + 1, x => squareMod m n (x * x % m)
/-- The encoded message of a digest, 384 octets: 00 01, octets FF, 00, and the DigestInfo of SHA-256. -/
def encodeDigest (digest : List Byte) : List Byte :=
  [0x00, 0x01] ++ List.replicate 330 0xFF ++ [0x00] ++ [0x30, 0x31, 0x30, 0x0d, 0x06, 0x09, 0x60, 0x86, 0x48, 0x01, 0x65, 0x03, 0x04, 0x02, 0x01, 0x05, 0x00, 0x04, 0x20] ++ digest
/-- A signature of a message verifies under a modulus, with public exponent 65 537 (R439, R440, log 8). -/
def rsaVerifies (modulus signature : BitVec 3072) (message : List Byte) : Bool :=
  decide (signature.toNat < modulus.toNat) && squareMod modulus.toNat 16 signature.toNat * signature.toNat % modulus.toNat == ofOctets (encodeDigest (sha256 message))

end Sys2Proof.Machine
end

