-- ==== Sys2Proof/Machine/Platform.lean ====
section
/-! DEFINITION. The platform: starts (R436 to R439), identity and attestation (R440 to R442), the management registers (R443 to R445, R449, R450), power (R447) and the monitors (R448). -/

namespace Sys2Proof.Machine
open Sys2Proof

/-! Starts. -/

/-- What a start leaves of the platform: reset values, but for what is fused or strapped, the boot count, and what is known of the board (R449). A warm start keeps the health record and the saved link parameters (R437). -/
def restart (P : Platform) (warm : Bool) : Platform :=
  { Platform.reset with self := P.self, feed := P.feed, serial := P.serial, rollback := P.rollback, boots := P.boots, places := P.places.map (fun (x : BoardPlace) => { x with writing := none }), warm, health := if warm then P.health else 0, linkSaved := warm && P.linkSaved }
/-- What a start leaves of the device: a warm one keeps the stacks with their marks (R437); what was sent stays sent. -/
def restartDevice (d : Device) (warm : Bool) : Device :=
  let r := { Device.reset with clock := d.clock, time := d.time, nextId := d.nextId, seed := d.seed, hostOut := d.hostOut, fabricOut := d.fabricOut }
  if warm then { r with mem := d.mem, poison := d.poison, badStacks := d.badStacks } else r
/-- POWER_ON (R436). -/
def execPowerOn (s : State) := runPlatform s fun P d => (restart P false, restartDevice d false)
/-- FUSE (R436, R440): fuses and straps are read. FW_COMMIT may have raised ROLLBACK since it was made (R439). -/
def fuseReads (P : Platform) (d : Device) : Platform × Device :=
  if P.start = .fuse then
    ({ P with start := .sign, serial := Config.serial, feed := Config.feed, self := Config.self, rollback := if P.rollback < Config.rollback then Config.rollback else P.rollback, boots := (P.boots + 1) % 2 ^ 64 }, d)
  else (P, d)
/-- FUSE (R436). -/
def execFuseDone (s : State) := runPlatform s fuseReads
/-- The version in a firmware image's header (R439). -/
def imageVersion (image : List Byte) : Word := BitVec.ofNat 32 (field image 4 4)
/-- SIGN (R439): the image passes only when all three conditions hold; the fail code is that of the first that does not. What runs from then on is this image (R442, log 8). -/
def signChecks (m : SignResult) (P : Platform) (d : Device) : Platform × Device :=
  if P.start ≠ .sign then (P, d)
  else if sha256 (bytesOf 384 m.modulus.toNat) != bytesOf 32 Config.keyHash.toNat then ({ P with start := .secureHalt, failCode := 1 }, d)
  else if m.image.length < 64 || !rsaVerifies m.modulus m.signature m.image then ({ P with start := .secureHalt, failCode := 2 }, d)
  else if imageVersion m.image < P.rollback then ({ P with start := .secureHalt, failCode := 3 }, d)
  else ({ P with start := .hbm, fwVer := imageVersion m.image, fwDigest := BitVec.ofNat 256 (natOf (sha256 m.image)) }, d)
/-- SIGN (R439). -/
def execSignDone (m : SignResult) (s : State) := runPlatform s (signChecks m)
/-- The stacks that failed to leave self-refresh have every word poisoned (R438). -/
def poisonStacks (d : Device) (lost : BitVec 8) : Device := { d with badStacks := d.badStacks ||| lost, poison := d.poison.filter fun w => !lost.getLsbD (w / 2 ^ 34) }
/-- HBM (R436, R438): a warm start goes on at FABRIC, a cold one at BIST. -/
def hbmTrains (m : HbmResult) (P : Platform) (d : Device) : Platform × Device :=
  if P.start ≠ .hbm then (P, d) else if P.warm then ({ P with start := .fabric }, poisonStacks d m.lost) else ({ P with start := .bist }, d)
/-- HBM (R436). -/
def execHbmDone (m : HbmResult) (s : State) := runPlatform s (hbmTrains m)
/-- BIST (R30): failed units are disabled; the health record has 652 of them. -/
def bistTests (m : BistResult) (P : Platform) (d : Device) : Platform × Device :=
  if P.start = .bist then ({ P with start := .fabric, health := m.failed &&& BitVec.ofNat 2048 (2 ^ 652 - 1) }, d) else (P, d)
/-- BIST (R30). -/
def execBistDone (m : BistResult) (s : State) := runPlatform s (bistTests m)
/-- FABRIC (R436, R438): the device is READY; channels that did not train start down. -/
def fabricTrains (m : FabricResult) (P : Platform) (d : Device) : Platform × Device :=
  if P.start = .fabric then ({ P with start := .ready, linkSaved := true }, m.down.foldl (fun d x => d.modPeer x.1 fun p => { p with down := x.2 }) d) else (P, d)
/-- FABRIC (R436). -/
def execFabricDone (m : FabricResult) (s : State) := runPlatform s (fabricTrains m)

/-! Registers as they read. -/

/-- START_STAT (R450). -/
def startStat (P : Platform) : Nat :=
  (match P.start with | .fuse => 0 | .sign => 1 | .hbm => 2 | .bist => 3 | .fabric => 4 | .ready => 5 | .secureHalt => 6) + P.failCode * 2 ^ 8 + (if P.warm then 2 ^ 16 else 0)
/-- The 32 bytes of an entry of the resilience map (R427). -/
def resBytes (e : ResEntry) : List Byte := bytesOf 8 e.base.toNat ++ bytesOf 8 e.len.toNat ++ bytesOf 1 e.job ++ bytesOf 1 e.ctl.toNat ++ bytesOf 2 e.partner ++ bytesOf 4 e.miss ++ bytesOf 8 e.nvm.toNat
/-- A monitor record's 160 bytes (R450). -/
def monBytes (m : MonRec) : List Byte := bytesOf 4 m.lo ++ bytesOf 4 m.hi ++ bytesOf 8 m.count ++ m.buckets.flatMap (bytesOf 4) ++ bytesOf 16 0
/-- The 32-bit register at an offset (R449): 0 where none is listed, and of a write-only one. -/
def regWord (P : Platform) (off : Nat) : Nat :=
  if off = 0 then 0x53580004
  else if off = 0x0C then startStat P
  else if off = 0x10 then P.hostPorts.toNat
  else if off = 0x14 then P.feed.toNat
  else if off = 0x18 then P.fwVer.toNat
  else if off = 0x1C then P.rollback.toNat
  else if off = 0x30 then P.pwrLimit.toNat
  else if off = 0x34 then P.level + (if P.level = 0 then 0 else 2 ^ 8)
  else if off = 0x38 then P.eccCe.toNat % 2 ^ 32
  else if off = 0x3C then P.eccCe.toNat / 2 ^ 32
  else if 0x100 ≤ off && off < 0x200 then P.health.toNat / 2 ^ (8 * (off - 0x100)) % 2 ^ 32
  else if 0x400 ≤ off && off < 0x400 + 44 then (P.monBase.getD ((off - 0x400) / 4) 0).toNat
  else if 0x800 ≤ off && off < 0x800 + 1760 then natOf (((monBytes (P.window.getD ((off - 0x800) / 160) MonRec.zero)).drop ((off - 0x800) % 160)).take 4)
  else if 0x10000 ≤ off && off < 0x10000 + 2048 then (P.entry ((off - 0x10000) / 4)).toNat
  else if 0x20000 ≤ off && off < 0x20000 + 8192 then (match Tbl.find P.resmap ((off - 0x20000) / 32) with | some e => natOf (((resBytes e).drop ((off - 0x20000) % 32)).take 4) | none => 0)
  else if off = 0x22000 then P.resStat
  else 0
/-- An offset is 8-byte-aligned and the width 4 or 8 (R443, R444, log 23). -/
def regAligned (off width : Nat) : Bool := (width == 4 || width == 8) && off % 8 == 0
/-- Correctable errors since the last look are free (R425, R449, log 2). -/
def countErrors (P : Platform) (d : Device) : Platform × Device := let r := d.free; ({ P with eccCe := P.eccCe + r.1 }, r.2)
/-- What is read before READY: MGMT_ID, and START_STAT, which an access of 8 bytes reaches (R436, R443). -/
def earlyRead (off width : Nat) : Bool := off == 0 || (off == 0x08 && width == 8)
/-- REG_READ (R444). -/
def regReads (h : HostTag) (off width : Nat) (P : Platform) (d : Device) : Platform × Device :=
  if !portNamed P h then (P, d)
  else if P.start != .ready && !earlyRead off width then (P, replyTo d h 1 [])
  else if !regAligned off width then (P, replyTo d h 2 [])
  else
    let r := if off = 0x38 || off = 0x3C then countErrors P d else (P, d)
    let v := regWord r.1 off + (if width = 8 then regWord r.1 (off + 4) * 2 ^ 32 else 0)
    (r.1, replyTo r.2 h 0 (bytesOf 8 off ++ bytesOf 4 width ++ bytesOf 4 0 ++ bytesOf 8 v))
/-- REG_READ (R444). -/
def execRegRead (h : HostTag) (off : DWord) (width : Word) (s : State) := runPlatform s (regReads h off.toNat width.toNat)

/-! Writes of the maps. -/

/-- A remap entry obeys R387: no reserved value, no endpoint of another mode, no optical place outside optical mode. -/
def remapEntryOk (w : Word) : Bool :=
  let mode := (w.extractLsb' 29 2).toNat
  mode != 3 &&
  (if mode = 0 then w.extractLsb' 16 10 == 0 && !w.getLsbD 28 && !w.getLsbD 27 else w.extractLsb' 0 9 == 0 && (mode == 1 || (!w.getLsbD 28 && !w.getLsbD 27)))
/-- A remap entry as it is written: a 1 in a reserved bit is ignored (R2, R387). -/
def remapBits (w : Word) : Word := w &&& 0xFBFF01FF#32
/-- A write of a remap entry (R388): the peer is ISOLATED, the entry installed, and the peer probed; its identity is not known any more (R441). -/
def writeRemap (P : Platform) (d : Device) (p : Nat) (w : Word) : Platform × Device :=
  if !remapEntryOk w then (P, d)
  else
    let d := isolatePeer d p
    ({ P with remap := Tbl.set P.remap p (remapBits w) }, beginProbing (d.modPeer p fun x => { x with everUp := false, identity := none }) p)
/-- An entry of the resilience map from its 32 bytes (R427). -/
def resOf (bs : List Byte) (old : Option ResEntry) : ResEntry :=
  let ctl := BitVec.ofNat 8 (field bs 17 1)
  { base := BitVec.ofNat 64 (field bs 0 8), len := BitVec.ofNat 64 (field bs 8 8), job := field bs 16 1, ctl := (ctl &&& 0xF7#8) ||| ((old.map fun e => e.ctl &&& 8#8).getD 0), partner := field bs 18 2, miss := (old.map (·.miss)).getD 0, nvm := BitVec.ofNat 64 (field bs 24 8) }
/-- Limits of an entry (R427, R428): BAD_ENTRY where one is broken. -/
def resLimits (P : Platform) (e : ResEntry) : Bool :=
  let b := e.base.toNat
  let n := e.len.toNat
  b % 65536 == 0 && n % 65536 == 0 && n != 0 && decide (b + n ≤ 2 ^ 48) && decide (e.job < 64) && decide (e.partner < 512) && e.nvm.toNat % 65536 == 0 &&
  !(e.cls == 2 && e.ctl.extractLsb' 4 4 == 0) && !((e.cls == 1 || e.cls == 3) && e.partner == P.own)
/-- Two ranges share an address. -/
def rangesMeet (a b : ResEntry) : Bool := decide (a.base.toNat < b.base.toNat + b.len.toNat) && decide (b.base.toNat < a.base.toNat + a.len.toNat)
/-- The status of a map write (R428, R441). -/
def resStatus (P : Platform) (d : Device) (k : Nat) (e : ResEntry) : Nat :=
  let named := e.cls == 1 || e.cls == 3
  let record := (d.peer e.partner).identity
  if !resLimits P e then 2
  else if named && (!P.valid e.partner || P.foreign e.partner || record.isNone) then 3
  else if P.resmap.any (fun x => x.1 != k && x.2.job == e.job && rangesMeet x.2 e) then 4
  else if e.cls == 1 && !e.ctl.getLsbD 2 && field (record.getD []) 4 4 == P.feed.toNat then 1
  else 0
/-- The bytes staged for an entry: those it has, where none is staged (R450). -/
def stagedBytes (P : Platform) (k : Nat) : BitVec 256 := (Tbl.find P.resStage k).getD (BitVec.ofNat 256 (natOf (((Tbl.find P.resmap k).map resBytes).getD [])))
/-- A word written to an entry of the resilience map; with its last word the entry takes effect, or is refused (R428, R450). -/
def writeResmap (P : Platform) (d : Device) (k o : Nat) (v : Nat) : Platform :=
  let x := (stagedBytes P k).toNat
  let x := x - x / 2 ^ (8 * o) % 2 ^ 32 * 2 ^ (8 * o) + v * 2 ^ (8 * o)
  if o ≠ 28 then { P with resStage := Tbl.set P.resStage k (BitVec.ofNat 256 x) }
  else
    let e := resOf (bytesOf 32 x) (Tbl.find P.resmap k)
    let st := resStatus P d k e
    { P with resStage := Tbl.erase P.resStage k, resStat := st, resmap := if st = 0 then Tbl.set P.resmap k e else P.resmap }

/-! Monitors. -/

/-- A write of MON_CTL (R448, R450): START, STOP, FREEZE, then CLEAR. -/
def writeMonCtl (P : Platform) (d : Device) (v : Nat) : Platform × Device :=
  let P := if v.testBit 0 then { P with monRunning := true } else P
  let P := if v.testBit 1 then { P with monRunning := false } else P
  let P := if v.testBit 2 then { P with window := d.monitors } else P
  if v.testBit 3 then ({ P with eccCe := 0 }, { d with monitors := List.replicate 11 MonRec.zero }) else (P, d)

/-! REG_WRITE. -/

/-- HOST_PORTS takes a value that names two ports and nothing else (R450). -/
def hostPortsOk (v : Nat) : Bool := decide (v < 64) && v % 8 != v / 8
/-- A 32-bit write at an offset (R449, R450). -/
def writeWord (r : Platform × Device) (x : Nat × Nat) : Platform × Device :=
  let P := r.1
  let d := r.2
  let off := x.1
  let v := x.2
  if off = 0x08 then
    if v = 1 then (restart P true, restartDevice d true)
    else if v = 2 then (restart P false, restartDevice d false)
    else if v = 3 then ({ P with rollback := if P.rollback < P.fwVer then P.fwVer else P.rollback }, d)
    else r
  else if off = 0x10 then (if hostPortsOk v then { P with hostPorts := BitVec.ofNat 32 v } else P, d)
  else if off = 0x30 then ({ P with pwrLimit := BitVec.ofNat 32 (min 3600 (max 1000 v)) }, d)
  else if off = 0x40 then writeMonCtl P d v
  else if 0x400 ≤ off && off < 0x400 + 44 then ({ P with monBase := listSet P.monBase ((off - 0x400) / 4) (BitVec.ofNat 32 v) }, d)
  else if 0x10000 ≤ off && off < 0x10000 + 2048 then writeRemap P d ((off - 0x10000) / 4) (BitVec.ofNat 32 v)
  else if 0x20000 ≤ off && off < 0x20000 + 8192 then (writeResmap P d ((off - 0x20000) / 32) ((off - 0x20000) % 32) v, d)
  else r
/-- A write of the remap table that is refused (R387). -/
def writeRefused (x : Nat × Nat) : Bool := decide (0x10000 ≤ x.1) && decide (x.1 < 0x10000 + 2048) && !remapEntryOk (BitVec.ofNat 32 x.2)
/-- The 32-bit writes of a message. -/
def regWords (off width : Nat) (data : Nat) : List (Nat × Nat) := (off, data % 2 ^ 32) :: if width = 8 then [(off + 4, data / 2 ^ 32 % 2 ^ 32)] else []
/-- REG_WRITE (R444): the reply goes out on the port of the request, then the write takes effect (R445). Before READY only COLD is carried out (R436). -/
def regWrites (h : HostTag) (off width data : Nat) (P : Platform) (d : Device) : Platform × Device :=
  if !portNamed P h then (P, d)
  else if P.start != .ready && !(off == 0x08 && regAligned off width && data % 2 ^ 32 == 2) then (P, replyTo d h 1 [])
  else if !regAligned off width then (P, replyTo d h 2 [])
  else
    let ws := if P.start = .ready then regWords off width data else [(0x08, 2)]
    ws.foldl writeWord (P, replyTo d h (if ws.any writeRefused then 2 else 0) [])
/-- REG_WRITE (R444). -/
def execRegWrite (h : HostTag) (off : DWord) (width : Word) (data : DWord) (s : State) := runPlatform s (regWrites h off.toNat width.toNat data.toNat)
/-- WARM (R437): a write of 1 to START_CMD. -/
def execWarmStart (h : HostTag) (s : State) := runPlatform s (regWrites h 0x08 4 1)
/-- COLD (R436): a write of 2 to START_CMD, in any state. -/
def execColdStart (h : HostTag) (s : State) := runPlatform s (regWrites h 0x08 4 2)
/-- FW_COMMIT (R439): a write of 3 to START_CMD. -/
def execFwCommit (h : HostTag) (s : State) := runPlatform s (regWrites h 0x08 4 3)
/-- A write of MON_CTL that has a bit set. -/
def monWrite (bit : Nat) (h : HostTag) (bits : Word) (s : State) : Host.Outcome State Fault Refusal := runPlatform s fun P d => if bits.getLsbD bit then regWrites h 0x40 4 bits.toNat P d else (P, d)
/-- START (R448). -/
def execMonStart (h : HostTag) (bits : Word) (s : State) := monWrite 0 h bits s
/-- STOP (R448). -/
def execMonStop (h : HostTag) (bits : Word) (s : State) := monWrite 1 h bits s
/-- FREEZE (R448). -/
def execMonFreeze (h : HostTag) (bits : Word) (s : State) := monWrite 2 h bits s
/-- CLEAR (R448). -/
def execMonClear (h : HostTag) (bits : Word) (s : State) := monWrite 3 h bits s
/-- HOST_PORTS_WRITE (R445). -/
def execHostPortsWrite (h : HostTag) (data : Word) (s : State) := runPlatform s (regWrites h 0x10 4 data.toNat)
/-- REMAP_WRITE (R388): a write at the entry's offset, which names one entry by width 4 and two by width 8; that of an odd peer is not aligned (R443, log 23). -/
def execRemapWrite (h : HostTag) (peer : Nat) (data : RegData) (s : State) := runPlatform s fun P d => if peer < 512 then regWrites h (0x10000 + 4 * peer) data.width.toNat data.value.toNat P d else (P, d)
/-- RESMAP_WRITE (R428). -/
def execResmapWrite (h : HostTag) (entry off : Nat) (width : Word) (data : DWord) (s : State) :=
  runPlatform s fun P d => if entry < 256 && off < 32 then regWrites h (0x20000 + 32 * entry + off) width.toNat data.toNat P d else (P, d)

/-! Identity. -/

/-- IDENT (R436, R444): answered in every state. -/
def execIdentMessage (h : HostTag) (s : State) := runPlatform s fun P d => (P, if portNamed P h then replyTo d h 0 (identityRecord P) else d)
/-- The health record: 2048 bits as HEALTH reads (R442, R450). -/
def healthBytes (P : Platform) : List Byte := bytesOf 256 P.health.toNat
/-- The report but for its signature (R442, R444). -/
def reportBytes (P : Platform) (nonce : BitVec 256) : List Byte :=
  identityRecord P ++ bytesOf 32 nonce.toNat ++ bytesOf 32 P.fwDigest.toNat ++ sha256 (healthBytes P) ++ bytesOf 4 (startStat P) ++ bytesOf 4 0 ++ bytesOf 8 P.boots
/-- The report (R442); its signature is in the form of R439. -/
def report (P : Platform) (nonce : BitVec 256) : List Byte := let b := reportBytes P nonce; b ++ octets 384 (Config.sign (sha256 b)).toNat
/-- ATTEST (R442). -/
def execAttestMessage (h : HostTag) (nonce : BitVec 256) (s : State) := runPlatform s (whenReady h [] fun P d => (P, replyTo d h 0 (report P nonce)))

/-! Power. -/

/-- Package power of a sample, in hundredths of a watt (R446, R447). -/
def samplePower (m : RailSample) : Nat := 41 * m.core + 105 * m.memory + 75 * m.fabric
/-- POWER_SAMPLE (R447, R448): one sample of every microsecond. -/
def powerSampled (m : RailSample) (P : Platform) (d : Device) : Platform × Device :=
  let w := samplePower m
  let sums := (P.powerSums ++ [w]).drop (P.powerSums.length - 9)
  let above := (sums.length == 10 && decide (P.pwrLimit.toNat * 100 * 10 < sums.sum)) || decide (7500 < m.core)
  let due := match P.roseAt with | some t => decide (t + micros 10 ≤ d.time) | none => true
  let rise := above && due && decide (P.level < 5)
  let low := decide (w * 100 < P.pwrLimit.toNat * 100 * 95)
  let P' := { P with powerSums := sums, level := if rise then P.level + 1 else P.level, roseAt := if rise then some d.time else P.roseAt, lowSince := if low then P.lowSince <|> some d.time else none }
  (P', ((d.monNote P 8 m.core).monNote P 9 m.memory).monNote P 10 m.fabric)
/-- POWER_SAMPLE (R447). -/
def execPowerSample (m : RailSample) (s : State) := runPlatform s (powerSampled m)
/-- LEVEL_FALL (R447): after 1 ms below 95 % of the limit. -/
def levelFalls (P : Platform) (d : Device) : Platform × Device :=
  match P.lowSince with
  | some t => if t + micros 1000 ≤ d.time && 0 < P.level then ({ P with level := P.level - 1, lowSince := some d.time }, d) else (P, d)
  | none => (P, d)
/-- LEVEL_FALL (R447). -/
def execLevelFall (s : State) := runPlatform s levelFalls

end Sys2Proof.Machine
end

