-- ==== Sys2Proof/Machine/Dispatch.lean ====
section
/-! DEFINITION. The dispatch: one arm for each instruction and event, in the order of the opcode table. -/

namespace Sys2Proof.Machine
open Sys2Proof

/-- What an instruction or event does. -/
def exec (i : Instr) (s : State) : Host.Outcome State Fault Refusal :=
  match i with
  | .nop => Sys2Proof.Machine.execNop s
  | .brk x0 x1 => Sys2Proof.Machine.execBrk x0 x1 s
  | .addI32Short x0 => Sys2Proof.Machine.execAddI32Short x0 s
  | .subI32Short x0 => Sys2Proof.Machine.execSubI32Short x0 s
  | .andB32Short x0 => Sys2Proof.Machine.execAndB32Short x0 s
  | .orB32Short x0 => Sys2Proof.Machine.execOrB32Short x0 s
  | .xorB32Short x0 => Sys2Proof.Machine.execXorB32Short x0 s
  | .movB32Short x0 x1 => Sys2Proof.Machine.execMovB32Short x0 x1 s
  | .addF32Short x0 => Sys2Proof.Machine.execAddF32Short x0 s
  | .mulF32Short x0 => Sys2Proof.Machine.execMulF32Short x0 s
  | .shlB32Short x0 => Sys2Proof.Machine.execShlB32Short x0 s
  | .shrB32Short x0 => Sys2Proof.Machine.execShrB32Short x0 s
  | .haltShort => Sys2Proof.Machine.execHaltShort s
  | .retShort => Sys2Proof.Machine.execRetShort s
  | .yieldShort => Sys2Proof.Machine.execYieldShort s
  | .add x0 => Sys2Proof.Machine.execAdd x0 s
  | .sub x0 => Sys2Proof.Machine.execSub x0 s
  | .mul x0 => Sys2Proof.Machine.execMul x0 s
  | .mulhi x0 => Sys2Proof.Machine.execMulhi x0 s
  | .mad x0 => Sys2Proof.Machine.execMad x0 s
  | .divstep x0 => Sys2Proof.Machine.execDivstep x0 s
  | .min x0 => Sys2Proof.Machine.execMin x0 s
  | .max x0 => Sys2Proof.Machine.execMax x0 s
  | .abs x0 => Sys2Proof.Machine.execAbs x0 s
  | .neg x0 => Sys2Proof.Machine.execNeg x0 s
  | .addc x0 x1 => Sys2Proof.Machine.execAddc x0 x1 s
  | .subb x0 x1 => Sys2Proof.Machine.execSubb x0 x1 s
  | .lut3 x0 => Sys2Proof.Machine.execLut3 x0 s
  | .shl x0 => Sys2Proof.Machine.execShl x0 s
  | .shr x0 => Sys2Proof.Machine.execShr x0 s
  | .sra x0 => Sys2Proof.Machine.execSra x0 s
  | .rot x0 => Sys2Proof.Machine.execRot x0 s
  | .popc x0 => Sys2Proof.Machine.execPopc x0 s
  | .clz x0 => Sys2Proof.Machine.execClz x0 s
  | .bfe x0 => Sys2Proof.Machine.execBfe x0 s
  | .bfi x0 => Sys2Proof.Machine.execBfi x0 s
  | .brev x0 => Sys2Proof.Machine.execBrev x0 s
  | .bperm x0 => Sys2Proof.Machine.execBperm x0 s
  | .fma x0 => Sys2Proof.Machine.execFma x0 s
  | .rcp x0 => Sys2Proof.Machine.execRcp x0 s
  | .rsq x0 => Sys2Proof.Machine.execRsq x0 s
  | .sqrt x0 => Sys2Proof.Machine.execSqrt x0 s
  | .exp2 x0 => Sys2Proof.Machine.execExp2 x0 s
  | .log2 x0 => Sys2Proof.Machine.execLog2 x0 s
  | .tanh x0 => Sys2Proof.Machine.execTanh x0 s
  | .cvt x0 x1 x2 => Sys2Proof.Machine.execCvt x0 x1 x2 s
  | .cvtPk x0 x1 => Sys2Proof.Machine.execCvtPk x0 x1 s
  | .bsPack x0 => Sys2Proof.Machine.execBsPack x0 s
  | .bsUnpack x0 => Sys2Proof.Machine.execBsUnpack x0 s
  | .cmp x0 => Sys2Proof.Machine.execCmp x0 s
  | .sel x0 x1 => Sys2Proof.Machine.execSel x0 x1 s
  | .classOf x0 => Sys2Proof.Machine.execClassOf x0 s
  | .shflIdx x0 => Sys2Proof.Machine.execShflIdx x0 s
  | .shflUp x0 => Sys2Proof.Machine.execShflUp x0 s
  | .shflDn x0 => Sys2Proof.Machine.execShflDn x0 s
  | .shflXor x0 => Sys2Proof.Machine.execShflXor x0 s
  | .scan x0 => Sys2Proof.Machine.execScan x0 s
  | .scanx x0 => Sys2Proof.Machine.execScanx x0 s
  | .rdc x0 => Sys2Proof.Machine.execRdc x0 s
  | .sort x0 x1 => Sys2Proof.Machine.execSort x0 x1 s
  | .vote x0 x1 x2 x3 => Sys2Proof.Machine.execVote x0 x1 x2 x3 s
  | .ballot x0 x1 x2 x3 => Sys2Proof.Machine.execBallot x0 x1 x2 x3 s
  | .rnd x0 x1 x2 x3 x4 => Sys2Proof.Machine.execRnd x0 x1 x2 x3 x4 s
  | .mov x0 => Sys2Proof.Machine.execMov x0 s
  | .rdlane x0 => Sys2Proof.Machine.execRdlane x0 s
  | .wrlane x0 => Sys2Proof.Machine.execWrlane x0 s
  | .plog x0 => Sys2Proof.Machine.execPlog x0 s
  | .ptov x0 x1 x2 x3 => Sys2Proof.Machine.execPtov x0 x1 x2 x3 s
  | .vtop x0 x1 x2 => Sys2Proof.Machine.execVtop x0 x1 x2 s
  | .ld x0 => Sys2Proof.Machine.execLd x0 s
  | .st x0 => Sys2Proof.Machine.execSt x0 s
  | .ldSp x0 => Sys2Proof.Machine.execLdSp x0 s
  | .stSp x0 => Sys2Proof.Machine.execStSp x0 s
  | .ldVer x0 => Sys2Proof.Machine.execLdVer x0 s
  | .stVer x0 => Sys2Proof.Machine.execStVer x0 s
  | .sealVer x0 x1 => Sys2Proof.Machine.execSealVer x0 x1 s
  | .ldRag x0 => Sys2Proof.Machine.execLdRag x0 s
  | .atom x0 => Sys2Proof.Machine.execAtom x0 s
  | .red x0 => Sys2Proof.Machine.execRed x0 s
  | .redAddCf32 x0 => Sys2Proof.Machine.execRedAddCf32 x0 s
  | .lk x0 => Sys2Proof.Machine.execLk x0 s
  | .lktry x0 => Sys2Proof.Machine.execLktry x0 s
  | .unlk x0 => Sys2Proof.Machine.execUnlk x0 s
  | .fence x0 x1 => Sys2Proof.Machine.execFence x0 x1 s
  | .bar => Sys2Proof.Machine.execBar s
  | .barWait => Sys2Proof.Machine.execBarWait s
  | .arriveN x0 => Sys2Proof.Machine.execArriveN x0 s
  | .arriveNNw x0 => Sys2Proof.Machine.execArriveNNw x0 s
  | .waitCtr x0 x1 x2 x3 => Sys2Proof.Machine.execWaitCtr x0 x1 x2 x3 s
  | .post x0 x1 x2 x3 => Sys2Proof.Machine.execPost x0 x1 x2 x3 s
  | .dcnt x0 x1 x2 => Sys2Proof.Machine.execDcnt x0 x1 x2 s
  | .raLd x0 => Sys2Proof.Machine.execRaLd x0 s
  | .raSt x0 => Sys2Proof.Machine.execRaSt x0 s
  | .raAtom x0 => Sys2Proof.Machine.execRaAtom x0 s
  | .raRed x0 => Sys2Proof.Machine.execRaRed x0 s
  | .rst x0 x1 x2 x3 => Sys2Proof.Machine.execRst x0 x1 x2 x3 s
  | .hold x0 x1 => Sys2Proof.Machine.execHold x0 x1 s
  | .nameGet x0 => Sys2Proof.Machine.execNameGet x0 s
  | .nameFree => Sys2Proof.Machine.execNameFree s
  | .mres x0 x1 => Sys2Proof.Machine.execMres x0 x1 s
  | .mrel x0 => Sys2Proof.Machine.execMrel x0 s
  | .mma x0 => Sys2Proof.Machine.execMma x0 s
  | .accLd x0 => Sys2Proof.Machine.execAccLd x0 s
  | .accSt x0 => Sys2Proof.Machine.execAccSt x0 s
  | .accZero x0 x1 => Sys2Proof.Machine.execAccZero x0 x1 s
  | .accMovToVec x0 => Sys2Proof.Machine.execAccMovToVec x0 s
  | .accMovToTile x0 => Sys2Proof.Machine.execAccMovToTile x0 s
  | .osmUpd x0 => Sys2Proof.Machine.execOsmUpd x0 s
  | .osmFin x0 x1 x2 x3 => Sys2Proof.Machine.execOsmFin x0 x1 x2 x3 s
  | .ragRdc x0 => Sys2Proof.Machine.execRagRdc x0 s
  | .ragNorm x0 => Sys2Proof.Machine.execRagNorm x0 s
  | .shLd x0 x1 => Sys2Proof.Machine.execShLd x0 x1 s
  | .shChk x0 x1 => Sys2Proof.Machine.execShChk x0 x1 s
  | .cp x0 => Sys2Proof.Machine.execCp x0 s
  | .cpGather x0 => Sys2Proof.Machine.execCpGather x0 s
  | .tlRd x0 x1 => Sys2Proof.Machine.execTlRd x0 x1 s
  | .tlRdErr x0 x1 => Sys2Proof.Machine.execTlRdErr x0 x1 s
  | .tlWait x0 x1 => Sys2Proof.Machine.execTlWait x0 x1 s
  | .collPut x0 x1 x2 => Sys2Proof.Machine.execCollPut x0 x1 x2 s
  | .collQuorum x0 x1 => Sys2Proof.Machine.execCollQuorum x0 x1 s
  | .collClose x0 x1 => Sys2Proof.Machine.execCollClose x0 x1 s
  | .collGet x0 x1 x2 x3 => Sys2Proof.Machine.execCollGet x0 x1 x2 x3 s
  | .stepAdv x0 x1 => Sys2Proof.Machine.execStepAdv x0 x1 s
  | .stepRd x0 x1 => Sys2Proof.Machine.execStepRd x0 x1 s
  | .hcmd x0 x1 => Sys2Proof.Machine.execHcmd x0 x1 s
  | .take x0 x1 => Sys2Proof.Machine.execTake x0 x1 s
  | .steal x0 => Sys2Proof.Machine.execSteal x0 s
  | .gwLaunch x0 x1 => Sys2Proof.Machine.execGwLaunch x0 x1 s
  | .mig x0 x1 => Sys2Proof.Machine.execMig x0 x1 s
  | .migNear x0 x1 => Sys2Proof.Machine.execMigNear x0 x1 s
  | .sysRd x0 x1 => Sys2Proof.Machine.execSysRd x0 x1 s
  | .sysWr x0 x1 => Sys2Proof.Machine.execSysWr x0 x1 s
  | .trapCode x0 => Sys2Proof.Machine.execTrapCode x0 s
  | .bra x0 x1 x2 => Sys2Proof.Machine.execBra x0 x1 x2 s
  | .brd x0 x1 x2 => Sys2Proof.Machine.execBrd x0 x1 x2 s
  | .mergeWait => Sys2Proof.Machine.execMergeWait s
  | .call x0 x1 => Sys2Proof.Machine.execCall x0 x1 s
  | .ret x0 => Sys2Proof.Machine.execRet x0 s
  | .jmp x0 x1 => Sys2Proof.Machine.execJmp x0 x1 s
  | .rgn x0 => Sys2Proof.Machine.execRgn x0 s
  | .xacq x0 => Sys2Proof.Machine.execXacq x0 s
  | .xrel x0 => Sys2Proof.Machine.execXrel x0 s
  | .halt x0 => Sys2Proof.Machine.execHalt x0 s
  | .yield => Sys2Proof.Machine.execYield s
  | .pendingTrapTake x0 => Sys2Proof.Machine.execPendingTrapTake x0 s
  | .trapActResume => Sys2Proof.Machine.execTrapActResume s
  | .trapActSkip => Sys2Proof.Machine.execTrapActSkip s
  | .trapActHalt => Sys2Proof.Machine.execTrapActHalt s
  | .xltInv x0 => Sys2Proof.Machine.execXltInv x0 s
  | .dbgIflush x0 => Sys2Proof.Machine.execDbgIflush x0 s
  | .ctlLeadWrite x0 => Sys2Proof.Machine.execCtlLeadWrite x0 s
  | .sbMemWrite x0 x1 => Sys2Proof.Machine.execSbMemWrite x0 x1 s
  | .decrementArrival x0 => Sys2Proof.Machine.execDecrementArrival x0 s
  | .waitDeadline x0 => Sys2Proof.Machine.execWaitDeadline x0 s
  | .taskStart x0 => Sys2Proof.Machine.execTaskStart x0 s
  | .swapGroups x0 x1 => Sys2Proof.Machine.execSwapGroups x0 x1 s
  | .pendingMove x0 x1 => Sys2Proof.Machine.execPendingMove x0 x1 s
  | .agedPendingSwap x0 x1 => Sys2Proof.Machine.execAgedPendingSwap x0 x1 s
  | .splitMerge x0 => Sys2Proof.Machine.execSplitMerge x0 s
  | .deferralStep x0 x1 => Sys2Proof.Machine.execDeferralStep x0 x1 s
  | .operationComplete x0 x1 => Sys2Proof.Machine.execOperationComplete x0 x1 s
  | .storeSend x0 => Sys2Proof.Machine.execStoreSend x0 s
  | .storeAck x0 x1 => Sys2Proof.Machine.execStoreAck x0 x1 s
  | .groupExit x0 => Sys2Proof.Machine.execGroupExit x0 s
  | .migrationArrival x0 => Sys2Proof.Machine.execMigrationArrival x0 s
  | .noticeArrival x0 x1 => Sys2Proof.Machine.execNoticeArrival x0 x1 s
  | .homeWriteMessage x0 x1 => Sys2Proof.Machine.execHomeWriteMessage x0 x1 s
  | .atomicService x0 => Sys2Proof.Machine.execAtomicService x0 s
  | .lockRequest x0 => Sys2Proof.Machine.execLockRequest x0 s
  | .lockResend x0 => Sys2Proof.Machine.execLockResend x0 s
  | .lockRelease x0 => Sys2Proof.Machine.execLockRelease x0 s
  | .lockDeadline x0 => Sys2Proof.Machine.execLockDeadline x0 s
  | .versionStore x0 => Sys2Proof.Machine.execVersionStore x0 s
  | .slotFill x0 => Sys2Proof.Machine.execSlotFill x0 s
  | .versionSeal x0 => Sys2Proof.Machine.execVersionSeal x0 s
  | .versionLoad x0 => Sys2Proof.Machine.execVersionLoad x0 s
  | .stalenessTimeout x0 => Sys2Proof.Machine.execStalenessTimeout x0 s
  | .collapsePage x0 => Sys2Proof.Machine.execCollapsePage x0 s
  | .translationMiss x0 => Sys2Proof.Machine.execTranslationMiss x0 s
  | .walkComplete x0 => Sys2Proof.Machine.execWalkComplete x0 s
  | .rewalk x0 => Sys2Proof.Machine.execRewalk x0 s
  | .missTimeout x0 => Sys2Proof.Machine.execMissTimeout x0 s
  | .fatalFault x0 => Sys2Proof.Machine.execFatalFault x0 s
  | .dumpSection x0 => Sys2Proof.Machine.execDumpSection x0 s
  | .cancelGraceExpiry x0 => Sys2Proof.Machine.execCancelGraceExpiry x0 s
  | .cancelDiscarding x0 => Sys2Proof.Machine.execCancelDiscarding x0 s
  | .teamPlace => Sys2Proof.Machine.execTeamPlace s
  | .teamRestore => Sys2Proof.Machine.execTeamRestore s
  | .displacementStart => Sys2Proof.Machine.execDisplacementStart s
  | .swapOut x0 => Sys2Proof.Machine.execSwapOut x0 s
  | .quantumExpiry x0 => Sys2Proof.Machine.execQuantumExpiry x0 s
  | .ageLimitExpiry x0 => Sys2Proof.Machine.execAgeLimitExpiry x0 s
  | .phaseStart x0 => Sys2Proof.Machine.execPhaseStart x0 s
  | .graphSubmit => Sys2Proof.Machine.execGraphSubmit s
  | .conditionRead x0 => Sys2Proof.Machine.execConditionRead x0 s
  | .grabMessage x0 => Sys2Proof.Machine.execGrabMessage x0 s
  | .rangeReply x0 => Sys2Proof.Machine.execRangeReply x0 s
  | .emptyPool x0 => Sys2Proof.Machine.execEmptyPool x0 s
  | .stealMessage x0 => Sys2Proof.Machine.execStealMessage x0 s
  | .giveReply x0 => Sys2Proof.Machine.execGiveReply x0 s
  | .noneReply x0 => Sys2Proof.Machine.execNoneReply x0 s
  | .dryMessage x0 => Sys2Proof.Machine.execDryMessage x0 s
  | .rstArrival x0 => Sys2Proof.Machine.execRstArrival x0 s
  | .remoteRequest x0 => Sys2Proof.Machine.execRemoteRequest x0 s
  | .remoteResponse x0 => Sys2Proof.Machine.execRemoteResponse x0 s
  | .requestTimeout x0 => Sys2Proof.Machine.execRequestTimeout x0 s
  | .isolatedExpiry x0 => Sys2Proof.Machine.execIsolatedExpiry x0 s
  | .probeSend x0 => Sys2Proof.Machine.execProbeSend x0 s
  | .probeAnswer x0 => Sys2Proof.Machine.execProbeAnswer x0 s
  | .probeTimeout x0 => Sys2Proof.Machine.execProbeTimeout x0 s
  | .flitCrcFail x0 x1 => Sys2Proof.Machine.execFlitCrcFail x0 x1 s
  | .channelRetrained x0 x1 => Sys2Proof.Machine.execChannelRetrained x0 x1 s
  | .sideboardSend x0 => Sys2Proof.Machine.execSideboardSend x0 s
  | .sideboardReceipt x0 x1 x2 => Sys2Proof.Machine.execSideboardReceipt x0 x1 x2 s
  | .silenceTimeout x0 x1 => Sys2Proof.Machine.execSilenceTimeout x0 x1 s
  | .contributionSend x0 => Sys2Proof.Machine.execContributionSend x0 s
  | .contributionArrival x0 => Sys2Proof.Machine.execContributionArrival x0 s
  | .closeTimerExpiry x0 => Sys2Proof.Machine.execCloseTimerExpiry x0 s
  | .resultArrival x0 => Sys2Proof.Machine.execResultArrival x0 s
  | .collGetLost x0 x1 => Sys2Proof.Machine.execCollGetLost x0 x1 s
  | .resend x0 => Sys2Proof.Machine.execResend x0 s
  | .copyComplete x0 => Sys2Proof.Machine.execCopyComplete x0 s
  | .hutchEnqueue x0 => Sys2Proof.Machine.execHutchEnqueue x0 s
  | .hutchFupd x0 => Sys2Proof.Machine.execHutchFupd x0 s
  | .hutchScale x0 => Sys2Proof.Machine.execHutchScale x0 s
  | .hutchFade x0 => Sys2Proof.Machine.execHutchFade x0 s
  | .hutchCopy x0 => Sys2Proof.Machine.execHutchCopy x0 s
  | .hutchCksum x0 => Sys2Proof.Machine.execHutchCksum x0 s
  | .mirrorSend => Sys2Proof.Machine.execMirrorSend s
  | .mirrorArrival x0 => Sys2Proof.Machine.execMirrorArrival x0 s
  | .snapshotWrite => Sys2Proof.Machine.execSnapshotWrite s
  | .fillPages x0 => Sys2Proof.Machine.execFillPages x0 s
  | .admitJob x0 x1 => Sys2Proof.Machine.execAdmitJob x0 x1 s
  | .hostWrite x0 x1 x2 x3 => Sys2Proof.Machine.execHostWrite x0 x1 x2 x3 s
  | .appendPhase x0 x1 x2 => Sys2Proof.Machine.execAppendPhase x0 x1 x2 s
  | .cancelObject x0 x1 x2 x3 => Sys2Proof.Machine.execCancelObject x0 x1 x2 x3 s
  | .retireJob x0 x1 => Sys2Proof.Machine.execRetireJob x0 x1 s
  | .regRead x0 x1 x2 => Sys2Proof.Machine.execRegRead x0 x1 x2 s
  | .regWrite x0 x1 x2 x3 => Sys2Proof.Machine.execRegWrite x0 x1 x2 x3 s
  | .identMessage x0 => Sys2Proof.Machine.execIdentMessage x0 s
  | .attestMessage x0 x1 => Sys2Proof.Machine.execAttestMessage x0 x1 s
  | .storeReply x0 => Sys2Proof.Machine.execStoreReply x0 s
  | .warmStart x0 => Sys2Proof.Machine.execWarmStart x0 s
  | .coldStart x0 => Sys2Proof.Machine.execColdStart x0 s
  | .fwCommit x0 => Sys2Proof.Machine.execFwCommit x0 s
  | .monStart x0 x1 => Sys2Proof.Machine.execMonStart x0 x1 s
  | .monStop x0 x1 => Sys2Proof.Machine.execMonStop x0 x1 s
  | .monFreeze x0 x1 => Sys2Proof.Machine.execMonFreeze x0 x1 s
  | .monClear x0 x1 => Sys2Proof.Machine.execMonClear x0 x1 s
  | .hostPortsWrite x0 x1 => Sys2Proof.Machine.execHostPortsWrite x0 x1 s
  | .remapWrite x0 x1 x2 => Sys2Proof.Machine.execRemapWrite x0 x1 x2 s
  | .resmapWrite x0 x1 x2 x3 x4 => Sys2Proof.Machine.execResmapWrite x0 x1 x2 x3 x4 s
  | .powerOn => Sys2Proof.Machine.execPowerOn s
  | .fuseDone => Sys2Proof.Machine.execFuseDone s
  | .signDone x0 => Sys2Proof.Machine.execSignDone x0 s
  | .hbmDone x0 => Sys2Proof.Machine.execHbmDone x0 s
  | .bistDone x0 => Sys2Proof.Machine.execBistDone x0 s
  | .fabricDone x0 => Sys2Proof.Machine.execFabricDone x0 s
  | .powerSample x0 => Sys2Proof.Machine.execPowerSample x0 s
  | .levelFall => Sys2Proof.Machine.execLevelFall s
  | .creditGrant x0 x1 => Sys2Proof.Machine.execCreditGrant x0 x1 s
  | .noticeAcknowledgement x0 x1 => Sys2Proof.Machine.execNoticeAcknowledgement x0 x1 s
  | .probeReceipt x0 => Sys2Proof.Machine.execProbeReceipt x0 s
  | .identityRecordArrival x0 x1 => Sys2Proof.Machine.execIdentityRecordArrival x0 x1 s
  | .holdCopyRead x0 => Sys2Proof.Machine.execHoldCopyRead x0 s
  | .reservedHostMessage x0 x1 x2 => Sys2Proof.Machine.execReservedHostMessage x0 x1 x2 s

end Sys2Proof.Machine
end

