-- ==== Sys2Proof/Machine/Messages.lean ====
section
/-! DEFINITION. Host messages as bytes (R443, R444): the 16-byte header with its payload, as one leaves and as one comes in. -/

namespace Sys2Proof.Machine
open Sys2Proof

/-- The bytes of a message that leaves (R443). -/
def HostMsg.bytes (m : HostMsg) : List Byte := bytesOf 1 m.kind ++ bytesOf 1 m.status ++ bytesOf 2 0 ++ bytesOf 4 m.payload.length ++ bytesOf 8 m.tag.toNat ++ m.payload
/-- A w64 of a payload, none where it ends before. -/
def word64 (p : List Byte) (at_ : Nat) : Option DWord := if p.length < at_ + 8 then none else some (BitVec.ofNat 64 (field p at_ 8))
/-- A HOST_CMD (R338, R443): the code in byte 0, then each operand, then record bytes. One cut short of its operands is no command (log 111); a level that CANCEL does not have names no object. -/
def takeCommand (h : HostTag) (p : List Byte) (s : State) : Host.Outcome State Fault Refusal :=
  let code := field p 0 1
  match code with
  | 0 => if p.length < 72 then .next s else execAdmitJob h ((p.drop 8).take 64) s
  | 1 => match word64 p 8, word64 p 16 with
    | some job, some va => execHostWrite h job.toNat va (p.drop 24) s
    | _, _ => .next s
  | 2 => match word64 p 8, word64 p 16 with
    | some job, some va => execAppendPhase h job.toNat va s
    | _, _ => .next s
  | 3 => match word64 p 8, word64 p 16, word64 p 24 with
    | some job, some level, some va => match level.toNat with
      | 0 => execCancelObject h job.toNat .launch va s
      | 1 => execCancelObject h job.toNat .graph va s
      | 2 => execCancelObject h job.toNat .phase va s
      | 3 => execCancelObject h job.toNat .job va s
      | _ => execCancelObject h (2 ^ 64) .job va s
    | _, _, _ => .next s
  | 4 => match word64 p 8 with
    | some job => execRetireJob h job.toNat s
    | none => .next s
  | _ => execReservedHostMessage h 0 code s
/-- A message comes in on a port and is carried out (R443, R444). One that is cut short, and the kinds that only the device sends, are nothing (log 111). -/
def takeMessage (port : Nat) (bs : List Byte) (s : State) : Host.Outcome State Fault Refusal :=
  let h : HostTag := { port, tag := BitVec.ofNat 64 (field bs 8 8) }
  let p := (bs.drop 16).take (field bs 4 4)
  let off := BitVec.ofNat 64 (field p 0 8)
  let width := BitVec.ofNat 32 (field p 8 4)
  if bs.length < 16 + field bs 4 4 then .next s
  else match field bs 0 1 with
    | 0 => if p.isEmpty then .next s else takeCommand h p s
    | 1 => if p.length < 12 then .next s else execRegRead h off width s
    | 2 => if p.length < 12 then .next s else execRegWrite h off width (BitVec.ofNat 64 (field p 12 8)) s
    | 3 => execStoreReply { port, offset := h.tag, read := !p.isEmpty, bytes := p.drop 8 } s
    | 4 | 5 | 6 => .next s
    | 7 => execIdentMessage h s
    | 8 => if p.length < 32 then .next s else execAttestMessage h (BitVec.ofNat 256 (field p 0 32)) s
    | 9 => if p.length < 8 then .next s else execFillPages (.command h (field p 0 4) (field p 4 4)) s
    | kind => execReservedHostMessage h kind (field p 0 1) s

end Sys2Proof.Machine
end

