-- ==== Sys2Proof/Machine/Sweep.lean ====
section
/-! DEFINITION. What follows every step inside the device, without an instruction or event of its own: remote requests served here, releases and handed effects go on, requests to peers are sent or fail, collective results and index ranges reach those that wait, closing teams halt, the fatal path of a halted team goes on, forwarding entries that have served leave, splits that wait for one another take the merge-mismatch trap, the images of swapped teams follow what happens to their records, and the scheduler follows its queues. -/

namespace Sys2Proof.Machine

/-- A split waits under R184 or R185. -/
def mergeHeld (g : Group) (e : Nat × Split) : Bool := holdsTop g e.1 e.2 || holdsMerge g e.1 e.2
/-- A merge or a step at a merge point is due in a group (R38, R39). -/
def moveDue (g : Group) : Bool := (mergePair g).isSome || g.splits.any fun e => deferralDue g e.1 e.2
/-- The split of a group that began waiting last, when all wait at different addresses and none of them merges or goes on by itself (R185). -/
def mismatched (g : Group) : Option (Nat × Split) :=
  let ls := liveSplits g
  match ls with
  | [] => none
  | e :: rest =>
    if g.state == .live && !moveDue g && ls.all (mergeHeld g) && rest.any (fun f => f.2.pc != e.2.pc) then
      some (rest.foldl (fun b f => if b.2.waitSince ≤ f.2.waitSince then f else b) e)
    else none
/-- Takes the merge-mismatch traps that are due (R185). -/
def mismatchSweep (P : Platform) (d : Device) : Device :=
  (Tbl.vals d.groups).foldl (fun d g => match mismatched g with
    | some (k, sp) =>
      let d := d.modGroup g.id fun g => modSplit g k fun sp => { sp with waitOver := true, mergeWait := false }
      takeException P d g.id { split := k, pc := sp.pc, index := 0, lanes := sp.mask } (Exc.of .mergeMismatch)
    | none => d) d
/-- The fatal paths that have somewhere to go (R375). -/
def fatalSweep (P : Platform) (d : Device) : Device := ((Tbl.vals d.teams).filter fun t => t.state == .fatal && t.stopped).foldl (fun d t => fatalGoesOn P d t.id) d
/-- Samples of one source, as many as a count says, each of a free value. -/
def sampleTimes (P : Platform) (source : Nat) : Nat → Device → Device
  | 0, d => d
  | n + 1, d => let r := d.free; sampleTimes P source n (r.2.monNote P source (r.1.toNat % 2 ^ 32))
/-- The samples of a step whose times nothing in the model decides: L2 requests, stack reads, and round trips of classes 1 and 3 (R448, log 10). -/
def freeSamples (P : Platform) (d : Device) : Device :=
  if P.monRunning then [0, 1, 3, 5].foldl (fun d i => let r := d.free; sampleTimes P i (r.1.toNat % 2 ^ 16) r.2) d else d
/-- All of it. -/
def sweep (P : Platform) (d : Device) : Device := schedSweep P (imagesFollow P (mismatchSweep P (settleForwards (fatalSweep P (closeSweep (serveTakes (settleGets P (settlePeers P (pumpAll P (serveAll P d))))))))))

end Sys2Proof.Machine
end

