-- ==== Sys2Proof/Machine/Step.lean ====
section
/-! DEFINITION. The step: whose move it is, a split's entry into its clause and the issue of its instruction, or an event; then what follows inside the device, and time (log 2, log 5). -/

namespace Sys2Proof.Machine
open Sys2Proof

/-- After a move: what follows of itself, the clock and the time at the power level (R447), the next turn. -/
def State.finish (s : State) : State :=
  let d := freeSamples s.plat (sweep s.plat s.dev)
  let n := Config.elapse s.tick
  { s with dev := { d with clock := d.clock + n, time := d.time + n * clockTime s.plat.level }, turn := .free, tick := s.tick + 1 }
/-- Finishes the outcome of a move. -/
def finishOutcome : Host.Outcome State Fault Refusal → Host.Outcome State Fault Refusal
  | .next s => .next s.finish
  | .fault f => .fault f
  | .refused r => .refused r

/-- At level 5 an instruction issues in one clock of two (R447). -/
def issueClock (P : Platform) (d : Device) : Bool := P.level != 5 || d.clock % 2 == 0
/-- The instruction of a split whose clause is checked: held by the clause's wait field, or issued (R108). -/
def issueStep (s : State) (gid k : Nat) (g : Group) (sp : Split) : Host.Outcome State Fault Refusal :=
  if sp.index = 0 && !waitClear g k (hdrWait sp.header) then .next { s with dev := markStall s.dev gid k .long }
  else match current sp with
    | some (i, _) => exec i { s with turn := .issue gid k }
    | none => .next s
/-- A split whose turn it is: it enters its clause where it has not yet, and issues (R122, R451). -/
def splitStep (s : State) (gid k : Nat) : Host.Outcome State Fault Refusal :=
  match Tbl.find s.dev.groups gid with
  | none => .next s
  | some g =>
    match splitOf g k with
    | none => .next s
    | some sp =>
      if !mayIssue s.dev g k sp || !issueClock s.plat s.dev then .next s
      else match sp.entry with
        | none => issueStep s gid k g sp
        | some _ =>
          let site : Site := { split := k, pc := sp.pc, index := sp.index, lanes := sp.mask }
          match enterClause s.plat s.dev g k sp with
          | .absent => .fault .absentAddress
          | .miss va idx d => .next { s with dev := markStall (sendMiss d g site idx none va .fetch) gid k .other }
          | .fault idx e => .next { s with dev := takeCheck s.plat s.dev gid site idx e }
          | .ok d =>
            match (Tbl.find d.groups gid).bind fun g => (splitOf g k).map fun sp => (g, sp) with
            | some (g, sp) => issueStep { s with dev := d } gid k g sp
            | none => .next { s with dev := d }

/-- The move of a step: the turn's, or the one nothing decides (log 2). -/
def State.move (s : State) : Move :=
  match s.turn with
  | .issue g k => .issue g k
  | .free => Config.nextMove s.tick
/-- One step of the machine. An instruction of code is never an event. -/
def step (s : State) : Host.Outcome State Fault Refusal :=
  match s.move with
  | .issue gid k => finishOutcome (splitStep s gid k)
  | .event i => if i.isCode then .next s.finish else finishOutcome (exec i s)
  | .message port bytes => finishOutcome (takeMessage port bytes s)

/-! Placing one instruction where the next step fetches it (log 4). -/

/-- The clause of one instruction: its header and its words. -/
def clauseFor (nbits w : Nat) : List Byte :=
  let i := decodeTableWord nbits w
  let cls := (i.bind (·.engineClass)).getD 0
  let seta := if (i.map (·.isLong)).getD false then 0 else 15
  bytesOf 4 (hdrOf 1 cls 0 seta 15).toNat ++ bytesOf 12 (w % 2 ^ nbits)
/-- The page the instruction is placed in: first 64 KiB of the job's space, at the bottom of stack 0. -/
def codeLeaf : Leaf := { base := 0, size := 65536, addr := 0, frame := none, attr := 0, r := true, w := true, x := true }
/-- A job for the placed instruction. -/
def placedJob : Job := { (default : Job) with number := 0, state := .running, grace := 10, stale := 16, age := 20 }
/-- `s` with an instruction stored where a split of a fresh group fetches it, and that split's turn, at a clock in which it may issue at every power level. It stands for the admission, the launch and the placement that bring a program into the device. -/
def State.withFetchWord (s : State) (nbits w : Nat) : State :=
  let d := s.dev.writeBytes 0 (clauseFor nbits w)
  let tid := d.nextId
  let t : Team := { newTeam tid { (default : Launch) with fields := [0, 0, 1, 1, 32, 26, 0, 0, 0, 1] } 0 0 with launch := none, state := .resident, quantum := 2 ^ 26, tls := List.replicate 16 Timeline.start }
  let d := { d with nextId := tid + 1, teams := Tbl.set d.teams tid t, jobs := if (d.job 0).isSome then d.jobs else Tbl.set d.jobs 0 placedJob }
  let d := (d.modJob 0 fun j => { j with codeOld := [] }).modCore 0 fun c => { c with xlat := fillLeaf c.xlat 64 0 codeLeaf, icache := c.icache.filter fun e => !(e.1 == 0 && e.2.1 == 0) }
  let gid := d.nextId
  let pos := (freePos d 0 0).headD 0
  let d := startGroup d { job := 0, team := tid, index := 0, task := false, core := 0, slot := 0, pos, lanes := BitVec.allOnes 32, entry := 0, s0 := 0, s2 := 0, step := 0 }
  { s with dev := { d with clock := d.clock + d.clock % 2 }, turn := .issue gid 0 }

end Sys2Proof.Machine
end

