-- ==== Sys2Proof/Safety.lean ====
section
/-! DEFINITION. The terms in which claims are stated: a good state, what software sees of a group, when a split can issue an instruction, and what an instruction that issues, starts an operation, begins a wait or jumps leaves behind. -/

namespace Sys2Proof.Machine
open Sys2Proof

/-! A good state. -/

/-- The power limit lies in the range a write may set (R450). -/
def powerOk (P : Platform) : Bool := decide (1000 ≤ P.pwrLimit.toNat) && decide (P.pwrLimit.toNat ≤ 3600)
/-- Each remap entry that is held passes the checks a write of it passes, and has no reserved bit (R2, R387). -/
def remapOk (P : Platform) : Bool := P.remap.all fun e => remapEntryOk e.2 && remapBits e.2 == e.2
/-- The two host ports differ (R444, R450). -/
def portsOk (P : Platform) : Bool := P.hostPorts.toNat % 8 != P.hostPorts.toNat / 8 % 8

/-! What software sees of a group. -/

/-- The registers of a group (INVENTORY.md, State): vector cells, held blocks, scalars, predicates, shapes, transient marks, holds, and its own control registers. -/
structure Regs where
  v : Cells Word
  h : Nat
  s : List DWord
  p : List Mask
  shapes : List (Option Snapshot)
  transients : Tbl Mask
  holds : List Hold
  rsKey : DWord
  rsCtr : DWord
  raFcnt : DWord
  raFlast : DWord
  stepCur : Word
  verLast : Word
  name : Word
  deriving DecidableEq, Repr

/-- The registers of a group. -/
def Group.regs (g : Group) : Regs :=
  { v := g.v, h := g.h, s := g.s, p := g.p, shapes := g.shapes, transients := g.transients, holds := g.holds, rsKey := g.rsKey, rsCtr := g.rsCtr, raFcnt := g.raFcnt, raFlast := g.raFlast, stepCur := g.stepCur, verLast := g.verLast, name := g.name }
/-- The registers of a group of the device. -/
def regsOf (d : Device) (gid : Nat) : Option Regs := (Tbl.find d.groups gid).map Group.regs
/-- The registers of a group after a result has been produced for one of its splits (R78, R79, R83). -/
def Group.landed (g : Group) (k : Nat) (tr : Bool) (w : RegWrites) (rs : Nat) : Regs := { (produce g k tr w).regs with rsCtr := g.rsCtr + BitVec.ofNat 64 rs }
/-- Where a split stands: clause address and instruction index. -/
def standsAt (d : Device) (gid k : Nat) : Option (DWord × Nat) := (Tbl.find d.groups gid).bind fun g => (splitOf g k).map fun sp => (sp.pc, sp.index)
/-- Where the issuing split stands. -/
def Ctx.here (c : Ctx) : DWord × Nat := (c.sp.pc, c.sp.index)
/-- Where a split stands after its instruction: at the next one of its clause, or at the next clause (R104). -/
def Ctx.next (c : Ctx) : DWord × Nat := if c.sp.index + 1 < hdrCount c.sp.header then (c.sp.pc, c.sp.index + 1) else (nextClause c.sp, 0)
/-- An operation without the mark that its region has closed (R373). -/
def Op.unmarked (o : Op) : Op := { o with past := false }
/-- The operations of a group that have not completed, without the marks of regions that have closed. -/
def opsIn (d : Device) (gid : Nat) : Option (List Op) := (Tbl.find d.groups gid).map fun g => g.ops.map Op.unmarked
/-- What a group waits on. -/
def waitIn (d : Device) (gid : Nat) : Option WaitFor := (Tbl.find d.groups gid).bind (·.wait)

/-! When an instruction issues. -/

/-- The context of the split whose turn it is when nothing keeps it from issuing `i`: no stall of R107, R109, R211 or R355, no match register, no unheld or lost register, and no positive hold (R76, R79, R133, R284). -/
def ready (i : Instr) (gd : Option Guard) (s : State) : Option Ctx :=
  match s.turn with
  | .free => none
  | .issue gid k =>
    match ctxOf s.plat s.dev gid k gd with
    | none => none
    | some c => if (gate i c).isNone && (holdWait i c).isNone then some c else none
/-- Nothing of the group is on its way out, its team is not closing, and the split does not stand at an instruction that has issued for some of its lanes: a closing instruction issues in this step (R59, R127, R128, R278). -/
def Ctx.clear (c : Ctx) : Bool := c.sp.rest.isNone && c.g.effects.isEmpty && c.g.handed.isEmpty && c.g.releases.isEmpty && !closing c.d c.g && !c.g.splits.any fun e => e.2.gone
/-- An operation of a split whose region has closed. -/
def pastOp (k : Nat) (o : Op) : Op := if o.site.split == k then { o with past := true } else o
/-- A group whose split's region, which had nothing to hand over, has closed, with a new one open at its place (R128). -/
def Group.reopened (clock k : Nat) (g : Group) : Group := modSplit { g with ops := g.ops.map (pastOp k) } k fun sp => { sp with region := wholeRegion clock g sp }
/-- The context of a closing instruction once its region, which has nothing to hand over, has closed and a new one is open at it (R128). -/
def Ctx.reopened (c : Ctx) : Ctx := { c with d := c.d.modGroup c.gid (Group.reopened c.d.clock c.k), g := c.g.reopened c.d.clock c.k, sp := { c.sp with region := wholeRegion c.d.clock c.g c.sp } }
/-- The effect buffer has room for what the instruction puts into it (R126). -/
def room (i : Instr) (c : Ctx) : Bool := decide (c.g.effects.length + heldNeeds i c ≤ 32)

/-! When an access passes its checks. -/

/-- The access of a lane to an address, where the core's translations give it a frame (R371). -/
def Ctx.placeAt (c : Ctx) (acc : Access) (e : Nat × DWord) : Place :=
  match xlat c.d c.g acc e.2 with
  | .ok leaf pa => { lane := e.1, va := e.2, leaf, pa }
  | _ => default
/-- The accesses pass the checks of R237: bits 63:48 of each address are 0, it is a multiple of `align`, and a translation of the core grants the access on a page that has what the instruction asks of it (R239, R371). -/
def Ctx.passes (c : Ctx) (acc : Access) (align : Nat) (own : Leaf → Option ExcCode) (es : List (Nat × DWord)) : Bool :=
  es.all fun e => decide (e.2.toNat < 2 ^ 48) && decide (e.2.toNat % align = 0) && (match xlat c.d c.g acc e.2 with | .ok leaf _ => (own leaf).isNone | _ => false)
/-- The window accesses pass their checks: each offset is a multiple of the size and below W (R204, R237). -/
def Ctx.inWindow (c : Ctx) (n : Nat) (es : List (Nat × Nat)) : Bool := es.all fun e => decide (e.2 % n = 0) && decide (e.2 < c.team.windowSize)
/-- The lanes of a remote access pass their checks: bits 63:48 of the address are 0, it is a multiple of the size, and the peer is below 512 (R237, R277). -/
def Ctx.remotePasses (c : Ctx) (a : Reg) (off : MOff) (n : Nat) : Bool :=
  (lanesOf c.lanes).all fun l => decide ((remoteAddr c off l).toNat < 2 ^ 48) && decide ((remoteAddr c off l).toNat % n = 0) && decide (remotePeer c a l < 512)
/-- A line may be asked for: it is aligned, the group holds fewer than four, and for `lk` all of them lie below it; its page is neither versioned nor replicated and grants stores (R255). -/
def Ctx.mayLock (c : Ctx) (ordered : Bool) (va : DWord) : Bool :=
  decide (va.toNat % 64 = 0) && decide (c.g.locks.length < 4) && (!ordered || c.g.lockVas.all fun x => decide (x.2.toNat < va.toNat)) && c.passes .store 64 lockPage [(0, va)]
/-- The parts of ranges in ascending order of address (R291). -/
def spanParts (ss : List Span) : List Span := sortBy (fun x y => decide (x.va.toNat ≤ y.va.toNat)) (spanChunks ss)
/-- The ranges of an access of the tile fetch unit pass their checks (R237, R291). -/
def Ctx.rangesPass (c : Ctx) (acc : Access) (own : Leaf → Option ExcCode) (ss : List Span) : Bool := c.passes acc 1 own ((spanParts ss).map fun x => (x.lane.getD 0, x.va))
/-- The parts of ranges with their places. -/
def Ctx.rangesAt (c : Ctx) (acc : Access) (ss : List Span) : List (Span × Place) := (spanParts ss).map fun x => (x, c.placeAt acc (x.lane.getD 0, x.va))
/-- No copy that the group issued earlier holds the window ranges, which lie in the window (R204, R354). -/
def Ctx.windowFree (c : Ctx) (store : Bool) (ss : List Span) : Bool := ((spanParts ss).all fun x => decide (x.va.toNat + x.len ≤ c.team.windowSize)) && ss.all fun x => !windowBusy c store x.va.toNat x.len
/-- No store or reduction that the group issued earlier over the bytes of the accesses is still under way (R207, R213, R216). -/
def Ctx.settled (c : Ctx) (ps : List (Place × Nat)) : Bool := ps.all fun p => !overlapsSent c.g p.1.pa p.2 && !pendingRed c.d c.g p.1.pa p.2

/-! What a step of an instruction leaves. -/

/-- The outcome is a next state with a property. -/
def Completes (o : Host.Outcome State Fault Refusal) (p : State → Prop) : Prop := ∃ t, o = .next t ∧ p t
/-- Beside the groups the state is `s` with device `d`, and no other group's registers differ. -/
def Beside (s : State) (c : Ctx) (d : Device) (t : State) : Prop :=
  t.plat = s.plat ∧ t.turn = s.turn ∧ t.tick = s.tick ∧ t.dev = { d with groups := t.dev.groups, nextId := t.dev.nextId } ∧ ∀ j, j ≠ c.gid → regsOf t.dev j = regsOf d j
/-- An instruction has completed at issue: beside what it did to the device, its result is in the registers and the split stands at the next instruction. -/
def Acted (s : State) (c : Ctx) (d : Device) (tr : Bool) (w : RegWrites) (rs : Nat) (t : State) : Prop :=
  Beside s c d t ∧ t.dev.nextId = d.nextId ∧ regsOf t.dev c.gid = (Tbl.find d.groups c.gid).map (fun g => g.landed c.k tr w rs) ∧ standsAt t.dev c.gid c.k = some c.next
/-- An instruction has started an operation under the device's next number; its registers are as they were, and the split has moved on unless the operation is closing (R107, R128). -/
def Started (s : State) (c : Ctx) (d : Device) (o : Op) (rs : Nat) (t : State) : Prop :=
  Beside s c d t ∧ t.dev.nextId = d.nextId + 1 ∧ regsOf t.dev c.gid = (Tbl.find d.groups c.gid).map (fun g => { g.regs with rsCtr := g.rsCtr + BitVec.ofNat 64 rs }) ∧
  (∃ x, opsIn t.dev c.gid = (opsIn d c.gid).map (· ++ [x]) ∧ x.id = c.d.nextId ∧ x.splits = [c.k] ∧ x.site = c.site ∧ x.kind = o.kind ∧ x.writes = o.writes ∧ x.tr = o.tr ∧ x.exc = o.exc ∧ x.tiles = o.tiles ∧ x.tileReads = o.tileReads ∧ x.win = o.win ∧ x.tileWrites = o.tileWrites ∧ x.shape = o.shape ∧ x.parts = o.parts ∧ x.closing = o.closing) ∧
  standsAt t.dev c.gid c.k = some (if o.closing.isSome then c.here else c.next)
/-- The group waits at the instruction with the registers it had. -/
def Waits (s : State) (c : Ctx) (d : Device) (w : WaitFor) (t : State) : Prop :=
  Beside s c d t ∧ regsOf t.dev c.gid = regsOf d c.gid ∧ waitIn t.dev c.gid = some w ∧ standsAt t.dev c.gid c.k = some c.here
/-- The split stands at the start of a clause, with the registers the group had. -/
def Jumped (s : State) (c : Ctx) (target : DWord) (t : State) : Prop :=
  Beside s c s.dev t ∧ regsOf t.dev c.gid = regsOf s.dev c.gid ∧ standsAt t.dev c.gid c.k = some (target, 0)

/-- An instruction has started an operation for some of its lanes, and its split stands at it with the rest to issue (R278). -/
def StartedPart (s : State) (c : Ctx) (d : Device) (o : Op) (rest : Mask) (t : State) : Prop :=
  Beside s c d t ∧ t.dev.nextId = d.nextId + 1 ∧ regsOf t.dev c.gid = regsOf d c.gid ∧
  (∃ x, opsIn t.dev c.gid = (opsIn d c.gid).map (· ++ [x]) ∧ x.id = c.d.nextId ∧ x.splits = [c.k] ∧ x.site = c.site ∧ x.kind = o.kind ∧ x.parts = o.parts ∧ x.closing = o.closing) ∧
  standsAt t.dev c.gid c.k = some c.here ∧ (Tbl.find t.dev.groups c.gid).bind (fun g => (splitOf g c.k).bind (·.rest)) = some rest
/-- An entry of the effect buffer as the issuing split makes it (R126, R385). -/
def Ctx.entry (c : Ctx) (opcode : Nat) (lanes : Mask) (where_ : DWord) (blocks : List DWord) (act : Act) : Effect :=
  { split := c.k, clause := c.sp.pc, index := c.sp.index, opcode, lanes, where_, blocks, act }
/-- Held effects have entered the effect buffer of the issuing group (R126); the rest is as after an instruction that completes at issue without a result. -/
def Held (s : State) (c : Ctx) (d : Device) (es : List Effect) (t : State) : Prop :=
  Acted s c d false RegWrites.none 0 t ∧ (Tbl.find t.dev.groups c.gid).map (·.effects) = some (c.g.effects ++ es)

/-- The bytes `a` to `a + n − 1` and the bytes `b` to `b + m − 1` have none in common. -/
def Apart (a n b m : Nat) : Prop := a + n ≤ b ∨ b + m ≤ a

/-! How claims about an instruction of code are stated. -/

/-- Whenever it can issue, the instruction completes at issue with a result in the registers and nothing else. -/
def Lands (i : Instr) (gd : Option Guard) (tr : Bool) (w : Ctx → RegWrites) (rs : Nat) : Prop :=
  ∀ s c, ready i gd s = some c → Completes (exec i s) (Acted s c s.dev tr (w c) rs)
/-- Whenever it can issue, the instruction starts an operation and does nothing else. -/
def Begins (i : Instr) (gd : Option Guard) (o : Ctx → Op) (rs : Nat) : Prop :=
  ∀ s c, ready i gd s = some c → Completes (exec i s) (Started s c s.dev (o c) rs)
/-- Whenever it can issue, the instruction raises an exception, which is taken (R361). -/
def Raises (i : Instr) (gd : Option Guard) (e : Ctx → Exc) : Prop :=
  ∀ s c, ready i gd s = some c → exec i s = .next { s with dev := takeException s.plat s.dev c.gid c.site (e c) }
/-- An event answers a next state whose platform is unchanged and whose device has a property. -/
def Event (e : Instr) (s : State) (p : Device → Prop) : Prop := ∃ d, exec e s = .next { s with dev := d } ∧ p d
/-- An event answers a next state with a platform and a device that have a property. -/
def PlatformEvent (e : Instr) (s : State) (p : Platform → Device → Prop) : Prop := ∃ P d, exec e s = .next { s with plat := P, dev := d } ∧ p P d

end Sys2Proof.Machine
end

