-- ==== Sys2Proof/Certificates/Slice0/Obligations.lean ====
section
/-! DEFINITION. The statements about the SX-4 model that are put to the provers. -/

open Sys2Proof Sys2Proof.Machine

/-! Instructions of code: where each completes, with its result and with what it leaves as it was. -/

/-- Each arithmetic instruction that can issue completes at issue: the elements named by R151 to R154 are in its destination at the active lanes, with `rs.ctr` advanced by one under `rsd`, and nothing else that software sees has changed. Each logic, shift and bit-field instruction that can issue completes at issue with the result of R155 to R160 and nothing else. -/
def Obligations.arithmetic_and_logic_complete : Prop :=
  ((∀ f, Lands (.add f) f.g f.tr (binWrites f (addElem f.ty f.rnd f.sat)) (rsUse f.rnd)) ∧
  (∀ f, Lands (.sub f) f.g f.tr (binWrites f (subElem f.ty f.rnd f.sat)) (rsUse f.rnd)) ∧
  (∀ f, Lands (.mul f) f.g f.tr (binWrites f (mulElem f.ty f.rnd f.sat)) (rsUse f.rnd)) ∧
  (∀ f, Lands (.mulhi f) f.g f.tr (binWrites f fun _ => mulhiElem f.ty) 0) ∧
  (∀ f, Lands (.mad f) f.g f.tr (triWrites f fun _ => madElem f.ty f.sat) 0) ∧
  (∀ f, Lands (.divstep f) f.g f.tr (fun c => laneWrites c f.d 2 fun l => divStep (c.rv .b64 l f.a.reg) (c.ov .b32 l f.b)) 0) ∧
  (∀ f, Lands (.min f) f.g f.tr (binWrites f fun _ => minElem f.ty) 0) ∧
  (∀ f, Lands (.max f) f.g f.tr (binWrites f fun _ => maxElem f.ty) 0) ∧
  (∀ f, Lands (.abs f) f.g f.tr (unWrites f fun _ => absElem f.ty f.sat) 0) ∧
  (∀ f, Lands (.neg f) f.g f.tr (unWrites f fun _ => negElem f.ty f.sat) 0) ∧
  (∀ f pn, Lands (.addc f pn) f.g f.tr (addcWrites f pn) 0) ∧
  (∀ f pn, Lands (.subb f pn) f.g f.tr (subbWrites f pn) 0) ∧
  (∀ f, Lands (.fma f) f.g f.tr (triWrites f (fmaElem f.ty f.rnd f.sat)) (rsUse f.rnd)) ∧
  (∀ f, Lands (.addI32Short f) none false (binWrites (f.bin .i32) (addElem .i32 .rne false)) 0) ∧
  (∀ f, Lands (.subI32Short f) none false (binWrites (f.bin .i32) (subElem .i32 .rne false)) 0) ∧
  (∀ f, Lands (.addF32Short f) none false (binWrites (f.bin .f32) (addElem .f32 .rne false)) 0) ∧
  (∀ f, Lands (.mulF32Short f) none false (binWrites (f.bin .f32) (mulElem .f32 .rne false)) 0)) ∧
  ((∀ f, Lands (.lut3 f) f.g f.tr (lutWrites f.table f.d f.a.reg f.b f.c.reg) 0) ∧
  (∀ f, Lands (.andB32Short f) none false (lutWrites 0xC0 f.d f.a (.reg f.b false) f.a) 0) ∧
  (∀ f, Lands (.orB32Short f) none false (lutWrites 0xFC f.d f.a (.reg f.b false) f.a) 0) ∧
  (∀ f, Lands (.xorB32Short f) none false (lutWrites 0x3C f.d f.a (.reg f.b false) f.a) 0) ∧
  (∀ f, Lands (.shl f) f.g f.tr (shiftWrites f (shlElem f.ty)) 0) ∧
  (∀ f, Lands (.shr f) f.g f.tr (shiftWrites f (shrElem f.ty)) 0) ∧
  (∀ f, Lands (.sra f) f.g f.tr (shiftWrites f (sraElem f.ty)) 0) ∧
  (∀ f, Lands (.rot f) f.g f.tr (shiftWrites f (rotElem f.ty)) 0) ∧
  (∀ f, Lands (.shlB32Short f) none false (shiftWrites (f.bin .b32) (shlElem .b32)) 0) ∧
  (∀ f, Lands (.shrB32Short f) none false (shiftWrites (f.bin .b32) (shrElem .b32)) 0) ∧
  (∀ f, Lands (.popc f) f.g f.tr (fun c => laneWrites c f.d 1 fun l => popBits (c.ov f.ty l f.a) (Ty.width f.ty)) 0) ∧
  (∀ f, Lands (.clz f) f.g f.tr (fun c => laneWrites c f.d 1 fun l => clzBits (Ty.width f.ty) (c.ov f.ty l f.a)) 0) ∧
  (∀ f, Lands (.brev f) f.g f.tr (unWrites f fun _ x => revBits (Ty.width f.ty) x (Ty.width f.ty)) 0) ∧
  (∀ f, Lands (.bfe f) f.g f.tr (triWrites f fun _ => bfeElem f.ty) 0) ∧
  (∀ f, Lands (.bfi f) f.g f.tr (triWrites f fun _ => bfiElem) 0) ∧
  (∀ f, Lands (.bperm f) f.g f.tr (triWrites f fun _ => bpermElem) 0))

/-- Each conversion, block-scale, compare, select, class and predicate instruction that can issue completes at issue with the result of R163 to R171 and nothing else. Each lane instruction and move that can issue completes at issue with the result of R173 to R179 and R194 and nothing else; `nop` and `yield` have no result (R120, R190). Three points of this clause are the model's choice and no rule of the spec: `shfl.up` and `shfl.dn` read bits 31:0 of a scalar n (notes/assumptions/95.md), `scan`, `scanx` and `rdc` under `.sat` clamp each addition (notes/assumptions/94.md), and a source lane of another split gives what the register file holds (notes/assumptions/85.md). -/
def Obligations.conversions_and_lane_instructions_complete : Prop :=
  ((∀ f src e, Lands (.cvt f src e) f.g f.tr (cvtWrites f src e.val) (rsUse f.rnd)) ∧
  (∀ f src, Lands (.cvtPk f src) f.g f.tr (cvtPkWrites f src) (rsUse f.rnd)) ∧
  (∀ f, Lands (.bsPack f) f.g f.tr (bsPackWrites f) (if f.rnd == .rsd then bsN f.ty / 4 else 0)) ∧
  (∀ f, Lands (.bsUnpack f) f.g f.tr (bsUnpackWrites f) (if f.rnd == .rsd then bsN f.ty / 4 else 0)) ∧
  (∀ f, Lands (.cmp f) f.g false (cmpWrites f) 0) ∧
  (∀ f pn, Lands (.sel f pn) f.g f.tr (selWrites f pn) 0) ∧
  (∀ f, Lands (.classOf f) f.g false (fun c => predWrite f.pd.val c.lanes (maskWhere c.lanes fun l => f.mask.getLsbD (floatClass f.ty (partElem f.ty f.part (c.ov f.ty l f.a))))) 0) ∧
  (∀ f, Lands (.plog f) f.g false (fun c => predWrite f.pd.val c.lanes (maskWhere c.lanes fun l => f.table.getLsbD (((c.g.pred f.pa.val).getLsbD l).toNat * 4 + ((c.g.pred f.pb.val).getLsbD l).toNat * 2 + ((c.g.pred f.pc.val).getLsbD l).toNat))) 0) ∧
  (∀ g tr d pa, Lands (.ptov g tr d pa) g tr (fun c => vecWrites d.num 1 (lanesOf c.lanes) fun l => ((c.g.pred pa.val).getLsbD l).toNat) 0) ∧
  (∀ g pd a, Lands (.vtop g pd a) g false (fun c => predWrite pd.val c.lanes (maskWhere c.lanes fun l => c.ov .b32 l a != 0)) 0)) ∧
  ((∀ f, Lands (.shflIdx f) f.g f.tr (shflWrites f fun c l => some (c.ov .b32 l f.b % 32)) 0) ∧
  (∀ f, Lands (.shflUp f) f.g f.tr (shflWrites f fun c l => if c.ov .b32 0 f.b ≤ l then some (l - c.ov .b32 0 f.b) else none) 0) ∧
  (∀ f, Lands (.shflDn f) f.g f.tr (shflWrites f fun c l => if l + c.ov .b32 0 f.b ≤ 31 then some (l + c.ov .b32 0 f.b) else none) 0) ∧
  (∀ f, Lands (.shflXor f) f.g f.tr (shflWrites f fun c l => some (Nat.xor l (c.ov .b32 0 f.b % 32))) 0) ∧
  (∀ f, Lands (.scan f) f.g f.tr (fun c => vecWrites f.d.num 1 (lanesOf c.lanes) fun l => (scanTree (redStep f c) (redInputs f c)).getD l 0) (redUse f)) ∧
  (∀ f, Lands (.scanx f) f.g f.tr (fun c => vecWrites f.d.num 1 (lanesOf c.lanes) fun l => if l = 0 then redIdentity f.op f.ty else (scanTree (redStep f c) (redInputs f c)).getD (l - 1) 0) (redUse f)) ∧
  (∀ f, Lands (.rdc f) f.g f.tr (rdcWrites f) (redUse f)) ∧
  (∀ g mode pd pa, Lands (.vote g mode pd pa) g false (fun c => predWrite pd.val c.lanes (if voteHolds mode c.lanes (c.g.pred pa.val) then c.lanes else 0)) 0) ∧
  (∀ g tr d pa, Lands (.ballot g tr d pa) g tr (fun c => laneWrites c d 1 fun _ => (c.g.pred pa.val &&& c.lanes).toNat) 0) ∧
  (∀ g tr d a b, Lands (.rnd g tr d a b) g tr (fun c => vecWrites d.num 2 (lanesOf c.lanes) fun l => genG (c.rv .b64 0 a.reg) (c.ov .b64 l b) l) 0) ∧
  (∀ f, Lands (.mov f) f.g f.tr (unWrites f fun _ x => x) 0) ∧
  (∀ d a, Lands (.movB32Short d a) none false (fun c => laneWrites c d 1 fun l => c.rv .b32 l a) 0) ∧
  (∀ f, Lands (.rdlane f) f.g f.tr (fun c => scaWrite f.d.num (c.rv f.ty (c.ov .b32 0 f.b % 32) f.a.reg)) 0) ∧
  (∀ f, Lands (.wrlane f) f.g f.tr (fun c => vecWrites f.d.num f.ty.regs ((lanesOf c.lanes).filter (· == c.ov .b32 0 f.b % 32)) fun l => c.rv f.ty l f.a.reg) 0) ∧
  Lands .nop none false (fun _ => RegWrites.none) 0 ∧
  Lands .yield none false (fun _ => RegWrites.none) 0 ∧
  Lands .yieldShort none false (fun _ => RegWrites.none) 0)

/-- Each transcendental and `sort` that can issue starts an operation that holds the result of R162 or R175 for its lanes; the registers do not change until it completes (R107). -/
def Obligations.long_latency_begins : Prop :=
  (∀ f, Begins (.rcp f) f.g (fun c => Op.of .value (fnWrites .rcp f c) f.tr) (rsUse f.rnd)) ∧
  (∀ f, Begins (.rsq f) f.g (fun c => Op.of .value (fnWrites .rsq f c) f.tr) (rsUse f.rnd)) ∧
  (∀ f, Begins (.sqrt f) f.g (fun c => Op.of .value (fnWrites .sqrt f c) f.tr) (rsUse f.rnd)) ∧
  (∀ f, Begins (.exp2 f) f.g (fun c => Op.of .value (fnWrites .exp2 f c) f.tr) (rsUse f.rnd)) ∧
  (∀ f, Begins (.log2 f) f.g (fun c => Op.of .value (fnWrites .log2 f c) f.tr) (rsUse f.rnd)) ∧
  (∀ f, Begins (.tanh f) f.g (fun c => Op.of .value (fnWrites .tanh f c) f.tr) (rsUse f.rnd)) ∧
  (∀ f down, Begins (.sort f down) f.g (fun c => Op.of .value (sortWrites f down c) f.tr) 0)

/-- A load completes its issue wherever its lanes pass the checks of R237, no store or reduction of the group over their bytes is still under way, and no lane has to wait for a visitor copy (R207, R216, R218): it starts an operation that holds the values read and writes them to the destination when it completes; a scalar destination makes one access. `ld.rag` reads the row that its operand names, and zero beyond the packed rows; `ld.sp` reads the window. A store completes its issue wherever its lanes pass the checks of R237, no reduction of the group over their bytes is still under way, and the store buffer and the count of R207 have room: it enters the store buffer, drops its lines from the core's L1 and enters its blocks in the written-block list (R207, R208, R241); `st.sp` writes the window in ascending lane order (R205); `st.ver` goes to the version home of each lane's page for the group's step (R244); `seal` holds the seal of its page for the group's step (R245); `ld.ver` goes to the version home of the lowest active lane's page, on which all its lanes lie, and its split stands at it until a slot is chosen (R243). That a load reads memory at its issue, and that an `st.ver` goes to its version home at issue, with no entry of the store buffer and no condition on its room, are the model's reading (notes/assumptions/16.md and 44.md). -/
def Obligations.loads_and_stores_start : Prop :=
  ((∀ f s c, ready (.ld f) f.g s = some c → c.lanes ≠ 0 →
    (let es := match f.d with | .v _ => c.addrs f.a.reg f.off | .s _ => (c.addrs f.a.reg f.off).take 1
     let ps := es.map (c.placeAt .load)
     c.passes .load f.size.bytes (fun _ => none) es = true → c.settled (ps.map fun p => (p, f.size.bytes)) = true → (laneValues c f.pol f.size.bytes ps s.dev).isSome = true →
     ∃ t, exec (.ld f) s = .next t ∧ ∃ vs e d, laneValues c f.pol f.size.bytes ps s.dev = some (vs, e, d) ∧ Started s c d { Op.of .load (loadWrites f.d f.size vs) false with exc := e } 0 t)) ∧
  (∀ f s c sn, ready (.ldRag f) f.g s = some c → c.lanes ≠ 0 → c.shape f.sh = .ok sn →
    (let rows := (lanesOf c.lanes).map fun l => (l, mOff32 c.g c.sp l f.row)
     let live := rows.filter fun x => decide (x.2 < sn.rows)
     let es := live.map fun x => (x.1, BitVec.ofNat 64 (base64 c.g c.sp 0 f.a.reg + x.2 * sn.pitch))
     let ps := es.map (c.placeAt .load)
     c.passes .load f.size.bytes (fun _ => none) es = true → (f.one = true → sn.crosses (live.map (·.2)) = false) →
     c.settled (ps.map fun p => (p, f.size.bytes)) = true → (laneValues c f.pol f.size.bytes ps s.dev).isSome = true →
     ∃ t, exec (.ldRag f) s = .next t ∧ ∃ vs e d, laneValues c f.pol f.size.bytes ps s.dev = some (vs, e, d) ∧
       Started s c d { Op.of .load (loadWrites f.d f.size (((rows.filter fun x => decide (sn.rows ≤ x.2)).map fun x => (x.1, 0)) ++ vs)) false with exc := e } 0 t)) ∧
  (∀ f s c, ready (.ldSp f) f.g s = some c → c.lanes ≠ 0 →
    (let ps := c.offsets f.a.reg f.off
     c.inWindow f.size.bytes ps = true → (∀ p ∈ ps, windowBusy c false p.2 f.size.bytes = false) →
     ∃ t, exec (.ldSp f) s = .next t ∧ Started s c s.dev { Op.of .load (loadWrites f.d f.size (ps.map fun p => (p.1, natOf (windowBytes c.team p.2 f.size.bytes)))) false with
       win := ps.map (fun p => (p.2, p.2 + f.size.bytes)), exc := (ps.find? fun p => windowBad c.team p.2 f.size.bytes).map fun p => Exc.at_ .poisonedData p.1 (BitVec.ofNat 64 p.2) } 0 t))) ∧
  ((∀ f s c, ready (.st f) f.g s = some c → c.lanes ≠ 0 →
    (let es := c.addrs f.a.reg f.off
     let ps := es.map (c.placeAt .store)
     c.passes .store f.size.bytes notVersioned es = true → (∀ p ∈ ps, pendingRed c.d c.g p.pa f.size.bytes = false) → c.g.sb.length < 16 → unacked c.g < 255 →
     let lanes := ps.map fun p => ({ lane := p.lane, va := p.va, pa := p.pa, page := if p.leaf.repl then some p.leaf.base else none, data := dataBytes c f.size p.lane f.c.reg } : LaneStore)
     let d := s.dev.modGroup c.gid fun g => { g with sb := g.sb ++ [{ op := s.dev.nextId, size := f.size.bytes, lanes, marks := [] }] }
     ∃ t, exec (.st f) s = .next t ∧ Started s c (dropLines (noteBlocks d c.gid (ps.map (·.va))) c.g.core (ps.map fun p => p.pa / 64)) (Op.of .store RegWrites.none false) 0 t)) ∧
  (∀ f s c, ready (.stSp f) f.g s = some c → c.lanes ≠ 0 →
    (let ps := c.offsets f.a.reg f.off
     c.inWindow f.size.bytes ps = true → (∀ p ∈ ps, windowBusy c true p.2 f.size.bytes = false) →
     ∃ t, exec (.stSp f) s = .next t ∧ Started s c (s.dev.modTeam c.g.team fun t => ps.foldl (fun t p => windowWrite t p.2 (dataBytes c f.size p.1 f.c.reg)) t) { Op.of .store RegWrites.none false with win := ps.map fun p => (p.2, p.2 + f.size.bytes) } 0 t)) ∧
  (∀ f s c, ready (.stVer f) f.g s = some c → c.lanes ≠ 0 →
    (let es := c.addrs f.a.reg f.off
     let ps := es.map (c.placeAt .store)
     c.passes .store f.size.bytes mustVersioned es = true → unacked c.g < 255 →
     let send (d : Device) (p : Place) : Device := d.openHome c.g.job p.leaf fun h => { h with stores := h.stores ++ [{ notice := none, source := .group c.gid s.dev.nextId p.lane, offset := p.va.toNat - p.leaf.base, step := c.g.stepCur.toNat, data := dataBytes c f.size p.lane f.c.reg, since := s.dev.clock }] }
     ∃ t, exec (.stVer f) s = .next t ∧ Started s c (dropLines (noteBlocks (ps.foldl send s.dev) c.gid (ps.map (·.va))) c.g.core (ps.flatMap (versionLines s.dev))) { Op.of .verStore RegWrites.none false with parts := ps.length } 0 t)) ∧
  (∀ a off s c, ready (.sealVer a off) none s = some c → room (.sealVer a off) c = true →
    (let va := globalEa c.g c.sp a.reg off 0
     let p := c.placeAt .store (0, va)
     c.passes .store 1 mustVersioned [(0, va)] = true →
     ∃ t, exec (.sealVer a off) s = .next t ∧ Held s c (s.dev.openHome c.g.job p.leaf id) [c.entry 0x66 c.lanes va [] (.seal p.leaf.addr p.leaf.base c.g.stepCur.toNat)] t)) ∧
  (∀ f s c, ready (.ldVer f) f.g s = some c → c.lanes ≠ 0 →
    (let es := c.addrs f.a.reg f.off
     let ps := es.map (c.placeAt .load)
     let l := (ps.headD default).leaf
     c.passes .load f.size.bytes (fun x => (mustVersioned x) <|> (if x.base != l.base then some .versionSpan else none)) es = true →
     let q : VerLoad := { record := l.addr, page := l.base, minStep := c.rv .b32 0 f.sm.reg, bytes := f.size.bytes, dest := f.d, lanes := ps.map fun x => (x.lane, x.va.toNat - l.base), since := s.dev.clock }
     ∃ t, exec (.ldVer f) s = .next t ∧ Started s c (s.dev.openHome c.g.job l fun h => { h with loads := h.loads ++ [(c.gid, s.dev.nextId)] }) { Op.of (.verLoad q) RegWrites.none false with closing := some c.k } 0 t)))

/-- An access whose guard selects no lane completes at issue without effect (R238). -/
def Obligations.no_lane_no_effect : Prop :=
  ∀ i gd s c, ready i gd s = some c → c.lanes = 0 →
    ((∃ f, i = .ld f ∧ gd = f.g) ∨ (∃ f, i = .st f ∧ gd = f.g) ∨ (∃ f, i = .ldSp f ∧ gd = f.g) ∨ (∃ f, i = .stSp f ∧ gd = f.g) ∨ (∃ f, i = .ldVer f ∧ gd = f.g) ∨ (∃ f, i = .stVer f ∧ gd = f.g) ∨
      (∃ f, i = .ldRag f ∧ gd = f.g) ∨ (∃ f, i = .raLd f ∧ gd = f.g) ∨
      (room i c = true ∧ ((∃ f, i = .red f ∧ gd = f.g) ∨ (∃ f, i = .redAddCf32 f ∧ gd = f.g) ∨ (∃ g a n, i = .dcnt g a n ∧ gd = g) ∨ (∃ f, i = .raSt f ∧ gd = f.g) ∨ (∃ f, i = .raRed f ∧ gd = f.g) ∨ (∃ g a v b, i = .rst g a v b ∧ gd = g))) ∨
      (c.clear = true ∧ ((∃ f, i = .atom f ∧ gd = f.g) ∨ (∃ f, i = .raAtom f ∧ gd = f.g)))) →
    Completes (exec i s) (Acted s c s.dev false RegWrites.none 0)

/-- An atomic completes its issue wherever its lanes pass the checks of R237 and no buffered store of the group lies over their words: it sends one request a lane, in ascending order, to the homes of its words, and its split stands at it until every lane is answered (R128, R213, R248, R251); `red` and `red.add.cf32` put the requests of their lanes into the effect buffer, which has room, as one held effect (R126, R252, R253). -/
def Obligations.atomics_start : Prop :=
  (∀ f s c, ready (.atom f) f.g s = some c → c.clear = true → c.lanes ≠ 0 →
    (let es := c.addrs f.a.reg f.off
     let ps := es.map (c.placeAt .store)
     c.passes .store (4 * f.ty.regs) notVersioned es = true → (∀ p ∈ ps, bufferedOver c.g p.pa (4 * f.ty.regs) = false) →
     let reqs := ps.map (laneReq c (.atomic f.op f.ty) (fun l => .atom c.gid s.dev.nextId l) (fun l => c.rv f.ty l f.c.reg) (fun l => if f.op == .cas then casNew c f.ty l f.c.reg else 0))
     let d := noteBlocks (reqs.foldl (sendAtomic s.plat c.g.core) c.reopened.d) c.gid (ps.map (·.va))
     ∃ t, exec (.atom f) s = .next t ∧ Started s c (dropLines d c.g.core (ps.map fun p => p.pa / 64)) { Op.of .atomic RegWrites.none false with closing := some c.k, parts := ps.length } 0 t)) ∧
  (∀ f s c, ready (.red f) f.g s = some c → room (.red f) c = true → c.lanes ≠ 0 →
    (let es := c.addrs f.a.reg f.off
     let ps := es.map (c.placeAt .store)
     c.passes .store (4 * f.ty.regs) notVersioned es = true →
     ∃ t, exec (.red f) s = .next t ∧ Held s c s.dev [c.entry 0x71 c.lanes ((ps.map (·.va)).headD 0) (ps.map (·.va)) (.red (ps.map (laneReq c (.atomic f.op f.ty) (fun _ => .held c.gid) (fun l => c.rv f.ty l f.c.reg) fun _ => 0)))] t)) ∧
  (∀ f s c, ready (.redAddCf32 f) f.g s = some c → room (.redAddCf32 f) c = true → c.lanes ≠ 0 →
    (let es := c.addrs f.a.reg f.off
     let ps := es.map (c.placeAt .store)
     c.passes .store 8 notVersioned es = true →
     ∃ t, exec (.redAddCf32 f) s = .next t ∧ Held s c s.dev [c.entry 0x72 c.lanes ((ps.map (·.va)).headD 0) (ps.map (·.va)) (.red (ps.map (laneReq c .pair (fun _ => .held c.gid) (fun l => c.rv .f32 l f.c.reg) fun _ => 0)))] t))

/-- `lk` on a line that it may ask for waits for the grant, with its request on the way to the line's home (R255, R256); `lktry`, where no release of the line is on its way, takes a free line at once, with status 0 or, where the line is poisoned, 1, and answers BUSY where it is held or the bench is full (R262); `unlk` of a held line that no earlier `unlk` names enters the effect buffer (R261). The conditions are those of R255, R126 and R128 on the state and the operands. An acquire fence completes at issue and acquires beyond the group scope, and at the group scope once the group's earlier loads have completed; a release fence, and a barrier arrival of a group with one live split, starts a release of its scope, and its split stands at it until the release has been performed (R128, R266, R268, R269). -/
def Obligations.locks_and_fences_complete : Prop :=
  ((∀ f sd s c, ready (.lk f) none s = some c → c.clear = true → f.d = .s sd →
    (let va := globalEa c.g c.sp f.a.reg (.none false) 0
     let p := c.placeAt .store (0, va)
     c.mayLock true va = true →
     let t := (f.t.getD 0).toNat
     let w : WaitFor := .lock p.pa va sd f.pd s.dev.clock .sent
     ∃ u, exec (.lk f) s = .next u ∧ Waits s c (beginWait c.reopened.d c.gid w 2 1 (if t = 0 then 0 else s.dev.clock + t) va c.sp.here) w u)) ∧
  (∀ f s c, ready (.lktry f) none s = some c → c.clear = true →
    (let va := globalEa c.g c.sp f.a.reg (.none false) 0
     let p := c.placeAt .store (0, va)
     let k := homeSlice s.plat p.pa
     let b := s.dev.slice k
     let l := benchLine b p.pa
     c.mayLock false va = true → (b.releases.any fun r => r.1 == p.pa) = false →
     (l.holder = none ∧ benchLines b < 256 →
       ∃ t, exec (.lktry f) s = .next t ∧ Acted s c (takeLock (acquire ((c.reopened.d.modSlice k fun b => setBench b p.pa { l with holder := some c.gid, poisoned := false }).mergeClock (c.g.core / 128) l.clock) c.gid) c.gid p.pa va) false (lockWrites c f (if l.poisoned then 1 else 0)) 0 t) ∧
     (l.holder ≠ none ∨ 256 ≤ benchLines b → ∃ t, exec (.lktry f) s = .next t ∧ Acted s c c.reopened.d false (lockWrites c f 4) 0 t))) ∧
  (∀ a s c x, ready (.unlk a) none s = some c → room (.unlk a) c = true → (c.g.lockVas.find? fun y => y.2 == globalEa c.g c.sp a.reg (.none false) 0) = some x →
    ((c.g.effects ++ c.g.handed).any fun e => e.act == .unlk x.1) = false →
    ∃ t, exec (.unlk a) s = .next t ∧ Held s c s.dev [c.entry 0x75 c.lanes (globalEa c.g c.sp a.reg (.none false) 0) [] (.unlk x.1)] t)) ∧
  ((∀ scope s c, ready (.fence .acq scope) none s = some c → (scope = .grp → loadsOut c.g = false) →
    ∃ t, exec (.fence .acq scope) s = .next t ∧ Acted s c (if scope == .grp then s.dev else acquireFence s.dev c.gid) false RegWrites.none 0 t) ∧
  (let release (s : State) (c : Ctx) (scope : Scope) (act : RelAct) : State → Prop :=
    Started s c (c.reopened.d.modGroup c.gid fun g => { g with releases := g.releases ++ [{ scope, posted := false, toArrive := [], toAck := [], act }] }) { Op.of .fence RegWrites.none false with closing := some c.k } 0
   (∀ scope s c, ready (.fence .rel scope) none s = some c → c.clear = true → ∃ t, exec (.fence .rel scope) s = .next t ∧ release s c scope (.fence s.dev.nextId false) t) ∧
   (∀ scope s c, ready (.fence .ar scope) none s = some c → c.clear = true → (scope = .grp → loadsOut c.g = false) → ∃ t, exec (.fence .ar scope) s = .next t ∧ release s c scope (.fence s.dev.nextId (scope != .grp)) t) ∧
   (∀ s c, ready .bar none s = some c → c.clear = true → (liveSplits c.g).length ≤ 1 → ∃ t, exec .bar s = .next t ∧ release s c .team (.arrive s.dev.nextId 1 true) t) ∧
   (∀ s c, ready .barWait none s = some c → c.clear = true → (liveSplits c.g).length ≤ 1 → ∃ t, exec .barWait s = .next t ∧ release s c .team (.arrive s.dev.nextId 0 true) t) ∧
   (∀ n s c, ready (.arriveN n) none s = some c → c.clear = true → (liveSplits c.g).length ≤ 1 → ∃ t, exec (.arriveN n) s = .next t ∧ release s c .team (.arrive s.dev.nextId (mOff32 c.g c.sp 0 n) true) t) ∧
   (∀ n s c, ready (.arriveNNw n) none s = some c → c.clear = true → (liveSplits c.g).length ≤ 1 → ∃ t, exec (.arriveNNw n) s = .next t ∧ release s c .team (.arrive s.dev.nextId (mOff32 c.g c.sp 0 n) false) t)))

/-- `wait.ctr` on a word that passes its checks waits, with a watch on its way to the word's home (R273); `post` reserves the lowest free pool drawer, holds its going live and answers its handle, or answers 0 where none is free (R274); `dcnt` holds one decrement for each active lane, or one for a scalar handle (R276). `hold` of a held register adjusts its count in the hold table, where the table has an entry of the register or room for one, or n is not positive (R284); `name.get` answers the group's name, or takes the lowest free entry of the name table, or answers 0 where none is free; `name.free` frees the entry and raises its generation (R282, R283). -/
def Obligations.counters_names_and_holds_complete : Prop :=
  ((∀ sd a v t s c, ready (.waitCtr sd a v t) none s = some c →
    (let va := globalEa c.g c.sp a.reg (.none false) 0
     let p := c.placeAt .load (0, va)
     c.passes .load 8 notVersioned [(0, va)] = true →
     let n := (t.getD 0).toNat
     let w : WaitFor := .counter p.pa sd
     let r : AgReq := { kind := .watch (BitVec.ofNat 64 (c.rv .b64 0 v.reg)), pa := p.pa, va := p.va, job := c.g.job, x := 0, xn := 0, source := .waiter c.gid, park := none }
     ∃ u, exec (.waitCtr sd a v t) s = .next u ∧ Waits s c (sendAtomic s.plat c.g.core (beginWait s.dev c.gid w 7 1 (if n = 0 then 0 else s.dev.clock + n) p.va c.sp.here) r) w u)) ∧
  (∀ sd a v n s c, ready (.post sd a v n) none s = some c → room (.post sd a v n) c = true → s.dev.poolDrawer c.g.core = none → ∃ t, exec (.post sd a v n) s = .next t ∧ Acted s c s.dev false (scaWrite sd.val 0) 0 t) ∧
  (∀ sd a v n s c i, ready (.post sd a v n) none s = some c → room (.post sd a v n) c = true → s.dev.poolDrawer c.g.core = some i →
    (let x := { Drawer.free (s.dev.drawer c.g.core i).gen with kind := 2, count := BitVec.ofNat 32 (mOff32 c.g c.sp 0 n), team := c.g.team, ownerBlock := c.g.block, entry := BitVec.ofNat 64 (c.rv .b64 0 a.reg), arg := BitVec.ofNat 64 (c.rv .b64 0 v.reg), reserved := true }
     let h := handleOf c.g.core i x.gen
     ∃ t, exec (.post sd a v n) s = .next t ∧ Acted s c (s.dev.setDrawer c.g.core i x) false (scaWrite sd.val h.toNat) 0 t ∧
       (Tbl.find t.dev.groups c.gid).map (fun g => decide (c.entry 0x7A c.lanes (h.zeroExtend 64) [] (.post c.g.core i) ∈ g.effects ++ g.handed)) = some true)) ∧
  (∀ g a n s c, ready (.dcnt g a n) g s = some c → room (.dcnt g a n) c = true → c.lanes ≠ 0 →
    (let ls := match a.reg with | .v _ => lanesOf c.lanes | .s _ => (lanesOf c.lanes).take 1
     let ds : List (Word × Word) := ls.map fun l => (BitVec.ofNat 32 (c.rv .b32 l a.reg), BitVec.ofNat 32 (mOff32 c.g c.sp l n))
     ∃ t, exec (.dcnt g a n) s = .next t ∧ Held s c s.dev [c.entry 0x7B c.lanes ((ds.headD (0, 0)).1.zeroExtend 64) [] (.dcnt ds)] t))) ∧
  ((∀ vr n s c, ready (.hold vr n) none s = some c → unheldReg c.g vr.val = false → ((holdOf c.g.holds vr.val).isSome = true ∨ sext 32 (mOff32 c.g c.sp 0 n) ≤ 0 ∨ c.g.holds.length < 4) →
    ∃ t, exec (.hold vr n) s = .next t ∧ ∃ hs, holdTable c.g.holds vr.val (sext 32 (mOff32 c.g c.sp 0 n)) = some hs ∧ Acted s c (s.dev.modGroup c.gid fun g => { g with holds := hs }) false RegWrites.none 0 t) ∧
  (∀ sd s c, ready (.nameGet sd) none s = some c → c.clear = true → c.g.name ≠ 0 → Completes (exec (.nameGet sd) s) (Acted s c s.dev false (scaWrite sd.val c.g.name.toNat) 0)) ∧
  (∀ sd s c, ready (.nameGet sd) none s = some c → c.clear = true → c.g.name = 0 → freeName s.dev = none → Completes (exec (.nameGet sd) s) (Acted s c s.dev false (scaWrite sd.val 0) 0)) ∧
  (∀ sd s c i, ready (.nameGet sd) none s = some c → c.clear = true → c.g.name = 0 → freeName s.dev = some i →
    (let gen := ((Tbl.find s.dev.names i).map (·.gen)).getD 0
     let name : Word := BitVec.ofNat 32 (s.plat.own * 2 ^ 23 + i * 2 ^ 8 + gen.toNat)
     Completes (exec (.nameGet sd) s) (Acted s c ({ s.dev with names := Tbl.set s.dev.names i { gen, holder := some c.gid, exited := false } }.modGroup c.gid fun g => { g with name }) false (scaWrite sd.val name.toNat) 0))) ∧
  (∀ s c, ready .nameFree none s = some c → c.g.name = 0 → Completes (exec .nameFree s) (Acted s c s.dev false RegWrites.none 0)) ∧
  (∀ s c, ready .nameFree none s = some c → c.g.name ≠ 0 →
    Completes (exec .nameFree s) (Acted s c ({ s.dev with names := Tbl.modify (fun (e : NameEntry) => { gen := e.gen + 1, holder := none, exited := false }) s.dev.names (c.g.name.toNat / 256 % 2 ^ 15) }.modGroup c.gid fun g => { g with name := 0 }) false RegWrites.none 0)))

/-- `ra.ld` and the returning `ra.atom` whose lanes pass their checks start an operation for the lanes of the lowest peer they name, and send that peer one request; where other peers are named the split stands at the instruction with their lanes to issue (R107, R277, R278). The first issue of `ra.atom` closes its region, and the split stands at it until the operations have completed (R128). That the lanes of one peer travel as one request with one answer is the model's reading (notes/assumptions/31.md). `ra.st` and `ra.red` whose lanes pass their checks hold one effect for each distinct peer, in ascending order, with the lanes of that peer (R278); `rst` holds one with the sender's lanes and values (R285). The effect buffer has room for them (R126). -/
def Obligations.remote_accesses_start : Prop :=
  ((∀ f s c, ready (.raLd f) f.g s = some c → c.lanes ≠ 0 → c.remotePasses f.a.reg f.off f.size.bytes = true →
    (let p := firstPeer c f.a.reg
     let rest := maskWhere c.lanes fun l => remotePeer c f.a.reg l != p
     let d := sendRequest s.plat s.dev p { seq := s.dev.nextId, origin := .op c.gid s.dev.nextId, job := c.g.job, kind := some .load, lanes := lanesFor c f.a.reg f.off f.size.bytes (fun _ => 0) (fun _ => 0) p, rst := none, issued := 0 }
     let o := Op.of (.remote (if f.pn.en then some f.pn.p.val else none) f.d f.size.bytes) RegWrites.none false
     ∃ t, exec (.raLd f) s = .next t ∧ if rest = 0 then Started s c d o 0 t else StartedPart s c d o rest t)) ∧
  (∀ f s c, ready (.raAtom f) f.g s = some c → (c.clear = true ∨ c.sp.rest ≠ none) → c.lanes ≠ 0 → c.remotePasses f.a.reg f.off (4 * f.ty.regs) = true →
    (let p := firstPeer c f.a.reg
     let rest := maskWhere c.lanes fun l => remotePeer c f.a.reg l != p
     let e : Device := if c.sp.rest = none then c.reopened.d else s.dev
     let d := sendRequest s.plat e p { seq := s.dev.nextId, origin := .op c.gid s.dev.nextId, job := c.g.job, kind := some (.atomRet f.op.num f.ty.code.toNat), lanes := lanesFor c f.a.reg f.off (4 * f.ty.regs) (fun l => c.rv f.ty l f.c.reg) (fun l => if f.op == .cas then casNew c f.ty l f.c.reg else 0) p, rst := none, issued := 0 }
     let o := { Op.of (.remote none f.d (4 * f.ty.regs)) RegWrites.none false with closing := some c.k }
     ∃ t, exec (.raAtom f) s = .next t ∧ if rest = 0 then Started s c d o 0 t else StartedPart s c d o rest t))) ∧
  ((∀ f s c, ready (.raSt f) f.g s = some c → room (.raSt f) c = true → c.lanes ≠ 0 → c.remotePasses f.a.reg f.off f.size.bytes = true →
    ∃ t, exec (.raSt f) s = .next t ∧ Held s c s.dev ((peersOf c f.a.reg).map fun p =>
      let ls := lanesFor c f.a.reg f.off f.size.bytes (dataLow f.size f.c.reg c) (dataHigh f.size f.c.reg c) p
      c.entry 0x81 (maskOf (ls.map (·.lane))) ((ls.map (·.addr)).headD 0) [] (.remote p .store ls)) t) ∧
  (∀ f s c, ready (.raRed f) f.g s = some c → room (.raRed f) c = true → c.lanes ≠ 0 → c.remotePasses f.a.reg f.off (4 * f.ty.regs) = true →
    ∃ t, exec (.raRed f) s = .next t ∧ Held s c s.dev ((peersOf c f.a.reg).map fun p =>
      let ls := lanesFor c f.a.reg f.off (4 * f.ty.regs) (fun l => c.rv f.ty l f.c.reg) (fun _ => 0) p
      c.entry 0x82 (maskOf (ls.map (·.lane))) ((ls.map (·.addr)).headD 0) [] (.remote p (.atomNoRet f.op.num f.ty.code.toNat) ls)) t) ∧
  (∀ g a v b s c, ready (.rst g a v b) g s = some c → room (.rst g a v b) c = true → c.lanes ≠ 0 →
    (let name : Word := BitVec.ofNat 32 (c.rv .b32 0 a.reg)
     ∃ t, exec (.rst g a v b) s = .next t ∧ Held s c s.dev [c.entry 0x83 c.lanes (name.zeroExtend 64) [] (.rst name v.val c.lanes ((List.range 32).map fun l => BitVec.ofNat 32 (mOff32 c.g c.sp l b)))] t)))

/-- `mres` takes every tile it names, or none where another group holds one (R294); `mrel` gives the named tiles up once no operation of the group uses them (R295); the instructions that write tiles at issue write the elements of R305 to R307 on tiles that the group has reserved, and their registers. A ragged reduction over a valid snapshot, whose rows lie in one sequence under `.one`, completes with the results of R314 and R315; `sh.chk` of a record whose first word can be read compares it with the snapshot's (R311); `sh.ld` whose address passes its checks starts a reading of the record, which the device makes word by word (R310, log 17), and the shape register holds no snapshot unless the reading gives one. -/
def Obligations.tiles_and_shapes_complete : Prop :=
  ((∀ pd m s c, ready (.mres pd m) none s = some c →
    (let ts := (List.range 16).filter fun t => (slVal c.g c.sp m % 2 ^ 16).testBit t
     let mine (t : Nat) : Prop := (tileOf s.dev c.g.core t).owner = none ∨ (tileOf s.dev c.g.core t).owner = some c.gid
     ((∀ t ∈ ts, mine t) → Completes (exec (.mres pd m) s) (Acted s c (ts.foldl (fun d t => d.modCore c.g.core fun k =>
       let x := tileOf s.dev c.g.core t
       { k with tiles := Tbl.set k.tiles t { owner := some c.gid, job := some c.g.job, cells := if x.job = some c.g.job then x.cells else [] } }) s.dev) false (predWrite pd.val c.sp.mask c.sp.mask) 0)) ∧
     ((∃ t ∈ ts, ¬ mine t) → Completes (exec (.mres pd m) s) (Acted s c s.dev false (predWrite pd.val c.sp.mask 0) 0)))) ∧
  (∀ m s c, ready (.mrel m) none s = some c →
    (let ts := (List.range 16).filter fun t => (slVal c.g c.sp m % 2 ^ 16).testBit t && (tileOf s.dev c.g.core t).owner == some c.gid
     (∀ o ∈ c.g.ops, ∀ t ∈ o.tiles ++ o.tileReads, t ∉ ts) →
     Completes (exec (.mrel m) s) (Acted s c (s.dev.modCore c.g.core fun k => { k with tiles := k.tiles.map fun e => if ts.contains e.1 then (e.1, { e.2 with owner := none }) else e }) false RegWrites.none 0))) ∧
  (∀ g t s c, ready (.accZero g t) g s = some c → ownsTile c t = true →
    Completes (exec (.accZero g t) s) (Acted s c (writeTiles s.dev c.g.core c.g.job (tileCells t (lanesOf c.lanes) allCols fun _ _ => some 0)) false RegWrites.none 0)) ∧
  (∀ f s c, ready (.accMovToVec f) f.g s = some c → ownsTile c f.tile = true →
    Completes (exec (.accMovToVec f) s) (Acted s c s.dev false { RegWrites.none with vs := (lanesOf c.lanes).flatMap fun i => (List.range (2 ^ f.log2n.toNat)).map fun k => (32 * (f.v.val + k) + i, BitVec.ofNat 32 (c.acc f.tile i (f.j0.val + k))) } 0)) ∧
  (∀ f s c, ready (.accMovToTile f) f.g s = some c → ownsTile c f.tile = true →
    Completes (exec (.accMovToTile f) s) (Acted s c (writeTiles s.dev c.g.core c.g.job ((lanesOf c.lanes).flatMap fun i => (List.range (2 ^ f.log2n.toNat)).map fun k => (f.tile.val, 32 * i + (f.j0.val + k), BitVec.ofNat 32 (readV c.g c.sp (f.v.val + k) i)))) false RegWrites.none 0)) ∧
  (∀ f s c, ready (.osmUpd f) f.g s = some c → ownsTile c f.sTile = true → (f.oEn = true → ownsTile c f.oTile = true) →
    (let rs := (lanesOf c.lanes).map fun i => (i, osmLane (allCols.map (c.acc f.sTile i)) (readV c.g c.sp f.d.val i) (readV c.g c.sp (f.d.val + 1) i))
     let sCells := rs.flatMap fun e => allCols.map fun j => (f.sTile.val, 32 * e.1 + j, BitVec.ofNat 32 (e.2.1.getD j 0))
     let oCells := rs.flatMap fun e => match e.2.2 with
       | none => []
       | some (_, _, a) => allCols.map fun j => (f.oTile.val, 32 * e.1 + j, BitVec.ofNat 32 (rne32 ((v32 (c.acc f.oTile e.1 j)).mul (v32 a))))
     let vs := rs.flatMap fun e => match e.2.2 with
       | none => []
       | some (mn, l, _) => cellsAt f.d.val 2 e.1 (mn + 2 ^ 32 * l)
     Completes (exec (.osmUpd f) s) (Acted s c (writeTiles s.dev c.g.core c.g.job (sCells ++ if f.oEn then oCells else [])) false { RegWrites.none with vs } 0))) ∧
  (∀ g t a r s c, ready (.osmFin g t a r) g s = some c → ownsTile c t = true →
    (let rows := (lanesOf c.lanes).filter fun i => readV c.g c.sp a.val i % 2 ^ 31 != 0
     Completes (exec (.osmFin g t a r) s) (Acted s c (writeTiles s.dev c.g.core c.g.job (tileCells t rows allCols fun i j => some (rne32 ((v32 (c.acc t i j)).div (v32 (readV c.g c.sp a.val i)))))) false RegWrites.none 0)))) ∧
  ((∀ f s c sn, ready (.ragRdc f) f.g s = some c → c.shape f.sh = .ok sn → (f.one = true → sn.crosses ((ragLanes c sn (slVal c.g c.sp f.row0)).map (slVal c.g c.sp f.row0 + ·)) = false) →
    Completes (exec (.ragRdc f) s) (Acted s c s.dev false (ragRdcWrites f sn c) 0)) ∧
  (∀ f s c sn, ready (.ragNorm f) f.g s = some c → c.shape f.sh = .ok sn → (f.one = true → sn.crosses ((ragLanes c sn (slVal c.g c.sp f.row0)).map (slVal c.g c.sp f.row0 + ·)) = false) →
    Completes (exec (.ragNorm f) s) (Acted s c s.dev false (ragNormWrites f sn c) 0)) ∧
  (∀ pd sh s c sn, ready (.shChk pd sh) none s = some c → c.shape sh = .ok sn →
    (let ss : List Span := [{ lane := none, va := sn.addr, len := 4 }]
     let ps := c.rangesAt .load ss
     c.rangesPass .load (fun _ => none) ss = true → c.settled (ps.map fun p => (p.2, p.1.len)) = true → (thruParts c ps s.dev).isSome = true → rangeBad s.dev ps = none →
     ∃ t, exec (.shChk pd sh) s = .next t ∧ ∃ parts d, thruParts c ps s.dev = some (parts, d) ∧
       Acted s c d false (predWrite pd.val c.sp.mask (if natOf (gather parts sn.addr 4) = field sn.header 0 4 then c.sp.mask else 0)) 0 t)) ∧
  (∀ sh a s c, ready (.shLd sh a) none s = some c →
    (let va : DWord := BitVec.ofNat 64 (readS c.g c.sp a.val)
     c.passes .load 64 (fun _ => none) [(0, va)] = true →
     ∃ t, exec (.shLd sh a) s = .next t ∧ Started s c s.dev { Op.of (.shape { sh := sh.val, va, leaf := (c.placeAt .load (0, va)).leaf, tries := 0, words := [] }) RegWrites.none false with shape := some (sh.val, none) } 0 t)))

/-- An `mma` with a legal descriptor and aligned bases, on a reserved tile, whose operands pass their checks, lie in one sequence under `.one`, and have no store, reduction, copy or visitor copy to wait for, starts an operation that writes, when it completes, the element of R300 at each row and column read, and takes its B operand onto the shelf; a poisoned operand makes it raise its fault and write none (R97, R298 to R303). With no active lane it completes without effect. `acc.ld` and `acc.st` on a reserved tile, with an aligned base and pitch and rows that pass their checks and have no store, reduction, copy or visitor copy to wait for, move the rows of the active lanes: to the tile when the load completes, to the window at once, or to the store buffer, which has room, as one store (R304). That operands are read at issue is the model's reading (log 18). -/
def Obligations.matrix_operations_start : Prop :=
  ((∀ f s c sn, ready (.mma f) f.g s = some c → ownsTile c f.tile = true → mmaShape f c = .ok sn → mmaFault f (mmaArgs f c) = none → c.lanes = 0 → ∃ t, exec (.mma f) s = .next t ∧ Acted s c s.dev false RegWrites.none 0 t) ∧
  (∀ f s c sn, ready (.mma f) f.g s = some c → ownsTile c f.tile = true → mmaShape f c = .ok sn → mmaFault f (mmaArgs f c) = none → c.lanes ≠ 0 →
    (let m := mmaArgs f c
     let rows := mmaRows c m sn
     let cols := mmaCols m sn
     let aSpans := rows.flatMap fun i => operandSpans f.bs f.pair.fa m.sa m.pa m.k some [i]
     let bSpans := cols.flatMap fun j => operandSpans f.bs f.pair.fb m.sb m.pb m.k (fun _ => none) [j]
     let ss := (if f.wa then [] else aSpans) ++ (if (shelfServes f c m cols).isSome then [] else bSpans)
     let ps := c.rangesAt .load ss
     (f.one = true → mmaCrosses m sn rows cols = false) → (f.wa = true → c.windowFree false aSpans = true) →
     c.rangesPass .load (fun _ => none) ss = true → c.settled (ps.map fun p => (p.2, p.1.len)) = true → (thruParts c ps s.dev).isSome = true →
     ∃ t, exec (.mma f) s = .next t ∧ ∃ x, mmaFetch f c m sn = .ok x ∧ Started s c (mmaShelf f c m x) (mmaOp f c m sn x) 0 t))) ∧
  ((∀ f s c, ready (.accLd f) f.g s = some c → ownsTile c f.tile = true → accMisaligned f c = false → c.lanes = 0 → ∃ t, exec (.accLd f) s = .next t ∧ Acted s c s.dev false RegWrites.none 0 t) ∧
  (∀ f s c, ready (.accLd f) f.g s = some c → ownsTile c f.tile = true → accMisaligned f c = false → c.lanes ≠ 0 → f.sp = true → c.windowFree false (accSpans f c) = true →
    (let at_ (i : Nat) : Span := ((accSpans f c).find? fun x => x.lane == some i).getD default
     ∃ t, exec (.accLd f) s = .next t ∧ Started s c s.dev (accLoadOp f c (spanRanges (accSpans f c)) (fun i => windowBytes c.team (at_ i).va.toNat (at_ i).len) (((accSpans f c).find? fun x => windowBad c.team x.va.toNat x.len).map fun x => { code := .poisonedData, lane := x.lane, info := x.va })) 0 t)) ∧
  (∀ f s c, ready (.accLd f) f.g s = some c → ownsTile c f.tile = true → accMisaligned f c = false → c.lanes ≠ 0 → f.sp = false →
    (let ps := c.rangesAt .load (accSpans f c)
     c.rangesPass .load (fun _ => none) (accSpans f c) = true → c.settled (ps.map fun p => (p.2, p.1.len)) = true → (thruParts c ps s.dev).isSome = true →
     let at_ (i : Nat) : Span := ((accSpans f c).find? fun x => x.lane == some i).getD default
     ∃ t, exec (.accLd f) s = .next t ∧ ∃ parts d, thruParts c ps s.dev = some (parts, d) ∧
       Started s c d (accLoadOp f c [] (fun i => gather parts (at_ i).va (at_ i).len) ((ps.find? fun p => d.anyPoison p.2.pa p.1.len).map fun p => { code := .poisonedData, lane := p.1.lane, info := p.1.va })) 0 t)) ∧
  (∀ f s c, ready (.accSt f) f.g s = some c → ownsTile c f.tile = true → accMisaligned f c = false → c.lanes = 0 → ∃ t, exec (.accSt f) s = .next t ∧ Acted s c s.dev false RegWrites.none (accUse f) t) ∧
  (∀ f s c, ready (.accSt f) f.g s = some c → ownsTile c f.tile = true → accMisaligned f c = false → c.lanes ≠ 0 → f.sp = true → c.windowFree true (accSpans f c) = true →
    ∃ t, exec (.accSt f) s = .next t ∧ Started s c (s.dev.modTeam c.g.team fun t => (accSpans f c).foldl (fun t x => windowWrite t x.va.toNat (accStored f c (x.lane.getD 0))) t) { Op.of .store RegWrites.none false with tileReads := [f.tile.val], win := spanRanges (accSpans f c) } (accUse f) t) ∧
  (∀ f s c, ready (.accSt f) f.g s = some c → ownsTile c f.tile = true → accMisaligned f c = false → c.lanes ≠ 0 → f.sp = false →
    (let ps := c.rangesAt .store (accSpans f c)
     c.rangesPass .store notVersioned (accSpans f c) = true → (∀ p ∈ ps, pendingRed c.d c.g p.2.pa p.1.len = false) → c.g.sb.length < 16 → unacked c.g < 255 →
     let part (x : Span) (y : DWord × Nat) : LaneStore :=
       let p := ((ps.find? fun q => q.1.lane == x.lane && q.1.va == y.1).map (·.2)).getD default
       { lane := x.lane.getD 0, va := y.1, pa := p.pa, page := if p.leaf.repl then some p.leaf.base else none, data := ((accStored f c (x.lane.getD 0)).drop (y.1.toNat - x.va.toNat)).take y.2 }
     let lanes := (accSpans f c).flatMap fun x => (chunks x.va x.len).map (part x)
     let d := s.dev.modGroup c.gid fun g => { g with sb := g.sb ++ [{ op := s.dev.nextId, size := 4, lanes, marks := [] }] }
     ∃ t, exec (.accSt f) s = .next t ∧ Started s c (dropLines (noteBlocks d c.gid (lanes.map (·.va))) c.g.core (lanes.map fun l => l.pa / 64)) { Op.of .store RegWrites.none false with tileReads := [f.tile.val] } (accUse f) t)))

/-- `cp` and `cp.gather` whose operands pass the checks of R316 and R317 are accepted, once nothing of R354 keeps them: the operation takes the next number of its timeline, which the destination receives, and its place at the cluster's copy engine with its window ranges (R319, R354); without bytes it completes at once. `tl.rd` answers the timeline's counter, `tl.rd.err` its error record, which it clears (R320); `tl.wait` for a value that has been reached acquires and goes on, for zero it goes on, and for another it waits (R321). -/
def Obligations.copies_and_timelines_complete : Prop :=
  ((let accepted (s : State) (c : Ctx) (o : CopyOp) (n : Nat) : Device :=
     let a := tlAccept s.dev c.g.team o.tl
     let op := { o with id := a.2.nextId, job := c.g.job, team := c.g.team, group := c.gid, number := a.1, die := c.team.cluster / 32 }
     let d := { a.2 with nextId := a.2.nextId + 1 }
     if n = 0 then timelineDone d (c.team.cluster / 32) c.g.team o.tl a.1 0 0
     else (d.modTeam c.g.team fun t => { t with ranges := t.ranges ++ copyRanges op.id c.gid o.dir o.dst.toNat o.src.toNat n }).modCluster c.team.cluster fun k => { k with copies := k.copies ++ [op] }
   let number (c : Ctx) (tl : TimelineNo) (d : Option SReg) : RegWrites := match d with | some r => scaWrite r.val ((c.team.tl tl.val).accepted + 1) | none => RegWrites.none
   (∀ f s c, ready (.cp f) none s = some c →
     (let dst := copyOperand (winDst f.dir) (readS c.g c.sp f.dst.val)
      let src := copyOperand (winSrc f.dir) (readS c.g c.sp f.src.val)
      let len := slVal c.g c.sp f.len % 2 ^ 32
      copyChecks c.team.windowSize f.dir dst src len = none → copyStall c f.dir dst src len = none →
      Completes (exec (.cp f) s) (Acted s c (accepted s c (copyOf f.tl false f.dir dst src len 0 0) len) false (number c f.tl f.d) 0))) ∧
   (∀ f s c, ready (.cpGather f) none s = some c →
     (let dst := copyOperand (winDst f.dir) (readS c.g c.sp f.dst.val)
      let src := readS c.g c.sp f.src.val
      let idx := readS c.g c.sp f.desc.val
      let q := readS c.g c.sp (f.desc.val + 1)
      let w := q % 2 ^ 24
      let n := q / 2 ^ 24 % 2 ^ 24
      idx % 4 = 0 → w % 16 = 0 → 16 ≤ w → w ≤ 65536 → q / 2 ^ 48 = 0 → copyChecks c.team.windowSize f.dir dst src (n * w) = none → idx < 2 ^ 48 → copyStall c f.dir dst src (n * w) = none →
      Completes (exec (.cpGather f) s) (Acted s c (accepted s c (copyOf f.tl true f.dir dst src w (BitVec.ofNat 64 idx) n) (n * w)) false (number c f.tl f.d) 0))))) ∧
  ((∀ r tl, Lands (.tlRd r tl) none false (fun c => scaWrite r.val (c.team.tl tl.val).counter) 0) ∧
  (∀ r tl s c, ready (.tlRdErr r tl) none s = some c →
    (let t := c.team.tl tl.val
     Completes (exec (.tlRdErr r tl) s) (Acted s c (s.dev.modTeam c.g.team fun x => { x with tls := listSet x.tls tl.val { t with errOp := 0, errCode := 0, errX := 0 } }) false ((scaWrite r.val t.errOp).append (scaWrite (r.val + 1) (t.errCode % 256 + t.errX % 2 ^ 32 * 2 ^ 32))) 0))) ∧
  (∀ tl n s c, ready (.tlWait tl n) none s = some c → slVal c.g c.sp n = 0 → Completes (exec (.tlWait tl n) s) (Acted s c s.dev false RegWrites.none 0)) ∧
  (∀ tl n s c, ready (.tlWait tl n) none s = some c → slVal c.g c.sp n ≠ 0 → slVal c.g c.sp n ≤ (c.team.tl tl.val).counter → Completes (exec (.tlWait tl n) s) (Acted s c (acquire (s.dev.mergeClock (c.g.core / 128) (c.team.tl tl.val).clock) c.gid) false RegWrites.none 0)) ∧
  (∀ tl n s c, ready (.tlWait tl n) none s = some c → (c.team.tl tl.val).counter < slVal c.g c.sp n →
    Completes (exec (.tlWait tl n) s) (Waits s c (beginWait s.dev c.gid (.timeline tl.val (slVal c.g c.sp n)) 3 1 0 (BitVec.ofNat 64 tl.val) c.sp.here) (.timeline tl.val (slVal c.g c.sp n)))))

/-- With a binding and a chunk that pass their checks, `coll.put` of a source whose lines pass their checks holds a contribution for the group's step (R323), `coll.quorum` with a legal quorum and floor sets them from that step on (R324), `coll.close` closes the chunk's step by the rule of the timer (R324), and `coll.get` starts an operation that waits for the result (R325). `hcmd` with legal words and operands on one stack holds its command (R328, R421). -/
def Obligations.collectives_and_hutch_commands_complete : Prop :=
  ((∀ a k r s c va b n, ready (.collPut a k r) none s = some c → room (.collPut a k r) c = true → collBinding c a = .ok (va, b) → collChunk c b k = .ok n →
    (let src : DWord := BitVec.ofNat 64 (readS c.g c.sp r.val)
     c.passes .load 64 (fun _ => none) ((List.range 64).map fun i => (0, src + BitVec.ofNat 64 (64 * i))) = true →
     Completes (exec (.collPut a k r) s) (Held s c s.dev [c.entry 0xB4 c.lanes src [] (.coll va n c.g.stepCur.toNat src)]))) ∧
  (∀ a qf s c va b q f, ready (.collQuorum a qf) none s = some c → collBinding c a = .ok (va, b) → slVal c.g c.sp qf = q + f * 2 ^ 16 → 1 ≤ q → q ≤ 512 → f ≤ q →
    Completes (exec (.collQuorum a qf) s) (Acted s c (evalCollective s.plat { s.dev with coll := { s.dev.coll with quorums := s.dev.coll.quorums ++ [(c.g.job, va, c.g.stepCur.toNat, q, f)] } } c.g.job va) false RegWrites.none 0)) ∧
  (∀ a k s c va b n, ready (.collClose a k) none s = some c → collBinding c a = .ok (va, b) → collChunk c b k = .ok n →
    Completes (exec (.collClose a k) s) (Acted s c (collCloseNow s.plat s.dev c.g.job va b n c.g.stepCur.toNat) false RegWrites.none 0)) ∧
  (∀ r a k t s c va b n, ready (.collGet r a k t) none s = some c → collBinding c a = .ok (va, b) → collChunk c b k = .ok n →
    (let es := (List.range 64).map fun i => (0, BitVec.ofNat 64 (readS c.g c.sp t.val) + BitVec.ofNat 64 (64 * i))
     let ps := es.map (c.placeAt .store)
     c.passes .store 64 notVersioned es = true →
     let w : CollGetWait := { group := c.gid, op := s.dev.nextId, job := c.g.job, binding := va, chunk := n, step := c.g.stepCur.toNat, dst := ps.map fun p => (p.va, p.pa, if p.leaf.repl then some p.leaf.base else none), sd := r.val, issued := s.dev.time }
     Completes (exec (.collGet r a k t) s) (Started s c { s.dev with coll := { s.dev.coll with gets := s.dev.coll.gets ++ [w] } } (Op.of .collGet RegWrites.none false) 0)))) ∧
  (∀ tl sn s c r, ready (.hcmd tl sn) none s = some c → room (.hcmd tl sn) c = true →
    (let ws := (List.range 4).map fun i => BitVec.ofNat 64 (readS c.g c.sp (sn.val + i))
     let w (i : Nat) : Nat := (ws.getD i 0).toNat
     let pages (k : Nat) : List HutchPage := ((r.find? fun e => e.1 == k).map (·.2)).getD []
     let die := c.g.core / 128
     let n := 4 * (w 0 / 256 % 2 ^ 24)
     let sts := (hutchStacks s.dev die (w 1) n (pages 0) ++ hutchStacks s.dev die (w 2) n (pages 1)).eraseDups
     let first := ((pages 0).head?.bind fun p => (hutchFrames s.dev die p.leaf).head?.map fun f => p.leaf.phys f (w 1 - p.leaf.base) / 2 ^ 36).getD 0
     hutchWordsOk ws = true → hutchTranslate c (hutchRanges ws) = .ok r →
     (∀ p ∈ pages 0 ++ pages 1 ++ pages 2, (p.leaf.ver = true → recordOk s.dev p.leaf.addr = true) ∧ ∀ f ∈ hutchFrames s.dev die p.leaf, physOk f = true) →
     (w 0 / 2 ^ 32 ≠ 0 → ∃ p ∈ pages 0, p.leaf.ver = true) → sts.length ≤ 1 → (∀ p ∈ pages 1 ++ pages 2, p.leaf.ver = false ∧ p.leaf.repl = false) →
     (let cmd : HutchCmd := { id := s.dev.nextId, words := ws, job := c.g.job, team := c.g.team, group := c.gid, tl := tl.val, number := 0, die, stack := sts.headD first, dst := pages 0, src := pages 1, aux := pages 2, mPages := [], mAddr := 0, hyper := [], err := none, ready := false, since := 0, at_ := 0, sums := (0, 0) }
      Completes (exec (.hcmd tl sn) s) (Held s c { s.dev with nextId := s.dev.nextId + 1 } [c.entry 0xBA c.lanes (ws.getD 1 0) [] (.hcmd tl.val cmd)]))))

/-- `step.adv` advances `step.cur` where the sideboard's lead rule lets it, and waits where it does not (R326, R412); `step.rd` answers the entry of a selector below 514 (R327). `take` of 1 to 65536 indices starts a request on the core, which has handled nothing of the clock that comes after it (R329, R358); `steal` sends one request to another core, and has no effect where R330 gives it none; `gw.launch` of a group that has nothing on its way out, of a record whose first byte passes its checks, starts a device-scope release that submits its record (R211, R331). -/
def Obligations.sideboard_ranges_and_launch_complete : Prop :=
  ((∀ r t s c, ready (.stepAdv r t) none s = some c → c.clear = true → ((s.dev.job c.g.job).all fun j => leadOk s.plat j c.g.stepCur) = true →
    Completes (exec (.stepAdv r t) s) (Acted s c (advanceStep s.plat c.reopened.d c.gid) false (scaWrite r.val 0) 0)) ∧
  (∀ r t s c j, ready (.stepAdv r t) none s = some c → c.clear = true → s.dev.job c.g.job = some j → leadOk s.plat j c.g.stepCur = false →
    (let n := (t.getD 0).toNat
     Completes (exec (.stepAdv r t) s) (Waits s c (beginWait c.reopened.d c.gid (.stepAdv r) 7 1 (if n = 0 then 0 else s.dev.clock + n) 0 c.sp.here) (.stepAdv r)))) ∧
  (∀ r p s c, ready (.stepRd r p) none s = some c → slVal c.g c.sp p < 514 →
    Completes (exec (.stepRd r p) s) (Acted s c s.dev false (scaWrite r.val (match s.dev.job c.g.job with | some j => stepRead s.plat j (slVal c.g c.sp p) | none => 0)) 0))) ∧
  ((∀ r n s c, ready (.take r n) none s = some c → 1 ≤ slVal c.g c.sp n → slVal c.g c.sp n ≤ 65536 → takeLate s.dev c.g = false →
    Completes (exec (.take r n) s) (Started s c (s.dev.modCore c.g.core fun x => { x with lastTake := some (s.dev.clock, c.g.slot), takes := x.takes ++ [{ group := c.gid, op := s.dev.nextId, launch := rangeLaunch s.dev c.g, n := slVal c.g c.sp n, sd := r.val }] }) (Op.of .take RegWrites.none false) 0)) ∧
  (∀ k s c, ready (.steal k) none s = some c →
    (let v := slVal c.g c.sp k
     let l := rangeLaunch s.dev c.g
     let r := rangesOf (s.dev.core c.g.core) l
     (v < 512 ∧ v ≠ c.g.core ∧ l ≠ 0 ∧ r.spareHi ≤ r.spareLo →
       Completes (exec (.steal k) s) (Acted s c (s.dev.modCore v fun x => { x with steals := x.steals ++ [{ thief := c.g.core, launch := l, forTake := false, lo := 0, hi := 0 }] }) false RegWrites.none 0)) ∧
     (¬(v < 512 ∧ v ≠ c.g.core ∧ l ≠ 0 ∧ r.spareHi ≤ r.spareLo) → Completes (exec (.steal k) s) (Acted s c s.dev false RegWrites.none 0)))) ∧
  (∀ r a s c, ready (.gwLaunch r a) none s = some c → c.g.handed = [] → c.g.releases = [] →
    c.passes .load 1 (fun _ => none) [(0, BitVec.ofNat 64 (readS c.g c.sp a.val))] = true →
    Completes (exec (.gwLaunch r a) s) (Started s c (s.dev.modGroup c.gid fun g => { g with releases := g.releases ++ [{ scope := .dev, posted := false, toArrive := [], toAck := [], act := .launch s.dev.nextId r.val (BitVec.ofNat 64 (readS c.g c.sp a.val)) }] }) { Op.of .pending RegWrites.none false with closing := some c.k } 0)))

/-- `mig` and `mig.near`, once every split's region has closed and nothing of the group is on its way out, move the group to the named core, or the core beside the home slice of the named line, where R332 gives status 0: the group is migrating, its place there held, with its registers and its status to be written; at its arrival the status is in sd and the registers and memory are as they were; otherwise they answer the status and the group stays (R332, R333). -/
def Obligations.migration_completes : Prop :=
  (let closed (i : Instr) (c : Ctx) : Prop := c.sp.rest = none ∧ othersClosing c = false ∧ (closeHere i c).sp.gone = false ∧ (closeHere i c).g.handed = [] ∧ (closeHere i c).g.releases = []
   let moves (i : Instr) (s : State) (c : Ctx) (r : SReg) (t : Nat) : Prop :=
     let c' := closeHere i c
     let d := c'.d.modCore c.g.core fun k => { k with shelf := dropShelf c.gid k.shelf }
     (migStatus s.plat d c'.g t = 0 → c.g.id = c.gid → (∀ e ∈ (s.dev.core c.g.core).chunkQueue, e.1 ≠ c.gid) → Completes (exec i s) fun u =>
       (Tbl.find u.dev.groups c.gid).map (fun g => (g.state, g.core, (splitOf g c.k).map fun sp => (sp.pc, sp.index))) = some (.migrating, t, some c.here) ∧
       regsOf u.dev c.gid = regsOf s.dev c.gid ∧ u.dev.mem = s.dev.mem ∧
       ((Tbl.find u.dev.groups c.gid).bind fun g => g.ops.getLast?).map (fun o => (o.kind, o.writes, o.closing)) = some (.pending, scaWrite r.val 0, some c.k)) ∧
     (migStatus s.plat d c'.g t ≠ 0 → Completes (exec i s) (Acted s c d false (scaWrite r.val (migStatus s.plat d c'.g t)) 0))
   (∀ r k s c, ready (.mig r k) none s = some c → closed (.mig r k) c → moves (.mig r k) s c r (slVal c.g c.sp k)) ∧
   (∀ r a s c, ready (.migNear r a) none s = some c → closed (.migNear r a) c →
     (let e : Nat × DWord := (0, BitVec.ofNat 64 (readS c.g c.sp a.val))
      c.passes .load 1 (fun _ => none) [e] = true → moves (.migNear r a) s c r (homeSlice s.plat (c.placeAt .load e).pa)))) ∧
  (∀ gid s g o, Tbl.find s.dev.groups gid = some g → g.state = .migrating → (g.ops.find? fun o => o.kind == .pending) = some o → (∀ x ∈ g.ops, x.id = o.id → x = o) → o.tileWrites = [] → o.verLast = none → o.shape = none →
    Event (.migrationArrival gid) s fun d => regsOf d gid = some (g.landed (o.closing.getD (o.splits.headD 4)) o.tr o.writes 0) ∧ d.mem = s.dev.mem ∧ (Tbl.find d.groups gid).map (fun x => (x.state, x.core)) = some (.live, g.core))

/-- `sys.rd` answers the control register (R335); `sys.wr` of one that is not read-only writes it (R93, R335); the writes with rows of their own drop the job's translation of a page (R366), drop its instruction-cache lines and what its fetch keeps of contents before stores that have been acknowledged (R131, R135), set its lead bound (R336) and change a word of its member mask (R410). -/
def Obligations.control_registers_complete : Prop :=
  (∀ r n, Lands (.sysRd r n) none false (sysRdWrites r n.toNat) 0) ∧
  (∀ n r s c, ready (.sysWr n r) none s = some c → ctlKind n.toNat ≠ some .ro32 → ctlKind n.toNat ≠ some .ro64 →
    Completes (exec (.sysWr n r) s) (Acted s c (ctlWrite c n.toNat (writeValue c r)).1 false RegWrites.none (ctlWrite c n.toNat (writeValue c r)).2)) ∧
  (∀ r s c, ready (.xltInv r) none s = some c → Completes (exec (.xltInv r) s) (Acted s c (dropLeaf s.dev c.g.job (writeValue c r).toNat) false RegWrites.none 0)) ∧
  (∀ r s c, ready (.dbgIflush r) none s = some c → Completes (exec (.dbgIflush r) s) (Acted s c (flushCode s.dev c.g.job) false RegWrites.none 0)) ∧
  (∀ r s c, ready (.ctlLeadWrite r) none s = some c →
    Completes (exec (.ctlLeadWrite r) s) (Acted s c (sbEvaluate s.plat (s.dev.modJob c.g.job fun j => { j with lead := BitVec.ofNat 32 (min 15 ((writeValue c r).toNat % 2 ^ 32)) }) c.g.job) false RegWrites.none 0)) ∧
  (∀ i r s c, ready (.sbMemWrite i r) none s = some c →
    Completes (exec (.sbMemWrite i r) s) (Acted s c (sbEvaluate s.plat (s.dev.modJob c.g.job fun j => { j with sbMem := maskWord j.sbMem i.val (writeValue c r) }) c.g.job) false RegWrites.none 0))

/-- `trap` takes the software trap with its code (R334), and `brk` the breakpoint trap, with its tag and span in the record (R134, R364), whatever their operands. -/
def Obligations.software_traps_taken : Prop :=
  (∀ code, Raises (.trapCode code) none fun _ => { code := .software, lane := none, info := code.zeroExtend 64 }) ∧
  (∀ span tag, Raises (.brk span tag) none fun _ => { code := .breakpoint, lane := none, info := BitVec.ofNat 64 (tag.toNat + span * 2 ^ 22) })

/-- `bra` that is taken places the split at the target as a whole; it is always taken without a guard, and with one where the guard selects a lane, or under `.all` every lane, of the split; one that is not taken goes on at the next clause (R181). -/
def Obligations.bra_moves_the_whole_split : Prop :=
  (∀ g all off s c, ready (.bra g all off) g s = some c → (g = none ∨ (if all then c.lanes = c.sp.mask else c.lanes ≠ 0)) → Completes (exec (.bra g all off) s) (Jumped s c (branchTarget c.sp off))) ∧
  (∀ g all off s c, ready (.bra g all off) g s = some c → g ≠ none → ¬(if all then c.lanes = c.sp.mask else c.lanes ≠ 0) → Completes (exec (.bra g all off) s) (Acted s c s.dev false RegWrites.none 0))

/-- A `brd` that every lane takes places the split at the target; one that none takes goes on; one that some lanes take divides the split, or defers its other lanes where the group has four splits (R37, R38, R182); `merge` places the split at the next clause, to wait there for the group's other splits (R185). -/
def Obligations.divergent_branches_and_merges_complete : Prop :=
  (∀ g off m s c, ready (.brd g off m) g s = some c → c.lanes = 0 → Completes (exec (.brd g off m) s) (Acted s c s.dev false RegWrites.none 0)) ∧
  (∀ g off m s c, ready (.brd g off m) g s = some c → c.lanes ≠ 0 → c.lanes = c.sp.mask → Completes (exec (.brd g off m) s) (Jumped s c (branchTarget c.sp off))) ∧
  (∀ g off m s c, ready (.brd g off m) g s = some c → c.lanes ≠ 0 → c.lanes ≠ c.sp.mask → splitCount c.g < 4 → c.sp.merges.length < 8 →
    Completes (exec (.brd g off m) s) fun t =>
      regsOf t.dev c.gid = regsOf s.dev c.gid ∧ t.dev.mem = s.dev.mem ∧
      ((Tbl.find t.dev.groups c.gid).bind fun x => splitOf x c.k).map (fun sp => (sp.pc, sp.index, sp.mask, sp.merges)) = some (nextClause c.sp, 0, c.sp.mask &&& ~~~c.lanes, c.sp.merges ++ [mergePoint c.sp off m]) ∧
      ((Tbl.find t.dev.groups c.gid).bind fun x => splitOf x (freeSplit c.g)).map (fun sp => (sp.pc, sp.index, sp.mask, sp.merges)) = some (branchTarget c.sp off, 0, c.lanes, c.sp.merges ++ [mergePoint c.sp off m])) ∧
  (∀ g off m s c, ready (.brd g off m) g s = some c → c.lanes ≠ 0 → c.lanes ≠ c.sp.mask → 4 ≤ splitCount c.g → c.g.deferrals.length < 16 →
    Completes (exec (.brd g off m) s) fun t =>
      regsOf t.dev c.gid = regsOf s.dev c.gid ∧ t.dev.mem = s.dev.mem ∧
      ((Tbl.find t.dev.groups c.gid).bind fun x => splitOf x c.k).map (fun sp => (sp.pc, sp.index, sp.mask, sp.merges)) = some (branchTarget c.sp off, 0, c.lanes, c.sp.merges) ∧
      (Tbl.find t.dev.groups c.gid).map (·.deferrals) = some (c.g.deferrals ++ [{ split := c.k, resumePc := nextClause c.sp, resumeMask := c.sp.mask &&& ~~~c.lanes, merge := mergePoint c.sp off m, parked := 0, second := false }])) ∧
  (∀ s c, ready .mergeWait none s = some c → Completes (exec .mergeWait s) fun t =>
    Jumped s c (nextClause c.sp) t ∧ ((Tbl.find t.dev.groups c.gid).bind fun x => splitOf x c.k).map (·.mergeWait) = some (decide (1 < (liveSplits c.g).length)))

/-- `call` writes the address of the next clause to its link and places the split at the target (R186); `ret` and `jmp` place it at the target where the active lanes agree on one, and where they do not the lanes with the lowest lane's target form a new split there and the others stay, to issue it again, or the divergence-overflow trap is raised with four splits (R187). -/
def Obligations.calls_complete : Prop :=
  (∀ link off s c, ready (.call link off) none s = some c → Completes (exec (.call link off) s) fun t =>
    Beside s c s.dev t ∧ regsOf t.dev c.gid = (Tbl.find s.dev.groups c.gid).map (fun g => g.landed c.k false (linkWrites c link (nextClause c.sp).toNat) 0) ∧ standsAt t.dev c.gid c.k = some (branchTarget c.sp off, 0)) ∧
  (∀ link s c target, ready (.ret link) none s = some c → c.lanes ≠ 0 → (∀ l ∈ lanesOf c.lanes, linkValue c link l = target) → Completes (exec (.ret link) s) (Jumped s c target)) ∧
  (∀ s c target, ready .retShort none s = some c → c.lanes ≠ 0 → (∀ l ∈ lanesOf c.lanes, linkValue c (.v 30) l = target) → Completes (exec .retShort s) (Jumped s c target)) ∧
  (∀ r off s c target, ready (.jmp r off) none s = some c → c.lanes ≠ 0 → (∀ l ∈ lanesOf c.lanes, linkValue c r l + BitVec.ofInt 64 (16 * off.toInt) = target) → Completes (exec (.jmp r off) s) (Jumped s c target)) ∧
  (let divides (i : Instr) (s : Machine.State) (c : Ctx) (target : Nat → DWord) : Prop :=
     let t0 := target ((lanesOf c.lanes).headD 0)
     let m := maskWhere c.lanes fun l => target l == t0
     m ≠ c.lanes →
     (splitCount c.g < 4 → Completes (exec i s) fun t =>
       regsOf t.dev c.gid = regsOf s.dev c.gid ∧ t.dev.mem = s.dev.mem ∧
       ((Tbl.find t.dev.groups c.gid).bind fun x => splitOf x c.k).map (fun sp => (sp.pc, sp.index, sp.mask, sp.merges)) = some (c.sp.pc, c.sp.index, c.sp.mask &&& ~~~m, c.sp.merges) ∧
       ((Tbl.find t.dev.groups c.gid).bind fun x => splitOf x (freeSplit c.g)).map (fun sp => (sp.pc, sp.index, sp.mask, sp.merges)) = some (t0, 0, m, c.sp.merges)) ∧
     (4 ≤ splitCount c.g → exec i s = .next { s with dev := takeException s.plat s.dev c.gid c.site (Exc.of .divergenceOverflow) })
   (∀ link s c, ready (.ret link) none s = some c → divides (.ret link) s c (linkValue c link)) ∧
   (∀ s c, ready .retShort none s = some c → divides .retShort s c (linkValue c (.v 30))) ∧
   (∀ r off s c, ready (.jmp r off) none s = some c → divides (.jmp r off) s c fun l => linkValue c r l + BitVec.ofInt 64 (16 * off.toInt)))

/-- `halt` of some lanes of a split takes them out of it, and the rest goes on at the next clause; of all lanes of a split without a deferral it takes the split out of its group, and with one the split goes on with the entry's lanes (R38, R189). -/
def Obligations.halt_completes : Prop :=
  (∀ i g s c, ((∃ q, i = .halt q ∧ g = q) ∨ (i = .haltShort ∧ g = none)) → ready i g s = some c →
    (c.lanes = 0 → Completes (exec i s) (Acted s c s.dev false RegWrites.none 0)) ∧
    (c.lanes ≠ 0 → c.sp.mask &&& ~~~c.lanes ≠ 0 → Completes (exec i s) fun t =>
      regsOf t.dev c.gid = regsOf s.dev c.gid ∧ t.dev.mem = s.dev.mem ∧
      ((Tbl.find t.dev.groups c.gid).bind fun x => splitOf x c.k).map (fun sp => (sp.pc, sp.index, sp.mask)) = some (nextClause c.sp, 0, c.sp.mask &&& ~~~c.lanes)) ∧
    (c.lanes ≠ 0 → c.sp.mask &&& ~~~c.lanes = 0 → topDeferral c.g c.k = none → Completes (exec i s) fun t =>
      regsOf t.dev c.gid = regsOf s.dev c.gid ∧ t.dev.mem = s.dev.mem ∧ (Tbl.find t.dev.groups c.gid).map (fun x => Tbl.keys x.splits) = some ((Tbl.keys c.g.splits).filter (· != c.k))) ∧
    (∀ e, c.lanes ≠ 0 → c.sp.mask &&& ~~~c.lanes = 0 → topDeferral c.g c.k = some e →
      (let goesOn (pc : DWord) (m : Mask) (es : List Deferral) : Prop := Completes (exec i s) fun t =>
         regsOf t.dev c.gid = regsOf s.dev c.gid ∧ t.dev.mem = s.dev.mem ∧
         ((Tbl.find t.dev.groups c.gid).bind fun x => splitOf x c.k).map (fun sp => (sp.pc, sp.index, sp.mask)) = some (pc, 0, m) ∧ (Tbl.find t.dev.groups c.gid).map (·.deferrals) = some es
       (e.second = false → goesOn e.resumePc e.resumeMask (putDeferral c.g.deferrals c.k (some { e with parked := 0, second := true }))) ∧
       (e.second = true → e.parked ≠ 0 → goesOn e.merge e.parked (putDeferral c.g.deferrals c.k none)))))

/-- `rgn` hands the held effects of the split's region over and opens a region with the named live-ins at the next clause (R119, R127); `xacq` takes the blocks it asks for at once where they are free and nothing waits for blocks, and waits otherwise; `xrel` gives blocks back and serves what waits (R74, R75, R191). -/
def Obligations.regions_and_blocks_complete : Prop :=
  (∀ f s c, ready (.rgn f) none s = some c → (∀ e < 6, f.xmask.getLsbD e = true → e < c.g.h) →
    (∀ k ∈ Tbl.keys c.g.transients, (if k < 32 then f.vmask.getLsbD k else if k < 224 then f.xmask.getLsbD ((k - 32) / 32) else f.smask.getLsbD (k - 224)) = false) →
    Completes (exec (.rgn f) s) fun t => Jumped s c (nextClause c.sp) t ∧
      ((Tbl.find t.dev.groups c.gid).bind fun x => splitOf x c.k).map (fun sp => (sp.region.clause, sp.region.index, sp.region.whole, sp.region.vmask, sp.region.smask, sp.region.xmask, sp.region.pmask)) = some (nextClause c.sp, 0, false, f.vmask, f.smask, f.xmask, f.pmask) ∧
      (Tbl.find t.dev.groups c.gid).map (fun x => (x.effects, x.handed)) = some (c.g.effects.filter (fun e => e.split != c.k), c.g.handed ++ c.g.effects.filter fun e => e.split == c.k)) ∧
  (∀ n s c, ready (.xacq n) none s = some c → c.clear = true → n.toNat ≠ 0 → c.g.h + n.toNat ≤ 6 → (s.dev.core c.g.core).chunkQueue = [] → n.toNat ≤ freeChunks (s.dev.core c.g.core) →
    Completes (exec (.xacq n) s) (Acted s c (takeChunks c.reopened.d c.gid n.toNat) false RegWrites.none 0)) ∧
  (∀ n s c, ready (.xacq n) none s = some c → c.clear = true → n.toNat ≠ 0 → c.g.h + n.toNat ≤ 6 → ¬((s.dev.core c.g.core).chunkQueue = [] ∧ n.toNat ≤ freeChunks (s.dev.core c.g.core)) →
    Completes (exec (.xacq n) s) (Waits s c (beginWait (c.reopened.d.modCore c.g.core fun x => { x with chunkQueue := x.chunkQueue ++ [(c.gid, n.toNat)] }) c.gid (.xacq n.toNat) 5 1 0 0 c.sp.here) (.xacq n.toNat))) ∧
  (∀ n s c, ready (.xrel n) none s = some c → n.toNat ≠ 0 → n.toNat ≤ c.g.h →
    Completes (exec (.xrel n) s) (Acted s c (grantChunks c.g.core ((s.dev.core c.g.core).chunkQueue.length + 1) (giveChunks s.dev c.gid n.toNat)) false RegWrites.none 0))

/-! Events of the device's units. -/

/-- A decrement that reaches a waiting group's drawer below its count lowers the count, brings the clock of what it releases to the die (R217), and does nothing else; one that brings the count to 0 wakes the group, whose waiting instruction completes with what R47 gives its wait kind: the status it carries, 0, the advance of `step.cur`, or nothing, where an instruction that a hold or a page kept issues again and an `ld.ver` chooses its slot again (R46, R47). One that brings a live task drawer to 0 puts its task on the core's start queue (R44, R48). A `wait.ctr` or `step.adv` that its deadline ends completes with TIMEOUT and a new generation of the drawer, so that its handles are stale (R46). A task starts on its core as a fresh group with a full mask, at its entry, its argument in s0 (R48). -/
def Obligations.decrements_deadlines_and_tasks : Prop :=
  (∀ core s y rest gid seq g, (s.dev.core core).arrivals = y :: rest → y.group = some (gid, seq) → y.ack = none → Tbl.find s.dev.groups gid = some g →
    g.savedDrawer = none → g.state = .waiting → g.core = core → g.waitSeq = seq → g.wait ≠ none → pastDeadline s.dev g = false →
    (let x := s.dev.drawer core g.block
     y.n.toNat < x.count.toNat →
     Event (.decrementArrival core) s fun d => d = ((s.dev.modCore core fun k => { k with arrivals := rest }).mergeClock (core / 128) y.clock).setDrawer core g.block { x with count := x.count - y.n })) ∧
  (∀ core s y rest gid seq g sp, (s.dev.core core).arrivals = y :: rest → y.group = some (gid, seq) → y.ack = none → Tbl.find s.dev.groups gid = some g → g.id = gid →
    g.savedDrawer = none → g.state = .waiting → g.core = core → g.waitSeq = seq → pastDeadline s.dev g = false → splitOf g g.waitSplit = some sp → current sp ≠ none →
    (let x := s.dev.drawer core g.block
     let woken (r : Regs) (pos : DWord × Nat) (d : Device) : Prop := regsOf d gid = some r ∧ waitIn d gid = none ∧ (Tbl.find d.groups gid).map (·.state) = some .live ∧ standsAt d gid g.waitSplit = some pos
     let next : DWord × Nat := if sp.index + 1 < hdrCount sp.header then (sp.pc, sp.index + 1) else (nextClause sp, 0)
     0 < x.count.toNat → x.count.toNat ≤ y.n.toNat → x.flags.getLsbD 1 = false → y.status < 16 →
     (∀ p, g.wait = some (.barrier p) → Event (.decrementArrival core) s (woken g.regs next)) ∧
     (∀ tl n, g.wait = some (.timeline tl n) → Event (.decrementArrival core) s (woken g.regs next)) ∧
     (∀ n, g.wait = some (.xacq n) → Event (.decrementArrival core) s (woken g.regs next)) ∧
     (∀ line va sd pd since st, g.wait = some (.lock line va sd pd since st) →
       Event (.decrementArrival core) s fun d => woken (g.landed g.waitSplit false ((scaWrite sd.val y.status).append (if pd.en then predWrite pd.p.val sp.mask (if y.status = 0 then sp.mask else 0) else RegWrites.none)) 0) next d ∧
         (Tbl.find d.groups gid).map (·.locks) = some (if y.status = 0 ∨ y.status = 1 then g.locks ++ [line] else g.locks)) ∧
     (∀ pa sd, g.wait = some (.counter pa sd) → Event (.decrementArrival core) s (woken (g.landed g.waitSplit false (scaWrite sd.val 0) 0) next)) ∧
     (∀ sd, g.wait = some (.stepAdv sd) → Event (.decrementArrival core) s (woken { g.landed g.waitSplit false (scaWrite sd.val 0) 0 with stepCur := g.stepCur + 1 } next)) ∧
     (∀ op o q, g.wait = some (.sealed op) → (g.ops.find? fun o => o.id == op) = some o → o.kind = .verLoad q →
       Event (.decrementArrival core) s fun d => woken g.regs (sp.pc, sp.index) d ∧ (d.home q.record).loads = (s.dev.home q.record).loads ++ [(gid, op)]) ∧
     (∀ r, g.wait = some (.hold r) → Event (.decrementArrival core) s (woken g.regs (sp.pc, sp.index))) ∧
     (∀ site job va, g.wait = some (.page site job va) → Event (.decrementArrival core) s (woken g.regs (sp.pc, sp.index))))) ∧
  (∀ core s y rest i, (s.dev.core core).arrivals = y :: rest → y.group = none → y.ack = none → findDrawer s.dev y.handle = .core core i →
    (let x := s.dev.drawer core i
     x.kind = 2 → x.reserved = false → drawerJob s.dev x = some y.job → 0 < x.count.toNat → x.count.toNat ≤ y.n.toNat →
     Event (.decrementArrival core) s fun d => d.mem = s.dev.mem ∧ d.groups = s.dev.groups ∧ ∃ z, z.count = 0 ∧ z.entry = x.entry ∧ z.arg = x.arg ∧ z.team = x.team ∧
       d.drawer core i = z ∧ (d.core core).startQueue = (s.dev.core core).startQueue ++ [(i, z)])) ∧
  (∀ gid s g sd, Tbl.find s.dev.groups gid = some g → g.id = gid → g.savedDrawer = none → g.state = .waiting → ((∃ pa, g.wait = some (.counter pa sd)) ∨ g.wait = some (.stepAdv sd)) → pastDeadline s.dev g = true →
    Event (.waitDeadline gid) s fun d => regsOf d gid = some (g.landed g.waitSplit false (scaWrite sd.val 1) 0) ∧ waitIn d gid = none ∧
      (Tbl.find d.groups gid).map (·.state) = some .live ∧ (d.drawer g.core g.block).gen = (s.dev.drawer g.core g.block).gen + 1 ∧ d.mem = s.dev.mem) ∧
  (∀ core s i x t slot, nextTask s.dev core = some (i, x, t) → firstSlot s.dev core = some slot →
    Event (.taskStart core) s fun d => d.mem = s.dev.mem ∧ (∀ j, j ≠ s.dev.nextId → regsOf d j = regsOf s.dev j) ∧
      ∃ g, Tbl.find d.groups s.dev.nextId = some g ∧ g.job = t.job ∧ g.team = t.id ∧ g.index = t.nextTask ∧ g.core = core ∧ g.slot = slot ∧ g.state = .live ∧ g.h = 0 ∧
        g.s[0]? = some x.arg ∧ g.splits.map (fun e => (e.1, e.2.pc, e.2.index, e.2.mask)) = [(0, x.entry, 0, BitVec.allOnes 32)])

/-- A `trap.act` write that names a trapped group of its job ends the group's wait (R366): RESUME places the trapped split at the trapped instruction, SKIP at the one after it, and HALT halts the group; the registers stay. A pending version-ring trap of a group that may issue is taken as R365 describes (R453). -/
def Obligations.trapped_groups_acted_on : Prop :=
  (let named (kind : Nat) (s : Machine.State) (g : Machine.Group) (t : Trapped) (sp : Split) : Prop :=
    ∃ job v, pendingAct s.dev kind = some (job, v) ∧ v.toNat / 2 ^ 32 = kind ∧ trappedGroup s.dev job (v.setWidth 32) = some g ∧ Tbl.find s.dev.groups g.id = some g ∧ g.state = .waiting ∧
      g.wait = some (.trap t) ∧ t.ring = none ∧ g.savedDrawer = none ∧ (s.dev.drawer g.core g.block).count = 1 ∧ splitOf g t.site.split = some sp
   (∀ s g t sp, named 0 s g t sp → Event .trapActResume s fun d =>
      regsOf d g.id = some g.regs ∧ waitIn d g.id = none ∧ standsAt d g.id t.site.split = some (t.site.pc, t.site.index) ∧ d.mem = s.dev.mem) ∧
   (∀ s g t sp, named 1 s g t sp → t.clauseCheck = false → sp.code ≠ [] → Event .trapActSkip s fun d =>
      regsOf d g.id = some g.regs ∧ waitIn d g.id = none ∧ d.mem = s.dev.mem ∧
      standsAt d g.id t.site.split = some (if t.site.index + 1 < hdrCount sp.header then (t.site.pc, t.site.index + 1) else (nextClause sp, 0))) ∧
   (∀ s g t sp, named 2 s g t sp → ((Tbl.find s.dev.teams g.team).map (·.handler)) = some false → Event .trapActHalt s fun d =>
      regsOf d g.id = some g.regs ∧ waitIn d g.id = none ∧ (Tbl.find d.groups g.id).map (·.state) = some .halted)) ∧
  (∀ gid s g r rest, Tbl.find s.dev.groups gid = some g → g.state = .live → g.ringTraps = r :: rest →
    Event (.pendingTrapTake gid) s fun d => d = takeTrap s.plat (s.dev.modGroup gid fun g => { g with ringTraps := rest }) gid r.site (1 + r.site.index) (Exc.of .versionRing) false (some r))

/-- The moves of a slot exchange positions and touch no register and no memory (R51, R52, R452): SWAP the next pair of a blocked active group and a ready pending one that is due (R350), PENDING_MOVE the oldest ready pending group into a free active position, AGED_PENDING_SWAP a pending group that has been ready for 4096 clocks with the active one that issued least recently, of which a tie goes to the lower position, the model's choice (notes/assumptions/100.md). Two splits that may merge become one, under the lower number, with the lanes of both at the same clause (R39, R40). A deferral whose merge point its split has reached places the split's lanes aside and starts the deferred ones; at its second arrival the lanes set aside return (R38). Registers and memory stay. A group with no split and nothing outstanding leaves the device (R35). A group that has migrated runs at its target from then on, and each of its splits enters its clause again (R66, R451). -/
def Obligations.positions_splits_and_groups_change : Prop :=
  ((let keeps (s : Machine.State) (d : Device) : Prop := d.mem = s.dev.mem ∧ ∀ j, regsOf d j = regsOf s.dev j
   let posOf (d : Device) (g : Machine.Group) : Option Nat := (Tbl.find d.groups g.id).map (·.pos)
   (∀ core slot s out into rest, swapPairs s.dev core slot = (out.id, into.id) :: rest → slotFree s.dev core slot = true → Tbl.find s.dev.groups out.id = some out → Tbl.find s.dev.groups into.id = some into → out.id ≠ into.id →
      Event (.swapGroups core slot) s fun d => keeps s d ∧ posOf d out = some into.pos ∧ posOf d into = some out.pos) ∧
   (∀ core slot s p g, ((freePos s.dev core slot).find? fun p => decide (p < 8)) = some p → oldestPending s.dev core slot = some g → slotFree s.dev core slot = true → swapPairs s.dev core slot = [] → Tbl.find s.dev.groups g.id = some g →
      Event (.pendingMove core slot) s fun d => keeps s d ∧ posOf d g = some p) ∧
   (∀ core slot s out into, oldestPending s.dev core slot = some into →
      bestGroup (fun a b => decide (a.lastIssue < b.lastIssue) || (a.lastIssue == b.lastIssue && decide (a.pos < b.pos))) ((slotGroups s.dev core slot).filter fun g => decide (g.pos < 8)) = some out →
      slotFree s.dev core slot = true → into.readyAt + 4096 ≤ s.dev.clock → swapPairs s.dev core slot = [] → ((freePos s.dev core slot).any fun p => decide (p < 8)) = false →
      Tbl.find s.dev.groups out.id = some out → Tbl.find s.dev.groups into.id = some into → out.id ≠ into.id →
      Event (.agedPendingSwap core slot) s fun d => keeps s d ∧ posOf d out = some into.pos ∧ posOf d into = some out.pos))) ∧
  ((let keeps (s : Machine.State) (d : Device) (gid : Nat) : Prop := d.mem = s.dev.mem ∧ regsOf d gid = regsOf s.dev gid
   let at_ (d : Device) (gid k : Nat) : Option (DWord × Nat × Mask) := ((Tbl.find d.groups gid).bind fun g => splitOf g k).map fun sp => (sp.pc, sp.index, sp.mask)
   (∀ gid s g a b, Tbl.find s.dev.groups gid = some g → g.state = .live → mergePair g = some (a, b) → splitOf g a.1 = some a.2 → splitOf g b.1 = some b.2 →
      Event (.splitMerge gid) s fun d => keeps s d gid ∧ at_ d gid a.1 = some (a.2.pc, 0, a.2.mask ||| b.2.mask) ∧ (Tbl.find d.groups gid).map (fun x => Tbl.keys x.splits) = some ((Tbl.keys g.splits).filter (· != b.1))) ∧
   (∀ gid k s g sp e, Tbl.find s.dev.groups gid = some g → g.state = .live → splitOf g k = some sp → topDeferral g k = some e → deferralDue g k sp = true → e.second = false →
      Event (.deferralStep gid k) s fun d => keeps s d gid ∧ at_ d gid k = some (e.resumePc, 0, e.resumeMask) ∧
        (Tbl.find d.groups gid).map (·.deferrals) = some (putDeferral g.deferrals k (some { e with parked := sp.mask, second := true }))) ∧
   (∀ gid k s g sp e, Tbl.find s.dev.groups gid = some g → g.state = .live → splitOf g k = some sp → topDeferral g k = some e → deferralDue g k sp = true → e.second = true → sp.mask ||| e.parked ≠ 0 →
      Event (.deferralStep gid k) s fun d => keeps s d gid ∧ at_ d gid k = some (sp.pc, sp.index, sp.mask ||| e.parked) ∧
        (Tbl.find d.groups gid).map (·.deferrals) = some (putDeferral g.deferrals k none)))) ∧
  ((∀ gid s g, Tbl.find s.dev.groups gid = some g → drained g = true → Event (.groupExit gid) s fun d => Tbl.find d.groups gid = none) ∧
  (∀ gid s g, Tbl.find s.dev.groups gid = some g → g.state = .migrating → Event (.migrationArrival gid) s fun d => d.mem = s.dev.mem ∧
    ∃ x, Tbl.find d.groups gid = some x ∧ x.state = .live ∧ x.core = g.core ∧ x.arrivedAt = s.dev.nextId ∧ ∀ e ∈ x.splits, e.2.entry ≠ none))

/-- An operation that holds a result writes it when it completes, its registers, its tile elements and, of an `ld.ver`, `ver.last`, and with it leaves the list of what is outstanding (R107, R243, R300, R304); one that met an exception raises it and writes nothing (R237). The reading of an `sh.ld` that gives a snapshot puts it into the shape register, and one that fails raises the shape-record fault and leaves the register without a snapshot (R310). -/
def Obligations.operations_complete : Prop :=
  (let left (g : Machine.Group) (op : Nat) : List Op := (g.ops.filter fun x => x.id != op).map Op.unmarked
   (∀ gid op s g o, Tbl.find s.dev.groups gid = some g → (g.ops.find? fun x => x.id == op) = some o → o.kind = .value ∨ o.kind = .load ∨ o.kind = .matrix →
     o.exc = none → o.shape = none →
     (let cell (d : Device) (t k : Nat) : Word := Cells.get 0 (tileOf d g.core t).cells k
      Event (.operationComplete gid op) s fun d =>
       regsOf d gid = some { g.landed (o.closing.getD (o.splits.headD 4)) o.tr o.writes 0 with verLast := match o.verLast with | some v => BitVec.ofNat 32 v | none => g.verLast } ∧ opsIn d gid = some (left g op) ∧
       d.mem = s.dev.mem ∧ (∀ j, j ≠ gid → regsOf d j = regsOf s.dev j) ∧
       (g.state ≠ .halted →
         (∀ pre w post, o.tileWrites = pre ++ w :: post → (∀ u ∈ post, ¬(u.1 = w.1 ∧ u.2.1 = w.2.1)) → cell d w.1 w.2.1 = w.2.2) ∧
         (∀ t k, (∀ u ∈ o.tileWrites, ¬(u.1 = t ∧ u.2.1 = k)) → cell d t k = cell s.dev t k)))) ∧
   (let failed (d : Device) (gid op : Nat) (o : Op) (core : Nat) : Device :=
      unblock ((if o.entry then freeEntry d core else d).modGroup gid fun g => { g with ops := g.ops.filter (fun x => x.id != op), shapes := match o.shape with | some (m, _) => listSet g.shapes m none | none => g.shapes }) gid
    (∀ gid op s g o e, Tbl.find s.dev.groups gid = some g → (g.ops.find? fun x => x.id == op) = some o → o.kind = .value ∨ o.kind = .load ∨ o.kind = .matrix → o.exc = some e →
      Event (.operationComplete gid op) s fun d => d = takeException s.plat (failed s.dev gid op o g.core) gid o.site e) ∧
    (∀ gid op s g o q w x e, Tbl.find s.dev.groups gid = some g → g.id = gid → (g.ops.find? fun x => x.id == op) = some o → o.kind = .shape q → shapeWord s.plat s.dev g q = some (some (w, false), e) → shapeStep q w = .snap x →
      Event (.operationComplete gid op) s fun d => (Tbl.find d.groups gid).map (·.shapes) = some (listSet g.shapes q.sh (some x)) ∧ opsIn d gid = some (left g op) ∧ d.mem = s.dev.mem) ∧
    (∀ gid op s g o q w e, Tbl.find s.dev.groups gid = some g → g.id = gid → (g.ops.find? fun x => x.id == op) = some o → o.kind = .shape q → shapeWord s.plat s.dev g q = some (some (w, false), e) → shapeStep q w = .bad →
      Event (.operationComplete gid op) s fun d => d = takeException s.plat (failed e gid op o g.core) gid o.site { code := .shapeRecord, lane := none, info := q.va })))

/-- The oldest buffered store writes the bytes of its lanes, a later lane above an earlier one, and no other byte of memory (R205, R207); it leaves the store buffer for the list of those sent, and its acknowledgement ends its operation (R207). A group that is swapped out or on its way to another core sends none until it is at its new place (R232). The requests that enter a service group's queue come from those on their way to it and stand behind those it holds, of which there are never more than 512 (R248). The request at its head replaces the word at its home by the new value of R250 or R253, at once, and no other byte of memory; a held one is acknowledged to its group (R127, R248). A watch whose word has reached its target wakes its group with the clock of the writes it has seen (R217), and one whose word has not is kept (R273). -/
def Obligations.stores_and_atomics_performed : Prop :=
  ((∀ gid s g, Tbl.find s.dev.groups gid = some g → (g.state = .swapped ∨ g.state = .migrating) → Event (.storeSend gid) s fun d => d = s.dev) ∧
  (∀ gid s g e rest, Tbl.find s.dev.groups gid = some g → g.state ≠ .swapped → g.state ≠ .migrating → g.sb = e :: rest → (∀ l ∈ e.lanes, l.page = none) →
    Event (.storeSend gid) s fun d =>
      (∀ pre l post, e.lanes = pre ++ l :: post → (∀ m ∈ post, Apart l.pa l.data.length m.pa m.data.length) → d.readBytes l.pa l.data.length = l.data) ∧
      (∀ a, (∀ l ∈ e.lanes, Apart a 1 l.pa l.data.length) → d.readByte a = s.dev.readByte a) ∧ regsOf d gid = some g.regs ∧
      ∃ x, Tbl.find d.groups gid = some x ∧ x.sb = rest ∧ x.sent.map (·.op) = g.sent.map (·.op) ++ [e.op]) ∧
  (∀ gid op s g, Tbl.find s.dev.groups gid = some g → (g.ops.any fun o => o.id == op && o.kind == .store) = true → (g.sb.any fun e => e.op == op) = false → storeParked s.dev gid op = false →
    (∀ e, (g.sent.find? fun e => e.op == op) = some e → e.marks.all (markDone s.dev) = true) →
    Event (.storeAck gid op) s fun d => d.mem = s.dev.mem ∧ opsIn d gid = some ((g.ops.filter fun o => o.id != op).map Op.unmarked))) ∧
  ((∀ cl d, ∃ more, ((admitRequests cl d).cluster cl).queue = (d.cluster cl).queue ++ more ∧ (∀ r ∈ more, ∃ k, (k, r) ∈ (d.cluster cl).sending) ∧
    ((d.cluster cl).queue.length ≤ 512 → ((admitRequests cl d).cluster cl).queue.length ≤ 512)) ∧
  (∀ cl s r rest gid v, ((admitRequests cl s.dev).cluster cl).queue = r :: rest → r.source = .held gid → s.dev.anyPoison r.pa r.kind.size = false → agNew r (s.dev.readNat r.pa r.kind.size) = some v →
    Event (.atomicService cl) s fun d => d.readBytes r.pa r.kind.size = bytesOf r.kind.size v ∧ (∀ a, Apart a 1 r.pa r.kind.size → d.readByte a = s.dev.readByte a) ∧
      (d.cluster cl).queue = rest ∧ (∀ j, regsOf d j = regsOf s.dev j) ∧ (Tbl.find d.groups gid).map (·.outEff) = (Tbl.find s.dev.groups gid).map fun g => g.outEff - 1) ∧
  (∀ cl s r rest gid op lane v g o, ((admitRequests cl s.dev).cluster cl).queue = r :: rest → r.source = .atom gid op lane → s.dev.anyPoison r.pa r.kind.size = false → agNew r (s.dev.readNat r.pa r.kind.size) = some v →
    Tbl.find s.dev.groups gid = some g → (g.ops.find? fun x => x.id == op) = some o → 1 < o.parts →
    Event (.atomicService cl) s fun d => d.readBytes r.pa r.kind.size = bytesOf r.kind.size v ∧ (∀ a, Apart a 1 r.pa r.kind.size → d.readByte a = s.dev.readByte a) ∧
      (d.cluster cl).queue = rest ∧ (∀ j, regsOf d j = regsOf s.dev j) ∧
      ((Tbl.find d.groups gid).bind fun x => x.ops.find? fun x => x.id == op).map (fun x => (x.parts, x.writes.vs)) =
        some (o.parts - 1, o.writes.vs ++ (match o.vDests with | n :: _ => cellsAt n (r.kind.size / 4) lane (s.dev.readNat r.pa r.kind.size) | [] => []))) ∧
  (∀ cl s r rest gid t, ((admitRequests cl s.dev).cluster cl).queue = r :: rest → r.source = .waiter gid → r.kind = .watch t → t.toNat ≤ s.dev.readNat r.pa 8 →
    Event (.atomicService cl) s fun d => d = wakeWith ((admitRequests cl s.dev).modCluster cl fun c => { c with queue := rest }) gid 1 0 (s.dev.valueClock r.pa)) ∧
  (∀ cl s r rest gid t, ((admitRequests cl s.dev).cluster cl).queue = r :: rest → r.source = .waiter gid → r.kind = .watch t → s.dev.readNat r.pa 8 < t.toNat → (s.dev.cluster cl).watches.length < 128 →
    Event (.atomicService cl) s fun d => d = (admitRequests cl s.dev).modCluster cl fun c => { c with queue := rest, watches := c.watches ++ [(r.pa, t, gid)] }))

/-- A notice folds the writer's blocks into the signature of the core it reaches, and its acknowledgement follows (R208, R211). A home's write reaches another die in the order of its numbers: the die's clock and its visitor copy follow it (R218). The collapse of a claimed replicated page with no write parked, by the engine of the edge of the die that wrote, rewrites its leaf entry to that die's frame, without `repl` and with write permission, and with the place of that frame's stack (the model's choice, notes/assumptions/19.md), and writes nothing else (R222); of two jobs' claims at one address on both edges, either is first (R24; that nothing settles which is the model's reading, notes/assumptions/2.md). -/
def Obligations.notices_home_writes_and_collapses : Prop :=
  ((∀ gid core s g r rest, Tbl.find s.dev.groups gid = some g → g.releases = r :: rest → r.posted = true → r.toArrive.contains core = true →
    Event (.noticeArrival gid core) s fun d => d.mem = s.dev.mem ∧ (d.core core).signature = (s.dev.core core).signature ||| noticeOf g ∧ (∀ c, c ≠ core → d.core c = s.dev.core c) ∧
      (Tbl.find d.groups gid).map (·.releases) = some ({ r with toArrive := r.toArrive.filter (· != core) } :: rest)) ∧
  (∀ gid core s g r rest, Tbl.find s.dev.groups gid = some g → g.releases = r :: rest → r.posted = true → r.toArrive.contains core = false →
    Event (.noticeAcknowledgement gid core) s fun d => d = s.dev.modGroup gid fun g => { g with releases := { r with toAck := r.toAck.filter (· != core) } :: rest }) ∧
  (∀ die source s m rest, (s.dev.die die).inbox.getD source [] = m :: rest → (s.dev.die die).applied.getD source 0 + 1 = m.number → clockLe m.clock (s.dev.die die).applied = true →
    Event (.homeWriteMessage die source) s fun d => d.mem = s.dev.mem ∧ (∀ k, k ≠ die → d.die k = s.dev.die k) ∧
      (d.die die).applied = listSet (s.dev.die die).applied source m.number ∧ (d.die die).causal = clockMax (s.dev.die die).causal (d.die die).applied ∧ (d.die die).visitors = m.bytes.foldl visitorByte (s.dev.die die).visitors ∧ (d.die die).inbox = listSet (s.dev.die die).inbox source rest)) ∧
  ((let of (s : Machine.State) (c : CollapseClaim) (l : Leaf) (e : Nat) : Prop :=
     c.parked = [] ∧ l.repl = true ∧ (∃ pa, engineXlat s.dev c.job .store c.die (BitVec.ofNat 64 c.va) = .ok l pa) ∧ ∃ j, s.dev.job c.job = some j ∧ leafEntry s.dev c.va [1, 2, 3, 4] j.xroot = some e
   let done (s : Machine.State) (c : CollapseClaim) (l : Leaf) (e : Nat) (d : Device) : Prop :=
      d.readNat (e + 8) 8 = s.dev.readNat (l.addr + 8 * c.die) 8 ∧ (d.readNat e 8).testBit 62 = false ∧ (d.readNat e 8).testBit 50 = true ∧ d.readNat e 8 / 2 ^ 56 % 16 = 1 + s.dev.readNat (l.addr + 8 * c.die) 8 / 2 ^ 36 ∧
      (∀ n, n ≠ 62 → n ≠ 50 → (n < 56 ∨ 60 ≤ n) → (d.readNat e 8).testBit n = (s.dev.readNat e 8).testBit n) ∧ (∀ a, Apart a 1 e 16 → d.readByte a = s.dev.readByte a) ∧
      d.collapses = s.dev.collapses.filter fun x => x.id != c.id
   (∀ s c l e page, ((claimAt s.dev page 0 = some c ∧ claimAt s.dev page 1 = none) ∨ (claimAt s.dev page 0 = none ∧ claimAt s.dev page 1 = some c)) → of s c l e → Event (.collapsePage page) s (done s c l e)) ∧
   (∀ s a b l m e f page, claimAt s.dev page 0 = some a → claimAt s.dev page 1 = some b → of s a l e → of s b m f → Event (.collapsePage page) s fun d => done s a l e d ∨ done s b m f d)))

/-- A lock request takes a free line of its bench, or queues behind the holder, or is refused to be sent again after 1024 clocks (R256). A release passes the line to the first waiter of a team that is not on its way out, or frees it with the poison mark it carries (R257, R260), and leaves its clock with the line (R217). A deadline takes its waiter out of the queue, and the lock instruction completes with TIMEOUT (R259). -/
def Obligations.locks_pass : Prop :=
  (let asked (s : Machine.State) (gid line : Nat) : Prop := ∃ va sd pd since, (Tbl.find s.dev.groups gid).bind (·.wait) = some (.lock line va sd pd since .sent)
   let stageOf (d : Device) (gid : Nat) : Option LockStage := match (Tbl.find d.groups gid).bind (·.wait) with | some (.lock _ _ _ _ _ st) => some st | _ => none
   let bench (s : Machine.State) (d : Device) (line : Nat) : LockLine := benchLine (d.slice (homeSlice s.plat line)) line
   (∀ gid line s, asked s gid line → (bench s s.dev line).holder = none → benchLines (s.dev.slice (homeSlice s.plat line)) < 256 →
      Event (.lockRequest gid) s fun d => d.mem = s.dev.mem ∧ (bench s d line).holder = some gid ∧ (bench s d line).poisoned = false ∧ stageOf d gid = some (.granted none)) ∧
   (∀ gid line s, asked s gid line → (bench s s.dev line).holder ≠ none → benchWaiters (s.dev.slice (homeSlice s.plat line)) < 256 →
      Event (.lockRequest gid) s fun d => d.mem = s.dev.mem ∧ bench s d line = { bench s s.dev line with queue := (bench s s.dev line).queue ++ [{ group := gid, marked := false }] } ∧ stageOf d gid = some .queued) ∧
   (∀ gid line s, asked s gid line → (bench s s.dev line).holder = none → 256 ≤ benchLines (s.dev.slice (homeSlice s.plat line)) →
      Event (.lockRequest gid) s fun d => d.slices = s.dev.slices ∧ stageOf d gid = some (.refused (s.dev.clock + 1024))) ∧
   (∀ gid line s, asked s gid line → (bench s s.dev line).holder ≠ none → 256 ≤ benchWaiters (s.dev.slice (homeSlice s.plat line)) →
      Event (.lockRequest gid) s fun d => d.slices = s.dev.slices ∧ stageOf d gid = some (.refused (s.dev.clock + 1024))) ∧
   (∀ gid line va sd pd since again s, (Tbl.find s.dev.groups gid).bind (·.wait) = some (.lock line va sd pd since (.refused again)) → again ≤ s.dev.clock →
      Event (.lockResend gid) s fun d => stageOf d gid = some .sent) ∧
   (∀ k line poisoned clock rest s, (s.dev.slice k).releases = (line, poisoned, clock) :: rest → (benchLine (s.dev.slice k) line).queue = [] →
      Event (.lockRelease k) s fun d => d.mem = s.dev.mem ∧ benchLine (d.slice k) line = { holder := none, queue := [], poisoned, clock := clockMax (benchLine (s.dev.slice k) line).clock clock } ∧ (d.slice k).releases = rest) ∧
   (∀ k line poisoned clock rest s w ws g, (s.dev.slice k).releases = (line, poisoned, clock) :: rest → (benchLine (s.dev.slice k) line).queue = w :: ws → Tbl.find s.dev.groups w.group = some g → teamAway s.dev g = false →
      Event (.lockRelease k) s fun d => d.mem = s.dev.mem ∧ benchLine (d.slice k) line = { holder := some w.group, queue := ws, poisoned := false, clock := clockMax (benchLine (s.dev.slice k) line).clock clock } ∧ (d.slice k).releases = rest) ∧
   (∀ gid s g line va sd pd since, Tbl.find s.dev.groups gid = some g → g.id = gid → g.savedDrawer = none → g.state = .waiting → g.wait = some (.lock line va sd pd since .queued) → pastDeadline s.dev g = true →
      Event (.lockDeadline gid) s fun d => regsOf d gid = some (g.landed g.waitSplit false ((scaWrite sd.val 2).append (if pd.en then predWrite pd.p.val (((splitOf g g.waitSplit).map (·.mask)).getD 0) 0 else RegWrites.none)) 0) ∧ waitIn d gid = none ∧ ((bench s d line).queue.any fun w => w.group == gid) = false))

/-- A store that arrives at a version home, or is held there and may now go on, writes its bytes into its step's slot where that is OPEN, and no other byte of memory; a fill's image is sealed with it; one whose step has passed is counted late and writes no data; one for a new step opens a slot, whose fill is due; another is held (R224, R225, R435). A fill copies the newest sealed slot's frame (R225). A seal, parked or arriving, of an OPEN slot with no command left makes it SEALED, and changes no other byte of memory than its record's; one of a slot that is SEALED changes nothing, one of a step that has passed is counted late, one of a new step opens its slot and waits for the fill, and another is parked (R226). An `ld.ver` takes the values of its lanes, or one value for a scalar, from one sealed slot, of the largest step, which `ver.last` will hold, and waits where no slot qualifies (R227, R243). Past the staleness timeout a held store of an engine leaves no trace, one of a group leaves its lane as a pending version-ring trap, a parked seal is counted late, and a waiting `ld.ver` leaves the group, without a result, by the staleness trap (R225, R226, R228, R244). -/
def Obligations.versions_applied_sealed_and_loaded : Prop :=
  ((let next (s : Machine.State) (r : Nat) (x : VerStore) (held rest : List VerStore) : Prop := (s.dev.home r).fill = none ∧ recordOk s.dev r = true ∧
     (((s.dev.home r).heldStores = x :: held ∧ (s.dev.home r).stores = rest ∧ chooseSlot s.dev r x.step ≠ .hold) ∨ ((s.dev.home r).heldStores = held ∧ (∀ y ∈ held, chooseSlot s.dev r y.step = .hold) ∧ (s.dev.home r).stores = x :: rest))
   let left (r : Nat) (held rest : List VerStore) (d : Device) : Prop := (d.home r).heldStores = held ∧ (d.home r).stores = rest
   let acked (s : Machine.State) (x : VerStore) (d : Device) : Prop := ∀ k, regsOf d k = regsOf s.dev k ∨ ∃ op lane, x.source = .group k op lane
   (∀ r s x held rest j, next s r x held rest → chooseSlot s.dev r x.step = .apply j → x.source ≠ .fill → x.offset % 64 + x.data.length ≤ 64 →
      (let a := framePhys (s.dev.home r).attr (readSlot s.dev r j).frame x.offset
       Event (.versionStore r) s fun d => d.readBytes a x.data.length = x.data ∧ (∀ b, Apart b 1 a x.data.length → d.readByte b = s.dev.readByte b) ∧ left r held rest d ∧ acked s x d)) ∧
   (∀ r s x held rest j, next s r x held rest → chooseSlot s.dev r x.step = .apply j → x.source = .fill → (s.dev.home r).commands.getD j 0 = 0 →
      (let a (i : Nat) : Nat := framePhys (s.dev.home r).attr (readSlot s.dev r j).frame (x.offset + i)
       (∀ i < x.data.length, ∀ k < x.data.length, a i = a k → i = k) → (∀ i < x.data.length, Apart (a i) 1 (r + 16 * j) 16) →
       Event (.versionStore r) s fun d => readSlot d r j = { readSlot s.dev r j with state := 2 } ∧ (∀ i < x.data.length, some (d.readByte (a i)) = x.data[i]?) ∧
         (∀ b, Apart b 1 (r + 16 * j) 16 → (∀ i < x.data.length, b ≠ a i) → d.readByte b = s.dev.readByte b) ∧ left r held rest d ∧ ∀ k, regsOf d k = regsOf s.dev k)) ∧
   (∀ r s x held rest j, next s r x held rest → chooseSlot s.dev r x.step = .late j →
      Event (.versionStore r) s fun d => readSlot d r j = { readSlot s.dev r j with late := min 0xFFFF ((readSlot s.dev r j).late + 1) } ∧ (∀ b, Apart b 1 (r + 16 * j) 16 → d.readByte b = s.dev.readByte b) ∧ left r held rest d) ∧
   (∀ r s x held rest j, next s r x held rest → chooseSlot s.dev r x.step = .fresh j → x.step < 2 ^ 32 →
      Event (.versionStore r) s fun d => readSlot d r j = { readSlot s.dev r j with step := x.step, state := 1, late := 0 } ∧ (d.home r).fill ≠ none ∧ left r (x :: held) rest d ∧ ∀ b, Apart b 1 (r + 16 * j) 16 → d.readByte b = s.dev.readByte b) ∧
   (∀ r s x held rest, next s r x held rest → chooseSlot s.dev r x.step = .hold → Event (.versionStore r) s fun d => d.mem = s.dev.mem ∧ d.groups = s.dev.groups ∧ left r (held ++ [x]) rest d)) ∧
  (∀ r s j top, (s.dev.home r).fill = some (j, top) →
    (let n := (s.dev.home r).pageSize / 64
     let src (i : Nat) : Nat := framePhys (s.dev.home r).attr (readSlot s.dev r top).frame (64 * i)
     let dst (i : Nat) : Nat := framePhys (s.dev.home r).attr (readSlot s.dev r j).frame (64 * i)
     (∀ i < n, ∀ k < n, Apart (src i) 64 (dst k) 64) → (∀ i < n, ∀ k < n, i ≠ k → Apart (dst i) 64 (dst k) 64) →
     Event (.slotFill r) s fun d => (d.home r).fill = none ∧ (∀ i < n, d.readBytes (dst i) 64 = s.dev.readBytes (src i) 64) ∧ ∀ b, (∀ i < n, Apart b 1 (dst i) 64) → d.readByte b = s.dev.readByte b))) ∧
  ((let next (s : Machine.State) (r : Nat) (x : VerSeal) (parked rest : List VerSeal) : Prop := (s.dev.home r).fill = none ∧ recordOk s.dev r = true ∧ resultPending (s.dev.home r) x = false ∧
     (((s.dev.home r).parked = x :: parked ∧ (s.dev.home r).seals = rest ∧ chooseSlot s.dev r x.step ≠ .hold) ∨ ((s.dev.home r).parked = [] ∧ parked = [] ∧ (s.dev.home r).seals = x :: rest))
   let left (r : Nat) (parked rest : List VerSeal) (d : Device) : Prop := (d.home r).parked = parked ∧ (d.home r).seals = rest
   (∀ r s x parked rest j, next s r x parked rest → chooseSlot s.dev r x.step = .apply j → (s.dev.home r).commands.getD j 0 = 0 →
      Event (.versionSeal r) s fun d => readSlot d r j = { readSlot s.dev r j with state := 2 } ∧ (∀ b, Apart b 1 (r + 16 * j) 16 → d.readByte b = s.dev.readByte b) ∧ left r parked rest d) ∧
   (∀ r s x parked rest j, next s r x parked rest → chooseSlot s.dev r x.step = .late j → (readSlot s.dev r j).step = x.step → Event (.versionSeal r) s fun d => d.mem = s.dev.mem ∧ left r parked rest d) ∧
   (∀ r s x parked rest j, next s r x parked rest → chooseSlot s.dev r x.step = .late j → (readSlot s.dev r j).step ≠ x.step →
      Event (.versionSeal r) s fun d => readSlot d r j = { readSlot s.dev r j with late := min 0xFFFF ((readSlot s.dev r j).late + 1) } ∧ (∀ b, Apart b 1 (r + 16 * j) 16 → d.readByte b = s.dev.readByte b) ∧ left r parked rest d) ∧
   (∀ r s x parked rest j, next s r x parked rest → chooseSlot s.dev r x.step = .fresh j → x.step < 2 ^ 32 →
      Event (.versionSeal r) s fun d => readSlot d r j = { readSlot s.dev r j with step := x.step, state := 1, late := 0 } ∧ (d.home r).fill ≠ none ∧ left r parked (x :: rest) d ∧ ∀ b, Apart b 1 (r + 16 * j) 16 → d.readByte b = s.dev.readByte b) ∧
   (∀ r s x parked rest, next s r x parked rest → chooseSlot s.dev r x.step = .hold → Event (.versionSeal r) s fun d => d.mem = s.dev.mem ∧ d.groups = s.dev.groups ∧ left r [x] rest d)) ∧
  (let asked (s : Machine.State) (r gid op : Nat) (rest : List (Nat × Nat)) (g : Machine.Group) (o : Op) (q : VerLoad) (k : Nat) : Prop :=
     (s.dev.home r).loads = (gid, op) :: rest ∧ Tbl.find s.dev.groups gid = some g ∧ (g.ops.find? fun o => o.id == op) = some o ∧ o.kind = .verLoad q ∧ o.closing = some k ∧ q.record = r ∧ recordOk s.dev r = true
   (∀ r s gid op rest g o q k j, asked s r gid op rest g o q k → loadSlot (readSlots s.dev r) q.minStep = some j →
     (let sl := readSlot s.dev r j
      let value (off : Nat) : Nat := s.dev.readNat (framePhys (s.dev.home r).attr sl.frame off) q.bytes
      let w : RegWrites := match q.dest with
        | .v n => { RegWrites.none with vs := q.lanes.flatMap fun l => cellsAt n.val ((q.bytes + 3) / 4) l.1 (value l.2) }
        | .s n => scaWrite n.val ((q.lanes.head?.map fun l => value l.2).getD 0)
      Event (.versionLoad r) s fun d => d.mem = s.dev.mem ∧ regsOf d gid = some g.regs ∧ (d.home r).loads = rest ∧
        ((Tbl.find d.groups gid).bind fun x => x.ops.find? fun o => o.id == op).map (fun o => (o.kind, o.closing, o.verLast, o.writes)) = some (.load, none, some sl.step, w))) ∧
   (∀ r s gid op rest g o q k jb, asked s r gid op rest g o q k → loadSlot (readSlots s.dev r) q.minStep = none → g.state = .live → s.dev.job g.job = some jb →
     Event (.versionLoad r) s fun d => d.mem = s.dev.mem ∧ regsOf d gid = some g.regs ∧ (d.home r).loads = rest ∧ waitIn d gid = some (.sealed op) ∧ (d.drawer g.core g.block).deadline = BitVec.ofNat 64 (q.since + 2 ^ jb.stale))) ∧
  (∀ r s, (s.dev.home r).parked = [] → sealWaiters s.dev r = [] → (∀ x ∈ (s.dev.home r).heldStores, x.source = .mirror ∨ x.source = .fill) →
    Event (.stalenessTimeout r) s fun d => d.mem = s.dev.mem ∧ d.groups = s.dev.groups ∧
      (d.home r).heldStores = (s.dev.home r).heldStores.filter fun x => !(stale s.dev (s.dev.home r).job x.since && recordOk s.dev r && chooseSlot s.dev r x.step == .hold)) ∧
  (∀ r s x gid op lane g o, (s.dev.home r).parked = [] → sealWaiters s.dev r = [] → (s.dev.home r).heldStores = [x] → stale s.dev (s.dev.home r).job x.since = true → recordOk s.dev r = true → chooseSlot s.dev r x.step = .hold →
    x.source = .group gid op lane → Tbl.find s.dev.groups gid = some g → g.state ≠ .halted → (g.ringTraps.any fun t => t.op == op) = false → (g.ops.find? fun o => o.id == op) = some o →
    o.writes = RegWrites.none → o.tileWrites = [] → o.verLast = none → o.shape = none →
    Event (.stalenessTimeout r) s fun d => d.mem = s.dev.mem ∧ (d.home r).heldStores = [] ∧ regsOf d gid = some g.regs ∧
      (Tbl.find d.groups gid).map (·.ringTraps) = some (g.ringTraps ++ [{ op, site := { o.site with lanes := 1#32 <<< lane }, step := x.step, lanes := [(r, lane, x.offset, x.data)] }])) ∧
  (∀ r s x j, (s.dev.home r).parked = [x] → sealWaiters s.dev r = [] → (s.dev.home r).heldStores = [] → stale s.dev x.job x.since = true → recordOk s.dev r = true → resultPending (s.dev.home r) x = false →
    chooseSlot s.dev r x.step = .hold → newestSealed (readSlots s.dev r) = some j →
    Event (.stalenessTimeout r) s fun d => readSlot d r j = { readSlot s.dev r j with late := min 0xFFFF ((readSlot s.dev r j).late + 1) } ∧ (∀ b, Apart b 1 (r + 16 * j) 16 → d.readByte b = s.dev.readByte b) ∧
      (d.home r).parked = [] ∧ ∀ k, regsOf d k = regsOf s.dev k ∧ waitIn d k = waitIn s.dev k) ∧
  (∀ r s g op o, (s.dev.home r).parked = [] → (s.dev.home r).heldStores = [] → sealWaiters s.dev r = [g] → pastDeadline s.dev g = true → Tbl.find s.dev.groups g.id = some g → g.state = .waiting → g.savedDrawer = none →
    g.wait = some (.sealed op) → (g.ops.find? fun o => o.id == op) = some o →
    Event (.stalenessTimeout r) s fun d => ∃ e, d = takeTrap s.plat e g.id o.site (1 + o.site.index) (Exc.of .staleness) false none ∧ e.mem = s.dev.mem ∧ regsOf e g.id = some g.regs ∧ waitIn e g.id = none ∧
      opsIn e g.id = some ((g.ops.filter fun x => x.id != op).map Op.unmarked)))

/-- A miss enters the queue of its slice, or joins the entry of its page (R372). A walk that finds the page fills the cluster's cache and takes the entry out of the queue, and a requester whose access the tables do not grant has a fatal fault; one that meets a page marked replayable parks the entry, and is repeated after 4096 clocks (R371, R372). A miss parked past the staleness timeout is a fatal fault of its group (R372). -/
def Obligations.misses_walked : Prop :=
  (∀ core s m rest, (s.dev.core core).misses = m :: rest → findWhere (fun e => sameMiss s.dev e m) (s.dev.slice core).misses 0 = none → (s.dev.slice core).misses.length < 512 →
    Event (.translationMiss core) s fun d => d.mem = s.dev.mem ∧ d.groups = s.dev.groups ∧ (d.core core).misses = rest ∧
      (d.slice core).misses = (s.dev.slice core).misses ++ [{ job := m.job, va := m.va, access := m.access, waiters := [m], parked := false, since := s.dev.clock, again := s.dev.clock }]) ∧
  (∀ core s m rest i e, (s.dev.core core).misses = m :: rest → findWhere (fun e => sameMiss s.dev e m) (s.dev.slice core).misses 0 = some (i, e) → e.parked = false →
    Event (.translationMiss core) s fun d => d.mem = s.dev.mem ∧ d.groups = s.dev.groups ∧ (d.core core).misses = rest ∧ (d.slice core).misses = listSet (s.dev.slice core).misses i { e with waiters := e.waiters ++ [m] }) ∧
  (let due (again : Bool) (s : Machine.State) (k i : Nat) (e : MissEntry) : Prop := findWhere (fun (e : MissEntry) => if again then e.parked && decide (e.again ≤ s.dev.clock) else !e.parked) (s.dev.slice k).misses 0 = some (i, e)
   let found (i : Instr) (again : Bool) (k : Nat) : Prop := ∀ s n e l, due again s k n e → walkEntry s.dev e = .leaf l → l.repl = false → (∀ m ∈ e.waiters, l.denies m.access = false) →
     Event i s fun d => d.mem = s.dev.mem ∧ (e.job, l) ∈ (d.cluster (k / 4)).xlat ∧ (d.slice k).misses = (s.dev.slice k).misses.eraseIdx n
   let denied (i : Instr) (again : Bool) (k : Nat) : Prop := ∀ s n e m g, due again s k n e → (walkEntry s.dev e = .fatal ∨ ∃ l, walkEntry s.dev e = .leaf l ∧ l.repl = false ∧ l.denies m.access = true) → e.waiters = [m] →
     Tbl.find s.dev.groups m.group = some g → (g.state = .live ∨ g.state = .waiting) → ((Tbl.find s.dev.teams g.team).map (·.handler)) = some false →
     Event i s fun d => (Tbl.find d.groups m.group).map (·.state) = some .halted ∧ regsOf d m.group = some g.regs
   let parks (i : Instr) (again : Bool) (k : Nat) : Prop := ∀ s n e, due again s k n e → walkEntry s.dev e = .replayable →
     Event i s fun d => d.mem = s.dev.mem ∧ (d.slice k).misses = listSet (s.dev.slice k).misses n { e with parked := true, since := if e.parked then e.since else s.dev.clock, again := s.dev.clock + 4096 }
   (∀ k, found (.walkComplete k) false k ∧ denied (.walkComplete k) false k ∧ parks (.walkComplete k) false k) ∧ (∀ k, found (.rewalk k) true k ∧ denied (.rewalk k) true k ∧ parks (.rewalk k) true k)) ∧
  (∀ k s n e m g, findWhere (fun (e : MissEntry) => e.parked && stale s.dev e.job e.since) (s.dev.slice k).misses 0 = some (n, e) → e.waiters = [m] → Tbl.find s.dev.groups m.group = some g → (g.state = .live ∨ g.state = .waiting) →
    ((Tbl.find s.dev.teams g.team).map (·.handler)) = some false →
    Event (.missTimeout k) s fun d => (Tbl.find d.groups m.group).map (·.state) = some .halted ∧ regsOf d m.group = some g.regs)

/-- A fatal fault halts every group of its team; once the team's copies are drained its groups hold no lock but those that their own `unlk` is releasing (R375). A dump goes on by one section, as it stood when the halt was complete, which is written after those before it (R377, R379); it does not start before (R375). At the end of its grace a closing team's groups halt and their held effects are discarded, and once they have halted the team leaves the device (R59). -/
def Obligations.fatal_path_and_cancels_end : Prop :=
  (∀ gid s g t j, Tbl.find s.dev.groups gid = some g → Tbl.find s.dev.teams g.team = some t → t.id = g.team → g.state = .halted → t.state = .fatal → t.stopped = false → s.dev.job t.job = some j →
    Event (.fatalFault gid) s fun d => (Tbl.find d.teams g.team).map (·.stopped) = some true ∧ (d.job t.job).map (·.dumps) = some j.dumps ∧
      ∀ h, Tbl.find s.dev.groups h.id = some h → h.team = t.id → ∃ x, Tbl.find d.groups h.id = some x ∧ x.state = .halted ∧ (h.state ≠ .halted → x.effects = []) ∧ ((Tbl.find d.teams g.team).map enginesQuiet = some true → ∀ l ∈ x.locks, l ∈ goingLines x)) ∧
  (∀ job s j tid t x, s.dev.job job = some j → j.dumps.head? = some tid → Tbl.find s.dev.teams tid = some t → t.dump = some x → x.sections = none → x.saved = none → Event (.dumpSection job) s fun d => d = s.dev) ∧
  (∀ job s j tid t x kind gid body rest, s.dev.job job = some j → j.dumps.head? = some tid → Tbl.find s.dev.teams tid = some t → t.id = tid → t.dump = some x → x.sections = some (⟨kind, gid, body⟩ :: rest) → x.second = none → t.cancelled = false →
    (let w := engineRun s.plat t.job (edgeDie t.cluster) s.dev (BitVec.ofNat 64 (x.base + x.offset + x.length)) (sectionBytes s.dev kind gid body)
     x.offset + x.length + 16 + body.length ≤ x.size → badBytes s.dev t kind body.length x.length = [] → w.2 = true →
     Event (.dumpSection job) s fun d => d = w.1.modTeam tid fun t => { t with dump := some { x with length := x.length + 16 + body.length, written := x.written + 1, sections := some rest } })) ∧
  (∀ tid s t c, Tbl.find s.dev.teams tid = some t → t.state = .closing → t.cancelAt = some c → c ≤ s.dev.clock →
    Event (.cancelGraceExpiry tid) s fun d => d.mem = s.dev.mem ∧ ∀ h, Tbl.find s.dev.groups h.id = some h → h.team = tid → (Tbl.find d.groups h.id).map (fun x => (x.state, x.effects)) = some (.halted, [])) ∧
  (∀ tid s t l, Tbl.find s.dev.teams tid = some t → t.state = .closing → enginesQuiet t = true → (teamGroups s.dev tid).all (fun g => g.state == .halted) = true → launchOf s.dev t = some l → Tbl.find s.dev.launches l.id = some l → 1 < l.left →
    Event (.cancelDiscarding tid) s fun d => Tbl.find d.teams tid = none ∧ (Tbl.find d.launches l.id).map (·.left) = some (l.left - 1))

/-- The queue the scheduler serves has its head placed on the cluster chosen (R345 to R347): a queued team becomes resident there, with a fresh group for each index on the core of the index (R34, R346), and a swapped team is resident there again with its groups live on the cores of their indices (R61); the scheduler does one of these in a clock, and restores while fewer than four swap-outs are in progress (R345, R348). A displacement commits the teams chosen and their cluster (R348). A team that is leaving is swapped out with its groups when nothing is left to wait for and its image can be written (R61, R373). A quantum that ends and an age limit that passes are marked (R64, R345). The cores, slots and blocks chosen among equals are the model's choice (log 21, log 55 to log 57). -/
def Obligations.teams_placed_and_displaced : Prop :=
  ((∀ s S j cl t, scheduleChoice s.plat s.dev = some (S, j, .place cl) → queueHead s.dev j = some t → t.state = .queued → Tbl.find s.dev.teams t.id = some t → schedFree s.dev = true →
    Event .teamPlace s fun d => d.mem = s.dev.mem ∧ (Tbl.find d.teams t.id).map (fun x => (x.state, x.cluster)) = some (.resident, cl) ∧
      ∀ i < t.groups, (Tbl.find d.groups (s.dev.nextId + i)).map (fun g => (g.team, g.index, g.core, g.state, g.splits.map fun e => (e.1, e.2.pc, e.2.mask))) =
        some (t.id, i, 4 * cl + i % 4, .live, [(0, t.entry, BitVec.ofNat 32 (2 ^ t.lanes - 1))])) ∧
  (∀ s S j cl t, scheduleChoice s.plat s.dev = some (S, j, .place cl) → queueHead s.dev j = some t → t.state = .swapped → Tbl.find s.dev.teams t.id = some t → schedFree s.dev = true → swapsRunning s.dev < 4 → imagePoisoned s.dev t = false →
    (∀ g ∈ teamGroups s.dev t.id, g.wait = none ∧ Tbl.find s.dev.groups g.id = some g) →
    Event .teamRestore s fun d => d.mem = s.dev.mem ∧ (Tbl.find d.teams t.id).map (fun x => (x.state, x.cluster)) = some (.resident, cl) ∧
      ∀ g ∈ teamGroups s.dev t.id, (Tbl.find d.groups g.id).map (fun x => (x.core, x.state, x.savedDrawer)) = some (4 * cl + g.index % 4, .live, none))) ∧
  ((∀ s S j cl ts, scheduleChoice s.plat s.dev = some (S, j, .displace cl ts) → schedFree s.dev = true →
    Event .displacementStart s fun d => d.mem = s.dev.mem ∧ d.groups = s.dev.groups ∧ d.teams = s.dev.teams ∧ { job := j.number, cluster := cl, teams := ts } ∈ d.sched.displacements) ∧
  (∀ tid s t, Tbl.find s.dev.teams tid = some t → t.id = tid → t.state = .swappingOut → (teamGroups s.dev tid).all groupQuiet = true → enginesQuiet t = true →
    (let p := (teamGroups s.dev tid).foldl (fun d g => preempt d g.id) s.dev
     (writeContext s.plat p t).2 = true →
     Event (.swapOut tid) s fun d => (Tbl.find d.teams tid).map (fun x => (x.state, x.stopped)) = some (.swapped, false) ∧
       ∀ g ∈ teamGroups s.dev tid, Tbl.find s.dev.groups g.id = some g → (Tbl.find d.groups g.id).map (fun x => (x.state, x.savedDrawer.isSome)) = some (.swapped, true))) ∧
  (∀ tid s t, Tbl.find s.dev.teams tid = some t → t.state = .resident → t.residentSince + t.quantum ≤ s.dev.clock →
    Event (.quantumExpiry tid) s fun d => d = s.dev.modTeam tid fun t => { t with quantumOver := true }) ∧
  (∀ n s j t, s.dev.job n = some j → j.readySince = some t → t + 2 ^ j.age ≤ s.dev.clock →
    Event (.ageLimitExpiry n) s fun d => d = s.dev.modJob n fun j => { j with aged := true }))

/-- A phase that may start puts its graphs in line for the walker (R340), and stays in line while the walker is full (R351); one whose job has pages that are being filled does not start (R431). A graph in line that passes its checks is in the walker from then on, with the nodes of its record (R351); one that fails them fails its phase (R343). A condition whose word is not 0 fires the first successor of its node, and a condition whose word is 0 the second (R352, R353). -/
def Obligations.phases_and_graphs_go_on : Prop :=
  (∀ n s j, s.dev.job n = some j → phaseHeld s.plat n = true → Event (.phaseStart n) s fun d => d = s.dev) ∧
  (∀ n s j p, s.dev.job n = some j → j.state = .running → phaseHeld s.plat n = false → nextPhase s.dev j = some (p, true) → s.dev.sched.waitingPhases = [] → p.graphs ≠ [] → 256 ≤ walkerCount s.dev →
    Event (.phaseStart n) s fun d => d = { s.dev with phases := Tbl.set s.dev.phases p.id { p with started := true, toSubmit := p.graphs }, sched := { s.dev.sched with waitingPhases := [p.id] } }) ∧
  (∀ s p rest x r more done nodes, s.dev.sched.waitingPhases = p :: rest → Tbl.find s.dev.phases p = some x → x.toSubmit = r :: more → walkerCount s.dev < 256 → readGraph s.dev x.job r = some (done, nodes) →
    Event .graphSubmit s fun d => (Tbl.find d.graphs s.dev.nextId).map (fun g => (g.job, g.phase, g.record, g.nodes)) = some (x.job, p, r, nodes)) ∧
  (∀ s p rest x r more, s.dev.sched.waitingPhases = p :: rest → Tbl.find s.dev.phases p = some x → x.toSubmit = r :: more → walkerCount s.dev < 256 → readGraph s.dev x.job r = none →
    Event .graphSubmit s fun d => d.graphs = s.dev.graphs ∧ (Tbl.find d.phases p).map (fun y => (y.failed, y.toSubmit)) = some (true, [])) ∧
  (∀ gid s g node rest l pa, Tbl.find s.dev.graphs gid = some g → g.conds = node :: rest → recordsParked s.dev g = false → engineXlat s.dev g.job .load 0 (g.nodes.getD node default).target = .ok l pa → s.dev.anyPoison pa 8 = false →
    (let x := g.nodes.getD node default
     let go := s.dev.readNat pa 8 != 0 && (x.kind == 1 || x.limit == 0 || decide (g.iter.getD node 0 < x.limit))
     x.succ.getD (if go then 0 else 1) 0xFFFF = 0xFFFF →
     Event (.conditionRead gid) s fun d => (Tbl.find d.graphs gid).map (fun y => (y.conds, y.iter)) = some (rest, if x.kind ≠ 1 ∧ go = true then listSet g.iter node (g.iter.getD node 0 + 1) else g.iter))) ∧
  (∀ gid s g node rest l pa e, Tbl.find s.dev.graphs gid = some g → g.state = .running → g.stopped = false → g.conds = node :: rest → recordsParked s.dev g = false → engineXlat s.dev g.job .load 0 (g.nodes.getD node default).target = .ok l pa → s.dev.anyPoison pa 8 = false →
    (let x := g.nodes.getD node default
     x.kind = 1 → x.succ.getD (if s.dev.readNat pa 8 = 0 then 1 else 0) 0xFFFF = e → 1 < g.cnt.getD e 0 → e < 4096 →
     Event (.conditionRead gid) s fun d => (Tbl.find d.graphs gid).map (fun y => (y.conds, y.cnt)) = some (rest, listSet g.cnt e (g.cnt.getD e 0 - 1))))

/-- A GRAB takes the next indices of a running launch's pool for its core, or finds the pool empty (R356, R357). A range that arrives is the core's current one where that is used up. From an empty pool the core asks the holders in turn; a victim with two indices or more gives the upper half of its current range away, one with fewer its spare, and one with neither answers NONE (R357). -/
def Obligations.index_ranges_move : Prop :=
  (∀ core s t ts l, (s.dev.core core).stage = some .grab → (s.dev.core core).takes = t :: ts → Tbl.find s.dev.launches t.launch = some l → l.state = .running →
    (let k := min (l.fields.getD 9 0) (l.fields.getD 7 0 - l.next)
     (0 < k → Event (.grabMessage core) s fun d => d.mem = s.dev.mem ∧ (d.core core).stage = some (.range l.next (l.next + k)) ∧ (Tbl.find d.launches t.launch).map (·.next) = some (l.next + k) ∧ (Tbl.find d.launches t.launch).any (·.holders.contains core) = true) ∧
     (k = 0 → Event (.grabMessage core) s fun d => d.mem = s.dev.mem ∧ (d.core core).stage = some (.empty l.holders) ∧ d.launches = s.dev.launches))) ∧
  (∀ core s t ts lo hi, (s.dev.core core).stage = some (.range lo hi) → (s.dev.core core).takes = t :: ts → launchLive s.dev t.launch = true → (rangesOf (s.dev.core core) t.launch).hi ≤ (rangesOf (s.dev.core core) t.launch).lo →
    Event (.rangeReply core) s fun d => (d.core core).stage = none ∧ rangesOf (d.core core) t.launch = { rangesOf (s.dev.core core) t.launch with lo, hi }) ∧
  (∀ core s t ts hs v vs, (s.dev.core core).stage = some (.empty hs) → (s.dev.core core).takes = t :: ts → victimOrder core hs = v :: vs →
    Event (.emptyPool core) s fun d => (d.core core).stage = some (.steal v vs) ∧ (d.core core).dries = (s.dev.core core).dries ++ [t.launch] ∧
      (d.core v).steals = (s.dev.core v).steals ++ [{ thief := core, launch := t.launch, forTake := true, lo := 0, hi := 0 }]) ∧
  (∀ core s m rest, (s.dev.core core).steals = m :: rest → m.thief ≠ core →
    (let r := rangesOf (s.dev.core core) m.launch
     let mid := r.lo + (r.hi - r.lo + 1) / 2
     (r.lo + 2 ≤ r.hi → Event (.stealMessage core) s fun d => (d.core core).steals = rest ∧ rangesOf (d.core core) m.launch = { r with hi := mid } ∧ (d.core m.thief).gives = (s.dev.core m.thief).gives ++ [{ m with lo := mid, hi := r.hi }]) ∧
     (r.hi < r.lo + 2 → r.spareLo < r.spareHi → Event (.stealMessage core) s fun d => (d.core core).steals = rest ∧ rangesOf (d.core core) m.launch = { r with spareLo := 0, spareHi := 0 } ∧
       (d.core m.thief).gives = (s.dev.core m.thief).gives ++ [{ m with lo := r.spareLo, hi := r.spareHi }]) ∧
     (r.hi < r.lo + 2 → r.spareHi ≤ r.spareLo → Event (.stealMessage core) s fun d => (d.core core).steals = rest ∧ (d.core m.thief).nones = (s.dev.core m.thief).nones ++ [m]))) ∧
  (∀ core s m rest, (s.dev.core core).gives = m :: rest → launchLive s.dev m.launch = true → (rangesOf (s.dev.core core) m.launch).hi ≤ (rangesOf (s.dev.core core) m.launch).lo →
    Event (.giveReply core) s fun d => (d.core core).gives = rest ∧ rangesOf (d.core core) m.launch = { rangesOf (s.dev.core core) m.launch with lo := m.lo, hi := m.hi }) ∧
  (∀ core s m rest t ts w v vs, (s.dev.core core).nones = m :: rest → (s.dev.core core).stage = some (.steal w (v :: vs)) → (s.dev.core core).takes = t :: ts → m.forTake = true →
    Event (.noneReply core) s fun d => (d.core core).nones = rest ∧ (d.core core).stage = some (.steal v vs) ∧ (d.core v).steals = (s.dev.core v).steals ++ [{ thief := core, launch := t.launch, forTake := true, lo := 0, hi := 0 }]) ∧
  (∀ core s l rest x, (s.dev.core core).dries = l :: rest → Tbl.find s.dev.launches l = some x →
    Event (.dryMessage core) s fun d => (d.core core).dries = rest ∧ (Tbl.find d.launches l).map (·.holders) = some (x.holders.filter (· != core)))

/-- An `rst` store from a peer to a register a group of the device holds writes the carried lanes of the register, lowers the register's hold by one and is answered, and writes no memory but the saved context of a group that is swapped out; one that names no group is answered with cause 4 and writes nothing (R280, R284, R286). A peer's remote access is performed in the job it names: each lane of a load is answered with the bytes at its address, and nothing is written; a store writes its bytes and no other, and is answered; an atomic goes to the service group of its word's home, and once it is performed the lane is answered with the word's old value; an access to a job that is not admitted fails with cause 3 (R248, R278, R280, R395). A read of a UALink peer is answered so too, and a request that is not accepted with the error completion (R396; notes/assumptions/119.md). An access of a peer that has an earlier one here waits behind it (R397). An answer to a held access of this device is counted off, its failures kept in `ra.fcnt` (R239, R280). A request that 20 µs leave unanswered completes with its peer ISOLATED and nothing outstanding to it (R394). -/
def Obligations.remote_and_rst_served : Prop :=
  ((let answered (s : Machine.State) (m : RstMsg) : Prop := m.peer ≠ s.plat.own ∧ s.plat.valid m.peer = true ∧ (s.dev.peer m.peer).state = .up
   (∀ s m e gid g, answered s m → Tbl.find s.dev.names (m.name.toNat / 256 % 2 ^ 15) = some e → e.holder = some gid → Tbl.find s.dev.groups gid = some g → g.id = gid → e.gen.toNat = m.name.toNat % 256 → unheldReg g m.reg = false →
      (holdOf g.holds m.reg ≠ none ∨ g.holds.length < 4) →
      Event (.rstArrival (some m)) s fun d => (g.state ≠ .swapped → d.mem = s.dev.mem) ∧ d.fabricOut = s.dev.fabricOut ++ [(s.plat.route m.peer 0, .rstAnswer m.peer m.seq 0)] ∧
        ∃ x, Tbl.find d.groups gid = some x ∧ x.holds = setHold g.holds m.reg (((holdOf g.holds m.reg).map (·.count)).getD 0 - 1) ∧ x.s = g.s ∧ x.p = g.p ∧
          (∀ l < 32, Cells.get 0 x.v (32 * m.reg + l) = if m.mask.getLsbD l then m.values.getD l 0 else Cells.get 0 g.v (32 * m.reg + l)) ∧
          (∀ k, k / 32 ≠ m.reg → Cells.get 0 x.v k = Cells.get 0 g.v k)) ∧
   (∀ s m, answered s m → Tbl.find s.dev.names (m.name.toNat / 256 % 2 ^ 15) = none →
      Event (.rstArrival (some m)) s fun d => d = { s.dev with fabricOut := s.dev.fabricOut ++ [(s.plat.route m.peer 0, .rstAnswer m.peer m.seq 4)] }))) ∧
  ((let heard (s : Machine.State) (p : Nat) : Prop := p ≠ s.plat.own ∧ s.plat.valid p = true ∧ (s.dev.peer p).state = .up
   let quiet (s : Machine.State) (m : RemoteReq) : Prop := nextServed s.plat [] s.dev.served = none ∧ ∀ x ∈ s.dev.served, x.peer ≠ m.peer ∧ x.id ≠ s.dev.nextId
   let direct (s : Machine.State) (m : RemoteReq) : Prop := s.plat.mode m.peer ≠ 1 ∧ m.ualink = none
   let answer (s : Machine.State) (m : RemoteReq) (as : List LaneAnswer) (d : Device) : Prop := d.fabricOut = s.dev.fabricOut ++ [(s.plat.route m.peer 2, .answer m.peer m.seq as)]
   let at_ (s : Machine.State) (job : Nat) (l : RemoteLane) : Nat := match engineXlat s.dev job .load 0 l.addr with | .ok _ pa => pa | _ => 0
   let readable (s : Machine.State) (job : Nat) (l : RemoteLane) : Prop := (∃ leaf, engineXlat s.dev job .load 0 l.addr = .ok leaf (at_ s job l)) ∧ s.dev.anyPoison (at_ s job l) l.bytes = false
   let loaded (s : Machine.State) (m : RemoteReq) (job : Nat) (ls : List RemoteLane) (d : Device) : Prop :=
     d = { s.dev with nextId := s.dev.nextId + 1, port := ls.foldl (fun c l => clockMax c (s.dev.valueClock (at_ s job l))) s.dev.port, fabricOut := s.dev.fabricOut ++ [(s.plat.route m.peer 2, .answer m.peer m.seq (ls.map fun l => { lane := l.lane, ok := true, cause := 0, value := BitVec.ofNat 128 (s.dev.readNat (at_ s job l) l.bytes) }))] }
   (∀ s m, heard s m.peer → quiet s m → direct s m → m.kind = .load → (s.dev.job m.job).isSome → (∀ l ∈ m.lanes, readable s m.job l) → Event (.remoteRequest m) s (loaded s m m.job m.lanes)) ∧
   (∀ s m u job ls, heard s m.peer → quiet s m → s.plat.mode m.peer = 1 → m.ualink = some u → (u.addr.getLsbD 55 = false ∨ s.plat.foreign m.peer = true) → uaAccess u = some (job, .load, ls) → (s.dev.job job).isSome → (∀ l ∈ ls, readable s job l) →
      Event (.remoteRequest m) s (loaded s m job ls)) ∧
   (∀ s m u, heard s m.peer → s.plat.mode m.peer = 1 → m.ualink = some u → (u.addr.getLsbD 55 = false ∨ s.plat.foreign m.peer = true) → uaAccess u = none →
      Event (.remoteRequest m) s fun d => answer s m [{ lane := 0, ok := false, cause := 3, value := 0 }] d ∧ d.mem = s.dev.mem ∧ d.groups = s.dev.groups) ∧
   (∀ s m l leaf pa, heard s m.peer → quiet s m → direct s m → m.kind = .store → m.lanes = [l] → (s.dev.job m.job).isSome → engineXlat s.dev m.job .store 0 l.addr = .ok leaf pa → leaf.repl = false → leaf.ver = false →
      Event (.remoteRequest m) s fun d => answer s m [{ lane := l.lane, ok := true, cause := 0, value := 0 }] d ∧ d.groups = s.dev.groups ∧ d.readBytes pa l.bytes = bytesOf l.bytes (l.data.toNat + l.data2.toNat * 2 ^ 64) ∧ ∀ a, Apart a 1 pa l.bytes → d.readByte a = s.dev.readByte a) ∧
   (∀ s m l leaf pa op ty, heard s m.peer → quiet s m → direct s m → remoteAtom m.kind = some (op, ty) → m.lanes = [l] → (s.dev.job m.job).isSome → engineXlat s.dev m.job .store 0 l.addr = .ok leaf pa → leaf.repl = false → leaf.ver = false →
      Event (.remoteRequest m) s fun d => d.mem = s.dev.mem ∧ d.groups = s.dev.groups ∧ d.fabricOut = s.dev.fabricOut ∧
        d.served = s.dev.served ++ [{ id := s.dev.nextId, peer := m.peer, seq := m.seq, job := m.job, kind := m.kind, lanes := m.lanes, begun := true, left := 1, answers := [] }] ∧
        ∃ x, (d.cluster (homeSlice s.plat pa / 4)).sending = (s.dev.cluster (homeSlice s.plat pa / 4)).sending ++ [x] ∧ x.2.kind = .atomic op ty ∧ x.2.pa = pa ∧ x.2.x = l.data ∧ x.2.xn = l.data2 ∧ x.2.source = .remote s.dev.nextId l.lane) ∧
   (∀ cl s r rest id lane v, ((admitRequests cl s.dev).cluster cl).queue = r :: rest → r.source = .remote id lane → s.dev.anyPoison r.pa r.kind.size = false → agNew r (s.dev.readNat r.pa r.kind.size) = some v →
      Event (.atomicService cl) s fun d => d.readBytes r.pa r.kind.size = bytesOf r.kind.size v ∧ (∀ a, Apart a 1 r.pa r.kind.size → d.readByte a = s.dev.readByte a) ∧ (d.cluster cl).queue = rest ∧
        d.served = s.dev.served.map fun x => if x.id == id then { x with left := x.left - 1, answers := x.answers ++ [{ lane, ok := true, cause := 0, value := BitVec.ofNat 128 (s.dev.readNat r.pa r.kind.size) }] } else x) ∧
   (∀ s m x, m.peer ≠ s.plat.own → direct s m → nextServed s.plat [] s.dev.served = none → x ∈ s.dev.served → x.peer = m.peer →
      Event (.remoteRequest m) s fun d => d = { s.dev with nextId := s.dev.nextId + 1, served := s.dev.served ++ [{ id := s.dev.nextId, peer := m.peer, seq := m.seq, job := m.job, kind := m.kind, lanes := m.lanes, begun := false, left := 0, answers := [] }] }) ∧
   (∀ s m, heard s m.peer → quiet s m → direct s m → s.dev.job m.job = none →
      Event (.remoteRequest m) s fun d => d = { s.dev with nextId := s.dev.nextId + 1, fabricOut := s.dev.fabricOut ++ [(s.plat.route m.peer 2, .answer m.peer m.seq (m.lanes.map fun l => { lane := l.lane, ok := false, cause := 3, value := 0 }))] }) ∧
   (∀ s m r gid g, m.peer ≠ s.plat.own → ((s.dev.peer m.peer).outstanding.find? fun r => r.seq == m.seq) = some r → r.rst = none → r.origin = .held gid → Tbl.find s.dev.groups gid = some g →
      (∀ l ∈ r.lanes, ∃ a ∈ m.answers, a.lane = l.lane) → (∀ a ∈ m.answers, a.ok = true) →
      Event (.remoteResponse m) s fun d => d.mem = s.dev.mem ∧ regsOf d gid = some g.regs ∧ (Tbl.find d.groups gid).map (·.outRemote) = some (g.outRemote - 1) ∧
        (d.peer m.peer).outstanding = (s.dev.peer m.peer).outstanding.filter fun x => x.seq != m.seq) ∧
   (∀ s m r gid g l a, m.peer ≠ s.plat.own → ((s.dev.peer m.peer).outstanding.find? fun r => r.seq == m.seq) = some r → r.rst = none → r.origin = .held gid → Tbl.find s.dev.groups gid = some g →
      r.lanes = [l] → m.answers = [a] → a.lane = l.lane → a.ok = false →
      Event (.remoteResponse m) s fun d => regsOf d gid = some { g.regs with raFcnt := g.raFcnt + 1, raFlast := BitVec.ofNat 64 ((l.addr.setWidth 32 : Word).toNat * 2 ^ 32 + m.peer % 512 * 2 ^ 23 + a.cause) })) ∧
  (∀ s p r, p ≠ s.plat.own → (s.dev.peer p).state = .up → ((s.dev.peer p).outstanding.find? fun r => decide (r.issued + micros 20 < s.dev.time)) = some r →
    Event (.requestTimeout p) s fun d => (d.peer p).state = .isolated ∧ (d.peer p).outstanding = [] ∧ (d.peer p).waiting = []))

/-- The states of a peer follow R394: probed from 1 ms after its isolation, one probe every 100 µs, UP at the second answer in a row within 20 µs, ISOLATED again when an answer fails; a probe of the peer is answered. The device's identity record goes to it when it is UP for the first time, and the peer's is kept (R441). A channel's eighth failure in a row takes it out of use, and a retrained one is in use again (R390). Credit for a class sends what was kept for it (R391). -/
def Obligations.peer_states_change : Prop :=
  (∀ s p, s.plat.valid p = true → p ≠ s.plat.own → (s.dev.peer p).state = .isolated → (s.dev.peer p).since + micros 1000 ≤ s.dev.time →
    Event (.isolatedExpiry p) s fun d => d = s.dev.modPeer p fun x => { x with state := .probing, since := s.dev.time, probeAt := s.dev.time, probeOut := none, answered := 0 }) ∧
  (∀ s p, p ≠ s.plat.own → (s.dev.peer p).state = .probing → (s.dev.peer p).probeOut = none → (s.dev.peer p).probeAt ≤ s.dev.time →
    Event (.probeSend p) s fun d => d.fabricOut = s.dev.fabricOut ++ [(s.plat.route p 0, .probe p)] ∧ d.peer p = { s.dev.peer p with probeOut := some s.dev.time, probeAt := s.dev.time + micros 100 }) ∧
  (∀ s p t, (s.dev.peer p).state = .probing → (s.dev.peer p).probeOut = some t → s.dev.time ≤ t + micros 20 →
    Event (.probeAnswer p) s fun d => (d.peer p).state = (if 1 ≤ (s.dev.peer p).answered then .up else .probing) ∧ (d.peer p).probeOut = none ∧
      d.fabricOut = s.dev.fabricOut ++ (if 1 ≤ (s.dev.peer p).answered ∧ (s.dev.peer p).everUp = false then [(s.plat.route p 0, .identity p (identityRecord s.plat))] else [])) ∧
  (∀ s p t, p ≠ s.plat.own → (s.dev.peer p).state = .probing → (s.dev.peer p).probeOut = some t → t + micros 20 < s.dev.time →
    Event (.probeTimeout p) s fun d => (d.peer p).state = .isolated ∧ (d.peer p).since = s.dev.time) ∧
  (∀ s p, s.plat.valid p = true → p ≠ s.plat.own → (s.dev.peer p).state ≠ .isolated →
    Event (.probeReceipt p) s fun d => d = { s.dev with fabricOut := s.dev.fabricOut ++ [(s.plat.route p 0, .probeAnswer p)] }) ∧
  (∀ s p r, Event (.identityRecordArrival p r) s fun d => d = s.dev.modPeer p fun x => { x with identity := some r }) ∧
  (∀ s p c, s.plat.valid p = true → s.plat.mode p = 0 → c < 8 → (s.dev.peer p).fails.length = 8 → (s.dev.peer p).down = 0 →
    Event (.flitCrcFail p c) s fun d => ((d.peer p).fails.getD c 0 = 1 ∨ (d.peer p).fails.getD c 0 = (s.dev.peer p).fails.getD c 0 + 1) ∧
      ((d.peer p).down.getLsbD c = true ↔ 8 ≤ (d.peer p).fails.getD c 0) ∧ (d.peer p).state = (s.dev.peer p).state) ∧
  (∀ s p c, (s.dev.peer p).down.getLsbD c = true → Event (.channelRetrained p c) s fun d => (d.peer p).down = (s.dev.peer p).down &&& ~~~(1#8 <<< c)) ∧
  (∀ s p c x, c < 4 → (s.dev.peer p).kept = [(c, x)] → Event (.creditGrant p c) s fun d => d.fabricOut = s.dev.fabricOut ++ [(s.plat.route x.peer x.cls, x)] ∧ (d.peer p).kept = [])

/-- The device's own step goes to every member of the job's sideboard that is UP with credit (R411). A member's entry becomes the greater of itself and the step received (R411). A member silent for `sb.absent` is absent, unless it is not behind the members that are present (R413). A send of a collective engine takes the contribution's bytes and sends them to the owner of its chunk (R323, R402); a contribution of a member on time joins the chunk's staging, and where the staging of the chunk's engine is full the member keeps it (R403, R404); the close of a chunk sends the weighted result (R405 to R407), and a result delivered is written with its record, and writes nothing else (R407). A `coll.get` whose result is lost completes with status LOST, and a retained copy is sent once more when its owner is back (R408). Which engine holds a chunk's staging, that of die k mod 4 for chunk k, is the model's choice (notes/assumptions/101.md), and that a result that cannot be written is dropped is its reading (notes/assumptions/69.md). -/
def Obligations.sideboard_and_collectives_exchanged : Prop :=
  ((∀ n s j, s.dev.job n = some j → j.sbSentAt + micros j.sbAbsent.toNat / 8 ≤ s.dev.time →
    Event (.sideboardSend n) s fun d => (d.job n).map (·.sbSentAt) = some s.dev.time ∧ d.mem = s.dev.mem ∧ d.groups = s.dev.groups ∧
      ∀ p < 512, sbMember s.plat j p = true → s.plat.valid p = true → (s.dev.peer p).state = .up → (s.dev.peer p).noCredit = 0 → (s.dev.peer p).kept = [] →
        (s.plat.route p 0, Posted.sideboard p n (((Tbl.find j.sideboard s.plat.own).map (·.step)).getD j.step0)) ∈ d.fabricOut) ∧
  (∀ n p step s j e, s.dev.job n = some j → sbMember s.plat j p = true → Tbl.find j.sideboard p = some e →
    Event (.sideboardReceipt n p step) s fun d => ((d.job n).bind fun x => Tbl.find x.sideboard p).map (fun x => (x.step, x.heard)) = some (if 0 < stepDiff step e.step then step else e.step, s.dev.time)) ∧
  (∀ n p s j e l, s.dev.job n = some j → Tbl.find j.sideboard p = some e → sbMember s.plat j p = true → e.present = true → e.heard + micros j.sbAbsent.toNat < s.dev.time →
    sbLeast s.plat { j with sideboard := Tbl.set j.sideboard p { e with present := false } } = some l → stepDiff e.step l < 0 →
    Event (.silenceTimeout n p) s fun d => ((d.job n).bind fun x => Tbl.find x.sideboard p).map (·.present) = some false)) ∧
  ((∀ s die i x b data, findWhere (fun (e : Nat × CollSend) => e.1 == die) s.dev.coll.sends 0 = some (i, die, x) → readBinding s.plat s.dev x.job x.binding = some b → readSource s.dev x.job die x.src = some data → b.owner x.chunk = s.plat.own →
    Event (.contributionSend die) s fun d => d.coll.sends = s.dev.coll.sends.eraseIdx i ∧
      d.coll.arrivals = s.dev.coll.arrivals ++ [{ job := x.job, binding := x.binding, chunk := x.chunk, step := x.step, member := s.plat.own, resend := false, data := bytesWords 1024 data }]) ∧
  (∀ s m b key c, m.member ≠ s.plat.own → (s.dev.job m.job).isSome → readBinding s.plat s.dev m.job m.binding = some b → m.chunk < b.nchunk → b.owner m.chunk = s.plat.own → b.members.contains m.member = true →
    findChunk s.dev m.job m.binding m.chunk = some (key, c) → alreadyIn c m = false → m.resend = false → (∃ n, c.open_ = some n ∧ n ≤ m.step) → (s.dev.peer m.member).withheld = false → stagingFull s.dev (engineOf m.chunk) = false →
    Event (.contributionArrival (some m)) s fun d => d = evalChunk s.plat (setChunk { s.dev with nextId := s.dev.nextId + 1 } key { c with staged := c.staged ++ [{ shift := 0, late := false, step := m.step, member := m.member, since := s.dev.time, data := m.data }] }) key false) ∧
  (∀ s m, m.member ≠ s.plat.own → (s.dev.peer m.member).withheld = false → stagingFull s.dev (engineOf m.chunk) = true →
    Event (.contributionArrival (some m)) s fun d => d = s.dev.modPeer m.member fun p => { p with withheld := true }) ∧
  (∀ s key c b, Tbl.find s.dev.coll.chunks key = some c → readBinding s.plat s.dev c.job c.binding = some b → b.vbase = 0 → b.members = [s.plat.own] →
    (let c' := noteQuorum s.dev b (noteTimers s.dev b c)
     ∀ n x, c'.open_ = some n → c'.ready = [(n, 1)] → c'.staged = [x] → x.late = false → x.step = n →
     Event (.closeTimerExpiry key) s fun d => (Tbl.find d.coll.chunks key).map (fun y => (y.open_, y.staged, y.ready)) = some (some (n + 1), [], []) ∧
       d.coll.results = s.dev.coll.results ++ [{ job := c.job, binding := c.binding, chunk := c.chunk, step := n, count := 1, status := if (quorumOf s.dev b c.job c.binding n).2 ≤ 1 then 1 else 2, data := (List.range 1024).map (closeElem [x]) }])) ∧
  (∀ s m b r, readBinding s.plat s.dev m.job m.binding = some b → m.chunk < b.nchunk → resultRecord s.dev m.job b m.chunk = some r → r.1 ≤ m.step →
    Event (.resultArrival (some m)) s fun d => d.coll.retained = s.dev.coll.retained.filter (fun x => !(x.job == m.job && x.binding == m.binding && x.chunk == m.chunk && decide (x.step ≤ m.step))) ∧
      d.mem = (jobWriteDrop s.plat (jobWriteDrop s.plat s.dev m.job (engineOf m.chunk) (b.rbase + BitVec.ofNat 64 (4096 * m.chunk)) (wordBytes m.data)) m.job (engineOf m.chunk) (recordAt b m.chunk) (bytesOf 4 m.step ++ bytesOf 4 m.count ++ bytesOf 4 m.status ++ bytesOf 4 0)).mem) ∧
  (∀ s gid op w b g, (s.dev.coll.gets.find? fun w => w.group == gid && w.op == op) = some w → readBinding s.plat s.dev w.job w.binding = some b → getLost s.plat s.dev w b = true → Tbl.find s.dev.groups gid = some g →
    Event (.collGetLost gid op) s fun d => d.mem = s.dev.mem ∧ opsIn d gid = some ((g.ops.filter fun o => o.id != op).map Op.unmarked) ∧ d.coll.gets = s.dev.coll.gets.filter fun x => !(x.group == gid && x.op == op)) ∧
  (∀ s id x b data, (s.dev.coll.retained.find? fun x => x.id == id) = some x → readBinding s.plat s.dev x.job x.binding = some b → b.owner x.chunk = s.plat.own → x.lost = true → x.copy = true → x.resent = false →
    readSource s.dev x.job 0 (b.kbase + BitVec.ofNat 64 (4096 * x.chunk)) = some data →
    Event (.resend id) s fun d => d = { s.dev with coll := { s.dev.coll with
      retained := s.dev.coll.retained.map fun y => if y.id == id then { y with resent := true } else y
      arrivals := s.dev.coll.arrivals ++ [{ job := x.job, binding := x.binding, chunk := x.chunk, step := x.step, member := s.plat.own, resend := true, data := bytesWords 1024 data }] } }))

/-- A copy goes on by one granule of 64 bytes, or what is left of it, in units of 16, source before destination (R316): from window or memory, or from the row that a gather's index names, zeros where it names none (R317), to window or memory, the destination takes the source's bytes, nothing else of memory changes, and the copy stands 64 bytes further on. With poison in the granule's source the destination granule is written and poisoned whole, and the copy completes with POISON at the granule's offset (R318). A page that forbids it, a versioned destination among them, and a walk that fails end it with the codes of R318; a page that is not mapped yet leaves it standing. With all bytes moved it completes on its timeline, which takes the clock of its die (R217, R319). -/
def Obligations.copies_move_their_granules : Prop :=
  (let at_ (s : Machine.State) (o : CopyOp) : Prop := ((Tbl.vals s.dev.clusters).flatMap fun c => c.copies).find? (fun x => x.id == o.id) = some o
   let ended (s : Machine.State) (o : CopyOp) (code : Nat) (k : DieClock) (d : Device) : Prop := ((Tbl.vals d.clusters).flatMap fun c => c.copies).find? (fun x => x.id == o.id) = none ∧
     ∀ t, Tbl.find s.dev.teams o.team = some t → (Tbl.find d.teams o.team).map (·.tls) = some (listSet t.tls o.tl { tlComplete (t.tl o.tl) o.number code (if code = 0 then 0 else o.at_) with clock := clockMax (t.tl o.tl).clock k })
   let unit (s : Machine.State) (o : CopyOp) (b : List Byte) (bad : Bool) (va : DWord) : Prop := ∃ l pa, engineXlat s.dev o.job .load o.die va = .ok l pa ∧ b = s.dev.readBytes pa 16 ∧ bad = s.dev.anyPoison pa 16
   let source (s : Machine.State) (o : CopyOp) (off : Nat) (b : List Byte) (bad : Bool) : Prop :=
     if o.gather then ∃ l qa, engineXlat s.dev o.job .load o.die (o.idx + BitVec.ofNat 64 (4 * (off / o.len))) = .ok l qa ∧ s.dev.anyPoison qa 4 = false ∧
       (if s.dev.readNat qa 4 = 0xFFFFFFFF then b = List.replicate 16 0 ∧ bad = false else unit s o b bad (o.src + BitVec.ofNat 64 (s.dev.readNat qa 4 * o.len + off % o.len)))
     else if winSrc o.dir then ∃ t, Tbl.find s.dev.teams o.team = some t ∧ b = windowBytes t (o.src.toNat + off) 16 ∧ bad = windowBad t (o.src.toNat + off) 16
     else unit s o b bad (o.src + BitVec.ofNat 64 off)
   let sources (s : Machine.State) (o : CopyOp) (n : Nat) (b : Nat → List Byte) (f : Nat → Bool) : Prop := ∀ i, i < n → source s o (o.at_ + 16 * i) (b i) (f i)
   let places (s : Machine.State) (o : CopyOp) (n : Nat) (pa : Nat → Nat) : Prop := winDst o.dir = false ∧
     (∀ i, i < n → ∃ l, engineXlat s.dev o.job .store o.die (o.dst + BitVec.ofNat 64 (o.at_ + 16 * i)) = .ok l (pa i) ∧ l.repl = false ∧ l.ver = false ∧ pa i % 16 = 0) ∧ ∀ i j, i < n → j < n → i ≠ j → Apart (pa i) 16 (pa j) 16
   let written (s : Machine.State) (n : Nat) (b : Nat → List Byte) (pa : Nat → Nat) (d : Device) : Prop := (∀ i, i < n → d.readBytes (pa i) 16 = b i) ∧ ∀ a, (∀ i, i < n → Apart a 1 (pa i) 16) → d.readByte a = s.dev.readByte a
   (∀ s o, at_ s o → o.total ≤ o.at_ → Event (.copyComplete o.id) s fun d => d.mem = s.dev.mem ∧ ended s o 0 (s.dev.die o.die).causal d ∧
      ∀ t, Tbl.find s.dev.teams o.team = some t → (Tbl.find d.teams o.team).map (·.ranges) = some (t.ranges.filter fun r => r.op != o.id)) ∧
   (∀ s o n b f pa, at_ s o → o.at_ < o.total → 16 * n = min 64 (o.total - o.at_) → sources s o n b f → (∀ i, i < n → f i = false) → places s o n pa →
      Event (.copyComplete o.id) s fun d => written s n b pa d ∧ at_ { s with dev := d } { o with at_ := o.at_ + 16 * n, stalled := none }) ∧
   (∀ s o n b f pa, at_ s o → o.at_ < o.total → 16 * n = min 64 (o.total - o.at_) → sources s o n b f → (∃ i, i < n ∧ f i = true) → places s o n pa →
      Event (.copyComplete o.id) s fun d => written s n b pa d ∧ (∀ i j, i < n → j < 4 → d.poisoned (pa i + 4 * j) = true) ∧ ∃ k, ended s o 1 k d) ∧
   (∀ s o n b f t, at_ s o → o.at_ < o.total → 16 * n = min 64 (o.total - o.at_) → sources s o n b f → (∀ i, i < n → f i = false) → winDst o.dir = true → Tbl.find s.dev.teams o.team = some t →
      Event (.copyComplete o.id) s fun d => d.mem = s.dev.mem ∧ at_ { s with dev := d } { o with at_ := o.at_ + 16 * n, stalled := none } ∧ ∃ t', Tbl.find d.teams o.team = some t' ∧
        (∀ i, i < n → windowBytes t' (o.dst.toNat + o.at_ + 16 * i) 16 = b i) ∧ ∀ x, Apart x 1 (o.dst.toNat + o.at_) (16 * n) → Cells.get 0 t'.window x = Cells.get 0 t.window x) ∧
   (∀ s o n b f t, at_ s o → o.at_ < o.total → 16 * n = min 64 (o.total - o.at_) → sources s o n b f → (∃ i, i < n ∧ f i = true) → winDst o.dir = true → Tbl.find s.dev.teams o.team = some t → (o.dst.toNat + o.at_) % 4 = 0 →
      Event (.copyComplete o.id) s fun d => d.mem = s.dev.mem ∧ ∃ t', Tbl.find d.teams o.team = some t' ∧ (∀ i j, i < n → j < 4 → windowBad t' (o.dst.toNat + o.at_ + 16 * i + 4 * j) 4 = true) ∧
        t'.tls = listSet t.tls o.tl { tlComplete (t.tl o.tl) o.number 1 o.at_ with clock := clockMax (t.tl o.tl).clock (s.dev.die o.die).causal }) ∧
   (∀ s o n b f l pa, at_ s o → o.at_ < o.total → 16 * n = min 64 (o.total - o.at_) → sources s o n b f → winDst o.dir = false → engineXlat s.dev o.job .store o.die (o.dst + BitVec.ofNat 64 o.at_) = .ok l pa → l.ver = true →
      Event (.copyComplete o.id) s fun d => d.mem = s.dev.mem ∧ ended s o 3 (s.dev.die o.die).causal d) ∧
   (∀ s o n code, at_ s o → o.at_ < o.total → n = min 64 (o.total - o.at_) → reachGranule s.dev o o.at_ n = .stop code → Event (.copyComplete o.id) s fun d => d.mem = s.dev.mem ∧ ended s o code (s.dev.die o.die).causal d) ∧
   (∀ s o n, at_ s o → o.at_ < o.total → n = min 64 (o.total - o.at_) → reachGranule s.dev o o.at_ n = .parked → copyHalted s.dev o = false → stale s.dev o.job (o.stalled.getD s.dev.clock) = false →
      Event (.copyComplete o.id) s fun d => d.mem = s.dev.mem ∧ at_ { s with dev := d } { o with stalled := some (o.stalled.getD s.dev.clock) }))

/-- A command handed over whose destination is neither versioned nor replicated enters the queue of its stack's hutch where there is room, takes the next number of its timeline, and leaves its group (R319, R422). The command at the head of a queue goes on by one element: SCALE, FADE and COPY write the element of R420 and nothing else, CKSUM adds it to its two sums, FUPD writes the three words of R420; poison in a word an element reads ends the command with code 16 at that element, whose words are poisoned (R426). With all its elements done, or an error at its acceptance, a command leaves its queue and completes on its timeline, CKSUM with its two sums stored first (R319, R420, R426). -/
def Obligations.hutch_commands_run : Prop :=
  (∀ s gid g e rest c tl, Tbl.find s.dev.groups gid = some g → g.id = gid → ((Tbl.vals s.dev.groups).findSome? fun g => match g.handed with
      | e :: _ => (match e.act with | .hcmd _ x => if x.id == c.id && g.releases.isEmpty then some (g.id, x) else none | _ => none)
      | [] => none) = some (gid, c) → g.handed = e :: rest → e.act = .hcmd tl c → queueLoad s.dev c.stack < 64 → c.op ≠ 1 → s.plat.hutchOff c.stack = false → (∀ p ∈ c.dst, p.leaf.repl = false ∧ p.leaf.ver = false) → c.mPages = [] →
    Event (.hutchEnqueue c.id) s fun d => d.mem = s.dev.mem ∧ (Tbl.find d.groups gid).map (·.handed) = some rest ∧
      (d.hutch c.stack).queue = (s.dev.hutch c.stack).queue ++ [{ c with number := (tlAccept s.dev c.team c.tl).1, since := s.dev.clock, ready := true }]) ∧
  (let runs (s : Machine.State) (stack : Nat) (c : HutchCmd) (op : Nat) (rest : List HutchCmd) : Prop :=
     (s.dev.hutch stack).queue = c :: rest ∧ c.stack = stack ∧ c.op = op ∧ c.ready = true ∧ c.err = none ∧ fillAhead s.dev c = false ∧ c.at_ < c.n ∧ (elemReads op (elemAt s.dev c c.at_)).any s.dev.poisoned = false
   let writes (i : Nat → Instr) (op : Nat) (v : Device → HutchCmd → ElemAt → Nat) : Prop := ∀ s stack c rest, runs s stack c op rest →
     (let x := elemAt s.dev c c.at_
      Event (i stack) s fun d => d.readBytes x.dst 4 = bytesOf 4 (v s.dev c x) ∧ (∀ a, Apart a 1 x.dst 4 → d.readByte a = s.dev.readByte a) ∧ (d.hutch stack).queue = { c with at_ := c.at_ + 1 } :: rest)
   writes .hutchScale 2 (fun d c x => scaleElem (d.readNat x.dst 4) (c.word 3 % 2 ^ 32)) ∧
   writes .hutchFade 3 (fun d c x => fadeElem (d.readNat x.dst 4) (d.readNat x.src 4) (c.word 3 % 2 ^ 32) (c.word 3 / 2 ^ 32)) ∧
   writes .hutchCopy 4 (fun d _ x => d.readNat x.src 4) ∧
   (∀ s stack c rest, runs s stack c 5 rest → (let w := s.dev.readNat (elemAt s.dev c c.at_).dst 4
      Event (.hutchCksum stack) s fun d => d.mem = s.dev.mem ∧ (d.hutch stack).queue = { c with at_ := c.at_ + 1, sums := ((c.sums.1 + w) % 2 ^ 32, (c.sums.2 + (c.n - c.at_) * w) % 2 ^ 32) } :: rest)) ∧
   (let moved (s : Machine.State) (c : HutchCmd) (code x : Nat) (d : Device) : Prop := ∀ t, Tbl.find s.dev.teams c.team = some t →
      (Tbl.find d.teams c.team).map (·.tls) = some (listSet t.tls c.tl { tlComplete (t.tl c.tl) c.number code x with clock := clockMax (t.tl c.tl).clock (s.dev.die (c.stack / 2)).causal })
    let head (s : Machine.State) (stack : Nat) (c : HutchCmd) (rest : List HutchCmd) : Prop := (s.dev.hutch stack).queue = c :: rest ∧ c.stack = stack ∧ c.ready = true
    let by_ (op : Nat) (i : Instr) (stack : Nat) : Prop := (op = 1 ∧ i = .hutchFupd stack) ∨ (op = 2 ∧ i = .hutchScale stack) ∨ (op = 3 ∧ i = .hutchFade stack) ∨ (op = 4 ∧ i = .hutchCopy stack) ∨ (op = 5 ∧ i = .hutchCksum stack)
    (∀ s stack c rest i code, head s stack c rest → by_ c.op i stack → c.err = some code → Event i s fun d => d.mem = s.dev.mem ∧ moved s c code 0 d ∧ (d.hutch stack).queue = rest) ∧
    (∀ s stack c rest i, head s stack c rest → by_ c.op i stack → c.err = none → fillAhead s.dev c = false → c.at_ < c.n → (elemReads c.op (elemAt s.dev c c.at_)).any s.dev.poisoned = true →
      Event i s fun d => d.mem = s.dev.mem ∧ moved s c 16 c.at_ d ∧ (d.hutch stack).queue = rest ∧ ∀ a ∈ elemTargets c.op (elemAt s.dev c c.at_), d.poisoned a = true) ∧
    (∀ s stack c rest i, head s stack c rest → by_ c.op i stack → c.op ≠ 5 → c.err = none → fillAhead s.dev c = false → c.n ≤ c.at_ → Event i s fun d => d.mem = s.dev.mem ∧ moved s c 0 0 d ∧ (d.hutch stack).queue = rest) ∧
    (∀ s stack c rest, head s stack c rest → c.op = 5 → c.err = none → fillAhead s.dev c = false → c.n ≤ c.at_ →
      (let a := hutchPhys s.dev c.die c.aux (c.word 3)
       Event (.hutchCksum stack) s fun d => d.readBytes a 8 = bytesOf 8 (c.sums.1 + c.sums.2 * 2 ^ 32) ∧ (∀ b, Apart b 1 a 8 → d.readByte b = s.dev.readByte b) ∧ (d.hutch stack).queue = rest ∧
         ∀ t, Tbl.find s.dev.teams c.team = some t → (Tbl.find d.teams c.team).map (fun x => { x.tl c.tl with clock := clockZero }) = some { tlComplete (t.tl c.tl) c.number 0 0 with clock := clockZero }))) ∧
   (∀ s stack c rest, runs s stack c 1 rest →
     (let x := elemAt s.dev c c.at_
      let r := fupdElem c.hyper (s.dev.readNat x.dst 4) (s.dev.readNat x.src 4) (s.dev.readNat x.m 4) (s.dev.readNat x.v 4)
      Apart x.dst 4 x.m 4 → Apart x.dst 4 x.v 4 → Apart x.m 4 x.v 4 →
      Event (.hutchFupd stack) s fun d => d.readBytes x.dst 4 = bytesOf 4 r.1 ∧ d.readBytes x.m 4 = bytesOf 4 r.2.1 ∧ d.readBytes x.v 4 = bytesOf 4 r.2.2 ∧
        (∀ a, Apart a 1 x.dst 4 → Apart a 1 x.m 4 → Apart a 1 x.v 4 → d.readByte a = s.dev.readByte a) ∧ (d.hutch stack).queue = { c with at_ := c.at_ + 1 } :: rest)))

/-- A mirror goes to its partner where that is UP and has a matching HOLD entry, and is counted as skipped where not (R427, R429); whether an UP partner has one is free (notes/assumptions/71.md); where both edges have one to send, which engine moves is free (notes/assumptions/2.md); one that arrives under a HOLD entry is put before the version home of its page (R429). A snapshot's image goes to the board place that does not hold the newer complete image, its header after the image, and then it is complete (R430). A spare's read of a HOLD copy is answered (R432). The first FILL starts, and with no page to fill it is done (R431). The layout of the image's header is the model's (log 22). -/
def Obligations.resilience_events : Prop :=
  (∀ s t d0 e, takeTransfer s.dev true = some (t, d0) → Tbl.find s.plat.resmap t.entry = some e → (s.dev.peer e.partner).state = .up → s.plat.valid e.partner = true → (s.dev.peer e.partner).noCredit = 0 → (s.dev.peer e.partner).kept = [] →
    PlatformEvent .mirrorSend s fun P d => d.mem = s.dev.mem ∧ if (endTransfer d0 t.record t.slot).free.1.getLsbD 0 then P = s.plat ∧
      d.fabricOut = s.dev.fabricOut ++ [(s.plat.route e.partner 3, .mirror e.partner { peer := s.plat.own, job := t.job, offset := t.page - e.base.toNat, step := t.step, image := frameBytes s.dev (s.dev.home t.record).attr t.frame t.size })]
      else d.fabricOut = s.dev.fabricOut ∧ (Tbl.find P.resmap t.entry).map (·.miss) = some (min 0xFFFFFFFF (e.miss + 1))) ∧
  (∀ s t d0 e, takeTransfer s.dev true = some (t, d0) → Tbl.find s.plat.resmap t.entry = some e → (s.dev.peer e.partner).state ≠ .up →
    PlatformEvent .mirrorSend s fun P d => d.fabricOut = s.dev.fabricOut ∧ (Tbl.find P.resmap t.entry).map (·.miss) = some (min 0xFFFFFFFF (e.miss + 1))) ∧
  (∀ s m e l, holdEntry s.plat m.peer m.job = some e → e.covers (e.base.toNat + m.offset) = true → versionedLeaf s.dev m.job (BitVec.ofNat 64 (e.base.toNat + m.offset)) = some l →
    Event (.mirrorArrival m) s fun d => d.mem = s.dev.mem ∧
      (d.home l.addr).stores = (s.dev.home l.addr).stores ++ [{ notice := some (BitVec.ofNat 64 l.base), source := .mirror, offset := 0, step := m.step, data := m.image.take l.size, since := s.dev.clock }] ∧
      (d.home l.addr).seals = (s.dev.home l.addr).seals ++ [{ job := m.job, group := none, page := l.base, step := m.step, since := s.dev.clock, clock := clockZero }]) ∧
  (∀ s t d0 e, takeTransfer s.dev false = some (t, d0) → t.skip = false → Tbl.find s.plat.resmap t.entry = some e →
    PlatformEvent .snapshotWrite s fun P d =>
      (let x := placeFor s.plat t.entry t.page
       let place := if x.newer = some 0 then 1 else 0
       let image := frameBytes s.dev (s.dev.home t.record).attr t.frame t.size
       let off := placeOffset e t.page t.size place
       (placeFor P t.entry t.page).newer = x.newer ∧ d.mem = s.dev.mem ∧
       d.hostOut = s.dev.hostOut ++ [{ port := lowPort s.plat, kind := 5, status := 0, tag := BitVec.ofNat 64 off, payload := bytesOf 8 off ++ image }])) ∧
  (∀ s m x w, portNamed s.plat { port := m.port, tag := 0 } = true → m.read = false → (s.plat.places.find? fun p => match p.writing with | some w => (if w.last then w.offset + w.length else w.offset) == m.offset.toNat | none => false) = some x → x.writing = some w →
    PlatformEvent (.storeReply m) s fun P d =>
      (w.last = true → (placeFor P x.entry x.page).newer = some w.place ∧ d.hostOut = s.dev.hostOut) ∧
      (w.last = false → (placeFor P x.entry x.page).newer = x.newer ∧
        d.hostOut = s.dev.hostOut ++ [{ port := lowPort s.plat, kind := 5, status := 0, tag := BitVec.ofNat 64 (w.offset + w.length), payload := bytesOf 8 (w.offset + w.length) ++ w.header }])) ∧
  (∀ s m e l j, s.plat.valid m.peer = true → (s.dev.peer m.peer).state = .up → (s.dev.peer m.peer).noCredit = 0 → (s.dev.peer m.peer).kept = [] → holdEntry s.plat m.forPeer m.job = some e → e.covers (e.base.toNat + m.offset) = true →
    versionedLeaf s.dev m.job (BitVec.ofNat 64 (e.base.toNat + m.offset)) = some l → newestSealed (readSlots s.dev l.addr) = some j →
    Event (.holdCopyRead m) s fun d => d.mem = s.dev.mem ∧
      d.fabricOut = s.dev.fabricOut ++ [(s.plat.route m.peer 3, .holdImage m.peer { job := m.job, offset := m.offset, step := (readSlot s.dev l.addr j).step, image := some (frameBytes s.dev l.attr (readSlot s.dev l.addr j).frame l.size) })]) ∧
  (∀ s h peer store, portNamed s.plat h = true → s.plat.start = .ready → s.plat.fillJob = none → PlatformEvent (.fillPages (.command h peer store)) s fun P d => d = s.dev ∧
    P = { s.plat with fillJob := some { host := h, peer, store, since := s.dev.time, pages := sparePages s.plat s.dev, all := sparePages s.plat s.dev, fromBoard := [], asked := false, writing := none, partial_ := false } }) ∧
  (∀ s j, s.plat.fillJob = some j → j.pages = [] → j.all = [] → j.writing = none → s.plat.fillQueue = [] → s.plat.heldPhases = [] → PlatformEvent (.fillPages .go) s fun P d =>
    P = { s.plat with fillJob := none } ∧
    d = { s.dev with hostOut := s.dev.hostOut ++ [{ port := j.host.port, kind := 3, status := 0, tag := j.host.tag, payload := bytesOf 4 j.peer ++ bytesOf 4 (if j.partial_ then 1 else 0) }] })

/-- The host commands of R338, at READY and on a port named a host port: ADMIT enters a job whose record passes its checks; WRITE writes the bytes where every page can be written, line by line, each where its page lies, and a replicated page through its collapse, from D0 (R222; notes/assumptions/107.md); PHASE appends a phase; CANCEL cancels what runs from the record, and is answered REJECTED where nothing was started from it; RETIRE frees the number of a job that is complete. Each is answered OK with its code, and a message of no assigned kind or code is answered REJECTED (R443). A message whose bytes are laid out as R443 has them is carried out as the command, the register access, the request for identity or attestation, or the FILL that it is. -/
def Obligations.host_commands_carried_out : Prop :=
  (let here (h : HostTag) (s : Machine.State) : Prop := portNamed s.plat h = true ∧ s.plat.start = .ready
   let reply (h : HostTag) (code status : Nat) : HostMsg := { port := h.port, kind := 3, status, tag := h.tag, payload := bytesOf 8 code }
   (∀ h r s, here h s → jobRecordOk r = true → s.dev.job (field r 0 1) = none → s.dev.jobs.length < 64 →
      PlatformEvent (.admitJob h r) s fun P d => P = s.plat ∧ d.mem = s.dev.mem ∧ d.hostOut = s.dev.hostOut ++ [reply h 0 0] ∧ (d.job (field r 0 1)).map (fun j => (j.state, j.prio, j.xroot)) = some (.running, field r 1 1, field r 16 8)) ∧
   (∀ h n va bs s l pa, here h s → (s.dev.job n).isSome → bs ≠ [] → va.toNat % 64 + bs.length ≤ 64 → engineXlat s.dev n .store 0 va = .ok l pa → l.ver = false → l.repl = false →
      PlatformEvent (.hostWrite h n va bs) s fun P d => P = s.plat ∧ d.readBytes pa bs.length = bs ∧ (∀ a, Apart a 1 pa bs.length → d.readByte a = s.dev.readByte a) ∧ d.hostOut = s.dev.hostOut ++ [reply h 1 0]) ∧
   (∀ (pa : DWord → Nat) h n va bs s, here h s → (s.dev.job n).isSome → bs ≠ [] → bs.length ≤ 4096 →
      (let xs := linePieces (bs.length + 1) va bs
       let d0 := xs.foldl (fun d x => collapseFor s.plat 0 d n x.1) s.dev
       (∀ x ∈ xs, ∃ l p, engineXlat s.dev n .store 0 x.1 = .ok l p ∧ l.ver = false) → (∀ x ∈ xs, ∃ l, engineXlat d0 n .store 0 x.1 = .ok l (pa x.1)) → (xs.Pairwise fun x y => Apart (pa x.1) x.2.length (pa y.1) y.2.length) → (∀ x ∈ xs, pa x.1 % 64 + x.2.length ≤ 64) →
       xs.flatMap (·.2) = bs ∧ (∀ x ∈ xs, x.1.toNat % 64 + x.2.length ≤ 64) ∧ ((∀ x ∈ xs, ∃ l p, engineXlat s.dev n .store 0 x.1 = .ok l p ∧ l.repl = false) → d0 = s.dev) ∧
       PlatformEvent (.hostWrite h n va bs) s fun P d => P = s.plat ∧ (∀ x ∈ xs, d.readBytes (pa x.1) x.2.length = x.2) ∧ (∀ a, (∀ x ∈ xs, Apart a 1 (pa x.1) x.2.length) → d.readByte a = d0.readByte a) ∧ reply h 1 0 ∈ d.hostOut)) ∧
   (∀ h n va bs s, here h s → bs ≠ [] → (∃ x ∈ linePieces (bs.length + 1) va bs, hostWritable s.dev n x.1 = false) →
      PlatformEvent (.hostWrite h n va bs) s fun P d => P = s.plat ∧ d = { s.dev with hostOut := s.dev.hostOut ++ [reply h 1 2] }) ∧
   (∀ h n va s j r gs, here h s → phaseHeld s.plat n = false → s.dev.job n = some j → j.state = .running → readRecord s.dev n va 16 = some r → phaseHeaderOk r = true → phaseGraphs s.dev n va (field r 4 2 % 257) = some gs →
      PlatformEvent (.appendPhase h n va) s fun P d => P = s.plat ∧ d.mem = s.dev.mem ∧ d.hostOut = s.dev.hostOut ++ [reply h 2 0] ∧ (d.job n).map (·.phases) = some (j.phases ++ [s.dev.nextId]) ∧
        (Tbl.find d.phases s.dev.nextId).map (fun p => (p.job, p.record, p.started, p.graphs)) = some (n, va, false, gs)) ∧
   (∀ h n va s p, here h s → (s.dev.job n).isSome → startedFrom s.dev n .phase va = [(p, .running)] → (Tbl.find s.dev.phases p).map (·.state) = some .running →
      PlatformEvent (.cancelObject h n .phase va) s fun P d => P = s.plat ∧ reply h 3 0 ∈ d.hostOut ∧ (Tbl.find d.phases p).map (·.state) ≠ some .running) ∧
   (∀ h n lv va s, here h s → startedFrom s.dev n lv va = [] → PlatformEvent (.cancelObject h n lv va) s fun P d => P = s.plat ∧ d = { s.dev with hostOut := s.dev.hostOut ++ [reply h 3 2] }) ∧
   (∀ h n s j, here h s → s.dev.job n = some j → j.state = .complete →
      PlatformEvent (.retireJob h n) s fun P d => P = s.plat ∧ d.mem = s.dev.mem ∧ d.hostOut = s.dev.hostOut ++ [reply h 4 0] ∧ d.job n = none) ∧
   (let msg (kind : Nat) (r : List Byte) (tag : DWord) (p : List Byte) : List Byte := [BitVec.ofNat 8 kind] ++ r ++ bytesOf 4 p.length ++ bytesOf 8 tag.toNat ++ p
    let cmd (code : Nat) (y p : List Byte) : List Byte := [BitVec.ofNat 8 code] ++ y ++ p
    let w (x : DWord) : List Byte := bytesOf 8 x.toNat
    ∀ port tag (a b c : DWord) (x : Word) r y bs s, r.length = 3 → y.length = 7 → bs.length < 2 ^ 31 →
      (bs.length = 64 → takeMessage port (msg 0 r tag (cmd 0 y bs)) s = exec (.admitJob ⟨port, tag⟩ bs) s) ∧
      takeMessage port (msg 0 r tag (cmd 1 y (w a ++ w b ++ bs))) s = exec (.hostWrite ⟨port, tag⟩ a.toNat b bs) s ∧
      takeMessage port (msg 0 r tag (cmd 2 y (w a ++ w b))) s = exec (.appendPhase ⟨port, tag⟩ a.toNat b) s ∧
      takeMessage port (msg 0 r tag (cmd 3 y (w a ++ w 2 ++ w c))) s = exec (.cancelObject ⟨port, tag⟩ a.toNat .phase c) s ∧
      takeMessage port (msg 0 r tag (cmd 4 y (w a))) s = exec (.retireJob ⟨port, tag⟩ a.toNat) s ∧
      takeMessage port (msg 1 r tag (w a ++ bytesOf 4 x.toNat)) s = exec (.regRead ⟨port, tag⟩ a x) s ∧
      takeMessage port (msg 2 r tag (w a ++ bytesOf 4 x.toNat ++ w b)) s = exec (.regWrite ⟨port, tag⟩ a x b) s ∧
      takeMessage port (msg 7 r tag []) s = exec (.identMessage ⟨port, tag⟩) s ∧
      (bs.length = 32 → takeMessage port (msg 8 r tag bs) s = exec (.attestMessage ⟨port, tag⟩ (BitVec.ofNat 256 (natOf bs))) s) ∧
      takeMessage port (msg 9 r tag (bytesOf 4 x.toNat ++ bytesOf 4 port)) s = exec (.fillPages (.command ⟨port, tag⟩ x.toNat (port % 2 ^ 32))) s) ∧
   (∀ h kind code s, here h s → (kind = 0 ∧ 5 ≤ code ∨ 10 ≤ kind) →
      PlatformEvent (.reservedHostMessage h kind code) s fun P d => P = s.plat ∧
        d = { s.dev with hostOut := s.dev.hostOut ++ [{ port := h.port, kind := 3, status := 2, tag := h.tag, payload := if kind = 0 then bytesOf 8 (code % 256) else [] }] }))

/-- The management registers, at READY and on a port named a host port (R443 to R450): a read is answered with the register's value; PWR_LIMIT is clamped to 1000 to 3600 W; HOST_PORTS takes two ports that differ; a remap entry that obeys R387 is installed, with its peer in PROBING (R388); a remap entry of the reserved mode is refused, and a 1 written to a reserved bit of one is ignored (R2); a misaligned access is REJECTED; the last word of an entry of the resilience map, which a write of 8 bytes brings, puts it into effect or leaves it as it was, with the status of R428; MON_CTL starts, stops, freezes and clears the monitors (R448). FW_COMMIT raises ROLLBACK to the running version (R439). The identity record is answered in every state of the start (R436, R440, R444), and an attestation report, signed, at READY, with the digests of the firmware and of the health record, START_STAT and the boot count (R442). Which accesses are aligned, and the answers to writes that are refused, are the model's reading (log 23, log 72). -/
def Obligations.registers_identity_and_attestation : Prop :=
  ((let here (h : HostTag) (s : Machine.State) : Prop := portNamed s.plat h = true ∧ s.plat.start = .ready
   let reply (h : HostTag) (payload : List Byte) : HostMsg := { port := h.port, kind := 3, status := 0, tag := h.tag, payload }
   let refused (h : HostTag) : HostMsg := { port := h.port, kind := 3, status := 2, tag := h.tag, payload := [] }
   let done (h : HostTag) (s : Machine.State) (d : Device) : Prop := d.hostOut = s.dev.hostOut ++ [reply h []] ∧ d.mem = s.dev.mem
   (∀ h off s, here h s → off.toNat % 8 = 0 → off ≠ 0x38 → PlatformEvent (.regRead h off 4) s fun P d => P = s.plat ∧
      d = { s.dev with hostOut := s.dev.hostOut ++ [reply h (bytesOf 8 off.toNat ++ bytesOf 4 4 ++ bytesOf 4 0 ++ bytesOf 8 (regWord s.plat off.toNat))] }) ∧
   (∀ h off s, here h s → off.toNat % 8 = 0 → off ≠ 0x38 → PlatformEvent (.regRead h off 8) s fun P d => P = s.plat ∧
      d = { s.dev with hostOut := s.dev.hostOut ++ [reply h (bytesOf 8 off.toNat ++ bytesOf 4 8 ++ bytesOf 4 0 ++ bytesOf 8 (regWord s.plat off.toNat + regWord s.plat (off.toNat + 4) * 2 ^ 32))] }) ∧
   (∀ h off (w : Word) v s, here h s → off.toNat % 8 ≠ 0 ∨ (w ≠ 4 ∧ w ≠ 8) → (∀ i, i = Instr.regRead h off w ∨ i = Instr.regWrite h off w v → PlatformEvent i s fun P d => P = s.plat ∧ d = { s.dev with hostOut := s.dev.hostOut ++ [refused h] })) ∧
   (∀ h v s, here h s → PlatformEvent (.regWrite h 0x30 4 v) s fun P d => done h s d ∧ P = { s.plat with pwrLimit := BitVec.ofNat 32 (min 3600 (max 1000 (v.toNat % 2 ^ 32))) }) ∧
   (∀ h (v : Word) s, here h s → v.toNat < 64 → v.toNat % 8 ≠ v.toNat / 8 → PlatformEvent (.hostPortsWrite h v) s fun P d => done h s d ∧ P = { s.plat with hostPorts := v }) ∧
   (∀ h p (w : Word) s, here h s → p < 512 → p % 2 = 0 → remapEntryOk w = true → PlatformEvent (.remapWrite h p ⟨4, w.setWidth 64⟩) s fun P d => done h s d ∧ P = { s.plat with remap := Tbl.set s.plat.remap p (w &&& 0xFBFF01FF#32) } ∧ (d.peer p).state = .probing ∧ (d.peer p).outstanding = []) ∧
   (∀ h p (w : Word) s, here h s → p < 512 → p % 2 = 0 → remapEntryOk w = false → PlatformEvent (.remapWrite h p ⟨4, w.setWidth 64⟩) s fun P d => P = s.plat ∧ d = { s.dev with hostOut := s.dev.hostOut ++ [refused h] }) ∧
   (∀ h p (a b : Word) s, here h s → p < 511 → p % 2 = 0 → remapEntryOk a = true → remapEntryOk b = true → PlatformEvent (.remapWrite h p ⟨8, b ++ a⟩) s fun P d =>
      done h s d ∧ P = { s.plat with remap := Tbl.set (Tbl.set s.plat.remap p (a &&& 0xFBFF01FF#32)) (p + 1) (b &&& 0xFBFF01FF#32) } ∧ (d.peer (p + 1)).state = .probing) ∧
   (∀ h k (v : DWord) s, here h s → k < 256 → PlatformEvent (.resmapWrite h k 24 8 v) s fun P d => done h s d ∧
      (let e := resOf (bytesOf 32 ((stagedBytes s.plat k).toNat % 2 ^ 192 + v.toNat * 2 ^ 192)) (Tbl.find s.plat.resmap k)
       P.resStat = resStatus s.plat s.dev k e ∧ Tbl.find P.resmap k = if resStatus s.plat s.dev k e = 0 then some e else Tbl.find s.plat.resmap k)) ∧
   (∀ h k o (w : Word) (v : DWord) s, here h s → k < 256 → o < 24 → o % 8 = 0 → w = 4 ∨ w = 8 → PlatformEvent (.resmapWrite h k o w v) s fun P d => done h s d ∧ P.resmap = s.plat.resmap ∧
      (Tbl.find P.resStage k).map BitVec.toNat = some (let x := (stagedBytes s.plat k).toNat; x % 2 ^ (8 * o) + v.toNat % 2 ^ (8 * w.toNat) * 2 ^ (8 * o) + x / 2 ^ (8 * (o + w.toNat)) * 2 ^ (8 * (o + w.toNat)))) ∧
   (∀ h s, here h s → PlatformEvent (.monStart h 1) s fun P d => done h s d ∧ P = { s.plat with monRunning := true }) ∧
   (∀ h s, here h s → PlatformEvent (.monStop h 2) s fun P d => done h s d ∧ P = { s.plat with monRunning := false }) ∧
   (∀ h s, here h s → PlatformEvent (.monFreeze h 4) s fun P d => done h s d ∧ d.monitors = s.dev.monitors ∧ P = { s.plat with window := s.dev.monitors }) ∧
   (∀ h s, here h s → PlatformEvent (.monClear h 8) s fun P d => done h s d ∧ P.eccCe = 0 ∧ d.monitors = List.replicate 11 MonRec.zero) ∧
   (∀ h s, here h s → PlatformEvent (.fwCommit h) s fun P d => done h s d ∧ P = { s.plat with rollback := if s.plat.rollback < s.plat.fwVer then s.plat.fwVer else s.plat.rollback }))) ∧
  ((∀ h s, portNamed s.plat h = true → PlatformEvent (.identMessage h) s fun P d => P = s.plat ∧
    d = { s.dev with hostOut := s.dev.hostOut ++ [{ port := h.port, kind := 3, status := 0, tag := h.tag, payload := identityRecord s.plat }] }) ∧
  (∀ P, (identityRecord P).length = 1024) ∧
  (∀ h nonce s, portNamed s.plat h = true → s.plat.start = .ready → PlatformEvent (.attestMessage h nonce) s fun P d => P = s.plat ∧
    d = { s.dev with hostOut := s.dev.hostOut ++ [{ port := h.port, kind := 3, status := 0, tag := h.tag, payload := reportBytes s.plat nonce ++ octets 384 (Config.sign (sha256 (reportBytes s.plat nonce))).toNat }] }) ∧
  (∀ P nonce, reportBytes P nonce = identityRecord P ++ bytesOf 32 nonce.toNat ++ bytesOf 32 P.fwDigest.toNat ++ sha256 (bytesOf 256 P.health.toNat) ++ bytesOf 4 (startStat P) ++ bytesOf 4 0 ++ bytesOf 8 P.boots))

/-- The start goes through FUSE, SIGN, HBM, BIST and FABRIC to READY, a warm one without BIST (R436 to R438); an image that fails a condition of R439 halts it, with the code of the first that fails. POWER_ON and COLD empty the device and begin at FUSE; WARM keeps memory (R437). A sample of power changes the power level by at most one, upward, and the level never passes 5 (R447); after 1 ms below 95 % of the limit the level falls by one. Neither touches memory or a group. What a start keeps, and the samples of the mean, are the model's reading (log 10, log 73). -/
def Obligations.starts_and_power : Prop :=
  ((∀ s, PlatformEvent .powerOn s fun P d => P.start = .fuse ∧ P.warm = false ∧ d.mem = [] ∧ d.groups = [] ∧ d.jobs = []) ∧
  (∀ s, s.plat.start = .fuse → PlatformEvent .fuseDone s fun P d => d = s.dev ∧ P.start = .sign ∧ P.serial = Config.serial ∧ P.feed = Config.feed ∧ s.plat.rollback ≤ P.rollback) ∧
  (∀ m s, s.plat.start = .sign → PlatformEvent (.signDone m) s fun P d => d = s.dev ∧
    P = if sha256 (bytesOf 384 m.modulus.toNat) ≠ bytesOf 32 Config.keyHash.toNat then { s.plat with start := .secureHalt, failCode := 1 }
      else if m.image.length < 64 ∨ rsaVerifies m.modulus m.signature m.image = false then { s.plat with start := .secureHalt, failCode := 2 }
      else if BitVec.ofNat 32 (field m.image 4 4) < s.plat.rollback then { s.plat with start := .secureHalt, failCode := 3 }
      else { s.plat with start := .hbm, fwVer := BitVec.ofNat 32 (field m.image 4 4), fwDigest := BitVec.ofNat 256 (natOf (sha256 m.image)) }) ∧
  (∀ m s, s.plat.start = .hbm → PlatformEvent (.hbmDone m) s fun P d => P.start = (if s.plat.warm then .fabric else .bist) ∧ d.mem = s.dev.mem ∧
    (s.plat.warm = true → ∀ w, d.wordBad w = (s.dev.wordBad w || m.lost.getLsbD (w / 2 ^ 34))) ∧ (s.plat.warm = false → d = s.dev)) ∧
  (∀ m s, s.plat.start = .bist → PlatformEvent (.bistDone m) s fun P d => d = s.dev ∧ P.start = .fabric ∧ ∀ n, P.disabled n = (m.failed.getLsbD n && decide (n < 652))) ∧
  (∀ m s, s.plat.start = .fabric → PlatformEvent (.fabricDone m) s fun P d => P.start = .ready ∧ d.mem = s.dev.mem) ∧
  (∀ h s, portNamed s.plat h = true → s.plat.start = .ready → PlatformEvent (.warmStart h) s fun P d => P.start = .fuse ∧ P.warm = true ∧ P.health = s.plat.health ∧ d.mem = s.dev.mem ∧ d.poison = s.dev.poison ∧ d.groups = [] ∧ d.jobs = []) ∧
  (∀ h s, portNamed s.plat h = true → PlatformEvent (.coldStart h) s fun P d => P.start = .fuse ∧ P.warm = false ∧ d.mem = [] ∧ d.groups = [] ∧ d.jobs = [])) ∧
  ((∀ m s, PlatformEvent (.powerSample m) s fun P d => d = { s.dev with monitors := d.monitors } ∧ P = { s.plat with level := P.level, powerSums := P.powerSums, roseAt := P.roseAt, lowSince := P.lowSince } ∧
    (P.level = s.plat.level ∨ (P.level = s.plat.level + 1 ∧ P.level ≤ 5 ∧ P.roseAt = some s.dev.time))) ∧
  (∀ m s, 7500 < m.core → s.plat.level < 5 → (∀ t, s.plat.roseAt = some t → t + micros 10 ≤ s.dev.time) → PlatformEvent (.powerSample m) s fun P _ => P.level = s.plat.level + 1) ∧
  (∀ s t, s.plat.lowSince = some t → t + micros 1000 ≤ s.dev.time → 0 < s.plat.level → PlatformEvent .levelFall s fun P d => d = s.dev ∧ P = { s.plat with level := s.plat.level - 1, lowSince := some s.dev.time }))

/-! Decoding, encoding and the step. -/

/-- When the words a split stands at decode to an instruction, its clause is entered and the clause's wait field holds nothing back, a step is `exec` of that instruction, followed by what the device does of itself (R108, R122). A split that has not entered its clause does so first, and then stands at the words of memory, each byte as it was before the stores that no `dbg.iflush` of the job has followed (R135). At power level 5 an instruction issues in one clock of two (R447). Where no split's turn stands, a split's turn, an event or a host message is taken, which nothing decides (log 2), and an event or a message is performed the same way. -/
def Obligations.step_runs_the_decoded_instruction : Prop :=
  (∀ s gid k g sp i n, s.move = .issue gid k → Tbl.find s.dev.groups gid = some g → splitOf g k = some sp → mayIssue s.dev g k sp = true → sp.entry = none → issueClock s.plat s.dev = true →
    (sp.index = 0 → waitClear g k (hdrWait sp.header) = true) → decode (sp.code.drop sp.word) = .ok (i, n) →
    step s = finishOutcome (exec i { s with turn := .issue gid k })) ∧
  (∀ s gid k g sp e d g' sp' i n, s.move = .issue gid k → Tbl.find s.dev.groups gid = some g → splitOf g k = some sp → mayIssue s.dev g k sp = true → sp.entry = some e → issueClock s.plat s.dev = true →
    enterClause s.plat s.dev g k sp = .ok d → Tbl.find d.groups gid = some g' → splitOf g' k = some sp' →
    (sp'.index = 0 → waitClear g' k (hdrWait sp'.header) = true) → decode (sp'.code.drop sp'.word) = .ok (i, n) →
    step s = finishOutcome (exec i { s with dev := d, turn := .issue gid k })) ∧
  (∀ s gid k, s.move = .issue gid k → s.plat.level = 5 → s.dev.clock % 2 = 1 → step s = .next s.finish) ∧
  (∀ s : Machine.State, s.plat.level ≠ 5 ∨ s.dev.clock % 2 = 0 → issueClock s.plat s.dev = true) ∧
  (∀ P d g va idx l pa, ((d.core g.core).icache.find? fun e => e.1 == g.job && e.2.1 == va.toNat / 64) = none → xlat d g .fetch va = .ok l pa → d.poisoned pa = false → homeDie pa = g.core / 128 → pa % 4 = 0 →
    (let old := ((d.job g.job).map (·.codeOld)).getD []
     ∃ e, fetchWord P d g va idx = .ok [BitVec.ofNat 32 (natOf ((List.range 4).map fun i => codeByte old (pa + i, d.readByte (pa + i))))] e ∧ e.mem = d.mem)) ∧
  (∀ s, s.turn = .free → step s = match Config.nextMove s.tick with
    | .issue gid k => step { s with turn := .issue gid k }
    | .event i => if i.isCode = true then .next s.finish else finishOutcome (exec i s)
    | .message port bytes => finishOutcome (takeMessage port bytes s))

/-- Words written out by the tables of R111 to R121, R234 and R290 decode to the instructions they stand for: `nop`; short `add.i32 v4, v7, v5`; `!p3? add.rtz.sat.f32 v10, v11, s2`; `add.lo.f16 v1, v2, 0x3C00` with v2 reused; `ld.thru.b64 v8, s4, 0x40`; `atom.cas.b32 v4, v6, s5, v10`; `mma.one.e4e5 ac3, sh2, s1, s2, s4`; `cp.g2w s7, tl5, s1, s2, 256`; `sys.rd s6, rs.key`; `p1? bra.all` two units back; `brk` of three words. A header, a reserved opcode, a continuation without its marker, a reserved field that is not zero and a scalar destination of vector sources are refused. -/
def Obligations.words_decode : Prop :=
  decode [0x00000001] = .ok (.nop, 1) ∧
  decode [0x05070409] = .ok (.addI32Short { d := .v 4, a := .v 7, b := .v 5 }, 1) ∧
  decode [0x0A50EC02, 0x0003882F] = .ok (.add { g := some { neg := true, p := 3 }, tr := false, sat := true, ty := .f32, rnd := .rtz, part := .full, d := .v 10, a := { reg := .v 11, reuse := false }, b := .reg (.s 2) false }, 2) ∧
  decode [0x01140003, 0x2400000B, 0x3C00] = .ok (.add { g := none, tr := false, sat := false, ty := .f16, rnd := .rne, part := .lo, d := .v 1, a := { reg := .v 2, reuse := true }, b := .lit 0x3C00 }, 3) ∧
  decode [0x08048183, 0x40000393, 0x40] = .ok (.ld { g := none, size := .b64, pol := .thru, d := .v 8, a := { reg := .s 4, reuse := false }, off := .lit 0x40 }, 3) ∧
  decode [0x042B81C2, 0x202B941B] = .ok (.atom { g := none, ty := .b32, op := .cas, d := .v 4, a := { reg := .v 6, reuse := false }, off := .sc 5 false, c := { reg := .v 10, reuse := false } }, 2) ∧
  decode [0x030F028A, 0x23938B87] = .ok (.mma { g := none, tile := 3, a := 1, b := 2, desc := 4, bs := false, pair := .e4e5, shape := some 2, one := true, ninf := false, wa := false, rb := false }, 2) ∧
  decode [0xE71402C3, 0x03880387, 0x100] = .ok (.cp { d := some 7, tl := 5, dst := 1, src := 2, len := .lit 0x100, dir := .g2w }, 3) ∧
  decode [0xE6000302, 0x00000083] = .ok (.sysRd (.s 6) 0x20, 2) ∧
  decode [0x0000C742, 0xFFFFFFFB] = .ok (.bra (some { neg := false, p := 1 }) true (-2), 2) ∧
  decode [0x00000705, 0, 0] = .ok (.brk 3 1, 3) ∧
  decode [0x00000004] = .error .headerMarker ∧
  decode [0x0000003D] = .error .reservedOpcode ∧
  decode [0x0A50EC02, 0x0003882C] = .error .badCont ∧
  decode [0x00000101] = .error .reservedField ∧
  decode [0xE0000002, 0x00000003] = .error .notAllowed

/-- Each well-formed instruction of code, with every operand at every value the encoding admits, decodes from its own words, whatever words follow; a `brk` takes its span (R110 to R121, R134). A word that decodes to an instruction is that instruction's encoding: no two instructions share words, and no bit of an instruction's words is ignored (R2, R122). -/
def Obligations.decode_and_encode_agree : Prop :=
  (∀ i rest, i.isCode = true → i.wf = true →
    ∃ n, decode (encode i ++ rest) = .ok (i, n) ∧ (n = (encode i).length ∨ ∃ span tag, i = .brk span tag ∧ n = span)) ∧
  (∀ ws i n, decode ws = .ok (i, n) → i.isCode = true ∧ i.wf = true ∧ (encode i).isPrefixOf ws = true)

/-! Invariants. -/

/-- Every step keeps the platform as the spec says its registers read: the power limit within 1000 to 3600 W, every remap entry legal, two different host ports (R387, R444, R450). -/
def Obligations.platform_stays_legal : Prop :=
  ∀ s t, powerOk s.plat = true → remapOk s.plat = true → portsOk s.plat = true → step s = .next t → powerOk t.plat = true ∧ remapOk t.plat = true ∧ portsOk t.plat = true

/-- Every step keeps memory in its canonical form: one entry a byte, addresses rising, none that reads as an unlisted address does. The form is the model's (log 1). -/
def Obligations.memory_stays_canonical : Prop :=
  ∀ s t, Memory.wf s.dev.mem = true → step s = .next t → Memory.wf t.dev.mem = true

/-- The state after reset is legal: the platform as `platform_stays_legal` has it, memory canonical and empty (the model's choice, log 1), PWR_LIMIT at 3600 and HOST_PORTS at 8 (R449). -/
def Obligations.reset_is_legal : Prop :=
  powerOk State.reset.plat = true ∧ remapOk State.reset.plat = true ∧ portsOk State.reset.plat = true ∧ Memory.wf State.reset.dev.mem = true ∧ State.reset.dev.mem = [] ∧
  State.reset.plat.hostPorts = 0x08 ∧ State.reset.plat.pwrLimit = 3600 ∧ State.reset.dev.groups = [] ∧ State.reset.dev.jobs = []

/-- No instruction of code changes the platform: the management registers, the remap and resilience tables, identity, start and power are the host's and the fabric manager's alone (R443, R449, R450). -/
def Obligations.code_leaves_the_platform : Prop :=
  ∀ i s t, i.isCode = true → exec i s = .next t → t.plat = s.plat ∧ t.turn = s.turn ∧ t.tick = s.tick

/-! Memory, results and exceptions. -/

/-- A write of bytes that starts at any address, line by line, reads back as written, leaves every other byte, and keeps the canonical form of log 1 (R199, R205). -/
def Obligations.writes_read_back : Prop :=
  ∀ P src d a bs, (engineWrite P src d a bs).readBytes a bs.length = bs ∧ (∀ x, Apart x 1 a bs.length → (engineWrite P src d a bs).readByte x = d.readByte x) ∧
    (Memory.wf d.mem = true → Memory.wf (engineWrite P src d a bs).mem = true)

/-- The integer results of R151: the exact sum, difference, product, product and sum, magnitude and negative of the elements' values, clamped to the type's range under `.sat` and wrapped otherwise; the high half of the exact product; the lesser and the greater. They are written at the elements and lanes that `binWrites`, `triWrites` and `unWrites` select. -/
def Obligations.integer_results : Prop :=
  (let num (t : Ty) (x : Nat) : Int := if Ty.signed t then (BitVec.ofNat (Ty.width t) x).toInt else (BitVec.ofNat (Ty.width t) x).toNat
   let lo (t : Ty) : Int := if Ty.signed t then -2 ^ (Ty.width t - 1) else 0
   let hi (t : Ty) : Int := if Ty.signed t then 2 ^ (Ty.width t - 1) - 1 else 2 ^ Ty.width t - 1
   let fit (t : Ty) (sat : Bool) (v : Int) : Nat := (BitVec.ofInt (Ty.width t) (if sat then max (lo t) (min (hi t) v) else v)).toNat
   (∀ f : Bin, f.ty.isInt = true → Lands (.add f) f.g f.tr (binWrites f fun _ x y => fit f.ty f.sat (num f.ty x + num f.ty y)) (rsUse f.rnd)) ∧
   (∀ f : Bin, f.ty.isInt = true → Lands (.sub f) f.g f.tr (binWrites f fun _ x y => fit f.ty f.sat (num f.ty x - num f.ty y)) (rsUse f.rnd)) ∧
   (∀ f : Bin, f.ty.isInt = true → Lands (.mul f) f.g f.tr (binWrites f fun _ x y => fit f.ty f.sat (num f.ty x * num f.ty y)) (rsUse f.rnd)) ∧
   (∀ f : Bin, f.ty.isInt = true → Lands (.mulhi f) f.g f.tr (binWrites f fun _ x y => fit f.ty false (num f.ty x * num f.ty y / 2 ^ Ty.width f.ty)) 0) ∧
   (∀ f : Tri, f.ty.isInt = true → Lands (.mad f) f.g f.tr (triWrites f fun _ x y z => fit f.ty f.sat (num f.ty x * num f.ty y + num f.ty z)) 0) ∧
   (∀ f : Bin, f.ty.isInt = true → Lands (.min f) f.g f.tr (binWrites f fun _ x y => fit f.ty false (min (num f.ty x) (num f.ty y))) 0) ∧
   (∀ f : Bin, f.ty.isInt = true → Lands (.max f) f.g f.tr (binWrites f fun _ x y => fit f.ty false (max (num f.ty x) (num f.ty y))) 0) ∧
   (∀ f : Un, f.ty.isInt = true → Lands (.abs f) f.g f.tr (unWrites f fun _ x => fit f.ty f.sat |num f.ty x|) 0) ∧
   (∀ f : Un, f.ty.isInt = true → Lands (.neg f) f.g f.tr (unWrites f fun _ x => fit f.ty f.sat (-num f.ty x)) 0))

/-- The special cases of float arithmetic in f32, f16 and bf16 (R152, R161): a NaN operand, ∞ − ∞ and 0 × ∞ give the canonical NaN, with `fma` as well; another infinite operand gives an infinity of the sign the operation defines, on either side and in `fma` too, under every rounding code and under `.sat`; `min` and `max` of two NaNs give the canonical NaN and of one NaN the other operand; `abs` and `neg` change the sign bit alone. -/
def Obligations.float_special_cases : Prop :=
  ∀ t : Ty, t.isF = true →
    (let w := Ty.width t
     let F := fmtOf t
     let inf := F.inf.getD 0
     let nan := F.nan.getD 0
     let sign := 2 ^ (w - 1)
     let isNan (x : Nat) : Prop := inf < x % sign
     let isInf (x : Nat) : Prop := x % sign = inf
     let finite (x : Nat) : Prop := x % sign < inf
     let flip (x : Nat) : Nat := if x < sign then x + sign else x - sign
     let product (x y : Nat) : Nat := inf + (if x / sign = y / sign then 0 else sign)
     ∀ r sat rb x y z, x < 2 ^ w → y < 2 ^ w → z < 2 ^ w →
       (isNan x ∨ isNan y → addElem t r sat rb x y = nan ∧ subElem t r sat rb x y = nan ∧ mulElem t r sat rb x y = nan) ∧
       (isNan x ∨ isNan y ∨ isNan z → fmaElem t r sat rb x y z = nan) ∧
       (isInf x → isInf y → (x = y → subElem t r sat rb x y = nan ∧ addElem t r sat rb x y = x) ∧ (x ≠ y → addElem t r sat rb x y = nan ∧ subElem t r sat rb x y = x)) ∧
       (isInf x → y % sign = 0 → mulElem t r sat rb x y = nan ∧ mulElem t r sat rb y x = nan ∧ fmaElem t r sat rb x y z = nan) ∧
       (isInf x → finite y → addElem t r sat rb x y = x ∧ addElem t r sat rb y x = x ∧ subElem t r sat rb x y = x ∧ subElem t r sat rb y x = flip x) ∧
       (isInf x → ¬ isNan y → y % sign ≠ 0 → mulElem t r sat rb x y = product x y ∧ mulElem t r sat rb y x = product x y) ∧
       (isInf x → y % sign = 0 → fmaElem t r sat rb y x z = nan) ∧
       (isInf x → ¬ isNan y → y % sign ≠ 0 → ¬ isNan z → (let v := if isInf z ∧ z ≠ product x y then nan else product x y; fmaElem t r sat rb x y z = v ∧ fmaElem t r sat rb y x z = v)) ∧
       (finite x → finite y → isInf z → fmaElem t r sat rb x y z = z) ∧
       (isNan x → isNan y → minElem t x y = nan ∧ maxElem t x y = nan) ∧
       (isNan x → ¬ isNan y → minElem t x y = y ∧ maxElem t x y = y ∧ minElem t y x = y ∧ maxElem t y x = y) ∧
       (absElem t sat x = x % sign ∧ negElem t sat x = flip x))

/-- The shifts of R156: every amount of 32 bits, also the width and beyond it. -/
def Obligations.shift_results : Prop :=
  (∀ f : Bin, f.ty = .b32 ∨ f.ty = .b64 → Lands (.shl f) f.g f.tr (shiftWrites f fun x n => (BitVec.ofNat (Ty.width f.ty) x <<< n).toNat) 0) ∧
  (∀ f : Bin, f.ty = .b32 ∨ f.ty = .b64 → Lands (.shr f) f.g f.tr (shiftWrites f fun x n => (BitVec.ofNat (Ty.width f.ty) x >>> n).toNat) 0) ∧
  (∀ f : Bin, f.ty = .i32 ∨ f.ty = .i64 → Lands (.sra f) f.g f.tr (shiftWrites f fun x n => ((BitVec.ofNat (Ty.width f.ty) x).sshiftRight n).toNat) 0) ∧
  (∀ f : Bin, f.ty = .b32 ∨ f.ty = .b64 → Lands (.rot f) f.g f.tr (shiftWrites f fun x n => ((BitVec.ofNat (Ty.width f.ty) x).rotateLeft n).toNat) 0)

/-- `popc` counts the set bits and `clz` the zeros above the highest one, each into one register, and `brev` moves bit i to bit W − 1 − i (R157); `bfe` extracts a field, zero-extended or sign-extended (R158), and `bfi` inserts one (R159), each field stopping at bit 31. -/
def Obligations.bit_results : Prop :=
  (∀ f : Un, f.ty = .b32 ∨ f.ty = .b64 →
    Lands (.popc f) f.g f.tr (fun c => laneWrites c f.d 1 fun l => ((List.range (Ty.width f.ty)).filter fun i => (c.ov f.ty l f.a).testBit i).length) 0 ∧
    Lands (.clz f) f.g f.tr (fun c => laneWrites c f.d 1 fun l => clzBits (Ty.width f.ty) (c.ov f.ty l f.a)) 0 ∧
    Lands (.brev f) f.g f.tr (unWrites f fun _ x => revBits (Ty.width f.ty) x (Ty.width f.ty)) 0) ∧
  (∀ f : Tri, f.ty = .i32 ∨ f.ty = .w32 → Lands (.bfe f) f.g f.tr (triWrites f fun _ => bfeElem f.ty) 0) ∧
  (∀ f : Tri, f.ty = .b32 → Lands (.bfi f) f.g f.tr (triWrites f fun _ => bfiElem) 0) ∧
  (∀ w x, x < 2 ^ w → clzBits w x ≤ w ∧ (∀ i, w - clzBits w x ≤ i → x.testBit i = false) ∧ (clzBits w x < w → x.testBit (w - 1 - clzBits w x) = true)) ∧
  (∀ w x i, (revBits w x w).testBit i = (decide (i < w) && x.testBit (w - 1 - i))) ∧
  (∀ x o w i, (bfeElem .w32 x o w).testBit i = (decide (i < w) && decide (o + i < 32) && x.testBit (o + i))) ∧
  (∀ x o w i, (bfeElem .i32 x o w).testBit i = if 32 ≤ i ∨ 32 ≤ o ∨ w = 0 then false else x.testBit (o + min i (min w (32 - o) - 1))) ∧
  (∀ x base v i, base < 2 ^ 32 → (bfiElem x base v).testBit i = if v % 256 ≤ i ∧ i < v % 256 + v / 256 % 256 ∧ i < 32 then x.testBit (i - v % 256) else base.testBit i)

/-- `divstep` makes one step of restoring division, and 32 of them from Q equal to the dividend and P = 0 leave the quotient in Q and the remainder in P; a divisor of 0 leaves Q at 0xFFFF_FFFF and P at the dividend (R153). -/
def Obligations.divsteps_divide : Prop :=
  (∀ q p d, q < 2 ^ 32 → p < 2 ^ 32 → d < 2 ^ 32 →
    divStep (q + 2 ^ 32 * p) d = if d ≤ 2 * p + q / 2 ^ 31 then (2 * q % 2 ^ 32 + 1) + 2 ^ 32 * ((2 * p + q / 2 ^ 31 - d) % 2 ^ 32) else 2 * q % 2 ^ 32 + 2 ^ 32 * ((2 * p + q / 2 ^ 31) % 2 ^ 32)) ∧
  (∀ f, Lands (.divstep f) f.g f.tr (fun c => laneWrites c f.d 2 fun l => divStep (c.rv .b64 l f.a.reg) (c.ov .b32 l f.b)) 0) ∧
  (∀ n d, n < 2 ^ 32 → d < 2 ^ 32 → d ≠ 0 → (fun x => divStep x d)^[32] n = n / d + 2 ^ 32 * (n % d)) ∧
  (∀ n, n < 2 ^ 32 → (fun x => divStep x 0)^[32] n = 0xFFFFFFFF + 2 ^ 32 * n)

/-- A result is written at the active lanes, whole, and every other bit of the registers stays (R83): vector cells of an inactive lane and of other registers, predicate bits outside the active lanes, the half that `.lo` or `.hi` does not name. A scalar is written whichever lanes are active. -/
def Obligations.results_reach_the_active_lanes : Prop :=
  (∀ (g : Machine.Group) k r n (m : Mask) f rs, r + n ≤ 224 →
    (let x := g.landed k false (vecWrites r n (lanesOf m) f) rs
     (∀ l j, l < 32 → j < n → Cells.get 0 x.v (32 * (r + j) + l) = if m.getLsbD l then BitVec.ofNat 32 (f l / 2 ^ (32 * j)) else Cells.get 0 g.v (32 * (r + j) + l)) ∧
     (∀ y l, l < 32 → y < r ∨ r + n ≤ y → Cells.get 0 x.v (32 * y + l) = Cells.get 0 g.v (32 * y + l)) ∧ x.s = g.s ∧ x.p = g.p ∧ x.rsCtr = g.rsCtr + BitVec.ofNat 64 rs)) ∧
  (∀ (g : Machine.Group) k n (m v : Mask) rs, n < g.p.length →
    (let x := g.landed k false (predWrite n m v) rs
     x.v = g.v ∧ x.s = g.s ∧ (x.p.getD n 0) = (g.p.getD n 0 &&& ~~~m) ||| (v &&& m) ∧ ∀ j, j ≠ n → x.p[j]? = g.p[j]?)) ∧
  (∀ (g : Machine.Group) k n v rs, n < g.s.length →
    (let x := g.landed k false (scaWrite n v) rs
     x.v = g.v ∧ x.p = g.p ∧ x.s[n]? = some (BitVec.ofNat 64 v) ∧ ∀ j, j ≠ n → x.s[j]? = g.s[j]?)) ∧
  (∀ (t : Ty) old f, t.is16 = true → old < 2 ^ 32 → (∀ e, f e < 2 ^ 16) →
    mergeElems t .full old f = f 0 + 2 ^ 16 * f 1 ∧ mergeElems t .lo old f = f 0 + 2 ^ 16 * (old / 2 ^ 16) ∧ mergeElems t .hi old f = old % 2 ^ 16 + 2 ^ 16 * f 1) ∧
  (∀ (g : Machine.Group) m p neg l, l < 32 → (guardLanes g m none).getLsbD l = m.getLsbD l ∧ (guardLanes g m (some { p, neg })).getLsbD l = (m.getLsbD l && ((g.pred p.val).getLsbD l != neg)))

/-- A trap whose job has a handler and a ring it can write its record into stops the group: its record is written, the group waits on its own drawer with count 1 and wait kind 7, its registers and its place stay, and a handler team of the job is there (R361, R365). A trap of a job without a handler, and every fault of class FATAL, halt the group, whose registers stay, and the team's dump joins its job's queue (R361, R368, R375). A group that has halted takes none. A trap record has 64 bytes, and each field of R364 at its place. -/
def Obligations.exceptions_are_taken : Prop :=
  (∀ P d gid site e g j t d1 n,
    Tbl.find d.groups gid = some g → g.id = gid → g.state = .live → g.savedDrawer = none → e.code.isTrap = true → d.job g.job = some j → j.number = g.job → j.handler ≠ 0 → Tbl.find d.teams g.team = some t → t.handler = false →
    writeTrap P d g.job (fun k => trapBytes e.code.num 0 site.split (1 + site.index) (e.lane.getD 0xFF) k site.lanes.toNat g.index t.index (locOf P g).toNat g.name.toNat (handleOf g.core g.block (drawerOf d g).gen).toNat site.pc.toNat e.info.toNat (2 ^ 64 - 1)) = some (d1, n) →
    (let u := takeException P d gid site e
     u.mem = d1.mem ∧ regsOf u gid = some g.regs ∧ waitIn u gid = some (.trap { site, exc := e, idx := 1 + site.index, clauseCheck := false, ring := none }) ∧
     (Tbl.find u.groups gid).map (fun x => (x.state, x.splits.map fun y => (y.1, y.2.pc, y.2.index))) = some (.waiting, g.splits.map fun y => (y.1, y.2.pc, y.2.index)) ∧
     ((u.drawer g.core g.block).count, (u.drawer g.core g.block).waitKind) = (1, 7) ∧
     (Tbl.vals u.teams).any (fun x => x.job == g.job && x.handler) = true)) ∧
  ((∀ P d gid site e g t, Tbl.find d.groups gid = some g → g.state ≠ .halted → Tbl.find d.teams g.team = some t → (e.code.isTrap = true → (d.job g.job).map (·.handler) = some 0) → (d.job g.job).isSome = true → t.handler = false →
    (Tbl.find (takeException P d gid site e).groups gid).map (·.state) = some .halted ∧ regsOf (takeException P d gid site e) gid = some g.regs ∧
      ∀ j, d.job t.job = some j → ((takeException P d gid site e).job t.job).map (·.dumps) = some (if j.dumps.contains t.id then j.dumps else j.dumps ++ [t.id])) ∧
  (∀ P d gid site e g, Tbl.find d.groups gid = some g → g.state = .halted → takeException P d gid site e = d)) ∧
  (∀ code kind split index lane seq lanes group team loc name handle pc info dump : Nat,
    (let r := trapBytes code kind split index lane seq lanes group team loc name handle pc info dump
     r.length = 64 ∧ field r 0 1 = code % 2 ^ 8 ∧ field r 1 7 = 0 ∧ field r 8 1 = kind % 2 ^ 8 ∧ field r 9 1 = split % 2 ^ 8 ∧ field r 10 1 = index % 2 ^ 8 ∧ field r 11 1 = lane % 2 ^ 8 ∧
     field r 12 4 = seq % 2 ^ 32 ∧ field r 16 4 = lanes % 2 ^ 32 ∧ field r 20 4 = group % 2 ^ 32 ∧ field r 24 4 = team % 2 ^ 32 ∧ field r 28 4 = loc % 2 ^ 32 ∧ field r 32 4 = name % 2 ^ 32 ∧
     field r 36 4 = handle % 2 ^ 32 ∧ field r 40 8 = pc % 2 ^ 64 ∧ field r 48 8 = info % 2 ^ 64 ∧ field r 56 8 = dump % 2 ^ 64))

/-- The lowest lane of a load or store that fails a check of R237 decides its fault, with its address: among the active lanes in ascending order, the first that the address check, the alignment check, the window bound, the translation or the page's attributes stop, where every lane before it passes; the instruction has no effect but the exception. A lane whose page is not mapped sends its miss, and the instruction has no other effect (R45, R237, R372). A write of a read-only control register (R335), `bar` and `arrive.n` of a group with more than one live split (R271), an instruction on a tile that is not reserved (R296) and `step.rd` of a selector above 513 (R327) raise their exceptions. That `bar.wait` is a barrier that R271 means, and `arrive.n.nw` with it, is the model's reading (notes/assumptions/42.md). -/
def Obligations.exceptions_are_raised : Prop :=
  (let raised (i : Instr) (s : Machine.State) (c : Ctx) (e : Exc) : Prop := exec i s = .next { s with dev := takeException s.plat s.dev c.gid c.site e }
   let reached (c : Ctx) (acc : Access) (n : Nat) (va : DWord) (x : Xl) : Prop := va.toNat < 2 ^ 48 ∧ va.toNat % n = 0 ∧ xlat c.d c.g acc va = x
   let passes (c : Ctx) (acc : Access) (n : Nat) (own : Leaf → Bool) (va : DWord) : Prop := ∃ l pa, reached c acc n va (.ok l pa) ∧ own l = true
   let fails (c : Ctx) (acc : Access) (n : Nat) (own : Leaf → Bool) (va : DWord) (e : ExcCode) : Prop :=
     (2 ^ 48 ≤ va.toNat ∧ e = .address) ∨ (va.toNat < 2 ^ 48 ∧ va.toNat % n ≠ 0 ∧ e = .alignment) ∨ reached c acc n va (.fault e) ∨ (e = .pageAttribute ∧ ∃ l pa, reached c acc n va (.ok l pa) ∧ own l = false)
   let decides (i : Instr) (s : Machine.State) (c : Ctx) (ls : List Nat) (acc : Access) (n : Nat) (own : Leaf → Bool) (ea : Nat → DWord) : Prop := ∀ pre l post, ls = pre ++ l :: post → (∀ k ∈ pre, passes c acc n own (ea k)) →
     (∀ e, fails c acc n own (ea l) e → raised i s c { code := e, lane := some l, info := ea l }) ∧
     (reached c acc n (ea l) .miss → exec i s = .next { s with dev := markStall (sendMiss s.dev c.g c.site (1 + c.site.index) (some l) (ea l) acc) c.gid c.k .other })
   let bounded (i : Instr) (s : Machine.State) (c : Ctx) (n : Nat) (o : Nat → Nat) : Prop := ∀ pre l post, lanesOf c.lanes = pre ++ l :: post → (∀ k ∈ pre, o k % n = 0 ∧ o k < c.team.windowSize) →
     (o l % n ≠ 0 → raised i s c { code := .alignment, lane := some l, info := BitVec.ofNat 64 (o l) }) ∧ (o l % n = 0 → c.team.windowSize ≤ o l → raised i s c { code := .windowBound, lane := some l, info := BitVec.ofNat 64 (o l) })
   (∀ f s c, ready (.ld f) f.g s = some c → c.lanes ≠ 0 → decides (.ld f) s c (match f.d with | .v _ => lanesOf c.lanes | .s _ => (lanesOf c.lanes).take 1) .load f.size.bytes (fun _ => true) (globalEa c.g c.sp f.a.reg f.off)) ∧
   (∀ f s c, ready (.st f) f.g s = some c → c.lanes ≠ 0 → decides (.st f) s c (lanesOf c.lanes) .store f.size.bytes (fun l => !l.ver) (globalEa c.g c.sp f.a.reg f.off)) ∧
   (∀ f s c, ready (.stVer f) f.g s = some c → c.lanes ≠ 0 → decides (.stVer f) s c (lanesOf c.lanes) .store f.size.bytes (fun l => l.ver) (globalEa c.g c.sp f.a.reg f.off)) ∧
   (∀ f s c, ready (.ldSp f) f.g s = some c → c.lanes ≠ 0 → bounded (.ldSp f) s c f.size.bytes (windowEa c.g c.sp f.a.reg f.off)) ∧
   (∀ f s c, ready (.stSp f) f.g s = some c → c.lanes ≠ 0 → bounded (.stSp f) s c f.size.bytes (windowEa c.g c.sp f.a.reg f.off)) ∧
   (∀ n r s c, ready (.sysWr n r) none s = some c → ctlKind n.toNat = some .ro32 ∨ ctlKind n.toNat = some .ro64 → raised (.sysWr n r) s c (Exc.of .readOnlyControl)) ∧
   (∀ g t s c, ready (.accZero g t) g s = some c → ownsTile c t = false → raised (.accZero g t) s c (Exc.of .unreservedTile)) ∧
   (∀ f s c, ready (.mma f) f.g s = some c → ownsTile c f.tile = false → raised (.mma f) s c (Exc.of .unreservedTile)) ∧
   (∀ r p s c, ready (.stepRd r p) none s = some c → 514 ≤ slVal c.g c.sp p → raised (.stepRd r p) s c (Exc.of .peerRange)) ∧
   (∀ i s c, (i = .bar ∨ i = .barWait ∨ ∃ n, i = .arriveN n ∨ i = .arriveNNw n) → ready i none s = some c → 1 < (liveSplits c.g).length → raised i s c (Exc.of .divergentBarrier)))
end

