-- ==== Sys2Proof/Laws/State.lean ====
section
/-! SUPPORT. Each update of the device, field by field: what it leaves as it was. -/

namespace Sys2Proof.Machine
open Sys2Proof

/-! `modCore`. -/

@[simp] theorem modCore_clock (d : Device) (k : Nat) (f : Core → Core) : (d.modCore k f).clock = d.clock := rfl
@[simp] theorem modCore_time (d : Device) (k : Nat) (f : Core → Core) : (d.modCore k f).time = d.time := rfl
@[simp] theorem modCore_nextId (d : Device) (k : Nat) (f : Core → Core) : (d.modCore k f).nextId = d.nextId := rfl
@[simp] theorem modCore_seed (d : Device) (k : Nat) (f : Core → Core) : (d.modCore k f).seed = d.seed := rfl
@[simp] theorem modCore_mem (d : Device) (k : Nat) (f : Core → Core) : (d.modCore k f).mem = d.mem := rfl
@[simp] theorem modCore_poison (d : Device) (k : Nat) (f : Core → Core) : (d.modCore k f).poison = d.poison := rfl
@[simp] theorem modCore_badStacks (d : Device) (k : Nat) (f : Core → Core) : (d.modCore k f).badStacks = d.badStacks := rfl
@[simp] theorem modCore_dies (d : Device) (k : Nat) (f : Core → Core) : (d.modCore k f).dies = d.dies := rfl
@[simp] theorem modCore_lineClock (d : Device) (k : Nat) (f : Core → Core) : (d.modCore k f).lineClock = d.lineClock := rfl
@[simp] theorem modCore_clusters (d : Device) (k : Nat) (f : Core → Core) : (d.modCore k f).clusters = d.clusters := rfl
@[simp] theorem modCore_slices (d : Device) (k : Nat) (f : Core → Core) : (d.modCore k f).slices = d.slices := rfl
@[simp] theorem modCore_homes (d : Device) (k : Nat) (f : Core → Core) : (d.modCore k f).homes = d.homes := rfl
@[simp] theorem modCore_names (d : Device) (k : Nat) (f : Core → Core) : (d.modCore k f).names = d.names := rfl
@[simp] theorem modCore_groups (d : Device) (k : Nat) (f : Core → Core) : (d.modCore k f).groups = d.groups := rfl
@[simp] theorem modCore_teams (d : Device) (k : Nat) (f : Core → Core) : (d.modCore k f).teams = d.teams := rfl
@[simp] theorem modCore_launches (d : Device) (k : Nat) (f : Core → Core) : (d.modCore k f).launches = d.launches := rfl
@[simp] theorem modCore_graphs (d : Device) (k : Nat) (f : Core → Core) : (d.modCore k f).graphs = d.graphs := rfl
@[simp] theorem modCore_phases (d : Device) (k : Nat) (f : Core → Core) : (d.modCore k f).phases = d.phases := rfl
@[simp] theorem modCore_jobs (d : Device) (k : Nat) (f : Core → Core) : (d.modCore k f).jobs = d.jobs := rfl
@[simp] theorem modCore_hutches (d : Device) (k : Nat) (f : Core → Core) : (d.modCore k f).hutches = d.hutches := rfl
@[simp] theorem modCore_coll (d : Device) (k : Nat) (f : Core → Core) : (d.modCore k f).coll = d.coll := rfl
@[simp] theorem modCore_collapses (d : Device) (k : Nat) (f : Core → Core) : (d.modCore k f).collapses = d.collapses := rfl
@[simp] theorem modCore_rsts (d : Device) (k : Nat) (f : Core → Core) : (d.modCore k f).rsts = d.rsts := rfl
@[simp] theorem modCore_peers (d : Device) (k : Nat) (f : Core → Core) : (d.modCore k f).peers = d.peers := rfl
@[simp] theorem modCore_sched (d : Device) (k : Nat) (f : Core → Core) : (d.modCore k f).sched = d.sched := rfl
@[simp] theorem modCore_transfers (d : Device) (k : Nat) (f : Core → Core) : (d.modCore k f).transfers = d.transfers := rfl
@[simp] theorem modCore_monitors (d : Device) (k : Nat) (f : Core → Core) : (d.modCore k f).monitors = d.monitors := rfl
@[simp] theorem modCore_hostOut (d : Device) (k : Nat) (f : Core → Core) : (d.modCore k f).hostOut = d.hostOut := rfl
@[simp] theorem modCore_fabricOut (d : Device) (k : Nat) (f : Core → Core) : (d.modCore k f).fabricOut = d.fabricOut := rfl
@[simp] theorem modCore_served (d : Device) (k : Nat) (f : Core → Core) : (d.modCore k f).served = d.served := rfl
@[simp] theorem modCore_port (d : Device) (k : Nat) (f : Core → Core) : (d.modCore k f).port = d.port := rfl

/-! `modCluster`. -/

@[simp] theorem modCluster_clock (d : Device) (k : Nat) (f : Cluster → Cluster) : (d.modCluster k f).clock = d.clock := rfl
@[simp] theorem modCluster_time (d : Device) (k : Nat) (f : Cluster → Cluster) : (d.modCluster k f).time = d.time := rfl
@[simp] theorem modCluster_nextId (d : Device) (k : Nat) (f : Cluster → Cluster) : (d.modCluster k f).nextId = d.nextId := rfl
@[simp] theorem modCluster_seed (d : Device) (k : Nat) (f : Cluster → Cluster) : (d.modCluster k f).seed = d.seed := rfl
@[simp] theorem modCluster_mem (d : Device) (k : Nat) (f : Cluster → Cluster) : (d.modCluster k f).mem = d.mem := rfl
@[simp] theorem modCluster_poison (d : Device) (k : Nat) (f : Cluster → Cluster) : (d.modCluster k f).poison = d.poison := rfl
@[simp] theorem modCluster_badStacks (d : Device) (k : Nat) (f : Cluster → Cluster) : (d.modCluster k f).badStacks = d.badStacks := rfl
@[simp] theorem modCluster_dies (d : Device) (k : Nat) (f : Cluster → Cluster) : (d.modCluster k f).dies = d.dies := rfl
@[simp] theorem modCluster_lineClock (d : Device) (k : Nat) (f : Cluster → Cluster) : (d.modCluster k f).lineClock = d.lineClock := rfl
@[simp] theorem modCluster_cores (d : Device) (k : Nat) (f : Cluster → Cluster) : (d.modCluster k f).cores = d.cores := rfl
@[simp] theorem modCluster_slices (d : Device) (k : Nat) (f : Cluster → Cluster) : (d.modCluster k f).slices = d.slices := rfl
@[simp] theorem modCluster_homes (d : Device) (k : Nat) (f : Cluster → Cluster) : (d.modCluster k f).homes = d.homes := rfl
@[simp] theorem modCluster_names (d : Device) (k : Nat) (f : Cluster → Cluster) : (d.modCluster k f).names = d.names := rfl
@[simp] theorem modCluster_groups (d : Device) (k : Nat) (f : Cluster → Cluster) : (d.modCluster k f).groups = d.groups := rfl
@[simp] theorem modCluster_teams (d : Device) (k : Nat) (f : Cluster → Cluster) : (d.modCluster k f).teams = d.teams := rfl
@[simp] theorem modCluster_launches (d : Device) (k : Nat) (f : Cluster → Cluster) : (d.modCluster k f).launches = d.launches := rfl
@[simp] theorem modCluster_graphs (d : Device) (k : Nat) (f : Cluster → Cluster) : (d.modCluster k f).graphs = d.graphs := rfl
@[simp] theorem modCluster_phases (d : Device) (k : Nat) (f : Cluster → Cluster) : (d.modCluster k f).phases = d.phases := rfl
@[simp] theorem modCluster_jobs (d : Device) (k : Nat) (f : Cluster → Cluster) : (d.modCluster k f).jobs = d.jobs := rfl
@[simp] theorem modCluster_hutches (d : Device) (k : Nat) (f : Cluster → Cluster) : (d.modCluster k f).hutches = d.hutches := rfl
@[simp] theorem modCluster_coll (d : Device) (k : Nat) (f : Cluster → Cluster) : (d.modCluster k f).coll = d.coll := rfl
@[simp] theorem modCluster_collapses (d : Device) (k : Nat) (f : Cluster → Cluster) : (d.modCluster k f).collapses = d.collapses := rfl
@[simp] theorem modCluster_rsts (d : Device) (k : Nat) (f : Cluster → Cluster) : (d.modCluster k f).rsts = d.rsts := rfl
@[simp] theorem modCluster_peers (d : Device) (k : Nat) (f : Cluster → Cluster) : (d.modCluster k f).peers = d.peers := rfl
@[simp] theorem modCluster_sched (d : Device) (k : Nat) (f : Cluster → Cluster) : (d.modCluster k f).sched = d.sched := rfl
@[simp] theorem modCluster_transfers (d : Device) (k : Nat) (f : Cluster → Cluster) : (d.modCluster k f).transfers = d.transfers := rfl
@[simp] theorem modCluster_monitors (d : Device) (k : Nat) (f : Cluster → Cluster) : (d.modCluster k f).monitors = d.monitors := rfl
@[simp] theorem modCluster_hostOut (d : Device) (k : Nat) (f : Cluster → Cluster) : (d.modCluster k f).hostOut = d.hostOut := rfl
@[simp] theorem modCluster_fabricOut (d : Device) (k : Nat) (f : Cluster → Cluster) : (d.modCluster k f).fabricOut = d.fabricOut := rfl
@[simp] theorem modCluster_served (d : Device) (k : Nat) (f : Cluster → Cluster) : (d.modCluster k f).served = d.served := rfl
@[simp] theorem modCluster_port (d : Device) (k : Nat) (f : Cluster → Cluster) : (d.modCluster k f).port = d.port := rfl

/-! `modSlice`. -/

@[simp] theorem modSlice_clock (d : Device) (k : Nat) (f : Slice → Slice) : (d.modSlice k f).clock = d.clock := rfl
@[simp] theorem modSlice_time (d : Device) (k : Nat) (f : Slice → Slice) : (d.modSlice k f).time = d.time := rfl
@[simp] theorem modSlice_nextId (d : Device) (k : Nat) (f : Slice → Slice) : (d.modSlice k f).nextId = d.nextId := rfl
@[simp] theorem modSlice_seed (d : Device) (k : Nat) (f : Slice → Slice) : (d.modSlice k f).seed = d.seed := rfl
@[simp] theorem modSlice_mem (d : Device) (k : Nat) (f : Slice → Slice) : (d.modSlice k f).mem = d.mem := rfl
@[simp] theorem modSlice_poison (d : Device) (k : Nat) (f : Slice → Slice) : (d.modSlice k f).poison = d.poison := rfl
@[simp] theorem modSlice_badStacks (d : Device) (k : Nat) (f : Slice → Slice) : (d.modSlice k f).badStacks = d.badStacks := rfl
@[simp] theorem modSlice_dies (d : Device) (k : Nat) (f : Slice → Slice) : (d.modSlice k f).dies = d.dies := rfl
@[simp] theorem modSlice_lineClock (d : Device) (k : Nat) (f : Slice → Slice) : (d.modSlice k f).lineClock = d.lineClock := rfl
@[simp] theorem modSlice_cores (d : Device) (k : Nat) (f : Slice → Slice) : (d.modSlice k f).cores = d.cores := rfl
@[simp] theorem modSlice_clusters (d : Device) (k : Nat) (f : Slice → Slice) : (d.modSlice k f).clusters = d.clusters := rfl
@[simp] theorem modSlice_homes (d : Device) (k : Nat) (f : Slice → Slice) : (d.modSlice k f).homes = d.homes := rfl
@[simp] theorem modSlice_names (d : Device) (k : Nat) (f : Slice → Slice) : (d.modSlice k f).names = d.names := rfl
@[simp] theorem modSlice_groups (d : Device) (k : Nat) (f : Slice → Slice) : (d.modSlice k f).groups = d.groups := rfl
@[simp] theorem modSlice_teams (d : Device) (k : Nat) (f : Slice → Slice) : (d.modSlice k f).teams = d.teams := rfl
@[simp] theorem modSlice_launches (d : Device) (k : Nat) (f : Slice → Slice) : (d.modSlice k f).launches = d.launches := rfl
@[simp] theorem modSlice_graphs (d : Device) (k : Nat) (f : Slice → Slice) : (d.modSlice k f).graphs = d.graphs := rfl
@[simp] theorem modSlice_phases (d : Device) (k : Nat) (f : Slice → Slice) : (d.modSlice k f).phases = d.phases := rfl
@[simp] theorem modSlice_jobs (d : Device) (k : Nat) (f : Slice → Slice) : (d.modSlice k f).jobs = d.jobs := rfl
@[simp] theorem modSlice_hutches (d : Device) (k : Nat) (f : Slice → Slice) : (d.modSlice k f).hutches = d.hutches := rfl
@[simp] theorem modSlice_coll (d : Device) (k : Nat) (f : Slice → Slice) : (d.modSlice k f).coll = d.coll := rfl
@[simp] theorem modSlice_collapses (d : Device) (k : Nat) (f : Slice → Slice) : (d.modSlice k f).collapses = d.collapses := rfl
@[simp] theorem modSlice_rsts (d : Device) (k : Nat) (f : Slice → Slice) : (d.modSlice k f).rsts = d.rsts := rfl
@[simp] theorem modSlice_peers (d : Device) (k : Nat) (f : Slice → Slice) : (d.modSlice k f).peers = d.peers := rfl
@[simp] theorem modSlice_sched (d : Device) (k : Nat) (f : Slice → Slice) : (d.modSlice k f).sched = d.sched := rfl
@[simp] theorem modSlice_transfers (d : Device) (k : Nat) (f : Slice → Slice) : (d.modSlice k f).transfers = d.transfers := rfl
@[simp] theorem modSlice_monitors (d : Device) (k : Nat) (f : Slice → Slice) : (d.modSlice k f).monitors = d.monitors := rfl
@[simp] theorem modSlice_hostOut (d : Device) (k : Nat) (f : Slice → Slice) : (d.modSlice k f).hostOut = d.hostOut := rfl
@[simp] theorem modSlice_fabricOut (d : Device) (k : Nat) (f : Slice → Slice) : (d.modSlice k f).fabricOut = d.fabricOut := rfl
@[simp] theorem modSlice_served (d : Device) (k : Nat) (f : Slice → Slice) : (d.modSlice k f).served = d.served := rfl
@[simp] theorem modSlice_port (d : Device) (k : Nat) (f : Slice → Slice) : (d.modSlice k f).port = d.port := rfl

/-! `modDie`. -/

@[simp] theorem modDie_clock (d : Device) (k : Nat) (f : Die → Die) : (d.modDie k f).clock = d.clock := rfl
@[simp] theorem modDie_time (d : Device) (k : Nat) (f : Die → Die) : (d.modDie k f).time = d.time := rfl
@[simp] theorem modDie_nextId (d : Device) (k : Nat) (f : Die → Die) : (d.modDie k f).nextId = d.nextId := rfl
@[simp] theorem modDie_seed (d : Device) (k : Nat) (f : Die → Die) : (d.modDie k f).seed = d.seed := rfl
@[simp] theorem modDie_mem (d : Device) (k : Nat) (f : Die → Die) : (d.modDie k f).mem = d.mem := rfl
@[simp] theorem modDie_poison (d : Device) (k : Nat) (f : Die → Die) : (d.modDie k f).poison = d.poison := rfl
@[simp] theorem modDie_badStacks (d : Device) (k : Nat) (f : Die → Die) : (d.modDie k f).badStacks = d.badStacks := rfl
@[simp] theorem modDie_lineClock (d : Device) (k : Nat) (f : Die → Die) : (d.modDie k f).lineClock = d.lineClock := rfl
@[simp] theorem modDie_cores (d : Device) (k : Nat) (f : Die → Die) : (d.modDie k f).cores = d.cores := rfl
@[simp] theorem modDie_clusters (d : Device) (k : Nat) (f : Die → Die) : (d.modDie k f).clusters = d.clusters := rfl
@[simp] theorem modDie_slices (d : Device) (k : Nat) (f : Die → Die) : (d.modDie k f).slices = d.slices := rfl
@[simp] theorem modDie_homes (d : Device) (k : Nat) (f : Die → Die) : (d.modDie k f).homes = d.homes := rfl
@[simp] theorem modDie_names (d : Device) (k : Nat) (f : Die → Die) : (d.modDie k f).names = d.names := rfl
@[simp] theorem modDie_groups (d : Device) (k : Nat) (f : Die → Die) : (d.modDie k f).groups = d.groups := rfl
@[simp] theorem modDie_teams (d : Device) (k : Nat) (f : Die → Die) : (d.modDie k f).teams = d.teams := rfl
@[simp] theorem modDie_launches (d : Device) (k : Nat) (f : Die → Die) : (d.modDie k f).launches = d.launches := rfl
@[simp] theorem modDie_graphs (d : Device) (k : Nat) (f : Die → Die) : (d.modDie k f).graphs = d.graphs := rfl
@[simp] theorem modDie_phases (d : Device) (k : Nat) (f : Die → Die) : (d.modDie k f).phases = d.phases := rfl
@[simp] theorem modDie_jobs (d : Device) (k : Nat) (f : Die → Die) : (d.modDie k f).jobs = d.jobs := rfl
@[simp] theorem modDie_hutches (d : Device) (k : Nat) (f : Die → Die) : (d.modDie k f).hutches = d.hutches := rfl
@[simp] theorem modDie_coll (d : Device) (k : Nat) (f : Die → Die) : (d.modDie k f).coll = d.coll := rfl
@[simp] theorem modDie_collapses (d : Device) (k : Nat) (f : Die → Die) : (d.modDie k f).collapses = d.collapses := rfl
@[simp] theorem modDie_rsts (d : Device) (k : Nat) (f : Die → Die) : (d.modDie k f).rsts = d.rsts := rfl
@[simp] theorem modDie_peers (d : Device) (k : Nat) (f : Die → Die) : (d.modDie k f).peers = d.peers := rfl
@[simp] theorem modDie_sched (d : Device) (k : Nat) (f : Die → Die) : (d.modDie k f).sched = d.sched := rfl
@[simp] theorem modDie_transfers (d : Device) (k : Nat) (f : Die → Die) : (d.modDie k f).transfers = d.transfers := rfl
@[simp] theorem modDie_monitors (d : Device) (k : Nat) (f : Die → Die) : (d.modDie k f).monitors = d.monitors := rfl
@[simp] theorem modDie_hostOut (d : Device) (k : Nat) (f : Die → Die) : (d.modDie k f).hostOut = d.hostOut := rfl
@[simp] theorem modDie_fabricOut (d : Device) (k : Nat) (f : Die → Die) : (d.modDie k f).fabricOut = d.fabricOut := rfl
@[simp] theorem modDie_served (d : Device) (k : Nat) (f : Die → Die) : (d.modDie k f).served = d.served := rfl
@[simp] theorem modDie_port (d : Device) (k : Nat) (f : Die → Die) : (d.modDie k f).port = d.port := rfl

/-! `modGroup`. -/

@[simp] theorem modGroup_clock (d : Device) (k : Nat) (f : Group → Group) : (d.modGroup k f).clock = d.clock := rfl
@[simp] theorem modGroup_time (d : Device) (k : Nat) (f : Group → Group) : (d.modGroup k f).time = d.time := rfl
@[simp] theorem modGroup_nextId (d : Device) (k : Nat) (f : Group → Group) : (d.modGroup k f).nextId = d.nextId := rfl
@[simp] theorem modGroup_seed (d : Device) (k : Nat) (f : Group → Group) : (d.modGroup k f).seed = d.seed := rfl
@[simp] theorem modGroup_mem (d : Device) (k : Nat) (f : Group → Group) : (d.modGroup k f).mem = d.mem := rfl
@[simp] theorem modGroup_poison (d : Device) (k : Nat) (f : Group → Group) : (d.modGroup k f).poison = d.poison := rfl
@[simp] theorem modGroup_badStacks (d : Device) (k : Nat) (f : Group → Group) : (d.modGroup k f).badStacks = d.badStacks := rfl
@[simp] theorem modGroup_dies (d : Device) (k : Nat) (f : Group → Group) : (d.modGroup k f).dies = d.dies := rfl
@[simp] theorem modGroup_lineClock (d : Device) (k : Nat) (f : Group → Group) : (d.modGroup k f).lineClock = d.lineClock := rfl
@[simp] theorem modGroup_cores (d : Device) (k : Nat) (f : Group → Group) : (d.modGroup k f).cores = d.cores := rfl
@[simp] theorem modGroup_clusters (d : Device) (k : Nat) (f : Group → Group) : (d.modGroup k f).clusters = d.clusters := rfl
@[simp] theorem modGroup_slices (d : Device) (k : Nat) (f : Group → Group) : (d.modGroup k f).slices = d.slices := rfl
@[simp] theorem modGroup_homes (d : Device) (k : Nat) (f : Group → Group) : (d.modGroup k f).homes = d.homes := rfl
@[simp] theorem modGroup_names (d : Device) (k : Nat) (f : Group → Group) : (d.modGroup k f).names = d.names := rfl
@[simp] theorem modGroup_teams (d : Device) (k : Nat) (f : Group → Group) : (d.modGroup k f).teams = d.teams := rfl
@[simp] theorem modGroup_launches (d : Device) (k : Nat) (f : Group → Group) : (d.modGroup k f).launches = d.launches := rfl
@[simp] theorem modGroup_graphs (d : Device) (k : Nat) (f : Group → Group) : (d.modGroup k f).graphs = d.graphs := rfl
@[simp] theorem modGroup_phases (d : Device) (k : Nat) (f : Group → Group) : (d.modGroup k f).phases = d.phases := rfl
@[simp] theorem modGroup_jobs (d : Device) (k : Nat) (f : Group → Group) : (d.modGroup k f).jobs = d.jobs := rfl
@[simp] theorem modGroup_hutches (d : Device) (k : Nat) (f : Group → Group) : (d.modGroup k f).hutches = d.hutches := rfl
@[simp] theorem modGroup_coll (d : Device) (k : Nat) (f : Group → Group) : (d.modGroup k f).coll = d.coll := rfl
@[simp] theorem modGroup_collapses (d : Device) (k : Nat) (f : Group → Group) : (d.modGroup k f).collapses = d.collapses := rfl
@[simp] theorem modGroup_rsts (d : Device) (k : Nat) (f : Group → Group) : (d.modGroup k f).rsts = d.rsts := rfl
@[simp] theorem modGroup_peers (d : Device) (k : Nat) (f : Group → Group) : (d.modGroup k f).peers = d.peers := rfl
@[simp] theorem modGroup_sched (d : Device) (k : Nat) (f : Group → Group) : (d.modGroup k f).sched = d.sched := rfl
@[simp] theorem modGroup_transfers (d : Device) (k : Nat) (f : Group → Group) : (d.modGroup k f).transfers = d.transfers := rfl
@[simp] theorem modGroup_monitors (d : Device) (k : Nat) (f : Group → Group) : (d.modGroup k f).monitors = d.monitors := rfl
@[simp] theorem modGroup_hostOut (d : Device) (k : Nat) (f : Group → Group) : (d.modGroup k f).hostOut = d.hostOut := rfl
@[simp] theorem modGroup_fabricOut (d : Device) (k : Nat) (f : Group → Group) : (d.modGroup k f).fabricOut = d.fabricOut := rfl
@[simp] theorem modGroup_served (d : Device) (k : Nat) (f : Group → Group) : (d.modGroup k f).served = d.served := rfl
@[simp] theorem modGroup_port (d : Device) (k : Nat) (f : Group → Group) : (d.modGroup k f).port = d.port := rfl

/-! `modTeam`. -/

@[simp] theorem modTeam_clock (d : Device) (k : Nat) (f : Team → Team) : (d.modTeam k f).clock = d.clock := rfl
@[simp] theorem modTeam_time (d : Device) (k : Nat) (f : Team → Team) : (d.modTeam k f).time = d.time := rfl
@[simp] theorem modTeam_nextId (d : Device) (k : Nat) (f : Team → Team) : (d.modTeam k f).nextId = d.nextId := rfl
@[simp] theorem modTeam_seed (d : Device) (k : Nat) (f : Team → Team) : (d.modTeam k f).seed = d.seed := rfl
@[simp] theorem modTeam_mem (d : Device) (k : Nat) (f : Team → Team) : (d.modTeam k f).mem = d.mem := rfl
@[simp] theorem modTeam_poison (d : Device) (k : Nat) (f : Team → Team) : (d.modTeam k f).poison = d.poison := rfl
@[simp] theorem modTeam_badStacks (d : Device) (k : Nat) (f : Team → Team) : (d.modTeam k f).badStacks = d.badStacks := rfl
@[simp] theorem modTeam_dies (d : Device) (k : Nat) (f : Team → Team) : (d.modTeam k f).dies = d.dies := rfl
@[simp] theorem modTeam_lineClock (d : Device) (k : Nat) (f : Team → Team) : (d.modTeam k f).lineClock = d.lineClock := rfl
@[simp] theorem modTeam_cores (d : Device) (k : Nat) (f : Team → Team) : (d.modTeam k f).cores = d.cores := rfl
@[simp] theorem modTeam_clusters (d : Device) (k : Nat) (f : Team → Team) : (d.modTeam k f).clusters = d.clusters := rfl
@[simp] theorem modTeam_slices (d : Device) (k : Nat) (f : Team → Team) : (d.modTeam k f).slices = d.slices := rfl
@[simp] theorem modTeam_homes (d : Device) (k : Nat) (f : Team → Team) : (d.modTeam k f).homes = d.homes := rfl
@[simp] theorem modTeam_names (d : Device) (k : Nat) (f : Team → Team) : (d.modTeam k f).names = d.names := rfl
@[simp] theorem modTeam_groups (d : Device) (k : Nat) (f : Team → Team) : (d.modTeam k f).groups = d.groups := rfl
@[simp] theorem modTeam_launches (d : Device) (k : Nat) (f : Team → Team) : (d.modTeam k f).launches = d.launches := rfl
@[simp] theorem modTeam_graphs (d : Device) (k : Nat) (f : Team → Team) : (d.modTeam k f).graphs = d.graphs := rfl
@[simp] theorem modTeam_phases (d : Device) (k : Nat) (f : Team → Team) : (d.modTeam k f).phases = d.phases := rfl
@[simp] theorem modTeam_jobs (d : Device) (k : Nat) (f : Team → Team) : (d.modTeam k f).jobs = d.jobs := rfl
@[simp] theorem modTeam_hutches (d : Device) (k : Nat) (f : Team → Team) : (d.modTeam k f).hutches = d.hutches := rfl
@[simp] theorem modTeam_coll (d : Device) (k : Nat) (f : Team → Team) : (d.modTeam k f).coll = d.coll := rfl
@[simp] theorem modTeam_collapses (d : Device) (k : Nat) (f : Team → Team) : (d.modTeam k f).collapses = d.collapses := rfl
@[simp] theorem modTeam_rsts (d : Device) (k : Nat) (f : Team → Team) : (d.modTeam k f).rsts = d.rsts := rfl
@[simp] theorem modTeam_peers (d : Device) (k : Nat) (f : Team → Team) : (d.modTeam k f).peers = d.peers := rfl
@[simp] theorem modTeam_sched (d : Device) (k : Nat) (f : Team → Team) : (d.modTeam k f).sched = d.sched := rfl
@[simp] theorem modTeam_transfers (d : Device) (k : Nat) (f : Team → Team) : (d.modTeam k f).transfers = d.transfers := rfl
@[simp] theorem modTeam_monitors (d : Device) (k : Nat) (f : Team → Team) : (d.modTeam k f).monitors = d.monitors := rfl
@[simp] theorem modTeam_hostOut (d : Device) (k : Nat) (f : Team → Team) : (d.modTeam k f).hostOut = d.hostOut := rfl
@[simp] theorem modTeam_fabricOut (d : Device) (k : Nat) (f : Team → Team) : (d.modTeam k f).fabricOut = d.fabricOut := rfl
@[simp] theorem modTeam_served (d : Device) (k : Nat) (f : Team → Team) : (d.modTeam k f).served = d.served := rfl
@[simp] theorem modTeam_port (d : Device) (k : Nat) (f : Team → Team) : (d.modTeam k f).port = d.port := rfl

/-! `modJob`. -/

@[simp] theorem modJob_clock (d : Device) (k : Nat) (f : Job → Job) : (d.modJob k f).clock = d.clock := rfl
@[simp] theorem modJob_time (d : Device) (k : Nat) (f : Job → Job) : (d.modJob k f).time = d.time := rfl
@[simp] theorem modJob_nextId (d : Device) (k : Nat) (f : Job → Job) : (d.modJob k f).nextId = d.nextId := rfl
@[simp] theorem modJob_seed (d : Device) (k : Nat) (f : Job → Job) : (d.modJob k f).seed = d.seed := rfl
@[simp] theorem modJob_mem (d : Device) (k : Nat) (f : Job → Job) : (d.modJob k f).mem = d.mem := rfl
@[simp] theorem modJob_poison (d : Device) (k : Nat) (f : Job → Job) : (d.modJob k f).poison = d.poison := rfl
@[simp] theorem modJob_badStacks (d : Device) (k : Nat) (f : Job → Job) : (d.modJob k f).badStacks = d.badStacks := rfl
@[simp] theorem modJob_dies (d : Device) (k : Nat) (f : Job → Job) : (d.modJob k f).dies = d.dies := rfl
@[simp] theorem modJob_lineClock (d : Device) (k : Nat) (f : Job → Job) : (d.modJob k f).lineClock = d.lineClock := rfl
@[simp] theorem modJob_cores (d : Device) (k : Nat) (f : Job → Job) : (d.modJob k f).cores = d.cores := rfl
@[simp] theorem modJob_clusters (d : Device) (k : Nat) (f : Job → Job) : (d.modJob k f).clusters = d.clusters := rfl
@[simp] theorem modJob_slices (d : Device) (k : Nat) (f : Job → Job) : (d.modJob k f).slices = d.slices := rfl
@[simp] theorem modJob_homes (d : Device) (k : Nat) (f : Job → Job) : (d.modJob k f).homes = d.homes := rfl
@[simp] theorem modJob_names (d : Device) (k : Nat) (f : Job → Job) : (d.modJob k f).names = d.names := rfl
@[simp] theorem modJob_groups (d : Device) (k : Nat) (f : Job → Job) : (d.modJob k f).groups = d.groups := rfl
@[simp] theorem modJob_teams (d : Device) (k : Nat) (f : Job → Job) : (d.modJob k f).teams = d.teams := rfl
@[simp] theorem modJob_launches (d : Device) (k : Nat) (f : Job → Job) : (d.modJob k f).launches = d.launches := rfl
@[simp] theorem modJob_graphs (d : Device) (k : Nat) (f : Job → Job) : (d.modJob k f).graphs = d.graphs := rfl
@[simp] theorem modJob_phases (d : Device) (k : Nat) (f : Job → Job) : (d.modJob k f).phases = d.phases := rfl
@[simp] theorem modJob_hutches (d : Device) (k : Nat) (f : Job → Job) : (d.modJob k f).hutches = d.hutches := rfl
@[simp] theorem modJob_coll (d : Device) (k : Nat) (f : Job → Job) : (d.modJob k f).coll = d.coll := rfl
@[simp] theorem modJob_collapses (d : Device) (k : Nat) (f : Job → Job) : (d.modJob k f).collapses = d.collapses := rfl
@[simp] theorem modJob_rsts (d : Device) (k : Nat) (f : Job → Job) : (d.modJob k f).rsts = d.rsts := rfl
@[simp] theorem modJob_peers (d : Device) (k : Nat) (f : Job → Job) : (d.modJob k f).peers = d.peers := rfl
@[simp] theorem modJob_sched (d : Device) (k : Nat) (f : Job → Job) : (d.modJob k f).sched = d.sched := rfl
@[simp] theorem modJob_transfers (d : Device) (k : Nat) (f : Job → Job) : (d.modJob k f).transfers = d.transfers := rfl
@[simp] theorem modJob_monitors (d : Device) (k : Nat) (f : Job → Job) : (d.modJob k f).monitors = d.monitors := rfl
@[simp] theorem modJob_hostOut (d : Device) (k : Nat) (f : Job → Job) : (d.modJob k f).hostOut = d.hostOut := rfl
@[simp] theorem modJob_fabricOut (d : Device) (k : Nat) (f : Job → Job) : (d.modJob k f).fabricOut = d.fabricOut := rfl
@[simp] theorem modJob_served (d : Device) (k : Nat) (f : Job → Job) : (d.modJob k f).served = d.served := rfl
@[simp] theorem modJob_port (d : Device) (k : Nat) (f : Job → Job) : (d.modJob k f).port = d.port := rfl

/-! `modPeer`. -/

@[simp] theorem modPeer_clock (d : Device) (k : Nat) (f : Peer → Peer) : (d.modPeer k f).clock = d.clock := rfl
@[simp] theorem modPeer_time (d : Device) (k : Nat) (f : Peer → Peer) : (d.modPeer k f).time = d.time := rfl
@[simp] theorem modPeer_nextId (d : Device) (k : Nat) (f : Peer → Peer) : (d.modPeer k f).nextId = d.nextId := rfl
@[simp] theorem modPeer_seed (d : Device) (k : Nat) (f : Peer → Peer) : (d.modPeer k f).seed = d.seed := rfl
@[simp] theorem modPeer_mem (d : Device) (k : Nat) (f : Peer → Peer) : (d.modPeer k f).mem = d.mem := rfl
@[simp] theorem modPeer_poison (d : Device) (k : Nat) (f : Peer → Peer) : (d.modPeer k f).poison = d.poison := rfl
@[simp] theorem modPeer_badStacks (d : Device) (k : Nat) (f : Peer → Peer) : (d.modPeer k f).badStacks = d.badStacks := rfl
@[simp] theorem modPeer_dies (d : Device) (k : Nat) (f : Peer → Peer) : (d.modPeer k f).dies = d.dies := rfl
@[simp] theorem modPeer_lineClock (d : Device) (k : Nat) (f : Peer → Peer) : (d.modPeer k f).lineClock = d.lineClock := rfl
@[simp] theorem modPeer_cores (d : Device) (k : Nat) (f : Peer → Peer) : (d.modPeer k f).cores = d.cores := rfl
@[simp] theorem modPeer_clusters (d : Device) (k : Nat) (f : Peer → Peer) : (d.modPeer k f).clusters = d.clusters := rfl
@[simp] theorem modPeer_slices (d : Device) (k : Nat) (f : Peer → Peer) : (d.modPeer k f).slices = d.slices := rfl
@[simp] theorem modPeer_homes (d : Device) (k : Nat) (f : Peer → Peer) : (d.modPeer k f).homes = d.homes := rfl
@[simp] theorem modPeer_names (d : Device) (k : Nat) (f : Peer → Peer) : (d.modPeer k f).names = d.names := rfl
@[simp] theorem modPeer_groups (d : Device) (k : Nat) (f : Peer → Peer) : (d.modPeer k f).groups = d.groups := rfl
@[simp] theorem modPeer_teams (d : Device) (k : Nat) (f : Peer → Peer) : (d.modPeer k f).teams = d.teams := rfl
@[simp] theorem modPeer_launches (d : Device) (k : Nat) (f : Peer → Peer) : (d.modPeer k f).launches = d.launches := rfl
@[simp] theorem modPeer_graphs (d : Device) (k : Nat) (f : Peer → Peer) : (d.modPeer k f).graphs = d.graphs := rfl
@[simp] theorem modPeer_phases (d : Device) (k : Nat) (f : Peer → Peer) : (d.modPeer k f).phases = d.phases := rfl
@[simp] theorem modPeer_jobs (d : Device) (k : Nat) (f : Peer → Peer) : (d.modPeer k f).jobs = d.jobs := rfl
@[simp] theorem modPeer_hutches (d : Device) (k : Nat) (f : Peer → Peer) : (d.modPeer k f).hutches = d.hutches := rfl
@[simp] theorem modPeer_coll (d : Device) (k : Nat) (f : Peer → Peer) : (d.modPeer k f).coll = d.coll := rfl
@[simp] theorem modPeer_collapses (d : Device) (k : Nat) (f : Peer → Peer) : (d.modPeer k f).collapses = d.collapses := rfl
@[simp] theorem modPeer_rsts (d : Device) (k : Nat) (f : Peer → Peer) : (d.modPeer k f).rsts = d.rsts := rfl
@[simp] theorem modPeer_sched (d : Device) (k : Nat) (f : Peer → Peer) : (d.modPeer k f).sched = d.sched := rfl
@[simp] theorem modPeer_transfers (d : Device) (k : Nat) (f : Peer → Peer) : (d.modPeer k f).transfers = d.transfers := rfl
@[simp] theorem modPeer_monitors (d : Device) (k : Nat) (f : Peer → Peer) : (d.modPeer k f).monitors = d.monitors := rfl
@[simp] theorem modPeer_hostOut (d : Device) (k : Nat) (f : Peer → Peer) : (d.modPeer k f).hostOut = d.hostOut := rfl
@[simp] theorem modPeer_fabricOut (d : Device) (k : Nat) (f : Peer → Peer) : (d.modPeer k f).fabricOut = d.fabricOut := rfl
@[simp] theorem modPeer_served (d : Device) (k : Nat) (f : Peer → Peer) : (d.modPeer k f).served = d.served := rfl
@[simp] theorem modPeer_port (d : Device) (k : Nat) (f : Peer → Peer) : (d.modPeer k f).port = d.port := rfl

/-! `modHome`. -/

@[simp] theorem modHome_clock (d : Device) (k : Nat) (f : Home → Home) : (d.modHome k f).clock = d.clock := rfl
@[simp] theorem modHome_time (d : Device) (k : Nat) (f : Home → Home) : (d.modHome k f).time = d.time := rfl
@[simp] theorem modHome_nextId (d : Device) (k : Nat) (f : Home → Home) : (d.modHome k f).nextId = d.nextId := rfl
@[simp] theorem modHome_seed (d : Device) (k : Nat) (f : Home → Home) : (d.modHome k f).seed = d.seed := rfl
@[simp] theorem modHome_mem (d : Device) (k : Nat) (f : Home → Home) : (d.modHome k f).mem = d.mem := rfl
@[simp] theorem modHome_poison (d : Device) (k : Nat) (f : Home → Home) : (d.modHome k f).poison = d.poison := rfl
@[simp] theorem modHome_badStacks (d : Device) (k : Nat) (f : Home → Home) : (d.modHome k f).badStacks = d.badStacks := rfl
@[simp] theorem modHome_dies (d : Device) (k : Nat) (f : Home → Home) : (d.modHome k f).dies = d.dies := rfl
@[simp] theorem modHome_lineClock (d : Device) (k : Nat) (f : Home → Home) : (d.modHome k f).lineClock = d.lineClock := rfl
@[simp] theorem modHome_cores (d : Device) (k : Nat) (f : Home → Home) : (d.modHome k f).cores = d.cores := rfl
@[simp] theorem modHome_clusters (d : Device) (k : Nat) (f : Home → Home) : (d.modHome k f).clusters = d.clusters := rfl
@[simp] theorem modHome_slices (d : Device) (k : Nat) (f : Home → Home) : (d.modHome k f).slices = d.slices := rfl
@[simp] theorem modHome_names (d : Device) (k : Nat) (f : Home → Home) : (d.modHome k f).names = d.names := rfl
@[simp] theorem modHome_groups (d : Device) (k : Nat) (f : Home → Home) : (d.modHome k f).groups = d.groups := rfl
@[simp] theorem modHome_teams (d : Device) (k : Nat) (f : Home → Home) : (d.modHome k f).teams = d.teams := rfl
@[simp] theorem modHome_launches (d : Device) (k : Nat) (f : Home → Home) : (d.modHome k f).launches = d.launches := rfl
@[simp] theorem modHome_graphs (d : Device) (k : Nat) (f : Home → Home) : (d.modHome k f).graphs = d.graphs := rfl
@[simp] theorem modHome_phases (d : Device) (k : Nat) (f : Home → Home) : (d.modHome k f).phases = d.phases := rfl
@[simp] theorem modHome_jobs (d : Device) (k : Nat) (f : Home → Home) : (d.modHome k f).jobs = d.jobs := rfl
@[simp] theorem modHome_hutches (d : Device) (k : Nat) (f : Home → Home) : (d.modHome k f).hutches = d.hutches := rfl
@[simp] theorem modHome_coll (d : Device) (k : Nat) (f : Home → Home) : (d.modHome k f).coll = d.coll := rfl
@[simp] theorem modHome_collapses (d : Device) (k : Nat) (f : Home → Home) : (d.modHome k f).collapses = d.collapses := rfl
@[simp] theorem modHome_rsts (d : Device) (k : Nat) (f : Home → Home) : (d.modHome k f).rsts = d.rsts := rfl
@[simp] theorem modHome_peers (d : Device) (k : Nat) (f : Home → Home) : (d.modHome k f).peers = d.peers := rfl
@[simp] theorem modHome_sched (d : Device) (k : Nat) (f : Home → Home) : (d.modHome k f).sched = d.sched := rfl
@[simp] theorem modHome_transfers (d : Device) (k : Nat) (f : Home → Home) : (d.modHome k f).transfers = d.transfers := rfl
@[simp] theorem modHome_monitors (d : Device) (k : Nat) (f : Home → Home) : (d.modHome k f).monitors = d.monitors := rfl
@[simp] theorem modHome_hostOut (d : Device) (k : Nat) (f : Home → Home) : (d.modHome k f).hostOut = d.hostOut := rfl
@[simp] theorem modHome_fabricOut (d : Device) (k : Nat) (f : Home → Home) : (d.modHome k f).fabricOut = d.fabricOut := rfl
@[simp] theorem modHome_served (d : Device) (k : Nat) (f : Home → Home) : (d.modHome k f).served = d.served := rfl
@[simp] theorem modHome_port (d : Device) (k : Nat) (f : Home → Home) : (d.modHome k f).port = d.port := rfl

/-! `setDrawer`. -/

@[simp] theorem setDrawer_clock (d : Device) (k i : Nat) (x : Drawer) : (d.setDrawer k i x).clock = d.clock := rfl
@[simp] theorem setDrawer_time (d : Device) (k i : Nat) (x : Drawer) : (d.setDrawer k i x).time = d.time := rfl
@[simp] theorem setDrawer_nextId (d : Device) (k i : Nat) (x : Drawer) : (d.setDrawer k i x).nextId = d.nextId := rfl
@[simp] theorem setDrawer_seed (d : Device) (k i : Nat) (x : Drawer) : (d.setDrawer k i x).seed = d.seed := rfl
@[simp] theorem setDrawer_mem (d : Device) (k i : Nat) (x : Drawer) : (d.setDrawer k i x).mem = d.mem := rfl
@[simp] theorem setDrawer_poison (d : Device) (k i : Nat) (x : Drawer) : (d.setDrawer k i x).poison = d.poison := rfl
@[simp] theorem setDrawer_badStacks (d : Device) (k i : Nat) (x : Drawer) : (d.setDrawer k i x).badStacks = d.badStacks := rfl
@[simp] theorem setDrawer_dies (d : Device) (k i : Nat) (x : Drawer) : (d.setDrawer k i x).dies = d.dies := rfl
@[simp] theorem setDrawer_lineClock (d : Device) (k i : Nat) (x : Drawer) : (d.setDrawer k i x).lineClock = d.lineClock := rfl
@[simp] theorem setDrawer_clusters (d : Device) (k i : Nat) (x : Drawer) : (d.setDrawer k i x).clusters = d.clusters := rfl
@[simp] theorem setDrawer_slices (d : Device) (k i : Nat) (x : Drawer) : (d.setDrawer k i x).slices = d.slices := rfl
@[simp] theorem setDrawer_homes (d : Device) (k i : Nat) (x : Drawer) : (d.setDrawer k i x).homes = d.homes := rfl
@[simp] theorem setDrawer_names (d : Device) (k i : Nat) (x : Drawer) : (d.setDrawer k i x).names = d.names := rfl
@[simp] theorem setDrawer_groups (d : Device) (k i : Nat) (x : Drawer) : (d.setDrawer k i x).groups = d.groups := rfl
@[simp] theorem setDrawer_teams (d : Device) (k i : Nat) (x : Drawer) : (d.setDrawer k i x).teams = d.teams := rfl
@[simp] theorem setDrawer_launches (d : Device) (k i : Nat) (x : Drawer) : (d.setDrawer k i x).launches = d.launches := rfl
@[simp] theorem setDrawer_graphs (d : Device) (k i : Nat) (x : Drawer) : (d.setDrawer k i x).graphs = d.graphs := rfl
@[simp] theorem setDrawer_phases (d : Device) (k i : Nat) (x : Drawer) : (d.setDrawer k i x).phases = d.phases := rfl
@[simp] theorem setDrawer_jobs (d : Device) (k i : Nat) (x : Drawer) : (d.setDrawer k i x).jobs = d.jobs := rfl
@[simp] theorem setDrawer_hutches (d : Device) (k i : Nat) (x : Drawer) : (d.setDrawer k i x).hutches = d.hutches := rfl
@[simp] theorem setDrawer_coll (d : Device) (k i : Nat) (x : Drawer) : (d.setDrawer k i x).coll = d.coll := rfl
@[simp] theorem setDrawer_collapses (d : Device) (k i : Nat) (x : Drawer) : (d.setDrawer k i x).collapses = d.collapses := rfl
@[simp] theorem setDrawer_rsts (d : Device) (k i : Nat) (x : Drawer) : (d.setDrawer k i x).rsts = d.rsts := rfl
@[simp] theorem setDrawer_peers (d : Device) (k i : Nat) (x : Drawer) : (d.setDrawer k i x).peers = d.peers := rfl
@[simp] theorem setDrawer_sched (d : Device) (k i : Nat) (x : Drawer) : (d.setDrawer k i x).sched = d.sched := rfl
@[simp] theorem setDrawer_transfers (d : Device) (k i : Nat) (x : Drawer) : (d.setDrawer k i x).transfers = d.transfers := rfl
@[simp] theorem setDrawer_monitors (d : Device) (k i : Nat) (x : Drawer) : (d.setDrawer k i x).monitors = d.monitors := rfl
@[simp] theorem setDrawer_hostOut (d : Device) (k i : Nat) (x : Drawer) : (d.setDrawer k i x).hostOut = d.hostOut := rfl
@[simp] theorem setDrawer_fabricOut (d : Device) (k i : Nat) (x : Drawer) : (d.setDrawer k i x).fabricOut = d.fabricOut := rfl
@[simp] theorem setDrawer_served (d : Device) (k i : Nat) (x : Drawer) : (d.setDrawer k i x).served = d.served := rfl
@[simp] theorem setDrawer_port (d : Device) (k i : Nat) (x : Drawer) : (d.setDrawer k i x).port = d.port := rfl

/-! `freeDrawer`. -/

@[simp] theorem freeDrawer_clock (d : Device) (k i : Nat) : (d.freeDrawer k i).clock = d.clock := rfl
@[simp] theorem freeDrawer_time (d : Device) (k i : Nat) : (d.freeDrawer k i).time = d.time := rfl
@[simp] theorem freeDrawer_nextId (d : Device) (k i : Nat) : (d.freeDrawer k i).nextId = d.nextId := rfl
@[simp] theorem freeDrawer_seed (d : Device) (k i : Nat) : (d.freeDrawer k i).seed = d.seed := rfl
@[simp] theorem freeDrawer_mem (d : Device) (k i : Nat) : (d.freeDrawer k i).mem = d.mem := rfl
@[simp] theorem freeDrawer_poison (d : Device) (k i : Nat) : (d.freeDrawer k i).poison = d.poison := rfl
@[simp] theorem freeDrawer_badStacks (d : Device) (k i : Nat) : (d.freeDrawer k i).badStacks = d.badStacks := rfl
@[simp] theorem freeDrawer_dies (d : Device) (k i : Nat) : (d.freeDrawer k i).dies = d.dies := rfl
@[simp] theorem freeDrawer_lineClock (d : Device) (k i : Nat) : (d.freeDrawer k i).lineClock = d.lineClock := rfl
@[simp] theorem freeDrawer_clusters (d : Device) (k i : Nat) : (d.freeDrawer k i).clusters = d.clusters := rfl
@[simp] theorem freeDrawer_slices (d : Device) (k i : Nat) : (d.freeDrawer k i).slices = d.slices := rfl
@[simp] theorem freeDrawer_homes (d : Device) (k i : Nat) : (d.freeDrawer k i).homes = d.homes := rfl
@[simp] theorem freeDrawer_names (d : Device) (k i : Nat) : (d.freeDrawer k i).names = d.names := rfl
@[simp] theorem freeDrawer_groups (d : Device) (k i : Nat) : (d.freeDrawer k i).groups = d.groups := rfl
@[simp] theorem freeDrawer_teams (d : Device) (k i : Nat) : (d.freeDrawer k i).teams = d.teams := rfl
@[simp] theorem freeDrawer_launches (d : Device) (k i : Nat) : (d.freeDrawer k i).launches = d.launches := rfl
@[simp] theorem freeDrawer_graphs (d : Device) (k i : Nat) : (d.freeDrawer k i).graphs = d.graphs := rfl
@[simp] theorem freeDrawer_phases (d : Device) (k i : Nat) : (d.freeDrawer k i).phases = d.phases := rfl
@[simp] theorem freeDrawer_jobs (d : Device) (k i : Nat) : (d.freeDrawer k i).jobs = d.jobs := rfl
@[simp] theorem freeDrawer_hutches (d : Device) (k i : Nat) : (d.freeDrawer k i).hutches = d.hutches := rfl
@[simp] theorem freeDrawer_coll (d : Device) (k i : Nat) : (d.freeDrawer k i).coll = d.coll := rfl
@[simp] theorem freeDrawer_collapses (d : Device) (k i : Nat) : (d.freeDrawer k i).collapses = d.collapses := rfl
@[simp] theorem freeDrawer_rsts (d : Device) (k i : Nat) : (d.freeDrawer k i).rsts = d.rsts := rfl
@[simp] theorem freeDrawer_peers (d : Device) (k i : Nat) : (d.freeDrawer k i).peers = d.peers := rfl
@[simp] theorem freeDrawer_sched (d : Device) (k i : Nat) : (d.freeDrawer k i).sched = d.sched := rfl
@[simp] theorem freeDrawer_transfers (d : Device) (k i : Nat) : (d.freeDrawer k i).transfers = d.transfers := rfl
@[simp] theorem freeDrawer_monitors (d : Device) (k i : Nat) : (d.freeDrawer k i).monitors = d.monitors := rfl
@[simp] theorem freeDrawer_hostOut (d : Device) (k i : Nat) : (d.freeDrawer k i).hostOut = d.hostOut := rfl
@[simp] theorem freeDrawer_fabricOut (d : Device) (k i : Nat) : (d.freeDrawer k i).fabricOut = d.fabricOut := rfl
@[simp] theorem freeDrawer_served (d : Device) (k i : Nat) : (d.freeDrawer k i).served = d.served := rfl
@[simp] theorem freeDrawer_port (d : Device) (k i : Nat) : (d.freeDrawer k i).port = d.port := rfl

/-! `writeByte`. -/

@[simp] theorem writeByte_clock (d : Device) (a : Nat) (b : Byte) : (d.writeByte a b).clock = d.clock := rfl
@[simp] theorem writeByte_time (d : Device) (a : Nat) (b : Byte) : (d.writeByte a b).time = d.time := rfl
@[simp] theorem writeByte_nextId (d : Device) (a : Nat) (b : Byte) : (d.writeByte a b).nextId = d.nextId := rfl
@[simp] theorem writeByte_seed (d : Device) (a : Nat) (b : Byte) : (d.writeByte a b).seed = d.seed := rfl
@[simp] theorem writeByte_poison (d : Device) (a : Nat) (b : Byte) : (d.writeByte a b).poison = d.poison := rfl
@[simp] theorem writeByte_badStacks (d : Device) (a : Nat) (b : Byte) : (d.writeByte a b).badStacks = d.badStacks := rfl
@[simp] theorem writeByte_dies (d : Device) (a : Nat) (b : Byte) : (d.writeByte a b).dies = d.dies := rfl
@[simp] theorem writeByte_lineClock (d : Device) (a : Nat) (b : Byte) : (d.writeByte a b).lineClock = d.lineClock := rfl
@[simp] theorem writeByte_cores (d : Device) (a : Nat) (b : Byte) : (d.writeByte a b).cores = d.cores := rfl
@[simp] theorem writeByte_clusters (d : Device) (a : Nat) (b : Byte) : (d.writeByte a b).clusters = d.clusters := rfl
@[simp] theorem writeByte_slices (d : Device) (a : Nat) (b : Byte) : (d.writeByte a b).slices = d.slices := rfl
@[simp] theorem writeByte_homes (d : Device) (a : Nat) (b : Byte) : (d.writeByte a b).homes = d.homes := rfl
@[simp] theorem writeByte_names (d : Device) (a : Nat) (b : Byte) : (d.writeByte a b).names = d.names := rfl
@[simp] theorem writeByte_groups (d : Device) (a : Nat) (b : Byte) : (d.writeByte a b).groups = d.groups := rfl
@[simp] theorem writeByte_teams (d : Device) (a : Nat) (b : Byte) : (d.writeByte a b).teams = d.teams := rfl
@[simp] theorem writeByte_launches (d : Device) (a : Nat) (b : Byte) : (d.writeByte a b).launches = d.launches := rfl
@[simp] theorem writeByte_graphs (d : Device) (a : Nat) (b : Byte) : (d.writeByte a b).graphs = d.graphs := rfl
@[simp] theorem writeByte_phases (d : Device) (a : Nat) (b : Byte) : (d.writeByte a b).phases = d.phases := rfl
@[simp] theorem writeByte_jobs (d : Device) (a : Nat) (b : Byte) : (d.writeByte a b).jobs = d.jobs := rfl
@[simp] theorem writeByte_hutches (d : Device) (a : Nat) (b : Byte) : (d.writeByte a b).hutches = d.hutches := rfl
@[simp] theorem writeByte_coll (d : Device) (a : Nat) (b : Byte) : (d.writeByte a b).coll = d.coll := rfl
@[simp] theorem writeByte_collapses (d : Device) (a : Nat) (b : Byte) : (d.writeByte a b).collapses = d.collapses := rfl
@[simp] theorem writeByte_rsts (d : Device) (a : Nat) (b : Byte) : (d.writeByte a b).rsts = d.rsts := rfl
@[simp] theorem writeByte_peers (d : Device) (a : Nat) (b : Byte) : (d.writeByte a b).peers = d.peers := rfl
@[simp] theorem writeByte_sched (d : Device) (a : Nat) (b : Byte) : (d.writeByte a b).sched = d.sched := rfl
@[simp] theorem writeByte_transfers (d : Device) (a : Nat) (b : Byte) : (d.writeByte a b).transfers = d.transfers := rfl
@[simp] theorem writeByte_monitors (d : Device) (a : Nat) (b : Byte) : (d.writeByte a b).monitors = d.monitors := rfl
@[simp] theorem writeByte_hostOut (d : Device) (a : Nat) (b : Byte) : (d.writeByte a b).hostOut = d.hostOut := rfl
@[simp] theorem writeByte_fabricOut (d : Device) (a : Nat) (b : Byte) : (d.writeByte a b).fabricOut = d.fabricOut := rfl
@[simp] theorem writeByte_served (d : Device) (a : Nat) (b : Byte) : (d.writeByte a b).served = d.served := rfl
@[simp] theorem writeByte_port (d : Device) (a : Nat) (b : Byte) : (d.writeByte a b).port = d.port := rfl

/-! The state's own updates. -/

@[simp] theorem finish_plat (s : State) : s.finish.plat = s.plat := rfl
@[simp] theorem finish_turn (s : State) : s.finish.turn = .free := rfl
@[simp] theorem finish_tick (s : State) : s.finish.tick = s.tick + 1 := rfl

end Sys2Proof.Machine
end

