-- ==== Sys2Proof/Laws/Tables.lean ====
section
/-! SUPPORT. Tables, cells and lists: what a read finds after a write, and that writes keep the canonical form. -/

namespace Sys2Proof.Machine
open Sys2Proof

/-! Tables. -/

section
variable {α : Type}

/-- A table finds what was put at a key. -/
@[simp] theorem find_set_same (t : Tbl α) (k : Nat) (v : α) : Tbl.find (Tbl.set t k v) k = some v := by
  induction t with
  | nil => simp [Tbl.set, Tbl.find]
  | cons e t ih =>
    obtain ⟨j, w⟩ := e
    simp only [Tbl.set]
    split
    · simp [Tbl.find]
    · split
      · simp [Tbl.find]
      · simp [Tbl.find, *]
/-- At another key it finds what it found. -/
theorem find_set_other (t : Tbl α) (k j : Nat) (v : α) (h : j ≠ k) : Tbl.find (Tbl.set t k v) j = Tbl.find t j := by
  induction t with
  | nil => simp [Tbl.set, Tbl.find, h]
  | cons e t ih =>
    obtain ⟨i, w⟩ := e
    simp only [Tbl.set]
    split
    · simp [Tbl.find, h]
    · split
      · rename_i h1 h2
        subst h2
        simp [Tbl.find, h]
      · simp [Tbl.find, ih]
/-- A change at a key changes the entry found there. -/
@[simp] theorem find_modify_same (f : α → α) (t : Tbl α) (k : Nat) : Tbl.find (Tbl.modify f t k) k = (Tbl.find t k).map f := by
  induction t with
  | nil => simp [Tbl.modify, Tbl.find]
  | cons e t ih =>
    obtain ⟨j, w⟩ := e
    simp only [Tbl.modify]
    split <;> simp [Tbl.find, *]
/-- At another key nothing. -/
theorem find_modify_other (f : α → α) (t : Tbl α) (k j : Nat) (h : j ≠ k) : Tbl.find (Tbl.modify f t k) j = Tbl.find t j := by
  induction t with
  | nil => simp [Tbl.modify]
  | cons e t ih =>
    obtain ⟨i, w⟩ := e
    simp only [Tbl.modify]
    split
    · rename_i h1
      subst h1
      simp [Tbl.find, h]
    · simp [Tbl.find, ih]
/-- A change of every entry. -/
@[simp] theorem find_mapVals (f : α → α) (t : Tbl α) (k : Nat) : Tbl.find (Tbl.mapVals f t) k = (Tbl.find t k).map f := by
  induction t with
  | nil => simp [Tbl.mapVals, Tbl.find]
  | cons e t ih =>
    obtain ⟨j, w⟩ := e
    simp only [Tbl.mapVals, List.map_cons, Tbl.find]
    split
    · simp
    · exact ih
/-- Another key is found as before after an entry has gone. -/
theorem find_erase_other (t : Tbl α) (k j : Nat) (h : j ≠ k) : Tbl.find (Tbl.erase t k) j = Tbl.find t j := by
  induction t with
  | nil => simp [Tbl.erase]
  | cons e t ih =>
    obtain ⟨i, w⟩ := e
    simp only [Tbl.erase]
    split
    · rename_i h1
      subst h1
      simp [Tbl.find, h, ih]
    · simp [Tbl.find, ih]
/-- A key taken out is not found. -/
@[simp] theorem find_erase_same (t : Tbl α) (k : Nat) : Tbl.find (Tbl.erase t k) k = none := by
  induction t with
  | nil => rfl
  | cons e t ih =>
    obtain ⟨i, w⟩ := e
    simp only [Tbl.erase]
    split
    · exact ih
    · rename_i h
      simp [Tbl.find, h, ih]
end

/-! Cells in canonical form. -/

section
variable {α : Type} [DecidableEq α]

/-- A canonical list has no key below its bound. -/
theorem find_below (d : α) (c : Cells α) (lo k : Nat) (h : cellsOk d lo c = true) (hk : k < lo) : Tbl.find c k = none := by
  induction c generalizing lo with
  | nil => simp [Tbl.find]
  | cons e c ih =>
    obtain ⟨j, v⟩ := e
    simp only [cellsOk, Bool.and_eq_true, decide_eq_true_eq] at h
    have : k ≠ j := by omega
    simp [Tbl.find, this, ih (j + 1) h.2 (by omega)]
/-- A canonical list keeps its form with a lower bound. -/
theorem cellsOk_mono (d : α) (c : Cells α) (lo lo' : Nat) (h : cellsOk d lo c = true) (hl : lo' ≤ lo) : cellsOk d lo' c = true := by
  cases c with
  | nil => rfl
  | cons e c =>
    obtain ⟨j, v⟩ := e
    simp only [cellsOk, Bool.and_eq_true, decide_eq_true_eq] at h ⊢
    exact ⟨⟨by omega, h.1.2⟩, h.2⟩
/-- Putting a value that is not the default keeps the form. -/
theorem cellsOk_set (d : α) (c : Cells α) (lo k : Nat) (v : α) (h : cellsOk d lo c = true) (hk : lo ≤ k) (hv : v ≠ d) : cellsOk d lo (Tbl.set c k v) = true := by
  induction c generalizing lo with
  | nil => simp [Tbl.set, cellsOk, hk, hv]
  | cons e c ih =>
    obtain ⟨j, w⟩ := e
    simp only [cellsOk, Bool.and_eq_true, decide_eq_true_eq] at h
    simp only [Tbl.set]
    split
    · simp only [cellsOk, Bool.and_eq_true, decide_eq_true_eq]
      exact ⟨⟨hk, hv⟩, ⟨by omega, h.1.2⟩, h.2⟩
    · split
      · rename_i h1 h2
        subst h2
        simp only [cellsOk, Bool.and_eq_true, decide_eq_true_eq]
        exact ⟨⟨hk, hv⟩, h.2⟩
      · simp only [cellsOk, Bool.and_eq_true, decide_eq_true_eq]
        exact ⟨⟨h.1.1, h.1.2⟩, ih (j + 1) h.2 (by omega)⟩
/-- Taking an entry out keeps the form. -/
theorem cellsOk_erase (d : α) (c : Cells α) (lo k : Nat) (h : cellsOk d lo c = true) : cellsOk d lo (Tbl.erase c k) = true := by
  induction c generalizing lo with
  | nil => rfl
  | cons e c ih =>
    obtain ⟨j, w⟩ := e
    simp only [cellsOk, Bool.and_eq_true, decide_eq_true_eq] at h
    simp only [Tbl.erase]
    split
    · exact cellsOk_mono d _ (j + 1) lo (ih (j + 1) h.2) (by omega)
    · simp only [cellsOk, Bool.and_eq_true, decide_eq_true_eq]
      exact ⟨⟨h.1.1, h.1.2⟩, ih (j + 1) h.2⟩
/-- A write of a cell keeps the form. -/
theorem cellsOk_put (d : α) (c : Cells α) (k : Nat) (v : α) (h : cellsOk d 0 c = true) : cellsOk d 0 (Cells.put d c k v) = true := by
  simp only [Cells.put]
  split
  · exact cellsOk_erase d c 0 k h
  · exact cellsOk_set d c 0 k v h (Nat.zero_le k) ‹_›
/-- A cell reads as it was written last. -/
theorem get_put_same (d : α) (c : Cells α) (k : Nat) (v : α) : Cells.get d (Cells.put d c k v) k = v := by
  simp only [Cells.get, Cells.put, Tbl.getD]
  split
  · rw [find_erase_same]
    simp [*]
  · simp
/-- A write of a cell leaves every other cell. -/
theorem get_put_other (d : α) (c : Cells α) (k j : Nat) (v : α) (h : j ≠ k) : Cells.get d (Cells.put d c k v) j = Cells.get d c j := by
  simp only [Cells.get, Cells.put, Tbl.getD]
  split
  · rw [find_erase_other c k j h]
  · rw [find_set_other c k j v h]
end

/-! Lists. -/

@[simp] theorem listSet_length {α : Type} (l : List α) (k : Nat) (v : α) : (listSet l k v).length = l.length := by
  induction l generalizing k with
  | nil => rfl
  | cons x t ih => cases k <;> simp [listSet, ih]
/-- A list reads as it was set last. -/
theorem listSet_getD_same {α : Type} (l : List α) (k : Nat) (v d : α) (h : k < l.length) : (listSet l k v).getD k d = v := by
  induction l generalizing k with
  | nil => simp at h
  | cons x t ih => cases k with
    | zero => rfl
    | succ k => simpa [listSet] using ih k (by simpa using h)
/-- Another place of a list is as it was. -/
theorem listSet_getD_other {α : Type} (l : List α) (k j : Nat) (v d : α) (h : j ≠ k) : (listSet l k v).getD j d = l.getD j d := by
  induction l generalizing k j with
  | nil => rfl
  | cons x t ih => cases k with
    | zero => cases j with
      | zero => simp at h
      | succ j => rfl
    | succ k => cases j with
      | zero => rfl
      | succ j => simpa [listSet] using ih k j (by omega)
/-- An entry that is found is in the table. -/
theorem mem_of_find {α : Type} : ∀ {t : Tbl α} {k : Nat} {v : α}, Tbl.find t k = some v → (k, v) ∈ t := by
  intro t
  induction t with
  | nil => intro k v h; simp [Tbl.find] at h
  | cons e t ih =>
    intro k v h
    obtain ⟨j, w⟩ := e
    simp only [Tbl.find] at h
    split at h
    · rename_i hk
      simp at h
      subst hk
      subst h
      exact List.mem_cons_self
    · exact List.mem_cons_of_mem _ (ih h)
/-- Two changes that agree on the entry at a key. -/
theorem modify_congr {α : Type} {f f' : α → α} : ∀ {t : Tbl α} {k : Nat} {v : α}, Tbl.find t k = some v → f v = f' v → Tbl.modify f t k = Tbl.modify f' t k := by
  intro t
  induction t with
  | nil => intro k v h; simp [Tbl.find] at h
  | cons e t ih =>
    intro k v h hv
    obtain ⟨j, w⟩ := e
    simp only [Tbl.find] at h
    simp only [Tbl.modify]
    split at h
    · rename_i hk
      simp at h
      subst h
      simp [hk, hv]
    · rename_i hk
      simp [hk, ih h hv]
/-- Two changes of an entry as one. -/
theorem modify_twice {α : Type} (f f' h : α → α) (t : Tbl α) (k : Nat) (e : ∀ x, f' (f x) = h x) : Tbl.modify f' (Tbl.modify f t k) k = Tbl.modify h t k := by
  induction t with
  | nil => rfl
  | cons x t ih =>
    obtain ⟨j, w⟩ := x
    simp only [Tbl.modify]
    split
    · rename_i hk
      simp [Tbl.modify, hk, e]
    · rename_i hk
      simp [Tbl.modify, hk, ih]
/-- An entry of a changed table was there, or is the change of one. -/
theorem mem_modify {α : Type} {f : α → α} {t : Tbl α} {k : Nat} {x : Nat × α} (h : x ∈ Tbl.modify f t k) : ∃ y ∈ t, x = y ∨ x = (y.1, f y.2) := by
  induction t with
  | nil => simp [Tbl.modify] at h
  | cons e t ih =>
    obtain ⟨j, w⟩ := e
    simp only [Tbl.modify] at h
    split at h
    · rcases List.mem_cons.mp h with rfl | h
      · exact ⟨_, List.mem_cons_self, .inr rfl⟩
      · exact ⟨_, List.mem_cons_of_mem _ h, .inl rfl⟩
    · rcases List.mem_cons.mp h with rfl | h
      · exact ⟨_, List.mem_cons_self, .inl rfl⟩
      · obtain ⟨y, hy, he⟩ := ih h
        exact ⟨y, List.mem_cons_of_mem _ hy, he⟩

end Sys2Proof.Machine
end

