-- ==== Sys2Proof/Laws/Issue.lean ====
section
/-! SUPPORT. How an instruction of code issues: what its meaning answers once its split can issue it, and what completing, starting an operation, waiting and jumping leave. -/

namespace Sys2Proof.Machine
open Sys2Proof

/-! The issuing context. -/

/-- The context of a split is made of the state. -/
theorem ctxOf_spec {P : Platform} {d : Device} {gid k : Nat} {gd : Option Guard} {c : Ctx} (h : ctxOf P d gid k gd = some c) :
    c.P = P ∧ c.d = d ∧ c.gid = gid ∧ c.k = k ∧ Tbl.find d.groups gid = some c.g ∧ splitOf c.g k = some c.sp ∧ c.lanes = c.sp.rest.getD (guardLanes c.g c.sp.mask gd) := by
  simp only [ctxOf] at h
  split at h
  · simp at h
  · rename_i x hx
    cases hs : splitOf x k with
    | none => simp [hs] at h
    | some sp =>
      simp only [hs, Option.map_some, Option.some.injEq] at h
      subst h
      exact ⟨rfl, rfl, rfl, rfl, hx, hs, rfl⟩
/-- A split that can issue: its turn, its context, and that nothing holds it. -/
theorem ready_spec {i : Instr} {gd : Option Guard} {s : State} {c : Ctx} (h : ready i gd s = some c) :
    s.turn = .issue c.gid c.k ∧ ctxOf s.plat s.dev c.gid c.k gd = some c ∧ gate i c = none ∧ holdWait i c = none := by
  simp only [ready] at h
  split at h
  · simp at h
  · rename_i gid k ht
    split at h
    · simp at h
    · rename_i x hx
      split at h
      · rename_i hr
        simp only [Option.some.injEq] at h
        subst h
        obtain ⟨-, -, hg, hk, -⟩ := ctxOf_spec hx
        simp only [Bool.and_eq_true, Option.isNone_iff_eq_none] at hr
        exact ⟨by rw [hg, hk]; exact ht, by rw [hg, hk]; exact hx, hr.1, hr.2⟩
      · simp at h
/-- The context's device, platform, group and split are the state's. -/
theorem ready_ctx {i : Instr} {gd : Option Guard} {s : State} {c : Ctx} (h : ready i gd s = some c) :
    c.P = s.plat ∧ c.d = s.dev ∧ Tbl.find s.dev.groups c.gid = some c.g ∧ splitOf c.g c.k = some c.sp ∧ c.lanes = c.sp.rest.getD (guardLanes c.g c.sp.mask gd) := by
  obtain ⟨h1, h2, -, -, h3, h4, h5⟩ := ctxOf_spec (ready_spec h).2.1
  exact ⟨h1, h2, h3, h4, h5⟩

/-! What a meaning answers. -/

/-- An instruction that closes no region first. -/
theorem runCode_ok {i : Instr} {gd : Option Guard} {s : State} {c : Ctx} {body : Ctx → Except Stop (Ctx → Done)} {f : Ctx → Done} (h : ready i gd s = some c) (hf : closesFirst i = false) (he : closesEarly i = false) (hr : isHeldEffect i = false ∨ room i c = true) (hb : body c = .ok f) :
    runCode i gd s body = .next { s with dev := retire i c (f c) } := by
  obtain ⟨ht, hc, hg, hw⟩ := ready_spec h
  have : ¬(isHeldEffect i && !c.g.effects.isEmpty && decide (32 < c.g.effects.length + heldNeeds i c)) = true := by
    rcases hr with hr | hr
    · simp [hr]
    · simp only [room, decide_eq_true_eq] at hr
      simp only [Bool.and_eq_true, decide_eq_true_eq, not_and]
      omega
  simp [runCode, ht, hc, issue, hg, hw, he, hf, hb, this]
/-- An instruction whose own checks refuse it. -/
theorem runCode_error {i : Instr} {gd : Option Guard} {s : State} {c : Ctx} {body : Ctx → Except Stop (Ctx → Done)} {e : Stop} (h : ready i gd s = some c) (he : closesEarly i = false) (hb : body c = .error e) :
    runCode i gd s body = match onStop c e with | some d => .next { s with dev := d } | none => .fault .absentAddress := by
  obtain ⟨ht, hc, hg, hw⟩ := ready_spec h
  have hi : issue i c body = onStop c e := by simp [issue, hg, hw, he, hb]
  simp only [runCode, ht, hc, hi] <;> cases onStop c e <;> rfl

/-! Retiring. -/

/-- The registers of another group after a change of one. -/
theorem regsOf_modGroup_other (d : Device) (g j : Nat) (f : Group → Group) (h : j ≠ g) : regsOf (d.modGroup g f) j = regsOf d j := by
  simp [regsOf, Device.modGroup, find_modify_other _ _ _ _ h]
/-- A group after a change of it. -/
@[simp] theorem find_modGroup_same (d : Device) (g : Nat) (f : Group → Group) : Tbl.find (d.modGroup g f).groups g = (Tbl.find d.groups g).map f := by
  simp [Device.modGroup]
/-- Another group. -/
theorem find_modGroup_other (d : Device) (g j : Nat) (f : Group → Group) (h : j ≠ g) : Tbl.find (d.modGroup g f).groups j = Tbl.find d.groups j := by
  simp [Device.modGroup, find_modify_other _ _ _ _ h]

/-! Registers and places. -/

/-- Where a split of a group stands. -/
def Group.stands (g : Group) (k : Nat) : Option (DWord × Nat) := (splitOf g k).map fun sp => (sp.pc, sp.index)

/-- A change of splits leaves the registers. -/
@[simp] theorem modSplit_regs (g : Group) (k : Nat) (f : Split → Split) : (modSplit g k f).regs = g.regs := rfl
/-- A change of a split that keeps its place keeps every split's. -/
theorem modSplit_stands (g : Group) (k j : Nat) (f : Split → Split) (h : ∀ sp, (f sp).pc = sp.pc ∧ (f sp).index = sp.index) : (modSplit g k f).stands j = g.stands j := by
  simp only [Group.stands, splitOf, modSplit]
  by_cases hj : j = k
  · subst hj
    rw [find_modify_same]
    cases Tbl.find g.splits j <;> simp [h]
  · rw [find_modify_other _ _ _ _ hj]
/-- A block in the written-block list leaves registers and splits. -/
@[simp] theorem addBlock_regs (g : Group) (va : DWord) : (addBlock g va).regs = g.regs := by
  simp only [addBlock]
  repeat' split
  all_goals rfl
@[simp] theorem addBlock_splits (g : Group) (va : DWord) : (addBlock g va).splits = g.splits := by
  simp only [addBlock]
  repeat' split
  all_goals rfl
@[simp] theorem foldl_addBlock_regs (l : List DWord) (g : Group) : (l.foldl addBlock g).regs = g.regs := by
  induction l generalizing g with
  | nil => rfl
  | cons x t ih => rw [List.foldl_cons, ih, addBlock_regs]
@[simp] theorem foldl_addBlock_splits (l : List DWord) (g : Group) : (l.foldl addBlock g).splits = g.splits := by
  induction l generalizing g with
  | nil => rfl
  | cons x t ih => rw [List.foldl_cons, ih, addBlock_splits]
/-- Closing a region leaves the registers. -/
@[simp] theorem closeRegion_regs (clock : Nat) (cl : Bool) (g : Group) (k : Nat) : (closeRegion clock cl g k).regs = g.regs := by
  rfl
/-- It leaves every split where it stands. -/
@[simp] theorem closeRegion_stands (clock : Nat) (cl : Bool) (g : Group) (k j : Nat) : (closeRegion clock cl g k).stands j = g.stands j := by
  simp only [closeRegion]
  refine (modSplit_stands _ _ _ _ ?_).trans ?_
  · intro _
    exact ⟨rfl, rfl⟩
  · rfl
/-- Closing regions of others does so too. -/
theorem closeOthers_inv {α : Type} (r : Group → α) (h : ∀ clock cl g k, r (closeRegion clock cl g k) = r g) (clock : Nat) (cl : Bool) (g : Group) (k : Nat) (hit : Region → Bool) : r (closeOthers clock cl g k hit) = r g := by
  have : ∀ (l : List Nat) (g : Group), r (l.foldl (fun g j => match splitOf g j with
      | some sp => if j ≠ k && hit sp.region then closeRegion clock cl g j else g
      | none => g) g) = r g := by
    intro l
    induction l with
    | nil => intro g; rfl
    | cons x t ih =>
      intro g
      rw [List.foldl_cons, ih]
      split
      · split
        · exact h _ _ _ _
        · rfl
      · rfl
  exact this _ g
/-- A result leaves every split where it stands. -/
@[simp] theorem produce_stands (g : Group) (k j : Nat) (tr : Bool) (w : RegWrites) : (produce g k tr w).stands j = g.stands j := by
  have h := modSplit_stands g k j (fun sp => { sp with bypass := (sp.bypass ++ [w]).drop (sp.bypass.length - 2) }) fun _ => ⟨rfl, rfl⟩
  simp only [produce]
  split <;> exact h
/-- A result that writes nothing leaves the registers. -/
theorem produce_plain (g : Group) (k : Nat) (tr : Bool) (w : RegWrites) (h : (w.vs.isEmpty && w.ss.isEmpty && w.ps.isEmpty) = true) : (produce g k tr w).regs = g.regs := by
  obtain ⟨vs, ss, ps⟩ := w
  simp only [Bool.and_eq_true, List.isEmpty_iff] at h
  obtain ⟨⟨rfl, rfl⟩, rfl⟩ := h
  cases tr <;> simp [produce, applyWrites, pushBypass, Group.regs, modSplit, RegWrites.hits, RegWrites.none, RegWrites.keys]

/-! What a group shows after each part of retiring. -/

/-- What a change of groups that keeps a view of each leaves of it. -/
theorem view_modGroup {α : Type} (r : Group → α) (d : Device) (g j : Nat) (f : Group → Group) (h : ∀ x, r (f x) = r x) : (Tbl.find (d.modGroup g f).groups j).map r = (Tbl.find d.groups j).map r := by
  by_cases hj : j = g
  · subst hj
    rw [find_modGroup_same]
    cases Tbl.find d.groups j <;> simp [h]
  · rw [find_modGroup_other _ _ _ _ hj]
/-- What a change of splits that a view does not show leaves of it. -/
theorem view_modSplit {α : Type} (r : Group → α) (h : ∀ g k f, r (modSplit g k f) = r g) (d : Device) (gid k j : Nat) (f : Split → Split) : (Tbl.find (d.modGroup gid fun g => modSplit g k f).groups j).map r = (Tbl.find d.groups j).map r := view_modGroup r d gid j (fun g => modSplit g k f) fun _ => h _ _ _
/-- The arrival note leaves registers and places. -/
theorem view_noteArrival {α : Type} (r : Group → α) (h : ∀ g k f, (∀ sp : Split, (f sp).pc = sp.pc ∧ (f sp).index = sp.index) → r (modSplit g k f) = r g) (d : Device) (gid k j : Nat) : (Tbl.find (noteArrival d gid k).groups j).map r = (Tbl.find d.groups j).map r := by
  apply view_modGroup
  intro x
  apply h
  intro sp
  split <;> exact ⟨rfl, rfl⟩
/-- The issue note does. -/
theorem view_noteIssue {α : Type} (r : Group → α) (h : ∀ g k f, (∀ sp : Split, (f sp).pc = sp.pc ∧ (f sp).index = sp.index) → r (modSplit g k f) = r g) (hy : ∀ (g : Group) a b, r { g with lastIssue := a, yielded := b } = r g) (i : Instr) (d : Device) (gid k j : Nat) : (Tbl.find (noteIssue i d gid k).groups j).map r = (Tbl.find d.groups j).map r := by
  simp only [noteIssue]
  split
  · rfl
  · rename_i g hg
    simp only [find_mapVals, Option.map_map]
    rw [show (r ∘ fun h : Group => if h.core == g.core && h.slot == g.slot && h.id != gid then { h with yielded := h.yielded.map fun y => (y.1, y.2.filter (· != gid)) } else h) = r from by
      funext x
      simp only [Function.comp_apply]
      split
      · exact hy x x.lastIssue _
      · rfl]
    apply view_modGroup
    intro x
    refine (hy (modSplit x k _) _ _).trans (h _ _ _ fun _ => ⟨rfl, rfl⟩)
/-- A group with a result in it, before any region closes. -/
def landMid (g : Group) (k : Nat) (w : RegWrites) (tr : Bool) (rs : Nat) : Group :=
  let g' := if w.vs.isEmpty && w.ss.isEmpty && w.ps.isEmpty then g else produce g k tr w
  { g' with rsCtr := g'.rsCtr + BitVec.ofNat 64 rs }
/-- A group after a result: unless it has halted, regions close. -/
def landGroup (clock : Nat) (cl : Bool) (own : Bool) (g : Group) (k : Nat) (w : RegWrites) (tr : Bool) (rs : Nat) : Group :=
  if g.state == .halted then landMid g k w tr rs
  else closeOthers clock cl (if own then closeRegion clock cl (landMid g k w tr rs) k else landMid g k w tr rs) k fun r => rs != 0 || (!tr && w.ss.any fun c => r.smask.getLsbD c.1)
/-- A result is a change of its group. -/
theorem landResult_eq (d : Device) (gid k : Nat) (w : RegWrites) (tr : Bool) (rs : Nat) (close : Bool) : ∃ own : Group → Bool, ∃ cl : Group → Bool, landResult d gid k w tr rs close = match Tbl.find d.groups gid with
    | none => d
    | some g => d.modGroup gid fun _ => landGroup d.clock (cl g) (own g) g k w tr rs :=
  ⟨fun g => (match splitOf g k with | some sp => hitsLiveIn sp.region (if tr then { w with vs := [], ss := [] } else w) | none => false) || close, fun g => closing d g, rfl⟩
/-- What a view that closing regions keeps shows of a group after a result. -/
theorem view_landGroup {α : Type} (r : Group → α) (h : ∀ clock cl g k, r (closeRegion clock cl g k) = r g) (clock : Nat) (cl own : Bool) (g : Group) (k : Nat) (w : RegWrites) (tr : Bool) (rs : Nat) : r (landGroup clock cl own g k w tr rs) = r (landMid g k w tr rs) := by
  rw [landGroup]
  split
  · rfl
  · rw [closeOthers_inv r h]
    split
    · exact h _ _ _ _
    · rfl
/-- What a view shows of the groups after a result. -/
theorem view_landResult {α : Type} (r : Group → α) (h : ∀ clock cl g k, r (closeRegion clock cl g k) = r g) (d : Device) (gid k j : Nat) (w : RegWrites) (tr : Bool) (rs : Nat) (close : Bool) : (Tbl.find (landResult d gid k w tr rs close).groups j).map r = (Tbl.find d.groups j).map fun g => if j = gid then r (landMid g k w tr rs) else r g := by
  obtain ⟨own, cl, e⟩ := landResult_eq d gid k w tr rs close
  rw [e]
  by_cases hj : j = gid
  · subst hj
    cases hg : Tbl.find d.groups j with
    | none => simp [hg]
    | some g =>
      simp only [find_modGroup_same, hg, Option.map_some, if_true]
      rw [view_landGroup r h]
  · cases hg : Tbl.find d.groups gid with
    | none => simp [hj]
    | some g =>
      simp only [hj, if_false]
      rw [find_modGroup_other _ _ _ _ hj]
/-- The registers before the regions close. -/
theorem landMid_regs (g : Group) (k : Nat) (w : RegWrites) (tr : Bool) (rs : Nat) : (landMid g k w tr rs).regs = g.landed k tr w rs := by
  have hc : (produce g k tr w).rsCtr = g.rsCtr := by cases tr <;> rfl
  have key : ∀ g' : Group, g'.regs = (produce g k tr w).regs → g'.rsCtr = g.rsCtr → ({ g' with rsCtr := g'.rsCtr + BitVec.ofNat 64 rs } : Group).regs = g.landed k tr w rs := by
    intro g' h1 h2
    rw [Group.landed, ← h1, ← h2]
    rfl
  simp only [landMid]
  split
  · exact key g (produce_plain _ _ _ _ ‹_›).symm rfl
  · exact key _ rfl hc
/-- The places before the regions close. -/
theorem landMid_stands (g : Group) (k l : Nat) (w : RegWrites) (tr : Bool) (rs : Nat) : (landMid g k w tr rs).stands l = g.stands l := by
  have key : ∀ g' : Group, ({ g' with rsCtr := g'.rsCtr + BitVec.ofNat 64 rs } : Group).stands l = g'.stands l := fun _ => rfl
  simp only [landMid]
  split
  · exact key g
  · exact (key _).trans (produce_stands _ _ _ _ _)
/-- The operations before the regions close. -/
theorem landMid_ops (g : Group) (k : Nat) (w : RegWrites) (tr : Bool) (rs : Nat) : (landMid g k w tr rs).ops = g.ops := by
  have key : ∀ g' : Group, ({ g' with rsCtr := g'.rsCtr + BitVec.ofNat 64 rs } : Group).ops = g'.ops := fun _ => rfl
  simp only [landMid]
  split
  · exact key g
  · refine (key _).trans ?_
    cases tr <;> rfl
/-- A result leaves the other groups, and gives its own the landed registers. -/
theorem regsOf_landResult (d : Device) (gid k j : Nat) (w : RegWrites) (tr : Bool) (rs : Nat) (cl : Bool) : regsOf (landResult d gid k w tr rs cl) j = if j = gid then (Tbl.find d.groups gid).map fun g => g.landed k tr w rs else regsOf d j := by
  rw [regsOf, view_landResult Group.regs closeRegion_regs]
  simp only [landMid_regs]
  split
  · rename_i hj
    rw [hj]
  · rfl
/-- A result leaves every split where it stands. -/
theorem standsAt_landResult (d : Device) (gid k j l : Nat) (w : RegWrites) (tr : Bool) (rs : Nat) (cl : Bool) : (Tbl.find (landResult d gid k w tr rs cl).groups j).map (·.stands l) = (Tbl.find d.groups j).map (·.stands l) := by
  rw [view_landResult (fun g => g.stands l) fun _ _ _ _ => closeRegion_stands _ _ _ _ _]
  simp only [landMid_stands, ite_self]
/-- Opening the region leaves the registers and places. -/
theorem view_reopen {α : Type} (r : Group → α) (h : ∀ g k f, (∀ sp : Split, (f sp).pc = sp.pc ∧ (f sp).index = sp.index) → r (modSplit g k f) = r g) (d : Device) (gid k j : Nat) : (Tbl.find (reopen d gid k).groups j).map r = (Tbl.find d.groups j).map r := by
  simp only [reopen]
  split
  · rfl
  · rename_i g hg
    by_cases hj : j = gid
    · subst hj
      rw [find_modGroup_same, hg]
      simp only [Option.map_some, Option.some.injEq]
      exact h _ _ _ fun _ => ⟨rfl, rfl⟩
    · rw [find_modGroup_other _ _ _ _ hj]

/-! The device beside its groups. -/

/-- A device without its groups and its next number. -/
def Device.rest (d : Device) : Device := { d with groups := [], nextId := 0 }
theorem rest_eq {d e : Device} (h : d.rest = e.rest) : d = { e with groups := d.groups, nextId := d.nextId } := by
  cases d
  cases e
  simp only [Device.rest, Device.mk.injEq] at h
  simp only [Device.mk.injEq]
  tauto
@[simp] theorem rest_modGroup (d : Device) (g : Nat) (f : Group → Group) : (d.modGroup g f).rest = d.rest := rfl
@[simp] theorem rest_landResult (d : Device) (gid k : Nat) (w : RegWrites) (tr : Bool) (rs : Nat) (cl : Bool) : (landResult d gid k w tr rs cl).rest = d.rest := by
  simp only [landResult]
  split <;> rfl
@[simp] theorem rest_reopen (d : Device) (gid k : Nat) : (reopen d gid k).rest = d.rest := by
  simp only [reopen]
  split <;> rfl
@[simp] theorem rest_noteArrival (d : Device) (gid k : Nat) : (noteArrival d gid k).rest = d.rest := rfl
@[simp] theorem rest_noteIssue (i : Instr) (d : Device) (gid k : Nat) : (noteIssue i d gid k).rest = d.rest := by
  simp only [noteIssue]
  split <;> rfl
@[simp] theorem rest_startOp (i : Instr) (c : Ctx) (d : Device) (o : Op) : (startOp i c d o).rest = d.rest := rfl
@[simp] theorem nextId_landResult (d : Device) (gid k : Nat) (w : RegWrites) (tr : Bool) (rs : Nat) (cl : Bool) : (landResult d gid k w tr rs cl).nextId = d.nextId := by
  simp only [landResult]
  split <;> rfl
@[simp] theorem nextId_reopen (d : Device) (gid k : Nat) : (reopen d gid k).nextId = d.nextId := by
  simp only [reopen]
  split <;> rfl
@[simp] theorem nextId_noteArrival (d : Device) (gid k : Nat) : (noteArrival d gid k).nextId = d.nextId := rfl
@[simp] theorem nextId_noteIssue (i : Instr) (d : Device) (gid k : Nat) : (noteIssue i d gid k).nextId = d.nextId := by
  simp only [noteIssue]
  split <;> rfl
@[simp] theorem nextId_startOp (i : Instr) (c : Ctx) (d : Device) (o : Op) : (startOp i c d o).nextId = d.nextId + 1 := rfl

/-! Moving on. -/

/-- Where a split stands after it has moved past its instruction. -/
theorem advance_stands (sp : Split) (i : Instr) (n : Nat) : ((advance sp i n).pc, (advance sp i n).index) = if sp.index + 1 < hdrCount sp.header then (sp.pc, sp.index + 1) else (nextClause sp, 0) := by
  simp only [advance]
  split <;> rfl
/-- The issuing split still stands at its instruction in a device. -/
def Ctx.stays (c : Ctx) (d : Device) : Prop := ∃ g sp, Tbl.find d.groups c.gid = some g ∧ splitOf g c.k = some sp ∧ sp.pc = c.sp.pc ∧ sp.index = c.sp.index ∧ sp.code = c.sp.code
theorem advance_standsAt {c : Ctx} {d : Device} (i : Instr) (n : Nat) (h : c.stays d) : (Tbl.find (d.modGroup c.gid fun g => modSplit g c.k fun sp => advance sp i n).groups c.gid).map (·.stands c.k) = some (some c.next) := by
  obtain ⟨g, sp, h1, h2, h3, h4, h5⟩ := h
  rw [find_modGroup_same, h1]
  simp only [splitOf] at h2
  simp only [Option.map_some, Group.stands, splitOf, modSplit, find_modify_same, h2, advance_stands, Ctx.next, nextClause, Split.header, h3, h4, h5]
  rfl

/-! What each way of retiring leaves. -/

theorem regs_modSplit : ∀ (g : Group) (k : Nat) (f : Split → Split), (∀ sp : Split, (f sp).pc = sp.pc ∧ (f sp).index = sp.index) → (modSplit g k f).regs = g.regs := fun _ _ _ _ => rfl
theorem stands_modSplit (l : Nat) : ∀ (g : Group) (k : Nat) (f : Split → Split), (∀ sp : Split, (f sp).pc = sp.pc ∧ (f sp).index = sp.index) → (modSplit g k f).stands l = g.stands l := fun g k f h => modSplit_stands g k l f h
theorem standsAt_of {d : Device} {gid k : Nat} {x : DWord × Nat} (h : (Tbl.find d.groups gid).map (·.stands k) = some (some x)) : standsAt d gid k = some x := by
  simp only [standsAt]
  cases hg : Tbl.find d.groups gid with
  | none => simp [hg] at h
  | some g => simpa [hg, Group.stands] using h
theorem regsOf_noteIssue (i : Instr) (d : Device) (gid k j : Nat) : regsOf (noteIssue i d gid k) j = regsOf d j := view_noteIssue _ regs_modSplit (fun _ _ _ => rfl) _ _ _ _ _
theorem regsOf_noteArrival (d : Device) (gid k j : Nat) : regsOf (noteArrival d gid k) j = regsOf d j := view_noteArrival _ regs_modSplit _ _ _ _
theorem regsOf_reopen (d : Device) (gid k j : Nat) : regsOf (reopen d gid k) j = regsOf d j := view_reopen _ regs_modSplit _ _ _ _
/-- An instruction that completes at issue. -/
theorem retire_act {i : Instr} {s : State} {c : Ctx} {d : Device} (w : RegWrites) (tr : Bool) (rs : Nat) (h : c.stays d) :
    Acted s c d tr w rs { s with dev := retire i c (.act d w tr rs) } := by
  have hl : ∀ g : Group, g.landed c.k tr w rs = (modSplit g c.k fun sp => advance sp i (instrLen i)).landed c.k tr w rs := by
    intro g
    simp only [Group.landed, produce]
    split <;> rfl
  refine ⟨⟨rfl, rfl, rfl, ?_, ?_⟩, ?_, ?_, ?_⟩
  · apply rest_eq
    simp only [retire, rest_noteIssue, rest_noteArrival]
    split <;> simp
  · intro j hj
    simp only [retire, regsOf_noteIssue, regsOf_noteArrival]
    split <;> simp only [regsOf_reopen, regsOf_landResult, hj, if_false, regsOf_modGroup_other _ _ _ _ hj]
  · simp only [retire, nextId_noteIssue, nextId_noteArrival]
    split <;> simp
  · simp only [retire, regsOf_noteIssue, regsOf_noteArrival]
    split <;> simp only [regsOf_reopen, regsOf_landResult, if_true, find_modGroup_same, Option.map_map] <;> congr 1 <;> funext g <;> exact (hl g).symm
  · apply standsAt_of
    simp only [retire]
    rw [view_noteIssue (fun g => g.stands c.k) (stands_modSplit c.k) fun _ _ _ => rfl, view_noteArrival (fun g => g.stands c.k) (stands_modSplit c.k)]
    split
    · rw [view_reopen (fun g => g.stands c.k) (stands_modSplit c.k), standsAt_landResult, advance_standsAt i _ h]
    · rw [standsAt_landResult, advance_standsAt i _ h]
/-- The group waits at its instruction. -/
theorem retire_wait {i : Instr} {s : State} {c : Ctx} {d : Device} {w : WaitFor} {g : Group} (h : c.stays d) (hg : Tbl.find d.groups c.gid = some g) (hw : g.wait = some w) :
    Waits s c d w { s with dev := retire i c (.wait d) } := by
  refine ⟨⟨rfl, rfl, rfl, ?_, ?_⟩, ?_, ?_, ?_⟩
  · apply rest_eq
    simp [retire]
  · intro j hj
    simp only [retire, regsOf_noteIssue, regsOf_modGroup_other _ _ _ _ hj]
  · simp only [retire, regsOf_noteIssue]
    exact view_modGroup _ _ _ _ _ fun _ => rfl
  · have : (Tbl.find (retire i c (.wait d)).groups c.gid).map (·.wait) = some (some w) := by
      simp only [retire]
      rw [view_noteIssue (fun g => g.wait) (fun _ _ _ _ => rfl) fun _ _ _ => rfl, find_modGroup_same, hg]
      simp [hw]
    simp only [waitIn]
    revert this
    cases Tbl.find (retire i c (.wait d)).groups c.gid <;> simp
  · apply standsAt_of
    simp only [retire]
    rw [view_noteIssue (fun g => g.stands c.k) (stands_modSplit c.k) fun _ _ _ => rfl]
    obtain ⟨g, sp, h1, h2, h3, h4, h5⟩ := h
    rw [find_modGroup_same, h1]
    simp only [Option.map_some, Option.some.injEq, Group.stands, Ctx.here, ← h3, ← h4]
    simp only [splitOf] at h2 ⊢
    rw [h2]
    rfl
/-- A split that has been placed. -/
theorem retire_jump {i : Instr} {s : State} {c : Ctx} {f : Group → Group} {t : DWord} (hd : c.d = s.dev) (hr : ∀ g, (f g).regs = g.regs) (ht : (Tbl.find s.dev.groups c.gid).map (fun g => (f g).stands c.k) = some (some (t, 0))) :
    Jumped s c t { s with dev := retire i c (.jump (c.d.modGroup c.gid f)) } := by
  refine ⟨⟨rfl, rfl, rfl, ?_, ?_⟩, ?_, ?_⟩
  · apply rest_eq
    simp [retire, hd]
  · intro j hj
    simp only [retire, regsOf_noteIssue, regsOf_noteArrival, regsOf_modGroup_other _ _ _ _ hj, hd]
  · simp only [retire, regsOf_noteIssue, regsOf_noteArrival, hd]
    exact view_modGroup _ _ _ _ _ hr
  · apply standsAt_of
    simp only [retire]
    rw [view_noteIssue (fun g => g.stands c.k) (stands_modSplit c.k) fun _ _ _ => rfl, view_noteArrival (fun g => g.stands c.k) (stands_modSplit c.k), hd, find_modGroup_same, Option.map_map]
    exact ht
/-- Marks of closed regions do not show. -/
@[simp] theorem unmarked_pastOp (k : Nat) (l : List Op) : (l.map (pastOp k)).map Op.unmarked = l.map Op.unmarked := by
  rw [List.map_map]
  congr 1
  funext o
  simp only [Function.comp_apply, pastOp]
  split <;> rfl
/-- Closing a region marks operations and leaves them else. -/
theorem closeRegion_ops (clock : Nat) (cl : Bool) (g : Group) (k : Nat) : (closeRegion clock cl g k).ops.map Op.unmarked = g.ops.map Op.unmarked := by
  exact unmarked_pastOp k _
/-- A result leaves the operations. -/
theorem ops_landResult (d : Device) (gid k j : Nat) (w : RegWrites) (tr : Bool) (rs : Nat) (cl : Bool) : opsIn (landResult d gid k w tr rs cl) j = opsIn d j := by
  rw [opsIn, view_landResult (fun g => g.ops.map Op.unmarked) closeRegion_ops]
  simp only [landMid_ops, ite_self]
  rfl
/-- An operation as an issue starts it. -/
def startedOp (i : Instr) (c : Ctx) (o : Op) : Op :=
  { o with id := c.d.nextId, flag := if i.isLong && decide (nextFlag c.sp < 12) then some (nextFlag c.sp) else none, splits := [c.k], site := c.site, entry := takesEntry i, vDests := (uses i).vw, sDests := (uses i).sw, pDests := (uses i).pw }
/-- A device with a started operation. -/
theorem startOp_eq (i : Instr) (c : Ctx) (d : Device) (o : Op) : startOp i c d o = { d with nextId := d.nextId + 1 }.modGroup c.gid fun g => { g with ops := g.ops ++ [startedOp i c o] } := rfl
/-- What a view that operations do not show keeps. -/
theorem view_startOp {α : Type} (r : Group → α) (h : ∀ (g : Group) a, r { g with ops := a } = r g) (i : Instr) (c : Ctx) (d : Device) (o : Op) (j : Nat) : (Tbl.find (startOp i c d o).groups j).map r = (Tbl.find d.groups j).map r := view_modGroup r { d with nextId := d.nextId + 1 } _ _ _ fun _ => h _ _
/-- The operations after one has started. -/
theorem opsIn_startOp (i : Instr) (c : Ctx) (d : Device) (o : Op) : opsIn (startOp i c d o) c.gid = (opsIn d c.gid).map (· ++ [(startedOp i c o).unmarked]) := by
  rw [opsIn, startOp_eq, find_modGroup_same, opsIn, Option.map_map, Option.map_map]
  congr 1
  funext g
  simp
/-- The issuing split stands where it stood. -/
theorem stays_startOp {c x : Ctx} {d : Device} (i : Instr) (o : Op) (h : c.stays d) (hx : x.gid = c.gid) : c.stays (startOp i x d o) := by
  obtain ⟨g, sp, h1, h2⟩ := h
  refine ⟨{ g with ops := g.ops ++ [startedOp i x o] }, sp, ?_, h2⟩
  rw [startOp_eq, hx, find_modGroup_same]
  exact congrArg _ h1
/-- An operation that an instruction starts. -/
theorem retire_op {i : Instr} {s : State} {c : Ctx} {d : Device} {o : Op} (rs : Nat) (h : c.stays d) :
    Started s c d o rs { s with dev := retire i c (.op d o rs) } := by
  have hl : ∀ g : Group, g.landed c.k false RegWrites.none rs = { g.regs with rsCtr := g.rsCtr + BitVec.ofNat 64 rs } := by
    intro g
    rw [Group.landed, produce_plain _ _ _ _ rfl]
  have hs : ∀ j, regsOf ((startOp i c d o).modGroup c.gid fun g => modSplit g c.k fun sp => if o.closing.isSome then { sp with rest := none } else advance sp i (instrLen i)) j = regsOf d j := fun j =>
    (view_modSplit Group.regs (fun _ _ _ => rfl) _ _ _ _ _).trans (view_startOp Group.regs (fun _ _ => rfl) _ _ _ _ _)
  refine ⟨⟨rfl, rfl, rfl, ?_, ?_⟩, ?_, ?_, ?_, ?_⟩
  · apply rest_eq
    simp [retire]
  · intro j hj
    simp only [retire, regsOf_noteIssue, regsOf_noteArrival, regsOf_landResult, hj, if_false]
    exact hs j
  · simp [retire]
  · simp only [retire, regsOf_noteIssue, regsOf_noteArrival, regsOf_landResult, if_true, hl]
    exact (view_modSplit (fun g => ({ g.regs with rsCtr := g.rsCtr + BitVec.ofNat 64 rs } : Regs)) (fun _ _ _ => rfl) _ _ _ _ _).trans (view_startOp (fun g => ({ g.regs with rsCtr := g.rsCtr + BitVec.ofNat 64 rs } : Regs)) (fun _ _ => rfl) _ _ _ _ _)
  · refine ⟨(startedOp i c o).unmarked, ?_, rfl, rfl, rfl, rfl, rfl, rfl, rfl, rfl, rfl, rfl, rfl, rfl, rfl, rfl⟩
    simp only [retire, opsIn]
    rw [view_noteIssue (fun g => g.ops.map Op.unmarked) (fun _ _ _ _ => rfl) fun _ _ _ => rfl, view_noteArrival (fun g => g.ops.map Op.unmarked) fun _ _ _ _ => rfl]
    refine (ops_landResult _ _ _ _ _ _ _ _).trans ?_
    exact (view_modSplit (fun g => g.ops.map Op.unmarked) (fun _ _ _ => rfl) _ _ _ _ _).trans (opsIn_startOp i c d o)
  · apply standsAt_of
    simp only [retire]
    rw [view_noteIssue (fun g => g.stands c.k) (stands_modSplit c.k) fun _ _ _ => rfl, view_noteArrival (fun g => g.stands c.k) (stands_modSplit c.k), standsAt_landResult]
    have hs := stays_startOp i o h rfl
    split
    · obtain ⟨g, sp, h1, h2, h3, h4, -⟩ := hs
      rw [find_modGroup_same, h1]
      simp only [splitOf] at h2
      simp [Group.stands, splitOf, modSplit, find_modify_same, h2, Ctx.here, h3, h4]
    · exact advance_standsAt (c := c) i _ hs
/-- An operation that an instruction starts for some of its lanes. -/
theorem retire_part {i : Instr} {s : State} {c : Ctx} {d : Device} {o : Op} {rest : Mask} (h : c.stays d) : StartedPart s c d o rest { s with dev := retire i c (.part d o rest) } := by
  have hs := stays_startOp i o h rfl
  obtain ⟨g, sp, h1, h2, h3, h4, -⟩ := hs
  have hk : ∀ {α : Type} (r : Group → α) (_ : ∀ g k f, (∀ sp : Split, (f sp).pc = sp.pc ∧ (f sp).index = sp.index) → r (modSplit g k f) = r g) (_ : ∀ (g : Group) a b, r { g with lastIssue := a, yielded := b } = r g) j,
      (Tbl.find (retire i c (.part d o rest)).groups j).map r = (Tbl.find (startOp i c d o).groups j).map r := by
    intro α r ha hb j
    simp only [retire]
    rw [view_noteIssue r ha hb]
    exact view_modGroup r _ _ _ _ fun _ => ha _ _ _ fun _ => ⟨rfl, rfl⟩
  refine ⟨⟨rfl, rfl, rfl, ?_, ?_⟩, ?_, ?_, ?_, ?_, ?_⟩
  · apply rest_eq
    simp [retire]
  · intro j _
    exact (hk Group.regs regs_modSplit (fun _ _ _ => rfl) j).trans (view_startOp Group.regs (fun _ _ => rfl) _ _ _ _ _)
  · simp [retire]
  · exact (hk Group.regs regs_modSplit (fun _ _ _ => rfl) c.gid).trans (view_startOp Group.regs (fun _ _ => rfl) _ _ _ _ _)
  · refine ⟨(startedOp i c o).unmarked, ?_, rfl, rfl, rfl, rfl, rfl, rfl⟩
    exact (hk (fun g => g.ops.map Op.unmarked) (fun _ _ _ _ => rfl) (fun _ _ _ => rfl) c.gid).trans (opsIn_startOp i c d o)
  · apply standsAt_of
    rw [hk (fun g => g.stands c.k) (stands_modSplit c.k) (fun _ _ _ => rfl), h1]
    simp only [splitOf] at h2
    simp [Group.stands, splitOf, h2, Ctx.here, h3, h4]
  · have hr : (Tbl.find (retire i c (.part d o rest)).groups c.gid).map (fun g => (splitOf g c.k).map (·.rest)) = some (some (some rest)) := by
      simp only [retire, noteIssue]
      have hm : Tbl.find ((startOp i c d o).modGroup c.gid fun g => modSplit g c.k fun sp => { sp with rest := some rest }).groups c.gid = some (modSplit g c.k fun sp => { sp with rest := some rest }) := by
        rw [find_modGroup_same, h1]
        rfl
      rw [hm]
      simp only [find_mapVals, find_modGroup_same, hm, Option.map_some]
      simp only [splitOf] at h2
      split <;> simp [splitOf, modSplit, find_modify_same, h2]
    revert hr
    cases Tbl.find (retire i c (.part d o rest)).groups c.gid with
    | none => simp
    | some x =>
      simp only [Option.map_some, Option.some.injEq, Option.bind_some]
      cases splitOf x c.k <;> simp

/-! The forms of the meanings. -/

/-- The issuing split stands at its instruction in the device it issues from. -/
theorem ready_stays {i : Instr} {gd : Option Guard} {s : State} {c : Ctx} (h : ready i gd s = some c) : c.stays s.dev := by
  obtain ⟨-, -, h1, h2, -⟩ := ready_ctx h
  exact ⟨c.g, c.sp, h1, h2, rfl, rfl, rfl⟩
/-- A change that keeps the group's splits keeps the issuing split where it is. -/
theorem stays_modGroup {c : Ctx} {d : Device} {f : Group → Group} (hf : ∀ g, (f g).splits = g.splits) (h : c.stays d) : c.stays (d.modGroup c.gid f) := by
  obtain ⟨g, sp, h1, h2⟩ := h
  exact ⟨f g, sp, by rw [find_modGroup_same, h1]; rfl, by simpa only [splitOf, hf] using h2⟩
/-- A change beside the groups does. -/
theorem stays_of {c : Ctx} {d e : Device} (h : e.groups = d.groups) (hd : c.stays d) : c.stays e := by
  obtain ⟨g, sp, h1, h2⟩ := hd
  exact ⟨g, sp, by rw [h]; exact h1, h2⟩
/-- So do blocks that enter the written-block list. -/
theorem stays_noteBlocks {c : Ctx} {d : Device} {vas : List DWord} (h : c.stays d) : c.stays (noteBlocks d c.gid vas) := stays_modGroup (fun g => foldl_addBlock_splits vas g) h

/-! When an instruction completes. -/

/-- An instruction whose meaning has one result. -/
theorem lands_of {i : Instr} {gd : Option Guard} {tr : Bool} {w : Ctx → RegWrites} {rs : Nat} (h : ∀ s, exec i s = runCode i gd s (result w tr fun _ => rs)) (h1 : closesFirst i = false) (h2 : closesEarly i = false) (h3 : isHeldEffect i = false) : Lands i gd tr w rs := by
  intro s c hr
  refine ⟨_, (h s).trans (runCode_ok hr h1 h2 (.inl h3) rfl), ?_⟩
  rw [← (ready_ctx hr).2.1]
  exact retire_act _ _ _ ((ready_ctx hr).2.1 ▸ ready_stays hr)
/-- An instruction whose meaning starts one operation. -/
theorem begins_of {i : Instr} {gd : Option Guard} {o : Ctx → Op} {rs : Nat} (h : ∀ s, exec i s = runCode i gd s (fun _ => .ok fun c => .op c.d (o c) rs)) (h1 : closesFirst i = false) (h2 : closesEarly i = false) (h3 : isHeldEffect i = false) : Begins i gd o rs := by
  intro s c hr
  refine ⟨_, (h s).trans (runCode_ok hr h1 h2 (.inl h3) rfl), ?_⟩
  rw [← (ready_ctx hr).2.1]
  exact retire_op _ ((ready_ctx hr).2.1 ▸ ready_stays hr)
/-- What an instruction whose checks have passed does. -/
def okDone (c : Ctx) (r : Except Stop (Ctx → Done)) : Option Done := match r with | .ok f => some (f c) | .error _ => none
/-- Its checks have passed. -/
theorem okDone_spec {x : Ctx} {r : Except Stop (Ctx → Done)} {y : Done} (h : okDone x r = some y) : ∃ f, r = .ok f ∧ f x = y := by
  cases r with
  | error e => simp [okDone] at h
  | ok f => exact ⟨f, rfl, by simpa [okDone] using h⟩
/-- An instruction that starts an operation. -/
theorem completes_op {i : Instr} {gd : Option Guard} {s : State} {c : Ctx} {body : Ctx → Except Stop (Ctx → Done)} {d : Device} {o : Op} {rs : Nat} (hr : ready i gd s = some c) (he : exec i s = runCode i gd s body) (h1 : closesFirst i = false) (h2 : closesEarly i = false) (h3 : isHeldEffect i = false) (hb : okDone c (body c) = some (.op d o rs)) (hs : c.stays d) : Completes (exec i s) (Started s c d o rs) := by
  obtain ⟨f, hb, hf⟩ := okDone_spec hb
  refine ⟨_, he.trans (runCode_ok hr h1 h2 (.inl h3) hb), ?_⟩
  rw [hf]
  exact retire_op _ hs
/-- An instruction that completes at issue. -/
theorem completes_act {i : Instr} {gd : Option Guard} {s : State} {c : Ctx} {body : Ctx → Except Stop (Ctx → Done)} {d : Device} {w : RegWrites} {tr : Bool} {rs : Nat} (hr : ready i gd s = some c) (he : exec i s = runCode i gd s body) (h1 : closesFirst i = false) (h2 : closesEarly i = false) (h3 : isHeldEffect i = false ∨ room i c = true) (hb : okDone c (body c) = some (.act d w tr rs)) (hs : c.stays d) : Completes (exec i s) (Acted s c d tr w rs) := by
  obtain ⟨f, hb, hf⟩ := okDone_spec hb
  refine ⟨_, he.trans (runCode_ok hr h1 h2 h3 hb), ?_⟩
  rw [hf]
  exact retire_act _ _ _ hs

/-! Closing instructions (R128). -/

/-- A region without effects closes and opens again at its split's place. -/
theorem closeRegion_plain (clock : Nat) {g : Group} (h1 : g.effects = []) (h2 : g.handed = []) (k : Nat) : closeRegion clock false g k = g.reopened clock k := by
  cases g
  simp only at h1 h2
  subst h1 h2
  simp [closeRegion, Group.reopened, pastOp, modSplit, wholeRegion]
/-- The context of a closing instruction that issues in this step. -/
theorem closeHere_at {i : Instr} {c : Ctx} (hg : Tbl.find c.d.groups c.gid = some c.g) (hk : splitOf c.g c.k = some c.sp) (hi : ∀ d a, i ≠ .mig d a) (hi' : ∀ d a, i ≠ .migNear d a) (hc : c.clear = true) : closeHere i c = c.reopened ∧ c.reopened.sp.gone = false ∧ c.reopened.g.handed.isEmpty = true ∧ c.reopened.g.releases.isEmpty = true := by
  simp only [Ctx.clear, Bool.and_eq_true, List.isEmpty_iff, Bool.not_eq_true'] at hc
  obtain ⟨⟨⟨⟨⟨-, h1⟩, h2⟩, h3⟩, h4⟩, h5⟩ := hc
  have hgo : c.sp.gone = false := by
    simp only [List.any_eq_false] at h5
    simpa using h5 _ (mem_of_find hk)
  have e := closeRegion_plain c.d.clock h1 h2 c.k
  have e3 : closeHere i c = c.refresh (c.d.modGroup c.gid fun g => closeRegion c.d.clock (closing c.d g) g c.k) := by
    simp only [closeHere]
    rfl
  have e4 : (c.d.modGroup c.gid fun g => closeRegion c.d.clock (closing c.d g) g c.k) = c.d.modGroup c.gid (Group.reopened c.d.clock c.k) := by
    simp only [Device.modGroup]
    rw [modify_congr hg]
    rw [h4, e]
  refine ⟨?_, hgo, by simpa [Ctx.reopened, Group.reopened, modSplit] using h2, by simpa [Ctx.reopened, Group.reopened, modSplit] using h3⟩
  rw [e3, e4]
  simp only [Ctx.refresh, find_modGroup_same, hg, Option.map_some, Option.getD_some, Ctx.reopened]
  simp only [splitOf] at hk
  simp [splitOf, Group.reopened, modSplit, find_modify_same, hk, wholeRegion]
/-- The context of a closing instruction that issues in this step. -/
theorem closeHere_clear {i : Instr} {gd : Option Guard} {s : State} {c : Ctx} (hr : ready i gd s = some c) (hi : ∀ d a, i ≠ .mig d a) (hi' : ∀ d a, i ≠ .migNear d a) (hc : c.clear = true) : closeHere i c = c.reopened ∧ c.reopened.sp.gone = false ∧ c.reopened.g.handed.isEmpty = true ∧ c.reopened.g.releases.isEmpty = true := by
  obtain ⟨-, hd, hg, hk, -⟩ := ready_ctx hr
  rw [← hd] at hg
  exact closeHere_at hg hk hi hi' hc
/-- A split that may close stands at an instruction it has not issued for some of its lanes. -/
theorem clear_rest {c : Ctx} (hc : c.clear = true) : c.sp.rest = none := by
  simp only [Ctx.clear, Bool.and_eq_true, Option.isNone_iff_eq_none] at hc
  exact hc.1.1.1.1.1
/-- A closing instruction that issues in this step. -/
theorem runCode_closing {i : Instr} {gd : Option Guard} {s : State} {c : Ctx} {body : Ctx → Except Stop (Ctx → Done)} {f : Ctx → Done} (hr : ready i gd s = some c) (hi : ∀ d a, i ≠ .mig d a) (hi' : ∀ d a, i ≠ .migNear d a) (h1 : closesFirst i = true) (h2 : closesEarly i = false) (h3 : isHeldEffect i = false) (hc : c.clear = true) (hb : body c = .ok f) :
    runCode i gd s body = .next { s with dev := retire i c.reopened (f c.reopened) } := by
  obtain ⟨ht, hx, hg, hw⟩ := ready_spec hr
  obtain ⟨e1, e2, e3, e4⟩ := closeHere_clear hr hi hi' hc
  simp [runCode, ht, hx, issue, hg, hw, h1, h2, h3, hb, e1, e2, e3, e4, clear_rest hc]
/-- A closing instruction that issues for the rest of its lanes: its region is closed already (R128, R278). -/
theorem runCode_rest {i : Instr} {gd : Option Guard} {s : State} {c : Ctx} {body : Ctx → Except Stop (Ctx → Done)} {f : Ctx → Done} (hr : ready i gd s = some c) (h2 : closesEarly i = false) (h3 : isHeldEffect i = false) (hn : c.sp.rest ≠ none) (hb : body c = .ok f) :
    runCode i gd s body = .next { s with dev := retire i c (f c) } := by
  obtain ⟨ht, hx, hg, hw⟩ := ready_spec hr
  have hn : c.sp.rest.isNone = false := by cases h : c.sp.rest <;> simp_all
  simp [runCode, ht, hx, issue, hg, hw, h2, h3, hb, hn]
/-- The issuing split stands at its instruction when its region has closed. -/
theorem reopened_stays {i : Instr} {gd : Option Guard} {s : State} {c : Ctx} (hr : ready i gd s = some c) : c.stays c.reopened.d := by
  obtain ⟨-, hd, hg, hk, -⟩ := ready_ctx hr
  rw [← hd] at hg
  refine ⟨c.g.reopened c.d.clock c.k, { c.sp with region := wholeRegion c.d.clock c.g c.sp }, ?_, ?_, rfl, rfl, rfl⟩
  · simp only [Ctx.reopened]
    rw [find_modGroup_same, hg]
    rfl
  · simp only [splitOf] at hk
    simp [splitOf, Group.reopened, modSplit, find_modify_same, hk]
/-- A closing instruction whose operation has started. -/
theorem closing_op {i : Instr} {gd : Option Guard} {s : State} {c : Ctx} {body : Ctx → Except Stop (Ctx → Done)} {f : Ctx → Done} {d : Device} {o : Op} {rs : Nat} (hr : ready i gd s = some c) (he : exec i s = runCode i gd s body) (hi : ∀ d a, i ≠ .mig d a) (hi' : ∀ d a, i ≠ .migNear d a) (h1 : closesFirst i = true) (h2 : closesEarly i = false) (h3 : isHeldEffect i = false) (hc : c.clear = true) (hb : body c = .ok f) (hf : f c.reopened = .op d o rs) (hs : c.stays d) : Completes (exec i s) (Started s c d o rs) := by
  refine ⟨_, he.trans (runCode_closing hr hi hi' h1 h2 h3 hc hb), ?_⟩
  rw [hf]
  exact retire_op (c := c.reopened) _ hs
/-- A closing instruction whose operation for some of its lanes has started. -/
theorem closing_part {i : Instr} {gd : Option Guard} {s : State} {c : Ctx} {body : Ctx → Except Stop (Ctx → Done)} {f : Ctx → Done} {d : Device} {o : Op} {rest : Mask} (hr : ready i gd s = some c) (he : exec i s = runCode i gd s body) (hi : ∀ d a, i ≠ .mig d a) (hi' : ∀ d a, i ≠ .migNear d a) (h1 : closesFirst i = true) (h2 : closesEarly i = false) (h3 : isHeldEffect i = false) (hc : c.clear = true) (hb : body c = .ok f) (hf : f c.reopened = .part d o rest) (hs : c.stays d) : Completes (exec i s) (StartedPart s c d o rest) := by
  refine ⟨_, he.trans (runCode_closing hr hi hi' h1 h2 h3 hc hb), ?_⟩
  rw [hf]
  exact retire_part (c := c.reopened) hs
/-- A closing instruction that completes at issue. -/
theorem closing_act {i : Instr} {gd : Option Guard} {s : State} {c : Ctx} {body : Ctx → Except Stop (Ctx → Done)} {f : Ctx → Done} {d : Device} {w : RegWrites} {tr : Bool} {rs : Nat} (hr : ready i gd s = some c) (he : exec i s = runCode i gd s body) (hi : ∀ d a, i ≠ .mig d a) (hi' : ∀ d a, i ≠ .migNear d a) (h1 : closesFirst i = true) (h2 : closesEarly i = false) (h3 : isHeldEffect i = false) (hc : c.clear = true) (hb : body c = .ok f) (hf : f c.reopened = .act d w tr rs) (hs : c.stays d) : Completes (exec i s) (Acted s c d tr w rs) := by
  refine ⟨_, he.trans (runCode_closing hr hi hi' h1 h2 h3 hc hb), ?_⟩
  rw [hf]
  exact retire_act (c := c.reopened) _ _ _ hs

/-! Held effects (R126). -/

/-- Acting on a device that differs only where registers, places and operations do not show. -/
theorem Acted.of_same {s : State} {c : Ctx} {d d' : Device} {tr : Bool} {w : RegWrites} {rs : Nat} {t : State} (h : Acted s c d' tr w rs t) (hr : d'.rest = d.rest) (hn : d'.nextId = d.nextId)
    (hg : ∀ j, regsOf d' j = regsOf d j) (hl : (Tbl.find d'.groups c.gid).map (fun g => g.landed c.k tr w rs) = (Tbl.find d.groups c.gid).map fun g => g.landed c.k tr w rs) : Acted s c d tr w rs t := by
  obtain ⟨⟨h1, h2, h3, h4, h5⟩, h6, h7, h8⟩ := h
  refine ⟨⟨h1, h2, h3, ?_, fun j hj => (h5 j hj).trans (hg j)⟩, h6.trans hn, h7.trans hl, h8⟩
  apply rest_eq
  rw [h4, ← hr]
  rfl
/-- Without a result and an advance of `rs.ctr`, only the registers matter. -/
theorem landed_plain (g : Group) (k : Nat) : g.landed k false RegWrites.none 0 = g.regs := by
  rw [Group.landed, produce_plain _ _ _ _ rfl]
  simp [Group.regs]
/-- Closing no other split's region. -/
theorem closeOthers_none (clock : Nat) (cl : Bool) (g : Group) (k : Nat) (hit : Region → Bool) (h : ∀ r, hit r = false) : closeOthers clock cl g k hit = g := by
  simp only [closeOthers]
  generalize Tbl.keys g.splits = l
  have : ∀ (l : List Nat) (x : Group), l.foldl (fun g j => match splitOf g j with
      | some sp => if j ≠ k && hit sp.region then closeRegion clock cl g j else g
      | none => g) x = x := by
    intro l
    induction l with
    | nil => intro x; rfl
    | cons y t ih =>
      intro x
      rw [List.foldl_cons]
      have : (match splitOf x y with
        | some sp => if y ≠ k && hit sp.region then closeRegion clock cl x y else x
        | none => x) = x := by
        split
        · simp [h]
        · rfl
      rw [this, ih]
  exact this l g
/-- A result that writes nothing closes no region. -/
theorem landResult_plain (d : Device) (gid k : Nat) : (Tbl.find (landResult d gid k RegWrites.none false 0 false).groups gid).map (·.effects) = (Tbl.find d.groups gid).map (·.effects) := by
  cases hg : Tbl.find d.groups gid with
  | none => simp [landResult, hg]
  | some g =>
    simp only [landResult, hg]
    rw [find_modGroup_same, hg]
    simp only [Option.map_some]
    split
    · simp [RegWrites.none]
    · rw [closeOthers_none _ _ _ _ _ (by intro r; simp [RegWrites.none])]
      simp [RegWrites.none, hitsLiveIn]
      cases splitOf g k <;> simp
/-- A held effect enters the buffer. -/
theorem completes_held {i : Instr} {gd : Option Guard} {s : State} {c : Ctx} {body : Ctx → Except Stop (Ctx → Done)} {d e : Device} {es : List Effect} (hr : ready i gd s = some c) (he : exec i s = runCode i gd s body) (h1 : closesFirst i = false) (h2 : closesEarly i = false) (h3 : closesAfter i = false) (h4 : isHeldEffect i = false ∨ room i c = true) (hb : okDone c (body c) = some (.act e RegWrites.none false 0))
    (hd : e = d.modGroup c.gid fun g => { g with effects := g.effects ++ es }) (hs : c.stays d) (hf : (Tbl.find d.groups c.gid).map (·.effects) = some c.g.effects) : Completes (exec i s) (Held s c d es) := by
  subst hd
  obtain ⟨f, hb, hf'⟩ := okDone_spec hb
  refine ⟨_, he.trans (runCode_ok hr h1 h2 h4 hb), ?_⟩
  rw [hf']
  refine ⟨(retire_act RegWrites.none false 0 (stays_modGroup (f := fun g => { g with effects := g.effects ++ es }) (fun _ => rfl) hs)).of_same rfl rfl ?_ ?_, ?_⟩
  · intro j
    exact view_modGroup Group.regs _ _ _ _ fun _ => rfl
  · simp only [landed_plain]
    exact view_modGroup Group.regs _ _ _ _ fun _ => rfl
  · simp only [retire, h3, h1, Bool.false_and, Bool.false_eq_true, if_false]
    rw [view_noteIssue (fun g => g.effects) (fun _ _ _ _ => rfl) fun _ _ _ => rfl, view_noteArrival (fun g => g.effects) fun _ _ _ _ => rfl, landResult_plain]
    have hv : ∀ x : Device, (Tbl.find (x.modGroup c.gid fun g => modSplit g c.k fun sp => advance sp i (instrLen i)).groups c.gid).map (·.effects) = (Tbl.find x.groups c.gid).map (·.effects) := fun x => view_modGroup (fun g => g.effects) _ _ _ _ fun _ => rfl
    rw [hv, find_modGroup_same, Option.map_map]
    revert hf
    cases Tbl.find d.groups c.gid <;> simp

/-! Waits, transfers and several operations. -/

/-- An instruction that waits. -/
theorem completes_wait {i : Instr} {gd : Option Guard} {s : State} {c : Ctx} {body : Ctx → Except Stop (Ctx → Done)} {d : Device} {g : Group} {w : WaitFor} (hr : ready i gd s = some c) (he : exec i s = runCode i gd s body) (h1 : closesFirst i = false) (h2 : closesEarly i = false) (h3 : isHeldEffect i = false) (hb : okDone c (body c) = some (.wait d)) (hs : c.stays d) (hg : Tbl.find d.groups c.gid = some g) (hw : g.wait = some w) : Completes (exec i s) (Waits s c d w) := by
  obtain ⟨f, hb, hf⟩ := okDone_spec hb
  refine ⟨_, he.trans (runCode_ok hr h1 h2 (.inl h3) hb), ?_⟩
  rw [hf]
  exact retire_wait hs hg hw
/-- A wait begins on a group of the device: its splits stay, and it waits. -/
theorem beginWait_group {c : Ctx} {d : Device} (w : WaitFor) (kind : Nat) (n : Word) (t : Nat) (o e : DWord) (h : c.stays d) : c.stays (beginWait d c.gid w kind n t o e) ∧ ∃ g, Tbl.find (beginWait d c.gid w kind n t o e).groups c.gid = some g ∧ g.wait = some w := by
  obtain ⟨g, sp, h1, h2, h3⟩ := h
  have e1 : Tbl.find (beginWait d c.gid w kind n t o e).groups c.gid = some { emptyBypass g with state := .waiting, wait := some w } := by
    simp only [beginWait, h1]
    exact (find_modGroup_same d c.gid fun g => { emptyBypass g with state := .waiting, wait := some w }).trans (by rw [h1]; rfl)
  refine ⟨⟨_, { sp with bypass := [] }, e1, ?_, h3⟩, _, e1, rfl⟩
  simp only [splitOf] at h2
  simp [splitOf, emptyBypass, h2]
/-- A mark of a closed region is made once. -/
theorem pastOp_twice (k : Nat) (l : List Op) : (l.map (pastOp k)).map (pastOp k) = l.map (pastOp k) := by
  rw [List.map_map]
  congr 1
  funext o
  simp only [Function.comp_apply, pastOp]
  split <;> simp_all
/-- A region that has just been opened closes and opens as it is. -/
theorem Group.reopened_twice (clock k : Nat) (g : Group) : (g.reopened clock k).reopened clock k = g.reopened clock k := by
  simp only [Group.reopened, modSplit, pastOp_twice]
  congr 1
  exact modify_twice _ _ _ _ _ fun _ => rfl
theorem reopened_twice (c : Ctx) : c.reopened.reopened = c.reopened := by
  have e2 : (c.d.modGroup c.gid (Group.reopened c.d.clock c.k)).modGroup c.gid (Group.reopened c.d.clock c.k) = c.d.modGroup c.gid (Group.reopened c.d.clock c.k) := by
    simp only [Device.modGroup]
    congr 1
    exact modify_twice _ _ _ _ _ fun g => Group.reopened_twice _ _ g
  simp only [Ctx.reopened, Ctx.mk.injEq, true_and]
  exact ⟨e2, Group.reopened_twice _ _ _, rfl, trivial⟩
/-- `lk` and `lktry` issue in this step (R255). -/
theorem runCode_lock {i : Instr} {gd : Option Guard} {s : State} {c : Ctx} {body : Ctx → Except Stop (Ctx → Done)} {f : Ctx → Done} (hr : ready i gd s = some c) (h1 : closesFirst i = true) (h2 : closesEarly i = true) (h3 : isHeldEffect i = false) (hc : c.clear = true) (hb : body c.reopened = .ok f) :
    runCode i gd s body = .next { s with dev := retire i c.reopened (f c.reopened) } := by
  have hi : (∀ d a, i ≠ .mig d a) ∧ ∀ d a, i ≠ .migNear d a := by
    constructor <;> (intro d a h; subst h; simp [closesEarly] at h2)
  obtain ⟨ht, hx, hg, hw⟩ := ready_spec hr
  obtain ⟨-, hd, hg', hk, -⟩ := ready_ctx hr
  rw [← hd] at hg'
  obtain ⟨e1, e2, e3, e4⟩ := closeHere_clear hr hi.1 hi.2 hc
  have hf : Tbl.find c.reopened.d.groups c.reopened.gid = some c.reopened.g := by
    simp only [Ctx.reopened]
    rw [find_modGroup_same, hg']
    rfl
  have hsp : splitOf c.reopened.g c.reopened.k = some c.reopened.sp := by
    simp only [splitOf] at hk
    simp [Ctx.reopened, splitOf, Group.reopened, modSplit, find_modify_same, hk]
  have hcl : c.reopened.clear = true := by
    simp only [Ctx.clear, Bool.and_eq_true, List.isEmpty_iff, Bool.not_eq_true'] at hc ⊢
    obtain ⟨⟨⟨⟨⟨k0, k1⟩, k2⟩, k3⟩, k4⟩, k5⟩ := hc
    refine ⟨⟨⟨⟨⟨k0, k1⟩, k2⟩, k3⟩, k4⟩, ?_⟩
    simp only [List.any_eq_false] at k5 ⊢
    intro x hx
    obtain ⟨y, hy, he⟩ := mem_modify hx
    rcases he with rfl | he
    · exact k5 _ hy
    · rw [he]
      exact k5 (y.1, y.2) hy
  obtain ⟨f1, -⟩ := closeHere_at hf hsp hi.1 hi.2 hcl
  rw [reopened_twice] at f1
  simp [runCode, ht, hx, issue, hg, hw, h1, h2, h3, hb, e1, e2, e3, e4, f1, clear_rest hcl]
end Sys2Proof.Machine
end

