-- ==== Sys2Proof/Laws/Access.lean ====
section
/-! SUPPORT. What the checks of accesses answer where they pass: the places of the lanes, of window offsets, of ranges, of locks and of remote lanes. -/

namespace Sys2Proof.Machine
open Sys2Proof

/-! Lanes. -/

/-- An access that passes its checks is at its place. -/
theorem placeLane_ok {c : Ctx} {acc : Access} {align : Nat} {own : Leaf → Option ExcCode} {lane : Nat} {va : DWord} (h : c.passes acc align own [(lane, va)] = true) :
    placeLane c acc align own lane va = .ok (c.placeAt acc (lane, va)) := by
  simp only [Ctx.passes, List.all_cons, List.all_nil, Bool.and_true, Bool.and_eq_true, decide_eq_true_eq] at h
  obtain ⟨⟨h1, h2⟩, h3⟩ := h
  have h1 : ¬(va.toNat / 2 ^ 48 ≠ 0) := by omega
  simp only [placeLane, h1, h2, ne_eq, not_true_eq_false, if_false, Ctx.placeAt]
  split at h3
  · rename_i hx
    rw [hx]
    simp only [Option.isNone_iff_eq_none] at h3
    simp [h3]
  · simp at h3
/-- Accesses that pass are each at its place. -/
theorem placeLanes_ok {c : Ctx} {acc : Access} {align : Nat} {own : Leaf → Option ExcCode} {es : List (Nat × DWord)} (h : c.passes acc align own es = true) :
    placeLanes c acc align own es = .ok (es.map (c.placeAt acc)) := by
  induction es with
  | nil => rfl
  | cons x t ih =>
    have h1 : c.passes acc align own [x] = true := by
      simp only [Ctx.passes, List.all_cons, List.all_nil, Bool.and_true, Bool.and_eq_true] at h ⊢
      exact h.1
    have h2 : c.passes acc align own t = true := by
      simp only [Ctx.passes, List.all_cons, Bool.and_eq_true] at h ⊢
      exact h.2
    simp [placeLanes, placeLane_ok h1, ih h2]
/-- Offsets in the window pass. -/
theorem windowLanes_ok {c : Ctx} {n : Nat} {es : List (Nat × Nat)} (h : c.inWindow n es = true) : windowLanes c n es = .ok es := by
  induction es with
  | nil => rfl
  | cons x t ih =>
    simp only [Ctx.inWindow, List.all_cons, Bool.and_eq_true, decide_eq_true_eq] at h ih
    have : ¬ c.team.windowSize ≤ x.2 := by omega
    simp [windowLanes, h.1.1, this, ih h.2]
/-- Remote lanes that pass raise nothing. -/
theorem remoteCheck_none {c : Ctx} {a : Reg} {off : MOff} {n : Nat} (h : c.remotePasses a off n = true) : remoteCheck c a off n (lanesOf c.lanes) = none := by
  simp only [Ctx.remotePasses] at h
  revert h
  generalize lanesOf c.lanes = ls
  induction ls with
  | nil => intro _; rfl
  | cons l t ih =>
    intro h
    simp only [List.all_cons, Bool.and_eq_true, decide_eq_true_eq] at h
    obtain ⟨⟨⟨h1, h2⟩, h3⟩, h4⟩ := h
    have h1 : (remoteAddr c off l).toNat / 2 ^ 48 = 0 := Nat.div_eq_of_lt h1
    have h3 : ¬ 512 ≤ remotePeer c a l := by omega
    simp only [remoteCheck, h1, h2, h3, ne_eq, not_true_eq_false, if_false, ih h4]

/-! Ranges. -/

/-- Ranges that pass are each at its places. -/
theorem checkRanges_ok {c : Ctx} {acc : Access} {own : Leaf → Option ExcCode} {ss : List Span} (h : c.rangesPass acc own ss = true) : checkRanges c acc own ss = .ok (c.rangesAt acc ss) := by
  simp only [checkRanges, Ctx.rangesPass, Ctx.rangesAt, spanParts] at h ⊢
  revert h
  generalize sortBy (fun (x y : Span) => decide (x.va.toNat ≤ y.va.toNat)) (spanChunks ss) = l
  induction l with
  | nil => intro _; rfl
  | cons x t ih =>
    intro h
    have h1 : c.passes acc 1 own [(x.lane.getD 0, x.va)] = true := by
      simp only [Ctx.passes, List.map_cons, List.all_cons, List.all_nil, Bool.and_true, Bool.and_eq_true] at h ⊢
      exact h.1
    have h2 : c.passes acc 1 own (t.map fun x => (x.lane.getD 0, x.va)) = true := by
      simp only [Ctx.passes, List.map_cons, List.all_cons, Bool.and_eq_true] at h ⊢
      exact h.2
    simp [checkSpans, placeSpan, placeLane_ok h1, ih h2]
/-- Ranges of the window that no copy holds pass. -/
theorem windowSpans_none {c : Ctx} {store : Bool} {ss : List Span} (h : c.windowFree store ss = true) : windowSpans c store ss = none := by
  simp only [Ctx.windowFree, spanParts, Bool.and_eq_true] at h
  obtain ⟨h1, h2⟩ := h
  have e : (sortBy (fun (x y : Span) => decide (x.va.toNat ≤ y.va.toNat)) (spanChunks ss)).find? (fun s => decide (c.team.windowSize < s.va.toNat + s.len)) = none := by
    rw [List.find?_eq_none]
    intro x hx
    have := List.all_eq_true.1 h1 x hx
    simp only [decide_eq_true_eq] at this ⊢
    omega
  have e2 : ss.any (fun s => windowBusy c store s.va.toNat s.len) = false := by
    rw [List.any_eq_false]
    intro x hx
    have := List.all_eq_true.1 h2 x hx
    simpa using this
  simp [windowSpans, e, e2]
/-- Settled parts do not wait. -/
theorem spansWait_none {c : Ctx} {ps : List (Span × Place)} (h : c.settled (ps.map fun p => (p.2, p.1.len)) = true) : spansWait c ps = none := by
  simp only [Ctx.settled, List.all_map, List.all_eq_true, Function.comp_apply, Bool.and_eq_true, Bool.not_eq_true'] at h
  have e1 : ps.any (fun p => overlapsSent c.g p.2.pa p.1.len) = false := by
    rw [List.any_eq_false]
    intro x hx
    simp [(h x hx).1]
  have e2 : ps.any (fun p => pendingRed c.d c.g p.2.pa p.1.len) = false := by
    rw [List.any_eq_false]
    intro x hx
    simp [(h x hx).2]
  simp [spansWait, e1, e2]

/-! Locks. -/

/-- A group whose held lines lie below an address has its highest below it. -/
theorem topLine_below {g : Group} {b : DWord} (h : (g.lockVas.all fun x => decide (x.2.toNat < b.toNat)) = true) : ∀ top, topLine g = some top → top.toNat < b.toNat := by
  simp only [topLine]
  have key : ∀ (l : List (Nat × DWord)) (o : Option DWord), (∀ x ∈ l, x.2.toNat < b.toNat) → (∀ y, o = some y → y.toNat < b.toNat) →
      ∀ top, l.foldl (fun b x => match b with | none => some x.2 | some y => if y.toNat < x.2.toNat then some x.2 else some y) o = some top → top.toNat < b.toNat := by
    intro l
    induction l with
    | nil => intro o _ ho top ht; exact ho _ ht
    | cons x t ih =>
      intro o hl ho top ht
      refine ih _ (fun y hy => hl y (List.mem_cons_of_mem _ hy)) ?_ top ht
      intro y hy
      cases o with
      | none =>
        simp only [Option.some.injEq] at hy
        exact hy ▸ hl x (List.mem_cons_self ..)
      | some z =>
        simp only at hy
        split at hy <;> simp only [Option.some.injEq] at hy
        · exact hy ▸ hl x (List.mem_cons_self ..)
        · exact hy ▸ ho z rfl
  exact key _ _ (by simpa using h) (by simp)
/-- A lock instruction that may ask for its line reaches it. -/
theorem lockPlace_ok {ordered : Bool} {a : Reg} {c : Ctx} (h : c.mayLock ordered (globalEa c.g c.sp a (.none false) 0) = true) :
    lockPlace ordered a c = .ok (c.placeAt .store (0, globalEa c.g c.sp a (.none false) 0)) := by
  simp only [Ctx.mayLock, Bool.and_eq_true, decide_eq_true_eq, Bool.or_eq_true, Bool.not_eq_true'] at h
  obtain ⟨⟨⟨h1, h2⟩, h3⟩, h4⟩ := h
  have h2 : ¬ 4 ≤ c.g.locks.length := by omega
  have hp : wholeGroup (placeLane c .store 64 lockPage 0 (globalEa c.g c.sp a (.none false) 0)) = .ok (c.placeAt .store (0, globalEa c.g c.sp a (.none false) 0)) := by
    rw [placeLane_ok h4]
    rfl
  simp only [lockPlace, h1, h2, ne_eq, not_true_eq_false, if_false]
  split
  · rename_i top ht
    split at ht
    · rename_i ho
      have : top.toNat < (globalEa c.g c.sp a (.none false) 0).toNat := topLine_below (by simpa [ho] using h3) top ht
      have : ¬ (globalEa c.g c.sp a (.none false) 0).toNat ≤ top.toNat := by omega
      simp only [this, if_false]
      exact hp
    · simp at ht
  · exact hp
/-- Closing a region changes no check of a lock. -/
theorem mayLock_reopened (c : Ctx) (ordered : Bool) (a : Reg) : c.reopened.mayLock ordered (globalEa c.reopened.g c.reopened.sp a (.none false) 0) = c.mayLock ordered (globalEa c.g c.sp a (.none false) 0) := rfl

end Sys2Proof.Machine
end

