-- ==== Sys2Proof/Laws/Encoding.lean ====
section
/-! SUPPORT. Codes read back: each operand, modifier and field code names again what it was made from, so that the fields of an instruction give the instruction. -/

namespace Sys2Proof

/-! Registers, guards, predicates. -/

@[simp] theorem Reg.ofCode_code (r : Reg) : Reg.ofCode r.code = r := by
  cases r with
  | v n => revert n; decide +kernel
  | s n => revert n; decide
@[simp] theorem sOf_sCode (n : SReg) : sOf (sCode n) = n := by revert n; decide
@[simp] theorem vOf_num8 (n : VReg) : vOf (num8 n.val) = n := by revert n; decide +kernel
@[simp] theorem vOf_ofNat (n : VReg) : vOf (BitVec.ofNat 8 n.val) = n := by revert n; decide +kernel
@[simp] theorem low8_num8 (n : PReg) : low 8 (num8 n.val) = n := by revert n; decide
@[simp] theorem low16_num8 (n : TileNo) : low 16 (num8 n.val) = n := by revert n; decide
@[simp] theorem low32_num8 (n : Fin 32) : low 32 (num8 n.val) = n := by revert n; decide
@[simp] theorem low4_num8 (n : ShapeNo) : low 4 (num8 n.val) = n := by revert n; decide
@[simp] theorem fin4_num8 (n : ShapeNo) : Fin.ofNat 4 (num8 n.val).toNat = n := by revert n; decide
@[simp] theorem fin16_ofNat (n : TimelineNo) : Fin.ofNat 16 (BitVec.ofNat 4 n.val).toNat = n := by revert n; decide
@[simp] theorem guardOf_guardCode (g : Option Guard) : guardOf (guardCode g) = g := by
  cases g with
  | none => rfl
  | some g =>
    obtain ⟨b, p⟩ := g
    revert b p
    decide
@[simp] theorem PSel.ofCode_code (p : PSel) : PSel.ofCode p.code = p := by
  obtain ⟨b, p⟩ := p
  revert b p
  decide
@[simp] theorem sdOf_sdCode (d : Option SReg) : sdOf (sdCode d) = d := by
  cases d with
  | none => rfl
  | some n => revert n; decide

/-! Modifiers. -/

@[simp] theorem Ty.ofCode_code (t : Ty) : Ty.ofCode t.code = t := by cases t <;> rfl
@[simp] theorem Rnd.ofCode_code (r : Rnd) : Rnd.ofCode r.code = r := by cases r <;> rfl
@[simp] theorem Part.ofCode_code (p : Part) : Part.ofCode p.code = p := by cases p <;> rfl
@[simp] theorem Size.ofCode_code (z : Size) : Size.ofCode z.code = z := by cases z <;> rfl
@[simp] theorem Policy.ofCode_code (p : Policy) : Policy.ofCode p.code = p := by cases p <;> rfl
@[simp] theorem FenceSem.ofCode_code (m : FenceSem) : FenceSem.ofCode m.code = m := by cases m <;> rfl
@[simp] theorem Scope.ofCode_code (x : Scope) : Scope.ofCode x.code = x := by cases x <;> rfl
@[simp] theorem CopyDir.ofCode_code (x : CopyDir) : CopyDir.ofCode x.code = x := by cases x <;> rfl
@[simp] theorem AtomOp.byNum_num (o : AtomOp) : AtomOp.byNum (o.num % 8) = o := by cases o <;> rfl
@[simp] theorem RedOp.byNum_num8 (o : RedOp) : RedOp.byNum (num8 o.num).toNat = o := by cases o <;> rfl
@[simp] theorem RedOp.byNum_num3 (o : RedOp) : RedOp.byNum (o.num % 8) = o := by cases o <;> rfl
@[simp] theorem VoteMode.byNum_num8 (m : VoteMode) : VoteMode.byNum (num8 m.num).toNat = m := by cases m <;> rfl
@[simp] theorem Comb.byNum_code (b : Comb) (o : Cond) : Comb.byNum ((b.code ++ o.code).toNat >>> 4 % 16) = b := by cases b <;> cases o <;> rfl
@[simp] theorem Cond.byNum_code (b : Comb) (o : Cond) : Cond.byNum ((b.code ++ o.code).toNat % 16) = o := by cases b <;> cases o <;> rfl

/-! Operands. -/

@[simp] theorem Opd.of_field (o : Opd) : Opd.of o.field o.reuse o.litOf = o := by cases o <;> simp [Opd.field, Opd.reuse, Opd.litOf, Opd.of]
@[simp] theorem regOpd_code (r : RegOpd) : regOpd r.reg.code r.reuse = r := by simp [regOpd]
@[simp] theorem SL.of_field (o : SL) : SL.of o.field o.litOf = o := by cases o <;> simp [SL.field, SL.litOf, SL.of]
/-- The offset of a long format that was made with one; `k` is what `aux` holds besides the kind. -/
theorem MOff.of_field (k : BitVec 3) (hk : k = 0 ∨ k = 4) (m : MOff) : MOff.of (k ||| m.kind) m.field m.reuse m.litOf = m := by
  obtain rfl | rfl := hk <;> cases m <;> simp [MOff.field, MOff.reuse, MOff.litOf, MOff.of, MOff.kind]
@[simp] theorem MOff.of_kind (m : MOff) : MOff.of m.kind m.field m.reuse m.litOf = m := by simpa using MOff.of_field 0 (.inl rfl) m

/-! Fields that span others. -/

/-- A table of 8 bits put into `sat`, `sub` and `mod`. -/
theorem table_parts (t : BitVec 8) : bit1 (t.getLsbD 7) ++ t.extractLsb' 3 4 ++ t.extractLsb' 0 3 = t := by revert t; decide
/-- A number of 16 bits put into fields a and b. -/
theorem half_parts (n : Half) : n.extractLsb' 8 8 ++ n.extractLsb' 0 8 = n := by
  ext i hi
  simp only [BitVec.getElem_append, BitVec.getElem_extractLsb']
  split
  · simp [BitVec.getLsbD_eq_getElem hi]
  · rw [BitVec.getLsbD_eq_getElem (by omega)]
    congr 1
    omega
/-- A branch offset put into the upper fields of word 1. -/
theorem off_parts (o : BitVec 30) : o.extractLsb' 27 3 ++ bit1 (o.getLsbD 26) ++ bit1 (o.getLsbD 25) ++ bit1 (o.getLsbD 24) ++ o.extractLsb' 16 8 ++ o.extractLsb' 8 8 ++ o.extractLsb' 0 8 = o := by
  ext i hi
  simp only [bit1, BitVec.getElem_append, BitVec.getElem_extractLsb', BitVec.getElem_ofBool]
  repeat' split
  all_goals first
    | (have : i = 24 := by omega
       subst this; rfl)
    | (have : i = 25 := by omega
       subst this; rfl)
    | (have : i = 26 := by omega
       subst this; rfl)
    | (rw [BitVec.getLsbD_eq_getElem (by omega)]; congr 1; omega)

/-! Codes of a field that holds several. -/

@[simp] theorem cvt_type (e : Fin 8) (t : Ty) : Ty.ofCode ((0#1 ++ BitVec.ofNat 3 e.val ++ t.code).extractLsb' 0 4) = t := by cases t <;> revert e <;> decide
@[simp] theorem cvt_elem (e : Fin 8) (t : Ty) : Fin.ofNat 8 ((0#1 ++ BitVec.ofNat 3 e.val ++ t.code).extractLsb' 4 3).toNat = e := by cases t <;> revert e <;> decide
@[simp] theorem cvtPk_type (t : Ty) : Ty.ofCode ((0#4 ++ t.code).extractLsb' 0 4) = t := by cases t <;> rfl
@[simp] theorem bit0_num8 (b : Bool) : (num8 b.toNat).getLsbD 0 = b := by cases b <;> rfl
@[simp] theorem shape_shCode (sh : ShapeNo) (one : Bool) : Fin.ofNat 4 (shCode sh one).toNat = sh := by revert sh one; decide
@[simp] theorem one_shCode (sh : ShapeNo) (one : Bool) : (shCode sh one).getLsbD 2 = one := by revert sh one; decide
theorem tile_enabled (e : Bool) (t : TileNo) : (0#3 ++ bit1 e ++ BitVec.ofNat 4 t.val).getLsbD 4 = e ∧ low 16 (0#3 ++ bit1 e ++ BitVec.ofNat 4 t.val) = t := by revert e t; decide
/-- The code of a ragged reduction (R313). -/
def ragCode (pn : PReg) (en seq one : Bool) (sh : ShapeNo) : BitVec 8 := BitVec.ofNat 3 pn.val ++ bit1 en ++ bit1 seq ++ bit1 one ++ BitVec.ofNat 2 sh.val
theorem ragCode_parts (pn : PReg) (en seq one : Bool) (sh : ShapeNo) :
    (ragCode pn en seq one sh).getLsbD 4 = en ∧ Fin.ofNat 8 ((ragCode pn en seq one sh).extractLsb' 5 3).toNat = pn ∧ (ragCode pn en seq one sh).getLsbD 3 = seq ∧
    (ragCode pn en seq one sh).getLsbD 2 = one ∧ Fin.ofNat 4 (ragCode pn en seq one sh).toNat = sh := by revert pn en seq one sh; decide +kernel
theorem mma_flags (a b c : Bool) : (bit1 a ++ bit1 b ++ bit1 c).getLsbD 0 = c ∧ (bit1 a ++ bit1 b ++ bit1 c).getLsbD 1 = b ∧ (bit1 a ++ bit1 b ++ bit1 c).getLsbD 2 = a := by revert a b c; decide
/-- The live-in masks of `rgn` read back (R119). -/
theorem smask_parts (m : Word) : m.extractLsb' 24 8 ++ (m.extractLsb' 0 24 ++ 0#6).extractLsb' 6 24 = m := by
  ext i hi
  simp only [BitVec.getElem_append, BitVec.getElem_extractLsb', BitVec.getLsbD_append]
  split
  · simp only [show ¬(6 + i < 6) by omega, if_false]
    rw [BitVec.getLsbD_extractLsb', BitVec.getLsbD_eq_getElem (by omega)]
    simp
    omega
  · rw [BitVec.getLsbD_eq_getElem (by omega)]
    congr 1
    omega
/-- The span and the tag of a `brk` read back (R134). -/
theorem brk_span (x : BitVec 6) (n : Nat) (h : n < 4) : ((x ++ BitVec.ofNat 2 n).extractLsb' 0 2).toNat = n := by
  obtain rfl | rfl | rfl | rfl : n = 0 ∨ n = 1 ∨ n = 2 ∨ n = 3 := by omega
  all_goals revert x; decide
theorem brk_tag (t : BitVec 22) (x : BitVec 2) : t.extractLsb' 14 8 ++ t.extractLsb' 6 8 ++ (t.extractLsb' 0 6 ++ x).extractLsb' 2 6 = t := by
  ext i hi
  simp only [BitVec.getElem_append, BitVec.getElem_extractLsb', BitVec.getLsbD_append]
  repeat' split
  · omega
  · rw [BitVec.getLsbD_extractLsb', BitVec.getLsbD_eq_getElem (by omega)]
    simp
    omega
  · rw [BitVec.getLsbD_eq_getElem (by omega)]
    congr 1
    omega
  · rw [BitVec.getLsbD_eq_getElem (by omega)]
    congr 1
    omega

/-! Records of fields. -/

@[simp] theorem Un.ofFields_fields (op : BitVec 8) (f : Un) : Un.ofFields (f.fields op) = f := by simp [Un.ofFields, Un.fields]
@[simp] theorem Bin.ofFields_fields (op : BitVec 8) (f : Bin) : Bin.ofFields (f.fields op) = f := by simp [Bin.ofFields, Bin.fields]
@[simp] theorem Tri.ofFields_fields (op : BitVec 8) (f : Tri) : Tri.ofFields (f.fields op) = f := by simp [Tri.ofFields, Tri.fields]
@[simp] theorem Bs.ofFields_fields (op : BitVec 8) (f : Bs) : Bs.ofFields (f.fields op) = f := by simp [Bs.ofFields, Bs.fields]
@[simp] theorem CmpF.ofFields_fields (f : CmpF) : CmpF.ofFields f.fields = f := by simp [CmpF.ofFields, CmpF.fields]
@[simp] theorem ClassF.ofFields_fields (f : ClassF) : ClassF.ofFields f.fields = f := by simp [ClassF.ofFields, ClassF.fields]
@[simp] theorem Shfl.ofFields_fields (op : BitVec 8) (f : Shfl) : Shfl.ofFields (f.fields op) = f := by simp [Shfl.ofFields, Shfl.fields]
@[simp] theorem RedF.ofFields_fields (op : BitVec 8) (f : RedF) : RedF.ofFields (f.fields op) = f := by simp [RedF.ofFields, RedF.fields]
@[simp] theorem StF.ofFields_fields (op : BitVec 8) (f : StF) : StF.ofFields (f.fields op) = f := by simp [StF.ofFields, StF.fields, Long.withMOff, mOffOf]
@[simp] theorem LdF.ofFields_fields (op : BitVec 8) (f : LdF) : LdF.ofFields (f.fields op) = f := by simp [LdF.ofFields, LdF.fields, Long.withMOff, mOffOf]
@[simp] theorem AtomF.ofFields_fields (op : BitVec 8) (f : AtomF) : AtomF.ofFields (f.fields op) = f := by simp [AtomF.ofFields, AtomF.fields, Long.withMOff, mOffOf]
theorem RedMemF.ofFields_fields (op : BitVec 8) (nr : BitVec 3) (h : nr = 0 ∨ nr = 4) (f : RedMemF) : RedMemF.ofFields (f.fields op nr) = f := by
  simp [RedMemF.ofFields, RedMemF.fields, Long.withMOff, mOffOf, MOff.of_field nr h]
@[simp] theorem LkF.ofFields_fields (op : BitVec 8) (f : LkF) : LkF.ofFields (f.fields op) = f := by simp [LkF.ofFields, LkF.fields]

end Sys2Proof
end

