-- ==== Sys2Proof/Laws/Groups.lean ====
section
/-! SUPPORT. What shared operations of the device leave of its groups: those that change no group, and those that change only registers a view does not show. -/

namespace Sys2Proof.Machine
open Sys2Proof

/-! Operations that change no group. -/

/-- A repeated change that leaves the groups leaves them. -/
theorem foldl_groups {α : Type} {f : Device → α → Device} (h : ∀ d x, (f d x).groups = d.groups) (l : List α) (d : Device) : (l.foldl f d).groups = d.groups := by
  induction l generalizing d with
  | nil => rfl
  | cons x t ih => rw [List.foldl_cons, ih, h]
theorem wakeWith_groups (d : Device) (g n status : Nat) (c : DieClock) : (wakeWith d g n status c).groups = d.groups := by
  simp only [wakeWith]
  split <;> rfl
theorem wakeGroup_groups (d : Device) (g n status : Nat) : (wakeGroup d g n status).groups = d.groups := wakeWith_groups _ _ _ _ _
theorem takeCredit_groups (d : Device) (peer cls : Nat) : (takeCredit d peer cls).groups = d.groups := by
  simp only [takeCredit]
  split <;> rfl
theorem postTo_groups (P : Platform) (d : Device) (peer cls : Nat) (m : Posted) : (postTo P d peer cls m).groups = d.groups := by
  simp only [postTo]
  repeat' split
  · rfl
  · rfl
  · exact takeCredit_groups _ _ _
theorem sendRequest_groups (P : Platform) (d : Device) (peer : Nat) (r : OutReq) : (sendRequest P d peer r).groups = d.groups := by
  simp only [sendRequest]
  split <;> rfl
theorem parkWrite_groups (d : Device) (job page die : Nat) (p : Parked) : (parkWrite d job page die p).groups = d.groups := by
  simp only [parkWrite]
  split <;> rfl
theorem sendAtomic_groups (P : Platform) (n : Nat) (d : Device) (r : AgReq) : (sendAtomic P n d r).groups = d.groups := by
  simp only [sendAtomic]
  split
  · exact parkWrite_groups _ _ _ _ _
  · rfl
theorem sbEvaluate_groups (P : Platform) (d : Device) (job : Nat) : (sbEvaluate P d job).groups = d.groups := by
  simp only [sbEvaluate]
  split
  · rfl
  · exact foldl_groups (fun _ _ => wakeGroup_groups _ _ _ _) _ _
theorem sendOwn_groups (P : Platform) (d : Device) (job : Nat) : (sendOwn P d job).groups = d.groups := by
  simp only [sendOwn]
  split
  · rfl
  · rename_i j hj
    generalize (List.range 512).filter (fun p => j.sbMem.getLsbD p && p != P.own && P.valid p && !P.foreign p) = ps
    exact foldl_groups (f := fun d p => postTo P d p 0 (Posted.sideboard p job (((Tbl.find j.sideboard P.own).map (·.step)).getD j.step0))) (fun _ _ => postTo_groups _ _ _ _ _) ps d
theorem timelineDone_groups (d : Device) (die tid tl n code x : Nat) : (timelineDone d die tid tl n code x).groups = d.groups := by
  simp only [timelineDone]
  split
  · rfl
  · exact foldl_groups (fun _ _ => wakeWith_groups _ _ _ _ _) _ _
theorem writeTiles_groups (d : Device) (core job : Nat) (ws : List (Nat × Nat × Word)) : (writeTiles d core job ws).groups = d.groups := by
  simp only [writeTiles]
  split <;> rfl
theorem sendResult_groups (P : Platform) (d : Device) (b : Binding) (m : ResultMsg) : (sendResult P d b m).groups = d.groups := by
  simp only [sendResult]
  refine foldl_groups (fun d p => ?_) _ _
  split
  · rfl
  · rw [postTo_groups, postTo_groups]
theorem writeVbase_groups (d : Device) (c : Chunk) (b : Binding) (step : Nat) (data : List Word) : (writeVbase d c b step data).groups = d.groups := by
  simp only [writeVbase]
  repeat' split
  all_goals rfl
theorem closeChunk_groups (P : Platform) (d : Device) (key : Nat) (c : Chunk) (b : Binding) (timer : Bool) : (closeChunk P d key c b timer).groups = d.groups := by
  simp only [closeChunk]
  split
  · rfl
  · rw [sendResult_groups, writeVbase_groups]
    rfl
theorem closeDue_groups (P : Platform) (b : Binding) (key n : Nat) : ∀ d : Device, (closeDue P b key n d).groups = d.groups := by
  induction n with
  | zero => intro d; rfl
  | succ n ih =>
    intro d
    simp only [closeDue]
    repeat' split
    · rfl
    · rfl
    · rw [ih, closeChunk_groups]
theorem returnCredit_groups (P : Platform) (d : Device) : (returnCredit P d).groups = d.groups := by
  simp only [returnCredit]
  split
  · rfl
  · exact foldl_groups (f := fun (d : Device) (e : Nat × Peer) => d.emit P (.credit e.1 1)) (fun _ _ => rfl) _ _
theorem evalChunk_groups (P : Platform) (d : Device) (key : Nat) (timers : Bool) : (evalChunk P d key timers).groups = d.groups := by
  simp only [evalChunk]
  split
  · rfl
  · split
    · rfl
    · rw [returnCredit_groups, closeDue_groups]
      rfl
theorem evalCollective_groups (P : Platform) (d : Device) (job : Nat) (va : DWord) : (evalCollective P d job va).groups = d.groups := foldl_groups (fun _ _ => evalChunk_groups _ _ _ _) _ _
theorem collCloseNow_groups (P : Platform) (d : Device) (job : Nat) (va : DWord) (b : Binding) (n step : Nat) : (collCloseNow P d job va b n step).groups = d.groups := by
  simp only [collCloseNow]
  repeat' split
  all_goals first
    | rfl
    | exact (evalChunk_groups _ _ _ _).trans rfl
theorem touchLine_groups (P : Platform) (d : Device) (k a : Nat) : (touchLine P d k a).groups = d.groups := by
  simp only [touchLine]
  exact (foldl_groups (f := fun (d : Device) l => d.modDie k fun x => { x with visitors := Tbl.erase x.visitors l }) (fun _ _ => rfl) _ _).trans rfl
theorem l2Line_groups {P : Platform} {d e : Device} {k a : Nat} {bs : List Byte} (h : l2Line P d k a = some (bs, e)) : e.groups = d.groups := by
  simp only [l2Line] at h
  repeat' split at h
  all_goals simp at h
  all_goals
    rw [← h.2]
    first
      | exact touchLine_groups _ _ _ _
      | exact (touchLine_groups _ _ _ _).trans (touchLine_groups _ _ _ _)
theorem lineFor_groups {c : Ctx} {pol : Policy} {p : Place} {d e : Device} {bs : List Byte} {l : Bool} (h : lineFor c pol p d = some (bs, l, e)) : e.groups = d.groups := by
  simp only [lineFor] at h
  split at h
  · simp at h
    rw [← h.2.2]
  · split at h
    · simp at h
    · rename_i x bs d1 hl
      simp at h
      obtain ⟨-, -, h⟩ := h
      rw [← h]
      split <;> simp [fillLine, Device.modCore, l2Line_groups hl]
theorem laneValue_groups {c : Ctx} {pol : Policy} {n v : Nat} {p : Place} {d e : Device} {b : Bool} (h : laneValue c pol n p d = some (v, b, e)) : e.groups = d.groups := by
  simp only [laneValue] at h
  split at h
  · simp at h
    rw [h.2.2]
  · split at h
    · simp at h
    · rename_i hl
      simp at h
      rw [← h.2.2]
      exact lineFor_groups hl
theorem laneValues_groups {c : Ctx} {pol : Policy} {n : Nat} (ps : List Place) : ∀ {d e : Device} {vs : List (Nat × Nat)} {x : Option Exc}, laneValues c pol n ps d = some (vs, x, e) → e.groups = d.groups := by
  induction ps with
  | nil =>
    intro d e vs x h
    simp [laneValues] at h
    rw [h.2.2]
  | cons p t ih =>
    intro d e vs x h
    simp only [laneValues] at h
    split at h
    · simp at h
    · rename_i h1
      split at h
      · simp at h
      · rename_i h2
        simp at h
        rw [← h.2.2, ih h2, laneValue_groups h1]
theorem thruParts_groups {c : Ctx} : ∀ {ps : List (Span × Place)} {d e : Device} {x : List (Nat × List Byte)}, thruParts c ps d = some (x, e) → e.groups = d.groups := by
  intro ps
  induction ps with
  | nil =>
    intro d e x h
    simp [thruParts] at h
    rw [h.2]
  | cons p t ih =>
    intro d e x h
    simp only [thruParts] at h
    split at h
    · simp at h
    · rename_i h1
      split at h
      · simp at h
      · rename_i h2
        simp at h
        rw [← h.2, ih h2]
        simp only [thruPart] at h1
        split at h1
        · simp at h1
        · rename_i h3
          simp at h1
          rw [← h1.2, lineFor_groups h3]
theorem readRange_groups {c : Ctx} {va : DWord} {n : Nat} {x : List Byte} {ps : List (Span × Place)} {d : Device} (h : readRange c va n = .ok (x, ps, d)) : d.groups = c.d.groups := by
  simp only [readRange] at h
  split at h
  · simp at h
  · split at h
    all_goals simp at h
    rename_i h3
    rw [← h.2.2, thruParts_groups h3]
theorem mmaFetch_groups {f : MmaF} {c : Ctx} {m : MmaArgs} {s : Option Snapshot} {x : MmaIn} (h : mmaFetch f c m s = .ok x) : x.d.groups = c.d.groups := by
  simp only [mmaFetch] at h
  split at h
  · simp at h
  · split at h
    · simp at h
    · split at h
      · simp at h
      · split at h
        all_goals simp at h
        rename_i h3
        rw [← h]
        exact thruParts_groups h3

/-! Operations that change blocks of registers only. -/

/-- A view of groups does not show registers, held blocks and what the group's saved image has still to receive. -/
def BlindToBlocks {α : Type} (r : Group → α) : Prop := ∀ (g : Group) v h i, r { g with v, h, imageDue := i } = r g
/-- Noting a change for a saved image changes that note only. -/
theorem noteImage_eq (n : Nat) (g : Group) : noteImage n g = { g with imageDue := (noteImage n g).imageDue } := by
  simp only [noteImage]
  split <;> rfl
/-- What a view shows of a group of a device. -/
def viewAt {α : Type} (r : Group → α) (d : Device) (j : Nat) : Option α := (Tbl.find d.groups j).map r
theorem viewAt_groups {α : Type} (r : Group → α) {d e : Device} (h : e.groups = d.groups) (j : Nat) : viewAt r e j = viewAt r d j := by rw [viewAt, viewAt, h]
theorem viewAt_modGroup {α : Type} (r : Group → α) (d : Device) (g j : Nat) (f : Group → Group) (h : ∀ x, r (f x) = r x) : viewAt r (d.modGroup g f) j = viewAt r d j := view_modGroup r d g j f h
theorem viewAt_takeChunk {α : Type} {r : Group → α} (hr : BlindToBlocks r) (d : Device) (gid e j : Nat) : viewAt r (takeChunk d gid e) j = viewAt r d j := by
  simp only [takeChunk]
  split
  · rfl
  · split
    · rfl
    · exact viewAt_modGroup r _ _ _ _ fun x => hr x _ x.h x.imageDue
theorem viewAt_takeChunks {α : Type} {r : Group → α} (hr : BlindToBlocks r) (gid n j : Nat) : ∀ d : Device, viewAt r (takeChunks d gid n) j = viewAt r d j := by
  induction n with
  | zero => intro d; rfl
  | succ n ih =>
    intro d
    simp only [takeChunks]
    split
    · rfl
    · rw [ih, viewAt_modGroup r _ _ _ _ fun x => hr x x.v _ x.imageDue, viewAt_takeChunk hr]
theorem giveChunk_groups (d : Device) (gid e : Nat) : (giveChunk d gid e).groups = d.groups := by
  simp only [giveChunk]
  split <;> rfl
theorem viewAt_giveChunks {α : Type} {r : Group → α} (hr : BlindToBlocks r) (gid n j : Nat) : ∀ d : Device, viewAt r (giveChunks d gid n) j = viewAt r d j := by
  induction n with
  | zero => intro d; rfl
  | succ n ih =>
    intro d
    simp only [giveChunks]
    split
    · rfl
    · split
      · rfl
      · rw [ih, viewAt_modGroup r _ _ _ _ fun x => hr x _ _ x.imageDue, viewAt_groups r (giveChunk_groups _ _ _)]
theorem viewAt_grantChunks {α : Type} {r : Group → α} (hr : BlindToBlocks r) (core n j : Nat) : ∀ d : Device, viewAt r (grantChunks core n d) j = viewAt r d j := by
  induction n with
  | zero => intro d; rfl
  | succ n ih =>
    intro d
    simp only [grantChunks]
    split
    · rfl
    · split
      · exact ih _
      · split
        · rfl
        · split
          · rw [ih, viewAt_groups r (wakeGroup_groups _ _ _ _), viewAt_modGroup r _ _ _ _ fun x => by rw [noteImage_eq]; exact hr x _ _ _]
            rfl
          · rw [ih, viewAt_groups r (wakeGroup_groups _ _ _ _), viewAt_takeChunks hr]
            rfl
theorem depositRegs_groups (d : Device) (gid : Nat) : (depositRegs d gid).groups = d.groups := by
  simp only [depositRegs]
  split
  · rfl
  · exact foldl_groups (fun _ _ => giveChunk_groups _ _ _) _ _
/-- A change that a view of the splits does not show keeps the issuing split where it is. -/
theorem stays_view {c : Ctx} {d e : Device} (h : viewAt (fun g => g.splits) e c.gid = viewAt (fun g => g.splits) d c.gid) (hs : c.stays d) : c.stays e := by
  obtain ⟨g, sp, h1, h2⟩ := hs
  simp only [viewAt, h1, Option.map_some] at h
  cases he : Tbl.find e.groups c.gid with
  | none => simp [he] at h
  | some x =>
    simp only [he, Option.map_some, Option.some.injEq] at h
    exact ⟨x, sp, he, by simpa only [splitOf, h] using h2⟩

end Sys2Proof.Machine
end

