-- ==== Sys2Proof/Laws/Memory.lean ====
section
/-! SUPPORT. Memory: every operation keeps the canonical form; a byte reads as it was written last, and a write leaves every other byte. -/

namespace Sys2Proof.Machine
open Sys2Proof

/-- A write of a byte keeps the canonical form of memory. -/
theorem writeByte_wf (d : Device) (a : Nat) (b : Byte) (h : Memory.wf d.mem = true) : Memory.wf (d.writeByte a b).mem = true := cellsOk_put _ _ _ _ h
/-- A write of bytes keeps it. -/
theorem writeBytes_wf (bs : List Byte) (d : Device) (a : Nat) (h : Memory.wf d.mem = true) : Memory.wf (d.writeBytes a bs).mem = true := by
  induction bs generalizing d a with
  | nil => exact h
  | cons b t ih => exact ih _ _ (writeByte_wf d a b h)
/-- A byte reads as it was written last. -/
theorem readByte_writeByte_same (d : Device) (a : Nat) (b : Byte) : (d.writeByte a b).readByte a = b := get_put_same _ _ _ _
/-- A write of a byte leaves every other byte. -/
theorem readByte_writeByte_other (d : Device) (a x : Nat) (b : Byte) (h : x ≠ a) : (d.writeByte a b).readByte x = d.readByte x := get_put_other _ _ _ _ _ h
/-- A write of bytes leaves every byte outside them. -/
theorem readByte_writeBytes_other (bs : List Byte) (d : Device) (a x : Nat) (h : x < a ∨ a + bs.length ≤ x) : (d.writeBytes a bs).readByte x = d.readByte x := by
  induction bs generalizing d a with
  | nil => rfl
  | cons b t ih =>
    simp only [List.length_cons] at h
    rw [Device.writeBytes, ih _ _ (by omega), readByte_writeByte_other _ _ _ _ (by omega)]
/-- Marks of poison leave memory. -/
@[simp] theorem markWord_mem (d : Device) (b : Bool) (w : Nat) : (d.markWord b w).mem = d.mem := by
  simp only [Device.markWord]
  split <;> rfl
@[simp] theorem setPoison_mem (d : Device) (a : Nat) : (d.setPoison a).mem = d.mem := markWord_mem d true (a / 4)
/-- So does clearing them. -/
@[simp] theorem clearPoison_mem (d : Device) (a n : Nat) : (d.clearPoison a n).mem = d.mem := by
  have : ∀ (l : List Nat) (d : Device), (l.foldl (fun d i => d.markWord false ((a + 3) / 4 + i)) d).mem = d.mem := by
    intro l
    induction l with
    | nil => intro d; rfl
    | cons x t ih => intro d; rw [List.foldl_cons, ih, markWord_mem]
  exact this _ d
/-- A fold of updates that each leave memory leaves memory. -/
theorem foldl_mem {α : Type} (f : Device → α → Device) (h : ∀ d x, (f d x).mem = d.mem) (l : List α) (d : Device) : (l.foldl f d).mem = d.mem := by
  induction l generalizing d with
  | nil => rfl
  | cons x t ih => rw [List.foldl_cons, ih, h]
@[simp] theorem wakeWith_mem (d : Device) (g n st : Nat) (c : DieClock) : (wakeWith d g n st c).mem = d.mem := by
  simp only [wakeWith]
  split <;> rfl
@[simp] theorem wakeGroup_mem (d : Device) (g n st : Nat) : (wakeGroup d g n st).mem = d.mem := wakeWith_mem d g n st _
@[simp] theorem testWatches_mem (d : Device) (cl lo n : Nat) : (testWatches d cl lo n).mem = d.mem := by
  simp only [testWatches]
  rw [foldl_mem _ (fun d (w : Nat × DWord × Nat) => wakeWith_mem d w.2.2 1 0 (d.valueClock w.1))]
  split <;> rfl
@[simp] theorem sendHome_mem (h : Nat) (m : Nat → HomeMsg) (d : Device) (k : Nat) : (sendHome h m d k).mem = d.mem := by
  simp only [sendHome]
  split <;> rfl
/-- A merge of clocks changes no memory. -/
@[simp] theorem mergeClock_mem (d : Device) (k : Nat) (c : DieClock) : (d.mergeClock k c).mem = d.mem := rfl
/-- A use of a line changes no memory. -/
@[simp] theorem touchLine_mem (P : Platform) (d : Device) (k a : Nat) : (touchLine P d k a).mem = d.mem := by
  simp only [touchLine]
  rw [foldl_mem (fun (d : Device) (l : Nat) => d.modDie k fun x => { x with visitors := Tbl.erase x.visitors l }) (fun _ _ => rfl)]
  rfl
/-- A write of bytes sees no more of the device than memory. -/
theorem writeBytes_mem_congr (bs : List Byte) (d e : Device) (a : Nat) (h : d.mem = e.mem) : (d.writeBytes a bs).mem = (e.writeBytes a bs).mem := by
  induction bs generalizing d e a with
  | nil => exact h
  | cons b t ih => exact ih _ _ _ (by simp only [Device.writeByte, h])
/-- A write of one line, whatever clock it carries, changes the bytes written and no other. -/
theorem writeLineAt_mem (P : Platform) (clock : DieClock) (d : Device) (a : Nat) (bs : List Byte) : (writeLineAt P clock d a bs).1.mem = (d.writeBytes a bs).mem := by
  simp only [writeLineAt]
  rw [testWatches_mem, foldl_mem _ (fun d k => sendHome_mem _ _ d k)]
  simp only [modDie_mem, clearPoison_mem]
  exact writeBytes_mem_congr _ _ _ _ (touchLine_mem _ _ _ _)
/-- It keeps the canonical form. -/
theorem writeLineAt_wf (P : Platform) (clock : DieClock) (d : Device) (a : Nat) (bs : List Byte) (h : Memory.wf d.mem = true) : Memory.wf (writeLineAt P clock d a bs).1.mem = true := by
  rw [writeLineAt_mem]
  exact writeBytes_wf bs d a h
/-- So does a write of one line from a die. -/
theorem writeLine_wf (P : Platform) (src : Nat) (d : Device) (a : Nat) (bs : List Byte) (h : Memory.wf d.mem = true) : Memory.wf (writeLine P src d a bs).1.mem = true := writeLineAt_wf P _ d a bs h
/-- A write of any length keeps it. -/
theorem writePhys_wf (P : Platform) (src n : Nat) (d : Device) (a : Nat) (bs : List Byte) (h : Memory.wf d.mem = true) : Memory.wf (writePhys P src n d a bs).1.mem = true := by
  induction n generalizing d a bs with
  | zero => exact h
  | succ n ih => cases bs with
    | nil => exact h
    | cons b t => exact ih _ _ _ (writeLine_wf P src d a _ h)
/-- A write of an engine keeps it. -/
theorem engineWrite_wf (P : Platform) (src : Nat) (d : Device) (a : Nat) (bs : List Byte) (h : Memory.wf d.mem = true) : Memory.wf (engineWrite P src d a bs).mem = true := by
  simp only [engineWrite]
  rw [foldl_mem _ (fun d m => mergeClock_mem d src (clockAt m))]
  exact writePhys_wf P src _ d a bs h
/-- A parked write changes no memory. -/
@[simp] theorem parkWrite_mem (d : Device) (job page die : Nat) (x : Parked) : (parkWrite d job page die x).mem = d.mem := by
  simp only [parkWrite]
  split <;> rfl
/-- A write in a job's space keeps the canonical form. -/
theorem jobWrite_wf (P : Platform) (d d' : Device) (job die : Nat) (va : DWord) (bs : List Byte) (h : Memory.wf d.mem = true) (hw : jobWrite P d job die va bs = some d') : Memory.wf d'.mem = true := by
  simp only [jobWrite] at hw
  split at hw
  · split at hw
    · simp at hw
    · split at hw
      · simp only [Option.some.injEq] at hw
        subst hw
        simpa [parkRaw] using h
      · simp only [Option.some.injEq] at hw
        subst hw
        exact engineWrite_wf P die d _ bs h
  · simp at hw
/-- A line read through L2 changes no memory. -/
theorem l2Line_mem (P : Platform) (d d' : Device) (k a : Nat) (b : List Byte) (h : l2Line P d k a = some (b, d')) : d'.mem = d.mem := by
  simp only [l2Line] at h
  repeat' split at h
  all_goals simp only [Option.some.injEq, Prod.mk.injEq, reduceCtorEq] at h
  all_goals (obtain ⟨-, rfl⟩ := h; simp)
/-- Reset memory has the canonical form. -/
theorem reset_mem_wf : Memory.wf State.reset.dev.mem = true := rfl

end Sys2Proof.Machine
end

