-- ==== Sys2Proof/Laws/PerInstr.lean ====
section
/-! SUPPORT. The fields of a well-formed instruction give the instruction, constructor by constructor: the part of decoding that depends on the row. -/

namespace Sys2Proof.Laws
open Sys2Proof

/-- The fields of a well-formed instruction of code give the instruction; an event has none. -/
def FieldsReadBack.Statement (i : Instr) : Prop := ∀ f, i.fields = some f → i.wf = true → Instr.ofFields f = some i

theorem FieldsReadBack.nop : FieldsReadBack.Statement (.nop) := by
  intro f hf hw
  obtain rfl := Option.some.inj hf
  rfl
theorem FieldsReadBack.brk : ∀ x0 x1, FieldsReadBack.Statement (.brk x0 x1) := by
  intro x0 x1 f hf hw
  obtain rfl := Option.some.inj hf
  simp only [Instr.wf, Bool.and_eq_true, decide_eq_true_eq] at hw
  exact congrArg₂ (fun a b => some (Instr.brk a b)) (brk_span _ _ (by omega)) (brk_tag _ _)
theorem FieldsReadBack.addI32Short : ∀ x0, FieldsReadBack.Statement (.addI32Short x0) := by
  intro x0 f hf hw
  obtain rfl := Option.some.inj hf
  simp [Instr.ofFields, Instr.ofShort]
theorem FieldsReadBack.subI32Short : ∀ x0, FieldsReadBack.Statement (.subI32Short x0) := by
  intro x0 f hf hw
  obtain rfl := Option.some.inj hf
  simp [Instr.ofFields, Instr.ofShort]
theorem FieldsReadBack.andB32Short : ∀ x0, FieldsReadBack.Statement (.andB32Short x0) := by
  intro x0 f hf hw
  obtain rfl := Option.some.inj hf
  simp [Instr.ofFields, Instr.ofShort]
theorem FieldsReadBack.orB32Short : ∀ x0, FieldsReadBack.Statement (.orB32Short x0) := by
  intro x0 f hf hw
  obtain rfl := Option.some.inj hf
  simp [Instr.ofFields, Instr.ofShort]
theorem FieldsReadBack.xorB32Short : ∀ x0, FieldsReadBack.Statement (.xorB32Short x0) := by
  intro x0 f hf hw
  obtain rfl := Option.some.inj hf
  simp [Instr.ofFields, Instr.ofShort]
theorem FieldsReadBack.movB32Short : ∀ x0 x1, FieldsReadBack.Statement (.movB32Short x0 x1) := by
  intro x0 x1 f hf hw
  obtain rfl := Option.some.inj hf
  simp [Instr.ofFields, Instr.ofShort]
theorem FieldsReadBack.addF32Short : ∀ x0, FieldsReadBack.Statement (.addF32Short x0) := by
  intro x0 f hf hw
  obtain rfl := Option.some.inj hf
  simp [Instr.ofFields, Instr.ofShort]
theorem FieldsReadBack.mulF32Short : ∀ x0, FieldsReadBack.Statement (.mulF32Short x0) := by
  intro x0 f hf hw
  obtain rfl := Option.some.inj hf
  simp [Instr.ofFields, Instr.ofShort]
theorem FieldsReadBack.shlB32Short : ∀ x0, FieldsReadBack.Statement (.shlB32Short x0) := by
  intro x0 f hf hw
  obtain rfl := Option.some.inj hf
  simp [Instr.ofFields, Instr.ofShort]
theorem FieldsReadBack.shrB32Short : ∀ x0, FieldsReadBack.Statement (.shrB32Short x0) := by
  intro x0 f hf hw
  obtain rfl := Option.some.inj hf
  simp [Instr.ofFields, Instr.ofShort]
theorem FieldsReadBack.haltShort : FieldsReadBack.Statement (.haltShort) := by
  intro f hf hw
  obtain rfl := Option.some.inj hf
  rfl
theorem FieldsReadBack.retShort : FieldsReadBack.Statement (.retShort) := by
  intro f hf hw
  obtain rfl := Option.some.inj hf
  rfl
theorem FieldsReadBack.yieldShort : FieldsReadBack.Statement (.yieldShort) := by
  intro f hf hw
  obtain rfl := Option.some.inj hf
  rfl
theorem FieldsReadBack.add : ∀ x0, FieldsReadBack.Statement (.add x0) := by
  intro x0 f hf hw
  obtain ⟨g, rfl, hg⟩ : ∃ g, f = .long g ∧ g = _ := ⟨_, (Option.some.inj hf).symm, rfl⟩
  have h : Instr.ofFields (.long g) = some (.add (Bin.ofFields g)) := by subst hg; rfl
  rw [h, hg]
  simp
theorem FieldsReadBack.sub : ∀ x0, FieldsReadBack.Statement (.sub x0) := by
  intro x0 f hf hw
  obtain ⟨g, rfl, hg⟩ : ∃ g, f = .long g ∧ g = _ := ⟨_, (Option.some.inj hf).symm, rfl⟩
  have h : Instr.ofFields (.long g) = some (.sub (Bin.ofFields g)) := by subst hg; rfl
  rw [h, hg]
  simp
theorem FieldsReadBack.mul : ∀ x0, FieldsReadBack.Statement (.mul x0) := by
  intro x0 f hf hw
  obtain ⟨g, rfl, hg⟩ : ∃ g, f = .long g ∧ g = _ := ⟨_, (Option.some.inj hf).symm, rfl⟩
  have h : Instr.ofFields (.long g) = some (.mul (Bin.ofFields g)) := by subst hg; rfl
  rw [h, hg]
  simp
theorem FieldsReadBack.mulhi : ∀ x0, FieldsReadBack.Statement (.mulhi x0) := by
  intro x0 f hf hw
  obtain ⟨g, rfl, hg⟩ : ∃ g, f = .long g ∧ g = _ := ⟨_, (Option.some.inj hf).symm, rfl⟩
  have h : Instr.ofFields (.long g) = some (.mulhi (Bin.ofFields g)) := by subst hg; rfl
  rw [h, hg]
  simp
theorem FieldsReadBack.mad : ∀ x0, FieldsReadBack.Statement (.mad x0) := by
  intro x0 f hf hw
  obtain ⟨g, rfl, hg⟩ : ∃ g, f = .long g ∧ g = _ := ⟨_, (Option.some.inj hf).symm, rfl⟩
  have h : Instr.ofFields (.long g) = some (.mad (Tri.ofFields g)) := by subst hg; rfl
  rw [h, hg]
  simp
theorem FieldsReadBack.divstep : ∀ x0, FieldsReadBack.Statement (.divstep x0) := by
  intro x0 f hf hw
  obtain ⟨g, rfl, hg⟩ : ∃ g, f = .long g ∧ g = _ := ⟨_, (Option.some.inj hf).symm, rfl⟩
  have h : Instr.ofFields (.long g) = some (.divstep (Bin.ofFields g)) := by subst hg; rfl
  rw [h, hg]
  simp
theorem FieldsReadBack.min : ∀ x0, FieldsReadBack.Statement (.min x0) := by
  intro x0 f hf hw
  obtain ⟨g, rfl, hg⟩ : ∃ g, f = .long g ∧ g = _ := ⟨_, (Option.some.inj hf).symm, rfl⟩
  have h : Instr.ofFields (.long g) = some (.min (Bin.ofFields g)) := by subst hg; rfl
  rw [h, hg]
  simp
theorem FieldsReadBack.max : ∀ x0, FieldsReadBack.Statement (.max x0) := by
  intro x0 f hf hw
  obtain ⟨g, rfl, hg⟩ : ∃ g, f = .long g ∧ g = _ := ⟨_, (Option.some.inj hf).symm, rfl⟩
  have h : Instr.ofFields (.long g) = some (.max (Bin.ofFields g)) := by subst hg; rfl
  rw [h, hg]
  simp
theorem FieldsReadBack.abs : ∀ x0, FieldsReadBack.Statement (.abs x0) := by
  intro x0 f hf hw
  obtain ⟨g, rfl, hg⟩ : ∃ g, f = .long g ∧ g = _ := ⟨_, (Option.some.inj hf).symm, rfl⟩
  have h : Instr.ofFields (.long g) = some (.abs (Un.ofFields g)) := by subst hg; rfl
  rw [h, hg]
  simp
theorem FieldsReadBack.neg : ∀ x0, FieldsReadBack.Statement (.neg x0) := by
  intro x0 f hf hw
  obtain ⟨g, rfl, hg⟩ : ∃ g, f = .long g ∧ g = _ := ⟨_, (Option.some.inj hf).symm, rfl⟩
  have h : Instr.ofFields (.long g) = some (.neg (Un.ofFields g)) := by subst hg; rfl
  rw [h, hg]
  simp
theorem FieldsReadBack.addc : ∀ x0 x1, FieldsReadBack.Statement (.addc x0 x1) := by
  intro x0 x1 f hf hw
  obtain ⟨g, rfl, hg⟩ : ∃ g, f = .long g ∧ g = _ := ⟨_, (Option.some.inj hf).symm, rfl⟩
  have h : Instr.ofFields (.long g) = some (.addc (Bin.ofFields g) (low 8 g.c)) := by subst hg; rfl
  rw [h, hg]
  simp [Bin.ofFields, Bin.fields]
theorem FieldsReadBack.subb : ∀ x0 x1, FieldsReadBack.Statement (.subb x0 x1) := by
  intro x0 x1 f hf hw
  obtain ⟨g, rfl, hg⟩ : ∃ g, f = .long g ∧ g = _ := ⟨_, (Option.some.inj hf).symm, rfl⟩
  have h : Instr.ofFields (.long g) = some (.subb (Bin.ofFields g) (low 8 g.c)) := by subst hg; rfl
  rw [h, hg]
  simp [Bin.ofFields, Bin.fields]
theorem FieldsReadBack.lut3 : ∀ x0, FieldsReadBack.Statement (.lut3 x0) := by
  intro x0 f hf hw
  obtain ⟨g, rfl, hg⟩ : ∃ g, f = .long g ∧ g = _ := ⟨_, (Option.some.inj hf).symm, rfl⟩
  have h : Instr.ofFields (.long g) = some (.lut3 { g := guardOf g.guard, tr := g.tr, table := tableOf g, d := Reg.ofCode g.d, a := regOpd g.a g.ra, b := Opd.of g.b g.rb g.lit, c := regOpd g.c g.rc }) := by subst hg; rfl
  rw [h, hg]
  simp only [guardOf_guardCode, Reg.ofCode_code, regOpd_code, Opd.of_field, tableOf, table_parts]
theorem FieldsReadBack.shl : ∀ x0, FieldsReadBack.Statement (.shl x0) := by
  intro x0 f hf hw
  obtain ⟨g, rfl, hg⟩ : ∃ g, f = .long g ∧ g = _ := ⟨_, (Option.some.inj hf).symm, rfl⟩
  have h : Instr.ofFields (.long g) = some (.shl (Bin.ofFields g)) := by subst hg; rfl
  rw [h, hg]
  simp
theorem FieldsReadBack.shr : ∀ x0, FieldsReadBack.Statement (.shr x0) := by
  intro x0 f hf hw
  obtain ⟨g, rfl, hg⟩ : ∃ g, f = .long g ∧ g = _ := ⟨_, (Option.some.inj hf).symm, rfl⟩
  have h : Instr.ofFields (.long g) = some (.shr (Bin.ofFields g)) := by subst hg; rfl
  rw [h, hg]
  simp
theorem FieldsReadBack.sra : ∀ x0, FieldsReadBack.Statement (.sra x0) := by
  intro x0 f hf hw
  obtain ⟨g, rfl, hg⟩ : ∃ g, f = .long g ∧ g = _ := ⟨_, (Option.some.inj hf).symm, rfl⟩
  have h : Instr.ofFields (.long g) = some (.sra (Bin.ofFields g)) := by subst hg; rfl
  rw [h, hg]
  simp
theorem FieldsReadBack.rot : ∀ x0, FieldsReadBack.Statement (.rot x0) := by
  intro x0 f hf hw
  obtain ⟨g, rfl, hg⟩ : ∃ g, f = .long g ∧ g = _ := ⟨_, (Option.some.inj hf).symm, rfl⟩
  have h : Instr.ofFields (.long g) = some (.rot (Bin.ofFields g)) := by subst hg; rfl
  rw [h, hg]
  simp
theorem FieldsReadBack.popc : ∀ x0, FieldsReadBack.Statement (.popc x0) := by
  intro x0 f hf hw
  obtain ⟨g, rfl, hg⟩ : ∃ g, f = .long g ∧ g = _ := ⟨_, (Option.some.inj hf).symm, rfl⟩
  have h : Instr.ofFields (.long g) = some (.popc (Un.ofFields g)) := by subst hg; rfl
  rw [h, hg]
  simp
theorem FieldsReadBack.clz : ∀ x0, FieldsReadBack.Statement (.clz x0) := by
  intro x0 f hf hw
  obtain ⟨g, rfl, hg⟩ : ∃ g, f = .long g ∧ g = _ := ⟨_, (Option.some.inj hf).symm, rfl⟩
  have h : Instr.ofFields (.long g) = some (.clz (Un.ofFields g)) := by subst hg; rfl
  rw [h, hg]
  simp
theorem FieldsReadBack.bfe : ∀ x0, FieldsReadBack.Statement (.bfe x0) := by
  intro x0 f hf hw
  obtain ⟨g, rfl, hg⟩ : ∃ g, f = .long g ∧ g = _ := ⟨_, (Option.some.inj hf).symm, rfl⟩
  have h : Instr.ofFields (.long g) = some (.bfe (Tri.ofFields g)) := by subst hg; rfl
  rw [h, hg]
  simp
theorem FieldsReadBack.bfi : ∀ x0, FieldsReadBack.Statement (.bfi x0) := by
  intro x0 f hf hw
  obtain ⟨g, rfl, hg⟩ : ∃ g, f = .long g ∧ g = _ := ⟨_, (Option.some.inj hf).symm, rfl⟩
  have h : Instr.ofFields (.long g) = some (.bfi (Tri.ofFields g)) := by subst hg; rfl
  rw [h, hg]
  simp
theorem FieldsReadBack.brev : ∀ x0, FieldsReadBack.Statement (.brev x0) := by
  intro x0 f hf hw
  obtain ⟨g, rfl, hg⟩ : ∃ g, f = .long g ∧ g = _ := ⟨_, (Option.some.inj hf).symm, rfl⟩
  have h : Instr.ofFields (.long g) = some (.brev (Un.ofFields g)) := by subst hg; rfl
  rw [h, hg]
  simp
theorem FieldsReadBack.bperm : ∀ x0, FieldsReadBack.Statement (.bperm x0) := by
  intro x0 f hf hw
  obtain ⟨g, rfl, hg⟩ : ∃ g, f = .long g ∧ g = _ := ⟨_, (Option.some.inj hf).symm, rfl⟩
  have h : Instr.ofFields (.long g) = some (.bperm (Tri.ofFields g)) := by subst hg; rfl
  rw [h, hg]
  simp
theorem FieldsReadBack.fma : ∀ x0, FieldsReadBack.Statement (.fma x0) := by
  intro x0 f hf hw
  obtain ⟨g, rfl, hg⟩ : ∃ g, f = .long g ∧ g = _ := ⟨_, (Option.some.inj hf).symm, rfl⟩
  have h : Instr.ofFields (.long g) = some (.fma (Tri.ofFields g)) := by subst hg; rfl
  rw [h, hg]
  simp
theorem FieldsReadBack.rcp : ∀ x0, FieldsReadBack.Statement (.rcp x0) := by
  intro x0 f hf hw
  obtain ⟨g, rfl, hg⟩ : ∃ g, f = .long g ∧ g = _ := ⟨_, (Option.some.inj hf).symm, rfl⟩
  have h : Instr.ofFields (.long g) = some (.rcp (Un.ofFields g)) := by subst hg; rfl
  rw [h, hg]
  simp
theorem FieldsReadBack.rsq : ∀ x0, FieldsReadBack.Statement (.rsq x0) := by
  intro x0 f hf hw
  obtain ⟨g, rfl, hg⟩ : ∃ g, f = .long g ∧ g = _ := ⟨_, (Option.some.inj hf).symm, rfl⟩
  have h : Instr.ofFields (.long g) = some (.rsq (Un.ofFields g)) := by subst hg; rfl
  rw [h, hg]
  simp
theorem FieldsReadBack.sqrt : ∀ x0, FieldsReadBack.Statement (.sqrt x0) := by
  intro x0 f hf hw
  obtain ⟨g, rfl, hg⟩ : ∃ g, f = .long g ∧ g = _ := ⟨_, (Option.some.inj hf).symm, rfl⟩
  have h : Instr.ofFields (.long g) = some (.sqrt (Un.ofFields g)) := by subst hg; rfl
  rw [h, hg]
  simp
theorem FieldsReadBack.exp2 : ∀ x0, FieldsReadBack.Statement (.exp2 x0) := by
  intro x0 f hf hw
  obtain ⟨g, rfl, hg⟩ : ∃ g, f = .long g ∧ g = _ := ⟨_, (Option.some.inj hf).symm, rfl⟩
  have h : Instr.ofFields (.long g) = some (.exp2 (Un.ofFields g)) := by subst hg; rfl
  rw [h, hg]
  simp
theorem FieldsReadBack.log2 : ∀ x0, FieldsReadBack.Statement (.log2 x0) := by
  intro x0 f hf hw
  obtain ⟨g, rfl, hg⟩ : ∃ g, f = .long g ∧ g = _ := ⟨_, (Option.some.inj hf).symm, rfl⟩
  have h : Instr.ofFields (.long g) = some (.log2 (Un.ofFields g)) := by subst hg; rfl
  rw [h, hg]
  simp
theorem FieldsReadBack.tanh : ∀ x0, FieldsReadBack.Statement (.tanh x0) := by
  intro x0 f hf hw
  obtain ⟨g, rfl, hg⟩ : ∃ g, f = .long g ∧ g = _ := ⟨_, (Option.some.inj hf).symm, rfl⟩
  have h : Instr.ofFields (.long g) = some (.tanh (Un.ofFields g)) := by subst hg; rfl
  rw [h, hg]
  simp
theorem FieldsReadBack.cvt : ∀ x0 x1 x2, FieldsReadBack.Statement (.cvt x0 x1 x2) := by
  intro x0 x1 x2 f hf hw
  obtain ⟨g, rfl, hg⟩ : ∃ g, f = .long g ∧ g = _ := ⟨_, (Option.some.inj hf).symm, rfl⟩
  have h : Instr.ofFields (.long g) = some (.cvt (Un.ofFields g) (Ty.ofCode (g.c.extractLsb' 0 4)) (Fin.ofNat 8 (g.c.extractLsb' 4 3).toNat)) := by subst hg; rfl
  rw [h, hg]
  simp only [cvt_type, cvt_elem]
  simp [Un.ofFields, Un.fields]
theorem FieldsReadBack.cvtPk : ∀ x0 x1, FieldsReadBack.Statement (.cvtPk x0 x1) := by
  intro x0 x1 f hf hw
  obtain ⟨g, rfl, hg⟩ : ∃ g, f = .long g ∧ g = _ := ⟨_, (Option.some.inj hf).symm, rfl⟩
  have h : Instr.ofFields (.long g) = some (.cvtPk (Bin.ofFields g) (Ty.ofCode (g.c.extractLsb' 0 4))) := by subst hg; rfl
  rw [h, hg]
  simp only [cvtPk_type]
  simp [Bin.ofFields, Bin.fields]
theorem FieldsReadBack.bsPack : ∀ x0, FieldsReadBack.Statement (.bsPack x0) := by
  intro x0 f hf hw
  obtain ⟨g, rfl, hg⟩ : ∃ g, f = .long g ∧ g = _ := ⟨_, (Option.some.inj hf).symm, rfl⟩
  have h : Instr.ofFields (.long g) = some (.bsPack (Bs.ofFields g)) := by subst hg; rfl
  rw [h, hg]
  simp
theorem FieldsReadBack.bsUnpack : ∀ x0, FieldsReadBack.Statement (.bsUnpack x0) := by
  intro x0 f hf hw
  obtain ⟨g, rfl, hg⟩ : ∃ g, f = .long g ∧ g = _ := ⟨_, (Option.some.inj hf).symm, rfl⟩
  have h : Instr.ofFields (.long g) = some (.bsUnpack (Bs.ofFields g)) := by subst hg; rfl
  rw [h, hg]
  simp
theorem FieldsReadBack.cmp : ∀ x0, FieldsReadBack.Statement (.cmp x0) := by
  intro x0 f hf hw
  obtain ⟨g, rfl, hg⟩ : ∃ g, f = .long g ∧ g = _ := ⟨_, (Option.some.inj hf).symm, rfl⟩
  have h : Instr.ofFields (.long g) = some (.cmp (CmpF.ofFields g)) := by subst hg; rfl
  rw [h, hg]
  simp
theorem FieldsReadBack.sel : ∀ x0 x1, FieldsReadBack.Statement (.sel x0 x1) := by
  intro x0 x1 f hf hw
  obtain ⟨g, rfl, hg⟩ : ∃ g, f = .long g ∧ g = _ := ⟨_, (Option.some.inj hf).symm, rfl⟩
  have h : Instr.ofFields (.long g) = some (.sel (Bin.ofFields g) (low 8 g.c)) := by subst hg; rfl
  rw [h, hg]
  simp [Bin.ofFields, Bin.fields]
theorem FieldsReadBack.classOf : ∀ x0, FieldsReadBack.Statement (.classOf x0) := by
  intro x0 f hf hw
  obtain ⟨g, rfl, hg⟩ : ∃ g, f = .long g ∧ g = _ := ⟨_, (Option.some.inj hf).symm, rfl⟩
  have h : Instr.ofFields (.long g) = some (.classOf (ClassF.ofFields g)) := by subst hg; rfl
  rw [h, hg]
  simp
theorem FieldsReadBack.shflIdx : ∀ x0, FieldsReadBack.Statement (.shflIdx x0) := by
  intro x0 f hf hw
  obtain ⟨g, rfl, hg⟩ : ∃ g, f = .long g ∧ g = _ := ⟨_, (Option.some.inj hf).symm, rfl⟩
  have h : Instr.ofFields (.long g) = some (.shflIdx (Shfl.ofFields g)) := by subst hg; rfl
  rw [h, hg]
  simp
theorem FieldsReadBack.shflUp : ∀ x0, FieldsReadBack.Statement (.shflUp x0) := by
  intro x0 f hf hw
  obtain ⟨g, rfl, hg⟩ : ∃ g, f = .long g ∧ g = _ := ⟨_, (Option.some.inj hf).symm, rfl⟩
  have h : Instr.ofFields (.long g) = some (.shflUp (Shfl.ofFields g)) := by subst hg; rfl
  rw [h, hg]
  simp
theorem FieldsReadBack.shflDn : ∀ x0, FieldsReadBack.Statement (.shflDn x0) := by
  intro x0 f hf hw
  obtain ⟨g, rfl, hg⟩ : ∃ g, f = .long g ∧ g = _ := ⟨_, (Option.some.inj hf).symm, rfl⟩
  have h : Instr.ofFields (.long g) = some (.shflDn (Shfl.ofFields g)) := by subst hg; rfl
  rw [h, hg]
  simp
theorem FieldsReadBack.shflXor : ∀ x0, FieldsReadBack.Statement (.shflXor x0) := by
  intro x0 f hf hw
  obtain ⟨g, rfl, hg⟩ : ∃ g, f = .long g ∧ g = _ := ⟨_, (Option.some.inj hf).symm, rfl⟩
  have h : Instr.ofFields (.long g) = some (.shflXor (Shfl.ofFields g)) := by subst hg; rfl
  rw [h, hg]
  simp
theorem FieldsReadBack.scan : ∀ x0, FieldsReadBack.Statement (.scan x0) := by
  intro x0 f hf hw
  obtain ⟨g, rfl, hg⟩ : ∃ g, f = .long g ∧ g = _ := ⟨_, (Option.some.inj hf).symm, rfl⟩
  have h : Instr.ofFields (.long g) = some (.scan (RedF.ofFields g)) := by subst hg; rfl
  rw [h, hg]
  simp
theorem FieldsReadBack.scanx : ∀ x0, FieldsReadBack.Statement (.scanx x0) := by
  intro x0 f hf hw
  obtain ⟨g, rfl, hg⟩ : ∃ g, f = .long g ∧ g = _ := ⟨_, (Option.some.inj hf).symm, rfl⟩
  have h : Instr.ofFields (.long g) = some (.scanx (RedF.ofFields g)) := by subst hg; rfl
  rw [h, hg]
  simp
theorem FieldsReadBack.rdc : ∀ x0, FieldsReadBack.Statement (.rdc x0) := by
  intro x0 f hf hw
  obtain ⟨g, rfl, hg⟩ : ∃ g, f = .long g ∧ g = _ := ⟨_, (Option.some.inj hf).symm, rfl⟩
  have h : Instr.ofFields (.long g) = some (.rdc (RedF.ofFields g)) := by subst hg; rfl
  rw [h, hg]
  simp
theorem FieldsReadBack.sort : ∀ x0 x1, FieldsReadBack.Statement (.sort x0 x1) := by
  intro x0 x1 f hf hw
  obtain ⟨g, rfl, hg⟩ : ∃ g, f = .long g ∧ g = _ := ⟨_, (Option.some.inj hf).symm, rfl⟩
  have h : Instr.ofFields (.long g) = some (.sort (Un.ofFields g) (g.c.getLsbD 0)) := by subst hg; rfl
  rw [h, hg]
  simp only [bit0_num8]
  simp [Un.ofFields, Un.fields]
theorem FieldsReadBack.vote : ∀ x0 x1 x2 x3, FieldsReadBack.Statement (.vote x0 x1 x2 x3) := by
  intro x0 x1 x2 x3 f hf hw
  obtain ⟨g, rfl, hg⟩ : ∃ g, f = .long g ∧ g = _ := ⟨_, (Option.some.inj hf).symm, rfl⟩
  have h : Instr.ofFields (.long g) = some (.vote (guardOf g.guard) (VoteMode.byNum g.c.toNat) (low 8 g.d) (low 8 g.a)) := by subst hg; rfl
  rw [h, hg]
  simp
theorem FieldsReadBack.ballot : ∀ x0 x1 x2 x3, FieldsReadBack.Statement (.ballot x0 x1 x2 x3) := by
  intro x0 x1 x2 x3 f hf hw
  obtain ⟨g, rfl, hg⟩ : ∃ g, f = .long g ∧ g = _ := ⟨_, (Option.some.inj hf).symm, rfl⟩
  have h : Instr.ofFields (.long g) = some (.ballot (guardOf g.guard) g.tr (Reg.ofCode g.d) (low 8 g.a)) := by subst hg; rfl
  rw [h, hg]
  simp
theorem FieldsReadBack.rnd : ∀ x0 x1 x2 x3 x4, FieldsReadBack.Statement (.rnd x0 x1 x2 x3 x4) := by
  intro x0 x1 x2 x3 x4 f hf hw
  obtain ⟨g, rfl, hg⟩ : ∃ g, f = .long g ∧ g = _ := ⟨_, (Option.some.inj hf).symm, rfl⟩
  have h : Instr.ofFields (.long g) = some (.rnd (guardOf g.guard) g.tr (Reg.ofCode g.d) (regOpd g.a g.ra) (Opd.of g.b g.rb g.lit)) := by subst hg; rfl
  rw [h, hg]
  simp
theorem FieldsReadBack.mov : ∀ x0, FieldsReadBack.Statement (.mov x0) := by
  intro x0 f hf hw
  obtain ⟨g, rfl, hg⟩ : ∃ g, f = .long g ∧ g = _ := ⟨_, (Option.some.inj hf).symm, rfl⟩
  have h : Instr.ofFields (.long g) = some (.mov (Un.ofFields g)) := by subst hg; rfl
  rw [h, hg]
  simp
theorem FieldsReadBack.rdlane : ∀ x0, FieldsReadBack.Statement (.rdlane x0) := by
  intro x0 f hf hw
  obtain ⟨g, rfl, hg⟩ : ∃ g, f = .long g ∧ g = _ := ⟨_, (Option.some.inj hf).symm, rfl⟩
  have h : Instr.ofFields (.long g) = some (.rdlane (Bin.ofFields g)) := by subst hg; rfl
  rw [h, hg]
  simp
theorem FieldsReadBack.wrlane : ∀ x0, FieldsReadBack.Statement (.wrlane x0) := by
  intro x0 f hf hw
  obtain ⟨g, rfl, hg⟩ : ∃ g, f = .long g ∧ g = _ := ⟨_, (Option.some.inj hf).symm, rfl⟩
  have h : Instr.ofFields (.long g) = some (.wrlane (Bin.ofFields g)) := by subst hg; rfl
  rw [h, hg]
  simp
theorem FieldsReadBack.plog : ∀ x0, FieldsReadBack.Statement (.plog x0) := by
  intro x0 f hf hw
  obtain ⟨g, rfl, hg⟩ : ∃ g, f = .long g ∧ g = _ := ⟨_, (Option.some.inj hf).symm, rfl⟩
  have h : Instr.ofFields (.long g) = some (.plog { g := guardOf g.guard, table := tableOf g, pd := low 8 g.d, pa := low 8 g.a, pb := low 8 g.b, pc := low 8 g.c }) := by subst hg; rfl
  rw [h, hg]
  simp only [guardOf_guardCode, low8_num8, tableOf, table_parts]
theorem FieldsReadBack.ptov : ∀ x0 x1 x2 x3, FieldsReadBack.Statement (.ptov x0 x1 x2 x3) := by
  intro x0 x1 x2 x3 f hf hw
  obtain ⟨g, rfl, hg⟩ : ∃ g, f = .long g ∧ g = _ := ⟨_, (Option.some.inj hf).symm, rfl⟩
  have h : Instr.ofFields (.long g) = some (.ptov (guardOf g.guard) g.tr (Reg.ofCode g.d) (low 8 g.a)) := by subst hg; rfl
  rw [h, hg]
  simp
theorem FieldsReadBack.vtop : ∀ x0 x1 x2, FieldsReadBack.Statement (.vtop x0 x1 x2) := by
  intro x0 x1 x2 f hf hw
  obtain ⟨g, rfl, hg⟩ : ∃ g, f = .long g ∧ g = _ := ⟨_, (Option.some.inj hf).symm, rfl⟩
  have h : Instr.ofFields (.long g) = some (.vtop (guardOf g.guard) (low 8 g.d) (Opd.of g.a g.ra g.lit)) := by subst hg; rfl
  rw [h, hg]
  simp
theorem FieldsReadBack.ld : ∀ x0, FieldsReadBack.Statement (.ld x0) := by
  intro x0 f hf hw
  obtain ⟨g, rfl, hg⟩ : ∃ g, f = .long g ∧ g = _ := ⟨_, (Option.some.inj hf).symm, rfl⟩
  have h : Instr.ofFields (.long g) = some (.ld (LdF.ofFields g)) := by subst hg; rfl
  rw [h, hg]
  simp
theorem FieldsReadBack.st : ∀ x0, FieldsReadBack.Statement (.st x0) := by
  intro x0 f hf hw
  obtain ⟨g, rfl, hg⟩ : ∃ g, f = .long g ∧ g = _ := ⟨_, (Option.some.inj hf).symm, rfl⟩
  have h : Instr.ofFields (.long g) = some (.st (StF.ofFields g)) := by subst hg; rfl
  rw [h, hg]
  simp
theorem FieldsReadBack.ldSp : ∀ x0, FieldsReadBack.Statement (.ldSp x0) := by
  intro x0 f hf hw
  obtain ⟨g, rfl, hg⟩ : ∃ g, f = .long g ∧ g = _ := ⟨_, (Option.some.inj hf).symm, rfl⟩
  have h : Instr.ofFields (.long g) = some (.ldSp (LdF.ofFields g)) := by subst hg; rfl
  rw [h, hg]
  simp
theorem FieldsReadBack.stSp : ∀ x0, FieldsReadBack.Statement (.stSp x0) := by
  intro x0 f hf hw
  obtain ⟨g, rfl, hg⟩ : ∃ g, f = .long g ∧ g = _ := ⟨_, (Option.some.inj hf).symm, rfl⟩
  have h : Instr.ofFields (.long g) = some (.stSp (StF.ofFields g)) := by subst hg; rfl
  rw [h, hg]
  simp
theorem FieldsReadBack.ldVer : ∀ x0, FieldsReadBack.Statement (.ldVer x0) := by
  intro x0 f hf hw
  obtain ⟨g, rfl, hg⟩ : ∃ g, f = .long g ∧ g = _ := ⟨_, (Option.some.inj hf).symm, rfl⟩
  have h : Instr.ofFields (.long g) = some (.ldVer { g := guardOf g.guard, size := Size.ofCode g.sub, d := Reg.ofCode g.d, a := regOpd g.a g.ra, off := mOffOf g, sm := regOpd g.c g.rc }) := by subst hg; rfl
  rw [h, hg]
  simp [Long.withMOff, mOffOf]
theorem FieldsReadBack.stVer : ∀ x0, FieldsReadBack.Statement (.stVer x0) := by
  intro x0 f hf hw
  obtain ⟨g, rfl, hg⟩ : ∃ g, f = .long g ∧ g = _ := ⟨_, (Option.some.inj hf).symm, rfl⟩
  have h : Instr.ofFields (.long g) = some (.stVer (StF.ofFields g)) := by subst hg; rfl
  rw [h, hg]
  simp
theorem FieldsReadBack.sealVer : ∀ x0 x1, FieldsReadBack.Statement (.sealVer x0 x1) := by
  intro x0 x1 f hf hw
  obtain ⟨g, rfl, hg⟩ : ∃ g, f = .long g ∧ g = _ := ⟨_, (Option.some.inj hf).symm, rfl⟩
  have h : Instr.ofFields (.long g) = some (.sealVer (regOpd g.a g.ra) (mOffOf g)) := by subst hg; rfl
  rw [h, hg]
  simp [Long.withMOff, mOffOf]
theorem FieldsReadBack.ldRag : ∀ x0, FieldsReadBack.Statement (.ldRag x0) := by
  intro x0 f hf hw
  obtain ⟨g, rfl, hg⟩ : ∃ g, f = .long g ∧ g = _ := ⟨_, (Option.some.inj hf).symm, rfl⟩
  have h : Instr.ofFields (.long g) = some (.ldRag { g := guardOf g.guard, size := Size.ofCode g.sub, pol := Policy.ofCode g.mod, d := Reg.ofCode g.d, a := regOpd g.a g.ra, row := mOffOf g, sh := Fin.ofNat 4 g.c.toNat, one := g.c.getLsbD 2 }) := by subst hg; rfl
  rw [h, hg]
  simp only [Long.withMOff, mOffOf, shape_shCode, one_shCode]
  simp
theorem FieldsReadBack.atom : ∀ x0, FieldsReadBack.Statement (.atom x0) := by
  intro x0 f hf hw
  obtain ⟨g, rfl, hg⟩ : ∃ g, f = .long g ∧ g = _ := ⟨_, (Option.some.inj hf).symm, rfl⟩
  have h : Instr.ofFields (.long g) = some (.atom (AtomF.ofFields g)) := by subst hg; rfl
  rw [h, hg]
  simp
theorem FieldsReadBack.red : ∀ x0, FieldsReadBack.Statement (.red x0) := by
  intro x0 f hf hw
  obtain ⟨g, rfl, hg⟩ : ∃ g, f = .long g ∧ g = _ := ⟨_, (Option.some.inj hf).symm, rfl⟩
  have h : Instr.ofFields (.long g) = some (.red (RedMemF.ofFields g)) := by subst hg; rfl
  rw [h, hg]
  simp [RedMemF.ofFields_fields]
theorem FieldsReadBack.redAddCf32 : ∀ x0, FieldsReadBack.Statement (.redAddCf32 x0) := by
  intro x0 f hf hw
  obtain ⟨g, rfl, hg⟩ : ∃ g, f = .long g ∧ g = _ := ⟨_, (Option.some.inj hf).symm, rfl⟩
  have h : Instr.ofFields (.long g) = some (.redAddCf32 { g := guardOf g.guard, a := regOpd g.a g.ra, off := mOffOf g, c := regOpd g.c g.rc }) := by subst hg; rfl
  rw [h, hg]
  simp [Long.withMOff, mOffOf]
theorem FieldsReadBack.lk : ∀ x0, FieldsReadBack.Statement (.lk x0) := by
  intro x0 f hf hw
  obtain ⟨g, rfl, hg⟩ : ∃ g, f = .long g ∧ g = _ := ⟨_, (Option.some.inj hf).symm, rfl⟩
  have h : Instr.ofFields (.long g) = some (.lk (LkF.ofFields g)) := by subst hg; rfl
  rw [h, hg]
  simp
theorem FieldsReadBack.lktry : ∀ x0, FieldsReadBack.Statement (.lktry x0) := by
  intro x0 f hf hw
  obtain ⟨g, rfl, hg⟩ : ∃ g, f = .long g ∧ g = _ := ⟨_, (Option.some.inj hf).symm, rfl⟩
  have h : Instr.ofFields (.long g) = some (.lktry (LkF.ofFields g)) := by subst hg; rfl
  rw [h, hg]
  simp
theorem FieldsReadBack.unlk : ∀ x0, FieldsReadBack.Statement (.unlk x0) := by
  intro x0 f hf hw
  obtain ⟨g, rfl, hg⟩ : ∃ g, f = .long g ∧ g = _ := ⟨_, (Option.some.inj hf).symm, rfl⟩
  have h : Instr.ofFields (.long g) = some (.unlk (regOpd g.a g.ra)) := by subst hg; rfl
  rw [h, hg]
  simp
theorem FieldsReadBack.fence : ∀ x0 x1, FieldsReadBack.Statement (.fence x0 x1) := by
  intro x0 x1 f hf hw
  obtain ⟨g, rfl, hg⟩ : ∃ g, f = .long g ∧ g = _ := ⟨_, (Option.some.inj hf).symm, rfl⟩
  have h : Instr.ofFields (.long g) = some (.fence (FenceSem.ofCode g.mod) (Scope.ofCode g.sub)) := by subst hg; rfl
  rw [h, hg]
  simp
theorem FieldsReadBack.bar : FieldsReadBack.Statement (.bar) := by
  intro f hf hw
  obtain rfl := Option.some.inj hf
  rfl
theorem FieldsReadBack.barWait : FieldsReadBack.Statement (.barWait) := by
  intro f hf hw
  obtain rfl := Option.some.inj hf
  rfl
theorem FieldsReadBack.arriveN : ∀ x0, FieldsReadBack.Statement (.arriveN x0) := by
  intro x0 f hf hw
  obtain rfl := Option.some.inj hf
  exact congrArg (fun m => some (Instr.arriveN m)) (MOff.of_field 0 (.inl rfl) x0)
theorem FieldsReadBack.arriveNNw : ∀ x0, FieldsReadBack.Statement (.arriveNNw x0) := by
  intro x0 f hf hw
  obtain rfl := Option.some.inj hf
  exact congrArg (fun m => some (Instr.arriveNNw m)) (MOff.of_field 0 (.inl rfl) x0)
theorem FieldsReadBack.waitCtr : ∀ x0 x1 x2 x3, FieldsReadBack.Statement (.waitCtr x0 x1 x2 x3) := by
  intro x0 x1 x2 x3 f hf hw
  obtain ⟨g, rfl, hg⟩ : ∃ g, f = .long g ∧ g = _ := ⟨_, (Option.some.inj hf).symm, rfl⟩
  have h : Instr.ofFields (.long g) = some (.waitCtr (sOf g.d) (regOpd g.a g.ra) (regOpd g.c g.rc) g.lit) := by subst hg; rfl
  rw [h, hg]
  simp
theorem FieldsReadBack.post : ∀ x0 x1 x2 x3, FieldsReadBack.Statement (.post x0 x1 x2 x3) := by
  intro x0 x1 x2 x3 f hf hw
  obtain ⟨g, rfl, hg⟩ : ∃ g, f = .long g ∧ g = _ := ⟨_, (Option.some.inj hf).symm, rfl⟩
  have h : Instr.ofFields (.long g) = some (.post (sOf g.d) (regOpd g.a g.ra) (regOpd g.c g.rc) (mOffOf g)) := by subst hg; rfl
  rw [h, hg]
  simp [Long.withMOff, mOffOf]
theorem FieldsReadBack.dcnt : ∀ x0 x1 x2, FieldsReadBack.Statement (.dcnt x0 x1 x2) := by
  intro x0 x1 x2 f hf hw
  obtain ⟨g, rfl, hg⟩ : ∃ g, f = .long g ∧ g = _ := ⟨_, (Option.some.inj hf).symm, rfl⟩
  have h : Instr.ofFields (.long g) = some (.dcnt (guardOf g.guard) (regOpd g.a g.ra) (mOffOf g)) := by subst hg; rfl
  rw [h, hg]
  simp [Long.withMOff, mOffOf]
theorem FieldsReadBack.raLd : ∀ x0, FieldsReadBack.Statement (.raLd x0) := by
  intro x0 f hf hw
  obtain ⟨g, rfl, hg⟩ : ∃ g, f = .long g ∧ g = _ := ⟨_, (Option.some.inj hf).symm, rfl⟩
  have h : Instr.ofFields (.long g) = some (.raLd { g := guardOf g.guard, size := Size.ofCode g.sub, d := Reg.ofCode g.d, a := regOpd g.a g.ra, off := mOffOf g, pn := PSel.ofCode g.c }) := by subst hg; rfl
  rw [h, hg]
  simp [Long.withMOff, mOffOf]
theorem FieldsReadBack.raSt : ∀ x0, FieldsReadBack.Statement (.raSt x0) := by
  intro x0 f hf hw
  obtain ⟨g, rfl, hg⟩ : ∃ g, f = .long g ∧ g = _ := ⟨_, (Option.some.inj hf).symm, rfl⟩
  have h : Instr.ofFields (.long g) = some (.raSt (StF.ofFields g)) := by subst hg; rfl
  rw [h, hg]
  simp
theorem FieldsReadBack.raAtom : ∀ x0, FieldsReadBack.Statement (.raAtom x0) := by
  intro x0 f hf hw
  obtain rfl := Option.some.inj hf
  have h : (0#3 ||| x0.off.kind).getLsbD 2 = false := by cases x0.off <;> simp [MOff.kind]
  show (if (0#3 ||| x0.off.kind).getLsbD 2 then some (Instr.raRed _) else some (Instr.raAtom _)) = _
  rw [if_neg (by rw [h]; exact Bool.false_ne_true), AtomF.ofFields_fields]
theorem FieldsReadBack.raRed : ∀ x0, FieldsReadBack.Statement (.raRed x0) := by
  intro x0 f hf hw
  obtain rfl := Option.some.inj hf
  have h : (4#3 ||| x0.off.kind).getLsbD 2 = true := by cases x0.off <;> simp [MOff.kind]
  show (if (4#3 ||| x0.off.kind).getLsbD 2 then some (Instr.raRed _) else some (Instr.raAtom _)) = _
  rw [if_pos h, RedMemF.ofFields_fields _ _ (.inr rfl)]
theorem FieldsReadBack.rst : ∀ x0 x1 x2 x3, FieldsReadBack.Statement (.rst x0 x1 x2 x3) := by
  intro x0 x1 x2 x3 f hf hw
  obtain ⟨g, rfl, hg⟩ : ∃ g, f = .long g ∧ g = _ := ⟨_, (Option.some.inj hf).symm, rfl⟩
  have h : Instr.ofFields (.long g) = some (.rst (guardOf g.guard) (regOpd g.a g.ra) (vOf g.c) (mOffOf g)) := by subst hg; rfl
  rw [h, hg]
  simp [Long.withMOff, mOffOf]
theorem FieldsReadBack.hold : ∀ x0 x1, FieldsReadBack.Statement (.hold x0 x1) := by
  intro x0 x1 f hf hw
  obtain ⟨g, rfl, hg⟩ : ∃ g, f = .long g ∧ g = _ := ⟨_, (Option.some.inj hf).symm, rfl⟩
  have h : Instr.ofFields (.long g) = some (.hold (vOf g.a) (mOffOf g)) := by subst hg; rfl
  rw [h, hg]
  simp [Long.withMOff, mOffOf]
theorem FieldsReadBack.nameGet : ∀ x0, FieldsReadBack.Statement (.nameGet x0) := by
  intro x0 f hf hw
  obtain ⟨g, rfl, hg⟩ : ∃ g, f = .long g ∧ g = _ := ⟨_, (Option.some.inj hf).symm, rfl⟩
  have h : Instr.ofFields (.long g) = some (.nameGet (sOf g.d)) := by subst hg; rfl
  rw [h, hg]
  simp
theorem FieldsReadBack.nameFree : FieldsReadBack.Statement (.nameFree) := by
  intro f hf hw
  obtain rfl := Option.some.inj hf
  rfl
theorem FieldsReadBack.mres : ∀ x0 x1, FieldsReadBack.Statement (.mres x0 x1) := by
  intro x0 x1 f hf hw
  obtain ⟨g, rfl, hg⟩ : ∃ g, f = .long g ∧ g = _ := ⟨_, (Option.some.inj hf).symm, rfl⟩
  have h : Instr.ofFields (.long g) = some (.mres (low 8 g.d) (SL.of g.b g.lit)) := by subst hg; rfl
  rw [h, hg]
  simp
theorem FieldsReadBack.mrel : ∀ x0, FieldsReadBack.Statement (.mrel x0) := by
  intro x0 f hf hw
  obtain ⟨g, rfl, hg⟩ : ∃ g, f = .long g ∧ g = _ := ⟨_, (Option.some.inj hf).symm, rfl⟩
  have h : Instr.ofFields (.long g) = some (.mrel (SL.of g.b g.lit)) := by subst hg; rfl
  rw [h, hg]
  simp
theorem FieldsReadBack.mma : ∀ x0, FieldsReadBack.Statement (.mma x0) := by
  intro x0 f hf hw
  obtain ⟨g, rfl, hg⟩ : ∃ g, f = .long g ∧ g = _ := ⟨_, (Option.some.inj hf).symm, rfl⟩
  have h : Instr.ofFields (.long g) = some (.mma { g := guardOf g.guard, tile := low 16 g.d, a := sOf g.a, b := sOf g.b, desc := sOf g.c, bs := decide (8 ≤ g.sub.toNat), pair := MmaPair.byNum (if 8 ≤ g.sub.toNat then g.sub.toNat - 6 else g.sub.toNat), shape := if g.mod.getLsbD 2 then some (Fin.ofNat 4 g.mod.toNat) else none, one := g.aux.getLsbD 0, ninf := g.aux.getLsbD 1, wa := g.aux.getLsbD 2, rb := g.sat }) := by subst hg; rfl
  rw [h, hg]
  obtain ⟨g, t, a, b, c, bs, pair, shape, one, ninf, wa, rb⟩ := x0
  simp only [guardOf_guardCode, low16_num8, sOf_sCode, mma_flags]
  have e1 : ∀ m : ShapeNo, (BitVec.ofNat 3 (4 + m.val)).getLsbD 2 = true := by decide
  have e2 : ∀ m : ShapeNo, Fin.ofNat 4 (BitVec.ofNat 3 (4 + m.val)).toNat = m := by decide
  cases bs <;> cases pair <;> first
    | (simp [Instr.wf, MmaPair.scaled] at hw; done)
    | (cases shape with
      | none => rfl
      | some m => simp only [e1, e2, if_true]; rfl)
theorem FieldsReadBack.accLd : ∀ x0, FieldsReadBack.Statement (.accLd x0) := by
  intro x0 f hf hw
  obtain ⟨g, rfl, hg⟩ : ∃ g, f = .long g ∧ g = _ := ⟨_, (Option.some.inj hf).symm, rfl⟩
  have h : Instr.ofFields (.long g) = some (.accLd (AccMemF.ofFields g g.d)) := by subst hg; rfl
  rw [h, hg]
  cases hs : x0.sp <;> simp [AccMemF.ofFields, AccMemF.fields, hs] <;> obtain ⟨⟩ := x0 <;> simp_all
theorem FieldsReadBack.accSt : ∀ x0, FieldsReadBack.Statement (.accSt x0) := by
  intro x0 f hf hw
  obtain ⟨g, rfl, hg⟩ : ∃ g, f = .long g ∧ g = _ := ⟨_, (Option.some.inj hf).symm, rfl⟩
  have h : Instr.ofFields (.long g) = some (.accSt (AccMemF.ofFields g g.c)) := by subst hg; rfl
  rw [h, hg]
  cases hs : x0.sp <;> simp [AccMemF.ofFields, AccMemF.fields, hs] <;> obtain ⟨⟩ := x0 <;> simp_all
theorem FieldsReadBack.accZero : ∀ x0 x1, FieldsReadBack.Statement (.accZero x0 x1) := by
  intro x0 x1 f hf hw
  obtain ⟨g, rfl, hg⟩ : ∃ g, f = .long g ∧ g = _ := ⟨_, (Option.some.inj hf).symm, rfl⟩
  have h : Instr.ofFields (.long g) = some (.accZero (guardOf g.guard) (low 16 g.d)) := by subst hg; rfl
  rw [h, hg]
  simp
theorem FieldsReadBack.accMovToVec : ∀ x0, FieldsReadBack.Statement (.accMovToVec x0) := by
  intro x0 f hf hw
  obtain ⟨g, rfl, hg⟩ : ∃ g, f = .long g ∧ g = _ := ⟨_, (Option.some.inj hf).symm, rfl⟩
  have h : Instr.ofFields (.long g) = some (.accMovToVec { g := guardOf g.guard, v := vOf g.d, reuse := false, tile := low 16 g.a, j0 := low 32 g.c, log2n := g.sub }) := by subst hg; rfl
  rw [h, hg]
  obtain ⟨g, v, r, t, j, n⟩ := x0
  simp [Instr.wf, AccMovF.ok] at hw
  simp [hw]
theorem FieldsReadBack.accMovToTile : ∀ x0, FieldsReadBack.Statement (.accMovToTile x0) := by
  intro x0 f hf hw
  obtain ⟨g, rfl, hg⟩ : ∃ g, f = .long g ∧ g = _ := ⟨_, (Option.some.inj hf).symm, rfl⟩
  have h : Instr.ofFields (.long g) = some (.accMovToTile { g := guardOf g.guard, v := vOf g.a, reuse := g.ra, tile := low 16 g.d, j0 := low 32 g.c, log2n := g.sub }) := by subst hg; rfl
  rw [h, hg]
  simp
theorem FieldsReadBack.osmUpd : ∀ x0, FieldsReadBack.Statement (.osmUpd x0) := by
  intro x0 f hf hw
  obtain ⟨g, rfl, hg⟩ : ∃ g, f = .long g ∧ g = _ := ⟨_, (Option.some.inj hf).symm, rfl⟩
  have h : Instr.ofFields (.long g) = some (.osmUpd { g := guardOf g.guard, d := vOf g.d, sTile := low 16 g.a, oEn := g.c.getLsbD 4, oTile := low 16 g.c }) := by subst hg; rfl
  rw [h, hg]
  simp only [tile_enabled]
  simp
theorem FieldsReadBack.osmFin : ∀ x0 x1 x2 x3, FieldsReadBack.Statement (.osmFin x0 x1 x2 x3) := by
  intro x0 x1 x2 x3 f hf hw
  obtain ⟨g, rfl, hg⟩ : ∃ g, f = .long g ∧ g = _ := ⟨_, (Option.some.inj hf).symm, rfl⟩
  have h : Instr.ofFields (.long g) = some (.osmFin (guardOf g.guard) (low 16 g.d) (vOf g.a) g.ra) := by subst hg; rfl
  rw [h, hg]
  simp
theorem FieldsReadBack.ragRdc : ∀ x0, FieldsReadBack.Statement (.ragRdc x0) := by
  intro x0 f hf hw
  obtain ⟨g, rfl, hg⟩ : ∃ g, f = .long g ∧ g = _ := ⟨_, (Option.some.inj hf).symm, rfl⟩
  have h : Instr.ofFields (.long g) = some (.ragRdc { g := guardOf g.guard, d := vOf g.d, a := vOf g.a, reuse := g.ra, row0 := SL.of g.b g.lit, ty := Ty.ofCode g.sub, op := RedOp.byNum g.mod.toNat, pn := { en := g.c.getLsbD 4, p := Fin.ofNat 8 (g.c.extractLsb' 5 3).toNat }, seq := g.c.getLsbD 3, one := g.c.getLsbD 2, sh := Fin.ofNat 4 g.c.toNat }) := by subst hg; rfl
  rw [h, hg]
  have h := ragCode_parts x0.pn.p x0.pn.en x0.seq x0.one x0.sh
  simp only [ragCode] at h
  simp only [h]
  simp
theorem FieldsReadBack.ragNorm : ∀ x0, FieldsReadBack.Statement (.ragNorm x0) := by
  intro x0 f hf hw
  obtain ⟨g, rfl, hg⟩ : ∃ g, f = .long g ∧ g = _ := ⟨_, (Option.some.inj hf).symm, rfl⟩
  have h : Instr.ofFields (.long g) = some (.ragNorm { g := guardOf g.guard, d := vOf g.d, a := vOf g.a, reuse := g.ra, row0 := SL.of g.b g.lit, one := g.c.getLsbD 2, sh := Fin.ofNat 4 g.c.toNat }) := by subst hg; rfl
  rw [h, hg]
  simp only [shape_shCode, one_shCode]
  simp
theorem FieldsReadBack.shLd : ∀ x0 x1, FieldsReadBack.Statement (.shLd x0 x1) := by
  intro x0 x1 f hf hw
  obtain ⟨g, rfl, hg⟩ : ∃ g, f = .long g ∧ g = _ := ⟨_, (Option.some.inj hf).symm, rfl⟩
  have h : Instr.ofFields (.long g) = some (.shLd (low 4 g.d) (sOf g.a)) := by subst hg; rfl
  rw [h, hg]
  simp
theorem FieldsReadBack.shChk : ∀ x0 x1, FieldsReadBack.Statement (.shChk x0 x1) := by
  intro x0 x1 f hf hw
  obtain ⟨g, rfl, hg⟩ : ∃ g, f = .long g ∧ g = _ := ⟨_, (Option.some.inj hf).symm, rfl⟩
  have h : Instr.ofFields (.long g) = some (.shChk (low 8 g.d) (low 4 g.c)) := by subst hg; rfl
  rw [h, hg]
  simp
theorem FieldsReadBack.cp : ∀ x0, FieldsReadBack.Statement (.cp x0) := by
  intro x0 f hf hw
  obtain ⟨g, rfl, hg⟩ : ∃ g, f = .long g ∧ g = _ := ⟨_, (Option.some.inj hf).symm, rfl⟩
  have h : Instr.ofFields (.long g) = some (.cp { d := sdOf g.d, tl := Fin.ofNat 16 g.sub.toNat, dst := sOf g.a, src := sOf g.c, len := SL.of g.b g.lit, dir := CopyDir.ofCode g.mod }) := by subst hg; rfl
  rw [h, hg]
  simp
theorem FieldsReadBack.cpGather : ∀ x0, FieldsReadBack.Statement (.cpGather x0) := by
  intro x0 f hf hw
  obtain ⟨g, rfl, hg⟩ : ∃ g, f = .long g ∧ g = _ := ⟨_, (Option.some.inj hf).symm, rfl⟩
  have h : Instr.ofFields (.long g) = some (.cpGather { d := sdOf g.d, tl := Fin.ofNat 16 g.sub.toNat, dst := sOf g.a, src := sOf g.b, desc := sOf g.c, dir := CopyDir.ofCode g.mod }) := by subst hg; rfl
  rw [h, hg]
  simp
theorem FieldsReadBack.tlRd : ∀ x0 x1, FieldsReadBack.Statement (.tlRd x0 x1) := by
  intro x0 x1 f hf hw
  obtain ⟨g, rfl, hg⟩ : ∃ g, f = .long g ∧ g = _ := ⟨_, (Option.some.inj hf).symm, rfl⟩
  have h : Instr.ofFields (.long g) = some (.tlRd (sOf g.d) (Fin.ofNat 16 g.sub.toNat)) := by subst hg; rfl
  rw [h, hg]
  simp
theorem FieldsReadBack.tlRdErr : ∀ x0 x1, FieldsReadBack.Statement (.tlRdErr x0 x1) := by
  intro x0 x1 f hf hw
  obtain ⟨g, rfl, hg⟩ : ∃ g, f = .long g ∧ g = _ := ⟨_, (Option.some.inj hf).symm, rfl⟩
  have h : Instr.ofFields (.long g) = some (.tlRdErr (sOf g.d) (Fin.ofNat 16 g.sub.toNat)) := by subst hg; rfl
  rw [h, hg]
  simp
theorem FieldsReadBack.tlWait : ∀ x0 x1, FieldsReadBack.Statement (.tlWait x0 x1) := by
  intro x0 x1 f hf hw
  obtain ⟨g, rfl, hg⟩ : ∃ g, f = .long g ∧ g = _ := ⟨_, (Option.some.inj hf).symm, rfl⟩
  have h : Instr.ofFields (.long g) = some (.tlWait (Fin.ofNat 16 g.sub.toNat) (SL.of g.b g.lit)) := by subst hg; rfl
  rw [h, hg]
  simp
theorem FieldsReadBack.collPut : ∀ x0 x1 x2, FieldsReadBack.Statement (.collPut x0 x1 x2) := by
  intro x0 x1 x2 f hf hw
  obtain ⟨g, rfl, hg⟩ : ∃ g, f = .long g ∧ g = _ := ⟨_, (Option.some.inj hf).symm, rfl⟩
  have h : Instr.ofFields (.long g) = some (.collPut (sOf g.a) (SL.of g.b g.lit) (sOf g.c)) := by subst hg; rfl
  rw [h, hg]
  simp
theorem FieldsReadBack.collQuorum : ∀ x0 x1, FieldsReadBack.Statement (.collQuorum x0 x1) := by
  intro x0 x1 f hf hw
  obtain ⟨g, rfl, hg⟩ : ∃ g, f = .long g ∧ g = _ := ⟨_, (Option.some.inj hf).symm, rfl⟩
  have h : Instr.ofFields (.long g) = some (.collQuorum (sOf g.a) (SL.of g.b g.lit)) := by subst hg; rfl
  rw [h, hg]
  simp
theorem FieldsReadBack.collClose : ∀ x0 x1, FieldsReadBack.Statement (.collClose x0 x1) := by
  intro x0 x1 f hf hw
  obtain ⟨g, rfl, hg⟩ : ∃ g, f = .long g ∧ g = _ := ⟨_, (Option.some.inj hf).symm, rfl⟩
  have h : Instr.ofFields (.long g) = some (.collClose (sOf g.a) (SL.of g.b g.lit)) := by subst hg; rfl
  rw [h, hg]
  simp
theorem FieldsReadBack.collGet : ∀ x0 x1 x2 x3, FieldsReadBack.Statement (.collGet x0 x1 x2 x3) := by
  intro x0 x1 x2 x3 f hf hw
  obtain ⟨g, rfl, hg⟩ : ∃ g, f = .long g ∧ g = _ := ⟨_, (Option.some.inj hf).symm, rfl⟩
  have h : Instr.ofFields (.long g) = some (.collGet (sOf g.d) (sOf g.a) (SL.of g.b g.lit) (sOf g.c)) := by subst hg; rfl
  rw [h, hg]
  simp
theorem FieldsReadBack.stepAdv : ∀ x0 x1, FieldsReadBack.Statement (.stepAdv x0 x1) := by
  intro x0 x1 f hf hw
  obtain ⟨g, rfl, hg⟩ : ∃ g, f = .long g ∧ g = _ := ⟨_, (Option.some.inj hf).symm, rfl⟩
  have h : Instr.ofFields (.long g) = some (.stepAdv (sOf g.d) g.lit) := by subst hg; rfl
  rw [h, hg]
  simp
theorem FieldsReadBack.stepRd : ∀ x0 x1, FieldsReadBack.Statement (.stepRd x0 x1) := by
  intro x0 x1 f hf hw
  obtain ⟨g, rfl, hg⟩ : ∃ g, f = .long g ∧ g = _ := ⟨_, (Option.some.inj hf).symm, rfl⟩
  have h : Instr.ofFields (.long g) = some (.stepRd (sOf g.d) (SL.of g.b g.lit)) := by subst hg; rfl
  rw [h, hg]
  simp
theorem FieldsReadBack.hcmd : ∀ x0 x1, FieldsReadBack.Statement (.hcmd x0 x1) := by
  intro x0 x1 f hf hw
  obtain ⟨g, rfl, hg⟩ : ∃ g, f = .long g ∧ g = _ := ⟨_, (Option.some.inj hf).symm, rfl⟩
  have h : Instr.ofFields (.long g) = some (.hcmd (Fin.ofNat 16 g.sub.toNat) (sOf g.a)) := by subst hg; rfl
  rw [h, hg]
  simp
theorem FieldsReadBack.take : ∀ x0 x1, FieldsReadBack.Statement (.take x0 x1) := by
  intro x0 x1 f hf hw
  obtain ⟨g, rfl, hg⟩ : ∃ g, f = .long g ∧ g = _ := ⟨_, (Option.some.inj hf).symm, rfl⟩
  have h : Instr.ofFields (.long g) = some (.take (sOf g.d) (SL.of g.b g.lit)) := by subst hg; rfl
  rw [h, hg]
  simp
theorem FieldsReadBack.steal : ∀ x0, FieldsReadBack.Statement (.steal x0) := by
  intro x0 f hf hw
  obtain ⟨g, rfl, hg⟩ : ∃ g, f = .long g ∧ g = _ := ⟨_, (Option.some.inj hf).symm, rfl⟩
  have h : Instr.ofFields (.long g) = some (.steal (SL.of g.b g.lit)) := by subst hg; rfl
  rw [h, hg]
  simp
theorem FieldsReadBack.gwLaunch : ∀ x0 x1, FieldsReadBack.Statement (.gwLaunch x0 x1) := by
  intro x0 x1 f hf hw
  obtain ⟨g, rfl, hg⟩ : ∃ g, f = .long g ∧ g = _ := ⟨_, (Option.some.inj hf).symm, rfl⟩
  have h : Instr.ofFields (.long g) = some (.gwLaunch (sOf g.d) (sOf g.a)) := by subst hg; rfl
  rw [h, hg]
  simp
theorem FieldsReadBack.mig : ∀ x0 x1, FieldsReadBack.Statement (.mig x0 x1) := by
  intro x0 x1 f hf hw
  obtain ⟨g, rfl, hg⟩ : ∃ g, f = .long g ∧ g = _ := ⟨_, (Option.some.inj hf).symm, rfl⟩
  have h : Instr.ofFields (.long g) = some (.mig (sOf g.d) (SL.of g.b g.lit)) := by subst hg; rfl
  rw [h, hg]
  simp
theorem FieldsReadBack.migNear : ∀ x0 x1, FieldsReadBack.Statement (.migNear x0 x1) := by
  intro x0 x1 f hf hw
  obtain ⟨g, rfl, hg⟩ : ∃ g, f = .long g ∧ g = _ := ⟨_, (Option.some.inj hf).symm, rfl⟩
  have h : Instr.ofFields (.long g) = some (.migNear (sOf g.d) (sOf g.a)) := by subst hg; rfl
  rw [h, hg]
  simp
theorem FieldsReadBack.sysRd : ∀ x0 x1, FieldsReadBack.Statement (.sysRd x0 x1) := by
  intro x0 x1 f hf hw
  obtain ⟨g, rfl, hg⟩ : ∃ g, f = .long g ∧ g = _ := ⟨_, (Option.some.inj hf).symm, rfl⟩
  have h : Instr.ofFields (.long g) = some (.sysRd (Reg.ofCode g.d) (numOf g)) := by subst hg; rfl
  rw [h, hg]
  simp only [numOf, half_parts, Reg.ofCode_code]
theorem FieldsReadBack.sysWr : ∀ x0 x1, FieldsReadBack.Statement (.sysWr x0 x1) := by
  intro x0 x1 f hf hw
  obtain rfl := Option.some.inj hf
  show some (Instr.ofWrite (x0.extractLsb' 8 8 ++ x0.extractLsb' 0 8) (sOf (sCode x1))) = _
  rw [sOf_sCode, half_parts]
  have h : ownWrite x0.toNat = false := by
    simp only [Instr.wf, sysWrOk] at hw
    split at hw <;> simp_all
  simp [ownWrite] at h
  unfold Instr.ofWrite
  rw [if_neg (by omega), if_neg (by omega), if_neg (by omega), if_neg (by omega)]
theorem FieldsReadBack.trapCode : ∀ x0, FieldsReadBack.Statement (.trapCode x0) := by
  intro x0 f hf hw
  obtain ⟨g, rfl, hg⟩ : ∃ g, f = .long g ∧ g = _ := ⟨_, (Option.some.inj hf).symm, rfl⟩
  have h : Instr.ofFields (.long g) = some (.trapCode (numOf g)) := by subst hg; rfl
  rw [h, hg]
  simp only [numOf, half_parts]
theorem FieldsReadBack.bra : ∀ x0 x1 x2, FieldsReadBack.Statement (.bra x0 x1 x2) := by
  intro x0 x1 x2 f hf hw
  obtain ⟨g, rfl, hg⟩ : ∃ g, f = .long g ∧ g = _ := ⟨_, (Option.some.inj hf).symm, rfl⟩
  have h : Instr.ofFields (.long g) = some (.bra (guardOf g.guard) (g.mod.getLsbD 0) (offOf g)) := by subst hg; rfl
  rw [h, hg]
  cases x1 <;> simp only [offOf, Long.withOff, off_parts, guardOf_guardCode] <;> rfl
theorem FieldsReadBack.brd : ∀ x0 x1 x2, FieldsReadBack.Statement (.brd x0 x1 x2) := by
  intro x0 x1 x2 f hf hw
  obtain ⟨g, rfl, hg⟩ : ∃ g, f = .long g ∧ g = _ := ⟨_, (Option.some.inj hf).symm, rfl⟩
  have h : Instr.ofFields (.long g) = some (.brd (guardOf g.guard) (offOf g) g.lit) := by subst hg; rfl
  rw [h, hg]
  simp only [offOf, Long.withOff, off_parts, guardOf_guardCode]
theorem FieldsReadBack.mergeWait : FieldsReadBack.Statement (.mergeWait) := by
  intro f hf hw
  obtain rfl := Option.some.inj hf
  rfl
theorem FieldsReadBack.call : ∀ x0 x1, FieldsReadBack.Statement (.call x0 x1) := by
  intro x0 x1 f hf hw
  obtain ⟨g, rfl, hg⟩ : ∃ g, f = .long g ∧ g = _ := ⟨_, (Option.some.inj hf).symm, rfl⟩
  have h : Instr.ofFields (.long g) = some (.call (Reg.ofCode g.d) (offOf g)) := by subst hg; rfl
  rw [h, hg]
  simp only [offOf, Long.withOff, off_parts, Reg.ofCode_code]
theorem FieldsReadBack.ret : ∀ x0, FieldsReadBack.Statement (.ret x0) := by
  intro x0 f hf hw
  obtain ⟨g, rfl, hg⟩ : ∃ g, f = .long g ∧ g = _ := ⟨_, (Option.some.inj hf).symm, rfl⟩
  have h : Instr.ofFields (.long g) = some (.ret (Reg.ofCode g.a)) := by subst hg; rfl
  rw [h, hg]
  simp
theorem FieldsReadBack.jmp : ∀ x0 x1, FieldsReadBack.Statement (.jmp x0 x1) := by
  intro x0 x1 f hf hw
  obtain ⟨g, rfl, hg⟩ : ∃ g, f = .long g ∧ g = _ := ⟨_, (Option.some.inj hf).symm, rfl⟩
  have h : Instr.ofFields (.long g) = some (.jmp (Reg.ofCode g.d) (offOf g)) := by subst hg; rfl
  rw [h, hg]
  simp only [offOf, Long.withOff, off_parts, Reg.ofCode_code]
theorem FieldsReadBack.rgn : ∀ x0, FieldsReadBack.Statement (.rgn x0) := by
  intro x0 f hf hw
  obtain rfl := Option.some.inj hf
  obtain ⟨v, s, x, p⟩ := x0
  have h1 : ∀ x : BitVec 6, bit1 (x.getLsbD 5) ++ bit1 (x.getLsbD 4) ++ x.extractLsb' 0 4 = x := by decide
  have h2 : ∀ p : BitVec 8, p.extractLsb' 5 3 ++ p.extractLsb' 0 5 = p := by decide
  have h3 := smask_parts s
  rw [← off_parts (s.extractLsb' 0 24 ++ 0#6)] at h3
  show some (Instr.rgn (RgnF.mk _ _ _ _)) = some (Instr.rgn (RgnF.mk _ _ _ _))
  exact congrArg some (congrArg Instr.rgn (congr (congr (congrArg _ h3) (h1 x)) (h2 p)))
theorem FieldsReadBack.xacq : ∀ x0, FieldsReadBack.Statement (.xacq x0) := by
  intro x0 f hf hw
  obtain rfl := Option.some.inj hf
  rfl
theorem FieldsReadBack.xrel : ∀ x0, FieldsReadBack.Statement (.xrel x0) := by
  intro x0 f hf hw
  obtain rfl := Option.some.inj hf
  rfl
theorem FieldsReadBack.halt : ∀ x0, FieldsReadBack.Statement (.halt x0) := by
  intro x0 f hf hw
  obtain ⟨g, rfl, hg⟩ : ∃ g, f = .long g ∧ g = _ := ⟨_, (Option.some.inj hf).symm, rfl⟩
  have h : Instr.ofFields (.long g) = some (.halt (guardOf g.guard)) := by subst hg; rfl
  rw [h, hg]
  simp
theorem FieldsReadBack.yield : FieldsReadBack.Statement (.yield) := by
  intro f hf hw
  obtain rfl := Option.some.inj hf
  rfl
theorem FieldsReadBack.pendingTrapTake : ∀ x0, FieldsReadBack.Statement (.pendingTrapTake x0) := by
  intro x0 f hf hw
  cases hf
theorem FieldsReadBack.trapActResume : FieldsReadBack.Statement (.trapActResume) := by
  intro f hf hw
  cases hf
theorem FieldsReadBack.trapActSkip : FieldsReadBack.Statement (.trapActSkip) := by
  intro f hf hw
  cases hf
theorem FieldsReadBack.trapActHalt : FieldsReadBack.Statement (.trapActHalt) := by
  intro f hf hw
  cases hf
theorem FieldsReadBack.xltInv : ∀ x0, FieldsReadBack.Statement (.xltInv x0) := by
  intro x0 f hf hw
  obtain rfl := Option.some.inj hf
  show some (Instr.ofWrite _ (sOf (sCode x0))) = _
  rw [sOf_sCode]
  simp [numOf, Instr.ofWrite]
theorem FieldsReadBack.dbgIflush : ∀ x0, FieldsReadBack.Statement (.dbgIflush x0) := by
  intro x0 f hf hw
  obtain rfl := Option.some.inj hf
  show some (Instr.ofWrite _ (sOf (sCode x0))) = _
  rw [sOf_sCode]
  simp [numOf, Instr.ofWrite]
theorem FieldsReadBack.ctlLeadWrite : ∀ x0, FieldsReadBack.Statement (.ctlLeadWrite x0) := by
  intro x0 f hf hw
  obtain rfl := Option.some.inj hf
  show some (Instr.ofWrite _ (sOf (sCode x0))) = _
  rw [sOf_sCode]
  simp [numOf, Instr.ofWrite]
theorem FieldsReadBack.sbMemWrite : ∀ x0 x1, FieldsReadBack.Statement (.sbMemWrite x0 x1) := by
  intro x0 x1 f hf hw
  obtain rfl := Option.some.inj hf
  show some (Instr.ofWrite _ (sOf (sCode x1))) = _
  rw [sOf_sCode]
  obtain ⟨i, hi⟩ := x0
  interval_cases i <;> simp [numOf, Instr.ofWrite]
theorem FieldsReadBack.decrementArrival : ∀ x0, FieldsReadBack.Statement (.decrementArrival x0) := by
  intro x0 f hf hw
  cases hf
theorem FieldsReadBack.waitDeadline : ∀ x0, FieldsReadBack.Statement (.waitDeadline x0) := by
  intro x0 f hf hw
  cases hf
theorem FieldsReadBack.taskStart : ∀ x0, FieldsReadBack.Statement (.taskStart x0) := by
  intro x0 f hf hw
  cases hf
theorem FieldsReadBack.swapGroups : ∀ x0 x1, FieldsReadBack.Statement (.swapGroups x0 x1) := by
  intro x0 x1 f hf hw
  cases hf
theorem FieldsReadBack.pendingMove : ∀ x0 x1, FieldsReadBack.Statement (.pendingMove x0 x1) := by
  intro x0 x1 f hf hw
  cases hf
theorem FieldsReadBack.agedPendingSwap : ∀ x0 x1, FieldsReadBack.Statement (.agedPendingSwap x0 x1) := by
  intro x0 x1 f hf hw
  cases hf
theorem FieldsReadBack.splitMerge : ∀ x0, FieldsReadBack.Statement (.splitMerge x0) := by
  intro x0 f hf hw
  cases hf
theorem FieldsReadBack.deferralStep : ∀ x0 x1, FieldsReadBack.Statement (.deferralStep x0 x1) := by
  intro x0 x1 f hf hw
  cases hf
theorem FieldsReadBack.operationComplete : ∀ x0 x1, FieldsReadBack.Statement (.operationComplete x0 x1) := by
  intro x0 x1 f hf hw
  cases hf
theorem FieldsReadBack.storeSend : ∀ x0, FieldsReadBack.Statement (.storeSend x0) := by
  intro x0 f hf hw
  cases hf
theorem FieldsReadBack.storeAck : ∀ x0 x1, FieldsReadBack.Statement (.storeAck x0 x1) := by
  intro x0 x1 f hf hw
  cases hf
theorem FieldsReadBack.groupExit : ∀ x0, FieldsReadBack.Statement (.groupExit x0) := by
  intro x0 f hf hw
  cases hf
theorem FieldsReadBack.migrationArrival : ∀ x0, FieldsReadBack.Statement (.migrationArrival x0) := by
  intro x0 f hf hw
  cases hf
theorem FieldsReadBack.noticeArrival : ∀ x0 x1, FieldsReadBack.Statement (.noticeArrival x0 x1) := by
  intro x0 x1 f hf hw
  cases hf
theorem FieldsReadBack.homeWriteMessage : ∀ x0 x1, FieldsReadBack.Statement (.homeWriteMessage x0 x1) := by
  intro x0 x1 f hf hw
  cases hf
theorem FieldsReadBack.atomicService : ∀ x0, FieldsReadBack.Statement (.atomicService x0) := by
  intro x0 f hf hw
  cases hf
theorem FieldsReadBack.lockRequest : ∀ x0, FieldsReadBack.Statement (.lockRequest x0) := by
  intro x0 f hf hw
  cases hf
theorem FieldsReadBack.lockResend : ∀ x0, FieldsReadBack.Statement (.lockResend x0) := by
  intro x0 f hf hw
  cases hf
theorem FieldsReadBack.lockRelease : ∀ x0, FieldsReadBack.Statement (.lockRelease x0) := by
  intro x0 f hf hw
  cases hf
theorem FieldsReadBack.lockDeadline : ∀ x0, FieldsReadBack.Statement (.lockDeadline x0) := by
  intro x0 f hf hw
  cases hf
theorem FieldsReadBack.versionStore : ∀ x0, FieldsReadBack.Statement (.versionStore x0) := by
  intro x0 f hf hw
  cases hf
theorem FieldsReadBack.slotFill : ∀ x0, FieldsReadBack.Statement (.slotFill x0) := by
  intro x0 f hf hw
  cases hf
theorem FieldsReadBack.versionSeal : ∀ x0, FieldsReadBack.Statement (.versionSeal x0) := by
  intro x0 f hf hw
  cases hf
theorem FieldsReadBack.versionLoad : ∀ x0, FieldsReadBack.Statement (.versionLoad x0) := by
  intro x0 f hf hw
  cases hf
theorem FieldsReadBack.stalenessTimeout : ∀ x0, FieldsReadBack.Statement (.stalenessTimeout x0) := by
  intro x0 f hf hw
  cases hf
theorem FieldsReadBack.collapsePage : ∀ x0, FieldsReadBack.Statement (.collapsePage x0) := by
  intro x0 f hf hw
  cases hf
theorem FieldsReadBack.translationMiss : ∀ x0, FieldsReadBack.Statement (.translationMiss x0) := by
  intro x0 f hf hw
  cases hf
theorem FieldsReadBack.walkComplete : ∀ x0, FieldsReadBack.Statement (.walkComplete x0) := by
  intro x0 f hf hw
  cases hf
theorem FieldsReadBack.rewalk : ∀ x0, FieldsReadBack.Statement (.rewalk x0) := by
  intro x0 f hf hw
  cases hf
theorem FieldsReadBack.missTimeout : ∀ x0, FieldsReadBack.Statement (.missTimeout x0) := by
  intro x0 f hf hw
  cases hf
theorem FieldsReadBack.fatalFault : ∀ x0, FieldsReadBack.Statement (.fatalFault x0) := by
  intro x0 f hf hw
  cases hf
theorem FieldsReadBack.dumpSection : ∀ x0, FieldsReadBack.Statement (.dumpSection x0) := by
  intro x0 f hf hw
  cases hf
theorem FieldsReadBack.cancelGraceExpiry : ∀ x0, FieldsReadBack.Statement (.cancelGraceExpiry x0) := by
  intro x0 f hf hw
  cases hf
theorem FieldsReadBack.cancelDiscarding : ∀ x0, FieldsReadBack.Statement (.cancelDiscarding x0) := by
  intro x0 f hf hw
  cases hf
theorem FieldsReadBack.teamPlace : FieldsReadBack.Statement (.teamPlace) := by
  intro f hf hw
  cases hf
theorem FieldsReadBack.teamRestore : FieldsReadBack.Statement (.teamRestore) := by
  intro f hf hw
  cases hf
theorem FieldsReadBack.displacementStart : FieldsReadBack.Statement (.displacementStart) := by
  intro f hf hw
  cases hf
theorem FieldsReadBack.swapOut : ∀ x0, FieldsReadBack.Statement (.swapOut x0) := by
  intro x0 f hf hw
  cases hf
theorem FieldsReadBack.quantumExpiry : ∀ x0, FieldsReadBack.Statement (.quantumExpiry x0) := by
  intro x0 f hf hw
  cases hf
theorem FieldsReadBack.ageLimitExpiry : ∀ x0, FieldsReadBack.Statement (.ageLimitExpiry x0) := by
  intro x0 f hf hw
  cases hf
theorem FieldsReadBack.phaseStart : ∀ x0, FieldsReadBack.Statement (.phaseStart x0) := by
  intro x0 f hf hw
  cases hf
theorem FieldsReadBack.graphSubmit : FieldsReadBack.Statement (.graphSubmit) := by
  intro f hf hw
  cases hf
theorem FieldsReadBack.conditionRead : ∀ x0, FieldsReadBack.Statement (.conditionRead x0) := by
  intro x0 f hf hw
  cases hf
theorem FieldsReadBack.grabMessage : ∀ x0, FieldsReadBack.Statement (.grabMessage x0) := by
  intro x0 f hf hw
  cases hf
theorem FieldsReadBack.rangeReply : ∀ x0, FieldsReadBack.Statement (.rangeReply x0) := by
  intro x0 f hf hw
  cases hf
theorem FieldsReadBack.emptyPool : ∀ x0, FieldsReadBack.Statement (.emptyPool x0) := by
  intro x0 f hf hw
  cases hf
theorem FieldsReadBack.stealMessage : ∀ x0, FieldsReadBack.Statement (.stealMessage x0) := by
  intro x0 f hf hw
  cases hf
theorem FieldsReadBack.giveReply : ∀ x0, FieldsReadBack.Statement (.giveReply x0) := by
  intro x0 f hf hw
  cases hf
theorem FieldsReadBack.noneReply : ∀ x0, FieldsReadBack.Statement (.noneReply x0) := by
  intro x0 f hf hw
  cases hf
theorem FieldsReadBack.dryMessage : ∀ x0, FieldsReadBack.Statement (.dryMessage x0) := by
  intro x0 f hf hw
  cases hf
theorem FieldsReadBack.rstArrival : ∀ x0, FieldsReadBack.Statement (.rstArrival x0) := by
  intro x0 f hf hw
  cases hf
theorem FieldsReadBack.remoteRequest : ∀ x0, FieldsReadBack.Statement (.remoteRequest x0) := by
  intro x0 f hf hw
  cases hf
theorem FieldsReadBack.remoteResponse : ∀ x0, FieldsReadBack.Statement (.remoteResponse x0) := by
  intro x0 f hf hw
  cases hf
theorem FieldsReadBack.requestTimeout : ∀ x0, FieldsReadBack.Statement (.requestTimeout x0) := by
  intro x0 f hf hw
  cases hf
theorem FieldsReadBack.isolatedExpiry : ∀ x0, FieldsReadBack.Statement (.isolatedExpiry x0) := by
  intro x0 f hf hw
  cases hf
theorem FieldsReadBack.probeSend : ∀ x0, FieldsReadBack.Statement (.probeSend x0) := by
  intro x0 f hf hw
  cases hf
theorem FieldsReadBack.probeAnswer : ∀ x0, FieldsReadBack.Statement (.probeAnswer x0) := by
  intro x0 f hf hw
  cases hf
theorem FieldsReadBack.probeTimeout : ∀ x0, FieldsReadBack.Statement (.probeTimeout x0) := by
  intro x0 f hf hw
  cases hf
theorem FieldsReadBack.flitCrcFail : ∀ x0 x1, FieldsReadBack.Statement (.flitCrcFail x0 x1) := by
  intro x0 x1 f hf hw
  cases hf
theorem FieldsReadBack.channelRetrained : ∀ x0 x1, FieldsReadBack.Statement (.channelRetrained x0 x1) := by
  intro x0 x1 f hf hw
  cases hf
theorem FieldsReadBack.sideboardSend : ∀ x0, FieldsReadBack.Statement (.sideboardSend x0) := by
  intro x0 f hf hw
  cases hf
theorem FieldsReadBack.sideboardReceipt : ∀ x0 x1 x2, FieldsReadBack.Statement (.sideboardReceipt x0 x1 x2) := by
  intro x0 x1 x2 f hf hw
  cases hf
theorem FieldsReadBack.silenceTimeout : ∀ x0 x1, FieldsReadBack.Statement (.silenceTimeout x0 x1) := by
  intro x0 x1 f hf hw
  cases hf
theorem FieldsReadBack.contributionSend : ∀ x0, FieldsReadBack.Statement (.contributionSend x0) := by
  intro x0 f hf hw
  cases hf
theorem FieldsReadBack.contributionArrival : ∀ x0, FieldsReadBack.Statement (.contributionArrival x0) := by
  intro x0 f hf hw
  cases hf
theorem FieldsReadBack.closeTimerExpiry : ∀ x0, FieldsReadBack.Statement (.closeTimerExpiry x0) := by
  intro x0 f hf hw
  cases hf
theorem FieldsReadBack.resultArrival : ∀ x0, FieldsReadBack.Statement (.resultArrival x0) := by
  intro x0 f hf hw
  cases hf
theorem FieldsReadBack.collGetLost : ∀ x0 x1, FieldsReadBack.Statement (.collGetLost x0 x1) := by
  intro x0 x1 f hf hw
  cases hf
theorem FieldsReadBack.resend : ∀ x0, FieldsReadBack.Statement (.resend x0) := by
  intro x0 f hf hw
  cases hf
theorem FieldsReadBack.copyComplete : ∀ x0, FieldsReadBack.Statement (.copyComplete x0) := by
  intro x0 f hf hw
  cases hf
theorem FieldsReadBack.hutchEnqueue : ∀ x0, FieldsReadBack.Statement (.hutchEnqueue x0) := by
  intro x0 f hf hw
  cases hf
theorem FieldsReadBack.hutchFupd : ∀ x0, FieldsReadBack.Statement (.hutchFupd x0) := by
  intro x0 f hf hw
  cases hf
theorem FieldsReadBack.hutchScale : ∀ x0, FieldsReadBack.Statement (.hutchScale x0) := by
  intro x0 f hf hw
  cases hf
theorem FieldsReadBack.hutchFade : ∀ x0, FieldsReadBack.Statement (.hutchFade x0) := by
  intro x0 f hf hw
  cases hf
theorem FieldsReadBack.hutchCopy : ∀ x0, FieldsReadBack.Statement (.hutchCopy x0) := by
  intro x0 f hf hw
  cases hf
theorem FieldsReadBack.hutchCksum : ∀ x0, FieldsReadBack.Statement (.hutchCksum x0) := by
  intro x0 f hf hw
  cases hf
theorem FieldsReadBack.mirrorSend : FieldsReadBack.Statement (.mirrorSend) := by
  intro f hf hw
  cases hf
theorem FieldsReadBack.mirrorArrival : ∀ x0, FieldsReadBack.Statement (.mirrorArrival x0) := by
  intro x0 f hf hw
  cases hf
theorem FieldsReadBack.snapshotWrite : FieldsReadBack.Statement (.snapshotWrite) := by
  intro f hf hw
  cases hf
theorem FieldsReadBack.fillPages : ∀ x0, FieldsReadBack.Statement (.fillPages x0) := by
  intro x0 f hf hw
  cases hf
theorem FieldsReadBack.admitJob : ∀ x0 x1, FieldsReadBack.Statement (.admitJob x0 x1) := by
  intro x0 x1 f hf hw
  cases hf
theorem FieldsReadBack.hostWrite : ∀ x0 x1 x2 x3, FieldsReadBack.Statement (.hostWrite x0 x1 x2 x3) := by
  intro x0 x1 x2 x3 f hf hw
  cases hf
theorem FieldsReadBack.appendPhase : ∀ x0 x1 x2, FieldsReadBack.Statement (.appendPhase x0 x1 x2) := by
  intro x0 x1 x2 f hf hw
  cases hf
theorem FieldsReadBack.cancelObject : ∀ x0 x1 x2 x3, FieldsReadBack.Statement (.cancelObject x0 x1 x2 x3) := by
  intro x0 x1 x2 x3 f hf hw
  cases hf
theorem FieldsReadBack.retireJob : ∀ x0 x1, FieldsReadBack.Statement (.retireJob x0 x1) := by
  intro x0 x1 f hf hw
  cases hf
theorem FieldsReadBack.regRead : ∀ x0 x1 x2, FieldsReadBack.Statement (.regRead x0 x1 x2) := by
  intro x0 x1 x2 f hf hw
  cases hf
theorem FieldsReadBack.regWrite : ∀ x0 x1 x2 x3, FieldsReadBack.Statement (.regWrite x0 x1 x2 x3) := by
  intro x0 x1 x2 x3 f hf hw
  cases hf
theorem FieldsReadBack.identMessage : ∀ x0, FieldsReadBack.Statement (.identMessage x0) := by
  intro x0 f hf hw
  cases hf
theorem FieldsReadBack.attestMessage : ∀ x0 x1, FieldsReadBack.Statement (.attestMessage x0 x1) := by
  intro x0 x1 f hf hw
  cases hf
theorem FieldsReadBack.storeReply : ∀ x0, FieldsReadBack.Statement (.storeReply x0) := by
  intro x0 f hf hw
  cases hf
theorem FieldsReadBack.warmStart : ∀ x0, FieldsReadBack.Statement (.warmStart x0) := by
  intro x0 f hf hw
  cases hf
theorem FieldsReadBack.coldStart : ∀ x0, FieldsReadBack.Statement (.coldStart x0) := by
  intro x0 f hf hw
  cases hf
theorem FieldsReadBack.fwCommit : ∀ x0, FieldsReadBack.Statement (.fwCommit x0) := by
  intro x0 f hf hw
  cases hf
theorem FieldsReadBack.monStart : ∀ x0 x1, FieldsReadBack.Statement (.monStart x0 x1) := by
  intro x0 x1 f hf hw
  cases hf
theorem FieldsReadBack.monStop : ∀ x0 x1, FieldsReadBack.Statement (.monStop x0 x1) := by
  intro x0 x1 f hf hw
  cases hf
theorem FieldsReadBack.monFreeze : ∀ x0 x1, FieldsReadBack.Statement (.monFreeze x0 x1) := by
  intro x0 x1 f hf hw
  cases hf
theorem FieldsReadBack.monClear : ∀ x0 x1, FieldsReadBack.Statement (.monClear x0 x1) := by
  intro x0 x1 f hf hw
  cases hf
theorem FieldsReadBack.hostPortsWrite : ∀ x0 x1, FieldsReadBack.Statement (.hostPortsWrite x0 x1) := by
  intro x0 x1 f hf hw
  cases hf
theorem FieldsReadBack.remapWrite : ∀ x0 x1 x2, FieldsReadBack.Statement (.remapWrite x0 x1 x2) := by
  intro x0 x1 x2 f hf hw
  cases hf
theorem FieldsReadBack.resmapWrite : ∀ x0 x1 x2 x3 x4, FieldsReadBack.Statement (.resmapWrite x0 x1 x2 x3 x4) := by
  intro x0 x1 x2 x3 x4 f hf hw
  cases hf
theorem FieldsReadBack.powerOn : FieldsReadBack.Statement (.powerOn) := by
  intro f hf hw
  cases hf
theorem FieldsReadBack.fuseDone : FieldsReadBack.Statement (.fuseDone) := by
  intro f hf hw
  cases hf
theorem FieldsReadBack.signDone : ∀ x0, FieldsReadBack.Statement (.signDone x0) := by
  intro x0 f hf hw
  cases hf
theorem FieldsReadBack.hbmDone : ∀ x0, FieldsReadBack.Statement (.hbmDone x0) := by
  intro x0 f hf hw
  cases hf
theorem FieldsReadBack.bistDone : ∀ x0, FieldsReadBack.Statement (.bistDone x0) := by
  intro x0 f hf hw
  cases hf
theorem FieldsReadBack.fabricDone : ∀ x0, FieldsReadBack.Statement (.fabricDone x0) := by
  intro x0 f hf hw
  cases hf
theorem FieldsReadBack.powerSample : ∀ x0, FieldsReadBack.Statement (.powerSample x0) := by
  intro x0 f hf hw
  cases hf
theorem FieldsReadBack.levelFall : FieldsReadBack.Statement (.levelFall) := by
  intro f hf hw
  cases hf
theorem FieldsReadBack.creditGrant : ∀ x0 x1, FieldsReadBack.Statement (.creditGrant x0 x1) := by
  intro x0 x1 f hf hw
  cases hf
theorem FieldsReadBack.noticeAcknowledgement : ∀ x0 x1, FieldsReadBack.Statement (.noticeAcknowledgement x0 x1) := by
  intro x0 x1 f hf hw
  cases hf
theorem FieldsReadBack.probeReceipt : ∀ x0, FieldsReadBack.Statement (.probeReceipt x0) := by
  intro x0 f hf hw
  cases hf
theorem FieldsReadBack.identityRecordArrival : ∀ x0 x1, FieldsReadBack.Statement (.identityRecordArrival x0 x1) := by
  intro x0 x1 f hf hw
  cases hf
theorem FieldsReadBack.holdCopyRead : ∀ x0, FieldsReadBack.Statement (.holdCopyRead x0) := by
  intro x0 f hf hw
  cases hf
theorem FieldsReadBack.reservedHostMessage : ∀ x0 x1 x2, FieldsReadBack.Statement (.reservedHostMessage x0 x1 x2) := by
  intro x0 x1 x2 f hf hw
  cases hf

end Sys2Proof.Laws
end

