-- ==== Sys2Proof/Tests/Slice0.lean ====
section
/-! SUPPORT. Tests of the SX-4 model: ill-formed instructions, words written out by the encoding tables, single steps on small states, and for each statement a state that meets its hypotheses. -/

set_option Elab.async false
namespace Sys2Proof.Tests
open Sys2Proof Sys2Proof.Machine

/-! Small terms and states. -/

/-- A register operand that is not reused. -/
def rv (n : VReg) : RegOpd := { reg := .v n, reuse := false }
/-- A scalar operand that is not reused. -/
def rs (n : SReg) : RegOpd := { reg := .s n, reuse := false }
/-- Operand b from a vector register. -/
def ob (n : VReg) : Opd := .reg (.v n) false
/-- Unary, of v4 into v8. -/
def un (ty : Ty) : Un := { g := none, tr := false, sat := false, ty, rnd := .rne, part := .full, d := .v 8, a := ob 4 }
/-- Binary, of v4 and v6 into v8. -/
def bin (ty : Ty) : Bin := { g := none, tr := false, sat := false, ty, rnd := .rne, part := .full, d := .v 8, a := rv 4, b := ob 6 }
/-- Ternary, of v4, v6 and v10 into v8. -/
def tri (ty : Ty) : Tri := { g := none, tr := false, sat := false, ty, rnd := .rne, part := .full, d := .v 8, a := rv 4, b := ob 6, c := rv 10 }
/-- Short form of v5 and v6 into v4. -/
def sh3 : Short3 := { d := .v 4, a := .v 5, b := .v 6 }
/-- A predicate code that is off. -/
def noP : PSel := { en := false, p := 0 }
/-- A literal offset. -/
def off (n : Nat) : MOff := .lit (BitVec.ofNat 32 n)
/-- A load of v8 from s4 and an offset. -/
def ldAt (n : Nat) : LdF := { g := none, size := .b32, pol := .l1, d := .v 8, a := rs 4, off := off n }
/-- A store of v8 to s4 and an offset. -/
def stAt (n : Nat) : StF := { g := none, size := .b32, a := rs 4, off := off n, c := rv 8 }
/-- The machine with one instruction placed: group 2 of team 1 and job 0, on core 0, may read, write and run the first 64 KiB. -/
def base : State := State.reset.withFetchWord 32 1
/-- `base` with a changed device. -/
def on (f : Device → Device) : State := { base with dev := f base.dev }
/-- The placed group changed. -/
def withGroup (f : Group → Group) : State := on fun d => d.modGroup 2 f
/-- The placed group's scalars from s4 on. -/
def withS (xs : List Nat) : State := withGroup fun g => { g with s := ((List.range xs.length).zip xs).foldl (fun s e => listSet s (4 + e.1) (BitVec.ofNat 64 e.2)) g.s }
/-- The context of an instruction that can issue meets a condition. -/
def readyAnd (i : Instr) (gd : Option Guard) (s : State) (p : Ctx → Bool) : Bool := match ready i gd s with | some c => p c | none => false
/-- An instruction can issue in the state of `base`. -/
def can (i : Instr) : Bool := i.wf && readyAnd i none base fun _ => true
/-- A check has passed, and what it gives meets a condition. -/
def okAnd {α : Type} (r : Except Stop α) (p : α → Bool) : Bool := match r with | .ok x => p x | .error _ => false
/-- A value is there, and meets a condition. -/
def thereAnd {α : Type} (r : Option α) (p : α → Bool) : Bool := match r with | some x => p x | none => false

/-! Instructions that can issue (statements that ask nothing else). -/

theorem meets_arithmetic_and_logic_complete :
    ([.add (bin .i32), .sub (bin .f32), .mul (bin .f16), .mulhi (bin .i32), .mad (tri .i32), .divstep (bin .w32), .min (bin .i32), .max (bin .f32), .abs (un .i32), .neg (un .f32), .addc (bin .w32) 1, .subb (bin .w32) 1, .fma (tri .f32),
      .addI32Short sh3, .subI32Short sh3, .addF32Short sh3, .mulF32Short sh3, .lut3 { g := none, tr := false, table := 0x96, d := .v 8, a := rv 4, b := ob 6, c := rv 10 }, .andB32Short sh3, .orB32Short sh3, .xorB32Short sh3,
      .shl (bin .b32), .shr (bin .b64), .sra (bin .i32), .rot (bin .b32), .shlB32Short sh3, .shrB32Short sh3, .popc (un .b32), .clz (un .b64), .brev (un .b32), .bfe (tri .w32), .bfi (tri .b32), .bperm (tri .b32)] : List Instr).all can = true := by decide +kernel
/-- A block-scaled conversion of v4 into v8, its scales in v20. -/
def bs (ty : Ty) (rnd : Rnd) : Bs := { g := none, tr := false, sat := false, ty, rnd, d := .v 8, a := rv 4, vs := rv 20, base := 124 }
/-- A shuffle of v4 by v6 into v8. -/
def shfl : Shfl := { g := none, tr := false, ty := .b32, d := .v 8, a := rv 4, b := ob 6, pn := noP }
/-- A reduction of v4. -/
def red (d : Reg) : RedF := { g := none, tr := false, sat := false, ty := .i32, rnd := .rne, op := .add, d, a := ob 4 }
theorem meets_conversions_and_lane_instructions_complete :
    ([.cvt (un .f32) .i32 0, .cvtPk (bin .f16) .f32, .bsPack (bs .e4m3 .rsd), .bsUnpack (bs .e4m3 .rne), .cmp { g := none, ty := .i32, part := .full, cond := .lt, comb := .set, pd := 1, a := rv 4, b := ob 6 }, .sel (bin .b32) 1,
      .classOf { g := none, ty := .f32, part := .full, pd := 1, a := ob 4, mask := 1 }, .plog { g := none, table := 1, pd := 1, pa := 2, pb := 3, pc := 4 }, .ptov none false (.v 8) 1, .vtop none 1 (ob 4),
      .shflIdx shfl, .shflUp { shfl with b := .lit 31 }, .shflDn { shfl with b := .lit 31 }, .shflXor { shfl with b := .lit 31 }, .scan (red (.v 8)), .scanx (red (.v 8)), .rdc (red (.s 8)), .vote none .all 1 2, .ballot none false (.s 8) 1, .rnd none false (.v 8) (rs 4) (ob 4), .mov (un .b32), .movB32Short (.v 8) (.v 4),
      .rdlane { (bin .b32) with d := .s 8, b := .lit 31 }, .wrlane { (bin .b32) with a := rs 4, b := .reg (.s 5) false }, .nop, .yield, .yieldShort] : List Instr).all can = true := by decide +kernel
theorem meets_long_latency_begins :
    ([.rcp (un .f32), .rsq (un .f32), .sqrt (un .f32), .exp2 (un .f32), .log2 (un .f32), .tanh (un .f32), .sort (un .i32) true] : List Instr).all can = true := by decide +kernel
theorem meets_software_traps_taken : ([.trapCode 0xFFFF, .brk 1 0, .brk 3 1] : List Instr).all can = true := by decide +kernel
/-- The control registers and timelines that are read whatever else holds. -/
theorem meets_sys_rd_and_tl_rd : ([.sysRd (.v 6) 0, .sysRd (.s 6) 0x20, .tlRd 5 0, .tlRd 5 15] : List Instr).all can = true := by decide +kernel

/-! A job with tables, a version record, a collective binding and a shape record. -/

/-- An entry of a table: flags from bit 48 on, address. -/
def entryAt (at_ flags addr : Nat) (d : Device) : Device := d.writeBytes at_ (bytesOf 8 (flags * 2 ^ 48) ++ bytesOf 8 addr)
/-- The version record: slot 0 SEALED for step 5, slot 1 OPEN for step 6, the others FREE. -/
def recordBytes : List Byte :=
  [(0x10000, 5, 2), (0x20000, 6, 1), (0x30000, 0, 0), (0x40000, 0, 0)].flatMap fun x => bytesOf 8 x.1 ++ bytesOf 4 x.2.1 ++ bytesOf 1 x.2.2 ++ bytesOf 3 0
/-- The binding: two members, one chunk, timer 10, quorum 1. -/
def bindingBytes (mask timer : Nat) : List Byte :=
  bytesOf 16 0 ++ bytesOf 2 1 ++ bytesOf 2 1 ++ bytesOf 4 timer ++ bytesOf 4 1 ++ bytesOf 4 0 ++ bytesOf 8 0 ++ bytesOf 8 0xE000 ++ bytesOf 8 0xD000 ++ bytesOf 8 0xC000 ++ bytesOf 64 mask
/-- The shape record: seven rows of 64 bytes in two sequences, the second from row 4 on. -/
def shapeBytes : List Byte := bytesOf 4 9 ++ bytesOf 4 7 ++ bytesOf 4 64 ++ bytesOf 2 2 ++ bytesOf 1 4 ++ bytesOf 1 2 ++ bytesOf 4 16 ++ bytesOf 44 0 ++ bytesOf 4 0 ++ bytesOf 4 4
/-- The leaf of a versioned page at 0x20000, its record at 0x8000. -/
def verLeaf : Leaf := { base := 0x20000, size := 65536, addr := 0x8000, frame := none, attr := 0x81, r := true, w := true, x := false }
/-- The device of `base` with pages 0 (plain), 2 (versioned), 3 (replicated) and 4 (replayable) in the tables of job 0. -/
def mappedDevice (mask timer : Nat) : Device :=
  let d := (entryAt 0x103040 0x20 0 (entryAt 0x103030 0x4113 0x8100 (entryAt 0x103020 0x8117 0x8000 (entryAt 0x103000 0x11F 0 (entryAt 0x102000 1 0x103000 (entryAt 0x101000 1 0x102000 (entryAt 0x100000 1 0x101000 base.dev)))))))
  let d := ((((d.writeBytes 0x8000 recordBytes).writeBytes 0x8100 (bytesOf 8 0x50000)).writeBytes 0x9000 (bindingBytes mask timer)).writeBytes 0x400 shapeBytes).modJob 0 fun j => { j with xroot := 0x100000 }
  d.modCore 0 fun c => { c with xlat := fillLeaf (fillLeaf c.xlat 64 0 { codeLeaf with attr := 1 }) 64 0 verLeaf }
/-- A platform at READY whose own number is 0, with peer 1. -/
def wired : Platform := { Platform.reset with start := .ready, remap := [(0, 0x80000000), (1, 0x80000001)] }
/-- `base` with these tables, the placed group's scalars from s4 on, and changed. -/
def mapped (xs : List Nat) (f : Device → Device) : State :=
  let s := withS xs
  { s with plat := wired, dev := f { mappedDevice 3 10 with groups := s.dev.groups } }

/-! Loads and stores. -/

/-- The accesses pass their checks, and meet nothing under way. -/
def placed (c : Ctx) (acc : Access) (n : Nat) (own : Leaf → Option ExcCode) (es : List (Nat × DWord)) (p : List Place → Bool) : Bool :=
  let ps := es.map (c.placeAt acc)
  c.passes acc n own es && c.settled (ps.map fun q => (q, n)) && (ps.all fun q => !bufferedOver c.g q.pa n) && p ps
/-- The snapshot of the shape record. -/
def snap : Snapshot := { addr := 0x400, header := shapeBytes.take 64, table := [0, 4] }
/-- `mapped` with that snapshot in sh2. -/
def shaped : State := mapped [0x1000, 3] fun d => d.modGroup 2 fun g => { g with shapes := [none, none, some snap, none] }

theorem meets_load : readyAnd (.ld (ldAt 0xFFFC)) none base (fun c => c.lanes != 0 && placed c .load 4 (fun _ => none) (c.addrs (.s 4) (off 0xFFFC)) fun ps => (laneValues c .l1 4 ps base.dev).isSome) = true := by decide +kernel
theorem meets_load_scalar : readyAnd (.ld { ldAt 0x40 with d := .s 8 }) none base (fun c => placed c .load 4 (fun _ => none) ((c.addrs (.s 4) (off 0x40)).take 1) fun ps => (laneValues c .l1 4 ps base.dev).isSome) = true := by decide +kernel
theorem meets_ragged_load : readyAnd (.ldRag { g := none, size := .b32, pol := .thru, d := .v 8, a := rs 4, row := off 6, sh := 2, one := true }) none shaped (fun c => okAnd (c.shape 2) fun sn =>
    let live := ((lanesOf c.lanes).map fun l => (l, mOff32 c.g c.sp l (off 6))).filter fun x => decide (x.2 < sn.rows)
    !sn.crosses (live.map (·.2)) && placed c .load 4 (fun _ => none) (live.map fun x => (x.1, BitVec.ofNat 64 (base64 c.g c.sp 0 (.s 4) + x.2 * sn.pitch))) fun ps => !ps.isEmpty && (laneValues c .thru 4 ps shaped.dev).isSome) = true := by decide +kernel
theorem meets_store : readyAnd (.st (stAt 0xFFFC)) none base (fun c => c.lanes != 0 && placed c .store 4 notVersioned (c.addrs (.s 4) (off 0xFFFC)) (fun _ => true) && decide (c.g.sb.length < 16) && decide (unacked c.g < 255)) = true := by decide +kernel
/-- `base` with a window of 4096 bytes. -/
def windowed : State := on fun d => d.modTeam 1 fun t => { t with windowSize := 4096 }
theorem meets_window_accesses :
    ([false, true].all fun store => readyAnd (if store then .stSp (stAt 4092) else .ldSp (ldAt 4092)) none windowed fun c => c.lanes != 0 && c.inWindow 4 (c.offsets (.s 4) (off 4092)) && (c.offsets (.s 4) (off 4092)).all fun p => !windowBusy c store p.2 4) = true := by decide +kernel
theorem meets_version_accesses :
    readyAnd (.stVer (stAt 0x40)) none (mapped [0x20000] id) (fun c => c.lanes != 0 && decide (unacked c.g < 255) && c.passes .store 4 mustVersioned (c.addrs (.s 4) (off 0x40))) &&
    readyAnd (.sealVer (rs 4) (off 0)) none (mapped [0x20000] id) (fun c => room (.sealVer (rs 4) (off 0)) c && c.passes .store 1 mustVersioned [(0, globalEa c.g c.sp (.s 4) (off 0) 0)]) &&
    readyAnd (.ldVer { g := none, size := .b32, d := .v 8, a := rs 4, off := off 0xFFFC, sm := rs 5 }) none (mapped [0x20000, 5] id) (fun c => c.lanes != 0 &&
      (let es := c.addrs (.s 4) (off 0xFFFC)
       let l := ((es.map (c.placeAt .load)).headD default).leaf
       c.passes .load 4 (fun x => (mustVersioned x) <|> (if x.base != l.base then some .versionSpan else none)) es)) = true := by decide +kernel

/-! Guards that select no lane. -/

/-- p1, which is 0 in a fresh group. -/
def p1 : Option Guard := some { neg := false, p := 1 }
/-- An atomic add of v8 at s4. -/
def atomAt (n : Nat) : AtomF := { g := none, ty := .b32, op := .xor, d := .v 10, a := rs 4, off := off n, c := rv 8 }
/-- A reduction of v8 at s4. -/
def redAt (n : Nat) : RedMemF := { g := none, ty := .i32, op := .add, a := rs 4, off := off n, c := rv 8 }
theorem meets_no_lane_no_effect :
    ([.ld { ldAt 0 with g := p1 }, .st { stAt 0 with g := p1 }, .ldSp { ldAt 0 with g := p1 }, .stSp { stAt 0 with g := p1 }, .ldVer { g := p1, size := .b32, d := .v 8, a := rs 4, off := off 0, sm := rs 5 }, .stVer { stAt 0 with g := p1 },
      .ldRag { g := p1, size := .b32, pol := .l1, d := .v 8, a := rs 4, row := off 0, sh := 2, one := false }, .raLd { g := p1, size := .b32, d := .v 8, a := rs 4, off := .sc 6 false, pn := noP },
      .red { redAt 0 with g := p1 }, .redAddCf32 { g := p1, a := rs 4, off := off 0, c := rv 8 }, .dcnt p1 (rs 4) (off 1), .raSt { stAt 0 with g := p1, off := .sc 6 false }, .raRed { redAt 0 with g := p1, off := .sc 6 false }, .rst p1 (rs 4) 8 (.vec 9 false),
      .atom { atomAt 0 with g := p1 }, .raAtom { atomAt 0 with g := p1, off := .sc 6 false }] : List Instr).all (fun i => i.wf && readyAnd i p1 base fun c => c.lanes == 0 && c.clear && room i c) = true := by decide +kernel

/-! Atomics, locks, fences, counters, names, holds. -/

theorem meets_atomics_start :
    readyAnd (.atom (atomAt 0xFFFC)) none base (fun c => c.clear && c.lanes != 0 && placed c .store 4 notVersioned (c.addrs (.s 4) (off 0xFFFC)) fun ps => ps.length == 32) &&
    readyAnd (.red (redAt 0xFFFC)) none base (fun c => room (.red (redAt 0xFFFC)) c && c.lanes != 0 && c.passes .store 4 notVersioned (c.addrs (.s 4) (off 0xFFFC))) &&
    readyAnd (.redAddCf32 { g := none, a := rs 4, off := off 0xFFF8, c := rv 8 }) none base (fun c => room (.redAddCf32 { g := none, a := rs 4, off := off 0xFFF8, c := rv 8 }) c && c.lanes != 0 && c.passes .store 8 notVersioned (c.addrs (.s 4) (off 0xFFF8))) = true := by decide +kernel
/-- A lock of the line at s4. -/
def lkAt : LkF := { d := .s 9, pd := { en := true, p := 1 }, a := rs 4, t := some 100 }
/-- `base`, group 2 holds the line at 0x800, of which the bench is told. -/
def locked : State := { (withS [0x800]) with dev := takeLock ((withS [0x800]).dev.modSlice (homeSlice base.plat 0x800) fun b => setBench b 0x800 { holder := some 2, queue := [], poisoned := false, clock := clockZero }) 2 0x800 0x800 }
/-- `locked`, its bench full of other lines. -/
def fullBench : State := { (withS [0x840]) with dev := (withS [0x840]).dev.modSlice (homeSlice base.plat 0x840) fun b => { b with bench := (List.range 256).map fun i => (0x10000 + 64 * i, { holder := some 9, queue := [], poisoned := false, clock := clockZero }) } }
/-- What the statement on `lktry` asks of the line at an address, and a condition on the line and its bench. -/
def triesAt (c : Ctx) (s : State) (va : DWord) (p : LockLine → Slice → Bool) : Bool :=
  let pa := (c.placeAt .store (0, va)).pa
  let b := s.dev.slice (homeSlice s.plat pa)
  c.clear && c.mayLock false va && !(b.releases.any fun r => r.1 == pa) && p (benchLine b pa) b
theorem meets_locks :
    readyAnd (.lk lkAt) none (withS [0x800]) (fun c => c.clear && c.mayLock true 0x800 && globalEa c.g c.sp (.s 4) (.none false) 0 == 0x800) &&
    readyAnd (.lktry lkAt) none (withS [0x800]) (fun c => triesAt c base 0x800 fun l b => l.holder == none && decide (benchLines b < 256)) &&
    readyAnd (.lktry lkAt) none locked (fun c => triesAt c locked 0x800 fun l _ => l.holder != none) &&
    readyAnd (.lktry lkAt) none fullBench (fun c => triesAt c fullBench 0x840 fun l b => l.holder == none && decide (256 ≤ benchLines b)) &&
    readyAnd (.unlk (rs 4)) none locked (fun c => room (.unlk (rs 4)) c && thereAnd (c.g.lockVas.find? fun y => y.2 == globalEa c.g c.sp (.s 4) (.none false) 0) fun x => !((c.g.effects ++ c.g.handed).any fun e => e.act == .unlk x.1)) = true := by decide +kernel
theorem meets_fences :
    ([.fence .acq .grp, .fence .acq .pod, .fence .rel .grp, .fence .rel .pod, .fence .ar .grp, .fence .ar .dev, .bar, .barWait, .arriveN (off 1), .arriveNNw (off 1)] : List Instr).all (fun i => i.wf && readyAnd i none base fun c => c.clear && !loadsOut c.g && decide ((liveSplits c.g).length ≤ 1)) = true := by decide +kernel
/-- `base` with every pool drawer of core 0 in use. -/
def noDrawer : State := on fun d => d.modCore 0 fun c => { c with drawers := c.drawers ++ (List.range 192).map fun i => (64 + i, { Drawer.free 0 with kind := 2 }) }
theorem meets_counters :
    readyAnd (.waitCtr 8 (rs 4) (rs 5) (some 9)) none (withS [0xFFF8, 3]) (fun c => c.passes .load 8 notVersioned [(0, globalEa c.g c.sp (.s 4) (.none false) 0)]) &&
    readyAnd (.post 8 (rs 4) (rs 5) (off 1)) none base (fun c => room (.post 8 (rs 4) (rs 5) (off 1)) c && base.dev.poolDrawer c.g.core != none) &&
    readyAnd (.post 8 (rs 4) (rs 5) (off 1)) none noDrawer (fun c => room (.post 8 (rs 4) (rs 5) (off 1)) c && noDrawer.dev.poolDrawer c.g.core == none) &&
    readyAnd (.dcnt none (rv 4) (off 1)) none base (fun c => room (.dcnt none (rv 4) (off 1)) c && c.lanes != 0) = true := by decide +kernel
/-- `base` with a name for the group. -/
def named : State := { base with dev := { base.dev with names := [(1, { gen := 0, holder := some 2, exited := false })] }.modGroup 2 fun g => { g with name := 0x100 } }
/-- A full hold table: v8 is in it, v12 is not. -/
def holding : State := withGroup fun g => { g with holds := [8, 9, 10, 11].map fun r => { reg := r, count := 2 } }
/-- Every entry of the name table is held; the table is a list, and a long one is built of parts. -/
def heldNames : Nat → Tbl NameEntry
  | 0 => []
  | n + 1 => heldNames n ++ [(n + 1, { gen := 0, holder := some 9, exited := false })]
theorem meets_names_and_holds :
    readyAnd (.hold 8 (off 1)) none base (fun c => !unheldReg c.g 8 && decide (c.g.holds.length < 4)) && readyAnd (.hold 8 (off 1)) none holding (fun c => !unheldReg c.g 8 && (holdOf c.g.holds 8).isSome) &&
    readyAnd (.hold 12 (off 0xFFFFFFFF)) none holding (fun c => !unheldReg c.g 12 && decide (sext 32 (mOff32 c.g c.sp 0 (off 0xFFFFFFFF)) ≤ 0)) &&
    readyAnd (.nameGet 8) none named (fun c => c.clear && c.g.name != 0) && readyAnd (.nameGet 8) none base (fun c => c.clear && c.g.name == 0 && freeName base.dev == some 1) &&
    readyAnd .nameFree none base (fun c => c.g.name == 0) && readyAnd .nameFree none named (fun c => c.g.name != 0) = true := by decide +kernel
theorem held_names (n i : Nat) (h : 1 ≤ i) (k : i ≤ n) : (Tbl.find (heldNames n) i).map (·.holder.isNone) = some false := by
  have app (a : Tbl NameEntry) (x : Nat × NameEntry) (j : Nat) : Tbl.find (a ++ [x]) j = (Tbl.find a j).or (if j = x.1 then some x.2 else none) := by
    induction a with
    | nil => simp [Tbl.find]
    | cons y t ih => simp only [List.cons_append, Tbl.find]; split <;> simp [*]
  induction n with
  | zero => omega
  | succ n ih =>
    rw [heldNames, app]
    by_cases e : i = n + 1
    · cases hf : Tbl.find (heldNames n) i with
      | none => simp [e]
      | some x => subst e; exact absurd hf (by
          have : ∀ m, (Tbl.find (heldNames m) (m + 1)) = none := by
            have low : ∀ m j, m < j → Tbl.find (heldNames m) j = none := by
              intro m; induction m with
              | zero => intro j _; rfl
              | succ m ihm => intro j hj; rw [heldNames, app, ihm j (by omega)]; simp; omega
            exact fun m => low m (m + 1) (by omega)
          simp [this])
    · cases hf : Tbl.find (heldNames n) i with
      | none => have := ih (by omega); simp [hf] at this
      | some x => have := ih (by omega); simp [hf] at this; simp [this]
theorem held_names_length (n : Nat) : (heldNames n).length = n := by induction n with | zero => rfl | succ n ih => simp [heldNames, ih]
/-- `base` with every name held. -/
def noName : State := { base with dev := { base.dev with names := heldNames 32767 } }
theorem meets_no_free_name : readyAnd (.nameGet 8) none noName (fun c => c.clear && c.g.name == 0) = true ∧ freeName noName.dev = none := by
  refine ⟨by decide +kernel, ?_⟩
  simp only [freeName, noName, held_names_length, List.find?_eq_none, List.mem_map, List.mem_range]
  rintro x ⟨i, hi, rfl⟩
  by_cases h : i + 1 ≤ 32767
  · simp [held_names 32767 (i + 1) (by omega) h]
  · simp; omega

/-! Remote accesses. -/

/-- `base` with lane l of v4 naming peer l / 16, in a pair of peers. -/
def twoPeers : State := { (withS [1, 0, 0x40]) with dev := (withS [1, 0, 0x40]).dev.modGroup 2 fun g => { g with v := (List.range 16).foldl (fun v l => Tbl.set v (32 * 4 + 16 + l) 1) g.v } }
/-- An access to the peer in a register at the address in s6 passes, and the lanes of other peers than the first are these. -/
def reaches (c : Ctx) (a : Reg) (rest : Nat) : Bool := c.lanes != 0 && c.remotePasses a (.sc 6 false) 4 && maskWhere c.lanes (fun l => remotePeer c a l != firstPeer c a) == BitVec.ofNat 32 rest
/-- An `ra.ld` of a peer in a register. -/
def raLdOf (a : RegOpd) : RaLdF := { g := none, size := .b32, d := .v 8, a, off := .sc 6 false, pn := noP }
/-- A group that has issued its atomic for some lanes. -/
def restOf : State := { twoPeers with dev := twoPeers.dev.modGroup 2 fun g => { g with splits := Tbl.mapVals (fun (sp : Split) => { sp with rest := some 0xFFFF0000 }) g.splits } }
theorem meets_remote_accesses_start :
    readyAnd (.raLd (raLdOf (rs 4))) none (withS [1, 0, 0x40]) (fun c => reaches c (.s 4) 0) && readyAnd (.raLd (raLdOf (rv 4))) none twoPeers (fun c => reaches c (.v 4) 0xFFFF0000) &&
    readyAnd (.raAtom { atomAt 0 with off := .sc 6 false }) none (withS [511, 0, 0x40]) (fun c => c.clear && reaches c (.s 4) 0) && readyAnd (.raAtom { atomAt 0 with a := rv 4, off := .sc 6 false }) none twoPeers (fun c => c.clear && reaches c (.v 4) 0xFFFF0000) &&
    readyAnd (.raAtom { atomAt 0 with a := rv 4, off := .sc 6 false }) none restOf (fun c => c.sp.rest != none && reaches c (.v 4) 0) &&
    readyAnd (.raSt { stAt 0 with off := .sc 6 false }) none (withS [1, 0, 0x40]) (fun c => room (.raSt { stAt 0 with off := .sc 6 false }) c && reaches c (.s 4) 0) &&
    readyAnd (.raRed { redAt 0 with off := .sc 6 false }) none (withS [1, 0, 0x40]) (fun c => room (.raRed { redAt 0 with off := .sc 6 false }) c && reaches c (.s 4) 0) &&
    readyAnd (.rst none (rs 4) 8 (.vec 9 false)) none base (fun c => room (.rst none (rs 4) 8 (.vec 9 false)) c && c.lanes != 0) = true := by decide +kernel

/-! Tiles, shapes, matrices. -/

/-- `mapped` with tiles 3 and 5 reserved to the group, the snapshot in sh2 and a window. -/
def tiled (xs : List Nat) : State := mapped xs fun d => ((d.modCore 0 fun k => { k with tiles := [(3, { owner := some 2, job := some 0, cells := [] }), (5, { owner := some 2, job := some 0, cells := [] })] }).modGroup 2 fun g => { g with shapes := [none, none, some snap, none] }).modTeam 1 fun t => { t with windowSize := 65536 }
theorem meets_mres_mrel :
    readyAnd (.mres 1 (.lit 0xFFFF)) none (tiled []) (fun c => (List.range 16).all fun t => (tileOf (tiled []).dev c.g.core t).owner == none || (tileOf (tiled []).dev c.g.core t).owner == some c.gid) &&
    readyAnd (.mres 1 (.lit 8)) none { tiled [] with dev := (tiled []).dev.modCore 0 fun k => { k with tiles := [(3, { owner := some 9, job := none, cells := [] })] } } (fun c => (tileOf c.d c.g.core 3).owner == some 9) &&
    readyAnd (.mrel (.lit 8)) none (tiled []) (fun c => c.g.ops.isEmpty && (tileOf (tiled []).dev c.g.core 3).owner == some c.gid) = true := by decide +kernel
theorem meets_tile_writes :
    ([.accZero none 3, .accMovToVec { g := none, v := 8, reuse := false, tile := 3, j0 := 31, log2n := 0 }, .accMovToTile { g := none, v := 0, reuse := false, tile := 3, j0 := 0, log2n := 5 }, .osmUpd { g := none, d := 8, sTile := 3, oEn := true, oTile := 5 },
      .osmUpd { g := none, d := 8, sTile := 3, oEn := false, oTile := 0 }, .osmFin none 3 8 false] : List Instr).all (fun i => i.wf && readyAnd i none (tiled []) fun c => ownsTile c 3 && ownsTile c 5) = true := by decide +kernel
/-- Ranges that are read pass their checks, meet nothing under way and wait for no visitor copy. -/
def reads (c : Ctx) (ss : List Span) (p : List (Span × Place) → Bool) : Bool :=
  let ps := c.rangesAt .load ss
  c.rangesPass .load (fun _ => none) ss && c.settled (ps.map fun p => (p.2, p.1.len)) && (thruParts c ps c.d).isSome && p ps
theorem meets_shapes :
    readyAnd (.ragRdc { g := none, d := 8, a := 9, reuse := false, row0 := .lit 4, ty := .i32, op := .add, pn := noP, seq := false, one := true, sh := 2 }) none (tiled []) (fun c => okAnd (c.shape 2) fun sn => !sn.crosses ((ragLanes c sn (slVal c.g c.sp (.lit 4))).map (slVal c.g c.sp (.lit 4) + ·))) &&
    readyAnd (.ragNorm { g := none, d := 8, a := 9, reuse := false, row0 := .lit 0, one := false, sh := 2 }) none (tiled []) (fun c => okAnd (c.shape 2) fun _ => true) &&
    readyAnd (.shChk 1 2) none (tiled []) (fun c => okAnd (c.shape 2) fun sn => reads c [{ lane := none, va := sn.addr, len := 4 }] fun ps => rangeBad (tiled []).dev ps == none) &&
    readyAnd (.shLd 2 4) none (tiled [0x400]) (fun c => c.passes .load 64 (fun _ => none) [(0, BitVec.ofNat 64 (readS c.g c.sp 4))]) = true := by decide +kernel
/-- A product of one element a row: A at s4, B at s5, descriptor in s6 and s7. -/
def mmaAt : MmaF := { g := none, tile := 3, a := 4, b := 5, desc := 6, bs := false, pair := .bf16, shape := none, one := false, ninf := false, wa := false, rb := false }
/-- Bases 0x1000 and 0x2000; K = 1, both pitches 16. -/
def mmaState : State := tiled [0x1000, 0x2000, 1 + 16 * 2 ^ 16 + 16 * 2 ^ 40, 0]
/-- The operand ranges that an `mma` reads from memory pass, and where it reads the window they are free. -/
def fetches (f : MmaF) (c : Ctx) (sn : Option Snapshot) : Bool :=
  let m := mmaArgs f c
  let rows := mmaRows c m sn
  let cols := mmaCols m sn
  let aSpans := rows.flatMap fun i => operandSpans f.bs f.pair.fa m.sa m.pa m.k some [i]
  let bSpans := cols.flatMap fun j => operandSpans f.bs f.pair.fb m.sb m.pb m.k (fun _ => none) [j]
  c.lanes != 0 && ownsTile c f.tile && (mmaFault f m).isNone && !(f.one && mmaCrosses m sn rows cols) && (!f.wa || c.windowFree false aSpans) &&
    reads c ((if f.wa then [] else aSpans) ++ (if (shelfServes f c m cols).isSome then [] else bSpans)) fun ps => !ps.isEmpty
theorem meets_mma :
    readyAnd (.mma { mmaAt with g := p1 }) p1 mmaState (fun c => c.lanes == 0 && ownsTile c 3 && okAnd (mmaShape mmaAt c) fun _ => mmaFault mmaAt (mmaArgs mmaAt c) == none) &&
    readyAnd (.mma mmaAt) none mmaState (fun c => okAnd (mmaShape mmaAt c) fun sn => fetches mmaAt c sn) && readyAnd (.mma { mmaAt with wa := true }) none mmaState (fun c => okAnd (mmaShape { mmaAt with wa := true } c) fun sn => fetches { mmaAt with wa := true } c sn) &&
    readyAnd (.mma { mmaAt with shape := some 2 }) none mmaState (fun c => okAnd (mmaShape { mmaAt with shape := some 2 } c) fun sn => sn.isSome && fetches { mmaAt with shape := some 2 } c sn) = true := by decide +kernel
/-- Rows of tile 3 at s4, 128 bytes apart. -/
def accAt (sp : Bool) : AccMemF := { g := none, tile := 3, base := 4, pitch := .lit 128, ty := .f32, rnd := .rne, sat := false, sp }
theorem meets_acc_memory :
    ([true, false].all fun sp => readyAnd (.accLd { accAt sp with g := p1 }) p1 (tiled [0x1000]) (fun c => c.lanes == 0 && ownsTile c 3 && !accMisaligned (accAt sp) c) && readyAnd (.accSt { accAt sp with g := p1 }) p1 (tiled [0x1000]) fun c => c.lanes == 0 && ownsTile c 3 && !accMisaligned (accAt sp) c) &&
    readyAnd (.accLd (accAt true)) none (tiled [0x1000]) (fun c => c.lanes != 0 && ownsTile c 3 && !accMisaligned (accAt true) c && c.windowFree false (accSpans (accAt true) c)) &&
    readyAnd (.accSt (accAt true)) none (tiled [0x1000]) (fun c => c.lanes != 0 && ownsTile c 3 && !accMisaligned (accAt true) c && c.windowFree true (accSpans (accAt true) c)) &&
    readyAnd (.accLd (accAt false)) none (tiled [0x1000]) (fun c => c.lanes != 0 && ownsTile c 3 && !accMisaligned (accAt false) c && reads c (accSpans (accAt false) c) fun ps => !ps.isEmpty) &&
    readyAnd (.accSt (accAt false)) none (tiled [0x1000]) (fun c => c.lanes != 0 && ownsTile c 3 && !accMisaligned (accAt false) c && decide (c.g.sb.length < 16) && decide (unacked c.g < 255) && c.rangesPass .store notVersioned (accSpans (accAt false) c) &&
      (c.rangesAt .store (accSpans (accAt false) c)).all fun p => !pendingRed c.d c.g p.2.pa p.1.len) = true := by decide +kernel

/-! Copies, collectives, sideboard, ranges. -/

/-- `base` with a window, and tl1 at 7. -/
def copying (xs : List Nat) : State := let s := withS xs; { s with dev := s.dev.modTeam 1 fun t => { t with windowSize := 4096, tls := listSet t.tls 1 { counter := 7, accepted := 7, done := [], errOp := 0, errCode := 0, errX := 0, clock := clockZero } } }
theorem meets_copies_and_timelines_complete :
    readyAnd (.cp { d := some 9, tl := 1, dst := 4, src := 5, len := .lit 256, dir := .g2w }) none (copying [3840, 0x2000]) (fun c => copyChecks c.team.windowSize .g2w (copyOperand true (readS c.g c.sp 4)) (copyOperand false (readS c.g c.sp 5)) 256 == none && copyStall c .g2w (copyOperand true (readS c.g c.sp 4)) (copyOperand false (readS c.g c.sp 5)) 256 == none) &&
    readyAnd (.cp { d := none, tl := 1, dst := 4, src := 5, len := .lit 0, dir := .g2g }) none (copying [0x1000, 0x2000]) (fun c => copyChecks c.team.windowSize .g2g (readS c.g c.sp 4) (readS c.g c.sp 5) 0 == none && copyStall c .g2g (readS c.g c.sp 4) (readS c.g c.sp 5) 0 == none) &&
    readyAnd (.cpGather { d := some 9, tl := 1, dst := 4, src := 5, desc := 6, dir := .g2w }) none (copying [0, 0x2000, 0x3000, 16 + 4 * 2 ^ 24]) (fun c => readS c.g c.sp 7 == 16 + 4 * 2 ^ 24 && copyChecks c.team.windowSize .g2w 0 0x2000 64 == none && copyStall c .g2w 0 0x2000 64 == none) &&
    readyAnd (.tlRdErr 8 1) none (copying []) (fun _ => true) && readyAnd (.tlWait 1 (.lit 0)) none (copying []) (fun _ => true) &&
    readyAnd (.tlWait 1 (.lit 7)) none (copying []) (fun c => slVal c.g c.sp (.lit 7) != 0 && decide (slVal c.g c.sp (.lit 7) ≤ (c.team.tl 1).counter)) && readyAnd (.tlWait 1 (.lit 8)) none (copying []) (fun c => decide ((c.team.tl 1).counter < slVal c.g c.sp (.lit 8))) = true := by decide +kernel
theorem meets_collectives :
    readyAnd (.collPut 4 (.lit 0) 5) none (mapped [0x9000, 0xA000] id) (fun c => room (.collPut 4 (.lit 0) 5) c && okAnd (collBinding c 4) fun x => okAnd (collChunk c x.2 (.lit 0)) fun _ => c.passes .load 64 (fun _ => none) ((List.range 64).map fun i => (0, BitVec.ofNat 64 (readS c.g c.sp 5) + BitVec.ofNat 64 (64 * i)))) &&
    readyAnd (.collQuorum 4 (.lit 0x02000200)) none (mapped [0x9000] id) (fun c => (okAnd (collBinding c 4) fun _ => true) && slVal c.g c.sp (.lit 0x02000200) == 512 + 512 * 2 ^ 16) &&
    readyAnd (.collClose 4 (.lit 0)) none (mapped [0x9000] id) (fun c => okAnd (collBinding c 4) fun x => okAnd (collChunk c x.2 (.lit 0)) fun n => n == 0) &&
    readyAnd (.collGet 9 4 (.lit 0) 5) none (mapped [0x9000, 0xB000] id) (fun c => okAnd (collBinding c 4) fun x => okAnd (collChunk c x.2 (.lit 0)) fun _ => c.passes .store 64 notVersioned ((List.range 64).map fun i => (0, BitVec.ofNat 64 (readS c.g c.sp 5) + BitVec.ofNat 64 (64 * i)))) = true := by decide +kernel
theorem meets_hutch_command :
    readyAnd (.hcmd 0 4) none (mapped [4 + 16 * 256, 0x1000, 0x2000, 0] id) (fun c => room (.hcmd 0 4) c &&
      (let ws := (List.range 4).map fun i => BitVec.ofNat 64 (readS c.g c.sp (4 + i))
       hutchWordsOk ws && okAnd (hutchTranslate c (hutchRanges ws)) fun r => r.length == 2 && r.all fun e => e.2.all fun p => !p.leaf.ver && !p.leaf.repl && (hutchFrames c.d 0 p.leaf).all physOk)) &&
    readyAnd (.hcmd 0 4) none (mapped [2 + 16 * 256 + 6 * 2 ^ 32, 0x20000, 0, 7] id) (fun c =>
      (let ws := (List.range 4).map fun i => BitVec.ofNat 64 (readS c.g c.sp (4 + i))
       hutchWordsOk ws && okAnd (hutchTranslate c (hutchRanges ws)) fun r => r.length == 1 && r.all fun e => e.2.all fun p => p.leaf.ver && recordOk c.d p.leaf.addr && (hutchFrames c.d 0 p.leaf).all physOk && decide ((hutchStacks c.d 0 0x20000 64 e.2).length ≤ 1))) = true := by decide +kernel
/-- `base` with the lead bound 0 or 1. -/
def leading (n : Nat) : State := on fun d => d.modJob 0 fun j => { j with lead := BitVec.ofNat 32 n }
/-- `base` with a launch of 100 indices for the team. -/
def ranged : State := on fun d => ({ d with launches := [(7, { (default : Launch) with id := 7, state := .running, fields := [0, 0, 1, 1, 32, 26, 0, 100, 0, 10], left := 1 })] }).modTeam 1 fun t => { t with launch := some 7 }
theorem meets_sideboard_ranges_and_launch_complete :
    readyAnd (.stepAdv 8 (some 5)) none (leading 1) (fun c => c.clear && (((leading 1).dev.job c.g.job).all fun j => leadOk (leading 1).plat j c.g.stepCur)) && readyAnd (.stepAdv 8 (some 5)) none (leading 0) (fun c => c.clear && thereAnd ((leading 0).dev.job c.g.job) fun j => !leadOk (leading 0).plat j c.g.stepCur) &&
    readyAnd (.stepRd 8 (.lit 513)) none base (fun c => decide (slVal c.g c.sp (.lit 513) < 514)) &&
    readyAnd (.take 8 (.lit 65536)) none ranged (fun c => decide (slVal c.g c.sp (.lit 65536) ≤ 65536) && !takeLate ranged.dev c.g) && readyAnd (.take 8 (.lit 1)) none base (fun c => !takeLate base.dev c.g) &&
    readyAnd (.steal (.lit 511)) none ranged (fun c => slVal c.g c.sp (.lit 511) != c.g.core && rangeLaunch ranged.dev c.g != 0 && decide ((rangesOf (ranged.dev.core c.g.core) (rangeLaunch ranged.dev c.g)).spareHi ≤ (rangesOf (ranged.dev.core c.g.core) (rangeLaunch ranged.dev c.g)).spareLo)) &&
    readyAnd (.steal (.lit 512)) none ranged (fun _ => true) && readyAnd (.gwLaunch 8 4) none base (fun c => c.g.handed.isEmpty && c.g.releases.isEmpty && c.passes .load 1 (fun _ => none) [(0, BitVec.ofNat 64 (readS c.g c.sp 4))]) = true := by decide +kernel
/-- Nothing of the group is on its way when it is to migrate. -/
def movable (i : Instr) (c : Ctx) : Bool := c.g.id == c.gid && ((base.dev.core c.g.core).chunkQueue.all fun e => e.1 != c.gid) && c.sp.rest.isNone && !othersClosing c && !(closeHere i c).sp.gone && (closeHere i c).g.handed.isEmpty && (closeHere i c).g.releases.isEmpty
/-- The status of the migration (R332). -/
def movesTo (i : Instr) (c : Ctx) (t : Nat) : Nat := migStatus base.plat ((closeHere i c).d.modCore c.g.core fun k => { k with shelf := dropShelf c.gid k.shelf }) (closeHere i c).g t
theorem meets_migration_completes :
    readyAnd (.mig 8 (.lit 511)) none base (fun c => movable (.mig 8 (.lit 511)) c && movesTo (.mig 8 (.lit 511)) c (slVal c.g c.sp (.lit 511)) == 0) && readyAnd (.mig 8 (.lit 512)) none base (fun c => movable (.mig 8 (.lit 512)) c && movesTo (.mig 8 (.lit 512)) c 512 == 1) &&
    readyAnd (.migNear 8 4) none (withS [0x840]) (fun c => movable (.migNear 8 4) c && c.passes .load 1 (fun _ => none) [(0, BitVec.ofNat 64 (readS c.g c.sp 4))] && movesTo (.migNear 8 4) c (homeSlice base.plat (c.placeAt .load (0, BitVec.ofNat 64 (readS c.g c.sp 4))).pa) == 0) &&
    readyAnd (.migNear 8 4) none (withS [0]) (fun c => movable (.migNear 8 4) c && c.passes .load 1 (fun _ => none) [(0, BitVec.ofNat 64 (readS c.g c.sp 4))] && movesTo (.migNear 8 4) c (homeSlice base.plat (c.placeAt .load (0, BitVec.ofNat 64 (readS c.g c.sp 4))).pa) == 3) = true := by decide +kernel
/-- A group on its way, with the status of its migration to be written. -/
def arriving : State := withGroup fun g => { g with state := .migrating, ops := [{ Op.of .pending (scaWrite 8 0) false with id := 9, splits := [0], closing := some 0 }] }
theorem meets_migration_arrival : ((Tbl.find arriving.dev.groups 2).any fun g => g.state == .migrating && (g.ops.find? fun o => o.kind == .pending) == g.ops.head? && g.ops.length == 1 && g.ops.all fun o => o.tileWrites.isEmpty && o.verLast.isNone && o.shape.isNone) = true := by decide +kernel

/-! Control. -/

theorem meets_control_registers_complete :
    ([.sysWr 0x20 4, .sysWr 0x40 4, .sysWr 0x70 4, .sysWr 0x88 4, .xltInv 4, .dbgIflush 4, .ctlLeadWrite 4, .sbMemWrite 7 4] : List Instr).all can = true ∧ ctlKind 0x20 ≠ some .ro32 ∧ ctlKind 0x88 ≠ some .ro64 := by decide +kernel
/-- A group with p1 on lanes 0 to 3. -/
def someLanes : State := withGroup fun g => { g with p := listSet g.p 1 0xF }
/-- p1 on every lane. -/
def allLanes : State := withGroup fun g => { g with p := listSet g.p 1 0xFFFFFFFF }
/-- A group with four splits of eight lanes. -/
def fourSplits : State := withGroup fun g => { g with p := listSet g.p 1 0xF, splits := [(0, { firstSplit 0 0xFF 7 0 with entry := none }), (1, firstSplit 0 0xFF00 7 0), (2, firstSplit 0 0xFF0000 7 0), (3, firstSplit 0 0xFF000000 7 0)] }
theorem meets_bra_moves_the_whole_split :
    readyAnd (.bra none true 1) none base (fun _ => true) && readyAnd (.bra p1 false 1) p1 someLanes (fun c => c.lanes != 0) && readyAnd (.bra p1 true 1) p1 allLanes (fun c => c.lanes == c.sp.mask) &&
    readyAnd (.bra p1 true 1) p1 someLanes (fun c => c.lanes != c.sp.mask) && readyAnd (.bra p1 false 1) p1 base (fun c => c.lanes == 0) = true := by decide +kernel
theorem meets_divergent_branches_and_merges_complete :
    readyAnd (.brd p1 1 none) p1 base (fun c => c.lanes == 0) && readyAnd (.brd p1 1 none) p1 allLanes (fun c => c.lanes == c.sp.mask) &&
    readyAnd (.brd p1 1 (some 2)) p1 someLanes (fun c => c.lanes != 0 && c.lanes != c.sp.mask && decide (splitCount c.g < 4) && decide (c.sp.merges.length < 8)) &&
    readyAnd (.brd p1 1 none) p1 fourSplits (fun c => c.lanes != 0 && c.lanes != c.sp.mask && decide (4 ≤ splitCount c.g) && decide (c.g.deferrals.length < 16)) &&
    readyAnd .mergeWait none base (fun _ => true) && readyAnd .mergeWait none fourSplits (fun c => decide (1 < (liveSplits c.g).length)) = true := by decide +kernel
theorem meets_calls_complete :
    readyAnd (.call (.v 30) 1) none base (fun _ => true) && readyAnd (.call (.s 30) 1) none base (fun _ => true) && readyAnd (.ret (.v 30)) none base (fun c => c.lanes != 0 && (lanesOf c.lanes).all fun l => linkValue c (.v 30) l == 0) &&
    readyAnd .retShort none base (fun c => c.lanes != 0 && (lanesOf c.lanes).all fun l => linkValue c (.v 30) l == 0) && readyAnd (.jmp (.v 30) 1) none base (fun c => c.lanes != 0 && (lanesOf c.lanes).all fun l => linkValue c (.v 30) l + 16 == 16) = true := by decide +kernel
/-- Links in v30 that differ in the upper lanes of a state's splits. -/
def twoLinks (s : State) : State := { s with dev := s.dev.modGroup 2 fun g => { g with v := (List.range 28).foldl (fun v l => Tbl.set v (32 * 30 + 4 + l) 0x40) g.v } }
theorem meets_divided_returns :
    ([twoLinks base, twoLinks fourSplits].all fun s => (readyAnd (.ret (.v 30)) none s fun c => maskWhere c.lanes (fun l => linkValue c (.v 30) l == linkValue c (.v 30) ((lanesOf c.lanes).headD 0)) == 0xF && c.lanes != 0xF) &&
      (readyAnd .retShort none s fun _ => true) && readyAnd (.jmp (.v 30) 1) none s fun _ => true) = true ∧
    (readyAnd .retShort none (twoLinks base) (fun c => decide (splitCount c.g < 4)) && readyAnd .retShort none (twoLinks fourSplits) fun c => decide (4 ≤ splitCount c.g)) = true := by decide +kernel
/-- A split with a deferral. -/
def deferred (second : Bool) : State := withGroup fun g => { g with splits := [(0, { firstSplit 0x40 0xF 7 0 with merges := [] })], deferrals := [{ split := 0, resumePc := 0x80, resumeMask := 0xF0, merge := 0x40, parked := if second then 0xF0 else 0, second }] }
/-- That split before the merge point of its deferral. -/
def haltsDeferred (second : Bool) : State := let s := deferred second; { s with dev := s.dev.modGroup 2 fun g => { g with deferrals := g.deferrals.map fun e => { e with merge := 0x200 } } }
theorem meets_halt_completes :
    readyAnd (.halt p1) p1 base (fun c => c.lanes == 0) && readyAnd (.halt p1) p1 someLanes (fun c => c.lanes != 0 && c.sp.mask &&& ~~~c.lanes != 0) && readyAnd .haltShort none base (fun c => c.lanes != 0 && c.sp.mask &&& ~~~c.lanes == 0 && (topDeferral c.g c.k).isNone) &&
    ([false, true].all fun b => readyAnd (.halt none) none (haltsDeferred b) fun c => c.lanes != 0 && c.sp.mask &&& ~~~c.lanes == 0 && thereAnd (topDeferral c.g c.k) fun e => e.second == b && (e.parked != 0) == b) = true := by decide +kernel
/-- The group holds two blocks; v1 is a live-in that `rgn` keeps, v2 holds a transient value. -/
def blocks : State := { base with dev := (takeChunks base.dev 2 2).modGroup 2 fun g => { g with transients := [(2, 1)] } }
/-- No chunk of core 0 is free. -/
def noChunk : State := on fun d => d.modCore 0 fun k => { k with chunkOwners := (List.range 64).map fun i => (i, 72) }
theorem meets_regions_and_blocks_complete :
    readyAnd (.rgn { vmask := 2, smask := 7, xmask := 3, pmask := 0 }) none blocks (fun c => ((List.range 6).all fun e => !(3 : BitVec 6).getLsbD e || decide (e < c.g.h)) && (Tbl.keys c.g.transients).all fun k => !(if k < 32 then (2 : BitVec 32).getLsbD k else if k < 224 then (3 : BitVec 6).getLsbD ((k - 32) / 32) else (7 : BitVec 32).getLsbD (k - 224))) &&
    readyAnd (.xacq 4) none blocks (fun c => c.clear && decide (c.g.h + 4 ≤ 6) && (blocks.dev.core c.g.core).chunkQueue.isEmpty && decide (4 ≤ freeChunks (blocks.dev.core c.g.core))) &&
    readyAnd (.xacq 6) none noChunk (fun c => c.clear && decide (c.g.h + 6 ≤ 6) && decide (freeChunks (noChunk.dev.core c.g.core) < 6)) && readyAnd (.xrel 2) none blocks (fun c => decide (2 ≤ c.g.h)) = true := by decide +kernel

/-! Events: a state in which each is due. -/

/-- Another group, like the placed one. -/
def also (gid : Nat) (f : Group → Group) (d : Device) : Device := match Tbl.find d.groups 2 with | some g => { d with groups := Tbl.set d.groups gid (f { g with id := gid, index := gid, pos := gid, block := gid }) } | none => d
/-- The group of a number. -/
def grp (s : State) (gid : Nat) : Group := (Tbl.find s.dev.groups gid).getD default
/-- The group waits, with its drawer at a count and a deadline, at clock 100. -/
def waitingDevice (w : WaitFor) (count : Word) (deadline : DWord) : Device :=
  let d := { (base.dev.modGroup 2 fun g => { g with state := .waiting, wait := some w, waitSeq := 5 }) with clock := 100 }
  d.setDrawer 0 0 { d.drawer 0 0 with count, deadline }
/-- Where an instruction of the group stands. -/
def siteAt : Site := { split := 0, pc := 0x40, index := 1, lanes := 0xF }
/-- A decrement for the waiting group. -/
def waking : State := { base with dev := (waitingDevice (.xacq 1) 3 100).modCore 0 fun k => { k with arrivals := [{ handle := 0, n := 2, status := 0, job := 0, group := some (2, 5), ack := none, clock := [0, 7, 0, 0] }] } }
/-- A decrement for a task drawer. -/
def tasking : State := on fun d => ((d.setDrawer 0 64 { Drawer.free 9 with kind := 2, count := 1, team := 1, entry := 0x40, arg := 77 }).modCore 0 fun k => { k with arrivals := [{ handle := handleOf 0 64 9, n := 1, status := 0, job := 0, group := none, ack := none, clock := clockZero }] })
/-- A task that waits to start. -/
def starting : State := on fun d => d.modCore 0 fun k => { k with startQueue := [(64, { Drawer.free 9 with kind := 2, team := 1, entry := 0x40, arg := 77 })] }
theorem meets_decrements_deadlines_and_tasks :
    ((waking.dev.core 0).arrivals.length = 1 ∧ (grp waking 2).savedDrawer = none ∧ (grp waking 2).state = .waiting ∧ (grp waking 2).core = 0 ∧ (grp waking 2).waitSeq = 5 ∧ (grp waking 2).wait ≠ none ∧ pastDeadline waking.dev (grp waking 2) = false ∧ 2 < (waking.dev.drawer 0 (grp waking 2).block).count.toNat) ∧
    ((tasking.dev.core 0).arrivals.length = 1 ∧ findDrawer tasking.dev (handleOf 0 64 9) = .core 0 64 ∧ (tasking.dev.drawer 0 64).kind = 2 ∧ (tasking.dev.drawer 0 64).reserved = false ∧ drawerJob tasking.dev (tasking.dev.drawer 0 64) = some 0 ∧ (tasking.dev.drawer 0 64).count = 1) ∧
    (let s : State := { base with dev := waitingDevice (.counter 0x800 8) 1 99 }
     (grp s 2).id = 2 ∧ (grp s 2).savedDrawer = none ∧ (grp s 2).state = .waiting ∧ pastDeadline s.dev (grp s 2) = true) ∧
    ((nextTask starting.dev 0).isSome ∧ firstSlot starting.dev 0 = some 0) := by decide +kernel
/-- A load of a version under way, of a group that waits for a slot. -/
def verQuery : VerLoad := { record := 0x8000, page := 0x20000, minStep := 5, bytes := 8, dest := .v 8, lanes := [(0, 0), (31, 0xFFF8)], since := 0 }
/-- A decrement that brings the count of a group that waits to 0. -/
def woken (w : WaitFor) : State :=
  let d := (waitingDevice w 3 0).modGroup 2 fun g => { g with splits := [(0, { firstSplit 0x40 0xF 7 0 with index := 1, entry := none, code := [hdrOf 3 0 0 0 0, 1, 1, 1], word := 2 })], ops := [{ Op.of (.verLoad verQuery) RegWrites.none false with id := 9, splits := [0], closing := some 0 }] }
  { base with dev := d.modCore 0 fun k => { k with arrivals := [{ handle := 0, n := 3, status := 1, job := 0, group := some (2, 5), ack := none, clock := [0, 7, 0, 0] }] } }
/-- One wait of each kind. -/
def waits : List WaitFor := [.barrier 0, .timeline 1 8, .xacq 1, .lock 0x800 0x800 9 { en := true, p := 1 } 3 .queued, .counter 0x800 8, .stepAdv 8, .sealed 9, .hold 8, .page siteAt 0 0x8010]
theorem meets_wakes :
    (waits.all fun w => let s := woken w
      (grp s 2).wait == some w && (grp s 2).id == 2 && (grp s 2).savedDrawer.isNone && (grp s 2).state == .waiting && (grp s 2).waitSeq == 5 && !pastDeadline s.dev (grp s 2) && (s.dev.drawer 0 (grp s 2).block).count == 3 && !(s.dev.drawer 0 (grp s 2).block).flags.getLsbD 1 &&
      thereAnd (splitOf (grp s 2) 0) (fun sp => (current sp).isSome) && (s.dev.core 0).arrivals.length == 1) = true ∧
    (let s : State := { base with dev := waitingDevice (.stepAdv 8) 1 99 }
     (grp s 2).wait = some (.stepAdv 8) ∧ pastDeadline s.dev (grp s 2) = true) := by decide +kernel

/-- The trap the group waits on. -/
def trapped : Trapped := { site := siteAt, exc := Exc.of .software, idx := 2, clauseCheck := false, ring := none }
/-- A trapped group, its split two instructions into a clause, and an action on it. -/
def acting (kind : Nat) : State :=
  let d := (waitingDevice (.trap trapped) 1 0).modGroup 2 fun g => { g with splits := [(0, { firstSplit 0x40 0xF 7 0 with index := 1, entry := none, code := [hdrOf 3 0 0 0 0, 1, 1, 1], word := 2 })] }
  { base with dev := d.modJob 0 fun j => { j with trapActs := [BitVec.ofNat 64 (kind * 2 ^ 32 + (handleOf 0 0 (d.drawer 0 0).gen).toNat)] } }
/-- A group with a version-ring trap to be taken. -/
def ringed : State := withGroup fun g => { g with ringTraps := [{ op := 9, site := { split := 0, pc := 0, index := 0, lanes := 1 }, step := 9, lanes := [] }] }
theorem meets_trapped_groups_acted_on :
    ([0, 1, 2].all fun k => thereAnd (pendingAct (acting k).dev k) fun a => a.2.toNat / 2 ^ 32 == k && thereAnd (trappedGroup (acting k).dev a.1 (a.2.setWidth 32)) fun g => decide (Tbl.find (acting k).dev.groups g.id = some g ∧ g.state = .waiting ∧ g.wait = some (.trap trapped) ∧ g.savedDrawer = none ∧ ((acting k).dev.drawer g.core g.block).count = 1) && thereAnd (splitOf g 0) fun sp => !sp.code.isEmpty) = true ∧
    ((Tbl.find (acting 2).dev.teams 1).map (·.handler)) = some false ∧ (grp ringed 2).state = .live ∧ (grp ringed 2).ringTraps.length = 1 := by decide +kernel

/-- Group 2 stalled in position 0, group 8 pending. -/
def stalled (clock at_ : Nat) (st : Option Stall) : State :=
  let d := (base.dev.modGroup 2 fun g => { g with splits := g.splits.map fun e => (e.1, { e.2 with stall := st }) })
  { base with dev := { also 8 (fun g => { g with readyAt := at_, splits := [(0, firstSplit 0 1 7 0)] }) d with clock } }
/-- The eight active positions of slot 0 are taken. -/
def crowded : State := { base with dev := [3, 4, 5, 6, 7, 9, 10].foldl (fun d k => also k (fun g => { g with pos := if k = 9 then 1 else if k = 10 then 2 else k, lastIssue := 50 + k }) d) (stalled 4196 100 none).dev }
theorem meets_slot_moves :
    (let s := stalled 100 3 (some .long)
     swapPairs s.dev 0 0 = [(2, 8)] ∧ slotFree s.dev 0 0 = true ∧ (grp s 2).id = 2 ∧ (grp s 8).id = 8) ∧
    (let s := stalled 100 3 none
     ((freePos s.dev 0 0).find? fun p => decide (p < 8)) = some 1 ∧ oldestPending s.dev 0 0 = some (grp s 8) ∧ slotFree s.dev 0 0 = true ∧ swapPairs s.dev 0 0 = []) ∧
    (oldestPending crowded.dev 0 0 = some (grp crowded 8) ∧ bestGroup (fun a b => decide (a.lastIssue < b.lastIssue) || (a.lastIssue == b.lastIssue && decide (a.pos < b.pos))) ((slotGroups crowded.dev 0 0).filter fun g => decide (g.pos < 8)) = some (grp crowded 2) ∧
      slotFree crowded.dev 0 0 = true ∧ (grp crowded 8).readyAt + 4096 ≤ crowded.dev.clock ∧ swapPairs crowded.dev 0 0 = [] ∧ ((freePos crowded.dev 0 0).any fun p => decide (p < 8)) = false) := by decide +kernel
/-- Two splits at one clause start. -/
def merging : State := withGroup fun g => { g with splits := [(0, firstSplit 0x40 0xF 7 0), (2, firstSplit 0x40 0xF0 7 0)] }
/-- A group with nothing left. -/
def done : State := withGroup fun g => { g with splits := [] }
/-- A group on its way. -/
def moving : State := withGroup fun g => { g with state := .migrating }
theorem meets_splits_and_groups :
    (thereAnd (mergePair (grp merging 2)) fun p => splitOf (grp merging 2) p.1.1 == some p.1.2 && splitOf (grp merging 2) p.2.1 == some p.2.2) = true ∧
    ([false, true].all fun b => (grp (deferred b) 2).state == .live && thereAnd (splitOf (grp (deferred b) 2) 0) fun sp => thereAnd (topDeferral (grp (deferred b) 2) 0) fun e => deferralDue (grp (deferred b) 2) 0 sp && e.second == b && e.resumeMask != 0 && (sp.mask ||| e.parked) != 0) = true ∧
    drained (grp done 2) = true ∧ (grp moving 2).state = .migrating := by decide +kernel

/-- An outstanding operation of the group. -/
def opOf (kind : OpKind) (w : RegWrites) : Op := { Op.of kind w false with id := 9, splits := [0], flag := some 0, site := trapped.site }
/-- The group with that operation. -/
def oping (o : Op) : State := withGroup fun g => { g with ops := [o] }
/-- An operation with a result in every place that one can have, two of its tile elements the same. -/
def tiling (k : OpKind) : Op := { opOf k (scaWrite 8 7) with verLast := some 6, tileWrites := [(3, 0, 1), (3, 1023, 2), (3, 0, 3)] }
/-- A reading of the record at 0x400 that has its header and table, the table's second entry being `e`. -/
def reading (e : Nat) : ShapeRead := { sh := 2, va := 0x400, leaf := codeLeaf, tries := 0, words := [9, 7, 64, 0x02040002, 16, 0, 0, 0, 0, 0, 0, 0, 0, 0, 0, 0, 0, BitVec.ofNat 32 e] }
/-- The group with that reading under way. -/
def shapeReading (e : Nat) : State := mapped [] fun d => d.modGroup 2 fun g => { g with ops := [{ opOf (.shape (reading e)) RegWrites.none with shape := some (2, none) }], shapes := [none, none, some snap, none] }
theorem meets_operations_complete :
    ([OpKind.value, .load, .matrix].all fun k => thereAnd ((grp (oping (tiling k)) 2).ops.find? fun x => x.id == 9) fun o => o.kind == k && o.exc.isNone && o.verLast == some 6 && o.shape.isNone && o.tileWrites.length == 3) && (grp (oping (tiling .value)) 2).state == .live &&
    (thereAnd ((grp (oping { opOf .load RegWrites.none with exc := some (Exc.of .poisonedData) }) 2).ops.find? fun x => x.id == 9) fun o => o.exc.isSome) &&
    ([4, 99].all fun e => (grp (shapeReading e) 2).id == 2 && thereAnd (shapeWord (shapeReading e).plat (shapeReading e).dev (grp (shapeReading e) 2) (reading e)) fun x => match x.1 with
      | some (w, false) => shapeStep (reading e) w == if e = 4 then .snap snap else .bad
      | _ => false) = true := by decide +kernel

/-- A group with one buffered store of two lanes that overlap, at 0x7FE and 0x800. -/
def storing : State := withGroup fun g => { g with sb := [{ op := 9, size := 4, lanes := [{ lane := 0, va := 0x7FE, pa := 0x7FE, page := none, data := [1, 2, 3, 4] }, { lane := 1, va := 0x800, pa := 0x800, page := none, data := [5, 6, 7, 8] }], marks := [] }] }
/-- A group whose store has been sent. -/
def sentStore : State := withGroup fun g => { g with ops := [opOf .store RegWrites.none], sent := [{ op := 9, size := 4, lanes := [], marks := [(1, 0)] }] }
/-- A request at the head of cluster 5's queue, the word at 0x808 is 40. -/
def serving (kind : AgKind) (source : AgSource) : State := on fun d => (((d.writeBytes 0x808 (bytesOf 8 40)).modCluster 5 fun c => { c with queue := [{ kind, pa := 0x808, va := 0x808, job := 0, x := 2, xn := 0, source, park := none }] }).modGroup 2 fun g => { g with ops := [{ opOf .atomic RegWrites.none with parts := 2, vDests := [8] }], outEff := 1 })
/-- What of a request a statement asks. -/
def atHead (s : State) (p : AgReq → Bool) : Bool := match ((admitRequests 5 s.dev).cluster 5).queue with | r :: _ => !s.dev.anyPoison r.pa r.kind.size && p r | [] => false
/-- The group is out, or on its way. -/
def away (st : GroupState) : State := { storing with dev := storing.dev.modGroup 2 fun g => { g with state := st } }
theorem meets_stores_and_atomics_performed :
    ((grp (away .swapped) 2).state = .swapped ∧ (grp (away .migrating) 2).state = .migrating ∧ (grp storing 2).state = .live) ∧
    ((grp storing 2).sb.length = 1 ∧ ∀ e ∈ (grp storing 2).sb, ∀ l ∈ e.lanes, l.page = none) ∧
    (((grp sentStore 2).ops.any fun o => o.id == 9 && o.kind == .store) = true ∧ ((grp sentStore 2).sb.any fun e => e.op == 9) = false ∧ storeParked sentStore.dev 2 9 = false ∧ ((grp sentStore 2).sent.all fun e => e.marks.all (markDone sentStore.dev)) = true) ∧
    atHead (serving (.atomic .add .i32) (.held 2)) (fun r => r.source == .held 2 && (agNew r 40).isSome) = true ∧ atHead (serving (.atomic .max .i64) (.atom 2 9 31)) (fun r => r.source == .atom 2 9 31 && (agNew r 40).isSome) = true ∧
    atHead (serving (.watch 40) (.waiter 2)) (fun r => decide (40 ≤ (serving (.watch 40) (.waiter 2)).dev.readNat r.pa 8)) = true ∧ atHead (serving (.watch 41) (.waiter 2)) (fun r => decide ((serving (.watch 41) (.waiter 2)).dev.readNat r.pa 8 < 41)) = true ∧ (base.dev.cluster 5).watches.length < 128 := by decide +kernel

/-- A release whose notice is on its way to core 1. -/
def releasing (arrive : List Nat) : State := withGroup fun g => { g with blocks := [0x1000], releases := [{ scope := .team, posted := true, toArrive := arrive, toAck := [1], act := .fence 9 false }] }
/-- A write of die 2 on its way to die 0. -/
def messaging : State := on fun d => d.modDie 0 fun x => { x with inbox := listSet x.inbox 2 [{ number := 1, clock := [0, 0, 0, 0], bytes := [(2 ^ 37, 7)] }], visitors := [(2 ^ 31, List.replicate 64 0)] }
/-- A claimed replicated page. -/
def claimed : State := mapped [] fun d => { d with collapses := [{ id := 9, job := 0, va := 0x30000, die := 0, parked := [] }] }
/-- A claim of one die on each edge. -/
def claimedTwice : State := mapped [] fun d => { d with collapses := [{ id := 9, job := 0, va := 0x30000, die := 0, parked := [] }, { id := 10, job := 0, va := 0x30000, die := 3, parked := [] }] }
theorem meets_notices_home_writes_and_collapses :
    ((grp (releasing [1]) 2).releases.any fun r => r.posted && r.toArrive.contains 1) = true ∧ ((grp (releasing []) 2).releases.any fun r => r.posted && !r.toArrive.contains 1) = true ∧
    (match (messaging.dev.die 0).inbox.getD 2 [] with | m :: _ => (messaging.dev.die 0).applied.getD 2 0 + 1 == m.number && clockLe m.clock (messaging.dev.die 0).applied | [] => false) = true ∧
    ((claimAt claimed.dev 0x30000 0).any (·.parked.isEmpty) && (claimAt claimed.dev 0x30000 1).isNone && (claimAt claimedTwice.dev 0x30000 0).isSome && (claimAt claimedTwice.dev 0x30000 1).isSome && (match engineXlat claimedTwice.dev 0 .store 3 0x30000 with | .ok l _ => l.repl | _ => false) && (match engineXlat claimed.dev 0 .store 0 0x30000 with | .ok l _ => l.repl | _ => false) && (claimed.dev.job 0).any fun j => leafEntry claimed.dev 0x30000 [1, 2, 3, 4] j.xroot == some 0x103030) = true := by decide +kernel

/-- A group's lock request for the line at 0x800, and the bench as it finds it. -/
def asking (stage : LockStage) (holder : Option Nat) (queue : List LockWaiter) (deadline : DWord) : State :=
  let d := waitingDevice (.lock 0x800 0x800 9 { en := true, p := 1 } 3 stage) 1 deadline
  { base with dev := d.modSlice (homeSlice base.plat 0x800) fun s => setBench s 0x800 { holder, queue, poisoned := true, clock := [1, 0, 0, 0] } }
/-- A bench with no room for a waiter. -/
def fullQueue : List LockWaiter := (List.range 256).map fun i => { group := 100 + i, marked := false }
/-- A line on its way to its next holder. -/
def passing (queue : List LockWaiter) (poisoned : Bool) : State := let s := asking .queued (some 7) queue 0; { s with dev := s.dev.modSlice (homeSlice base.plat 0x800) fun b => { b with releases := [(0x800, poisoned, [0, 3, 0, 0])] } }
/-- Line 0x800 on its bench. -/
def line (s : State) : LockLine := benchLine (s.dev.slice (homeSlice s.plat 0x800)) 0x800
/-- The bench full of other lines, line 0x800 free. -/
def benchFull : State := let s := asking .sent none [] 0; { s with dev := s.dev.modSlice (homeSlice base.plat 0x800) fun b => { b with bench := (List.range 256).map fun i => (0x10000 + 64 * i, { holder := some 9, queue := [], poisoned := false, clock := clockZero }) } }
theorem meets_locks_pass :
    ((line benchFull).holder = none ∧ 256 ≤ benchLines (benchFull.dev.slice (homeSlice base.plat 0x800))) ∧
    ((line (asking .sent none [] 0)).holder = none ∧ benchLines ((asking .sent none [] 0).dev.slice (homeSlice base.plat 0x800)) < 256) ∧
    ((line (asking .sent (some 7) [] 0)).holder ≠ none ∧ benchWaiters ((asking .sent (some 7) [] 0).dev.slice (homeSlice base.plat 0x800)) < 256) ∧
    ((line (asking .sent (some 7) fullQueue 0)).holder ≠ none ∧ 256 ≤ benchWaiters ((asking .sent (some 7) fullQueue 0).dev.slice (homeSlice base.plat 0x800))) ∧
    (((grp (asking (.refused 100) none [] 0) 2).wait.any fun w => match w with | .lock _ _ _ _ _ (.refused t) => decide (t ≤ (asking (.refused 100) none [] 0).dev.clock) | _ => false) = true) ∧
    ((line (passing [] true)).queue = [] ∧ ((passing [] true).dev.slice (homeSlice base.plat 0x800)).releases = [(0x800, true, [0, 3, 0, 0])]) ∧
    ((line (passing [{ group := 2, marked := false }] false)).queue = [{ group := 2, marked := false }] ∧ teamAway (passing [{ group := 2, marked := false }] false).dev (grp (passing [{ group := 2, marked := false }] false) 2) = false) ∧
    (let s := asking .queued (some 7) [{ group := 2, marked := false }] 99
     (grp s 2).id = 2 ∧ (grp s 2).savedDrawer = none ∧ (grp s 2).state = .waiting ∧ pastDeadline s.dev (grp s 2) = true) := by decide +kernel

/-- The version home of the record at 0x8000, with what a statement puts there. -/
def homing (f : Home → Home) : State := mapped [] fun d => { (d.modHome 0x8000 fun h => f { h with job := 0, pageSize := 65536, attr := 0x81 }) with clock := 100000 }
/-- A store of a mirror for a step, at the end of a line. -/
def vstore (step : Nat) : VerStore := { notice := none, source := .mirror, offset := 0x7C, step, data := [1, 2, 3, 4], since := 0 }
/-- That home with slots 2 and 3 OPEN for steps 7 and 8, so that no later step finds a slot. -/
def ringFull (f : Home → Home) : State := let s := homing f; { s with dev := s.dev.writeBytes 0x8020 ([(0x30000, 7), (0x40000, 8)].flatMap fun x => bytesOf 8 x.1 ++ bytesOf 4 x.2 ++ bytesOf 4 1) }
theorem meets_version_stores :
    ([(6, SlotFor.apply 1), (5, .late 0), (4, .late 0), (7, .fresh 2)].all fun x => [false, true].all fun held => let s := homing fun h => if held then { h with heldStores := [vstore x.1] } else { h with stores := [vstore x.1] }
      (s.dev.home 0x8000).fill.isNone && recordOk s.dev 0x8000 && chooseSlot s.dev 0x8000 x.1 == x.2 && decide (0x7C % 64 + 4 ≤ 64)) = true ∧
    (let s := ringFull fun h => { h with heldStores := [vstore 91], stores := [vstore 90] }
     recordOk s.dev 0x8000 && chooseSlot s.dev 0x8000 90 == .hold && chooseSlot s.dev 0x8000 91 == .hold) = true ∧
    (let s := homing fun h => { h with stores := [{ vstore 6 with source := .fill, offset := 0x3E }] }
     let a (i : Nat) : Nat := framePhys (s.dev.home 0x8000).attr (readSlot s.dev 0x8000 1).frame (0x3E + i)
     (s.dev.home 0x8000).commands.getD 1 0 == 0 && ([0, 1, 2, 3].all fun i => [0, 1, 2, 3].all fun k => i == k || a i != a k) && [0, 1, 2, 3].all fun i => decide (0x8010 + 16 ≤ a i)) = true := by decide +kernel
/-- Two frames of a page of 64 bytes, to be filled. -/
def filling : State := homing fun h => { h with pageSize := 128, fill := some (1, 0) }
theorem meets_slot_fill : (filling.dev.home 0x8000).fill = some (1, 0) ∧ (let at_ (j i : Nat) : Nat := framePhys (filling.dev.home 0x8000).attr (readSlot filling.dev 0x8000 j).frame (64 * i)
    ([0, 1].all fun i => [0, 1].all fun k => (decide (at_ 0 i + 64 ≤ at_ 1 k) || decide (at_ 1 k + 64 ≤ at_ 0 i)) && (i == k || decide (at_ 1 i + 64 ≤ at_ 1 k) || decide (at_ 1 k + 64 ≤ at_ 1 i))) = true) := by decide +kernel
/-- A seal of a step. -/
def vseal (step : Nat) : VerSeal := { job := 0, group := some 2, page := 0x20000, step, since := 0, clock := clockZero }
/-- A load of a version at or above a step into a register. -/
def verLoading (minStep : Nat) (dest : Reg) : State :=
  let s := homing fun h => { h with loads := [(2, 9)] }
  { s with dev := s.dev.modGroup 2 fun g => { g with ops := [{ opOf (.verLoad { verQuery with minStep, dest }) RegWrites.none with closing := some 0 }] } }
/-- Two stores held for want of a slot, the first past the timeout. -/
def staleStores : State := ringFull fun h => { h with heldStores := [vstore 90, { vstore 90 with since := 99999 }] }
theorem meets_seals_and_loads :
    ([(6, SlotFor.apply 1), (5, .late 0), (4, .late 0), (7, .fresh 2)].all fun x => [false, true].all fun parked => let s := homing fun h => if parked then { h with parked := [vseal x.1] } else { h with seals := [vseal x.1] }
      (s.dev.home 0x8000).fill.isNone && recordOk s.dev 0x8000 && !resultPending (s.dev.home 0x8000) (vseal x.1) && chooseSlot s.dev 0x8000 x.1 == x.2 && (s.dev.home 0x8000).commands.getD 1 0 == 0 && (readSlot s.dev 0x8000 0).step == 5) = true ∧
    (let s := ringFull fun h => { h with seals := [vseal 90] }
     chooseSlot s.dev 0x8000 90 == .hold && !resultPending (s.dev.home 0x8000) (vseal 90)) = true ∧
    ([(5, some 0), (6, none)].all fun x => [Reg.v 8, .s 8].all fun dest => let s := verLoading x.1 dest
      ((s.dev.home 0x8000).loads == [(2, 9)]) && (thereAnd ((grp s 2).ops.find? fun o => o.id == 9) fun o => o.closing == some 0 && (match o.kind with | .verLoad q => q.record == 0x8000 | _ => false)) && recordOk s.dev 0x8000 && loadSlot (readSlots s.dev 0x8000) x.1 == x.2 && (grp s 2).state == .live && (s.dev.job 0).isSome) = true := by decide +kernel
/-- A held store of the group, past the timeout. -/
def staleGroupStore : State :=
  let s := ringFull fun h => { h with heldStores := [{ vstore 90 with source := .group 2 9 31 }] }
  { s with dev := s.dev.modGroup 2 fun g => { g with ops := [opOf .verStore RegWrites.none] } }
/-- A parked seal past the timeout. -/
def staleSeal : State := ringFull fun h => { h with parked := [vseal 90] }
/-- A group that waits for a slot, past the timeout. -/
def staleLoad : State :=
  let s := homing id
  { s with dev := { (s.dev.modGroup 2 fun g => { g with state := .waiting, wait := some (.sealed 9), ops := [opOf (.verLoad verQuery) RegWrites.none] }) with clock := 100000 }.setDrawer 0 (grp s 2).block { s.dev.drawer 0 (grp s 2).block with count := 1, deadline := 65536 } }
theorem meets_staleness :
    (let s := staleStores
     (s.dev.home 0x8000).parked = [] ∧ sealWaiters s.dev 0x8000 = [] ∧ (∀ x ∈ (s.dev.home 0x8000).heldStores, x.source = .mirror ∨ x.source = .fill) ∧ ((s.dev.home 0x8000).heldStores.map fun x => stale s.dev (s.dev.home 0x8000).job x.since && recordOk s.dev 0x8000 && chooseSlot s.dev 0x8000 x.step == .hold) = [true, false]) ∧
    (let s := staleGroupStore
     (s.dev.home 0x8000).parked = [] ∧ sealWaiters s.dev 0x8000 = [] ∧ (s.dev.home 0x8000).heldStores.length = 1 ∧ stale s.dev (s.dev.home 0x8000).job 0 = true ∧ chooseSlot s.dev 0x8000 90 = .hold ∧ (grp s 2).state ≠ .halted ∧ (grp s 2).ringTraps = [] ∧ ((grp s 2).ops.all fun o => o.id == 9 && o.tileWrites.isEmpty && o.verLast.isNone && o.shape.isNone) = true) ∧
    (let s := staleSeal
     (s.dev.home 0x8000).heldStores = [] ∧ sealWaiters s.dev 0x8000 = [] ∧ stale s.dev 0 0 = true ∧ resultPending (s.dev.home 0x8000) (vseal 90) = false ∧ chooseSlot s.dev 0x8000 90 = .hold ∧ newestSealed (readSlots s.dev 0x8000) = some 0) ∧
    (let s := staleLoad
     (s.dev.home 0x8000).parked = [] ∧ (s.dev.home 0x8000).heldStores = [] ∧ sealWaiters s.dev 0x8000 = [grp s 2] ∧ pastDeadline s.dev (grp s 2) = true ∧ (grp s 2).savedDrawer = none ∧ ((grp s 2).ops.find? fun o => o.id == 9).isSome = true) := by decide +kernel

/-- A miss of the group on a page. -/
def missOf (va : DWord) : Miss := { group := 2, site := trapped.site, idx := 2, lane := some 0, job := 0, va, access := .load }
/-- The miss on its way from core 0, or in the queue of its slice. -/
def missing (va : DWord) (queued parked : Bool) : State := mapped [] fun d =>
  { (if queued then d.modSlice 0 fun s => { s with misses := [{ job := 0, va, access := .load, waiters := [missOf va], parked, since := 0, again := 4096 }] } else d.modCore 0 fun c => { c with misses := [missOf va] }) with clock := 70000 }
/-- The miss on its way, and an entry of its page in the queue of its slice. -/
def joining : State := { missing 0x8010 true false with dev := (missing 0x8010 true false).dev.modCore 0 fun c => { c with misses := [missOf 0x8AB0] } }
/-- A miss whose access the page at 0x10000 does not grant. -/
def denied (parked : Bool) : State := mapped [] fun d => { (entryAt 0x103010 0x11B 0x10000 d).modSlice 0 fun s => { s with misses := [{ job := 0, va := 0x10010, access := .store, waiters := [{ missOf 0x10010 with access := .store }], parked, since := 0, again := 4096 }] } with clock := 70000 }
/-- The entry of a state's slice 0 that a walk takes up. -/
def taken (again : Bool) (s : State) (p : MissEntry → Bool) : Bool := thereAnd (findWhere (fun (e : MissEntry) => if again then e.parked && decide (e.again ≤ s.dev.clock) else !e.parked) (s.dev.slice 0).misses 0) fun x => p x.2
theorem meets_misses_walked :
    ((missing 0x8010 false false).dev.core 0).misses = [missOf 0x8010] ∧ (findWhere (fun e => sameMiss (missing 0x8010 false false).dev e (missOf 0x8010)) ((missing 0x8010 false false).dev.slice 0).misses 0).isNone = true ∧ ((missing 0x8010 false false).dev.slice 0).misses.length < 512 ∧
    (thereAnd (findWhere (fun e => sameMiss joining.dev e (missOf 0x8AB0)) (joining.dev.slice 0).misses 0) fun x => !x.2.parked) = true ∧
    ([false, true].all fun p => let s := missing 0x8010 true p; taken p s fun e => (match walkEntry s.dev e with | .leaf l => !l.repl && e.waiters.all fun m => !l.denies m.access | _ => false)) = true ∧
    ([false, true].all fun p => let s := denied p; taken p s fun e => e.waiters.length == 1 && decide (walkEntry s.dev e = .fatal)) = true ∧
    ([false, true].all fun p => let s := missing 0x40000 true p; taken p s fun e => decide (walkEntry s.dev e = .replayable)) = true ∧
    (stale (missing 0x40000 true true).dev 0 0 = true ∧ (grp (missing 0x40000 true true) 2).state = .live ∧ ((Tbl.find (missing 0x40000 true true).dev.teams 1).map (·.handler)) = some false) := by decide +kernel

/-- A status block at 0x2000 for the job: trap ring, dump area and swap area as given. -/
def statused (ring base size next sbase ssize : Nat) (d : Device) : Device :=
  (d.writeBytes 0x2000 (bytesOf 8 0 ++ bytesOf 8 ring ++ bytesOf 8 0 ++ bytesOf 8 base ++ bytesOf 8 size ++ bytesOf 8 next ++ bytesOf 8 sbase ++ bytesOf 8 ssize ++ bytesOf 8 0)).modJob 0 fun j => { j with status := 0x2000 }
/-- A team whose group 2 has halted, with another group of the team. -/
def fatal : State := mapped [] fun d => ((also 8 id d).modGroup 2 fun g => { g with state := .halted }).modTeam 1 fun t => { t with state := .fatal }
/-- A team's dump, which stands at a barrier section. -/
def dumping : State := mapped [] fun d => ((statused 0 0x3000 0x1000 0 0 0 d).modJob 0 fun j => { j with dumps := [1] }).modTeam 1 fun t =>
  { t with state := .fatal, stopped := true, dump := some { code := .alignment, clause := 0, info := 0, group := 0, name := 0, loc := 0, clock := 0, records := [], base := 0x3000, size := 0x1000, offset := 0, length := 128, written := 1, sections := some [⟨9, 0, bytesOf 8 7⟩], saved := some [], flags := 0, second := none, locks := [], skip := false } }
/-- The dump before its sections are known. -/
def unready (s : State) : State := { s with dev := s.dev.modTeam 1 fun t => { t with dump := t.dump.map fun x => { x with sections := none, saved := none } } }
/-- A team that closes, at the end of its grace. -/
def closingTeam (st : GroupState) : State := on fun d => (({ d with launches := [(7, { (default : Launch) with id := 7, state := .cancelling, fields := [0, 0, 2, 1, 32, 26, 0, 0, 0, 1], left := 2 })], clock := 50 }).modTeam 1 fun t => { t with state := .closing, cancelled := true, launch := some 7, cancelAt := some 50 }).modGroup 2 fun g => { g with state := st }
theorem meets_fatal_path_and_cancels_end :
    ((Tbl.find fatal.dev.teams (grp fatal 2).team).any (fun t => t.id == 1 && t.state == .fatal && !t.stopped && (fatal.dev.job t.job).isSome) = true ∧ (grp fatal 2).state = .halted) ∧
    ((dumping.dev.job 0).any fun j => j.dumps.head? == some 1) = true ∧ (goingLines (grp fatal 2) = [] ∧ (Tbl.find fatal.dev.teams 1).map enginesQuiet = some true) ∧
    ((Tbl.find (unready dumping).dev.teams 1).any fun t => t.dump.any fun x => x.sections.isNone && x.saved.isNone) = true ∧
    ((Tbl.find dumping.dev.teams 1).any fun t => t.id == 1 && !t.cancelled && t.dump.any fun x => x.second.isNone && match x.sections with
      | some (⟨kind, gid, body⟩ :: _) => decide (x.offset + x.length + 16 + body.length ≤ x.size) && (badBytes dumping.dev t kind body.length x.length).isEmpty && (engineRun dumping.plat t.job (edgeDie t.cluster) dumping.dev (BitVec.ofNat 64 (x.base + x.offset + x.length)) (sectionBytes dumping.dev kind gid body)).2
      | _ => false) = true ∧
    ((Tbl.find (closingTeam .live).dev.teams 1).any fun t => t.state == .closing && t.cancelAt == some 50) = true ∧
    ((Tbl.find (closingTeam .halted).dev.teams 1).any fun t => t.state == .closing && enginesQuiet t && (teamGroups (closingTeam .halted).dev 1).all (fun g => g.state == .halted) && (launchOf (closingTeam .halted).dev t).any fun l => decide (1 < l.left) && Tbl.find (closingTeam .halted).dev.launches l.id == some l) = true := by decide +kernel

/-- Team 1 out of the way, and team 3 of the same launch in the job's queue. -/
def queueing (st : TeamState) : State := mapped [] fun d =>
  let l : Launch := { (default : Launch) with id := 7, fields := [0x40, 9, 1, 3, 7, 20, 512, 0, 0, 1], left := 1, state := .running }
  let t : Team := { newTeam 3 l 0 0 with state := st }
  let d := { d with teams := [(3, t)], groups := if st == TeamState.swapped then [(2, { grp base 2 with team := 3, index := 6, state := .swapped, savedDrawer := some (Drawer.free 3) })] else [] }
  { d with launches := [(7, l)] }.modJob 0 fun j => if st == TeamState.swapped then { j with swapped := [3] } else { j with queued := [3] }
/-- Every cluster but the first is off, and the first is full of one resident team with its quantum over. -/
def displacing : State :=
  let s := mapped [] fun d =>
    let l : Launch := { (default : Launch) with id := 7, fields := [0x40, 9, 2, 3, 7, 20, 2097152, 0, 0, 1], left := 2, state := .running }
    let d := statused 0 0 0 0 0x100000 0x1000000 d
    { d with teams := [(1, { (newTeam 1 l 0 0) with state := .resident, quantumOver := true }), (3, newTeam 3 l 1 0)], launches := [(7, l)] }.modJob 0 fun j => { j with queued := [3] }
  { s with plat := { s.plat with health := BitVec.ofNat 2048 (2 ^ 128 - 2) } }
/-- The team is leaving, with a place for its image at 0xA000. Its group has exited; a task of it waits. -/
def leaving : State := mapped [] fun d => ({ d with groups := [] }.setDrawer 0 64 { Drawer.free 9 with kind := 2, count := 1, team := 1 }).modTeam 1 fun t => { t with state := .swappingOut, stopped := true, image := some (0xA000, 65536) }
theorem meets_places :
    ([queueing .queued, queueing .swapped].all fun s => schedFree s.dev && decide (swapsRunning s.dev < 4)) = true ∧
    ((scheduleChoice wired (queueing .queued).dev).any fun x => x.2.2 == .place 0 && (queueHead (queueing .queued).dev x.2.1).any fun t => t.state == .queued && Tbl.find (queueing .queued).dev.teams t.id == some t) = true ∧
    ((scheduleChoice wired (queueing .swapped).dev).any fun x => x.2.2 == .place 0 && (queueHead (queueing .swapped).dev x.2.1).any fun t => t.state == .swapped && Tbl.find (queueing .swapped).dev.teams t.id == some t && !imagePoisoned (queueing .swapped).dev t && (teamGroups (queueing .swapped).dev t.id).all fun g => g.wait.isNone && Tbl.find (queueing .swapped).dev.groups g.id == some g) = true := by decide +kernel
theorem meets_displacement_and_timers :
    schedFree displacing.dev = true ∧ ((scheduleChoice displacing.plat displacing.dev).any fun x => x.2.2 == .displace 0 [1]) = true ∧
    ((Tbl.find (mapped [] fun d => { d with clock := 2 ^ 26 }).dev.teams 1).any fun t => t.state == .resident && decide (t.residentSince + t.quantum ≤ 2 ^ 26)) = true ∧
    (((mapped [] fun d => { (d.modJob 0 fun j => { j with readySince := some 5 }) with clock := 5 + 2 ^ 20 }).dev.job 0).any fun j => j.readySince.any fun t => decide (t + 2 ^ j.age ≤ 5 + 2 ^ 20)) = true := by decide +kernel
theorem meets_swap_out :
    ((Tbl.find leaving.dev.teams 1).any fun t => t.id == 1 && t.state == .swappingOut && (teamGroups leaving.dev 1).all groupQuiet && enginesQuiet t &&
      (let p := (teamGroups leaving.dev 1).foldl (fun d g => preempt d g.id) leaving.dev
       (writeContext leaving.plat p t).2)) = true := by decide +kernel

/-- Job 0 with one phase that has not started; its one graph is recorded at 0x1000. -/
def phased (graphs : Nat) : State := mapped [] fun d =>
  { (d.modJob 0 fun j => { j with phases := [5] }) with phases := [(5, { (default : Phase) with id := 5, job := 0, state := .running, graphs := [0x1000] })], graphs := (List.range graphs).map fun i => (100 + i, { (default : Graph) with id := 100 + i, job := 0, state := .running }) }
/-- A graph record of two nodes: a condition on the word at 0x2000, which the launch recorded at 0x3000 follows. -/
def graphBytes (done : Nat) : List Byte :=
  bytesOf 8 2 ++ bytesOf 8 done ++ bytesOf 48 0 ++ (bytesOf 4 1 ++ bytesOf 8 0xFFFFFFFFFFFF0001 ++ bytesOf 4 0 ++ bytesOf 8 0x2000 ++ bytesOf 8 0) ++ (bytesOf 4 0x10000 ++ bytesOf 8 0xFFFFFFFFFFFFFFFF ++ bytesOf 4 0 ++ bytesOf 8 0x3000 ++ bytesOf 8 0)
/-- The phase in line for the walker. -/
def inLine (done : Nat) : State := mapped [] fun d =>
  { (d.writeBytes 0x1000 (graphBytes done)) with sched := { d.sched with waitingPhases := [5] }, phases := [(5, { (default : Phase) with id := 5, job := 0, state := .running, started := true, graphs := [0x1000], toSubmit := [0x1000] })] }
/-- A graph whose first node is a condition of a kind, with successors 1 and none, on the word at 0x2000. -/
def conditional (kind limit word : Nat) (succ : List Nat) : State := mapped [] fun d =>
  let x : Node := { kind, npred := 0, succ, limit, target := 0x2000 }
  let g : Graph := { (newGraph 8 0 5 0x1000 0 [x, { x with kind := 0, npred := 2, succ := [0xFFFF, 0xFFFF, 0xFFFF, 0xFFFF], target := 0x3000 }]) with cnt := [0, 2], iter := [1, 0], running := 1, starts := [], conds := [0] }
  { (d.writeBytes 0x2000 (bytesOf 8 word)) with graphs := [(8, g)] }
/-- The command engine can read a word, which is not poisoned. -/
def okWalk (s : State) (va : DWord) : Bool := match engineXlat s.dev 0 .load 0 va with | .ok _ pa => !s.dev.anyPoison pa 8 | _ => false
/-- A fill with no page left. -/
def fillOf : FillJob := { host := { port := 0, tag := 9 }, peer := 1, store := 2, since := 0, pages := [], all := [], fromBoard := [], asked := false, writing := none, partial_ := true }
theorem meets_phases_and_graphs_go_on :
    (phaseHeld { wired with fillJob := some fillOf, resmap := [(1, { base := 0x20000, len := 0x10000, job := 0, ctl := 1, partner := 1, miss := 0, nvm := 0 })] } 0 = true ∧ phaseHeld wired 0 = false) ∧
    (((phased 256).dev.job 0).any (fun j => j.state == .running && (nextPhase (phased 256).dev j).any fun x => x.2 && !x.1.graphs.isEmpty) = true ∧ (phased 256).dev.sched.waitingPhases = [] ∧ 256 ≤ walkerCount (phased 256).dev) ∧
    ((Tbl.find (inLine 16).dev.phases 5).any (fun x => x.toSubmit == [0x1000]) = true ∧ walkerCount (inLine 16).dev < 256 ∧ (readGraph (inLine 16).dev 0 0x1000).isSome = true ∧ (readGraph (inLine 8).dev 0 0x1000).isNone = true) ∧
    ([conditional 1 0 0 [1, 0xFFFF, 0xFFFF, 0xFFFF], conditional 2 2 1 [0xFFFF, 1, 0xFFFF, 0xFFFF], conditional 1 0 7 [1, 0xFFFF, 0xFFFF, 0xFFFF]].all fun s => okWalk s 0x2000 && (Tbl.find s.dev.graphs 8).any fun g => g.state == .running && !g.stopped && !recordsParked s.dev g) = true := by decide +kernel

/-- Core 3 serves a take of launch 7 at a stage, with the ranges it has. -/
def ranging (stage : Option TakeStage) (r : Ranges) (next : Nat) (f : Core → Core) : State := on fun d =>
  { (d.modCore 3 fun c => f { c with stage, takes := [{ group := 2, op := 9, launch := 7, n := 4, sd := 6 }], ranges := [(7, r)] }) with launches := [(7, { (default : Launch) with id := 7, job := 0, state := .running, fields := [0, 0, 1, 1, 1, 16, 0, 100, 0, 8], left := 1, next, holders := [3, 2, 5, 200] })] }
/-- A message of the steal protocol for launch 7. -/
def stealOf (thief : Nat) (forTake : Bool) (lo hi : Nat) : StealMsg := { thief, launch := 7, forTake, lo, hi }
theorem meets_index_ranges_move :
    ([96, 100].all fun n => (Tbl.find (ranging (some .grab) default n id).dev.launches 7).any fun l => l.state == .running && (l.next == n)) = true ∧
    (let s := ranging (some (.range 8 16)) { lo := 4, hi := 4, spareLo := 0, spareHi := 0 } 16 id
     launchLive s.dev 7 = true ∧ (rangesOf (s.dev.core 3) 7).hi ≤ (rangesOf (s.dev.core 3) 7).lo) ∧
    victimOrder 3 [3, 2, 5, 200] = [2, 5, 200] ∧
    ([({ lo := 4, hi := 9, spareLo := 0, spareHi := 0 } : Ranges), { lo := 4, hi := 5, spareLo := 8, spareHi := 16 }, { lo := 4, hi := 5, spareLo := 0, spareHi := 0 }].all fun r => let s := ranging none r 16 fun c => { c with steals := [stealOf 5 true 0 0] }
      ((s.dev.core 3).steals.any fun m => m.thief != 3) && rangesOf (s.dev.core 3) 7 == r) = true ∧
    (let s := ranging (some (.steal 2 [5])) default 16 fun c => { c with gives := [stealOf 3 true 8 12], nones := [stealOf 3 true 0 0], dries := [7] }
     (s.dev.core 3).gives.length = 1 ∧ (s.dev.core 3).nones.length = 1 ∧ (s.dev.core 3).dries = [7] ∧ launchLive s.dev 7 = true ∧ (rangesOf (s.dev.core 3) 7).hi ≤ (rangesOf (s.dev.core 3) 7).lo) := by decide +kernel

/-- An `rst` store of a peer to a register of a named group. -/
def rstOf (name : Word) (reg : Nat) : RstMsg := { peer := 1, seq := 5, name, reg, mask := 0x80000001, values := (List.range 32).map fun l => BitVec.ofNat 32 (100 + l) }
/-- A lane of a remote access. -/
def laneOf (addr : DWord) (bytes : Nat) : RemoteLane := { lane := 3, addr, bytes, data := 0, data2 := 0 }
/-- Peer 1 is UP with one request outstanding, which the placed group waits for; name 7 of generation 2 is the group's. -/
def reached (holds : List Hold) (time : Nat) : State := mapped [] fun d =>
  { (((d.modGroup 2 fun g => { g with holds, outRemote := 1, name := 0x702 }).modPeer 1 fun p => { p with state := .up, outstanding := [{ seq := 5, origin := .held 2, job := 0, kind := some .store, lanes := [laneOf 0x1000 4], rst := none, issued := 0 }] }).writeBytes 0x4008 (bytesOf 8 77)) with names := [(7, { gen := 2, holder := some 2, exited := false })], time }
/-- An access of peer 1 to a job. -/
def loadOf (job : Nat) : RemoteReq := { peer := 1, seq := 5, job, kind := .load, lanes := [laneOf 0x4008 8, { laneOf 0x4010 4 with lane := 9 }], ualink := none }
/-- Its store, atomic add and read as a UALink peer. -/
def remoteStore : RemoteReq := { loadOf 0 with kind := .store, lanes := [laneOf 0x4008 8] }
def remoteAdd : RemoteReq := { loadOf 0 with kind := .atomRet 0 0, lanes := [laneOf 0x4008 4] }
def uaRead (size : Nat) : RemoteReq := { loadOf 0 with lanes := [], ualink := some { addr := 0x4000, size, op := .read } }
/-- The platform whose peer 1 is a UALink peer. -/
def ualinked : Platform := { wired with remap := [(0, 0x80000000), (1, 0xA0010000)] }
/-- A request of peer 1 at the head of a service group's queue. -/
def servingPeer : State := let s := serving (.atomic .add .i32) (.remote 3 9); { s with dev := { s.dev with served := [{ id := 3, peer := 1, seq := 4, job := 0, kind := .atomRet 0 0, lanes := [laneOf 0x808 4], begun := true, left := 1, answers := [] }] } }
/-- An answer of peer 1. -/
def answerOf (ok : Bool) (cause : Nat) : RemoteResp := { peer := 1, seq := 5, answers := [{ lane := 3, ok, cause, value := 0 }] }
/-- An access that peer 1 has here already. -/
def servedOf : Served := { id := 3, peer := 1, seq := 4, job := 0, kind := .load, lanes := [laneOf 0x4008 8], begun := true, left := 1, answers := [] }
theorem meets_remote_and_rst_served :
    ((reached [] 0).dev.served = [] ∧ nextServed wired [] [] = none ∧ nextServed wired [] [servedOf] = none ∧ (reached [] 0).dev.anyPoison 0x4008 8 = false) ∧
    ([[], [{ reg := 9, count := 2 }]].all fun hs => let s := reached hs 0
      s.plat.valid 1 && (s.dev.peer 1).state == .up && (Tbl.find s.dev.names 7).any (fun e => e.holder == some 2 && e.gen.toNat == (0x702 : Word).toNat % 256) && (grp s 2).id == 2 && !unheldReg (grp s 2) 9) = true ∧
    (wired.mode 1 = 0 ∧ ualinked.mode 1 = 1 ∧ uaAccess { addr := 0x4000, size := 128, op := .read } = some (0, .load, (List.range 8).map fun i => { lane := i, addr := 0x4000 + BitVec.ofNat 64 (16 * i), bytes := 16, data := 0, data2 := 0 }) ∧ uaAccess { addr := 0x4000, size := 32, op := .read } = none ∧
      remoteAtom (.atomRet 0 0) = some (.add, .i32) ∧ (reached [] 0).dev.anyPoison 0x4010 4 = false ∧ (match engineXlat (reached [] 0).dev 0 .store 0 0x4008 with | .ok l _ => !l.repl && !l.ver | _ => false) = true ∧
      atHead servingPeer (fun r => r.source == .remote 3 9 && (agNew r 40).isSome) = true) ∧
    Tbl.find (reached [] 0).dev.names ((0x802 : Word).toNat / 256 % 2 ^ 15) = none ∧ ((reached [] 0).dev.job 0).isSome = true ∧ ((reached [] 0).dev.job 1).isNone = true ∧ okWalk (reached [] 0) 0x4008 = true ∧
    ((reached [] 0).dev.peer 1).outstanding.length = 1 ∧ (((reached [] (micros 20 + 1)).dev.peer 1).outstanding.all fun r => decide (r.issued + micros 20 < micros 20 + 1)) = true := by decide +kernel

/-- Peer 1 in a state, at a time. -/
def peerIn (time : Nat) (f : Peer → Peer) : State := mapped [] fun d => { (d.modPeer 1 f) with time }
theorem meets_peer_states_change :
    (((peerIn (micros 1000) id).dev.peer 1).state = .isolated ∧ ((peerIn (micros 1000) id).dev.peer 1).since = 0 ∧ ((peerIn 0 id).dev.peer 1).fails.length = 8 ∧ ((peerIn 0 id).dev.peer 1).down = 0 ∧ wired.valid 1 = true ∧ wired.own = 0 ∧ wired.mode 1 = 0) ∧
    ([(none, 0), (some 5, 5 + micros 20), (some 5, 6 + micros 20)].all fun x => let p := (peerIn x.2 fun p => { p with state := .probing, probeOut := x.1 }).dev.peer 1; p.state == .probing && p.probeOut == x.1 && p.probeAt == 0) = true ∧
    ((peerIn 0 fun p => { p with down := 0x80 }).dev.peer 1).down.getLsbD 7 = true ∧ ((peerIn 0 fun p => { p with kept := [(0, .sideboard 1 0 5)] }).dev.peer 1).kept = [(0, .sideboard 1 0 5)] := by decide +kernel

/-- Job 0 with peer 1 in its sideboard, UP, two steps behind. -/
def board (present : Bool) : State := mapped [] fun d =>
  { ((d.modJob 0 fun j => { j with sbMem := 3, sbAbsent := 8, sideboard := [(0, { step := 7, present := true, heard := 0 }), (1, { step := 5, present, heard := 0 })] }).modPeer 1 fun p => { p with state := .up }) with time := micros 9 }
theorem meets_sideboard :
    ((board true).dev.job 0).any (fun j => decide (j.sbSentAt + micros j.sbAbsent.toNat / 8 ≤ (board true).dev.time) && sbMember wired j 1 && (Tbl.find j.sideboard 1).any fun e => e.present && decide (e.heard + micros j.sbAbsent.toNat < (board true).dev.time) &&
      (sbLeast wired { j with sideboard := Tbl.set j.sideboard 1 { e with present := false } }).any fun l => decide (stepDiff e.step l < 0)) = true ∧
    ((board true).dev.peer 1).noCredit = 0 ∧ ((board true).dev.peer 1).kept = [] := by decide +kernel

/-- A contribution of a member for a step. -/
def contributionOf (member step : Nat) : Contribution := { job := 0, binding := 0x9000, chunk := 0, step, member, resend := false, data := [0x3F800000] }
/-- A collective whose members a mask names, at a time. -/
def collecting (mask time : Nat) (f : CollState → CollState) : State := mapped [] fun d => { (d.writeBytes 0x9000 (bindingBytes mask 10)) with time, coll := f d.coll }
/-- The owned chunk, whose step 5 is open. -/
def chunkOf (staged : List Staged) : Chunk := { job := 0, binding := 0x9000, chunk := 0, open_ := some 5, staged, early := [], closes := [], ready := [] }
/-- A contribution of this device for step 5, staged at time 0. -/
def stagedOf : Staged := { shift := 0, late := false, step := 5, member := 0, since := 0, data := [0x3F800000] }
/-- The binding at 0x9000. -/
def boundTo (s : State) (p : Binding → Bool) : Bool := (readBinding s.plat s.dev 0 0x9000).any p
/-- A collective with a send, a wait for a result, and a contribution that has been sent. -/
def gathering (time : Nat) : State := collecting 3 time fun c => { c with
  sends := [(0, { job := 0, binding := 0x9000, chunk := 0, step := 6, src := 0x4000, group := some 2 })]
  gets := [{ group := 2, op := 9, job := 0, binding := 0x9000, chunk := 0, step := 6, dst := [], sd := 6, issued := 0 }]
  retained := [{ id := 4, job := 0, binding := 0x9000, chunk := 0, step := 6, sentAt := 0, copy := true, lost := true, resent := false }] }
theorem meets_contributions :
    (stagingFull (collecting 3 0 fun c => { c with chunks := [(8, chunkOf [])] }).dev 0 = false ∧ engineOf 0 = 0 ∧ stagingFull (collecting 3 0 fun c => { c with chunks := [(8, chunkOf (List.replicate 1024 stagedOf))] }).dev 0 = true ∧ ((collecting 3 0 id).dev.peer 1).withheld = false) ∧
    (boundTo (gathering 0) fun b => b.owner 0 == 0 && (readSource (gathering 0).dev 0 0 0x4000).isSome && decide (0 < b.nchunk) && b.members.contains 1) = true ∧
    ((findChunk (collecting 3 0 fun c => { c with chunks := [(8, chunkOf [])] }).dev 0 0x9000 0).any fun e => e.1 == 8 && !alreadyIn e.2 (contributionOf 1 5) && !alreadyIn e.2 (contributionOf 1 6) && e.2.open_ == some 5) = true := by decide +kernel
theorem meets_closes_and_results :
    (let s := collecting 1 (micros 10) fun c => { c with chunks := [(8, chunkOf [stagedOf])] }
     boundTo s fun b => b.vbase == 0 && b.members == [0] && (let c := noteQuorum s.dev b (noteTimers s.dev b (chunkOf [stagedOf])); c.open_ == some 5 && c.ready == [(5, 1)] && c.staged == [stagedOf])) = true ∧
    (boundTo (gathering 0) fun b => (resultRecord (gathering 0).dev 0 b 0).any fun r => decide (r.1 ≤ 6)) = true ∧
    (boundTo (gathering (micros 40 + 1)) fun b => (gathering (micros 40 + 1)).dev.coll.gets.any fun w => getLost wired (gathering (micros 40 + 1)).dev w b) = true ∧
    (boundTo (gathering 0) fun b => (readSource (gathering 0).dev 0 0 (b.kbase + BitVec.ofNat 64 (4096 * 0))).isSome) = true := by decide +kernel

/-- A copy of team 1 of 144 bytes, at an offset. -/
def copyOf (dir : CopyDir) (dst src : DWord) (at_ : Nat) : CopyOp := { id := 9, job := 0, team := 1, group := 2, tl := 1, number := 8, gather := false, dir, dst, src, len := 144, idx := 0, rows := 0, die := 0, at_, stalled := none }
/-- A gather of two rows of 48 bytes, the second of zeros. -/
def gatherOf (at_ : Nat) : CopyOp := { copyOf .g2g 0x3000 0x1F40 at_ with gather := true, len := 48, rows := 2, idx := 0x2800 }
/-- The copy at its cluster's engine, with bytes at 0x2000, an index array at 0x2800 and a window. -/
def engined (o : CopyOp) (bad : List Nat := []) : State := mapped [] fun d =>
  ((((bad.foldl (fun d a => d.setPoison a) (d.writeBytes 0x2000 (bytesOf 16 0x0102030405060708090A0B0C0D0E0F10))).writeBytes 0x2800 (bytesOf 4 4 ++ bytesOf 4 0xFFFFFFFF)).modCluster 0 fun c => { c with copies := [o] }).modTeam 1 fun t =>
    { t with windowSize := 4096, window := [(256, 7), (300, 8)], windowPoison := [90], ranges := [{ op := 9, group := 2, written := true, lo := 64, hi := 80 }], tls := listSet t.tls 1 { counter := 7, accepted := 8, done := [], errOp := 0, errCode := 0, errX := 0, clock := clockZero } })
/-- The copy as the device has it. -/
def engineHas (o : CopyOp) : Bool := ((Tbl.vals (engined o).dev.clusters).flatMap fun c => c.copies).find? (fun x => x.id == o.id) == some o
/-- The units of a copy's next granule. -/
def unitsOf (o : CopyOp) : Nat := min 64 (o.total - o.at_) / 16
/-- Its source units are there, as many of them poisoned as said. -/
def sourced (s : State) (o : CopyOp) (bad : Nat) : Bool :=
  let xs := (List.range (unitsOf o)).map fun i => reachSource s.dev o (o.at_ + 16 * i)
  (xs.all fun x => match x with | .bytes bs _ => bs.length == 16 | _ => false) && (xs.filter fun x => match x with | .bytes _ b => b | _ => false).length == bad
/-- Its destination units are memory of ordinary pages, or not mapped yet. -/
def placedAt (s : State) (o : CopyOp) : Bool := (List.range (unitsOf o)).all fun i => match engineXlat s.dev 0 .store 0 (o.dst + BitVec.ofNat 64 (o.at_ + 16 * i)) with | .ok l pa => !l.repl && !l.ver && pa % 16 == 0 | _ => false
theorem meets_copies_move_their_granules :
    ([copyOf .g2g 0x3000 0x2000 144, copyOf .g2g 0x3000 0x2000 64, copyOf .g2g 0x3000 0x2000 128, copyOf .w2g 0x3000 256 0, gatherOf 0].all engineHas && decide ((copyOf .g2g 0x3000 0x2000 144).total ≤ 144)) = true ∧
    ([copyOf .g2g 0x3000 0x2000 64, copyOf .g2g 0x3000 0x2000 128, copyOf .w2g 0x3000 128 0, gatherOf 0].all fun o => sourced (engined o) o 0 && placedAt (engined o) o) = true ∧
    ([copyOf .g2w 64 0x2000 0, copyOf .w2w 272 256 0].all fun o => winDst o.dir && sourced (engined o) o 0) = true ∧
    (let o := copyOf .g2g 0x3000 0x2000 0; let s := engined o [0x2010]; sourced s o 1 && placedAt s o) = true ∧ (let o := copyOf .w2w 512 352 0; sourced (engined o) o 1) = true ∧
    (let o := copyOf .g2g 0x20000 0x2000 0; sourced (engined o) o 0 && (match engineXlat (engined o).dev 0 .store 0 0x20000 with | .ok l _ => l.ver | _ => false) && match reachGranule (engined o).dev o 0 64 with | .stop code => code == 3 | _ => false) = true ∧
    (let o := copyOf .g2g 0x40000 0x2000 0; (match reachGranule (engined o).dev o 0 64 with | .parked => true | _ => false) && !copyHalted (engined o).dev o && !stale (engined o).dev 0 (o.stalled.getD (engined o).dev.clock)) = true := by decide +kernel

/-- A page of a command: the 64 KiB from a base, plain. -/
def plainPage (base : Nat) : HutchPage := { leaf := { codeLeaf with base, attr := 1 }, slot := none }
/-- A command of stack 1 on three words at 0x1000, from 0x2000, with m and v at 0x3000. -/
def cmdOf (op at_ : Nat) : HutchCmd :=
  { id := 9, words := [BitVec.ofNat 64 (op + 3 * 256), 0x1000, 0x2000, 0x3F0000003F000000], job := 0, team := 1, group := 2, tl := 1, number := 8, die := 0, stack := 0, dst := [plainPage 0], src := [plainPage 0], aux := [plainPage 0], mPages := [plainPage 0], mAddr := 0x3000,
    hyper := [0x3F000000, 0x3F000000, 0x3F000000, 0x322BCC77, 0x3F800000, 0x3F800000, 0], err := none, ready := true, since := 0, at_, sums := (5, 7) }
/-- The command at the head of its queue. -/
def hutched (op at_ : Nat) : State := on fun d => ((((d.writeBytes 0x1000 (bytesOf 4 0x40000000 ++ bytesOf 4 0x40400000 ++ bytesOf 4 0x40800000)).writeBytes 0x2000 (bytesOf 4 0x3F800000 ++ bytesOf 4 0x40000000 ++ bytesOf 4 0x40400000)).writeBytes 0x3000 (bytesOf 4 0x3F000000)).modHutch 0 fun h => { h with queue := [cmdOf op at_] }).modTeam 1 fun t => { t with windowSize := 0 }
/-- The group has handed a command over. -/
def handing (op : Nat) : State := withGroup fun g => { g with handed := [{ split := 0, clause := 0, index := 0, opcode := 0xEB, lanes := 1, where_ := 0, blocks := [], act := .hcmd 1 { cmdOf op 0 with mPages := [] } }] }
theorem meets_hutch_commands_run :
    (((Tbl.vals (handing 2).dev.groups).findSome? fun g => match g.handed with
      | e :: _ => (match e.act with | .hcmd _ x => if x.id == 9 && g.releases.isEmpty then some (g.id, x) else none | _ => none)
      | [] => none) = some (2, { cmdOf 2 0 with mPages := [] }) ∧ queueLoad (handing 2).dev 0 < 64 ∧ (handing 2).plat.hutchOff 0 = false ∧ (plainPage 0).leaf.repl = false ∧ (plainPage 0).leaf.ver = false) ∧
    ([1, 2, 3, 4, 5].all fun op => [0, 2].all fun k => let s := hutched op k
      ((s.dev.hutch 0).queue == [cmdOf op k]) && (cmdOf op k).op == op && !fillAhead s.dev (cmdOf op k) && decide (k < (cmdOf op k).n) && !(elemReads op (elemAt s.dev (cmdOf op k) k)).any s.dev.poisoned) = true ∧
    (let x := elemAt (hutched 1 2).dev (cmdOf 1 2) 2; decide (x.dst + 4 ≤ x.m) && decide (x.m + 4 ≤ x.v)) = true := by decide +kernel
/-- A command with poison in the word it writes next, or at its end, or refused at its acceptance. -/
def hutchPoisoned (op : Nat) : State := let s := hutched op 2; { s with dev := s.dev.setPoison (if op = 4 then 0x2008 else 0x1008) }
def hutchEnding (op : Nat) (err : Option Nat) : State := let s := hutched op 3; { s with dev := s.dev.modHutch 0 fun h => { h with queue := [{ cmdOf op 3 with err }] } }
theorem meets_hutch_commands_end :
    ([1, 2, 3, 4, 5].all fun op => let s := hutchPoisoned op
      (s.dev.hutch 0).queue == [cmdOf op 2] && (elemReads op (elemAt s.dev (cmdOf op 2) 2)).any s.dev.poisoned && !fillAhead s.dev (cmdOf op 2) && (cmdOf op 2).ready) = true ∧
    ([1, 2, 3, 4, 5].all fun op => decide ((cmdOf op 3).n ≤ 3) && ((hutchEnding op none).dev.hutch 0).queue == [cmdOf op 3] && ((hutchEnding op (some 20)).dev.hutch 0).queue == [{ cmdOf op 3 with err := some 20 }]) = true := by decide +kernel

/-- Entries of the resilience map for the versioned page 2 of job 0: 1 mirrors it to peer 1 and, with `hold`, holds peer 1's copy; 2 snapshots it. -/
def backed (cls : Nat) : Platform := { wired with resmap := [(1, { base := 0x20000, len := 0x10000, job := 0, ctl := BitVec.ofNat 8 (cls + 16), partner := 1, miss := 4, nvm := 0x10000 })] }
/-- A transfer of the SEALED slot 0 is due; peer 1 is in a state. -/
def sending (mirror : Bool) (st : PeerState) : State := mapped [] fun d =>
  { (d.modPeer 1 fun p => { p with state := st }) with transfers := [{ mirror, skip := false, entry := 1, record := 0x8000, slot := 0, page := 0x20000, size := 65536, step := 5, job := 0, frame := 0x10000 }] }
/-- What the board is to have written. -/
def writing (last : Bool) : Platform := { backed 2 with places := [{ entry := 1, page := 0x20000, newer := some 0, writing := some { place := 1, step := 5, record := 0x8000, slot := 0, offset := 0x20040, length := 65536, header := [], last } }] }
theorem meets_resilience_events :
    ((takeTransfer (sending true .up).dev true).any (fun x => (Tbl.find (backed 1).resmap x.1.entry).any fun e => e.partner == 1) && (takeTransfer (sending false .up).dev false).any (fun x => !x.1.skip && (Tbl.find (backed 2).resmap x.1.entry).isSome)) = true ∧
    ((sending true .up).dev.peer 1).state = .up ∧ ((sending true .up).dev.peer 1).noCredit = 0 ∧ ((sending true .up).dev.peer 1).kept = [] ∧ (backed 1).valid 1 = true ∧
    ((holdEntry (backed 3) 1 0).any fun e => e.covers (e.base.toNat + 0xFFFF) && ((versionedLeaf (sending true .up).dev 0 (BitVec.ofNat 64 (e.base.toNat + 0xFFFF))).any fun l => (newestSealed (readSlots (sending true .up).dev l.addr)).isSome)) = true ∧
    ([false, true].all fun l => ((writing l).places.find? fun p => match p.writing with | some w => (if w.last then w.offset + w.length else w.offset) == (if l then 0x30040 else 0x20040) | none => false).isSome) = true ∧
    portNamed wired { port := 0, tag := 0 } = true ∧ wired.start = .ready ∧ wired.fillJob = none ∧ wired.fillQueue = [] ∧ wired.heldPhases = [] := by decide +kernel

/-- The lower host port. -/
def port0 : HostTag := { port := 0, tag := 77 }
/-- A job record for a number. -/
def jobBytes (n : Nat) : List Byte := bytesOf 8 (n + 3 * 2 ^ 8 + 2 * 2 ^ 16 + 10 * 2 ^ 24 + 16 * 2 ^ 32 + 20 * 2 ^ 40 + 1 * 2 ^ 48) ++ bytesOf 8 0x5000 ++ bytesOf 8 0x100000 ++ bytesOf 40 0
/-- A phase record at 0x1000 of one graph, recorded at 0x2000, with its phase under way from 0x3000. -/
def hosted (st : ObjState) : State := mapped [] fun d =>
  { ((d.writeBytes 0x1000 (bytesOf 4 9 ++ bytesOf 4 1 ++ bytesOf 8 0 ++ bytesOf 8 0x2000)).modJob 0 fun j => { j with state := st, phases := [5] }) with phases := [(5, { (default : Phase) with id := 5, job := 0, record := 0x3000, state := .running, started := true, left := 1 })] }
theorem meets_host_commands_carried_out :
    (portNamed wired port0 = true ∧ wired.start = .ready ∧ jobRecordOk (jobBytes 63) = true ∧ field (jobBytes 63) 0 1 = 63 ∧ ((hosted .running).dev.job 63).isNone = true ∧ (hosted .running).dev.jobs.length < 64) ∧
    (match engineXlat (hosted .running).dev 0 .store 0 0x4038 with | .ok l _ => !l.ver && !l.repl | _ => false) = true ∧
    ([0x4038, 0x3003C].all fun va => let xs := linePieces 101 va (List.replicate 100 7)
      let d0 := xs.foldl (fun d x => collapseFor wired 0 d 0 x.1) (hosted .running).dev
      let pa (x : DWord × List Byte) : Option Nat := match engineXlat d0 0 .store 0 x.1 with | .ok l p => if l.repl || p % 64 + x.2.length > 64 then none else some p | _ => none
      decide (1 < xs.length) && (xs.all fun x => hostWritable (hosted .running).dev 0 x.1 && (pa x).isSome) && decide (xs.Pairwise fun x y => (pa x).getD 0 + x.2.length ≤ (pa y).getD 0)) = true ∧
    ((linePieces 101 0xFFF0 (List.replicate 100 7)).any fun x => !hostWritable (hosted .running).dev 0 x.1) = true ∧
    ((readRecord (hosted .running).dev 0 0x1000 16).any fun r => phaseHeaderOk r && phaseGraphs (hosted .running).dev 0 0x1000 (field r 4 2 % 257) == some [0x2000]) = true ∧ phaseHeld wired 0 = false ∧
    startedFrom (hosted .running).dev 0 .phase 0x3000 = [(5, .running)] ∧ ((hosted .complete).dev.job 0).map (·.state) = some .complete := by decide +kernel
theorem meets_registers_identity_and_attestation :
    portNamed wired port0 = true ∧ remapEntryOk 0x84000001 = true ∧ remapEntryOk 0xA0010000 = true ∧ remapEntryOk 0xE0000000 = false ∧ (0x38 : Word).toNat < 64 ∧ (0x38 : Word).toNat % 8 ≠ (0x38 : Word).toNat / 8 := by decide +kernel
/-- A platform in a state of its start. -/
def startIn (st : StartState) (warm : Bool) : Platform := { Platform.reset with start := st, warm, rollback := 3, level := 4, lowSince := some 10, roseAt := some 10 }
theorem meets_starts_and_power :
    ([StartState.fuse, .sign, .hbm, .bist, .fabric].all fun st => (startIn st false).start == st) = true ∧ (startIn .hbm true).warm = true ∧ portNamed (startIn .ready false) port0 = true ∧
    (startIn .ready false).level < 5 ∧ (∀ t, (startIn .ready false).roseAt = some t → t + micros 10 ≤ 10 + micros 10) ∧ (∀ t, (startIn .ready false).lowSince = some t → t + micros 1000 ≤ 10 + micros 1000) := by
  refine ⟨by decide +kernel, by decide +kernel, by decide +kernel, by decide +kernel, ?_, ?_⟩ <;> rintro t ⟨⟩ <;> decide

/-! Decoding, the step, invariants, results and exceptions. -/

/-- The placed split has entered its clause, which holds one `nop`, and its turn has come. -/
def entered : State :=
  let s := withGroup fun g => { g with splits := [(0, { firstSplit 0 0xFFFFFFFF 7 0 with entry := none, code := [hdrOf 1 0 0 0 15, 1], word := 1 })] }
  { s with turn := .issue 2 0 }
/-- `base` at power level 5, in a clock in which nothing issues. -/
def oddClock : State := { base with plat := { base.plat with level := 5 }, dev := { base.dev with clock := 1 } }
theorem meets_step_runs_the_decoded_instruction :
    (entered.move = .issue 2 0 ∧ thereAnd (splitOf (grp entered 2) 0) (fun sp => mayIssue entered.dev (grp entered 2) 0 sp && sp.entry.isNone && waitClear (grp entered 2) 0 (hdrWait sp.header) && (match decode (sp.code.drop sp.word) with | .ok x => x == (.nop, 1) | .error _ => false)) = true) ∧
    (base.move = .issue 2 0 ∧ thereAnd (splitOf (grp base 2) 0) (fun sp => mayIssue base.dev (grp base 2) 0 sp && sp.entry.isSome && match enterClause base.plat base.dev (grp base 2) 0 sp with
      | .ok d => thereAnd (Tbl.find d.groups 2) fun g => thereAnd (splitOf g 0) fun sp => waitClear g 0 (hdrWait sp.header) && match decode (sp.code.drop sp.word) with | .ok x => x == (.nop, 1) | .error _ => false
      | _ => false) = true) ∧
    (issueClock base.plat base.dev = true ∧ issueClock entered.plat entered.dev = true ∧ oddClock.move = .issue 2 0 ∧ oddClock.plat.level = 5 ∧ oddClock.dev.clock % 2 = 1) ∧
    (((base.dev.core 0).icache.find? fun e => e.1 == 0 && e.2.1 == 0) = none ∧ (match xlat base.dev (grp base 2) .fetch 0 with | .ok _ pa => !base.dev.poisoned pa && homeDie pa == 0 && pa % 4 == 0 | _ => false) = true) ∧ State.reset.turn = .free :=
  ⟨⟨rfl, by decide +kernel⟩, ⟨rfl, by decide +kernel⟩, by refine ⟨?_, ?_, rfl, rfl, rfl⟩ <;> decide +kernel, by decide +kernel, rfl⟩
theorem meets_decode_and_encode_agree :
    ((Instr.brk 3 1).wf ∧ (Instr.st (stAt 0x40)).wf ∧ (Instr.add (bin .i32)).isCode = true) ∧ (match decode [0x00000705, 0, 0] with | .ok x => x == (.brk 3 1, 3) | .error _ => false) = true := by decide +kernel
theorem meets_invariants : powerOk base.plat = true ∧ remapOk base.plat = true ∧ portsOk base.plat = true ∧ Memory.wf base.dev.mem = true ∧ base.dev.mem ≠ [] ∧ (match step base with | .next _ => true | _ => false) = true := by decide +kernel
theorem meets_code_leaves_the_platform : (Instr.nop).isCode = true ∧ (match exec .nop { base with turn := .issue 2 0 } with | .next _ => true | _ => false) = true := by decide +kernel
theorem meets_writes_read_back : Memory.wf (base.dev.writeBytes 62 [1, 2, 3, 4]).mem = true ∧ Apart 61 1 62 4 ∧ Apart 66 1 62 4 := by unfold Apart; decide +kernel
theorem meets_integer_results :
    ([.add (bin .i32), .sub (bin .i32), .mul (bin .w32), .mulhi (bin .i32), .mad (tri .i32), .min (bin .i16), .max (bin .i32), .abs (un .i32), .neg (un .i32)] : List Instr).all can = true ∧ ((Ty.i32).isInt && (Ty.w32).isInt && (Ty.i16).isInt) = true := by decide +kernel
/-- NaN, infinities and finite values of f16, with their sign bits. -/
theorem meets_float_special_cases :
    (Ty.f16).isF = true ∧ ((fmtOf .f16).inf.getD 0 < 0x7E00 % 2 ^ 15 ∧ 0xFC00 % 2 ^ 15 = (fmtOf .f16).inf.getD 0 ∧ 0x7C00 % 2 ^ 15 = (fmtOf .f16).inf.getD 0 ∧ 0xBC00 % 2 ^ 15 < (fmtOf .f16).inf.getD 0 ∧ 0x8000 % 2 ^ 15 = 0 ∧ 0xBC00 % 2 ^ 15 ≠ 0) := by decide +kernel
theorem meets_shift_results : ([.shl (bin .b32), .shr (bin .b64), .sra (bin .i64), .rot (bin .b32)] : List Instr).all can = true := by decide +kernel
theorem meets_bit_results : ([.popc (un .b64), .clz (un .b32), .brev (un .b64), .bfe (tri .i32), .bfe (tri .w32), .bfi (tri .b32)] : List Instr).all can = true ∧ 0x80000000 < 2 ^ 32 ∧ clzBits 32 0x40000000 < 32 := by decide +kernel
theorem meets_divsteps_divide : can (.divstep (bin .w32)) = true ∧ (0xFFFFFFFF < 2 ^ 32 ∧ 7 < 2 ^ 32 ∧ 7 ≠ 0) := by decide +kernel
theorem meets_results_reach_the_active_lanes : 222 + 2 ≤ 224 ∧ 7 < (grp base 2).p.length ∧ 31 < (grp base 2).s.length ∧ (Ty.f16).is16 = true ∧ 0xFFFFFFFF < 2 ^ 32 := by decide +kernel

/-- Job 0 with a handler or none, and a trap ring at 0x4000 for four records. -/
def handled (handler : DWord) : State := mapped [] fun d => (statused 0x4002 0 0 0 0 0 d).modJob 0 fun j => { j with handler }
/-- Where the placed instruction stands. -/
def siteOf : Site := { split := 0, pc := 0, index := 0, lanes := 0xFFFFFFFF }
/-- A software trap. -/
def trapOf : Exc := { code := .software, lane := none, info := 5 }
theorem meets_exceptions_are_taken :
    (let s := handled 0x6000
     let d := s.dev
     let g := grp s 2
     (g.id = 2 ∧ g.state = .live ∧ g.savedDrawer = none ∧ trapOf.code.isTrap = true) ∧ (d.job 0).any (fun j => j.number == 0 && j.handler != 0) = true ∧ (Tbl.find d.teams g.team).any (fun t => !t.handler) = true ∧
     (writeTrap wired d 0 (fun k => trapBytes trapOf.code.num 0 0 (1 + siteOf.index) 0xFF k siteOf.lanes.toNat g.index 0 (locOf wired g).toNat g.name.toNat (handleOf g.core g.block (drawerOf d g).gen).toNat 0 5 (2 ^ 64 - 1))).isSome = true) ∧
    (((handled 0).dev.job 0).map (·.handler) = some 0 ∧ (grp (handled 0) 2).state ≠ .halted ∧ (Exc.of .alignment).code.isTrap = false ∧ (grp fatal 2).state = .halted) := by decide +kernel
/-- Lanes 0 to 15 of the address in v4 and v5 are one address, and the others another; page 5 may not be touched. -/
def twoAddrs (a b : Nat) : State := mapped [] fun d => ((d.modCore 0 fun c => { c with xlat := fillLeaf c.xlat 64 0 { codeLeaf with base := 0x50000, r := false, w := false } }).modGroup 2 fun g => { g with v := (List.range 32).foldl (fun v l => let x := if l < 16 then a else b; Tbl.set (Tbl.set v (32 * 4 + l) (BitVec.ofNat 32 x)) (32 * 5 + l) (BitVec.ofNat 32 (x / 2 ^ 32))) g.v }).modTeam 1 fun t => { t with windowSize := 4096 }
/-- The lanes of an access to them pass up to lane 15, and lane 16 meets this. -/
def meetsAt (acc : Access) (own : Leaf → Bool) (s : State) (p : DWord → Xl → Bool) (c : Ctx) : Bool :=
  let ea (l : Nat) := globalEa c.g c.sp (.v 4) (off 0) l
  lanesOf c.lanes == List.range 32 && ((List.range 16).all fun l => (ea l).toNat % 4 == 0 && match xlat s.dev c.g acc (ea l) with | .ok x _ => own x | _ => false) && p (ea 16) (xlat s.dev c.g acc (ea 16))
theorem meets_exceptions_are_raised :
    ([(0x1000000000000, 0), (0x42, 1), (0x50000, 2), (0x40000, 3)].all fun x => let s := twoAddrs 0x1000 x.1
      let p (va : DWord) (r : Xl) : Bool := match x.2 with | 0 => decide (2 ^ 48 ≤ va.toNat) | 1 => va.toNat % 4 == 2 | 2 => (match r with | .fault _ => true | _ => false) | _ => (match r with | .miss => true | _ => false)
      readyAnd (.ld { ldAt 0 with a := rv 4 }) none s (meetsAt .load (fun _ => true) s p) && readyAnd (.st { stAt 0 with a := rv 4 }) none s (meetsAt .store (fun l => !l.ver) s p)) = true ∧
    (let s := twoAddrs 0x1000 0x20000; readyAnd (.st { stAt 0 with a := rv 4 }) none s (meetsAt .store (fun l => !l.ver) s fun _ r => match r with | .ok l _ => l.ver | _ => false)) = true ∧
    (let s := twoAddrs 0x20000 0x1000; readyAnd (.stVer { stAt 0 with a := rv 4 }) none s (meetsAt .store (fun l => l.ver) s fun _ r => match r with | .ok l _ => !l.ver | _ => false)) = true ∧
    ([(4094, true), (4096, false)].all fun x => let s := twoAddrs 4092 x.1
      ([Instr.ldSp { ldAt 0 with a := rv 4 }, .stSp { stAt 0 with a := rv 4 }].all fun i => readyAnd i none s fun c => (windowEa c.g c.sp (.v 4) (off 0) 0 == 4092) && c.team.windowSize == 4096 && (windowEa c.g c.sp (.v 4) (off 0) 16 == x.1))) = true ∧
    (readyAnd (.sysWr 1 4) none base (fun _ => true) && ctlKind 1 == some .ro32) = true ∧
    readyAnd (.accZero none 3) none base (fun c => !ownsTile c 3) = true ∧ readyAnd (.mma mmaAt) none base (fun c => !ownsTile c 3) = true ∧
    readyAnd (.stepRd 8 (.lit 514)) none base (fun c => decide (514 ≤ slVal c.g c.sp (.lit 514))) = true ∧
    ([Instr.bar, .barWait, .arriveN (off 1), .arriveNNw (off 1)].all fun i => readyAnd i none fourSplits fun c => decide (1 < (liveSplits c.g).length)) = true := by decide +kernel

/-! Ill-formed instructions, one for each static check, which the check refuses. -/

/-- Every term of the list is refused. -/
def refused (is : List Instr) : Bool := is.all fun i => !i.wf

/-- Rows 0x0_ and 0x1_ and the short forms: types, `.sat`, rounding, parts, register numbers, scalar destinations (R115 to R118, R150 to R160). -/
theorem test_integer_and_bit_checks_refuse : refused [
    .brk 0 1, .brk 4 1, .addI32Short { sh3 with d := .s 4 }, .movB32Short (.s 4) (.v 5),
    .add (bin .b32), .add { bin .i32 with rnd := .rtz }, .add { bin .i32 with part := .lo }, .sub { bin .w64 with d := .v 9 }, .mul { bin .i64 with a := rv 223 }, .add { bin .i32 with d := .s 8 },
    .mulhi (bin .f32), .mulhi { bin .i32 with sat := true }, .mad (tri .f32), .mad { tri .i64 with c := rv 11 }, .divstep (bin .i32), .divstep { bin .w32 with d := .v 7 }, .min { bin .i32 with sat := true }, .max { bin .f32 with rnd := .rtz },
    .abs { un .f32 with sat := true }, .abs (un .w32), .neg { un .i64 with a := ob 5 }, .addc (bin .i32) 1, .subb { bin .w32 with d := .s 8, a := rs 4, b := .lit 1 } 1,
    .lut3 { g := none, tr := false, table := 0xC0, d := .s 8, a := rv 4, b := .lit 1, c := rs 4 },
    .shl (bin .i32), .shr { bin .b32 with sat := true }, .sra (bin .b32), .rot { bin .b64 with a := rv 5 }, .popc (un .i32), .clz { un .b64 with a := ob 5 }, .bfe (tri .b32), .bfi (tri .i32), .brev (un .i32), .bperm (tri .w32)] = true := by decide +kernel
/-- Rows 0x2_ to 0x5_ (R161 to R179). -/
theorem test_float_and_lane_checks_refuse : refused [
    .fma (tri .i32), .fma { tri .f32 with part := .hi }, .rcp (un .b32), .tanh { un .f16 with d := .s 8 }, .cvt (un .b32) .f32 0, .cvt (un .f32) .f16 2, .cvt (un .f32) .i8 4, .cvt (un .f32) .i32 1, .cvt { un .i8 with rnd := .rtz } .i32 0, .cvt (un .f32) .i64 1,
    .cvtPk (bin .f16) .f16, .cvtPk { bin .f16 with part := .lo } .f32, .cvtPk (bin .e4m3) .f32, .cvtPk { bin .f16 with d := .s 8, a := rs 4, b := .lit 1 } .f32,
    .bsPack { bs .e4m3 .rne with base := 125 }, .bsPack { bs .e2m1 .rne with base := 124 }, .bsPack { bs .e4m3 .rne with vs := rv 8 }, .bsPack { bs .e4m3 .rne with vs := rv 7 }, .bsPack (bs .f16 .rne), .bsUnpack { bs .e4m3 .rne with d := .v 10 }, .bsUnpack { bs .e4m3 .rne with vs := rv 4 },
    .cmp { g := none, ty := .i32, part := .full, cond := .ord, comb := .set, pd := 1, a := rv 4, b := ob 6 }, .cmp { g := none, ty := .f16, part := .full, cond := .eq, comb := .set, pd := 1, a := rv 4, b := ob 6 }, .cmp { g := none, ty := .i32, part := .full, cond := .tst, comb := .set, pd := 1, a := rv 4, b := ob 6 },
    .cmp { g := none, ty := .b32, part := .full, cond := .lt, comb := .set, pd := 1, a := rv 4, b := ob 6 }, .sel (bin .i32) 1, .classOf { g := none, ty := .i32, part := .full, pd := 1, a := ob 4, mask := 1 }, .classOf { g := none, ty := .bf16, part := .full, pd := 1, a := ob 4, mask := 1 },
    .shflUp shfl, .shflIdx { shfl with ty := .i32 }, .shflXor { shfl with ty := .b64, d := .v 9, b := .lit 1 }, .scan (red (.s 8)), .rdc { red (.v 8) with op := .and }, .scanx { red (.v 8) with rnd := .rsd }, .rdc { red (.v 8) with op := .min, sat := true },
    .sort (un .f16) false, .sort { un .i32 with d := .v 9 } true, .rnd none false (.s 8) (rs 4) (.lit 1), .rnd none false (.v 8) (rv 4) (.lit 1), .rnd none false (.v 8) (rs 4) (ob 5),
    .mov (un .i32), .mov { un .b32 with d := .s 8 }, .rdlane { bin .b32 with b := .lit 1 }, .wrlane { bin .b32 with d := .s 8, a := rs 4, b := .lit 1 }, .wrlane { bin .b32 with a := rs 4 }, .ptov none false (.s 8) 1] = true := by decide +kernel
/-- Rows 0x6_ to 0x8_ (R234 to R285). -/
theorem test_memory_checks_refuse : refused [
    .ld { ldAt 0 with a := rv 5 }, .ld { ldAt 0 with size := .b128, d := .s 8 }, .ld { ldAt 0 with size := .b64, d := .v 9 }, .ld { ldAt 0 with d := .s 8, off := .vec 6 false }, .ld { ldAt 0 with off := .none true }, .ldSp { ldAt 0 with d := .s 8 }, .ldSp { ldAt 0 with pol := .thru },
    .st { stAt 0 with size := .b128, c := rs 8 }, .st { stAt 0 with size := .b64, c := rv 223 }, .stSp { stAt 0 with size := .b64, c := rv 9 }, .ldVer { g := none, size := .b32, d := .s 8, a := rs 4, off := off 0, sm := rs 5 }, .ldVer { g := none, size := .b32, d := .v 8, a := rs 4, off := off 0, sm := rv 5 }, .stVer { stAt 0 with a := rv 5 },
    .sealVer (rv 4) (off 0), .sealVer (rs 4) (.vec 4 false), .ldRag { g := none, size := .b32, pol := .l1, d := .v 8, a := rv 4, row := off 0, sh := 1, one := false }, .ldRag { g := none, size := .b32, pol := .l1, d := .v 8, a := rs 4, row := .none false, sh := 1, one := false },
    .atom { atomAt 0 with op := .add }, .atom { atomAt 0 with op := .cas, c := rs 8 }, .atom { atomAt 0 with op := .cas, c := rv 9 }, .atom { atomAt 0 with ty := .b64, op := .cas, c := rv 6 }, .atom { atomAt 0 with d := .s 8 }, .red { redAt 0 with ty := .b32, op := .exch }, .red { redAt 0 with ty := .f16 }, .redAddCf32 { g := none, a := rv 5, off := off 0, c := rv 8 },
    .lk { lkAt with t := some 0x1000001 }, .lk { lkAt with d := .v 9 }, .lktry lkAt, .lktry { lkAt with t := none, a := rv 4 }, .unlk (rv 4), .arriveN (.none false), .arriveNNw (.vec 4 false), .waitCtr 9 (rv 4) (rs 5) none, .post 9 (rs 4) (rv 5) (off 1), .dcnt none (rs 4) (.none false),
    .raLd { g := none, size := .b32, d := .v 8, a := rs 4, off := off 0, pn := noP }, .raLd { g := none, size := .b32, d := .v 8, a := rs 4, off := .vec 5 false, pn := noP }, .raSt { stAt 0 with off := .none false }, .raAtom { atomAt 0 with off := off 0 }, .raRed { redAt 0 with off := .sc 4 false, op := .cas },
    .rst none (rv 4) 8 (.sc 5 false), .rst none (rs 4) 8 (.none false), .hold 8 (.none false)] = true := by decide +kernel
/-- Rows 0xA_ to 0xD_ (R181 to R190, R290, R335). -/
theorem test_engine_and_control_checks_refuse : refused [
    .mres 1 (.lit 0x10000), .mma { mmaAt with desc := 7 }, .mma { mmaAt with bs := true }, .mma { mmaAt with one := true }, .mma { mmaAt with ninf := true }, .accLd { accAt false with sat := true }, .accLd { accAt false with ty := .i32 }, .accSt { accAt false with rnd := .rtz }, .accSt { accAt false with ty := .e4m3 },
    .accMovToVec { g := none, v := 8, reuse := false, tile := 3, j0 := 0, log2n := 6 }, .accMovToVec { g := none, v := 8, reuse := true, tile := 3, j0 := 0, log2n := 1 }, .accMovToTile { g := none, v := 8, reuse := false, tile := 3, j0 := 31, log2n := 1 }, .accMovToTile { g := none, v := 223, reuse := false, tile := 3, j0 := 0, log2n := 1 },
    .osmUpd { g := none, d := 9, sTile := 3, oEn := false, oTile := 0 }, .osmUpd { g := none, d := 8, sTile := 3, oEn := true, oTile := 3 }, .ragRdc { g := none, d := 8, a := 4, reuse := false, row0 := .lit 0, ty := .i32, op := .add, pn := { en := true, p := 1 }, seq := false, one := false, sh := 1 },
    .ragRdc { g := none, d := 8, a := 4, reuse := false, row0 := .lit 0, ty := .i32, op := .xor, pn := noP, seq := false, one := false, sh := 1 }, .cpGather { d := none, tl := 1, dst := 4, src := 5, desc := 7, dir := .g2w }, .cpGather { d := none, tl := 1, dst := 4, src := 5, desc := 8, dir := .w2g },
    .tlRdErr 9 1, .stepAdv 9 (some 0x2000000), .hcmd 1 6, .sysRd (.s 8) 0x07, .sysRd (.s 8) 0, .sysRd (.v 9) 0x20, .sysWr 0 8, .sysWr 0x38 8, .sysWr 0x61 8, .sysWr 0x71 8, .sysWr 0x80 8, .sysWr 0x99 8, .call (.v 31) 1, .ret (.v 29), .jmp (.v 5) 0] = true := by decide +kernel
/-- `mrel` ignores the literal's bits 31:16 (R295), and the deadline of `step.adv` has 25 bits (R326). -/
theorem test_literals_accepted : ([.mrel (.lit 0x10000), .stepAdv 9 (some 0x1FFFFFF)] : List Instr).all Instr.wf = true := by decide +kernel
/-- Selectors of events that name no unit of the device (R15, R18, R19). -/
theorem test_unit_checks_refuse : refused [
    .decrementArrival 512, .taskStart 512, .giveReply 512, .swapGroups 0 4, .pendingMove 512 0, .noticeArrival 1 512, .homeWriteMessage 4 0, .homeWriteMessage 0 4, .atomicService 128, .lockRelease 512, .walkComplete 512, .contributionSend 4, .hutchFupd 8, .hutchCksum 8,
    .requestTimeout 512, .probeSend 512, .flitCrcFail 0 8, .channelRetrained 512 0, .creditGrant 0 4] = true := by decide +kernel

/-! Words written out by the encoding tables. -/

/-- The instruction a list of words begins with, and its length. -/
def decoded (ws : List Word) : Option (Instr × Nat) := match decode ws with | .ok x => some x | .error _ => none
/-- A guard `!p2`. -/
def notP2 : Option Guard := some { neg := true, p := 2 }

/-- The words of 08_encoding_notes.md: short `add.f32`, `nop`, guarded `mul` with a literal, `fma`, `brk`. -/
theorem test_words_of_the_encoding_notes :
    decoded [0x0A090821] = some (.addF32Short { d := .v 8, a := .v 9, b := .v 10 }, 1) ∧ decoded [0x00000001] = some (.nop, 1) ∧
    decoded [0x0810680B, 0x00000023, 0x3F000000] = some (.mul { bin .f32 with g := notP2, a := rv 8, b := .lit 0x3F000000 }, 3) ∧
    decoded [0x0B100082, 0x00343023] = some (.fma { tri .f32 with d := .v 11, a := rv 8, b := ob 12, c := rv 13 }, 2) ∧
    decoded [0x00004B05, 0x00000001, 0x00000001] = some (.brk 3 0x12, 3) := by decide +kernel
/-- The `brd` of 09_insn_compute.md, and its −8 form. -/
theorem test_words_of_branches : decoded [0x00006B46, 0x00000013] = some (.brd notP2 4 none, 2) ∧ decoded [0x00006B46, 0xFFFFFFE3] = some (.brd notP2 (-8) none, 2) := by decide +kernel
/-- Rows 0x6_, 0x7_ and 0x8_: words by R234 with R240, R250, R254, R265 and R285. -/
theorem test_words_of_memory :
    decoded [0x04008182, 0x6000038B] = some (.ld { ldAt 0 with pol := .thru, d := .v 4, a := rs 2, off := .none false }, 2) ∧
    decoded [0x00004586, 0x6014038F] = some (.st { stAt 0 with g := p1, a := rs 3, off := .none false, c := rv 5 }, 2) ∧
    decoded [0x081001C2, 0x001C0C53] = some (.atom { atomAt 0 with ty := .f32, op := .add, d := .v 8, a := rv 20, off := .vec 3 false, c := rv 7 }, 2) ∧
    decoded [0xE60001CF, 0x60280393, 0x00001000] = some (.lk { d := .s 6, pd := { en := true, p := 2 }, a := rs 4, t := some 4096 }, 3) ∧
    decoded [0x000D01DA, 0x60000003] = some (.fence .rel .dev, 2) ∧ decoded [0x0000020E, 0x00A03397] = some (.rst none (rs 5) 40 (.vec 12 false), 2) := by decide +kernel
/-- Rows 0xA_ and 0xB_: words by R290 and R297. -/
theorem test_words_of_engines :
    decoded [0x0300028A, 0x03A39793] = some (.mma { mmaAt with desc := 8 }, 2) ∧ decoded [0x0302C68A, 0x23A39793] = some (.mma { mmaAt with g := p1, desc := 8, shape := some 1, one := true }, 2) ∧
    decoded [0xE90802C3, 0x03940393, 0x00001000] = some (.cp { d := some 9, tl := 2, dst := 4, src := 5, len := .lit 4096, dir := .g2w }, 3) := by decide +kernel
/-- Rows 0x1_, 0x3_, 0x4_ and 0x5_: words by R112, R113, R155, R163, R168, R173, R175 and R179. -/
theorem test_words_of_compute :
    decoded [0x08600042, 0x00281813] = some (.lut3 { g := none, tr := false, table := 0xC0, d := .v 8, a := rv 4, b := ob 6, c := rv 10 }, 2) ∧
    decoded [0x081400C2, 0x00100013] = some (.cvt (un .f16) .f32 0, 2) ∧ decoded [0x081400C2, 0x00500013] = none ∧
    decoded [0x010400D2, 0x004C1813] = some (.cmp { g := none, ty := .w32, part := .full, cond := .le, comb := .and, pd := 1, a := rv 4, b := ob 6 }, 2) ∧
    decoded [0x06284D0B, 0x00240017, 0x00000002] = some (.shflDn { shfl with g := some { neg := false, p := 3 }, d := .v 6, a := rv 5, b := .lit 2, pn := { en := true, p := 1 } }, 3) ∧
    decoded [0x0A10011E, 0x00040017] = some (.sort { un .f32 with d := .v 10, a := ob 5 } true, 2) ∧
    decoded [0x08280143, 0x00000003, 0xDEADBEEF] = some (.mov { un .b32 with a := .lit 0xDEADBEEF }, 3) := by decide +kernel
/-- Rows 0xC_ and 0xD_: words by R114, R119, R186, R290 and R335. -/
theorem test_words_of_control :
    decoded [0x00000306, 0x03900083] = some (.sysWr 0x20 4, 2) ∧ decoded [0x0000030A, 0x000048D3] = some (.trapCode 0x1234, 2) ∧
    decoded [0x1E00034E, 0x00000013] = some (.call (.v 30) 4, 2) ∧ decoded [0x0104075B, 0x00000F03, 0x000010FF] = some (.rgn { vmask := 0x10FF, smask := 0x0100000F, xmask := 1, pmask := 1 }, 3) := by decide +kernel
/-- Clause headers of 07_encoding.md, and one whose check nibble is wrong. -/
theorem test_header_checks :
    ([0xFF000044, 0x5FF00104, 0xEF100044, 0xAFF002C4, 0x1FF00010, 0x8FF000C4] : List Word).all (fun w => hdrCheck w == w.extractLsb' 28 4) = true ∧ hdrCheck 0x4FF00104 ≠ 4 ∧
    (hdrCount 0xAFF002C4, hdrClass 0xAFF002C4, hdrWait 0xAFF002C4, hdrSetA 0xEF100044, hdrSetB 0xEF100044) = (1, 3, 2, 1, 15) := by decide +kernel

/-! Results from the spec's tables (10_insn_compute_notes.md, R177, 03_execution.md). -/

/-- Vector cells (register, lane, value) set in the group of `base`. -/
def withV (xs : List (Nat × Nat × Nat)) : State := withGroup fun g => { g with v := xs.foldl (fun m x => Cells.put 0 m (32 * x.1 + x.2.1) (BitVec.ofNat 32 x.2.2)) g.v }
/-- A register at a lane after an instruction. -/
def after (i : Instr) (s : State) (r l : Nat) : Nat := match exec i s with | .next t => ((grp t 2).vFile r l).toNat | _ => 2 ^ 33
/-- The table of `bfe` for 0x8765_4321: rows stand in lanes 0 to 5. -/
def bfeRows : State := withV ((List.range 6).flatMap fun l => [(4, l, 0x87654321), (6, l, [24, 28, 31, 0, 4, 0xFFFFFFFC].getD l 0), (10, l, [8, 8, 0x80000000, 32, 0, 8].getD l 0)])
theorem test_bfe_table : (List.range 6).map (after (.bfe (tri .w32)) bfeRows 8) = [0x87, 0x8, 0x1, 0x87654321, 0, 0] ∧ (List.range 6).map (after (.bfe (tri .i32)) bfeRows 8) = [0xFFFFFF87, 0xFFFFFFF8, 0xFFFFFFFF, 0x87654321, 0, 0] := by decide +kernel
/-- The table of `bfi` for 0x0F55 into 0xAAAA_AAAA. -/
theorem test_bfi_table : (List.range 6).map (after (.bfi (tri .b32)) (withV ((List.range 6).flatMap fun l => [(4, l, 0xF55), (6, l, 0xAAAAAAAA), (10, l, [0x804, 0xFFFF0804, 0x81C, 0x10, 0x2020, 0x2000].getD l 0)])) 8) = [0xAAAAA55A, 0xAAAAA55A, 0x5AAAAAAA, 0xAAAAAAAA, 0xAAAAAAAA, 0xF55] := by decide +kernel
/-- 500.0, 1000000.0, +∞ and NaN in lanes 0 to 3. -/
def cvtRows : State := withV [(4, 0, 0x43FA0000), (4, 1, 0x49742400), (4, 2, 0x7F800000), (4, 3, 0x7FC00000)]
/-- The elements `cvt.D.f32` gives for them. -/
def cvtOf (ty : Ty) (sat : Bool) (n : Nat) : List Nat := (List.range 4).map fun l => after (.cvt { un ty with sat } .f32 0) cvtRows 8 l % 2 ^ n
theorem test_cvt_table : cvtOf .f16 false 16 = [0x5FD0, 0x7C00, 0x7C00, 0x7E00] ∧ cvtOf .bf16 false 16 = [0x43FA, 0x4974, 0x7F80, 0x7FC0] ∧ cvtOf .e4m3 false 8 = [0x7E, 0x7E, 0x7E, 0x7F] ∧ cvtOf .e5m2 false 8 = [0x60, 0x7C, 0x7C, 0x7E] ∧ cvtOf .e2m1 false 4 = [7, 7, 7, 0] ∧ cvtOf .i16 false 32 = [0x1F4, 0x7FFF, 0x7FFF, 0] := by decide +kernel
theorem test_cvt_sat_table : cvtOf .f16 true 16 = [0x5FD0, 0x7BFF, 0x7BFF, 0x7E00] ∧ cvtOf .bf16 true 16 = [0x43FA, 0x4974, 0x7F7F, 0x7FC0] ∧ cvtOf .e5m2 true 8 = [0x60, 0x7B, 0x7B, 0x7E] ∧
    [after (.cvt (un .i8) .i32 0), after (.cvt { un .i8 with sat := true } .i32 0)].map (fun f => [f (withV [(4, 0, 300)]) 8 0, f (withV [(4, 0, 2 ^ 32 - 200)]) 8 0]) = [[0x2C, 0x38], [0x7F, 0xFFFFFF80]] := by decide +kernel
/-- The keys of the `sort` example, with the split mask 0x0F0F. -/
def sortRows : State :=
  let s := withV ([(0, 0x40400000), (1, 0x80000000), (2, 0x7FC00001), (3, 0x40400000), (8, 0), (9, 0xFF800000), (10, 0xFFC00000), (11, 0x3F800000)].map fun e => (5, e.1, e.2))
  { s with dev := s.dev.modGroup 2 fun g => { g with splits := [(0, { firstSplit 0 0xF0F 7 0 with entry := none })] } }
theorem test_sort_table : ([false, true].map fun down => readyAnd (.sort { un .f32 with d := .v 10, a := ob 5 } down) none sortRows fun c =>
    (sortWrites { un .f32 with d := .v 10, a := ob 5 } down c).vs.map (fun e => (e.1, e.2.toNat)) == ((([0, 1, 2, 3, 8, 9, 10, 11].zip
      (if down then [(0x7FC00001, 2), (0xFFC00000, 10), (0x40400000, 0), (0x40400000, 3), (0x3F800000, 11), (0, 8), (0x80000000, 1), (0xFF800000, 9)]
       else [(0xFF800000, 9), (0x80000000, 1), (0, 8), (0x3F800000, 11), (0x40400000, 0), (0x40400000, 3), (0x7FC00001, 2), (0xFFC00000, 10)])).flatMap fun e => [(32 * 10 + e.1, e.2.1), (32 * 11 + e.1, e.2.2)]) : List (Nat × Nat))) = [true, true] := by decide +kernel
/-- The `shfl.dn` example: v5[L] = 100 + L, p3 = 0x4000_0055, p1 all ones. -/
def shflRows : State := let s := withV ((List.range 32).map fun l => (5, l, 100 + l)); { s with dev := s.dev.modGroup 2 fun g => { g with p := listSet (listSet g.p 1 0xFFFFFFFF) 3 0x40000055 } }
/-- Its instruction. -/
def shflDn2 : Instr := .shflDn { shfl with g := some { neg := false, p := 3 }, d := .v 6, a := rv 5, b := .lit 2, pn := { en := true, p := 1 } }
theorem test_shfl_dn_example : [0, 1, 4, 6, 30].map (after shflDn2 shflRows 6) = [102, 0, 106, 108, 130] ∧
    (match exec shflDn2 shflRows with | .next t => [0, 1, 4, 6, 30].map ((grp t 2).pred 1).getLsbD == [true, true, true, false, false] | _ => false) = true := by decide +kernel
/-- G(0, 0, lane) of R177 for lanes 0 and 1, worked from its four rounds. -/
theorem test_rnd_key_zero : [0, 1].map (fun l => (after (.rnd none false (.v 8) (rs 4) (.lit 0)) base 8 l, after (.rnd none false (.v 8) (rs 4) (.lit 0)) base 9 l)) = [(0x1C5152DA, 0xE95A7129), (0x10971997, 0x93312602)] := by decide +kernel
/-- `lut3` with the tables of `and`, `or`, `xor` and `not` (R155). -/
theorem test_lut3_tables : ([0xC0, 0xFC, 0x3C, 0x0F] : List (BitVec 8)).map (fun table => after (.lut3 { g := none, tr := false, table, d := .v 8, a := rv 4, b := ob 6, c := rv 10 }) (withV [(4, 0, 0xFF00FF00), (6, 0, 0xF0F0F0F0)]) 8 0) = [0xF000F000, 0xFFF0FFF0, 0x0FF00FF0, 0x00FF00FF] := by decide +kernel
/-- The handles of drawer 200 on core 327 at generation 5 (R43), and of drawer 64 at generation 0. -/
theorem test_handles : handleOf 327 200 5 = 0x05A3E400 ∧ handleOf 327 64 0 = 0x00A3A000 := by decide +kernel
/-- A cancel wins over a decrement of the same clock, and not over one of an earlier clock (R60). -/
theorem test_cancel_wins_in_its_clock : ([some base.dev.clock, some (base.dev.clock + 1), none].map fun readied => (Tbl.find (cancelTeam base.plat (base.dev.modGroup 2 fun g => { g with readied }) 1).groups 2).map (·.state)) = [some .halted, some .live, some .live] := by decide +kernel
/-- The digest of "abc" (FIPS 180-4, example B.1). -/
theorem test_sha256_abc : sha256 [0x61, 0x62, 0x63] = octets 32 0xba7816bf8f01cfea414140de5dae2223b00361a396177a9cb410ff61f20015ad := by decide +kernel
/-- The digest of no octets, and of the two-block message of example B.2. -/
theorem test_sha256_lengths : sha256 [] = octets 32 0xe3b0c44298fc1c149afbf4c8996fb92427ae41e4649b934ca495991b7852b855 ∧
    sha256 ((List.range 14).flatMap fun i => (List.range 4).map fun k => BitVec.ofNat 8 (0x61 + i + k)) = octets 32 0x248d6a61d20638b8e5c026930c3e6039a33ce45964ff2167f6ecedd419db06c1 := by decide +kernel
end Sys2Proof.Tests
end

/-! SUPPORT. The words of a short or long format and its fields determine each other (R110 to R113). -/

namespace Sys2Proof

/-! Concatenations of fields. -/

/-- Each part of a concatenation is determined by the whole. -/
theorem append_inj_iff {v w : Nat} {x x' : BitVec v} {y y' : BitVec w} : x ++ y = x' ++ y' ↔ x = x' ∧ y = y' := by
  refine ⟨fun h => ⟨?_, ?_⟩, fun ⟨hx, hy⟩ => hx ▸ hy ▸ rfl⟩
  · simpa only [BitVec.extractLsb'_append_eq_left] using congrArg (BitVec.extractLsb' w v) h
  · simpa only [BitVec.extractLsb'_append_eq_right] using congrArg (BitVec.extractLsb' 0 w) h
theorem bit1_inj {a b : Bool} : bit1 a = bit1 b ↔ a = b := BitVec.ofBool_eq_iff_eq
/-- A flag cut out of a word is a field of one bit, so that it joins with its neighbours as other fields do. -/
theorem bit1_getLsbD {n : Nat} (w : BitVec n) (i : Nat) : bit1 (w.getLsbD i) = w.extractLsb' i 1 := by
  ext j hj
  obtain rfl : j = 0 := by omega
  simp [bit1]

/-! The format bits of the words (R110). -/

/-- Bits 1:0 of word 0 of a long format. -/
def longMark (lit : Option Word) : BitVec 2 := if lit.isSome then 0b11#2 else 0b10#2
theorem Long.word0_mark (f : Long) : f.word0.extractLsb' 0 2 = longMark f.lit := by
  rw [Long.word0, BitVec.extractLsb'_append_eq_right, longMark]
theorem Long.word1_mark (f : Long) : f.word1.extractLsb' 0 2 = 0b11#2 := by
  rw [Long.word1, BitVec.extractLsb'_append_eq_right]

/-- The two bits that are no header, no short and no 64-bit format mark a literal. -/
theorem long_mark_of_ne {x : BitVec 2} (h0 : x.toNat ≠ 0) (h1 : x.toNat ≠ 1) (h2 : x.toNat ≠ 2) {l : Word} : x = longMark (some l) :=
  BitVec.eq_of_toNat_eq (show x.toNat = 3 by omega)

/-! Words to fields and back: no bit of a word is lost. -/

/-- The fields of a word with the short mark have that word. -/
theorem short_words {w : Word} (h : w.extractLsb' 0 2 = 0b01#2) :
    (Fields.short (w.extractLsb' 2 6) (w.extractLsb' 8 8) (w.extractLsb' 16 8) (w.extractLsb' 24 8)).words = [w] := by
  simp only [Fields.words, ← h, BitVec.extractLsb'_append_extractLsb'_eq_extractLsb']
  exact congrArg (· :: []) BitVec.extractLsb'_eq_self
theorem Long.word0_ofWords {w0 : Word} (w1 : Word) {lit : Option Word} (h : w0.extractLsb' 0 2 = longMark lit) : (Long.ofWords w0 w1 lit).word0 = w0 := by
  unfold Long.word0
  rw [show (if (Long.ofWords w0 w1 lit).lit.isSome then 0b11#2 else 0b10#2) = _ from h.symm]
  simp only [Long.ofWords, bit1_getLsbD, BitVec.extractLsb'_append_extractLsb'_eq_extractLsb']
  exact BitVec.extractLsb'_eq_self
theorem Long.word1_ofWords (w0 : Word) {w1 : Word} (lit : Option Word) (h : w1.extractLsb' 0 2 = 0b11#2) : (Long.ofWords w0 w1 lit).word1 = w1 := by
  simp only [Long.word1, Long.ofWords, ← h, bit1_getLsbD, BitVec.extractLsb'_append_extractLsb'_eq_extractLsb']
  exact BitVec.extractLsb'_eq_self
/-- The fields of words with the long marks have those words. -/
theorem long_words {w0 w1 : Word} {lit : Option Word} (h0 : w0.extractLsb' 0 2 = longMark lit) (h1 : w1.extractLsb' 0 2 = 0b11#2) :
    (Fields.long (Long.ofWords w0 w1 lit)).words = w0 :: w1 :: lit.toList := by
  rw [Fields.words, Long.word0_ofWords w1 h0, Long.word1_ofWords w0 lit h1, Long.ofWords]

/-- The words determine the fields of a long format. -/
theorem Long.eq_of_words {f g : Long} (h0 : f.word0 = g.word0) (h1 : f.word1 = g.word1) (hl : f.lit = g.lit) : f = g := by
  obtain ⟨hi0, -⟩ := (append_inj_iff (v := 8 + 1 + 1 + 4 + 3 + 5 + 8)).1 h0
  obtain ⟨hi1, -⟩ := (append_inj_iff (v := 3 + 1 + 1 + 1 + 8 + 8 + 8)).1 h1
  simp only [append_inj_iff, bit1_inj] at hi0 hi1
  cases f; cases g
  simp_all
theorem Long.ofWords_word0_word1 (f : Long) : Long.ofWords f.word0 f.word1 f.lit = f :=
  Long.eq_of_words (Long.word0_ofWords _ f.word0_mark) (Long.word1_ofWords _ _ f.word1_mark) rfl

/-! Lists of words. -/

/-- Fields read back from their own words, whatever words follow. -/
theorem Fields.ofWords_words_append (f : Fields) (rest : List Word) : Fields.ofWords (f.words ++ rest) = .ok f := by
  cases f with
  | short op d a b =>
    have hmark : (b ++ a ++ d ++ op ++ 0b01#2).extractLsb' 0 2 = 0b01#2 := BitVec.extractLsb'_append_eq_right
    have hparts := short_words hmark
    simp only [Fields.words, List.cons.injEq, and_true] at hparts
    obtain ⟨hparts, -⟩ := (append_inj_iff (v := 8 + 8 + 8 + 6)).1 hparts
    simp only [append_inj_iff] at hparts
    simp_all [Fields.words, Fields.ofWords]
  | long f =>
    have hmark0 := f.word0_mark
    have hmark1 := f.word1_mark
    have hparts := f.ofWords_word0_word1
    cases hl : f.lit <;> simp_all [Fields.words, Fields.ofWords, longMark]

/-- Words that have fields begin with the words of those fields. -/
theorem Fields.words_prefix_of_ofWords {ws : List Word} {f : Fields} (h : Fields.ofWords ws = .ok f) : f.words <+: ws := by
  obtain _ | ⟨w0, rest⟩ := ws
  · cases h
  unfold Fields.ofWords at h
  dsimp only at h
  split at h
  next => cases h
  next hmark =>
    cases h
    rw [short_words (BitVec.eq_of_toNat_eq hmark)]
    exact ⟨rest, rfl⟩
  next hmark =>
    obtain _ | ⟨w1, rest⟩ := rest
    · cases h
    dsimp only at h
    split at h
    · next hmark1 =>
      cases h
      rw [long_words (BitVec.eq_of_toNat_eq hmark) hmark1]
      exact ⟨rest, rfl⟩
    · cases h
  next h0 h1 h2 =>
    obtain _ | ⟨w1, _ | ⟨l, rest⟩⟩ := rest
    · cases h
    · cases h
    dsimp only at h
    split at h
    · next hmark1 =>
      cases h
      rw [long_words (long_mark_of_ne h0 h1 h2) hmark1]
      exact ⟨rest, rfl⟩
    · cases h

end Sys2Proof

/-! Decoding and encoding agree: what a list of words that decodes is, and the round trip in both directions (R2, R110 to R122, R134). -/

namespace Sys2Proof.Laws.FieldsReadBack
open Sys2Proof

/-- The constructors' lemmas together: each instruction of code that is well-formed is what its fields stand for. -/
theorem every_instr (i : Instr) : Statement i :=
  Instr.casesOn (motive := Statement) i
    nop brk addI32Short subI32Short andB32Short orB32Short xorB32Short movB32Short addF32Short mulF32Short shlB32Short shrB32Short haltShort retShort
    yieldShort add sub mul mulhi mad divstep min max abs neg addc subb lut3 shl shr sra rot popc clz bfe bfi brev bperm fma rcp rsq sqrt exp2 log2
    tanh cvt cvtPk bsPack bsUnpack cmp sel classOf shflIdx shflUp shflDn shflXor scan scanx rdc sort vote ballot rnd mov rdlane wrlane plog ptov vtop
    ld st ldSp stSp ldVer stVer sealVer ldRag atom red redAddCf32 lk lktry unlk fence bar barWait arriveN arriveNNw waitCtr post dcnt raLd raSt raAtom
    raRed rst hold nameGet nameFree mres mrel mma accLd accSt accZero accMovToVec accMovToTile osmUpd osmFin ragRdc ragNorm shLd shChk cp cpGather
    tlRd tlRdErr tlWait collPut collQuorum collClose collGet stepAdv stepRd hcmd take steal gwLaunch mig migNear sysRd sysWr trapCode bra brd
    mergeWait call ret jmp rgn xacq xrel halt yield pendingTrapTake trapActResume trapActSkip trapActHalt xltInv dbgIflush ctlLeadWrite sbMemWrite
    decrementArrival waitDeadline taskStart swapGroups pendingMove agedPendingSwap splitMerge deferralStep operationComplete storeSend storeAck
    groupExit migrationArrival noticeArrival homeWriteMessage atomicService lockRequest lockResend lockRelease lockDeadline versionStore slotFill
    versionSeal versionLoad stalenessTimeout collapsePage translationMiss walkComplete rewalk missTimeout fatalFault dumpSection cancelGraceExpiry
    cancelDiscarding teamPlace teamRestore displacementStart swapOut quantumExpiry ageLimitExpiry phaseStart graphSubmit conditionRead grabMessage
    rangeReply emptyPool stealMessage giveReply noneReply dryMessage rstArrival remoteRequest remoteResponse requestTimeout isolatedExpiry probeSend
    probeAnswer probeTimeout flitCrcFail channelRetrained sideboardSend sideboardReceipt silenceTimeout contributionSend contributionArrival
    closeTimerExpiry resultArrival collGetLost resend copyComplete hutchEnqueue hutchFupd hutchScale hutchFade hutchCopy hutchCksum mirrorSend
    mirrorArrival snapshotWrite fillPages admitJob hostWrite appendPhase cancelObject retireJob regRead regWrite identMessage attestMessage storeReply
    warmStart coldStart fwCommit monStart monStop monFreeze monClear hostPortsWrite remapWrite resmapWrite powerOn fuseDone signDone hbmDone bistDone
    fabricDone powerSample levelFall creditGrant noticeAcknowledgement probeReceipt identityRecordArrival holdCopyRead reservedHostMessage

end Sys2Proof.Laws.FieldsReadBack

namespace Sys2Proof

/-- When words decode: they have fields, the fields stand for an instruction, and it passes the checks and has these fields and no others (R122). -/
theorem decode_eq_ok_iff {ws : List Word} {i : Instr} {n : Nat} :
    decode ws = .ok (i, n) ↔ ∃ f, Fields.ofWords ws = .ok f ∧ Instr.ofFields f = some i ∧ i.fields = some f ∧ i.wf = true ∧ f.length i = n := by
  constructor
  · intro h
    unfold decode at h
    split at h
    next => cases h
    next f hwords =>
      split at h
      next => cases h
      next j hj =>
        by_cases hf : j.fields = some f
        · by_cases hw : j.wf = true
          · simp only [hf, hw, if_true, Except.ok.injEq, Prod.mk.injEq] at h
            obtain ⟨rfl, hn⟩ := h
            exact ⟨f, hwords, hj, hf, hw, hn⟩
          · simp [hf, hw] at h
        · simp [hf] at h
  · rintro ⟨f, hwords, hi, hf, hw, rfl⟩
    simp [decode, hwords, hi, hf, hw]

/-- An instruction takes the words of its fields, but for a `brk`, which takes its span (R134). -/
theorem Fields.length_eq_words_or_span (f : Fields) (i : Instr) : f.length i = f.words.length ∨ ∃ span tag, i = .brk span tag ∧ f.length i = span := by
  unfold Fields.length
  split
  next span tag => exact .inr ⟨span, tag, rfl, rfl⟩
  next => exact .inl rfl
  next g _ => exact .inl (by simp [Fields.words]; omega)

theorem encode_of_fields {i : Instr} {f : Fields} (hf : i.fields = some f) : encode i = f.words := by rw [encode, hf]

/-- A well-formed instruction of code decodes from its own words, whatever words follow. -/
theorem decode_encode_append {i : Instr} {f : Fields} (hf : i.fields = some f) (hw : i.wf = true) (rest : List Word) : decode (encode i ++ rest) = .ok (i, f.length i) := by
  rw [encode_of_fields hf]
  exact decode_eq_ok_iff.2 ⟨f, f.ofWords_words_append rest, Laws.FieldsReadBack.every_instr i f hf hw, hf, hw, rfl⟩

/-- Words that decode begin with the words of the instruction, which is a well-formed instruction of code. -/
theorem encode_prefix_of_decode {ws : List Word} {i : Instr} {n : Nat} (h : decode ws = .ok (i, n)) : i.isCode = true ∧ i.wf = true ∧ encode i <+: ws := by
  obtain ⟨f, hwords, -, hf, hw, -⟩ := decode_eq_ok_iff.1 h
  rw [encode_of_fields hf]
  exact ⟨Option.isSome_of_eq_some hf, hw, Fields.words_prefix_of_ofWords hwords⟩

/-- Settles O47: fields read back from their words and instructions from their fields, so that both directions go through the fields. -/
theorem decodeAndEncodeAgree : Obligations.decode_and_encode_agree := by
  unfold Obligations.decode_and_encode_agree
  refine ⟨fun i rest hcode hw => ?_, fun ws i n h => ?_⟩
  · obtain ⟨f, hf⟩ := Option.isSome_iff_exists.1 hcode
    refine ⟨f.length i, decode_encode_append hf hw rest, ?_⟩
    rw [encode_of_fields hf]
    exact f.length_eq_words_or_span i
  · obtain ⟨hcode, hw, hprefix⟩ := encode_prefix_of_decode h
    exact ⟨hcode, hw, List.isPrefixOf_iff_prefix.2 hprefix⟩

end Sys2Proof

/-! What a control transfer leaves of its group and its splits (R37, R38, R40, R185, R189). -/
namespace Sys2Proof.Machine
open Sys2Proof

/-! Splits of a group. -/

@[simp] theorem splitOf_modSplit_same (g : Group) (k : Nat) (f : Split → Split) : splitOf (modSplit g k f) k = (splitOf g k).map f := find_modify_same f g.splits k
theorem splitOf_modSplit_other (g : Group) {k j : Nat} (f : Split → Split) (h : j ≠ k) : splitOf (modSplit g k f) j = splitOf g j := find_modify_other f g.splits k j h
@[simp] theorem modSplit_deferrals (g : Group) (k : Nat) (f : Split → Split) : (modSplit g k f).deferrals = g.deferrals := rfl
@[simp] theorem closeRegion_deferrals (clock : Nat) (cl : Bool) (g : Group) (k : Nat) : (closeRegion clock cl g k).deferrals = g.deferrals := rfl
/-- Closing a region changes only the region of its split, and whether it goes. -/
theorem splitOf_closeRegion_same (clock : Nat) (cl : Bool) (g : Group) (k : Nat) : splitOf (closeRegion clock cl g k) k = (splitOf g k).map fun sp => { sp with region := wholeRegion clock g sp, gone := sp.gone || cl } :=
  splitOf_modSplit_same _ _ _
theorem splitOf_closeRegion_other (clock : Nat) (cl : Bool) (g : Group) {k j : Nat} (h : j ≠ k) : splitOf (closeRegion clock cl g k) j = splitOf g j := splitOf_modSplit_other _ _ h
@[simp] theorem keys_modify {α : Type} (f : α → α) (t : Tbl α) (k : Nat) : Tbl.keys (Tbl.modify f t k) = Tbl.keys t := by
  induction t with
  | nil => rfl
  | cons e t ih =>
    simp only [Tbl.keys, Tbl.modify] at ih ⊢
    split <;> simp [ih]
@[simp] theorem keys_modSplit (g : Group) (k : Nat) (f : Split → Split) : Tbl.keys (modSplit g k f).splits = Tbl.keys g.splits := keys_modify _ _ _
@[simp] theorem keys_closeRegion (clock : Nat) (cl : Bool) (g : Group) (k : Nat) : Tbl.keys (closeRegion clock cl g k).splits = Tbl.keys g.splits := keys_modify _ _ _
theorem keys_erase {α : Type} (t : Tbl α) (k : Nat) : Tbl.keys (Tbl.erase t k) = (Tbl.keys t).filter (· != k) := by
  induction t with
  | nil => rfl
  | cons e t ih =>
    simp only [Tbl.keys, Tbl.erase] at ih ⊢
    split
    · simp_all
    · simp only [List.map_cons, List.filter_cons]
      have : (e.1 != k) = true := by simp; omega
      simp [this, ih]
/-- A table in which a key is not found has no such key. -/
theorem mem_keys_of_find {α : Type} {t : Tbl α} {k : Nat} {v : α} (h : Tbl.find t k = some v) : k ∈ Tbl.keys t := List.mem_map.2 ⟨_, mem_of_find h, rfl⟩

/-- A group with fewer than four splits has a free split number below 4. -/
theorem freeSplit_free {g : Group} (h : splitCount g < 4) : splitOf g (freeSplit g) = none := by
  unfold freeSplit
  cases hf : [0, 1, 2, 3].find? fun k => (splitOf g k).isNone with
  | some k => simpa using List.find?_some hf
  | none =>
    rw [List.find?_eq_none] at hf
    have sub : [0, 1, 2, 3] ⊆ Tbl.keys g.splits := by
      intro k hk
      have hk := hf k hk
      obtain ⟨sp, hsp⟩ := Option.isSome_iff_exists.1 (by simpa [Option.isSome_iff_ne_none] using hk)
      exact mem_keys_of_find hsp
    have := (List.subperm_of_subset (by decide) sub).length_le
    simp only [Tbl.keys, List.length_map, List.length_cons, List.length_nil] at this
    simp only [splitCount] at h
    omega

/-! What a transfer leaves. -/

/-- What the notes of an issue change of the split that has issued: why it stands, and since when at a clause start. -/
def Split.noted (clock : Nat) (sp : Split) : Split := { sp with stall := none, waitSince := if sp.index = 0 then clock else sp.waitSince }
/-- What they change of its group: the split, and what R52 and R190 ask of the group. -/
def Group.noted (g : Group) (k clock last : Nat) (y : Option (Nat × List Nat)) : Group := { modSplit g k (Split.noted clock) with lastIssue := last, yielded := y }
/-- The notes of an issue change their group by `Group.noted`. -/
theorem find_noted (i : Instr) {d : Device} {gid k : Nat} {g : Group} (h : Tbl.find d.groups gid = some g) :
    ∃ last y, Tbl.find (noteIssue i (noteArrival d gid k) gid k).groups gid = some (g.noted k d.clock last y) := by
  let arrived (sp : Split) : Split := if sp.index = 0 then { sp with waitSince := d.clock } else sp
  have h1 : Tbl.find (noteArrival d gid k).groups gid = some (modSplit g k arrived) := by
    rw [noteArrival, find_modGroup_same, h]; rfl
  have twice : modSplit (modSplit g k arrived) k (fun sp => { sp with stall := none }) = modSplit g k (Split.noted d.clock) := by
    simp only [modSplit]
    congr 1
    refine modify_twice _ _ _ _ _ fun sp => ?_
    simp only [arrived, Split.noted]
    split <;> rfl
  simp only [noteIssue, h1, find_mapVals, find_modGroup_same, Option.map_some, twice]
  split <;> exact ⟨_, _, rfl⟩
/-- A transfer answers a next state in which its group is as the transfer placed it, but for the notes of the issue; registers and memory stay. -/
theorem completes_transfer {i : Instr} {gd : Option Guard} {s : State} {c : Ctx} {body : Ctx → Except Stop (Ctx → Done)} {F : Group → Group} (hr : ready i gd s = some c) (he : exec i s = runCode i gd s body)
    (h1 : closesFirst i = false) (h2 : closesEarly i = false) (h3 : isHeldEffect i = false) (hb : okDone c (body c) = some (.jump (c.d.modGroup c.gid F))) (hF : (F c.g).regs = c.g.regs) :
    Completes (exec i s) fun t => regsOf t.dev c.gid = regsOf s.dev c.gid ∧ t.dev.mem = s.dev.mem ∧ ∃ last y, Tbl.find t.dev.groups c.gid = some ((F c.g).noted c.k s.dev.clock last y) := by
  obtain ⟨f, hb, hf⟩ := okDone_spec hb
  obtain ⟨-, hd, hg, -, -⟩ := ready_ctx hr
  have hg' : Tbl.find (c.d.modGroup c.gid F).groups c.gid = some (F c.g) := by rw [find_modGroup_same, hd, hg]; rfl
  refine ⟨_, he.trans (runCode_ok hr h1 h2 (.inl h3) hb), ?_, ?_, ?_⟩
  · simp only [hf, retire, regsOf_noteIssue, regsOf_noteArrival, hd]
    simp only [hd] at hg'
    rw [regsOf, hg', regsOf, hg]
    exact congrArg some hF
  · have hrest : (retire i c (f c)).rest = s.dev.rest := by rw [hf, retire, rest_noteIssue, rest_noteArrival, rest_modGroup, hd]
    exact show (retire i c (f c)).rest.mem = s.dev.rest.mem from congrArg _ hrest
  · rw [hf, ← hd]
    exact find_noted (k := c.k) i hg'

/-! What the notes of an issue do not change. -/

@[simp] theorem noted_deferrals (g : Group) (k clock last : Nat) (y : Option (Nat × List Nat)) : (g.noted k clock last y).deferrals = g.deferrals := rfl
@[simp] theorem keys_noted (g : Group) (k clock last : Nat) (y : Option (Nat × List Nat)) : Tbl.keys (g.noted k clock last y).splits = Tbl.keys g.splits := keys_modSplit _ _ _
/-- A split after the notes of an issue. -/
theorem splitOf_noted (g : Group) (k clock last j : Nat) (y : Option (Nat × List Nat)) : splitOf (g.noted k clock last y) j = (splitOf g j).map fun sp => if j = k then sp.noted clock else sp := by
  by_cases hj : j = k
  · subst hj
    exact (splitOf_modSplit_same g j _).trans (by simp)
  · exact (splitOf_modSplit_other g _ hj).trans (by simp [hj])

/-! Where a split stands, with which lanes and merge points. -/

/-- Where a split stands and with which lanes and merge points. -/
def Split.seat (sp : Split) : DWord × Nat × Mask × List DWord := (sp.pc, sp.index, sp.mask, sp.merges)
/-- The seat of a split of a group. -/
def Group.seat (g : Group) (k : Nat) : Option (DWord × Nat × Mask × List DWord) := (splitOf g k).map Split.seat
@[simp] theorem seat_noted (g : Group) (k clock last j : Nat) (y : Option (Nat × List Nat)) : (g.noted k clock last y).seat j = g.seat j := by
  rw [Group.seat, splitOf_noted, Option.map_map, Group.seat]
  congr 1
  funext sp
  simp only [Function.comp_apply]
  split <;> rfl
@[simp] theorem seat_closeRegion (clock : Nat) (cl : Bool) (g : Group) (k j : Nat) : (closeRegion clock cl g k).seat j = g.seat j := by
  by_cases hj : j = k
  · subst hj
    rw [Group.seat, splitOf_closeRegion_same, Option.map_map]
    rfl
  · rw [Group.seat, splitOf_closeRegion_other _ _ _ hj, Group.seat]
theorem seat_modSplit_same {g : Group} {k : Nat} {f : Split → Split} {sp : Split} (h : splitOf g k = some sp) : (modSplit g k f).seat k = some (f sp).seat := by
  rw [Group.seat, splitOf_modSplit_same, h]; rfl
theorem seat_modSplit_other (g : Group) {k j : Nat} (f : Split → Split) (h : j ≠ k) : (modSplit g k f).seat j = g.seat j := by
  rw [Group.seat, splitOf_modSplit_other _ _ h, Group.seat]

/-! Dividing and deferring (R37, R38). -/

/-- A division that has a number free leaves the split with the rest of its lanes where `parent` puts it, and makes one with the lanes that divide off at its target. -/
theorem divide_seats {clock : Nat} {cl : Bool} {g : Group} {k : Nat} {t : Mask} {target : DWord} {merges : List DWord} {parent : Split → Split} {sp : Split} (hk : splitOf g k = some sp) (h4 : splitCount g < 4) :
    (divide clock cl g k t target merges parent).seat k = some { parent { sp with merges } with mask := sp.mask &&& ~~~t }.seat ∧
    (divide clock cl g k t target merges parent).seat (freeSplit g) = some (target, 0, t, merges) := by
  have hne : k ≠ freeSplit g := fun h => by rw [h, freeSplit_free h4] at hk; cases hk
  simp only [divide, hk]
  constructor
  · rw [seat_modSplit_other _ _ hne, Group.seat, splitOf, find_set_other _ _ _ _ hne]
    exact (seat_closeRegion clock cl _ k k).trans (seat_modSplit_same hk)
  · have hn : splitOf { closeRegion clock cl (modSplit g k fun sp => { parent { sp with merges } with mask := sp.mask &&& ~~~t }) k with splits := Tbl.set (closeRegion clock cl (modSplit g k fun sp => { parent { sp with merges } with mask := sp.mask &&& ~~~t }) k).splits (freeSplit g) { gotoClause sp target .branch with mask := t, merges, bypass := [], noMatch := false, waitOver := false, stall := none, waitSince := clock } } (freeSplit g) = some _ := find_set_same _ _ _
    exact seat_modSplit_same hn
/-- Splits, operations and deferrals are no registers. -/
theorem regs_setSplits (g : Group) (sps : Tbl Split) (os : List Op) : ({ g with splits := sps, ops := os } : Group).regs = g.regs := rfl
theorem regs_setDeferrals (g : Group) (es : List Deferral) : ({ g with deferrals := es } : Group).regs = g.regs := rfl
theorem divide_regs (clock : Nat) (cl : Bool) (g : Group) (k : Nat) (t : Mask) (target : DWord) (merges : List DWord) (parent : Split → Split) : (divide clock cl g k t target merges parent).regs = g.regs := by
  simp only [divide]
  split
  · rfl
  · rw [modSplit_regs, regs_setSplits, closeRegion_regs, modSplit_regs]

/-! Ending, and going on with a deferral (R38, R189). -/

@[simp] theorem endSplit_regs (clock : Nat) (g : Group) (k : Nat) : (endSplit clock g k).regs = g.regs := by
  rw [endSplit, regs_setSplits, closeRegion_regs]
@[simp] theorem keys_endSplit (clock : Nat) (g : Group) (k : Nat) : Tbl.keys (endSplit clock g k).splits = (Tbl.keys g.splits).filter (· != k) := by
  rw [endSplit, keys_erase, keys_closeRegion]
/-- A split without lanes and without a deferral leaves its group. -/
theorem deferralApply_end {clock : Nat} {cl : Bool} {k n : Nat} {g : Group} {sp : Split} (hk : splitOf g k = some sp) (ht : topDeferral g k = none) : deferralApply clock cl k (n + 1) g = endSplit clock g k := by
  simp only [deferralApply, hk, ht]
/-- A split at its first arrival goes on with the deferred lanes; its own are set aside. -/
theorem deferralApply_first {clock : Nat} {cl : Bool} {k n : Nat} {g : Group} {sp : Split} {e : Deferral} (hk : splitOf g k = some sp) (ht : topDeferral g k = some e) (h2 : e.second = false) :
    (deferralApply clock cl k (n + 1) g).seat k = some (e.resumePc, 0, e.resumeMask, sp.merges) ∧
    (deferralApply clock cl k (n + 1) g).deferrals = putDeferral g.deferrals k (some { e with parked := sp.mask, second := true }) ∧ (deferralApply clock cl k (n + 1) g).regs = g.regs := by
  have hc := (splitOf_closeRegion_same clock cl g k).trans (congrArg _ hk)
  simp only [deferralApply, hk, ht, h2, Bool.false_eq_true, if_false]
  exact ⟨(seat_modSplit_same (g := { closeRegion clock cl g k with deferrals := _ }) hc).trans rfl, rfl, by rw [modSplit_regs, regs_setDeferrals, closeRegion_regs]⟩
/-- A split at its second arrival goes on with all its lanes, from the merge point where it has none of its own. -/
theorem deferralApply_second {clock : Nat} {cl : Bool} {k n : Nat} {g : Group} {sp : Split} {e : Deferral} (hk : splitOf g k = some sp) (ht : topDeferral g k = some e) (h2 : e.second = true) (hm : sp.mask ||| e.parked ≠ 0) :
    (deferralApply clock cl k (n + 1) g).seat k = some (if sp.mask = 0 then (e.merge, 0, sp.mask ||| e.parked, sp.merges) else (sp.pc, sp.index, sp.mask ||| e.parked, sp.merges)) ∧
    (deferralApply clock cl k (n + 1) g).deferrals = putDeferral g.deferrals k none ∧ (deferralApply clock cl k (n + 1) g).regs = g.regs := by
  have hc := (splitOf_closeRegion_same clock cl g k).trans (congrArg _ hk)
  simp only [deferralApply, hk, ht, h2, if_true, if_neg hm]
  refine ⟨(seat_modSplit_same (g := { closeRegion clock cl g k with deferrals := _ }) hc).trans ?_, rfl, by rw [modSplit_regs, regs_setDeferrals, closeRegion_regs]⟩
  split <;> rfl

/-! How the statements read. -/

/-- Places, lanes and merge points as a claim lists them. -/
theorem bind_seat {d : Device} {gid k : Nat} {g : Group} (h : Tbl.find d.groups gid = some g) : ((Tbl.find d.groups gid).bind fun x => splitOf x k).map (fun sp => (sp.pc, sp.index, sp.mask, sp.merges)) = g.seat k := by
  rw [h]; rfl
theorem bind_seat3 {d : Device} {gid k : Nat} {g : Group} (h : Tbl.find d.groups gid = some g) : ((Tbl.find d.groups gid).bind fun x => splitOf x k).map (fun sp => (sp.pc, sp.index, sp.mask)) = (g.seat k).map fun x => (x.1, x.2.1, x.2.2.1) := by
  rw [h, Group.seat, Option.map_map]; rfl
/-- A completion with less to say. -/
theorem Completes.mono {o : Host.Outcome State Fault Refusal} {p q : State → Prop} (h : Completes o p) (hpq : ∀ t, p t → q t) : Completes o q := by
  obtain ⟨t, ho, hp⟩ := h
  exact ⟨t, ho, hpq t hp⟩

end Sys2Proof.Machine

namespace Sys2Proof
open Machine

/-! `brd` and `merge` (R37, R38, R182, R185). -/

theorem brdBody_none {off : BitVec 30} {m : Option Word} {c : Ctx} (h : c.lanes = 0) : okDone c (brdBody off m c) = some (.act c.d RegWrites.none false 0) := by
  simp only [brdBody, if_pos h, okDone]
theorem brdBody_all {off : BitVec 30} {m : Option Word} {c : Ctx} (h : c.lanes ≠ 0) (ha : c.lanes = c.sp.mask) : okDone c (brdBody off m c) = some (jumpTo c (branchTarget c.sp off)) := by
  simp only [brdBody, if_neg h, if_pos ha, okDone]
theorem brdBody_divides {off : BitVec 30} {m : Option Word} {c : Ctx} (h : c.lanes ≠ 0) (ha : c.lanes ≠ c.sp.mask) (h4 : splitCount c.g < 4) (h8 : c.sp.merges.length < 8) :
    okDone c (brdBody off m c) = some (.jump (c.d.modGroup c.gid fun g => divide c.d.clock (closing c.d g) g c.k c.lanes (branchTarget c.sp off) (c.sp.merges ++ [mergePoint c.sp off m]) fun sp => { gotoClause sp (nextClause sp) .fallThrough with noMatch := false, waitOver := false })) := by
  simp only [brdBody, if_neg h, if_neg ha, if_pos h4, if_neg (Nat.not_le.2 h8), okDone]
theorem brdBody_defers {off : BitVec 30} {m : Option Word} {c : Ctx} (h : c.lanes ≠ 0) (ha : c.lanes ≠ c.sp.mask) (h4 : 4 ≤ splitCount c.g) (h16 : c.g.deferrals.length < 16) :
    okDone c (brdBody off m c) = some (defer c (branchTarget c.sp off) (mergePoint c.sp off m)) := by
  simp only [brdBody, if_neg h, if_neg ha, if_neg (Nat.not_lt.2 h4), if_neg (Nat.not_le.2 h16), okDone]

/-- `brd` in which every lane takes the branch places the split at the target. -/
theorem brd_all_jumps {g : Option Guard} {off : BitVec 30} {m : Option Word} {s : State} {c : Ctx} (hr : ready (.brd g off m) g s = some c) (h : c.lanes ≠ 0) (ha : c.lanes = c.sp.mask) :
    Completes (exec (.brd g off m) s) (Jumped s c (branchTarget c.sp off)) := by
  obtain ⟨-, hd, hg, hk, -⟩ := ready_ctx hr
  obtain ⟨f, hb, hf⟩ := okDone_spec (brdBody_all (off := off) (m := m) h ha)
  refine ⟨_, (show exec (.brd g off m) s = _ from rfl).trans (runCode_ok hr rfl rfl (.inl rfl) hb), ?_⟩
  rw [hf]
  refine retire_jump hd (fun _ => rfl) ?_
  rw [hg]
  simp only [splitOf] at hk
  simp [Group.stands, splitOf, modSplit, hk, gotoClause]

/-- Settles O19: each outcome of `brd` is one branch of its body, and the seats of the splits follow from the division or the deferral. -/
theorem divergentBranchesAndMergesComplete : Obligations.divergent_branches_and_merges_complete := by
  unfold Obligations.divergent_branches_and_merges_complete
  refine ⟨fun g off m s c hr h => ?_, fun g off m s c hr h ha => brd_all_jumps hr h ha, fun g off m s c hr h ha h4 h8 => ?_, fun g off m s c hr h ha h4 h16 => ?_, fun s c hr => ?_⟩
  · obtain ⟨-, hd, -⟩ := ready_ctx hr
    have hb := brdBody_none (off := off) (m := m) h
    rw [hd] at hb
    exact completes_act hr rfl rfl rfl (.inl rfl) hb (ready_stays hr)
  · obtain ⟨-, -, -, hk, -⟩ := ready_ctx hr
    refine (completes_transfer hr rfl rfl rfl rfl (brdBody_divides h ha h4 h8) (divide_regs _ _ _ _ _ _ _ _)).mono ?_
    rintro t ⟨hregs, hmem, last, y, ht⟩
    obtain ⟨h1, h2⟩ := divide_seats (clock := c.d.clock) (cl := closing c.d c.g) (t := c.lanes) (target := branchTarget c.sp off) (merges := c.sp.merges ++ [mergePoint c.sp off m]) (parent := fun sp => { gotoClause sp (nextClause sp) .fallThrough with noMatch := false, waitOver := false }) hk h4
    refine ⟨hregs, hmem, ?_, ?_⟩
    · rw [bind_seat ht, seat_noted, h1]
      rfl
    · rw [bind_seat ht, seat_noted, h2]
  · obtain ⟨-, -, -, hk, -⟩ := ready_ctx hr
    refine (completes_transfer hr rfl rfl rfl rfl (brdBody_defers h ha h4 h16) (by rw [closeRegion_regs, modSplit_regs, regs_setDeferrals])).mono ?_
    rintro t ⟨hregs, hmem, last, y, ht⟩
    refine ⟨hregs, hmem, ?_, ?_⟩
    · rw [bind_seat ht, seat_noted, seat_closeRegion]
      exact seat_modSplit_same hk
    · rw [ht]; rfl
  · obtain ⟨-, hd, hg, hk, -⟩ := ready_ctx hr
    let placed (g : Group) : Group := modSplit g c.k fun sp => { gotoClause sp (nextClause sp) .fallThrough with mergeWait := decide (1 < (liveSplits c.g).length), noMatch := false, waitOver := false }
    have hs : splitOf (placed c.g) c.k = some _ := (splitOf_modSplit_same _ _ _).trans (congrArg _ hk)
    refine ⟨_, (show exec .mergeWait s = _ from rfl).trans (runCode_ok hr rfl rfl (.inl rfl) rfl), retire_jump (f := placed) hd (fun _ => rfl) ?_, ?_⟩
    · rw [hg, Option.map_some, Group.stands, hs]
      rfl
    · have hg' : Tbl.find (c.d.modGroup c.gid placed).groups c.gid = some (placed c.g) := by rw [find_modGroup_same, hd, hg]; rfl
      obtain ⟨last, y, ht⟩ := find_noted (k := c.k) .mergeWait hg'
      rw [show retire .mergeWait c (mergeDone c) = noteIssue .mergeWait (noteArrival (c.d.modGroup c.gid placed) c.gid c.k) c.gid c.k from rfl, ht, Option.bind_some, splitOf_noted, hs]
      simp [Split.noted, gotoClause]

/-! `halt` (R38, R189). -/

/-- `halt` of no lane. -/
theorem haltDone_none {c : Ctx} (h : c.lanes = 0) : haltDone c = .act c.d RegWrites.none false 0 := by simp only [haltDone, if_pos h]
/-- The group after a `halt` of some lanes, of which the rest goes on. -/
def haltedSome (c : Ctx) (g : Group) : Group := closeRegion c.d.clock (closing c.d g) (modSplit g c.k fun sp => { gotoClause { sp with mask := c.sp.mask &&& ~~~c.lanes } (nextClause sp) .fallThrough with noMatch := false, waitOver := false }) c.k
theorem haltDone_some {c : Ctx} (h : c.lanes ≠ 0) (hl : c.sp.mask &&& ~~~c.lanes ≠ 0) : haltDone c = .jump (c.d.modGroup c.gid (haltedSome c)) := by simp only [haltDone, if_neg h, if_pos hl]; rfl
/-- The group after a `halt` of all lanes of a split. -/
def haltedAll (c : Ctx) (g : Group) : Group := deferralApply c.d.clock (closing c.d g) c.k 17 (modSplit g c.k fun sp => { sp with mask := 0 })
theorem haltDone_all {c : Ctx} (h : c.lanes ≠ 0) (hl : c.sp.mask &&& ~~~c.lanes = 0) : haltDone c = .jump (c.d.modGroup c.gid (haltedAll c)) := by simp only [haltDone, if_neg h, hl, ne_eq, not_true_eq_false, if_false]; rfl

/-- Both forms of `halt` run `haltDone`. -/
theorem exec_halt {i : Instr} {g : Option Guard} (h : (∃ q, i = .halt q ∧ g = q) ∨ (i = .haltShort ∧ g = none)) :
    (∀ s, exec i s = runCode i g s fun _ => .ok haltDone) ∧ closesFirst i = false ∧ closesEarly i = false ∧ isHeldEffect i = false := by
  obtain ⟨q, rfl, rfl⟩ | ⟨rfl, rfl⟩ := h <;> exact ⟨fun _ => rfl, rfl, rfl, rfl⟩

/-- Settles O21: the three branches of `halt`, the last of them by what a step of R38 makes of a split without lanes. -/
theorem haltCompletes : Obligations.halt_completes := by
  unfold Obligations.halt_completes
  intro i g s c hi hr
  obtain ⟨he, h1, h2, h3⟩ := exec_halt hi
  obtain ⟨-, hd, -, hk, -⟩ := ready_ctx hr
  have emptied : splitOf (modSplit c.g c.k fun sp => { sp with mask := 0 }) c.k = some { c.sp with mask := 0 } := (splitOf_modSplit_same _ _ _).trans (congrArg _ hk)
  have transfers {F : Group → Group} (hdone : haltDone c = .jump (c.d.modGroup c.gid F)) (hF : (F c.g).regs = c.g.regs) := completes_transfer hr (he s) h1 h2 h3 (congrArg some hdone) hF
  have goesOn {pc : DWord} {m : Mask} {es : List Deferral} (h : c.lanes ≠ 0) (hl : c.sp.mask &&& ~~~c.lanes = 0) (hseat : (haltedAll c c.g).seat c.k = some (pc, 0, m, c.sp.merges)) (hdef : (haltedAll c c.g).deferrals = es) (hF : (haltedAll c c.g).regs = c.g.regs) :
      Completes (exec i s) fun t => regsOf t.dev c.gid = regsOf s.dev c.gid ∧ t.dev.mem = s.dev.mem ∧
        ((Tbl.find t.dev.groups c.gid).bind fun x => splitOf x c.k).map (fun sp => (sp.pc, sp.index, sp.mask)) = some (pc, 0, m) ∧ (Tbl.find t.dev.groups c.gid).map (·.deferrals) = some es := by
    refine (transfers (haltDone_all h hl) hF).mono ?_
    rintro t ⟨hregs, hmem, last, y, ht⟩
    refine ⟨hregs, hmem, ?_, ?_⟩
    · rw [bind_seat3 ht, seat_noted, hseat]
      rfl
    · rw [ht]
      exact congrArg some hdef
  refine ⟨fun h => ?_, fun h hl => ?_, fun h hl hn => ?_, fun e h hl htop => ⟨fun h2 => ?_, fun h2 hp => ?_⟩⟩
  · have hb : okDone c (.ok haltDone) = some (.act s.dev RegWrites.none false 0) := by rw [okDone, haltDone_none h, hd]
    exact completes_act hr (he s) h1 h2 (.inl h3) hb (ready_stays hr)
  · refine (transfers (haltDone_some h hl) ((closeRegion_regs _ _ _ _).trans (modSplit_regs _ _ _))).mono ?_
    rintro t ⟨hregs, hmem, last, y, ht⟩
    refine ⟨hregs, hmem, ?_⟩
    rw [bind_seat3 ht, seat_noted, haltedSome, seat_closeRegion, seat_modSplit_same hk]
    rfl
  · have hend : haltedAll c c.g = endSplit c.d.clock _ c.k := deferralApply_end emptied hn
    refine (transfers (haltDone_all h hl) (by rw [hend, endSplit_regs, modSplit_regs])).mono ?_
    rintro t ⟨hregs, hmem, last, y, ht⟩
    refine ⟨hregs, hmem, ?_⟩
    rw [ht, Option.map_some, keys_noted, hend, keys_endSplit, keys_modSplit]
  · obtain ⟨hseat, hdef, hF⟩ := deferralApply_first (clock := c.d.clock) (cl := closing c.d c.g) (n := 16) emptied htop h2
    exact goesOn h hl hseat hdef hF
  · have hz : (0 : Mask) ||| e.parked = e.parked := BitVec.zero_or
    obtain ⟨hseat, hdef, hF⟩ := deferralApply_second (clock := c.d.clock) (cl := closing c.d c.g) (n := 16) emptied htop h2 (hz.symm ▸ hp)
    exact goesOn h hl (hseat.trans (by rw [if_pos rfl, hz])) hdef hF

end Sys2Proof

/-! The checks that raise exceptions: the lane that decides (R237), window bounds (R204), and the checks of single instructions (R271, R296, R327, R335). -/
namespace Sys2Proof.Machine
open Sys2Proof

/-! Instructions whose own checks stop them. -/

/-- An instruction whose checks raise an exception, which is taken. -/
theorem raises_of {i : Instr} {gd : Option Guard} {s : State} {c : Ctx} {body : Ctx → Except Stop (Ctx → Done)} {e : Exc} (hr : ready i gd s = some c) (he : exec i s = runCode i gd s body) (hc : closesEarly i = false) (hb : body c = .error (.raise e)) :
    exec i s = .next { s with dev := takeException s.plat s.dev c.gid c.site e } := by
  obtain ⟨hP, hd, -⟩ := ready_ctx hr
  rw [he, runCode_error hr hc hb, ← hP, ← hd]
  rfl
/-- An instruction whose checks meet a page that is not mapped: its miss goes out, and it stalls. -/
theorem misses_of {i : Instr} {gd : Option Guard} {s : State} {c : Ctx} {body : Ctx → Except Stop (Ctx → Done)} {lane : Option Nat} {va : DWord} {acc : Access} (hr : ready i gd s = some c) (he : exec i s = runCode i gd s body) (hc : closesEarly i = false) (hb : body c = .error (.miss lane va acc)) :
    exec i s = .next { s with dev := markStall (sendMiss s.dev c.g c.site (1 + c.site.index) lane va acc) c.gid c.k .other } := by
  obtain ⟨-, hd, -⟩ := ready_ctx hr
  rw [he, runCode_error hr hc hb, ← hd]
  rfl

/-! The lane that decides (R237). -/

/-- A check of a page's attributes alone. -/
def attrCheck (ok : Leaf → Bool) (l : Leaf) : Option ExcCode := if ok l then none else some .pageAttribute
theorem notVersioned_eq : notVersioned = attrCheck fun l => !l.ver := by
  funext l
  cases h : l.ver <;> simp [notVersioned, attrCheck, h]
theorem mustVersioned_eq : mustVersioned = attrCheck fun l => l.ver := rfl
theorem attrCheck_true : (fun _ => none) = attrCheck fun _ => true := rfl

/-- A lane's address passes the address and alignment checks, and its translation ends in `x`. -/
def Ctx.reaches (c : Ctx) (acc : Access) (n : Nat) (va : DWord) (x : Xl) : Prop := va.toNat < 2 ^ 48 ∧ va.toNat % n = 0 ∧ xlat c.d c.g acc va = x
/-- A lane's access passes every check. -/
def Ctx.lanePasses (c : Ctx) (acc : Access) (n : Nat) (ok : Leaf → Bool) (va : DWord) : Prop := ∃ l pa, c.reaches acc n va (.ok l pa) ∧ ok l = true
/-- A lane's access fails a check, with the code of the first that it fails. -/
def Ctx.laneFails (c : Ctx) (acc : Access) (n : Nat) (ok : Leaf → Bool) (va : DWord) (e : ExcCode) : Prop :=
  (2 ^ 48 ≤ va.toNat ∧ e = .address) ∨ (va.toNat < 2 ^ 48 ∧ va.toNat % n ≠ 0 ∧ e = .alignment) ∨ c.reaches acc n va (.fault e) ∨ (e = .pageAttribute ∧ ∃ l pa, c.reaches acc n va (.ok l pa) ∧ ok l = false)

section
variable {c : Ctx} {acc : Access} {n : Nat} {ok : Leaf → Bool} {lane : Nat} {va : DWord}

/-- A lane that gets to its translation is answered by it: one whose page is not mapped misses. -/
theorem placeLane_misses (h : c.reaches acc n va .miss) : placeLane c acc n (attrCheck ok) lane va = .error (.miss (some lane) va acc) := by
  obtain ⟨h1, h2, hx⟩ := h
  simp only [placeLane, if_neg (not_not_intro (Nat.div_eq_of_lt h1)), if_neg (not_not_intro h2), hx]
theorem placeLane_faults {e : ExcCode} (h : c.reaches acc n va (.fault e)) : placeLane c acc n (attrCheck ok) lane va = .error (.raise (Exc.at_ e lane va)) := by
  obtain ⟨h1, h2, hx⟩ := h
  simp only [placeLane, if_neg (not_not_intro (Nat.div_eq_of_lt h1)), if_neg (not_not_intro h2), hx]
theorem placeLane_mapped {l : Leaf} {pa : Nat} (h : c.reaches acc n va (.ok l pa)) : placeLane c acc n (attrCheck ok) lane va = if ok l then .ok { lane, va, leaf := l, pa } else .error (.raise (Exc.at_ .pageAttribute lane va)) := by
  obtain ⟨h1, h2, hx⟩ := h
  simp only [placeLane, if_neg (not_not_intro (Nat.div_eq_of_lt h1)), if_neg (not_not_intro h2), hx, attrCheck]
  cases ok l <;> rfl
theorem placeLane_passes (h : c.lanePasses acc n ok va) : ∃ p, placeLane c acc n (attrCheck ok) lane va = .ok p := by
  obtain ⟨l, pa, h, hok⟩ := h
  exact ⟨_, (placeLane_mapped h).trans (if_pos hok)⟩
theorem placeLane_fails {e : ExcCode} (h : c.laneFails acc n ok va e) : placeLane c acc n (attrCheck ok) lane va = .error (.raise (Exc.at_ e lane va)) := by
  obtain ⟨h1, rfl⟩ | ⟨h1, h2, rfl⟩ | h | ⟨rfl, l, pa, h, hok⟩ := h
  · rw [placeLane, if_pos (Nat.div_pos h1 (by decide)).ne']
  · rw [placeLane, if_neg (not_not_intro (Nat.div_eq_of_lt h1)), if_pos h2]
  · exact placeLane_faults h
  · exact (placeLane_mapped h).trans (if_neg (Bool.not_eq_true _ ▸ hok))
end

/-- Among lanes in order, the first that fails decides. -/
theorem placeLanes_first {c : Ctx} {acc : Access} {n : Nat} {own : Leaf → Option ExcCode} {x : Nat × DWord} {post : List (Nat × DWord)} {e : Stop} (hx : placeLane c acc n own x.1 x.2 = .error e) :
    ∀ {pre : List (Nat × DWord)}, (∀ y ∈ pre, ∃ p, placeLane c acc n own y.1 y.2 = .ok p) → placeLanes c acc n own (pre ++ x :: post) = .error e := by
  intro pre
  induction pre with
  | nil => intro _; simp only [List.nil_append, placeLanes, hx]
  | cons y t ih =>
    intro h
    obtain ⟨p, hp⟩ := h y List.mem_cons_self
    simp only [List.cons_append, placeLanes, hp, ih fun z hz => h z (List.mem_cons_of_mem _ hz)]
/-- An access whose body stops where its lanes do: the first lane that fails decides, and one whose page is not mapped sends its miss. -/
theorem access_decided {i : Instr} {gd : Option Guard} {s : State} {c : Ctx} {body : Ctx → Except Stop (Ctx → Done)} {ls : List Nat} {acc : Access} {n : Nat} {ok : Leaf → Bool} {ea : Nat → DWord} (hr : ready i gd s = some c) (he : exec i s = runCode i gd s body) (hc : closesEarly i = false)
    (hb : ∀ e, placeLanes c acc n (attrCheck ok) (ls.map fun l => (l, ea l)) = .error e → body c = .error e) (pre : List Nat) (l : Nat) (post : List Nat) (hls : ls = pre ++ l :: post) (hpre : ∀ k ∈ pre, c.lanePasses acc n ok (ea k)) :
    (∀ e, c.laneFails acc n ok (ea l) e → exec i s = .next { s with dev := takeException s.plat s.dev c.gid c.site { code := e, lane := some l, info := ea l } }) ∧
    (c.reaches acc n (ea l) .miss → exec i s = .next { s with dev := markStall (sendMiss s.dev c.g c.site (1 + c.site.index) (some l) (ea l) acc) c.gid c.k .other }) := by
  have first {e : Stop} (hl : placeLane c acc n (attrCheck ok) l (ea l) = .error e) : body c = .error e := by
    refine hb e ?_
    rw [hls, List.map_append, List.map_cons]
    refine placeLanes_first hl fun y hy => ?_
    obtain ⟨k, hk, rfl⟩ := List.mem_map.1 hy
    exact placeLane_passes (hpre k hk)
  exact ⟨fun e hf => raises_of hr he hc (first (placeLane_fails hf)), fun hm => misses_of hr he hc (first (placeLane_misses hm))⟩

/-- An access with active lanes stops where its lanes do. -/
theorem orNothing_lanes {c : Ctx} (h : c.lanes ≠ 0) (r : Except Stop (Ctx → Done)) : orNothing c r = r := if_neg h
theorem ldBody_stops {f : LdF} {c : Ctx} {e : Stop} (h : c.lanes ≠ 0)
    (hp : placeLanes c .load f.size.bytes (attrCheck fun _ => true) ((match f.d with | .v _ => lanesOf c.lanes | .s _ => (lanesOf c.lanes).take 1).map fun l => (l, globalEa c.g c.sp f.a.reg f.off l)) = .error e) : ldBody f c = .error e := by
  rw [← attrCheck_true] at hp
  rw [ldBody, orNothing_lanes h]
  cases hd : f.d with
  | v r => simp only [hd] at hp; simp only [Ctx.addrs, hp]
  | s r => simp only [hd, List.map_take] at hp; simp only [Ctx.addrs, hp]
theorem stBody_stops {f : StF} {c : Ctx} {e : Stop} (h : c.lanes ≠ 0) (hp : placeLanes c .store f.size.bytes (attrCheck fun l => !l.ver) ((lanesOf c.lanes).map fun l => (l, globalEa c.g c.sp f.a.reg f.off l)) = .error e) : stBody f c = .error e := by
  rw [← notVersioned_eq] at hp
  rw [stBody, orNothing_lanes h]
  simp only [Ctx.addrs, hp]
theorem stVerBody_stops {f : StF} {c : Ctx} {e : Stop} (h : c.lanes ≠ 0) (hp : placeLanes c .store f.size.bytes (attrCheck fun l => l.ver) ((lanesOf c.lanes).map fun l => (l, globalEa c.g c.sp f.a.reg f.off l)) = .error e) : stVerBody f c = .error e := by
  rw [← mustVersioned_eq] at hp
  rw [stVerBody, orNothing_lanes h]
  simp only [Ctx.addrs, hp]

/-! Window accesses (R204, R237). -/

/-- A window access is aligned and lies below W. -/
def Ctx.offsetOk (c : Ctx) (n o : Nat) : Prop := o % n = 0 ∧ o < c.team.windowSize
/-- Among offsets in order, the first that is not aligned or not below W decides. -/
theorem windowLanes_first {c : Ctx} {n : Nat} {x : Nat × Nat} {post : List (Nat × Nat)} {e : Stop} (hx : windowLanes c n (x :: post) = .error e) :
    ∀ {pre : List (Nat × Nat)}, (∀ y ∈ pre, c.offsetOk n y.2) → windowLanes c n (pre ++ x :: post) = .error e := by
  intro pre
  induction pre with
  | nil => intro _; exact hx
  | cons y t ih =>
    intro h
    obtain ⟨h1, h2⟩ := h y List.mem_cons_self
    simp only [List.cons_append, windowLanes, h1, ne_eq, not_true_eq_false, if_false, if_neg (Nat.not_le.2 h2), ih fun z hz => h z (List.mem_cons_of_mem _ hz)]
/-- A window access whose body stops where its offsets do: the first lane that is not aligned or not below W decides. -/
theorem window_decided {i : Instr} {gd : Option Guard} {s : State} {c : Ctx} {body : Ctx → Except Stop (Ctx → Done)} {n : Nat} {o : Nat → Nat} (hr : ready i gd s = some c) (he : exec i s = runCode i gd s body) (hc : closesEarly i = false)
    (hb : ∀ e, windowLanes c n ((lanesOf c.lanes).map fun l => (l, o l)) = .error e → body c = .error e) (pre : List Nat) (l : Nat) (post : List Nat) (hls : lanesOf c.lanes = pre ++ l :: post) (hpre : ∀ k ∈ pre, c.offsetOk n (o k)) :
    (o l % n ≠ 0 → exec i s = .next { s with dev := takeException s.plat s.dev c.gid c.site { code := .alignment, lane := some l, info := BitVec.ofNat 64 (o l) } }) ∧
    (o l % n = 0 → c.team.windowSize ≤ o l → exec i s = .next { s with dev := takeException s.plat s.dev c.gid c.site { code := .windowBound, lane := some l, info := BitVec.ofNat 64 (o l) } }) := by
  have first {e : Exc} (hl : windowLanes c n ((l, o l) :: post.map fun l => (l, o l)) = .error (.raise e)) : exec i s = .next { s with dev := takeException s.plat s.dev c.gid c.site e } := by
    refine raises_of hr he hc (hb _ ?_)
    rw [hls, List.map_append, List.map_cons]
    refine windowLanes_first hl fun y hy => ?_
    obtain ⟨k, hk, rfl⟩ := List.mem_map.1 hy
    exact hpre k hk
  refine ⟨fun ha => first ?_, fun ha hw => first ?_⟩
  · rw [windowLanes, if_pos ha]
    rfl
  · rw [windowLanes, if_neg (not_not_intro ha), if_pos hw]
    rfl
theorem ldSpBody_stops {f : LdF} {c : Ctx} {e : Stop} (h : c.lanes ≠ 0) (hp : windowLanes c f.size.bytes (c.offsets f.a.reg f.off) = .error e) : ldSpBody f c = .error e := by
  rw [ldSpBody, orNothing_lanes h, hp]
theorem stSpBody_stops {f : StF} {c : Ctx} {e : Stop} (h : c.lanes ≠ 0) (hp : windowLanes c f.size.bytes (c.offsets f.a.reg f.off) = .error e) : stSpBody f c = .error e := by
  rw [stSpBody, orNothing_lanes h, hp]

/-! Checks of single instructions. -/

theorem sysWrBody_readOnly {n : Nat} {r : SReg} {c : Ctx} (h : ctlKind n = some .ro32 ∨ ctlKind n = some .ro64) : sysWrBody n r c = .error (.raise (Exc.of .readOnlyControl)) := by
  obtain h | h := h <;> simp only [sysWrBody, h]
theorem withTile_unreserved {c : Ctx} {t : TileNo} (h : ownsTile c t = false) (r : Except Stop (Ctx → Done)) : withTile c t r = .error (.raise (Exc.of .unreservedTile)) := by
  simp only [withTile, h, Bool.false_eq_true, if_false]
theorem stepRdBody_range {d : SReg} {p : SL} {c : Ctx} (h : 514 ≤ slVal c.g c.sp p) : stepRdBody d p c = .error (.raise (Exc.of .peerRange)) := if_pos h
theorem arriveBody_divergent {n : Ctx → Nat} {waits : Bool} {c : Ctx} (h : 1 < (liveSplits c.g).length) : arriveBody n waits c = .error (.raise (Exc.of .divergentBarrier)) := if_pos h

end Sys2Proof.Machine

namespace Sys2Proof
open Machine

/-- Settles O60: each instruction's body stops at the first check that fails, and what stops it is taken as an exception or sent as a miss. -/
theorem exceptionsAreRaised : Obligations.exceptions_are_raised := by
  unfold Obligations.exceptions_are_raised
  refine ⟨fun f s c hr h => ?_, fun f s c hr h => ?_, fun f s c hr h => ?_, fun f s c hr h => ?_, fun f s c hr h => ?_, fun n r s c hr h => ?_, fun g t s c hr h => ?_, fun f s c hr h => ?_, fun r p s c hr h => ?_, fun i s c hi hr h => ?_⟩
  · exact access_decided hr rfl rfl fun e => ldBody_stops h
  · exact access_decided hr rfl rfl fun e => stBody_stops h
  · exact access_decided hr rfl rfl fun e => stVerBody_stops h
  · exact window_decided hr rfl rfl fun e => ldSpBody_stops h
  · exact window_decided hr rfl rfl fun e => stSpBody_stops h
  · exact raises_of hr rfl rfl (sysWrBody_readOnly h)
  · exact raises_of hr rfl rfl (withTile_unreserved h _)
  · exact raises_of hr rfl rfl (withTile_unreserved h _)
  · exact raises_of hr rfl rfl (stepRdBody_range h)
  · obtain rfl | rfl | ⟨n, rfl | rfl⟩ := hi <;> exact raises_of hr rfl rfl (arriveBody_divergent h)

end Sys2Proof

namespace Sys2Proof.Machine
open Sys2Proof

/-! What the operations on a group and its places leave of the device beside its units. -/

/-- What folding updates leaves that each of them leaves. -/
theorem foldl_leaves {α β : Type} {f : Device → α → Device} (p : Device → β) (h : ∀ d x, p (f d x) = p d) (l : List α) (d : Device) : p (l.foldl f d) = p d := by
  induction l generalizing d with
  | nil => rfl
  | cons x t ih => rw [List.foldl_cons, ih, h]

/-- A change at a key that a table does not hold changes nothing. -/
theorem modify_absent {α : Type} {f : α → α} {t : Tbl α} {k : Nat} (h : Tbl.find t k = none) : Tbl.modify f t k = t := by
  induction t with
  | nil => rfl
  | cons e t ih =>
    obtain ⟨j, w⟩ := e
    simp only [Tbl.find] at h
    split at h
    · cases h
    · simp_all [Tbl.modify]

/-- What either branch of a choice leaves, the choice leaves. -/
theorem ite_leaves {β : Type} (p : Device → β) {c : Prop} [Decidable c] {a b : Device} {x : β} (ha : p a = x) (hb : p b = x) : p (if c then a else b) = x := by
  split <;> assumption
/-- A device without its groups, its names and the units that serve groups, and without the clock of the command engine. -/
def Device.beside (d : Device) : Device := { d with dies := [], cores := [], clusters := [], slices := [], homes := [], names := [], groups := [], sched := { d.sched with clock := [] } }
@[simp] theorem beside_modGroup (d : Device) (g : Nat) (f : Group → Group) : (d.modGroup g f).beside = d.beside := rfl
@[simp] theorem beside_modCore (d : Device) (k : Nat) (f : Core → Core) : (d.modCore k f).beside = d.beside := rfl
@[simp] theorem beside_modSlice (d : Device) (k : Nat) (f : Slice → Slice) : (d.modSlice k f).beside = d.beside := rfl
@[simp] theorem beside_setDrawer (d : Device) (k i : Nat) (x : Drawer) : (d.setDrawer k i x).beside = d.beside := rfl
@[simp] theorem beside_freeDrawer (d : Device) (k i : Nat) : (d.freeDrawer k i).beside = d.beside := rfl
@[simp] theorem beside_mergeClock (d : Device) (k : Nat) (c : DieClock) : (d.mergeClock k c).beside = d.beside := rfl
theorem beside_cores (d : Device) (x : Tbl Core) : ({ d with cores := x } : Device).beside = d.beside := rfl
@[simp] theorem beside_noticeAll (d : Device) (s : Signature) : (noticeAll d s).beside = d.beside := beside_cores d _
@[simp] theorem beside_wakeWith (d : Device) (g n st : Nat) (c : DieClock) : (wakeWith d g n st c).beside = d.beside := by
  simp only [wakeWith]
  split <;> rfl
@[simp] theorem beside_wakeGroup (d : Device) (g n st : Nat) : (wakeGroup d g n st).beside = d.beside := beside_wakeWith _ _ _ _ _
@[simp] theorem beside_retryStalls (w : Stall) (d : Device) (g : Nat) : (retryStalls w d g).beside = d.beside := rfl
@[simp] theorem beside_freeEntry (d : Device) (core : Nat) : (freeEntry d core).beside = d.beside := foldl_leaves _ (beside_retryStalls _) _ _
@[simp] theorem beside_freeEntries (d : Device) (core : Nat) (os : List Op) : (freeEntries d core os).beside = d.beside := by
  simp only [freeEntries]
  split
  · exact beside_freeEntry _ _
  · rfl
@[simp] theorem beside_takeChunk (d : Device) (gid e : Nat) : (takeChunk d gid e).beside = d.beside := by
  simp only [takeChunk]
  repeat' split
  all_goals rfl
@[simp] theorem beside_takeChunks (gid n : Nat) (d : Device) : (takeChunks d gid n).beside = d.beside := by
  induction n generalizing d with
  | zero => rfl
  | succ n ih =>
    simp only [takeChunks]
    split
    · rfl
    · rw [ih, beside_modGroup, beside_takeChunk]
@[simp] theorem beside_giveChunk (d : Device) (gid e : Nat) : (giveChunk d gid e).beside = d.beside := by
  simp only [giveChunk]
  split <;> rfl
@[simp] theorem beside_grantChunks (core n : Nat) (d : Device) : (grantChunks core n d).beside = d.beside := by
  induction n generalizing d with
  | zero => rfl
  | succ n ih =>
    simp only [grantChunks]
    split
    · rfl
    · split
      · exact (ih _).trans rfl
      · split
        · rfl
        · split <;> rw [ih] <;> simp
@[simp] theorem beside_setDrawerOf (d : Device) (g : Group) (x : Drawer) : (setDrawerOf d g x).beside = d.beside := by
  simp only [setDrawerOf]
  split <;> rfl
@[simp] theorem beside_dropWait (d : Device) (gid : Nat) : (dropWait d gid).beside = d.beside := by
  simp only [dropWait]
  split
  · rfl
  · rw [beside_setDrawerOf, beside_modGroup]
@[simp] theorem beside_removeWatches (d : Device) (gid : Nat) : (removeWatches d gid).beside = d.beside := rfl
@[simp] theorem beside_removeWaiter (d : Device) (gid : Nat) : (removeWaiter d gid).beside = d.beside := rfl
@[simp] theorem beside_removeChunkReq (d : Device) (gid : Nat) : (removeChunkReq d gid).beside = d.beside := rfl
@[simp] theorem beside_removeMisses (d : Device) (gid : Nat) : (removeMisses d gid).beside = d.beside := rfl
@[simp] theorem beside_removeVerLoads (d : Device) (gid : Nat) : (removeVerLoads d gid).beside = d.beside := rfl
@[simp] theorem beside_leaveWait (d : Device) (gid : Nat) : (leaveWait d gid).beside = d.beside := by simp [leaveWait]
@[simp] theorem beside_abandonWait (d : Device) (gid : Nat) : (abandonWait d gid).beside = d.beside := by simp [abandonWait]
@[simp] theorem beside_poisonLocks (P : Platform) (d : Device) (gid : Nat) : (poisonLocks P d gid).beside = d.beside := by
  simp only [poisonLocks]
  split
  · rfl
  · exact foldl_leaves Device.beside (fun d l => (rfl : (releaseLock P d _ l true).beside = d.beside)) _ _
@[simp] theorem beside_freePosts (d : Device) (es : List Effect) : (freePosts d es).beside = d.beside := by
  refine foldl_leaves Device.beside (fun d e => ?_) _ _
  split <;> rfl
@[simp] theorem beside_discardEffects (d : Device) (gid : Nat) : (discardEffects d gid).beside = d.beside := by
  simp only [discardEffects]
  split
  · rfl
  · rw [beside_modGroup, beside_freePosts]
@[simp] theorem beside_freeTiles (d : Device) (gid core : Nat) : (freeTiles d gid core).beside = d.beside := rfl
@[simp] theorem beside_depositRegs (d : Device) (gid : Nat) : (depositRegs d gid).beside = d.beside := by
  simp only [depositRegs]
  split
  · rfl
  · exact (foldl_leaves Device.beside (fun d e => beside_giveChunk d gid e) _ _)
@[simp] theorem beside_clearMatches (d : Device) (core job : Nat) : (clearMatches d core job).beside = d.beside := by
  simp only [clearMatches]
  split <;> rfl
@[simp] theorem beside_exitName (d : Device) (g : Group) : (exitName d g).beside = d.beside := by
  simp only [exitName]
  split <;> rfl
theorem beside_leaves (d : Device) (k gid : Nat) : ({ d.toCommand k with groups := Tbl.erase d.groups gid } : Device).beside = d.beside := rfl
@[simp] theorem beside_freeGroup (P : Platform) (d : Device) (gid : Nat) : (freeGroup P d gid).beside = d.beside := by
  simp only [freeGroup]
  split
  · rfl
  · rw [beside_grantChunks, beside_freeEntries, beside_clearMatches, beside_leaves]
    split <;> simp
@[simp] theorem beside_haltAt (fatal : Bool) (d : Device) (gid : Nat) : (haltAt fatal d gid).beside = d.beside := by
  simp only [haltAt]
  split
  · rfl
  · split
    · rfl
    · rw [beside_modGroup, beside_freeEntries, beside_freeTiles, beside_freePosts]
      split
      · exact beside_leaveWait _ _
      · exact beside_abandonWait _ _

/-! What the operations on a group show of the groups. -/

/-- A view of groups that shows nothing of what an operation on another group may change: registers and blocks, stalls and the time since when the group is ready, its saved drawer and what its image has still to receive. -/
def BlindToOthers {α : Type} (r : Group → α) : Prop := ∀ (g : Group) v h readyAt splits savedDrawer imageDue, r { g with v, h, readyAt, splits, savedDrawer, imageDue } = r g
/-- A view that shows no wait either. -/
def BlindToWaits {α : Type} (r : Group → α) : Prop := BlindToOthers r ∧ ∀ (g : Group) wait state readyAt, r { g with wait, state, readyAt } = r g
section
variable {α : Type} {r : Group → α}
theorem BlindToOthers.blocks (hr : BlindToOthers r) : BlindToBlocks r := fun g v h i => hr g v h g.readyAt g.splits g.savedDrawer i
/-- A change of one group is not seen at another. -/
theorem viewAt_modGroup_other (r : Group → α) (d : Device) {g j : Nat} (f : Group → Group) (h : j ≠ g) : viewAt r (d.modGroup g f) j = viewAt r d j := by
  rw [viewAt, find_modGroup_other _ _ _ _ h, viewAt]
theorem viewAt_retryStalls (hr : BlindToOthers r) (w : Stall) (d : Device) (gid j : Nat) : viewAt r (retryStalls w d gid) j = viewAt r d j := by
  refine viewAt_modGroup r _ _ _ _ fun g => ?_
  split
  · exact hr g g.v g.h _ _ g.savedDrawer g.imageDue
  · rfl
theorem viewAt_foldl {β : Type} {f : Device → β → Device} (j : Nat) (h : ∀ d x, viewAt r (f d x) j = viewAt r d j) (l : List β) (d : Device) : viewAt r (l.foldl f d) j = viewAt r d j := foldl_leaves (fun d => viewAt r d j) h l d
theorem viewAt_freeEntry (hr : BlindToOthers r) (d : Device) (core j : Nat) : viewAt r (freeEntry d core) j = viewAt r d j := viewAt_foldl j (fun d g => viewAt_retryStalls hr .table d g j) _ _
theorem viewAt_freeEntries (hr : BlindToOthers r) (d : Device) (core j : Nat) (os : List Op) : viewAt r (freeEntries d core os) j = viewAt r d j := by
  simp only [freeEntries]
  split
  · exact viewAt_freeEntry hr _ _ _
  · rfl
theorem viewAt_setDrawerOf (hr : BlindToOthers r) (d : Device) (g : Group) (x : Drawer) (j : Nat) : viewAt r (setDrawerOf d g x) j = viewAt r d j := by
  simp only [setDrawerOf]
  split
  · refine viewAt_modGroup r _ _ _ _ fun g => ?_
    rw [noteImage_eq]
    exact hr g g.v g.h g.readyAt g.splits _ _
  · rfl
theorem viewAt_dropWait (hr : BlindToWaits r) (d : Device) (gid j : Nat) : viewAt r (dropWait d gid) j = viewAt r d j := by
  simp only [dropWait]
  split
  · rfl
  · exact (viewAt_setDrawerOf hr.1 _ _ _ _).trans (viewAt_modGroup r _ _ _ _ fun g => hr.2 g _ _ _)
theorem viewAt_dropWait_other (hr : BlindToOthers r) (d : Device) {gid j : Nat} (h : j ≠ gid) : viewAt r (dropWait d gid) j = viewAt r d j := by
  simp only [dropWait]
  split
  · rfl
  · exact (viewAt_setDrawerOf hr _ _ _ _).trans (viewAt_modGroup_other r _ _ h)
/-- Leaving a wait changes no group beyond what dropping it does. -/
theorem leaveWait_groups (d : Device) (gid : Nat) : (leaveWait d gid).groups = (dropWait d gid).groups := rfl
theorem abandonWait_groups (d : Device) (gid : Nat) : (abandonWait d gid).groups = (dropWait d gid).groups := rfl
theorem freePosts_groups (d : Device) (es : List Effect) : (freePosts d es).groups = d.groups := by
  refine foldl_leaves Device.groups (fun d e => ?_) _ _
  split <;> rfl
/-- Discarding held effects changes nothing else of the group. -/
theorem discardEffects_groups (d : Device) (gid : Nat) : (discardEffects d gid).groups = Tbl.modify (fun g => { g with effects := [] }) d.groups gid := by
  simp only [discardEffects]
  split
  · rename_i h
    exact (modify_absent h).symm
  · rw [Device.modGroup, freePosts_groups]
theorem exitName_groups (d : Device) (g : Group) : (exitName d g).groups = d.groups := by
  simp only [exitName]
  split <;> rfl
theorem clearMatches_groups (d : Device) (core job : Nat) : (clearMatches d core job).groups = d.groups := by
  simp only [clearMatches]
  split <;> rfl
/-- A group that has passed its locks: it holds those that its own `unlk` is releasing. -/
def Group.passLocks (g : Group) : Group := { g with locks := g.locks.filter (goingLines g).contains, lockVas := g.lockVas.filter fun x => (goingLines g).contains x.1 }
theorem poisonLocks_groups (P : Platform) (d : Device) (gid : Nat) : (poisonLocks P d gid).groups = Tbl.modify Group.passLocks d.groups gid := by
  simp only [poisonLocks]
  split
  · rename_i h
    exact (modify_absent h).symm
  · rename_i g h
    rw [Device.modGroup, foldl_groups (f := fun d l => releaseLock P d (g.core / 128) l true) fun _ _ => rfl]
    exact modify_congr h rfl
end

/-! Groups that have left. -/

/-- Whether a device holds a group, as a view of it. -/
theorem find_none_iff {d : Device} {j : Nat} : Tbl.find d.groups j = none ↔ viewAt (fun _ => ()) d j = none := by rw [viewAt, Option.map_eq_none_iff]
theorem blind_unit : BlindToWaits fun _ => () := ⟨fun _ _ _ _ _ _ _ => rfl, fun _ _ _ _ => rfl⟩
theorem viewAt_unit_modGroup (d : Device) (g j : Nat) (f : Group → Group) : viewAt (fun _ => ()) (d.modGroup g f) j = viewAt (fun _ => ()) d j := viewAt_modGroup _ _ _ _ _ fun _ => rfl
/-- A group whose resources are freed is gone, and none comes. -/
theorem find_freeGroup {P : Platform} {d : Device} {gid j : Nat} (h : Tbl.find d.groups j = none ∨ j = gid) : Tbl.find (freeGroup P d gid).groups j = none := by
  simp only [freeGroup]
  split
  · rename_i hg
    obtain h | rfl := h
    · exact h
    · exact hg
  · rename_i g hg
    rw [find_none_iff, viewAt_grantChunks blind_unit.1.blocks, viewAt_freeEntries blind_unit.1, viewAt_groups _ (clearMatches_groups _ _ _), ← find_none_iff]
    by_cases hj : j = gid
    · rw [hj]
      exact find_erase_same _ _
    · refine (find_erase_other _ _ _ hj).trans ?_
      have h := h.resolve_right hj
      have absent {e : Device} (he : (abandonWait d gid).groups = e.groups) : Tbl.find e.groups j = none := by
        rw [find_none_iff, ← viewAt_groups _ he, viewAt_groups _ (abandonWait_groups _ _), viewAt_dropWait blind_unit, ← find_none_iff, h]
      have freed : Tbl.find (discardEffects (exitName (poisonLocks P (removeVerLoads (abandonWait d gid) gid) gid) g) gid).groups j = none := by
        rw [discardEffects_groups, find_modify_other _ _ _ _ hj, exitName_groups, poisonLocks_groups, find_modify_other _ _ _ _ hj]
        exact absent rfl
      split
      · exact freed
      · exact (congrArg (Tbl.find · j) (depositRegs_groups _ _)).trans freed


/-! What a write in a job's space leaves. -/

/-- A device without what a write in a job's space reaches: memory with its marks and clocks, the units that are told of it, and the claims that park it. -/
def Device.unwritten (d : Device) : Device := { d with nextId := 0, mem := [], poison := [], dies := [], lineClock := [], cores := [], clusters := [], slices := [], collapses := [] }
theorem unwritten_cores (d : Device) (x : Tbl Core) : ({ d with cores := x } : Device).unwritten = d.unwritten := rfl
@[simp] theorem unwritten_noticeAll (d : Device) (s : Signature) : (noticeAll d s).unwritten = d.unwritten := unwritten_cores d _
@[simp] theorem unwritten_mergeClock (d : Device) (k : Nat) (c : DieClock) : (d.mergeClock k c).unwritten = d.unwritten := rfl
@[simp] theorem unwritten_wakeWith (d : Device) (g n st : Nat) (c : DieClock) : (wakeWith d g n st c).unwritten = d.unwritten := by
  simp only [wakeWith]
  split <;> rfl
@[simp] theorem unwritten_testWatches (d : Device) (cl lo n : Nat) : (testWatches d cl lo n).unwritten = d.unwritten := by
  simp only [testWatches]
  rw [foldl_leaves Device.unwritten fun d (w : Nat × DWord × Nat) => unwritten_wakeWith d w.2.2 1 0 (d.valueClock w.1)]
  split <;> rfl
@[simp] theorem unwritten_markWord (d : Device) (b : Bool) (w : Nat) : (d.markWord b w).unwritten = d.unwritten := by
  simp only [Device.markWord]
  split <;> rfl
@[simp] theorem unwritten_clearPoison (d : Device) (a n : Nat) : (d.clearPoison a n).unwritten = d.unwritten := foldl_leaves _ (fun d i => unwritten_markWord d false ((a + 3) / 4 + i)) _ _
@[simp] theorem unwritten_writeBytes (bs : List Byte) (d : Device) (a : Nat) : (d.writeBytes a bs).unwritten = d.unwritten := by
  induction bs generalizing d a with
  | nil => rfl
  | cons b t ih => exact (ih _ _).trans rfl
@[simp] theorem unwritten_touchLine (P : Platform) (d : Device) (k a : Nat) : (touchLine P d k a).unwritten = d.unwritten := by
  simp only [touchLine]
  rw [foldl_leaves Device.unwritten fun (d : Device) l => (rfl : (d.modDie k fun x => { x with visitors := Tbl.erase x.visitors l }).unwritten = d.unwritten)]
  rfl
@[simp] theorem unwritten_sendHome (h : Nat) (m : Nat → HomeMsg) (d : Device) (k : Nat) : (sendHome h m d k).unwritten = d.unwritten := by
  simp only [sendHome]
  split <;> rfl
@[simp] theorem unwritten_writeLineAt (P : Platform) (clock : DieClock) (d : Device) (a : Nat) (bs : List Byte) : (writeLineAt P clock d a bs).1.unwritten = d.unwritten := by
  simp only [writeLineAt]
  rw [unwritten_testWatches, foldl_leaves Device.unwritten fun d k => unwritten_sendHome _ _ d k]
  refine (show _ = (((touchLine P d (homeDie a) a).writeBytes a bs).clearPoison a bs.length).unwritten from rfl).trans ?_
  simp
@[simp] theorem unwritten_writePhys (P : Platform) (src n : Nat) (d : Device) (a : Nat) (bs : List Byte) : (writePhys P src n d a bs).1.unwritten = d.unwritten := by
  induction n generalizing d a bs with
  | zero => rfl
  | succ n ih => cases bs with
    | nil => rfl
    | cons b t => exact (ih _ _ _).trans (unwritten_writeLineAt _ _ _ _ _)
@[simp] theorem unwritten_engineWrite (P : Platform) (src : Nat) (d : Device) (a : Nat) (bs : List Byte) : (engineWrite P src d a bs).unwritten = d.unwritten := by
  simp only [engineWrite]
  rw [foldl_leaves Device.unwritten fun d m => unwritten_mergeClock d src (clockAt m)]
  exact unwritten_writePhys _ _ _ _ _ _
@[simp] theorem unwritten_parkWrite (d : Device) (job page die : Nat) (x : Parked) : (parkWrite d job page die x).unwritten = d.unwritten := by
  simp only [parkWrite]
  split <;> rfl
theorem unwritten_jobWrite {P : Platform} {d e : Device} {job die : Nat} {va : DWord} {bs : List Byte} (h : jobWrite P d job die va bs = some e) : e.unwritten = d.unwritten := by
  simp only [jobWrite] at h
  split at h
  · split at h
    · cases h
    · split at h
      · cases h
        exact unwritten_parkWrite _ _ _ _ _
      · cases h
        exact unwritten_engineWrite _ _ _ _ _
  · cases h
@[simp] theorem unwritten_commandWrite (P : Platform) (d : Device) (job : Nat) (va : DWord) (bs : List Byte) : (commandWrite P d job va bs).unwritten = d.unwritten := by
  simp only [commandWrite]
  split
  · rename_i e h
    rw [unwritten_noticeAll]
    split <;> exact (unwritten_jobWrite h).trans rfl
  · rfl


/-! What the ends and starts of jobs, phases, graphs and launches leave. -/

/-- What a device executes: groups, teams and launches. -/
def Device.works (d : Device) : Tbl Group × Tbl Team × Tbl Launch := (d.groups, d.teams, d.launches)
theorem works_of_unwritten {d e : Device} (h : d.unwritten = e.unwritten) : d.works = e.works := by
  have h := congrArg Device.works h
  exact h
theorem works_of_beside {d e : Device} (h : d.beside = e.beside) : (d.teams, d.launches) = (e.teams, e.launches) := by
  have h := congrArg (fun d : Device => (d.teams, d.launches)) h
  exact h
@[simp] theorem works_commandWrite (P : Platform) (d : Device) (job : Nat) (va : DWord) (bs : List Byte) : (commandWrite P d job va bs).works = d.works := works_of_unwritten (unwritten_commandWrite _ _ _ _ _)
@[simp] theorem works_checkJob (P : Platform) (d : Device) (j : Nat) : (checkJob P d j).works = d.works := by
  simp only [checkJob]
  split
  · rfl
  · split
    · exact (works_commandWrite _ _ _ _ _).trans rfl
    · rfl
@[simp] theorem works_checkPhase (P : Platform) (d : Device) (p : Nat) : (checkPhase P d p).works = d.works := by
  simp only [checkPhase]
  split
  · rfl
  · split
    · rw [works_checkJob]
      split <;> exact (works_commandWrite _ _ _ _ _).trans rfl
    · rfl
@[simp] theorem works_checkGraph (P : Platform) (d : Device) (g : Nat) : (checkGraph P d g).works = d.works := by
  simp only [checkGraph]
  split
  · rfl
  · split
    · rw [works_checkPhase]
      exact (works_commandWrite _ _ _ _ _).trans rfl
    · rfl
theorem groups_of_works {d e : Device} (h : d.works = e.works) : d.groups = e.groups := congrArg (·.1) h
theorem queueTeams_groups (l : Launch) (step : Word) (n i : Nat) (d : Device) : (queueTeams l step n i d).groups = d.groups := by
  induction n generalizing i d with
  | zero => rfl
  | succ n ih => exact (ih _ _).trans rfl
theorem startLaunch_groups (P : Platform) (d : Device) (gid node : Nat) : (startLaunch P d gid node).groups = d.groups := by
  simp only [startLaunch]
  split
  · rfl
  · refine ite_leaves Device.groups ((queueTeams_groups _ _ _ _ _).trans rfl) (ite_leaves Device.groups rfl ?_)
    exact (groups_of_works (works_commandWrite _ _ _ _ _)).trans rfl
theorem startNode_groups (P : Platform) (gid : Nat) (d : Device) (node : Nat) : (startNode P gid d node).groups = d.groups := by
  simp only [startNode]
  split
  · rfl
  · split
    · rfl
    · split
      · exact startLaunch_groups _ _ _ _
      · rfl
theorem fireNode_groups (P : Platform) (gid : Nat) (d : Device) (e : Nat) : (fireNode P gid d e).groups = d.groups := by
  simp only [fireNode]
  split
  · rfl
  · split
    · exact startNode_groups _ _ _ _
    · split
      · rfl
      · split
        · exact (startNode_groups _ _ _ _).trans rfl
        · rfl
theorem checkLaunch_groups (P : Platform) (d : Device) (lid : Nat) : (checkLaunch P d lid).groups = d.groups := by
  simp only [checkLaunch]
  split
  · rfl
  · split
    · rfl
    · have ended (e : Device) (job : Nat) (va : DWord) (bs : List Byte) := groups_of_works (works_commandWrite P e job va bs)
      split
      · exact (ended _ _ _ _).trans rfl
      · rw [groups_of_works (works_checkGraph _ _ _)]
        split
        · rw [foldl_groups fun d e => fireNode_groups P _ d e]
          exact (ended _ _ _ _).trans rfl
        · exact (ended _ _ _ _).trans rfl
theorem markOrphan_groups (d : Device) (l : Launch) : (markOrphan d l).groups = d.groups := by
  simp only [markOrphan]
  repeat' split
  all_goals rfl
theorem freeTeamUnits_groups (d : Device) (t : Team) : (freeTeamUnits d t).groups = d.groups := foldl_groups (fun d (e : Nat × Nat) => (rfl : (d.freeDrawer e.1 e.2).groups = d.groups)) _ _

/-! The completion of a team, in its parts. -/

/-- A device that a team has left, with its groups and what it had beside them (R55, R59). -/
def teamGone (P : Platform) (d : Device) (t : Team) (tid : Nat) : Device :=
  let d := freeTeamUnits d t
  let d := (((Tbl.vals d.groups).filter fun g => g.team == tid).map (·.id)).foldl (fun d g => freeGroup P d g) d
  { d with teams := Tbl.erase d.teams tid }.modJob t.job fun j => { j with queued := j.queued.filter (· != tid), swapped := j.swapped.filter (· != tid), dumps := j.dumps.filter (· != tid) }
/-- The chunk of a team of an AUTO launch that exited is on its way (R402). -/
def chunkSent (d : Device) (t : Team) (how : TeamEnd) (l : Launch) : Device :=
  match how, l.auto with
  | .exited, some (cbase, abase) =>
    let s : CollSend := { job := t.job, binding := l.coll, chunk := cbase + t.index, step := t.step.toNat, src := abase + BitVec.ofNat 64 (4096 * t.index), group := none }
    { d with coll := { d.coll with sends := d.coll.sends ++ [(t.cluster / 32, s)] } }
  | _, _ => d
theorem works_chunkSent (d : Device) (t : Team) (how : TeamEnd) (l : Launch) : (chunkSent d t how l).works = d.works := by
  simp only [chunkSent]
  split <;> rfl
/-- Its launch has counted it (R55, R56). -/
def teamCounted (d : Device) (t : Team) (how : TeamEnd) (orphan : Bool) (l : Launch) : Device :=
  let d := chunkSent (if orphan then markOrphan d l else d) t how l
  { d with launches := Tbl.modify (fun (x : Launch) => { x with left := x.left - 1, count := if how = .exited then x.count + 1 else x.count, failed := x.failed || how == .failed }) d.launches l.id }
/-- A team of a launch completes in these parts. -/
theorem completeTeam_eq {P : Platform} {d : Device} {tid : Nat} {t : Team} {how : TeamEnd} (ht : Tbl.find d.teams tid = some t) : ∃ orphan, completeTeam P d tid how = match launchOf (teamGone P d t tid) t with
    | none => checkJob P (teamGone P d t tid) t.job
    | some l => checkJob P (checkLaunch P (teamCounted (teamGone P d t tid) t how orphan l) l.id) t.job := by
  simp only [completeTeam, ht]
  exact ⟨_, rfl⟩
theorem teamCounted_groups (d : Device) (t : Team) (how : TeamEnd) (orphan : Bool) (l : Launch) : (teamCounted d t how orphan l).groups = d.groups := by
  have orphaned : (if orphan then markOrphan d l else d).groups = d.groups := ite_leaves Device.groups (markOrphan_groups d l) rfl
  exact (groups_of_works (works_chunkSent _ t how l)).trans orphaned
theorem find_teamGone {P : Platform} {d : Device} {t : Team} {tid j : Nat} (h : Tbl.find d.groups j = none) : Tbl.find (teamGone P d t tid).groups j = none := by
  have freed (l : List Nat) : ∀ e : Device, Tbl.find e.groups j = none → Tbl.find (l.foldl (fun d g => freeGroup P d g) e).groups j = none := by
    induction l with
    | nil => exact fun _ h => h
    | cons x l ih => exact fun e h => ih _ (find_freeGroup (.inl h))
  exact freed _ _ ((congrArg (Tbl.find · j) (freeTeamUnits_groups d t)).trans h)
/-- A team that completes brings no group. -/
theorem find_completeTeam {P : Platform} {d : Device} {tid j : Nat} {how : TeamEnd} (h : Tbl.find d.groups j = none) : Tbl.find (completeTeam P d tid how).groups j = none := by
  cases ht : Tbl.find d.teams tid with
  | none => simp only [completeTeam, ht, h]
  | some t =>
    obtain ⟨orphan, e⟩ := completeTeam_eq (P := P) (how := how) ht
    rw [e]
    split
    · rw [groups_of_works (works_checkJob _ _ _), find_teamGone h]
    · rw [groups_of_works (works_checkJob _ _ _), checkLaunch_groups, teamCounted_groups, find_teamGone h]
theorem barrierCheck_groups (d : Device) (tid : Nat) : (barrierCheck d tid).groups = d.groups := by
  simp only [barrierCheck]
  split
  · rfl
  · split
    · exact (foldl_groups (fun d (g : Group) => wakeWith_groups d g.id 1 0 _) _ _).trans rfl
    · rfl
theorem leaveBarrier_groups (d : Device) (tid : Nat) : (leaveBarrier d tid).groups = d.groups := by
  simp only [leaveBarrier]
  split
  · rfl
  · exact (barrierCheck_groups _ _).trans rfl

end Sys2Proof.Machine

namespace Sys2Proof.Machine
open Sys2Proof

/-! Exchanges of positions (R51, R52, R452). -/

theorem rebind_groups (d : Device) (core slot p q : Nat) : (rebind d core slot p q).groups = d.groups := rfl
theorem rebind_mem (d : Device) (core slot p q : Nat) : (rebind d core slot p q).mem = d.mem := rfl
/-- A move to another position leaves every group's registers. -/
theorem regsOf_moved (d : Device) (gid j p n : Nat) : regsOf (d.modGroup gid fun g => { g with pos := p, issueFrom := n }) j = regsOf d j := view_modGroup Group.regs d gid j (fun g => { g with pos := p, issueFrom := n }) fun _ => rfl
theorem regsOf_emptied (d : Device) (gid j p : Nat) : regsOf (d.modGroup gid fun g => { emptyBypass g with pos := p }) j = regsOf d j := view_modGroup Group.regs d gid j (fun g => { emptyBypass g with pos := p }) fun _ => rfl
theorem exchange_keeps (d : Device) (core slot : Nat) (out into : Group) : (exchange d core slot out into).mem = d.mem ∧ ∀ j, regsOf (exchange d core slot out into) j = regsOf d j :=
  ⟨rfl, fun j => (regsOf_moved _ into.id j out.pos (d.clock + 2)).trans (regsOf_emptied d out.id j into.pos)⟩
/-- The two groups of an exchange have changed places. -/
theorem exchange_positions {d : Device} {out into : Group} (core slot : Nat) (ho : Tbl.find d.groups out.id = some out) (hi : Tbl.find d.groups into.id = some into) (hne : out.id ≠ into.id) :
    (Tbl.find (exchange d core slot out into).groups out.id).map (·.pos) = some into.pos ∧ (Tbl.find (exchange d core slot out into).groups into.id).map (·.pos) = some out.pos := by
  simp only [exchange, rebind_groups]
  constructor
  · rw [find_modGroup_other _ _ _ _ hne, find_modGroup_same, ho]; rfl
  · rw [find_modGroup_same, find_modGroup_other _ _ _ _ hne.symm, hi]; rfl

/-! Merges (R39, R40, R184). -/

/-- The pair that merges may merge: two splits at the same clause, the first of lower number. -/
theorem mergePair_spec {g : Group} {a b : Nat × Split} (h : mergePair g = some (a, b)) : a.1 < b.1 ∧ a.2.index = 0 := by
  obtain ⟨x, -, hx⟩ := List.exists_of_findSome?_eq_some h
  rw [Option.map_eq_some_iff] at hx
  obtain ⟨y, hy, hxy⟩ := hx
  cases hxy
  have hc := List.find?_some hy
  simp only [canMerge, atStart, Bool.and_eq_true, decide_eq_true_eq, beq_iff_eq] at hc
  tauto
/-- The first of two splits that merge, before the lanes of the other join it: both regions are closed and the other split is out of the group. -/
theorem splitOf_merging {clock : Nat} {cl : Bool} {g : Group} {a b : Nat × Split} (ha : splitOf g a.1 = some a.2) (hne : a.1 ≠ b.1) :
    Tbl.find (Tbl.erase (closeRegion clock cl (closeRegion clock cl g a.1) b.1).splits b.1) a.1 = some { a.2 with region := wholeRegion clock g a.2, gone := a.2.gone || cl } := by
  rw [find_erase_other _ _ _ hne, ← splitOf, splitOf_closeRegion_other _ _ _ hne, splitOf_closeRegion_same, ha]
  rfl
/-- The split that stays stands where it stood, with the lanes of both. -/
theorem mergeSplits_seat {clock : Nat} {cl : Bool} {g : Group} {a b : Nat × Split} (ha : splitOf g a.1 = some a.2) (hne : a.1 ≠ b.1) :
    (mergeSplits clock cl g a b).seat a.1 = some (a.2.pc, a.2.index, a.2.mask ||| b.2.mask, mergedStack a.2 b.2) := by
  simp only [mergeSplits]
  rw [seat_modSplit_same ((splitOf_modSplit_same _ _ _).trans (congrArg _ (splitOf_merging ha hne)))]
  rfl
theorem mergeSplits_keys (clock : Nat) (cl : Bool) (g : Group) (a b : Nat × Split) : Tbl.keys (mergeSplits clock cl g a b).splits = (Tbl.keys g.splits).filter (· != b.1) := by
  simp only [mergeSplits, keys_modSplit, keys_erase, keys_closeRegion]
theorem mergeSplits_regs (clock : Nat) (cl : Bool) (g : Group) (a b : Nat × Split) : (mergeSplits clock cl g a b).regs = g.regs := by
  simp only [mergeSplits, modSplit_regs]
  exact (show _ = (closeRegion clock cl (closeRegion clock cl g a.1) b.1).regs from rfl).trans (by rw [closeRegion_regs, closeRegion_regs])

/-! Arrivals (R66, R451). -/

/-- Where a group is, and since when: what an arrival sets and an operation that completes leaves. -/
def Group.place (g : Group) : GroupState × Nat × Nat := (g.state, g.core, g.arrivedAt)
theorem blind_place : BlindToOthers Group.place := fun _ _ _ _ _ _ _ => rfl
theorem place_landMid (g : Group) (k : Nat) (w : RegWrites) (tr : Bool) (rs : Nat) : (landMid g k w tr rs).place = g.place := by
  simp only [landMid]
  split
  · rfl
  · cases tr <;> rfl
theorem place_landResult (d : Device) (gid k j : Nat) (w : RegWrites) (tr cl : Bool) (rs : Nat) : viewAt Group.place (landResult d gid k w tr rs cl) j = viewAt Group.place d j := by
  simp only [viewAt, view_landResult Group.place (fun _ _ _ _ => rfl), place_landMid, ite_self]
theorem beside_landResult (d : Device) (gid k : Nat) (w : RegWrites) (tr : Bool) (rs : Nat) (cl : Bool) : (landResult d gid k w tr rs cl).beside = d.beside := by
  simp only [landResult]
  split <;> rfl
theorem beside_reopen (d : Device) (gid k : Nat) : (reopen d gid k).beside = d.beside := by
  simp only [reopen]
  split <;> rfl
theorem beside_writeTiles (d : Device) (core job : Nat) (ws : List (Nat × Nat × Word)) : (writeTiles d core job ws).beside = d.beside := by
  simp only [writeTiles]
  split <;> rfl

/-- A group without an operation that completes, which leaves it `ver.last` and a shape. -/
def Group.endOp (id : Nat) (o : Op) (g : Group) : Group :=
  { g with ops := g.ops.filter (fun x => x.id != id), verLast := (match o.verLast with | some v => BitVec.ofNat 32 v | none => g.verLast), shapes := (match o.shape with | some (m, s) => listSet g.shapes m s | none => g.shapes) }
/-- An operation has left its group and written its tiles. -/
def opEnded (d : Device) (gid id : Nat) (g : Group) (o : Op) : Device :=
  let d := d.modGroup gid (Group.endOp id o)
  let d := if g.state == .halted then d.modGroup gid fun g => writeSaved g o.tileWrites else writeTiles d g.core g.job o.tileWrites
  unblock (if o.entry then freeEntry d g.core else d) gid
/-- An operation that completes lands its registers once it has left its group; the split that closed for it may go on. -/
theorem finishOp_cases {d : Device} {gid id : Nat} {g : Group} {o : Op} (hg : Tbl.find d.groups gid = some g) (ho : (g.ops.find? fun o => o.id == id) = some o) :
    ∃ k cl, finishOp d gid id = landResult (opEnded d gid id g o) gid k o.writes o.tr 0 cl ∨
      ∃ j, finishOp d gid id = reopen ((landResult (opEnded d gid id g o) gid k o.writes o.tr 0 cl).modGroup gid fun g => modSplit g j advanceCur) gid j := by
  refine ⟨o.closing.getD (o.splits.headD 4), (g.state == .live || g.state == .waiting) && (!o.tileWrites.isEmpty || o.kind == .matrix || o.kind == .take || o.kind == .pending), ?_⟩
  simp only [finishOp, hg, ho]
  split
  · split
    · exact .inr ⟨_, rfl⟩
    · exact .inl rfl
  · exact .inl rfl
theorem place_opEnded (d : Device) (gid id j : Nat) (g : Group) (o : Op) : viewAt Group.place (opEnded d gid id g o) j = viewAt Group.place d j := by
  have left : viewAt Group.place (d.modGroup gid (Group.endOp id o)) j = viewAt Group.place d j := viewAt_modGroup _ _ _ _ _ fun _ => rfl
  simp only [opEnded, unblock]
  rw [viewAt_retryStalls blind_place]
  have written : viewAt Group.place (if g.state == .halted then (d.modGroup gid (Group.endOp id o)).modGroup gid fun g => writeSaved g o.tileWrites else writeTiles (d.modGroup gid (Group.endOp id o)) g.core g.job o.tileWrites) j = viewAt Group.place d j :=
    ite_leaves (viewAt Group.place · j) ((viewAt_modGroup _ _ gid _ (fun g => writeSaved g o.tileWrites) fun _ => rfl).trans left) ((viewAt_groups _ (writeTiles_groups _ _ _ _) _).trans left)
  exact ite_leaves (viewAt Group.place · j) ((viewAt_freeEntry blind_place _ _ _).trans written) written
theorem beside_opEnded (d : Device) (gid id : Nat) (g : Group) (o : Op) : (opEnded d gid id g o).beside = d.beside := by
  simp only [opEnded, unblock]
  rw [beside_retryStalls]
  have written : (if g.state == .halted then (d.modGroup gid (Group.endOp id o)).modGroup gid fun g => writeSaved g o.tileWrites else writeTiles (d.modGroup gid (Group.endOp id o)) g.core g.job o.tileWrites).beside = d.beside :=
    ite_leaves Device.beside rfl ((beside_writeTiles _ _ _ _).trans rfl)
  exact ite_leaves Device.beside ((beside_freeEntry _ _).trans written) written
/-- An operation that completes leaves its group where it is, and all beside groups and their units. -/
theorem finishOp_leaves (d : Device) (gid id j : Nat) : viewAt Group.place (finishOp d gid id) j = viewAt Group.place d j ∧ (finishOp d gid id).beside = d.beside := by
  cases hg : Tbl.find d.groups gid with
  | none => simp only [finishOp, hg, and_self]
  | some g => cases ho : g.ops.find? fun o => o.id == id with
    | none => simp only [finishOp, hg, ho, and_self]
    | some o =>
      obtain ⟨k, cl, h⟩ := finishOp_cases hg ho
      have landed := (place_landResult (opEnded d gid id g o) gid k j o.writes o.tr cl 0).trans (place_opEnded d gid id j g o)
      have landed' := (beside_landResult (opEnded d gid id g o) gid k o.writes o.tr 0 cl).trans (beside_opEnded d gid id g o)
      obtain h | ⟨l, h⟩ := h <;> rw [h]
      · exact ⟨landed, landed'⟩
      · exact ⟨(view_reopen Group.place (fun _ _ _ _ => rfl) _ _ _ _).trans ((viewAt_modGroup _ _ gid _ (fun g => modSplit g l advanceCur) fun _ => rfl).trans landed), (beside_reopen _ _ _).trans landed'⟩
theorem mem_of_beside {d e : Device} (h : d.beside = e.beside) : d.mem = e.mem := by
  have h := congrArg Device.mem h
  exact h

/-! The events of a group. -/

/-- A group with nothing outstanding has left the device after its exit. -/
theorem find_groupExits {P : Platform} {d : Device} {gid : Nat} {g : Group} (hg : Tbl.find d.groups gid = some g) (hd : drained g = true) : Tbl.find (groupExits gid P d).groups gid = none := by
  have freed : Tbl.find (freeGroup P (noticeAll d (noticeOf g)) gid).groups gid = none := find_freeGroup (.inr rfl)
  have left : Tbl.find (if g.task then freeGroup P (noticeAll d (noticeOf g)) gid else leaveBarrier (freeGroup P (noticeAll d (noticeOf g)) gid) g.team).groups gid = none :=
    ite_leaves (fun d => Tbl.find d.groups gid) freed ((congrArg (Tbl.find · gid) (leaveBarrier_groups _ _)).trans freed)
  simp only [groupExits, hg, hd, Bool.not_true, Bool.false_eq_true, if_false]
  split
  · exact ite_leaves (fun d => Tbl.find d.groups gid) (find_completeTeam left) left
  · exact left

/-- A split enters its clause again. -/
def Split.resumed (sp : Split) : Split := if sp.entry.isNone then { sp with entry := some .resumed, code := [] } else sp
theorem resumed_entry (sp : Split) : sp.resumed.entry ≠ none := by
  simp only [Split.resumed]
  split
  · simp
  · rename_i h
    simpa using h
/-- A group that arrives is live where it was going, and each of its splits enters its clause again; only groups and their units change. -/
theorem migrationArrives_spec {P : Platform} {d : Device} {gid : Nat} {g : Group} (hg : Tbl.find d.groups gid = some g) (hs : g.state = .migrating) :
    (migrationArrives gid P d).mem = d.mem ∧ ∃ x, Tbl.find (migrationArrives gid P d).groups gid = some x ∧ x.place = (.live, g.core, d.nextId) ∧ ∀ e ∈ x.splits, e.2.entry ≠ none := by
  let here : Device := { d.modGroup gid (fun g => { g with state := .live, arrivedAt := d.nextId, readyAt := d.clock, issueFrom := d.clock }) with nextId := d.nextId + 1 }
  let done : Device := match g.ops.find? fun o => o.kind == .pending with | some o => finishOp here gid o.id | none => here
  have he : migrationArrives gid P d = done.modGroup gid fun g => { g with splits := Tbl.mapVals Split.resumed g.splits } := by
    simp only [migrationArrives, hg, hs, bne_self_eq_false, Bool.false_eq_true, if_false]
    rfl
  have arrived : viewAt Group.place here gid = some (.live, g.core, d.nextId) := by
    rw [viewAt, show here.groups = (d.modGroup gid _).groups from rfl, find_modGroup_same, hg]
    rfl
  obtain ⟨placed, kept⟩ : viewAt Group.place done gid = some (.live, g.core, d.nextId) ∧ done.mem = d.mem := by
    simp only [done]
    split
    · obtain ⟨h1, h2⟩ := finishOp_leaves here gid ‹Op›.id gid
      exact ⟨h1.trans arrived, (mem_of_beside h2).trans rfl⟩
    · exact ⟨arrived, rfl⟩
  rw [he]
  refine ⟨kept, ?_⟩
  obtain ⟨x, hx, hp⟩ := Option.map_eq_some_iff.1 placed
  refine ⟨_, (find_modGroup_same _ _ _).trans (congrArg _ hx), hp, fun e h => ?_⟩
  obtain ⟨y, -, rfl⟩ := List.mem_map.1 h
  exact resumed_entry _
/-- What R39 and R40 make of two splits that merge, in the device. -/
theorem splitsMerge_eq {P : Platform} {d : Device} {gid : Nat} {g : Group} {a b : Nat × Split} (hg : Tbl.find d.groups gid = some g) (hl : g.state = .live) (hm : mergePair g = some (a, b)) :
    splitsMerge gid P d = d.modGroup gid fun _ => mergeSplits d.clock (closing d g) g a b := by
  simp only [splitsMerge, hg, hl, hm, bne_self_eq_false, Bool.false_eq_true, if_false]
theorem deferralSteps_eq {P : Platform} {d : Device} {gid k : Nat} {g : Group} {sp : Split} (hg : Tbl.find d.groups gid = some g) (hl : g.state = .live) (hk : splitOf g k = some sp) (hd : deferralDue g k sp = true) :
    deferralSteps gid k P d = d.modGroup gid fun _ => deferralApply d.clock (closing d g) k 17 g := by
  simp only [deferralSteps, hg, hk, hl, hd, beq_self_eq_true, Bool.and_self, if_true]
/-- A split whose merge point is reached stands at it. -/
theorem deferralDue_at {g : Group} {k : Nat} {sp : Split} {e : Deferral} (hd : deferralDue g k sp = true) (ht : topDeferral g k = some e) : sp.index = 0 ∧ e.merge = sp.pc := by
  simp only [deferralDue, atStart, ht, Bool.and_eq_true, beq_iff_eq] at hd
  exact ⟨hd.1.1, hd.2⟩
/-- A group found in a device after its change. -/
theorem find_replaced {d : Device} {gid : Nat} {g x : Group} (hg : Tbl.find d.groups gid = some g) : Tbl.find (d.modGroup gid fun _ => x).groups gid = some x := by
  rw [find_modGroup_same, hg]
  rfl
theorem regsOf_replaced {d : Device} {gid : Nat} {g x : Group} (hg : Tbl.find d.groups gid = some g) (hx : x.regs = g.regs) : regsOf (d.modGroup gid fun _ => x) gid = regsOf d gid := by
  rw [regsOf, find_replaced hg, regsOf, hg, Option.map_some, Option.map_some, hx]

end Sys2Proof.Machine

namespace Sys2Proof
open Machine

/-- Settles O25: each move is a change of its group's positions, splits or deferrals whose seats the lemmas above give; an exit erases its group and nothing brings it back. -/
theorem positionsSplitsAndGroupsChange : Obligations.positions_splits_and_groups_change := by
  unfold Obligations.positions_splits_and_groups_change
  refine ⟨⟨?swap, ?move, ?aged⟩, ⟨?merge, ?first, ?second⟩, ?exit, ?arrival⟩
  case swap =>
    intro core slot s out into rest hp hf ho hi hne
    have he : swapBlocked core slot s.plat s.dev = exchange (s.dev.modCore core fun k => { k with swaps := k.swaps.filter (fun x => [0, 1, 2, 3].any fun sl => sl != slot && pairStands s.dev core sl x) ++ rest }) core slot out into := by
      simp only [swapBlocked, hf, hp, ho, hi, Bool.not_true, Bool.false_eq_true, if_false]
    exact ⟨_, rfl, he ▸ exchange_keeps _ _ _ _ _, he ▸ exchange_positions core slot ho hi hne⟩
  case move =>
    intro core slot s p g hp ho hf hs hg
    have he : pendingMoves core slot s.plat s.dev = rebind (s.dev.modGroup g.id fun g => { g with pos := p, issueFrom := s.dev.clock + 2 }) core slot p g.pos := by
      simp only [pendingMoves, hp, ho, hf, hs, List.isEmpty_nil, Bool.and_self, if_true]
    refine ⟨_, rfl, he ▸ ⟨rfl, fun j => regsOf_moved _ _ _ _ _⟩, ?_⟩
    rw [he]
    exact (congrArg (Option.map _) (find_modGroup_same _ _ _)).trans (by rw [hg]; rfl)
  case aged =>
    intro core slot s out into hi ho hf hr hs hp hfo hfi hne
    have he : agedSwap core slot s.plat s.dev = exchange s.dev core slot out into := by
      simp only [agedSwap, hi, ho, hf, hs, hp, hr, List.isEmpty_nil, decide_true, Bool.not_false, Bool.and_self, if_true]
    exact ⟨_, rfl, he ▸ exchange_keeps _ _ _ _ _, he ▸ exchange_positions core slot hfo hfi hne⟩
  case merge =>
    intro gid s g a b hg hl hm ha hb
    obtain ⟨hlt, hi⟩ := mergePair_spec hm
    refine ⟨_, rfl, ?_⟩
    rw [splitsMerge_eq hg hl hm]
    refine ⟨⟨rfl, regsOf_replaced hg (mergeSplits_regs _ _ _ _ _)⟩, ?_, ?_⟩
    · exact (bind_seat3 (find_replaced hg)).trans (by rw [mergeSplits_seat ha hlt.ne, hi]; rfl)
    · rw [find_replaced hg, Option.map_some, mergeSplits_keys]
  case first =>
    intro gid k s g sp e hg hl hk ht hd h2
    refine ⟨_, rfl, ?_⟩
    rw [deferralSteps_eq hg hl hk hd]
    obtain ⟨hs, hds, hr⟩ := deferralApply_first (clock := s.dev.clock) (cl := closing s.dev g) (n := 16) hk ht h2
    refine ⟨⟨rfl, regsOf_replaced hg hr⟩, ?_, ?_⟩
    · exact (bind_seat3 (find_replaced hg)).trans (by rw [hs]; rfl)
    · rw [find_replaced hg, Option.map_some, hds]
  case second =>
    intro gid k s g sp e hg hl hk ht hd h2 hm
    obtain ⟨hi, hp⟩ := deferralDue_at hd ht
    refine ⟨_, rfl, ?_⟩
    rw [deferralSteps_eq hg hl hk hd]
    obtain ⟨hs, hds, hr⟩ := deferralApply_second (clock := s.dev.clock) (cl := closing s.dev g) (n := 16) hk ht h2 hm
    refine ⟨⟨rfl, regsOf_replaced hg hr⟩, ?_, ?_⟩
    · exact (bind_seat3 (find_replaced hg)).trans (by rw [hs, hp, hi, ite_self]; rfl)
    · rw [find_replaced hg, Option.map_some, hds]
  case exit =>
    intro gid s g hg hd
    exact ⟨_, rfl, find_groupExits hg hd⟩
  case arrival =>
    intro gid s g hg hs
    obtain ⟨hm, x, hx, hp, he⟩ := migrationArrives_spec (P := s.plat) hg hs
    injection hp with h1 h2
    injection h2 with h2 h3
    exact ⟨_, rfl, hm, x, hx, h1, h2, h3, he⟩

end Sys2Proof

namespace Sys2Proof.Machine
open Sys2Proof

/-! Lists of groups. -/

theorem mem_insertBy {α : Type} {le : α → α → Bool} {x y : α} {l : List α} : y ∈ insertBy le x l ↔ y = x ∨ y ∈ l := by
  induction l with
  | nil => simp [insertBy]
  | cons z l ih =>
    simp only [insertBy]
    split
    · simp
    · rw [List.mem_cons, ih, List.mem_cons]
      tauto
@[simp] theorem mem_sortBy {α : Type} {le : α → α → Bool} {y : α} {l : List α} : y ∈ sortBy le l ↔ y ∈ l := by
  induction l with
  | nil => simp [sortBy]
  | cons x l ih => rw [sortBy, mem_insertBy, ih, List.mem_cons]
theorem mem_vals {α : Type} {t : Tbl α} {k : Nat} {v : α} (h : Tbl.find t k = some v) : v ∈ Tbl.vals t := List.mem_map.2 ⟨_, mem_of_find h, rfl⟩
/-- A group of the device is among those of its team. -/
theorem mem_teamGroups {d : Device} {j tid : Nat} {g : Group} (hg : Tbl.find d.groups j = some g) (ht : g.team = tid) : g ∈ teamGroups d tid := by
  rw [teamGroups, mem_sortBy, List.mem_filter]
  exact ⟨mem_vals hg, by simp [ht]⟩
/-- Updates of each group of a list: what each keeps, and the one of group `j` establishes, holds after all of them. -/
theorem foldl_establishes {f : Device → Group → Device} {q : Group → Prop} {pre post : Device → Prop} {j : Nat} (other : ∀ d g, q g → g.id ≠ j → pre d → pre (f d g)) (own : ∀ d g, q g → g.id = j → pre d → post (f d g)) (keep : ∀ d g, q g → post d → post (f d g)) :
    ∀ (l : List Group) (d : Device), (∀ g ∈ l, q g) → (pre d ∧ ∃ g ∈ l, g.id = j) ∨ post d → post (l.foldl f d) := by
  intro l
  induction l with
  | nil =>
    rintro d - (⟨-, g, hg, -⟩ | h)
    · cases hg
    · exact h
  | cons x l ih =>
    intro d hq h
    have hx := hq x List.mem_cons_self
    have ih := fun h => ih (f d x) (fun g hg => hq g (List.mem_cons_of_mem _ hg)) h
    obtain ⟨hd, g, hg, hj⟩ | h := h
    · by_cases hxj : x.id = j
      · exact ih (.inr (own d x hx hxj hd))
      · obtain rfl | hg := List.mem_cons.1 hg
        · exact absurd hj hxj
        · exact ih (.inl ⟨other d x hx hxj hd, g, hg, hj⟩)
    · exact ih (.inr (keep d x hx h))

/-! Halts (R59, R375). -/

/-- What a halt changes of a group, as the fatal path and a cancel show it. -/
def Group.fate (g : Group) : Nat × Nat × GroupState × List Effect := (g.id, g.team, g.state, g.effects)
/-- Who a group is, with its effects: no end of a wait changes them. -/
def Group.who (g : Group) : Nat × Nat × List Effect := (g.id, g.team, g.effects)
theorem blind_fate : BlindToOthers Group.fate := fun _ _ _ _ _ _ _ => rfl
theorem blind_who : BlindToWaits Group.who := ⟨fun _ _ _ _ _ _ _ => rfl, fun _ _ _ _ => rfl⟩
/-- A halt of another group is not seen. -/
theorem viewAt_haltAt_other {α : Type} {r : Group → α} (hr : BlindToOthers r) (fatal : Bool) (d : Device) {gid j : Nat} (h : j ≠ gid) : viewAt r (haltAt fatal d gid) j = viewAt r d j := by
  simp only [haltAt]
  split
  · rfl
  · split
    · rfl
    · rw [viewAt_modGroup_other r _ _ h, viewAt_freeEntries hr, viewAt_groups r (e := freeTiles _ _ _) (d := freePosts _ _) rfl, viewAt_groups r (freePosts_groups _ _)]
      have dropped := viewAt_dropWait_other hr d h
      split
      · exact dropped
      · exact dropped
/-- The group halts, without its effects. -/
theorem fate_haltAt {fatal : Bool} {d : Device} {gid : Nat} {g : Group} (hg : Tbl.find d.groups gid = some g) (hs : g.state ≠ .halted) : viewAt Group.fate (haltAt fatal d gid) gid = some (g.id, g.team, .halted, []) := by
  simp only [haltAt, hg, beq_iff_eq, if_neg hs]
  have kept (os : List Op) : viewAt Group.who (freeEntries (freeTiles (freePosts (if fatal then leaveWait d gid else abandonWait d gid) g.effects) gid g.core) g.core os) gid = some g.who := by
    have dropped : viewAt Group.who (dropWait d gid) gid = some g.who := (viewAt_dropWait blind_who _ _ _).trans (congrArg _ hg)
    rw [viewAt_freeEntries blind_who.1, viewAt_groups _ (e := freeTiles _ _ _) (d := freePosts _ _) rfl, viewAt_groups _ (freePosts_groups _ _)]
    exact ite_leaves (viewAt Group.who · gid) dropped dropped
  obtain ⟨x, hx, hw⟩ := Option.map_eq_some_iff.1 (kept _)
  injection hw with hid ht
  injection ht with ht
  rw [viewAt, find_modGroup_same, hx, ← hid, ← ht]
  rfl
/-- One that has halted stays as it is. -/
theorem haltAt_halted {fatal : Bool} {d : Device} {gid : Nat} {g : Group} (hg : Tbl.find d.groups gid = some g) (hs : g.state = .halted) : haltAt fatal d gid = d := by
  simp only [haltAt, hg, hs, beq_self_eq_true, if_true]

/-- A group that has halted without what it held. -/
def haltedAs (g : Group) (d : Device) (j : Nat) : Prop := ∃ x, Tbl.find d.groups j = some x ∧ x.id = g.id ∧ x.team = g.team ∧ x.state = .halted ∧ (g.state ≠ .halted → x.effects = [])
theorem haltedAs_of_fate {g : Group} {d : Device} {j : Nat} {es : List Effect} (h : viewAt Group.fate d j = some (g.id, g.team, .halted, es)) (he : g.state ≠ .halted → es = []) : haltedAs g d j := by
  obtain ⟨x, hx, hf⟩ := Option.map_eq_some_iff.1 h
  simp only [Group.fate, Prod.mk.injEq] at hf
  obtain ⟨h1, h2, h3, h4⟩ := hf
  exact ⟨x, hx, h1, h2, h3, fun hs => h4.trans (he hs)⟩
/-- It stays so through every halt. -/
theorem haltedAs_haltAt {g : Group} {fatal : Bool} {d : Device} {gid j : Nat} (h : haltedAs g d j) : haltedAs g (haltAt fatal d gid) j := by
  by_cases hj : j = gid
  · obtain ⟨x, hx, -, -, hs, -⟩ := id h
    rw [hj] at hx
    rwa [haltAt_halted hx hs]
  · obtain ⟨x, hx, h1, h2, h3, h4⟩ := h
    refine haltedAs_of_fate (es := x.effects) ?_ h4
    rw [viewAt_haltAt_other blind_fate _ _ hj, viewAt, hx, Option.map_some, Group.fate, h1, h2, h3]


/-! The end of a grace (R59). -/

/-- At the end of its grace every group of a team has halted, without effects. -/
theorem fate_graceFold {l : List Group} {d : Device} {h : Group} (hd : Tbl.find d.groups h.id = some h) (hl : h ∈ l) :
    viewAt (fun x => (x.state, x.effects)) (l.foldl (fun d g => discardEffects (haltGroup d g.id) g.id) d) h.id = some (.halted, []) := by
  let f (d : Device) (g : Group) : Device := discardEffects (haltGroup d g.id) g.id
  have discarded (d : Device) (i : Nat) {x : Group} (hx : Tbl.find d.groups i = some x) (hs : x.state = .halted) : viewAt (fun x => (x.state, x.effects)) (discardEffects d i) i = some (.halted, []) := by
    rw [viewAt, discardEffects_groups, find_modify_same, hx, ← hs]
    rfl
  have apart (d : Device) {g : Group} (hj : g.id ≠ h.id) (j : Nat → Prop := fun _ => True) : viewAt Group.fate (f d g) h.id = viewAt Group.fate d h.id := by
    refine Eq.trans ?_ (viewAt_haltAt_other blind_fate false d hj.symm)
    rw [viewAt, discardEffects_groups, find_modify_other _ _ _ _ hj.symm]
    rfl
  refine foldl_establishes (pre := fun d => viewAt Group.fate d h.id = some h.fate) (post := fun d => viewAt (fun x => (x.state, x.effects)) d h.id = some (.halted, [])) (f := f) (q := fun _ => True) (j := h.id)
    (fun d g _ hj hp => (apart d hj).trans hp) (fun d g _ hj hp => ?_) (fun d g _ hp => ?_) l d (fun _ _ => trivial) (.inl ⟨congrArg _ hd, h, hl, rfl⟩)
  · obtain ⟨x, hx, hf⟩ := Option.map_eq_some_iff.1 hp
    simp only [f, hj]
    by_cases hs : x.state = .halted
    · rw [haltGroup, haltAt_halted hx hs]
      exact discarded d h.id hx hs
    · obtain ⟨y, hy, hf⟩ := Option.map_eq_some_iff.1 (fate_haltAt (fatal := false) hx hs)
      simp only [Group.fate, Prod.mk.injEq] at hf
      exact discarded _ h.id hy hf.2.2.1
  · obtain ⟨x, hx, hf⟩ := Option.map_eq_some_iff.1 hp
    by_cases hj : g.id = h.id
    · simp only [f, hj]
      have hs : x.state = .halted := congrArg (·.1) hf
      rw [haltGroup, haltAt_halted hx hs]
      exact discarded d h.id hx hs
    · have hv := apart d hj
      have := congrArg (Option.map fun y : Nat × Nat × GroupState × List Effect => y.2.2) hv
      simp only [viewAt, Option.map_map] at this
      exact this.trans hp

/-! The fatal path (R375). -/

/-- What a device shows of what no operation of groups changes. -/
theorem of_beside {β : Type} (p : Device → β) (hp : ∀ d, p d.beside = p d) {d e : Device} (h : d.beside = e.beside) : p d = p e := by rw [← hp d, h, hp]

/-- A view of an entry that a change at a key keeps. -/
theorem map_find_modify {α β : Type} (r : α → β) (t : Tbl α) (k j : Nat) (f : α → α) (h : ∀ x, r (f x) = r x) : (Tbl.find (Tbl.modify f t k) j).map r = (Tbl.find t j).map r := by
  by_cases hj : j = k
  · rw [hj, find_modify_same, Option.map_map]
    exact congrArg (Option.map · _) (funext h)
  · rw [find_modify_other _ _ _ _ hj]
/-- How far the fatal path of a team has come. -/
def Team.path (t : Team) : Nat × TeamState × Bool := (t.id, t.state, t.stopped)
/-- What the end of a copy leaves: the groups, the jobs and how far teams have come on the fatal path. -/
def Device.paths (tid : Nat) (d : Device) : Tbl Group × Tbl Job × Option (Nat × TeamState × Bool) := (d.groups, d.jobs, (Tbl.find d.teams tid).map Team.path)
theorem paths_modTeam (j : Nat) (d : Device) (k : Nat) (f : Team → Team) (h : ∀ t, (f t).path = t.path) : (d.modTeam k f).paths j = d.paths j := congrArg (fun x => (d.groups, d.jobs, x)) (map_find_modify Team.path d.teams k j f h)
theorem paths_cores (j : Nat) (d : Device) (x : Tbl Core) : ({ d with cores := x } : Device).paths j = d.paths j := rfl
theorem paths_wakeWith (j : Nat) (d : Device) (g n st : Nat) (c : DieClock) : (wakeWith d g n st c).paths j = d.paths j := by
  simp only [wakeWith]
  split <;> rfl
theorem paths_timelineDone (j : Nat) (d : Device) (die tid tl n code x : Nat) : (timelineDone d die tid tl n code x).paths j = d.paths j := by
  simp only [timelineDone]
  split
  · rfl
  · rw [foldl_leaves (Device.paths j) fun d (g : Group) => paths_wakeWith j d g.id 1 0 _]
    exact paths_modTeam _ _ _ _ fun _ => rfl
theorem paths_dropCopy (j : Nat) (d : Device) (o : CopyOp) : (dropCopy d o).paths j = d.paths j := by
  simp only [dropCopy]
  exact paths_modTeam _ _ _ _ fun _ => rfl
theorem paths_endStalled (j : Nat) (d : Device) (o : CopyOp) : (endStalled d o).paths j = d.paths j := by
  simp only [endStalled]
  split
  · simp only [endCopy]
    rw [paths_timelineDone, paths_dropCopy]
    exact ite_leaves (Device.paths j) rfl (paths_cores j d _)
  · rfl
/-- The team whose groups the fatal path halts, once it has halted them. -/
def fatalStopped (d : Device) (t : Team) : Device :=
  let others := (teamGroups d t.id).filter fun h => h.state != .halted
  let locks := others.flatMap (groupLocks d)
  let d := others.foldl (fun d h => haltAt true d h.id) d
  let d := ((Tbl.vals d.clusters).flatMap fun c => c.copies.filter fun o => o.team == t.id).foldl endStalled d
  d.modTeam t.id fun t => { t with stopped := true, dump := t.dump.map fun x => { x with locks := x.locks ++ locks } }
theorem fatalSpreads_eq {P : Platform} {d : Device} {gid : Nat} {g : Group} {t : Team} (hg : Tbl.find d.groups gid = some g) (ht : Tbl.find d.teams g.team = some t) (hs : g.state = .halted) (hf : t.state = .fatal) (hn : t.stopped = false) :
    fatalSpreads gid P d = fatalGoesOn P (fatalStopped d t) t.id := by
  simp only [fatalSpreads, hg, ht, Option.bind_some, Option.map_some, hs, hf, hn, bne_self_eq_false, Bool.or_false, Bool.false_eq_true, if_false]
  rfl
/-- The groups of the team have halted, and the team has stopped; jobs are as they were. -/
theorem fatalStopped_spec {d : Device} {t : Team} (ht : Tbl.find d.teams t.id = some t) (hf : t.state = .fatal) :
    (fatalStopped d t).jobs = d.jobs ∧ (Tbl.find (fatalStopped d t).teams t.id).map Team.path = some (t.id, .fatal, true) ∧
    ∀ h, Tbl.find d.groups h.id = some h → h.team = t.id → haltedAs h (fatalStopped d t) h.id := by
  let others := (teamGroups d t.id).filter fun h => h.state != .halted
  let halted := others.foldl (fun d h => haltAt true d h.id) d
  let ended := ((Tbl.vals halted.clusters).flatMap fun c => c.copies.filter fun o => o.team == t.id).foldl endStalled halted
  have hb : halted.beside = d.beside := foldl_leaves Device.beside (fun d (h : Group) => beside_haltAt true d h.id) _ _
  have he : ended.paths t.id = halted.paths t.id := foldl_leaves (Device.paths t.id) (paths_endStalled t.id) _ _
  have hg : ended.groups = halted.groups := congrArg (·.1) he
  have hj : ended.jobs = d.jobs := (congrArg (·.2.1) he).trans (of_beside Device.jobs (fun _ => rfl) hb)
  have ht' : (Tbl.find ended.teams t.id).map Team.path = some t.path := (congrArg (·.2.2) he).trans ((congrArg (fun ts => (Tbl.find ts t.id).map Team.path) (of_beside Device.teams (fun _ => rfl) hb)).trans (congrArg _ ht))
  refine ⟨hj, ?_, fun h hh hteam => ?_⟩
  · obtain ⟨x, hx, hp⟩ := Option.map_eq_some_iff.1 ht'
    refine (congrArg (Option.map Team.path) ((find_modify_same _ _ _).trans (congrArg _ hx))).trans ?_
    simp only [Team.path, Prod.mk.injEq] at hp
    obtain ⟨h1, h2, -⟩ := hp
    simp only [Option.map_some, Team.path, h1, h2, hf]
  · obtain ⟨x, hx, hr⟩ : haltedAs h halted h.id := by
      refine foldl_establishes (pre := fun d => h.state ≠ .halted ∧ viewAt Group.fate d h.id = some h.fate) (post := fun d => haltedAs h d h.id) (q := fun _ => True) (j := h.id) (fun e g _ hne hp => ⟨hp.1, (viewAt_haltAt_other blind_fate _ _ (Ne.symm hne)).trans hp.2⟩) (fun e g _ hj hp => ?_) (fun e g _ hp => haltedAs_haltAt hp) others d (fun _ _ => trivial) ?_
      · obtain ⟨hs, hp⟩ := hp
        obtain ⟨x, hx, hx'⟩ := Option.map_eq_some_iff.1 hp
        simp only [Group.fate, Prod.mk.injEq] at hx'
        obtain ⟨h1, h2, h3, -⟩ := hx'
        refine haltedAs_of_fate (es := []) ?_ fun _ => rfl
        have hf := fate_haltAt (fatal := true) hx (h3 ▸ hs)
        rw [h1, h2] at hf
        rw [hj, hf]
      · by_cases hs : h.state = .halted
        · exact .inr ⟨h, hh, rfl, rfl, hs, fun hn => absurd hs hn⟩
        · exact .inl ⟨⟨hs, congrArg _ hh⟩, h, List.mem_filter.2 ⟨mem_teamGroups hh hteam, by simpa using hs⟩, rfl⟩
    exact ⟨x, (congrArg (Tbl.find · h.id) hg).trans hx, hr⟩


/-- A group of which every lock is on its way to be released. -/
def onlyGoing (g : Group) (d : Device) (j : Nat) : Prop := ∃ x, Tbl.find d.groups j = some x ∧ x.id = g.id ∧ x.team = g.team ∧ x.state = .halted ∧ (g.state ≠ .halted → x.effects = []) ∧ ∀ l ∈ x.locks, l ∈ goingLines x
theorem poisoned_groups (P : Platform) (d : Device) (i : Nat) : (poisonLocks P (removeWaiter d i) i).groups = Tbl.modify Group.passLocks d.groups i := poisonLocks_groups P _ i
/-- Passing its locks leaves a group those only. -/
theorem onlyGoing_passed {g : Group} {P : Platform} {d : Device} {j : Nat} (h : haltedAs g d j) : onlyGoing g (poisonLocks P (removeWaiter d j) j) j := by
  obtain ⟨x, hx, h1, h2, h3, h4⟩ := h
  refine ⟨x.passLocks, by rw [poisoned_groups, find_modify_same, hx]; rfl, h1, h2, h3, h4, fun l hl => ?_⟩
  exact List.contains_iff_mem.1 (List.mem_filter.1 hl).2
theorem haltedAs_of_onlyGoing {g : Group} {d : Device} {j : Nat} (h : onlyGoing g d j) : haltedAs g d j := by
  obtain ⟨x, hx, h1, h2, h3, h4, -⟩ := h
  exact ⟨x, hx, h1, h2, h3, h4⟩
/-- So another group's passing leaves it. -/
theorem haltedAs_passed_other {g : Group} {P : Platform} {d : Device} {i j : Nat} (hj : j ≠ i) (h : haltedAs g d j) : haltedAs g (poisonLocks P (removeWaiter d i) i) j := by
  obtain ⟨x, hx, hr⟩ := h
  exact ⟨x, by rw [poisoned_groups, find_modify_other _ _ _ _ hj, hx], hr⟩
theorem onlyGoing_kept {g : Group} {P : Platform} {d : Device} {i j : Nat} (h : onlyGoing g d j) : onlyGoing g (poisonLocks P (removeWaiter d i) i) j := by
  by_cases hj : j = i
  · subst hj
    exact onlyGoing_passed (haltedAs_of_onlyGoing h)
  · obtain ⟨x, hx, hr⟩ := h
    exact ⟨x, by rw [poisoned_groups, find_modify_other _ _ _ _ hj, hx], hr⟩
/-- The fatal path goes on: teams and jobs keep what they show of it, and once the copies are drained every group of the team holds no lock but those on their way. -/
theorem fatalGoesOn_spec {P : Platform} {d : Device} {tid : Nat} (ht : (Tbl.find d.teams tid).map Team.path = some (tid, .fatal, true)) :
    (fatalGoesOn P d tid).jobs = d.jobs ∧ (Tbl.find (fatalGoesOn P d tid).teams tid).map (·.stopped) = some true ∧
    ∀ h : Group, haltedAs h d h.id → h.team = tid → haltedAs h (fatalGoesOn P d tid) h.id ∧ ((Tbl.find (fatalGoesOn P d tid).teams tid).map enginesQuiet = some true → onlyGoing h (fatalGoesOn P d tid) h.id) := by
  obtain ⟨t, ht, hp⟩ := Option.map_eq_some_iff.1 ht
  simp only [Team.path, Prod.mk.injEq] at hp
  obtain ⟨h1, h2, h3⟩ := hp
  simp only [fatalGoesOn, ht, h1, h2, h3, bne_self_eq_false, Bool.not_true, Bool.false_or]
  by_cases hq : enginesQuiet t = true
  · simp only [hq, Bool.not_true, Bool.false_eq_true, if_false]
    let passed := (teamGroups d tid).foldl (fun d h => poisonLocks P (removeWaiter d h.id) h.id) d
    have hb : passed.beside = d.beside := foldl_leaves Device.beside (fun d (h : Group) => beside_poisonLocks P (removeWaiter d h.id) h.id) _ _
    have teams : passed.teams = d.teams := of_beside Device.teams (fun _ => rfl) hb
    have jobs : passed.jobs = d.jobs := of_beside Device.jobs (fun _ => rfl) hb
    have going (h : Group) (hh : haltedAs h d h.id) (hteam : h.team = tid) : onlyGoing h passed h.id := by
      obtain ⟨x, hx, h1, h2, -⟩ := id hh
      exact foldl_establishes (pre := fun d => haltedAs h d h.id) (post := fun d => onlyGoing h d h.id) (q := fun _ => True) (j := h.id) (fun e g _ hne hp => haltedAs_passed_other (Ne.symm hne) hp) (fun e g _ hj hp => hj ▸ onlyGoing_passed (hj ▸ hp))
        (fun e g _ hp => onlyGoing_kept hp) _ d (fun _ _ => trivial) (.inl ⟨hh, x, mem_teamGroups hx (h2.trans hteam), h1⟩)
    split
    · exact ⟨jobs, by rw [teams, ht, Option.map_some, h3], fun h hh hteam => ⟨haltedAs_of_onlyGoing (going h hh hteam), fun _ => going h hh hteam⟩⟩
    · refine ⟨jobs, ?_, fun h hh hteam => ⟨haltedAs_of_onlyGoing (going h hh hteam), fun _ => going h hh hteam⟩⟩
      refine (map_find_modify Team.stopped _ _ _ _ ?_).trans ?_
      · exact fun _ => rfl
      · exact (congrArg (fun ts => (Tbl.find ts tid).map Team.stopped) teams).trans (by rw [ht, Option.map_some, h3])
  · simp only [Bool.not_eq_true] at hq
    simp only [hq, Bool.not_false, if_true, ht, Option.map_some, Option.some.injEq, Bool.false_eq_true, false_implies, and_true]
    exact ⟨trivial, h3, fun h hh _ => hh⟩


/-! Dumps (R377, R379). -/

/-- A body without poison is written as it is. -/
theorem clean_body (body : List Byte) : (((List.range body.length).zip body).map fun e => if ([] : List Nat).contains e.1 then 0 else e.2) = body := by
  simp only [List.contains_nil, Bool.false_eq_true, if_false]
  exact List.map_snd_zip (List.length_range (n := body.length)).ge
/-- The next section of a dump with room for it and nothing poisoned in it is written behind those before it. -/
theorem dumpNext_section {P : Platform} {d : Device} {t : Team} {x : DumpState} {kind gid : Nat} {body : List Byte} {rest : List DumpPart} (hx : x.sections = some (⟨kind, gid, body⟩ :: rest)) (h2 : x.second = none) (hc : t.cancelled = false)
    (hs : x.offset + x.length + 16 + body.length ≤ x.size) (hb : badBytes d t kind body.length x.length = [])
    (hw : (engineRun P t.job (edgeDie t.cluster) d (BitVec.ofNat 64 (x.base + x.offset + x.length)) (sectionBytes d kind gid body)).2 = true) :
    dumpNext P d t x = (engineRun P t.job (edgeDie t.cluster) d (BitVec.ofNat 64 (x.base + x.offset + x.length)) (sectionBytes d kind gid body)).1.modTeam t.id
      fun t => { t with dump := some { x with length := x.length + 16 + body.length, written := x.written + 1, sections := some rest } } := by
  simp only [dumpNext, hx, Option.getD_some, hc, Bool.false_and, Bool.false_eq_true, if_false, if_neg (Nat.not_lt.2 hs), hb, clean_body, hw, Bool.not_true, h2]

/-! Cancels (R59). -/

/-- What beside groups a team's leaving keeps of the launches, and of the other teams. -/
theorem teamGone_works (P : Platform) (d : Device) (t : Team) (tid : Nat) : (teamGone P d t tid).teams = Tbl.erase d.teams tid ∧ (teamGone P d t tid).launches = d.launches := by
  let freed := (((Tbl.vals (freeTeamUnits d t).groups).filter fun g => g.team == tid).map (·.id)).foldl (fun d g => freeGroup P d g) (freeTeamUnits d t)
  have units : (freeTeamUnits d t).beside = d.beside := foldl_leaves Device.beside (fun d (e : Nat × Nat) => beside_freeDrawer d e.1 e.2) _ _
  have hb : freed.beside = d.beside := (foldl_leaves Device.beside (fun d g => beside_freeGroup P d g) _ _).trans units
  have launches : freed.launches = d.launches := of_beside Device.launches (fun _ => rfl) hb
  exact ⟨congrArg (Tbl.erase · tid) (of_beside Device.teams (fun _ => rfl) hb), launches⟩
/-- A launch counts a team less, and no team changes with it. -/
theorem teamCounted_works (d : Device) (t : Team) (how : TeamEnd) (orphan : Bool) (l : Launch) :
    (teamCounted d t how orphan l).teams = d.teams ∧ (Tbl.find (teamCounted d t how orphan l).launches l.id).map (·.left) = (Tbl.find d.launches l.id).map fun x => x.left - 1 := by
  let marked := if orphan then markOrphan d l else d
  have marks : (marked.teams, (Tbl.find marked.launches l.id).map Launch.left) = (d.teams, (Tbl.find d.launches l.id).map Launch.left) := by
    refine ite_leaves (fun e => (e.teams, (Tbl.find e.launches l.id).map Launch.left)) ?_ rfl
    have flagged : (Tbl.find (Tbl.modify (fun (x : Launch) => { x with flags := x.flags ||| 2 }) d.launches l.id) l.id).map Launch.left = (Tbl.find d.launches l.id).map Launch.left := map_find_modify Launch.left _ _ _ _ fun _ => rfl
    simp only [markOrphan]
    repeat' split
    all_goals exact congrArg (Prod.mk d.teams) flagged
  simp only [Prod.mk.injEq] at marks
  obtain ⟨h1, h2⟩ := marks
  have sent := works_chunkSent marked t how l
  simp only [Device.works, Prod.mk.injEq] at sent
  obtain ⟨-, s1, s2⟩ := sent
  refine ⟨s1.trans h1, (congrArg (Option.map Launch.left) (find_modify_same _ _ _)).trans ?_⟩
  rw [s2, Option.map_map]
  exact (Option.map_map (· - 1) Launch.left _).symm.trans ((congrArg _ h2).trans (Option.map_map _ _ _))
/-- A launch with teams left does not complete. -/
theorem checkLaunch_left {P : Platform} {d : Device} {lid n : Nat} (h : (Tbl.find d.launches lid).map (·.left) = some n) (hn : n ≠ 0) : checkLaunch P d lid = d := by
  obtain ⟨l, hl, rfl⟩ := Option.map_eq_some_iff.1 h
  simp only [checkLaunch, hl, bne_iff_ne.2 hn, Bool.or_true, if_true]
/-- A team of a launch with others left completes: it is gone, and its launch counts one less. -/
theorem completeTeam_counts {P : Platform} {d : Device} {tid : Nat} {t : Team} {how : TeamEnd} {l : Launch} (ht : Tbl.find d.teams tid = some t) (hl : launchOf d t = some l) (hf : Tbl.find d.launches l.id = some l) (h1 : 1 < l.left) :
    Tbl.find (completeTeam P d tid how).teams tid = none ∧ (Tbl.find (completeTeam P d tid how).launches l.id).map (·.left) = some (l.left - 1) := by
  obtain ⟨orphan, he⟩ := completeTeam_eq (P := P) (how := how) ht
  obtain ⟨hteams, hlaunches⟩ := teamGone_works P d t tid
  obtain ⟨cteams, claunches⟩ := teamCounted_works (teamGone P d t tid) t how orphan l
  have hl' : launchOf (teamGone P d t tid) t = some l := by rw [launchOf, hlaunches]; exact hl
  rw [hlaunches, hf, Option.map_some] at claunches
  rw [he, hl']
  simp only [checkLaunch_left claunches (by omega)]
  have works := works_checkJob P (teamCounted (teamGone P d t tid) t how orphan l) t.job
  simp only [Device.works, Prod.mk.injEq] at works
  obtain ⟨-, w1, w2⟩ := works
  rw [w1, w2, cteams, hteams, find_erase_same]
  exact ⟨rfl, claunches⟩

end Sys2Proof.Machine

namespace Sys2Proof
open Machine

/-- Settles O32: the folds of the fatal path and of a grace halt each group and keep what has halted; a dump's section and a team's completion are what the model's functions make of them. -/
theorem fatalPathAndCancelsEnd : Obligations.fatal_path_and_cancels_end := by
  unfold Obligations.fatal_path_and_cancels_end
  refine ⟨?fault, ?waits, ?section_, ?grace, ?discard⟩
  case fault =>
    intro gid s g t j hg ht hid hs hf hn hj
    obtain ⟨jobs, path, halted⟩ := fatalStopped_spec (hid ▸ ht) hf
    obtain ⟨jobs', stopped, goes⟩ := fatalGoesOn_spec (P := s.plat) path
    refine ⟨_, rfl, ?_⟩
    rw [fatalSpreads_eq hg ht hs hf hn, ← hid]
    refine ⟨stopped, ?_, fun h hh hteam => ?_⟩
    · rw [Device.job, jobs', jobs]
      exact congrArg _ hj
    · obtain ⟨⟨x, hx, -, -, hs, he⟩, hl⟩ := goes h (halted h hh hteam) hteam
      refine ⟨x, hx, hs, he, fun hq => ?_⟩
      obtain ⟨y, hy, -, -, -, -, hl⟩ := hl hq
      cases hx.symm.trans hy
      exact hl
  case waits =>
    intro job s j tid t x hj hd ht hx hsec hsav
    refine ⟨_, rfl, ?_⟩
    simp only [dumpSteps, hj, hd, ht, hx, hsec, hsav, Option.bind_some, Option.isSome_none, Bool.false_eq_true, if_false]
  case section_ =>
    intro job s j tid t x kind gid body rest hj hd ht hid hx hsec h2 hc w hs hb hw
    refine ⟨_, rfl, ?_⟩
    simp only [dumpSteps, hj, hd, ht, hx, hsec, Option.bind_some, Option.isSome_some, if_true]
    rw [dumpNext_section hsec h2 hc hs hb hw, hid]
  case grace =>
    intro tid s t c ht hs hc hle
    have he : graceExpires tid s.plat s.dev = (teamGroups s.dev tid).foldl (fun d g => discardEffects (haltGroup d g.id) g.id) s.dev := by
      simp only [graceExpires, ht, hc, hs, hle, beq_self_eq_true, decide_true, Bool.and_self, if_true]
    refine ⟨_, rfl, ?_⟩
    rw [he]
    refine ⟨mem_of_beside (foldl_leaves Device.beside (fun d (g : Machine.Group) => ?_) _ _), fun h hh hteam => fate_graceFold hh (mem_teamGroups hh hteam)⟩
    rw [beside_discardEffects, haltGroup, beside_haltAt]
  case discard =>
    intro tid s t l ht hs hq hh hl hf h1
    have he : cancelDiscards tid s.plat s.dev = completeTeam s.plat s.dev tid .cancelled := by
      simp only [cancelDiscards, ht, hs, hq, hh, beq_self_eq_true, Bool.and_self, if_true]
    refine ⟨_, rfl, ?_⟩
    rw [he]
    exact completeTeam_counts ht hl hf h1

end Sys2Proof

namespace Sys2Proof.Machine
open Sys2Proof

/-! Placements (R34, R346). -/

/-- Tables of jobs with the same translation roots. -/
def sameRoots (js ks : Tbl Job) : Prop := ∀ j, (Tbl.find js j).map Job.xroot = (Tbl.find ks j).map Job.xroot
/-- What the choice of a queue changes: the scheduler's record, and jobs but for their translation. -/
theorem resetRot_eq (d : Device) (S : List Nat) (but : Option Nat) : ∃ js, resetRot d S but = { d with jobs := js } ∧ sameRoots js d.jobs := by
  have fold (l : List Nat) : ∀ d : Device, ∃ js, l.foldl (fun d j => d.modJob j fun j => { j with rot := false }) d = { d with jobs := js } ∧ sameRoots js d.jobs := by
    induction l with
    | nil => exact fun d => ⟨d.jobs, rfl, fun _ => rfl⟩
    | cons x l ih =>
      intro d
      obtain ⟨js, h, hr⟩ := ih (d.modJob x fun j => { j with rot := false })
      exact ⟨js, h, fun j => (hr j).trans (map_find_modify Job.xroot _ _ _ _ fun _ => by rfl)⟩
  simp only [resetRot]
  split
  · exact fold _ d
  · exact ⟨d.jobs, rfl, fun _ => rfl⟩
theorem served_eq (d : Device) (S : List Nat) (j : Nat) : ∃ sc js, served (resetRot (schedActs d) S none) j = { d with sched := sc, jobs := js } ∧ sameRoots js d.jobs := by
  obtain ⟨js, h, hr⟩ := resetRot_eq (schedActs d) S none
  exact ⟨_, _, by rw [h]; rfl, fun k => (map_find_modify Job.xroot _ _ _ _ fun _ => by rfl).trans (hr k)⟩

/-- What a team's placement shows of a group. -/
def Group.placed (g : Group) : Nat × Nat × Nat × GroupState × List (Nat × DWord × Mask) := (g.team, g.index, g.core, g.state, g.splits.map fun e => (e.1, e.2.pc, e.2.mask))
/-- The group a seed starts stands at its entry. -/
theorem find_startGroup_same (d : Device) (x : GroupSeed) : ∃ g, Tbl.find (startGroup d x).groups d.nextId = some g ∧ g.placed = (x.team, x.index, x.core, .live, [(0, x.entry, x.lanes)]) :=
  ⟨_, find_set_same _ _ _, rfl⟩
theorem find_startGroup_other (d : Device) (x : GroupSeed) {j : Nat} (h : j ≠ d.nextId) : Tbl.find (startGroup d x).groups j = Tbl.find d.groups j := find_set_other _ _ _ _ h
theorem acquire_mem (d : Device) (gid : Nat) : (acquire d gid).mem = d.mem := by
  simp only [acquire]
  split <;> rfl
theorem acquire_teams (d : Device) (gid : Nat) : (acquire d gid).teams = d.teams := by
  simp only [acquire]
  split <;> rfl
theorem acquire_nextId (d : Device) (gid : Nat) : (acquire d gid).nextId = d.nextId := by
  simp only [acquire]
  split <;> rfl
/-- An acquire changes no more of its group than the notices it carries. -/
theorem view_acquire {α : Type} (r : Group → α) (h : ∀ (g : Group) c, r { g with carry := c } = r g) (d : Device) (gid j : Nat) : viewAt r (acquire d gid) j = viewAt r d j := by
  simp only [acquire]
  split
  · rfl
  · exact viewAt_modGroup r d gid j _ fun g => h g _
/-- The groups of a team, started in ascending index, each on the core of its index. -/
theorem startGroups_spec (t : Team) (cl : Nat) (d : Device) (n : Nat) :
    let e := (List.range n).foldl (startGroups t cl) d
    e.mem = d.mem ∧ e.teams = d.teams ∧ e.nextId = d.nextId + n ∧ ∀ i < n, viewAt Group.placed e (d.nextId + i) = some (t.id, i, 4 * cl + i % 4, .live, [(0, t.entry, BitVec.ofNat 32 (2 ^ t.lanes - 1))]) := by
  induction n with
  | zero => exact ⟨rfl, rfl, rfl, fun _ h => absurd h (Nat.not_lt_zero _)⟩
  | succ n ih =>
    obtain ⟨hm, ht, hn, hg⟩ := ih
    simp only [List.range_succ, List.foldl_append, List.foldl_cons, List.foldl_nil]
    generalize (List.range n).foldl (startGroups t cl) d = e at hm ht hn hg ⊢
    refine ⟨(acquire_mem _ _).trans hm, (acquire_teams _ _).trans ht, (acquire_nextId _ _).trans (congrArg (· + 1) hn), fun i hi => ?_⟩
    rw [startGroups, view_acquire Group.placed fun _ _ => rfl]
    by_cases h : i = n
    · obtain ⟨g, hf, hp⟩ := find_startGroup_same e { job := t.job, team := t.id, index := n, task := false, core := 4 * cl + n % 4, slot := (nextPlace e (4 * cl + n % 4)).1, pos := (nextPlace e (4 * cl + n % 4)).2, lanes := BitVec.ofNat 32 (2 ^ t.lanes - 1), entry := t.entry, s0 := t.s0, s2 := t.s2, step := t.step }
      rw [h, ← hn, viewAt, hf, Option.map_some, hp]
    · rw [viewAt, find_startGroup_other _ _ (by omega)]
      exact hg i (by omega)
/-- The room of a team, which its cluster holds for it before its groups start. -/
def teamSeated (P : Platform) (d : Device) (t : Team) (cl : Nat) : Device :=
  let base := (windowBase d cl [] t.windowSize).getD 0
  let i := (d.poolDrawer (4 * cl)).getD 64
  let place := freePlace d cl
  let d := (noteCluster P d t cl).fromCommand (cl / 32)
  let d := (d.setDrawer (4 * cl) i { Drawer.free (d.drawer (4 * cl) i).gen with kind := 3, team := t.id, quota := BitVec.ofNat 32 t.groups }).modTeam t.id fun t =>
    { t with state := .placing, cluster := cl, place, base, window := [], windowPoison := [], residentSince := d.clock, quantumOver := false, tls := List.replicate 16 Timeline.start, drawer := i }
  d.modJob t.job fun j => { j with queued := j.queued.filter (· != t.id) }
theorem placeTeam_eq (P : Platform) (d : Device) (t : Team) (cl : Nat) : placeTeam P d t cl = ((List.range t.groups).foldl (startGroups t cl) (teamSeated P d t cl)).modTeam t.id fun t => { t with state := .resident } := rfl
theorem noteCluster_eq (P : Platform) (d : Device) (t : Team) (cl : Nat) : ∃ sc, noteCluster P d t cl = { d with sched := sc } := by
  simp only [noteCluster]
  split
  · exact ⟨d.sched, rfl⟩
  · exact ⟨_, rfl⟩
theorem teamSeated_spec (P : Platform) {d : Device} {t x : Team} (cl : Nat) (ht : Tbl.find d.teams t.id = some x) :
    (teamSeated P d t cl).mem = d.mem ∧ (teamSeated P d t cl).nextId = d.nextId ∧ (Tbl.find (teamSeated P d t cl).teams t.id).map (·.cluster) = some cl := by
  obtain ⟨sc, h⟩ := noteCluster_eq P d t cl
  simp only [teamSeated, h]
  refine ⟨rfl, rfl, (congrArg (Option.map Team.cluster) ((find_modify_same _ _ _).trans (congrArg _ ht))).trans rfl⟩
/-- A team that is placed is resident on its cluster, with its groups. -/
theorem placeTeam_spec (P : Platform) {d : Device} {t x : Team} (cl : Nat) (ht : Tbl.find d.teams t.id = some x) :
    (placeTeam P d t cl).mem = d.mem ∧ (Tbl.find (placeTeam P d t cl).teams t.id).map (fun x => (x.state, x.cluster)) = some (.resident, cl) ∧
      ∀ i < t.groups, viewAt Group.placed (placeTeam P d t cl) (d.nextId + i) = some (t.id, i, 4 * cl + i % 4, .live, [(0, t.entry, BitVec.ofNat 32 (2 ^ t.lanes - 1))]) := by
  obtain ⟨hm, hn, hc⟩ := teamSeated_spec P cl ht
  obtain ⟨gm, gt, -, gg⟩ := startGroups_spec t cl (teamSeated P d t cl) t.groups
  rw [placeTeam_eq]
  refine ⟨gm.trans hm, ?_, fun i hi => hn ▸ gg i hi⟩
  obtain ⟨y, hy, rfl⟩ := Option.map_eq_some_iff.1 hc
  exact (congrArg (Option.map _) ((find_modify_same _ _ _).trans (congrArg _ ((congrArg (Tbl.find · t.id) gt).trans hy)))).trans rfl


/-! Swap-outs (R61, R373). -/

/-- Which group a group is. -/
def Group.ident (g : Group) : Nat × Nat := (g.id, g.team)
theorem blind_ident : BlindToWaits Group.ident := ⟨fun _ _ _ _ _ _ _ => rfl, fun _ _ _ _ => rfl⟩
theorem ident_bumpDrawer (d : Device) (g : Group) (j : Nat) : viewAt Group.ident (bumpDrawer d g) j = viewAt Group.ident d j :=
  (viewAt_modGroup _ _ g.id j (fun h => { h with waitSeq := h.waitSeq + 1 }) fun _ => rfl).trans (viewAt_setDrawerOf blind_ident.1 _ _ _ _)
/-- What of a preempted group's wait is given up (R62). -/
def waitLeft (d : Device) (gid : Nat) (g : Group) : Device :=
  let d := if keptWait g.wait then removeMisses d gid else if g.wait.isSome then abandonWait d gid else removeVerLoads (removeMisses d gid) gid
  if (match g.wait with | some (.trap _) => true | _ => false) then bumpDrawer d g else d
theorem ident_waitLeft (d : Device) (gid j : Nat) (g : Group) : viewAt Group.ident (waitLeft d gid g) j = viewAt Group.ident d j := by
  have left : viewAt Group.ident (if keptWait g.wait then removeMisses d gid else if g.wait.isSome then abandonWait d gid else removeVerLoads (removeMisses d gid) gid) j = viewAt Group.ident d j :=
    ite_leaves (viewAt Group.ident · j) rfl (ite_leaves (viewAt Group.ident · j) ((viewAt_groups _ (abandonWait_groups _ _) _).trans (viewAt_dropWait blind_ident _ _ _)) rfl)
  simp only [waitLeft]
  exact ite_leaves (viewAt Group.ident · j) ((ident_bumpDrawer _ _ _).trans left) left
theorem beside_waitLeft (d : Device) (gid : Nat) (g : Group) : (waitLeft d gid g).beside = d.beside := by
  have left : (if keptWait g.wait then removeMisses d gid else if g.wait.isSome then abandonWait d gid else removeVerLoads (removeMisses d gid) gid).beside = d.beside :=
    ite_leaves Device.beside rfl (ite_leaves Device.beside (beside_abandonWait _ _) rfl)
  simp only [waitLeft]
  exact ite_leaves Device.beside ((beside_setDrawerOf _ _ _).trans left) left
/-- A preemption leaves who each group is, and the teams. -/
theorem preempt_leaves (d : Device) (gid j : Nat) : viewAt Group.ident (preempt d gid) j = viewAt Group.ident d j ∧ (preempt d gid).teams = d.teams := by
  simp only [preempt]
  split
  · exact ⟨rfl, rfl⟩
  · rename_i g hg
    have discarded : viewAt Group.ident (discardEffects (waitLeft d gid g) gid) j = viewAt Group.ident d j := by
      rw [viewAt, discardEffects_groups]
      exact (map_find_modify Group.ident _ _ _ _ fun _ => by rfl).trans (ident_waitLeft d gid j g)
    constructor
    · refine (viewAt_modGroup _ _ _ _ _ fun _ => by rfl).trans ((viewAt_freeEntries blind_ident.1 _ _ _ _).trans ?_)
      exact discarded
    · have teams : (discardEffects (waitLeft d gid g) gid).teams = d.teams := of_beside Device.teams (fun _ => rfl) ((beside_discardEffects _ _).trans (beside_waitLeft d gid g))
      exact (of_beside Device.teams (fun _ => rfl) (beside_freeEntries _ _ _)).trans teams
/-- What a swap-out shows of a group. -/
def Group.stored (g : Group) : GroupState × Bool := (g.state, g.savedDrawer.isSome)
theorem saveGroup_eq {d : Device} {gid : Nat} {g : Group} (hg : Tbl.find d.groups gid = some g) (j : Nat) {α : Type} {r : Group → α} (hr : BlindToBlocks r) : ∃ x ts, viewAt r (saveGroup d gid) j = viewAt r (d.modGroup gid fun g => { g with state := .swapped, savedDrawer := some x, savedTiles := ts, savedH := g.h, imageDue := [], late := [] }) j := by
  simp only [saveGroup, hg]
  refine ⟨d.drawer g.core g.block, groupTiles d g, ?_⟩
  rw [viewAt_grantChunks hr, viewAt_groups r (clearMatches_groups _ _ _)]
  exact congrArg (fun gs => (Tbl.find (Tbl.modify _ gs gid) j).map r) (depositRegs_groups d gid)
theorem beside_saveGroup (d : Device) (gid : Nat) : (saveGroup d gid).beside = d.beside := by
  simp only [saveGroup]
  split
  · rfl
  · rw [beside_grantChunks, beside_clearMatches, beside_modCore, beside_modGroup, beside_freeDrawer, beside_depositRegs]
/-- A saved group is saved, and stays so through the saving of others. -/
theorem stored_saveGroup {d : Device} {gid j : Nat} (hj : j = gid ∧ Tbl.find d.groups j ≠ none ∨ viewAt Group.stored d j = some (.swapped, true)) : viewAt Group.stored (saveGroup d gid) j = some (.swapped, true) := by
  cases hg : Tbl.find d.groups gid with
  | none =>
    obtain ⟨rfl, h⟩ | h := hj
    · exact absurd hg h
    · simpa only [saveGroup, hg] using h
  | some g =>
    obtain ⟨x, ts, h⟩ := saveGroup_eq hg j (r := Group.stored) fun _ _ _ _ => rfl
    rw [h]
    by_cases hj' : j = gid
    · rw [hj', viewAt, find_modGroup_same, hg]
      rfl
    · rw [viewAt_modGroup_other _ _ _ hj']
      exact hj.resolve_left fun h => hj' h.1
theorem present_saveGroup (d : Device) (gid j : Nat) : viewAt (fun _ => ()) (saveGroup d gid) j = viewAt (fun _ => ()) d j := by
  cases hg : Tbl.find d.groups gid with
  | none => simp only [saveGroup, hg]
  | some g =>
    obtain ⟨x, ts, h⟩ := saveGroup_eq hg j (r := fun _ => ()) fun _ _ _ _ => rfl
    exact h.trans (viewAt_modGroup _ _ _ _ _ fun _ => by rfl)
theorem saveDrawers_groups (d : Device) (t : Team) : (saveDrawers d t).groups = d.groups := by
  simp only [saveDrawers]
  exact foldl_leaves Device.groups (fun d (e : Nat × Nat) => (rfl : (d.freeDrawer e.1 e.2).groups = d.groups)) _ _
theorem saveDrawers_present (d : Device) (t : Team) (j : Nat) : (Tbl.find (saveDrawers d t).teams j).map (fun _ => ()) = (Tbl.find d.teams j).map fun _ => () := by
  simp only [saveDrawers]
  refine (map_find_modify (fun _ => ()) _ _ _ _ fun _ => by rfl).trans ?_
  have freed (l : List (Nat × Nat)) : (l.foldl (fun d e => d.freeDrawer e.1 e.2) d).teams = d.teams := foldl_leaves Device.teams (fun d (e : Nat × Nat) => (rfl : (d.freeDrawer e.1 e.2).teams = d.teams)) _ _
  exact congrArg (fun ts => (Tbl.find ts j).map fun _ => ()) (freed _)
theorem unwritten_writeRun (P : Platform) (job die n : Nat) (va : DWord) (bs : List Byte) (d : Device) : (writeRun P job die n va bs d).1.unwritten = d.unwritten := by
  induction n generalizing va bs d with
  | zero => rfl
  | succ n ih =>
    simp only [writeRun]
    split
    · rfl
    · split
      · rfl
      · rename_i h
        exact (ih _ _ _).trans (unwritten_jobWrite h)
theorem unwritten_writeContext (P : Platform) (d : Device) (t : Team) : (writeContext P d t).1.unwritten = d.unwritten := by
  simp only [writeContext, engineRun, unwritten_noticeAll, unwritten_writeRun]

theorem teams_of_works {d e : Device} (h : d.works = e.works) : d.teams = e.teams := congrArg (·.2.1) h
/-- A team whose image could be written is swapped out, with each of its groups. -/
theorem swapsOut_spec {P : Platform} {d : Device} {tid : Nat} {t : Team} (ht : Tbl.find d.teams tid = some t) (hs : t.state = .swappingOut) (hq : (teamGroups d tid).all groupQuiet = true) (he : enginesQuiet t = true)
    (hw : (writeContext P ((teamGroups d tid).foldl (fun d g => preempt d g.id) d) t).2 = true) :
    (Tbl.find (swapsOut tid P d).teams tid).map (fun x => (x.state, x.stopped)) = some (.swapped, false) ∧
      ∀ g : Group, g.team = tid → Tbl.find d.groups g.id = some g → viewAt Group.stored (swapsOut tid P d) g.id = some (.swapped, true) := by
  let preempted := (teamGroups d tid).foldl (fun d g => preempt d g.id) d
  let written := (writeContext P preempted t).1
  let saved := (teamGroups written tid).foldl (fun d g => saveGroup d g.id) (saveDrawers written t)
  have eq : swapsOut tid P d = (saved.modTeam tid fun t => { t with state := .swapped, stopped := false, imageLocks := ((teamGroups preempted tid).flatMap (groupLocks preempted)).length }).modJob t.job fun j => { j with swapped := j.swapped ++ [tid] } := by
    simp only [swapsOut, ht, hs, hq, he, hw, bne_self_eq_false, Bool.not_true, Bool.or_self, Bool.false_eq_true, if_false]
    rfl
  have works := works_of_unwritten (unwritten_writeContext P preempted t)
  rw [eq]
  refine ⟨?_, fun g hteam hg => ?_⟩
  · have kept : preempted.teams = d.teams := foldl_leaves Device.teams (fun d (g : Group) => (preempt_leaves d g.id 0).2) _ _
    have teams : written.teams = preempted.teams := teams_of_works works
    have savedTeams : saved.teams = (saveDrawers written t).teams := of_beside Device.teams (fun _ => rfl) (foldl_leaves Device.beside (fun d (g : Group) => beside_saveGroup d g.id) _ _)
    have present := saveDrawers_present written t tid
    rw [← savedTeams, teams, kept, ht] at present
    obtain ⟨x, hx, -⟩ := Option.map_eq_some_iff.1 present
    exact (congrArg (Option.map _) ((find_modify_same _ _ _).trans (congrArg _ hx))).trans rfl
  · have ident : viewAt Group.ident written g.id = some g.ident := by
      rw [viewAt_groups _ (groups_of_works works), show viewAt Group.ident preempted g.id = viewAt Group.ident d g.id from viewAt_foldl _ (fun d (h : Group) => (preempt_leaves d h.id g.id).1) _ _, viewAt, hg]
      rfl
    obtain ⟨x, hx, hi⟩ := Option.map_eq_some_iff.1 ident
    simp only [Group.ident, Prod.mk.injEq] at hi
    refine (viewAt_groups _ ((modJob_groups _ _ _).trans (modTeam_groups _ _ _)) _).trans ?_
    refine foldl_establishes (pre := fun d => viewAt (fun _ => ()) d g.id = some ()) (post := fun d => viewAt Group.stored d g.id = some (.swapped, true)) (j := g.id) (f := fun d g => saveGroup d g.id) (q := fun _ => True)
      (fun d h _ _ hp => (present_saveGroup _ _ _).trans hp) (fun d h _ hj hp => stored_saveGroup (.inl ⟨hj.symm, ?_⟩)) (fun d h _ hp => stored_saveGroup (.inr hp)) (teamGroups written tid) _ (fun _ _ => trivial) (.inl ⟨?_, x, mem_teamGroups hx (hi.2.trans hteam), hi.1⟩)
    · rw [Ne, find_none_iff, hp]
      simp
    · rw [viewAt_groups _ (saveDrawers_groups _ _), viewAt, hx]
      rfl


/-! Images (R374). -/

section
variable (d : Device) (sc : Sched) (js : Tbl Job)
/-- The levels of a walk do not hang on the scheduler and the jobs. -/
theorem walkLevels_jobs (acc : Access) (va : Nat) (ls : List Nat) (table : Nat) : walkLevels { d with sched := sc, jobs := js } acc va ls table = walkLevels d acc va ls table := by
  delta walkLevels
  rfl
theorem leafPhys_jobs (l : Leaf) (die va : Nat) : leafPhys { d with sched := sc, jobs := js } l die va = leafPhys d l die va := rfl
theorem anyPoison_jobs (a n : Nat) : ({ d with sched := sc, jobs := js } : Device).anyPoison a n = d.anyPoison a n := rfl
theorem imageSize_jobs (t : Team) : imageSize { d with sched := sc, jobs := js } t = imageSize d t := rfl
/-- A walk hangs on the root of its job only. -/
theorem walk_jobs (hr : sameRoots js d.jobs) (job : Nat) (acc : Access) (va : DWord) : walk { d with sched := sc, jobs := js } job acc va = walk d job acc va := by
  have hr := hr job
  simp only [walk]
  cases hd : Tbl.find d.jobs job with
  | none =>
    rw [hd] at hr
    rw [Option.map_eq_none_iff.1 hr]
  | some j =>
    rw [hd] at hr
    obtain ⟨k, hk, hx⟩ := Option.map_eq_some_iff.1 hr
    simp only [hk, walkLevels_jobs, hx]
theorem engineXlat_jobs (hr : sameRoots js d.jobs) (job : Nat) (acc : Access) (die : Nat) (va : DWord) : engineXlat { d with sched := sc, jobs := js } job acc die va = engineXlat d job acc die va := by
  simp only [engineXlat, walk_jobs d sc js hr, leafPhys_jobs]
/-- Whether a line of an image is poisoned hangs on nothing of the scheduler and the jobs but the roots. -/
theorem imagePoisoned_jobs (hr : sameRoots js d.jobs) (t : Team) : imagePoisoned { d with sched := sc, jobs := js } t = imagePoisoned d t := by
  simp only [imagePoisoned, engineXlat_jobs d sc js hr, anyPoison_jobs, imageSize_jobs]
end


/-! Restores (R61, R346). -/

/-- Where a restored group is, and what it waits for. -/
def Group.home (g : Group) : Nat × GroupState × Option Drawer × Option WaitFor := (g.core, g.state, g.savedDrawer, g.wait)
theorem blind_home : BlindToBlocks Group.home := fun _ _ _ _ => rfl
/-- What a restore of a group leaves of memory and teams. -/
def Device.seats (d : Device) : List Host.Cell × Tbl Team := (d.mem, d.teams)
theorem seats_of_beside {d e : Device} (h : d.beside = e.beside) : d.seats = e.seats := of_beside Device.seats (fun _ => rfl) h
theorem backBlock_leaves (gid j e : Nat) (d : Device) : viewAt Group.home (backBlock gid d e) j = viewAt Group.home d j ∧ (backBlock gid d e).seats = d.seats := by
  simp only [backBlock]
  split
  · exact ⟨rfl, rfl⟩
  · split
    · simp only [claimChunk]
      split <;> exact ⟨rfl, rfl⟩
    · exact ⟨viewAt_takeChunk blind_home _ _ _ _, seats_of_beside (beside_takeChunk _ _ _)⟩
theorem moveRequest_leaves (d : Device) (gid core : Nat) : (moveRequest d gid core).groups = d.groups ∧ (moveRequest d gid core).seats = d.seats := by
  simp only [moveRequest]
  repeat' split
  all_goals exact ⟨rfl, rfl⟩
/-- A group that comes back stands at a place of its new core. -/
def Group.returned (core : Nat) (p : Nat × Nat) (block clock id : Nat) (g : Group) : Group :=
  { g with state := if g.wait.isSome then .waiting else .live, core, slot := p.1, pos := p.2, block, savedDrawer := none, savedTiles := [], readyAt := clock, issueFrom := clock, arrivedAt := id }
/-- A group stands on its new core, without its blocks yet. -/
def groupBack (cl : Nat) (d : Device) (g : Group) : Device :=
  let core := 4 * cl + g.index % 4
  let p := nextPlace d core
  let block := blockAt d core p.1 p.2
  let d := d.setDrawer core block { g.savedDrawer.getD (Drawer.free 0) with gen := (d.drawer core block).gen, ownerBlock := block }
  let d := d.modCore core fun k => { k with tiles := g.savedTiles.foldl (fun ts t => Tbl.set ts t.1 { owner := some g.id, job := some g.job, cells := t.2 }) k.tiles }
  { d.modGroup g.id (Group.returned core p block d.clock d.nextId) with nextId := d.nextId + 1 }
/-- Its image's late words are in its registers. -/
def Group.settled (g : Group) : Group := { g with savedH := 0, late := [], v := g.late.foldl (fun v x => Cells.put 0 v x.1 x.2) g.v, waitSeq := if g.wait.isSome then g.waitSeq else g.waitSeq + 1 }
theorem restoreGroup_eq (P : Platform) (cl : Nat) (d : Device) {g : Group} (hw : g.wait = none) :
    ∃ n, restoreGroup P cl d g = grantChunks (4 * cl + g.index % 4) n (moveRequest (((List.range g.h).foldl (backBlock g.id) (groupBack cl d g)).modGroup g.id Group.settled) g.id (4 * cl + g.index % 4)) := by
  simp only [restoreGroup, hw, Option.isSome_none, Bool.false_and, Bool.false_eq_true, if_false]
  exact ⟨_, rfl⟩
/-- A restore of a group without a wait brings it to the core of its index; it leaves other groups, memory and teams. -/
theorem restoreGroup_spec (P : Platform) (cl : Nat) (d : Device) {g : Group} (hw : g.wait = none) (j : Nat) :
    (restoreGroup P cl d g).seats = d.seats ∧ viewAt Group.home (restoreGroup P cl d g) j = (viewAt Group.home d j).map fun h => if j = g.id then (4 * cl + g.index % 4, if h.2.2.2.isSome then .waiting else .live, none, h.2.2.2) else h := by
  obtain ⟨n, e⟩ := restoreGroup_eq P cl d hw
  let backed := (List.range g.h).foldl (backBlock g.id) (groupBack cl d g)
  obtain ⟨moved, kept⟩ := moveRequest_leaves (backed.modGroup g.id Group.settled) g.id (4 * cl + g.index % 4)
  rw [e]
  constructor
  · refine (seats_of_beside (beside_grantChunks _ _ _)).trans (kept.trans ?_)
    exact foldl_leaves Device.seats (fun d e => (backBlock_leaves g.id 0 e d).2) _ _
  · rw [viewAt_grantChunks blind_home, viewAt_groups _ moved, viewAt_modGroup Group.home backed g.id j Group.settled fun _ => rfl]
    refine (viewAt_foldl j (fun d e => (backBlock_leaves g.id j e d).1) _ _).trans ?_
    by_cases hj : j = g.id
    · subst hj
      refine (congrArg (Option.map Group.home) (find_modify_same _ _ _)).trans ?_
      simp only [Option.map_map, if_true, viewAt]
      rfl
    · refine (congrArg (Option.map Group.home) (find_modify_other _ _ _ _ hj)).trans ?_
      simp only [hj, if_false, Option.map_id']
      rfl


/-- What a group's image does not hold. -/
def Group.key (g : Group) : Nat × Nat × Nat × Option WaitFor := (g.id, g.index, g.team, g.wait)
theorem key_read (o : Option (List Byte)) (F : List Byte → Group → Group) (h : ∀ bs g, (F bs g).key = g.key) (g : Group) : (match o with | some bs => F bs g | none => g).key = g.key := by
  cases o with
  | none => rfl
  | some bs => exact h bs g
/-- The group as its image holds it is the same group. -/
theorem key_groupFromImage (d : Device) (t : Team) (g : Group) : (groupFromImage d t g).key = g.key := by
  have drawer (o : Option (List Byte)) (g : Group) : (match o, g.savedDrawer with | some bs, some x => { g with savedDrawer := some (drawerFrom bs 0 x) } | _, _ => g).key = g.key := by split <;> rfl
  refine (key_read _ (fun bs g => { g with savedTiles := tilesFrom bs g.savedTiles }) (fun _ _ => rfl) _).trans ?_
  refine (key_read _ (fun bs g => { g with v := cellsOf bs }) (fun _ _ => rfl) _).trans ?_
  refine (drawer _ _).trans ?_
  refine (key_read _ (fun bs g => fromStores d (edgeDie t.cluster) bs g) (fun _ _ => rfl) _).trans ?_
  refine (key_read _ (fun bs g => { g with shapes := (List.range 4).map (shapeFrom bs) }) (fun _ _ => rfl) _).trans ?_
  exact key_read _ fromControl (fun _ _ => rfl) _

/-- An entry of a team that goes by a group's number stands for it: it waits for nothing and has its index. -/
def standsFor (g : Group) (tid : Nat) (v : Group) : Prop := v.team = tid → v.wait = none ∧ (v.id = g.id → v.index = g.index)
/-- A group of a team is found under its number, and no entry of the table belies it. -/
def restorable (g : Group) (tid : Nat) (d : Device) : Prop := (∃ x, Tbl.find d.groups g.id = some x ∧ x.key = (g.id, g.index, tid, none)) ∧ ∀ v ∈ Tbl.vals d.groups, standsFor g tid v
/-- It stays so as groups are read from their image. -/
theorem restorable_read {g : Group} {tid : Nat} {d : Device} {w : Group} (h : restorable g tid d) (hw : w.team = tid ∧ w.wait = none ∧ (w.id = g.id → w.index = g.index)) : restorable g tid (d.modGroup w.id fun _ => w) := by
  obtain ⟨⟨x, hx, hk⟩, hv⟩ := h
  obtain ⟨hteam, hwait, hindex⟩ := hw
  constructor
  · by_cases hj : g.id = w.id
    · refine ⟨w, by rw [hj, find_modGroup_same, ← hj, hx]; rfl, ?_⟩
      rw [Group.key, hteam, hwait, hindex hj.symm, hj]
    · exact ⟨x, by rw [find_modGroup_other _ _ _ _ hj, hx], hk⟩
  · intro v hvm
    obtain ⟨e, he, rfl⟩ := List.mem_map.1 hvm
    obtain ⟨y, hy, rfl | rfl⟩ := mem_modify he
    · exact hv _ (List.mem_map_of_mem hy)
    · exact fun _ => ⟨hwait, hindex⟩
theorem restorable_of_groups {g : Group} {tid : Nat} {d e : Device} (h : e.groups = d.groups) (hd : restorable g tid d) : restorable g tid e := by
  simpa only [restorable, h] using hd
/-- The groups of a team that has swapped out, each without a wait, are restorable. -/
theorem restorable_of_team {tid : Nat} {d : Device} (h : ∀ g ∈ teamGroups d tid, g.wait = none ∧ Tbl.find d.groups g.id = some g) {g : Group} (hg : g ∈ teamGroups d tid) : restorable g tid d := by
  have team {v : Group} : v ∈ teamGroups d tid ↔ v ∈ Tbl.vals d.groups ∧ v.team = tid := by rw [teamGroups, mem_sortBy, List.mem_filter, beq_iff_eq]
  obtain ⟨hw, hf⟩ := h g hg
  refine ⟨⟨g, hf, by rw [Group.key, hw, (team.1 hg).2]⟩, fun v hv ht => ?_⟩
  obtain ⟨vw, vf⟩ := h v (team.2 ⟨hv, ht⟩)
  refine ⟨vw, fun hid => ?_⟩
  rw [hid, hf] at vf
  rw [Option.some.inj vf]
/-- The drawers of a team that comes back change no group, and no memory. -/
theorem restoreDrawers_leaves (tid cl : Nat) (d : Device) : (restoreDrawers tid cl d).groups = d.groups ∧ (restoreDrawers tid cl d).mem = d.mem ∧ (Tbl.find (restoreDrawers tid cl d).teams tid).isSome = (Tbl.find d.teams tid).isSome := by
  let p (d : Device) : Tbl Group × List Host.Cell × Bool := (d.groups, d.mem, (Tbl.find d.teams tid).isSome)
  have h : p (restoreDrawers tid cl d) = p d := by
    simp only [restoreDrawers]
    split
    · rfl
    · refine foldl_leaves p (fun d i => ?_) _ _
      split
      · rfl
      · have named (d : Device) (f : Team → Team) : p (d.modTeam tid f) = p d := by
          simp only [p, Device.modTeam, find_modify_same, Option.isSome_map]
        have ready (d : Device) (c i : Nat) : p (readyTask d c i) = p d := rfl
        have stored (d : Device) (c i : Nat) (x : Drawer) : p (d.setDrawer c i x) = p d := rfl
        exact ite_leaves p ((ready _ _ _).trans ((named _ _).trans (stored _ _ _ _))) ((named _ _).trans (stored _ _ _ _))
  simpa only [p, Prod.mk.injEq] using h
/-- Each group of a team that is restored is live on the core of its index. -/
theorem restoreFold_home {P : Platform} {cl tid : Nat} {d : Device} {g : Group} (h : restorable g tid d) : viewAt Group.home ((teamGroups d tid).foldl (restoreGroup P cl) d) g.id = some (4 * cl + g.index % 4, .live, none, none) := by
  obtain ⟨⟨x, hx, hk⟩, hv⟩ := h
  simp only [Group.key, Prod.mk.injEq] at hk
  obtain ⟨hid, hindex, hteam, hwait⟩ := hk
  refine foldl_establishes (f := restoreGroup P cl) (q := fun v => v.wait = none ∧ (v.id = g.id → v.index = g.index)) (pre := fun d => ∃ h, viewAt Group.home d g.id = some h ∧ h.2.2.2 = none) (post := fun d => viewAt Group.home d g.id = some (4 * cl + g.index % 4, .live, none, none)) (j := g.id)
    (fun e v hq hj hp => ?_) (fun e v hq hj hp => ?_) (fun e v hq hp => ?_) _ d (fun v hm => ?_) (.inl ⟨⟨x.home, congrArg _ hx, hwait⟩, x, mem_teamGroups hx hteam, hid⟩)
  · obtain ⟨h, hp, hw⟩ := hp
    exact ⟨h, by rw [(restoreGroup_spec P cl e hq.1 g.id).2, hp, Option.map_some, if_neg (Ne.symm hj)], hw⟩
  · obtain ⟨h, hp, hw⟩ := hp
    rw [(restoreGroup_spec P cl e hq.1 g.id).2, hp, Option.map_some, if_pos hj.symm, hq.2 hj, hw]
    rfl
  · rw [(restoreGroup_spec P cl e hq.1 g.id).2, hp, Option.map_some]
    split
    · rename_i hj
      rw [hq.2 hj.symm]
      rfl
    · rfl
  · rw [teamGroups, mem_sortBy, List.mem_filter, beq_iff_eq] at hm
    exact hv v hm.1 hm.2

/-- A team as its image holds it, with its groups (R61, R374). -/
def imageTaken (d : Device) (t : Team) : Device :=
  ((teamGroups d t.id).map fun g => groupFromImage d t g).foldl (fun (d : Device) g => d.modGroup g.id fun _ => g) (d.modTeam t.id fun _ => teamFromImage d t)
/-- Its drawers are in the core, and its room is taken; its groups are still to come. -/
def teamReturned (P : Platform) (d : Device) (t : Team) (cl : Nat) : Device :=
  let base := (windowBase d cl [] t.windowSize).getD 0
  let place := freePlace d cl
  let d := restoreDrawers t.id cl ((noteCluster P (imageTaken d t) t cl).fromCommand (cl / 32))
  d.modTeam t.id fun t => { t with state := .restoring, cluster := cl, place, base, residentSince := d.clock, quantumOver := false, savedDrawers := [], zeroed := [], imageDue := [], aliases := t.aliases.filterMap fun a => if 2 ^ 8 ≤ a.2.2.2 then some (a.1, a.2.1, a.2.2.1, a.2.2.2 - 2 ^ 8) else none, image := none }
theorem restoreTeam_eq {P : Platform} {d : Device} {t : Team} {cl : Nat} (h : imagePoisoned (d.modJob t.job fun j => { j with swapped := j.swapped.filter (· != t.id) }) t = false) :
    ∃ js, restoreTeam P d t cl = ((teamGroups (teamReturned P { d with jobs := js } t cl) t.id).foldl (restoreGroup P cl) (teamReturned P { d with jobs := js } t cl)).modTeam t.id fun t => { t with state := .resident } := by
  simp only [restoreTeam, h, Bool.false_eq_true, if_false]
  exact ⟨_, rfl⟩

/-- What an image gives leaves memory and the team's place in the table. -/
theorem imageTaken_leaves (d : Device) (t : Team) : (imageTaken d t).mem = d.mem ∧ (imageTaken d t).teams = (d.modTeam t.id fun _ => teamFromImage d t).teams :=
  ⟨foldl_leaves Device.mem (fun d (g : Group) => modGroup_mem d g.id fun _ => g) _ _, foldl_leaves Device.teams (fun d (g : Group) => modGroup_teams d g.id fun _ => g) _ _⟩
/-- The groups of the team are restorable with what their images hold. -/
theorem restorable_imageTaken {d : Device} {t : Team} (h : ∀ g ∈ teamGroups d t.id, g.wait = none ∧ Tbl.find d.groups g.id = some g) {g : Group} (hg : g ∈ teamGroups d t.id) : restorable g t.id (imageTaken d t) := by
  have read (l : List Group) : (∀ w ∈ l, w.team = t.id ∧ w.wait = none ∧ (w.id = g.id → w.index = g.index)) → ∀ e, restorable g t.id e → restorable g t.id (l.foldl (fun (d : Device) g => d.modGroup g.id fun _ => g) e) := by
    induction l with
    | nil => exact fun _ _ he => he
    | cons w l ih => exact fun hl e he => ih (fun x hx => hl x (List.mem_cons_of_mem _ hx)) _ (restorable_read he (hl w List.mem_cons_self))
  refine read _ (fun w hw => ?_) _ (restorable_of_groups (d := d) rfl (restorable_of_team h hg))
  obtain ⟨v, hv, rfl⟩ := List.mem_map.1 hw
  have hk := key_groupFromImage d t v
  simp only [Group.key, Prod.mk.injEq] at hk
  obtain ⟨hid, hindex, hteam, hwait⟩ := hk
  have team : v.team = t.id := by
    rw [teamGroups, mem_sortBy, List.mem_filter, beq_iff_eq] at hv
    exact hv.2
  refine ⟨hteam.trans team, hwait.trans (h v hv).1, fun he => hindex.trans ?_⟩
  have hf := (h v hv).2
  rw [← hid, he, (h g hg).2] at hf
  rw [Option.some.inj hf]
theorem teamReturned_spec (P : Platform) {d : Device} {t x : Team} (cl : Nat) (ht : Tbl.find d.teams t.id = some x) :
    (teamReturned P d t cl).mem = d.mem ∧ (teamReturned P d t cl).groups = (imageTaken d t).groups ∧ (Tbl.find (teamReturned P d t cl).teams t.id).map (·.cluster) = some cl := by
  obtain ⟨mem, teams⟩ := imageTaken_leaves d t
  obtain ⟨sc, hn⟩ := noteCluster_eq P (imageTaken d t) t cl
  obtain ⟨rg, rm, rt⟩ := restoreDrawers_leaves t.id cl ((noteCluster P (imageTaken d t) t cl).fromCommand (cl / 32))
  have found : (Tbl.find (restoreDrawers t.id cl ((noteCluster P (imageTaken d t) t cl).fromCommand (cl / 32))).teams t.id).isSome = true := by
    refine rt.trans ?_
    rw [hn]
    refine (congrArg (fun ts => (Tbl.find ts t.id).isSome) teams).trans ?_
    exact (congrArg Option.isSome (find_modify_same _ _ _)).trans (by rw [ht]; rfl)
  obtain ⟨y, hy⟩ := Option.isSome_iff_exists.1 found
  refine ⟨rm.trans ?_, rg.trans ?_, (congrArg (Option.map Team.cluster) ((find_modify_same _ _ _).trans (congrArg _ hy))).trans rfl⟩
  · rw [hn]
    exact mem
  · rw [hn]
    rfl
/-- Restores of groups without a wait leave memory and teams. -/
theorem seats_restoreFold {P : Platform} {cl : Nat} {l : List Group} (h : ∀ v ∈ l, v.wait = none) (d : Device) : (l.foldl (restoreGroup P cl) d).seats = d.seats := by
  induction l generalizing d with
  | nil => rfl
  | cons v l ih => rw [List.foldl_cons, ih (fun x hx => h x (List.mem_cons_of_mem _ hx)), (restoreGroup_spec P cl d (h v List.mem_cons_self) 0).1]
/-- A team that is restored is resident on its cluster, with its groups live on the cores of their indices. -/
theorem restoreTeam_spec {P : Platform} {d : Device} {t x : Team} {cl : Nat} (ht : Tbl.find d.teams t.id = some x) (hi : imagePoisoned (d.modJob t.job fun j => { j with swapped := j.swapped.filter (· != t.id) }) t = false)
    (h : ∀ g ∈ teamGroups d t.id, g.wait = none ∧ Tbl.find d.groups g.id = some g) :
    (restoreTeam P d t cl).mem = d.mem ∧ (Tbl.find (restoreTeam P d t cl).teams t.id).map (fun x => (x.state, x.cluster)) = some (.resident, cl) ∧
      ∀ g ∈ teamGroups d t.id, viewAt Group.home (restoreTeam P d t cl) g.id = some (4 * cl + g.index % 4, .live, none, none) := by
  obtain ⟨js, e⟩ := restoreTeam_eq (P := P) (cl := cl) hi
  rw [e]
  obtain ⟨mem, groups, cluster⟩ := teamReturned_spec P (d := { d with jobs := js }) cl ht
  generalize teamReturned P { d with jobs := js } t cl = back at mem groups cluster ⊢
  have ready (g : Group) (hg : g ∈ teamGroups d t.id) : restorable g t.id back := restorable_of_groups groups (restorable_imageTaken (d := { d with jobs := js }) h hg)
  have waitless : ∀ v ∈ teamGroups back t.id, v.wait = none := fun v hv => by
    cases hl : teamGroups d t.id with
    | nil =>
      have same : teamGroups back t.id = teamGroups d t.id := by
        have read : imageTaken { d with jobs := js } t = ({ d with jobs := js } : Device).modTeam t.id fun _ => teamFromImage { d with jobs := js } t := by
          rw [imageTaken, show teamGroups { d with jobs := js } t.id = [] from hl]
          rfl
        rw [teamGroups, groups, read]
        rfl
      rw [same, hl] at hv
      cases hv
    | cons g l =>
      rw [teamGroups, mem_sortBy, List.mem_filter, beq_iff_eq] at hv
      exact ((ready g (hl ▸ List.mem_cons_self)).2 v hv.1 hv.2).1
  have seats := seats_restoreFold (P := P) (cl := cl) waitless back
  simp only [Device.seats, Prod.mk.injEq] at seats
  obtain ⟨fm, ft⟩ := seats
  obtain ⟨y, hy, rfl⟩ := Option.map_eq_some_iff.1 cluster
  refine ⟨fm.trans mem, (congrArg (Option.map _) ((find_modify_same _ _ _).trans (congrArg _ ((congrArg (Tbl.find · t.id) ft).trans hy)))).trans rfl, fun g hg => restoreFold_home (ready g hg)⟩

end Sys2Proof.Machine

namespace Sys2Proof
open Machine

/-- Settles O33: the folds that start, restore and save a team's groups leave each of them where the choice of the queue says; a displacement and the two timers are what the model's functions make of them. -/
theorem teamsPlacedAndDisplaced : Obligations.teams_placed_and_displaced := by
  unfold Obligations.teams_placed_and_displaced
  refine ⟨⟨?place, ?restore⟩, ?displace, ?swap, ?quantum, ?age⟩
  case place =>
    intro s S j cl t hc hq hs ht hf
    obtain ⟨sc, js, hserved, -⟩ := served_eq s.dev S j.number
    have he : teamPlaces s.plat s.dev = placeTeam s.plat { s.dev with sched := sc, jobs := js } t cl := by
      simp only [teamPlaces, hc, hq, hs, hf, beq_self_eq_true, Bool.and_self, if_true, hserved]
    refine ⟨_, rfl, ?_⟩
    rw [he]
    obtain ⟨mem, team, groups⟩ := placeTeam_spec s.plat (d := { s.dev with sched := sc, jobs := js }) cl ht
    exact ⟨mem, team, groups⟩
  case restore =>
    intro s S j cl t hc hq hs ht hf hr hi hg
    obtain ⟨sc, js, hserved, hroots⟩ := served_eq s.dev S j.number
    have he : teamRestores s.plat s.dev = restoreTeam s.plat { s.dev with sched := sc, jobs := js } t cl := by
      simp only [teamRestores, hc, hq, hs, hf, hr, beq_self_eq_true, decide_true, Bool.and_self, if_true, hserved]
    have clean : imagePoisoned (({ s.dev with sched := sc, jobs := js } : Device).modJob t.job fun j => { j with swapped := j.swapped.filter (· != t.id) }) t = false :=
      (imagePoisoned_jobs s.dev sc _ (fun k => (map_find_modify Job.xroot _ _ _ _ fun _ => by rfl).trans (hroots k)) t).trans hi
    refine ⟨_, rfl, ?_⟩
    rw [he]
    obtain ⟨mem, team, groups⟩ := restoreTeam_spec (P := s.plat) (d := { s.dev with sched := sc, jobs := js }) (cl := cl) ht clean hg
    refine ⟨mem, team, fun g hm => ?_⟩
    obtain ⟨x, hx, hh⟩ := Option.map_eq_some_iff.1 (groups g hm)
    simp only [Group.home, Prod.mk.injEq] at hh
    obtain ⟨h1, h2, h3, -⟩ := hh
    rw [hx, Option.map_some, h1, h2, h3]
  case displace =>
    intro s S j cl ts hc hf
    obtain ⟨js, hr, -⟩ := resetRot_eq (schedActs s.dev) S (some j.number)
    refine ⟨_, rfl, ?_⟩
    simp only [displacementStarts, hc, hf, Bool.not_true, Bool.false_eq_true, if_false, hr]
    exact ⟨rfl, rfl, rfl, List.mem_append_right _ (List.mem_singleton.2 rfl)⟩
  case swap =>
    intro tid s t ht hid hs hq he p hw
    obtain ⟨team, groups⟩ := swapsOut_spec (P := s.plat) ht hs hq he hw
    refine ⟨_, rfl, team, fun g hm hg => groups g ?_ hg⟩
    rw [teamGroups, mem_sortBy, List.mem_filter, beq_iff_eq] at hm
    exact hm.2
  case quantum =>
    intro tid s t ht hs hle
    refine ⟨_, rfl, ?_⟩
    simp only [quantumExpires, ht, hs, hle, beq_self_eq_true, decide_true, Bool.and_self, if_true]
  case age =>
    intro n s j t hj hr hle
    refine ⟨_, rfl, ?_⟩
    simp only [ageExpires, hj, hr, hle, if_true]

end Sys2Proof

namespace Sys2Proof.Machine
open Sys2Proof

/-! Cores and their drawers. -/

@[simp] theorem core_modCore_same (d : Device) (c : Nat) (f : Core → Core) : (d.modCore c f).core c = f (d.core c) := by
  simp only [Device.core, Device.modCore, Tbl.getD, find_set_same, Option.getD_some]
theorem core_modCore_other (d : Device) {c j : Nat} (f : Core → Core) (h : j ≠ c) : (d.modCore c f).core j = d.core j := by
  simp only [Device.core, Device.modCore, Tbl.getD, find_set_other _ _ _ _ h]
/-- A change of a core that keeps its drawers keeps every drawer. -/
theorem drawer_modCore (d : Device) (c : Nat) (f : Core → Core) (h : ∀ k, (f k).drawers = k.drawers) (j i : Nat) : (d.modCore c f).drawer j i = d.drawer j i := by
  by_cases hj : j = c
  · rw [hj, Device.drawer, core_modCore_same, h, Device.drawer]
  · rw [Device.drawer, core_modCore_other d f hj, Device.drawer]
@[simp] theorem drawer_setDrawer (d : Device) (c i : Nat) (x : Drawer) : (d.setDrawer c i x).drawer c i = x := by
  rw [Device.drawer, Device.setDrawer, core_modCore_same, Tbl.getD, find_set_same, Option.getD_some]
/-- Where a handle's drawer stands depends on the teams and the drawers alone. -/
theorem findDrawer_congr {d e : Device} (ht : e.teams = d.teams) (hx : ∀ c i, e.drawer c i = d.drawer c i) (h : Word) : findDrawer e h = findDrawer d h := by
  simp only [findDrawer, ht, hx]

/-! Decrements (R44). -/

/-- A decrement below the count, of 0 too, lowers the count and does nothing else. -/
theorem decrement_below {x : Drawer} {n : Word} (status : Nat) (h : n.toNat < x.count.toNat) : decrement x n.toNat status = ({ x with count := x.count - n }, false) := by
  have hc : x.count ≠ 0 := fun e => by simp [e] at h
  simp only [decrement, hc, if_false, if_pos h, BitVec.ofNat_toNat, BitVec.setWidth_eq]
  split
  · rename_i hn
    rw [show n = 0#32 from BitVec.eq_of_toNat_eq hn, BitVec.sub_zero]
  · rfl
/-- The flags of a drawer that a decrement has brought to 0 (R47). -/
def zeroFlags (x : Drawer) (n status : Nat) : BitVec 8 := (x.flags &&& 0x0F) ||| BitVec.ofNat 8 (16 * status) ||| (if x.count.toNat < n then 1 else 0)
/-- The drawer it leaves. -/
def Drawer.zeroed (x : Drawer) (n status : Nat) : Drawer := { x with count := 0, flags := zeroFlags x n status }
theorem decrement_zero {x : Drawer} {n : Nat} (status : Nat) (h0 : 0 < x.count.toNat) (h : x.count.toNat ≤ n) : decrement x n status = (x.zeroed n status, true) := by
  have hc : x.count ≠ 0 := fun e => by simp [e] at h0
  simp only [decrement, hc, if_false, if_neg (by omega : ¬n = 0), if_neg (by omega : ¬n < x.count.toNat), Drawer.zeroed, zeroFlags]
/-- They carry the status. -/
theorem zeroFlags_status (x : Drawer) (n : Nat) {status : Nat} (h : status < 16) : (zeroFlags x n status).toNat / 16 = status := by
  have low : ∀ b : BitVec 8, (b &&& 0x0F).toNat / 16 = 0 := by decide
  have high : (BitVec.ofNat 8 (16 * status)).toNat / 16 = status := by
    rw [BitVec.toNat_ofNat]
    omega
  have one : (if x.count.toNat < n then 1 else 0 : BitVec 8).toNat / 16 = 0 := by split <;> rfl
  have split16 (a b : Nat) : (a ||| b) / 16 = a / 16 ||| b / 16 := by
    have h := Nat.shiftRight_or_distrib (a := a) (b := b) (i := 4)
    rwa [Nat.shiftRight_eq_div_pow, Nat.shiftRight_eq_div_pow, Nat.shiftRight_eq_div_pow] at h
  rw [zeroFlags, BitVec.toNat_or, BitVec.toNat_or, split16, split16, low, high, one, Nat.zero_or, Nat.or_zero]
/-- They say TIMEOUT where the drawer's flags did. -/
theorem zeroFlags_timeout (x : Drawer) (n : Nat) {status : Nat} (h : status < 16) : (zeroFlags x n status).getLsbD 1 = x.flags.getLsbD 1 := by
  have high : (BitVec.ofNat 8 (16 * status)).getLsbD 1 = false := by
    interval_cases status <;> rfl
  have one : (if x.count.toNat < n then 1 else 0 : BitVec 8).getLsbD 1 = false := by split <;> rfl
  rw [zeroFlags, BitVec.getLsbD_or, BitVec.getLsbD_or, BitVec.getLsbD_and, high, one, Bool.or_false, Bool.or_false]
  exact Bool.and_true _

/-! A waiting instruction completes (R47). -/

/-- What the end of a wait changes of a group that waits. -/
def Group.roused (clock : Nat) (g : Group) : Group := { g with wait := none, state := if g.state == .waiting then .live else g.state, readyAt := clock }
theorem dropWait_eq {d : Device} {gid : Nat} {x : Group} (hx : Tbl.find d.groups gid = some x) (hd : x.savedDrawer = none) :
    dropWait d gid = (d.modGroup gid (Group.roused d.clock)).setDrawer x.core x.block { d.drawer x.core x.block with waitKind := 0, count := 0, deadline := 0 } := by
  simp only [dropWait, hx, setDrawerOf, hd, drawerOf, Option.getD_none]
  rfl
/-- What a wait's end shows of a group: its registers, its wait and state, where a split stands, and its locks. -/
def Group.awake (k : Nat) (g : Group) : Regs × Option WaitFor × GroupState × Option (DWord × Nat) × List Nat := (g.regs, g.wait, g.state, g.stands k, g.locks)
theorem awake_modSplit (k : Nat) (g : Group) (j : Nat) (f : Split → Split) (h : ∀ sp : Split, (f sp).pc = sp.pc ∧ (f sp).index = sp.index) : (modSplit g j f).awake k = g.awake k := by
  rw [Group.awake, Group.awake, stands_modSplit k g j f h]
  rfl
theorem awake_closeRegion (k clock : Nat) (cl : Bool) (g : Group) (j : Nat) : (closeRegion clock cl g j).awake k = g.awake k := by
  rw [Group.awake, closeRegion_stands]
  rfl
theorem awake_landMid (k : Nat) (g : Group) (j : Nat) (w : RegWrites) (tr : Bool) (rs : Nat) : (landMid g j w tr rs).awake k = (g.landed j tr w rs, g.wait, g.state, g.stands k, g.locks) := by
  have beside : (landMid g j w tr rs).wait = g.wait ∧ (landMid g j w tr rs).state = g.state ∧ (landMid g j w tr rs).locks = g.locks := by
    cases tr <;> simp only [landMid] <;> split <;> exact ⟨rfl, rfl, rfl⟩
  obtain ⟨hw, hs, hl⟩ := beside
  rw [Group.awake, landMid_regs, landMid_stands, hw, hs, hl]
theorem landed_modSplit (g : Group) (k j : Nat) (f : Split → Split) (tr : Bool) (w : RegWrites) (rs : Nat) : (modSplit g j f).landed k tr w rs = g.landed k tr w rs := by
  cases tr <;> rfl
theorem landed_roused (clock : Nat) (g : Group) (k : Nat) (tr : Bool) (w : RegWrites) (rs : Nat) : (g.roused clock).landed k tr w rs = g.landed k tr w rs := by
  cases tr <;> rfl
/-- Where a split stands past its instruction (R104). -/
def Split.past (sp : Split) : DWord × Nat := if sp.index + 1 < hdrCount sp.header then (sp.pc, sp.index + 1) else (nextClause sp, 0)
theorem stands_advanceCur {g : Group} {k : Nat} {sp : Split} (hk : splitOf g k = some sp) (hc : current sp ≠ none) : (modSplit g k advanceCur).stands k = some sp.past := by
  obtain ⟨⟨i, n⟩, hi⟩ := Option.ne_none_iff_exists'.1 hc
  rw [Group.stands, splitOf_modSplit_same, hk, Option.map_some, Option.map_some, advanceCur, hi, advance_stands, Split.past]
/-- A waiting instruction that completes: its result is in the registers, the group is live, and its split is past it. -/
theorem completeWait_awake {d : Device} {gid : Nat} {x : Group} (w : RegWrites) (cl : Bool) (k : Nat) (hx : Tbl.find d.groups gid = some x) (hd : x.savedDrawer = none) (hs : x.state = .waiting) :
    viewAt (Group.awake k) (completeWait d gid w cl) gid = some (x.landed x.waitSplit false w 0, none, .live, (modSplit x x.waitSplit advanceCur).stands k, x.locks) := by
  have landed : viewAt (Group.awake k) (landResult ((dropWait d gid).modGroup gid fun g => modSplit g x.waitSplit advanceCur) gid x.waitSplit w false 0 false) gid =
      some (x.landed x.waitSplit false w 0, none, .live, (modSplit x x.waitSplit advanceCur).stands k, x.locks) := by
    refine (view_landResult (Group.awake k) (awake_closeRegion k) _ gid _ gid w false 0 false).trans ?_
    have found : Tbl.find (dropWait d gid).groups gid = some (x.roused d.clock) := by
      rw [dropWait_eq hx hd]
      exact (find_modGroup_same d gid _).trans (by rw [hx]; rfl)
    rw [find_modGroup_same, found, Option.map_some, Option.map_some, if_pos rfl, awake_landMid, landed_modSplit, landed_roused]
    simp only [modSplit, Group.roused, hs, beq_self_eq_true, if_true, Group.stands, splitOf]
  simp only [completeWait, hx]
  split
  · exact (view_reopen (Group.awake k) (awake_modSplit k) _ gid _ gid).trans landed
  · exact landed
theorem dropWait_awake {d : Device} {gid : Nat} {x : Group} (k : Nat) (hx : Tbl.find d.groups gid = some x) (hd : x.savedDrawer = none) (hs : x.state = .waiting) :
    viewAt (Group.awake k) (dropWait d gid) gid = some (x.regs, none, .live, x.stands k, x.locks) := by
  rw [dropWait_eq hx hd]
  refine (congrArg (Option.map _) ((find_modGroup_same d gid _).trans (by rw [hx]; rfl) : _ = some (x.roused d.clock))).trans ?_
  simp only [Option.map_some, Group.awake, Group.roused, hs, beq_self_eq_true, if_true]
  rfl
/-- An acquire's group after it, but for the notices it carries. -/
theorem find_acquire {d : Device} {gid : Nat} {x : Group} (hx : Tbl.find d.groups gid = some x) : ∃ c, Tbl.find (acquire d gid).groups gid = some { x with carry := c } := by
  simp only [acquire, hx]
  exact ⟨_, (find_modGroup_same d gid _).trans (by rw [hx]; rfl)⟩
theorem landed_carry (g : Group) (c : Signature) (k : Nat) (tr : Bool) (w : RegWrites) (rs : Nat) : ({ g with carry := c } : Group).landed k tr w rs = g.landed k tr w rs := by
  cases tr <;> rfl
/-- A waiting instruction that acquires and completes. -/
theorem completeWait_acquire {d : Device} {gid : Nat} {x : Group} (w : RegWrites) (cl : Bool) (k : Nat) (hx : Tbl.find d.groups gid = some x) (hd : x.savedDrawer = none) (hs : x.state = .waiting) :
    viewAt (Group.awake k) (completeWait (acquire d gid) gid w cl) gid = some (x.landed x.waitSplit false w 0, none, .live, (modSplit x x.waitSplit advanceCur).stands k, x.locks) := by
  obtain ⟨c, hc⟩ := find_acquire hx
  exact (completeWait_awake w cl k hc hd hs).trans (by rw [landed_carry]; rfl)
/-- An advance of `step.cur` raises it and changes nothing else of the group. -/
theorem find_advanceStep (P : Platform) {d : Device} {gid : Nat} {x : Group} (hx : Tbl.find d.groups gid = some x) : Tbl.find (advanceStep P d gid).groups gid = some { x with stepCur := x.stepCur + 1 } := by
  have found : Tbl.find (d.modGroup gid fun g => { g with stepCur := x.stepCur + 1 }).groups gid = some { x with stepCur := x.stepCur + 1 } :=
    (find_modGroup_same d gid _).trans (by rw [hx]; rfl)
  simp only [advanceStep, hx]
  split
  · split
    · rw [sbEvaluate_groups, sendOwn_groups]
      exact found
    · exact found
  · exact found

/-! A drawer at 0 finishes its group's wait (R47). -/

/-- A group of a device that is woken: registers, place of a split, and locks. -/
def wokenView (gid k : Nat) (r : Regs) (pos : DWord × Nat) (locks : List Nat) (d : Device) : Prop := viewAt (Group.awake k) d gid = some (r, none, .live, some pos, locks)
theorem woken_of {gid k : Nat} {r : Regs} {pos : DWord × Nat} {ls : List Nat} {d : Device} (h : wokenView gid k r pos ls d) :
    (regsOf d gid = some r ∧ waitIn d gid = none ∧ (Tbl.find d.groups gid).map (·.state) = some .live ∧ standsAt d gid k = some pos) ∧ (Tbl.find d.groups gid).map (·.locks) = some ls := by
  obtain ⟨g, hg, hv⟩ := Option.map_eq_some_iff.1 h
  simp only [Group.awake, Prod.mk.injEq] at hv
  obtain ⟨hr, hw, hs, hp, hl⟩ := hv
  exact ⟨⟨by rw [regsOf, hg, Option.map_some, hr], by rw [waitIn, hg, Option.bind_some, hw], by rw [hg, Option.map_some, hs], standsAt_of (by rw [hg, Option.map_some, hp])⟩, by rw [hg, Option.map_some, hl]⟩
/-- What a lock instruction writes of the status it completes with (R257). -/
def lockResult (sd : Nat) (pd : PSel) (m : Mask) (st : Nat) : RegWrites := (scaWrite sd st).append (if pd.en then predWrite pd.p.val m (if st = 0 then m else 0) else RegWrites.none)
/-- The device as a lock instruction that completes with a status has taken its line (R257). -/
def lockFilled (d : Device) (gid : Nat) (g : Group) (line : Nat) (va : DWord) (st : Nat) (stage : LockStage) : Device :=
  let d := if st == 0 || st == 1 then (acquire d gid).modGroup gid fun g => { g with locks := g.locks ++ [line], lockVas := g.lockVas ++ [(line, va)] } else d
  match st == 0 || st == 1, stage with
  | true, .granted (some bytes) => installLine d g (line / 64) va bytes
  | _, _ => d
theorem find_lockFilled {d : Device} {gid : Nat} {x : Group} (line : Nat) (va : DWord) (st : Nat) (stage : LockStage) (hx : Tbl.find d.groups gid = some x) :
    ∃ c v, Tbl.find (lockFilled d gid x line va st stage).groups gid = some { x with carry := c, locks := if st = 0 ∨ st = 1 then x.locks ++ [line] else x.locks, lockVas := v } := by
  have fills : (lockFilled d gid x line va st stage).groups = (if st == 0 || st == 1 then (acquire d gid).modGroup gid fun g => { g with locks := g.locks ++ [line], lockVas := g.lockVas ++ [(line, va)] } else d).groups := by
    simp only [lockFilled]
    split <;> rfl
  rw [fills]
  by_cases got : st = 0 ∨ st = 1
  · obtain ⟨c, hc⟩ := find_acquire hx
    rw [if_pos (by simpa using got), if_pos got, find_modGroup_same, hc]
    exact ⟨_, _, rfl⟩
  · rw [if_neg (by simpa using got), if_neg got, hx]
    exact ⟨_, _, rfl⟩
section
variable {P : Platform} {d : Device} {gid : Nat} {x : Group} {sp : Split} (hx : Tbl.find d.groups gid = some x) (hd : x.savedDrawer = none) (hs : x.state = .waiting)
include hx hd hs
section
variable (hk : splitOf x x.waitSplit = some sp) (hc : current sp ≠ none)
include hk hc
theorem woken_completes (w : RegWrites) (cl : Bool) : wokenView gid x.waitSplit (x.landed x.waitSplit false w 0) sp.past x.locks (completeWait d gid w cl) := by
  rw [wokenView, completeWait_awake w cl _ hx hd hs, stands_advanceCur hk hc]
theorem woken_acquires (w : RegWrites) (cl : Bool) : wokenView gid x.waitSplit (x.landed x.waitSplit false w 0) sp.past x.locks (completeWait (acquire d gid) gid w cl) := by
  rw [wokenView, completeWait_acquire w cl _ hx hd hs, stands_advanceCur hk hc]
theorem finishWait_barrier (st : Nat) (late : Bool) {p : Nat} (hw : x.wait = some (.barrier p)) : wokenView gid x.waitSplit x.regs sp.past x.locks (finishWait P d gid st late) := by
  simp only [finishWait, hx, hw]
  exact landed_plain x x.waitSplit ▸ woken_acquires hx hd hs hk hc RegWrites.none true
theorem finishWait_timeline (st : Nat) (late : Bool) {tl n : Nat} (hw : x.wait = some (.timeline tl n)) : wokenView gid x.waitSplit x.regs sp.past x.locks (finishWait P d gid st late) := by
  simp only [finishWait, hx, hw]
  exact landed_plain x x.waitSplit ▸ woken_acquires hx hd hs hk hc RegWrites.none false
theorem finishWait_xacq (st : Nat) (late : Bool) {n : Nat} (hw : x.wait = some (.xacq n)) : wokenView gid x.waitSplit x.regs sp.past x.locks (finishWait P d gid st late) := by
  simp only [finishWait, hx, hw]
  exact landed_plain x x.waitSplit ▸ woken_completes hx hd hs hk hc RegWrites.none true
theorem finishWait_counter (st : Nat) {pa sd} (hw : x.wait = some (.counter pa sd)) : wokenView gid x.waitSplit (x.landed x.waitSplit false (scaWrite sd.val 0) 0) sp.past x.locks (finishWait P d gid st false) := by
  simp only [finishWait, hx, hw]
  exact woken_acquires hx hd hs hk hc _ false
theorem finishWait_stepAdv (st : Nat) {sd} (hw : x.wait = some (.stepAdv sd)) : wokenView gid x.waitSplit { x.landed x.waitSplit false (scaWrite sd.val 0) 0 with stepCur := x.stepCur + 1 } sp.past x.locks (finishWait P d gid st false) := by
  simp only [finishWait, hx, hw]
  exact woken_completes (find_advanceStep P hx) hd hs hk hc _ true
theorem finishWait_lock (st : Nat) {line va sd pd since stage} (hw : x.wait = some (.lock line va sd pd since stage)) :
    wokenView gid x.waitSplit (x.landed x.waitSplit false (lockResult sd.val pd sp.mask st) 0) sp.past (if st = 0 ∨ st = 1 then x.locks ++ [line] else x.locks) (finishWait P d gid st false) := by
  have hm : ((splitOf x x.waitSplit).map (·.mask)).getD 0 = sp.mask := by rw [hk]; rfl
  have completes : finishWait P d gid st false = completeWait (lockFilled d gid x line va st stage) gid (lockResult sd.val pd sp.mask st) true := by
    simp only [finishWait, hx, hw, hm]
    rfl
  obtain ⟨c, v, hf⟩ := find_lockFilled line va st stage hx
  rw [completes]
  exact woken_completes hf hd hs hk hc _ true
end
variable (hk : splitOf x x.waitSplit = some sp)
include hk
theorem woken_drops : wokenView gid x.waitSplit x.regs (sp.pc, sp.index) x.locks (dropWait d gid) := by
  rw [wokenView, dropWait_awake _ hx hd hs, Group.stands, hk, Option.map_some]
theorem finishWait_hold (st : Nat) (late : Bool) {r} (hw : x.wait = some (.hold r)) : wokenView gid x.waitSplit x.regs (sp.pc, sp.index) x.locks (finishWait P d gid st late) := by
  simp only [finishWait, hx, hw]
  exact woken_drops hx hd hs hk
theorem finishWait_page (st : Nat) (late : Bool) {site job va} (hw : x.wait = some (.page site job va)) : wokenView gid x.waitSplit x.regs (sp.pc, sp.index) x.locks (finishWait P d gid st late) := by
  simp only [finishWait, hx, hw]
  exact woken_drops hx hd hs hk
/-- The slot of an `ld.ver` is chosen again: its load goes back to the record's home. -/
theorem finishWait_sealed (st : Nat) {op o q} (hw : x.wait = some (.sealed op)) (ho : (x.ops.find? fun o => o.id == op) = some o) (hq : o.kind = .verLoad q) :
    wokenView gid x.waitSplit x.regs (sp.pc, sp.index) x.locks (finishWait P d gid st false) ∧ ((finishWait P d gid st false).home q.record).loads = (d.home q.record).loads ++ [(gid, op)] := by
  have homes : ((dropWait d gid).home q.record).loads = (d.home q.record).loads := by rw [dropWait_eq hx hd]; rfl
  simp only [finishWait, hx, hw, ho, hq, Bool.false_eq_true, if_false]
  refine ⟨woken_drops hx hd hs hk, ?_⟩
  rw [Device.home, Device.modHome, Tbl.getD, find_set_same, Option.getD_some, homes]
end

/-! The decrement that brings a waiting group's drawer to 0 (R44). -/

theorem endWait_finishes (P : Platform) {d : Device} {gid : Nat} {x : Group} {w : WaitFor} (hx : Tbl.find d.groups gid = some x) (hs : x.state = .waiting) (hw : x.wait = some w) (ht : ∀ t, w ≠ .trap t) :
    endWait P d gid = finishWait P d gid ((drawerOf d x).flags.toNat / 16) ((drawerOf d x).flags.getLsbD 1) := by
  simp only [endWait, hx, hs, hw]
  split
  · rename_i h
    simp at h
  · rfl
/-- The device once a core has taken an arrival. -/
def arrivalTaken (d : Device) (core : Nat) (y : Decrement) (rest : List Decrement) : Device := (d.modCore core fun k => { k with arrivals := rest }).mergeClock (core / 128) y.clock
theorem core_arrivalTaken (d : Device) (core : Nat) (y : Decrement) (rest : List Decrement) : (arrivalTaken d core y rest).core core = { d.core core with arrivals := rest } :=
  core_modCore_same d core fun k => { k with arrivals := rest }
theorem drawer_arrivalTaken (d : Device) (core : Nat) (y : Decrement) (rest : List Decrement) (c i : Nat) : (arrivalTaken d core y rest).drawer c i = d.drawer c i :=
  drawer_modCore d core (fun k => { k with arrivals := rest }) (fun _ => rfl) c i
/-- The oldest decrement on its way to a core is one for a group that waits there with its drawer, in time. -/
structure Decrement.Reaches (y : Decrement) (d : Device) (core gid : Nat) (rest : List Decrement) (g : Group) : Prop where
  oldest : (d.core core).arrivals = y :: rest
  named : y.group = some (gid, g.waitSeq)
  unacked : y.ack = none
  found : Tbl.find d.groups gid = some g
  unsaved : g.savedDrawer = none
  waits : g.state = .waiting
  here : g.core = core
  inTime : pastDeadline d g = false
/-- A decrement brings a drawer that says no TIMEOUT to 0. -/
structure Decrement.Ends (y : Decrement) (x : Drawer) : Prop where
  counted : 0 < x.count.toNat
  enough : x.count.toNat ≤ y.n.toNat
  punctual : x.flags.getLsbD 1 = false
  status : y.status < 16
section
variable (P : Platform) {d : Device} {core gid : Nat} {y : Decrement} {rest : List Decrement}
theorem decrementArrives_group {g : Group} (h : y.Reaches d core gid rest g) : decrementArrives core P d = decrementGroup P (arrivalTaken d core y rest) g y.n.toNat y.status := by
  obtain ⟨oldest, named, unacked, found, unsaved, waits, here, inTime⟩ := h
  have past : pastDeadline (arrivalTaken d core y rest) g = false := by
    rw [← inTime]
    simp only [pastDeadline, drawerOf, unsaved, Option.getD_none, drawer_arrivalTaken]
    rfl
  have found' : Tbl.find (arrivalTaken d core y rest).groups gid = some g := found
  have states : (GroupState.waiting == .swapped) = false := rfl
  rw [arrivalTaken] at past found' ⊢
  simp only [decrementArrives, oldest, unacked, named, found', past, waits, here, states, bne_self_eq_false, Bool.and_false, Bool.false_and, Bool.false_eq_true, if_false]
theorem decrementArrives_handle (oldest : (d.core core).arrivals = y :: rest) (unacked : y.ack = none) (named : y.group = none) : decrementArrives core P d = decrementHandle P (arrivalTaken d core y rest) core y := by
  simp only [decrementArrives, oldest, unacked, named, arrivalTaken]
/-- It finishes the wait with the status it carries. -/
theorem decrementArrives_wakes {g : Group} {w : WaitFor} (h : y.Reaches d core gid rest g) (hid : g.id = gid) (hy : y.Ends (d.drawer core g.block)) (hw : g.wait = some w) (ht : ∀ t, w ≠ .trap t) :
    ∃ e z, e.groups = d.groups ∧ e.homes = d.homes ∧ decrementArrives core P d = (finishWait P e gid y.status false).modGroup gid fun g => { g with readied := z } := by
  let e := (arrivalTaken d core y rest).setDrawer core g.block ((d.drawer core g.block).zeroed y.n.toNat y.status)
  refine ⟨e, some e.clock, rfl, rfl, ?_⟩
  have found : Tbl.find e.groups gid = some g := h.found
  have drawer : drawerOf e g = (d.drawer core g.block).zeroed y.n.toNat y.status := by
    rw [drawerOf, h.unsaved, Option.getD_none, h.here]
    exact drawer_setDrawer _ _ _ _
  have ends : endWait P e gid = finishWait P e gid y.status false := by
    rw [endWait_finishes P found h.waits hw ht, drawer]
    simp only [Drawer.zeroed, zeroFlags_status _ _ hy.status, zeroFlags_timeout _ _ hy.status, hy.punctual]
  rw [decrementArrives_group P h, ← ends]
  simp only [decrementGroup, drawerOf, h.unsaved, Option.getD_none, h.here, drawer_arrivalTaken, decrement_zero y.status hy.counted hy.enough, if_true, hid, setDrawerOf]
  rfl
end
section
variable {s : State} {core gid : Nat} {y : Decrement} {rest : List Decrement} {g : Group} {w : WaitFor}
  (h : y.Reaches s.dev core gid rest g) (hid : g.id = gid) (hy : y.Ends (s.dev.drawer core g.block)) (hw : g.wait = some w) (ht : ∀ t, w ≠ .trap t)
include h hid hy hw ht
/-- The arrival leaves of the group what the finished wait leaves of it. -/
theorem arrival_wakes {r : Regs} {pos : DWord × Nat} {ls : List Nat} (hf : ∀ e : Device, Tbl.find e.groups gid = some g → wokenView gid g.waitSplit r pos ls (finishWait s.plat e gid y.status false)) :
    Event (.decrementArrival core) s (wokenView gid g.waitSplit r pos ls) := by
  obtain ⟨e, z, he, -, hr⟩ := decrementArrives_wakes s.plat h hid hy hw ht
  refine ⟨_, rfl, ?_⟩
  rw [hr]
  exact (viewAt_modGroup (Group.awake g.waitSplit) _ gid gid (fun g => { g with readied := z }) fun _ => by rfl).trans (hf e (by rw [he, h.found]))
theorem arrival_retries {sp : Split} {op : Nat} {o : Op} {q : VerLoad} (hs : w = .sealed op) (ho : (g.ops.find? fun o => o.id == op) = some o) (hq : o.kind = .verLoad q) (hk : splitOf g g.waitSplit = some sp) :
    Event (.decrementArrival core) s fun d => wokenView gid g.waitSplit g.regs (sp.pc, sp.index) g.locks d ∧ (d.home q.record).loads = (s.dev.home q.record).loads ++ [(gid, op)] := by
  obtain ⟨e, z, he, homes, hr⟩ := decrementArrives_wakes s.plat h hid hy hw ht
  obtain ⟨place, loads⟩ := finishWait_sealed (P := s.plat) (d := e) (by rw [he, h.found]) h.unsaved h.waits hk y.status (hs ▸ hw) ho hq
  refine ⟨_, rfl, ?_⟩
  rw [hr]
  refine ⟨(viewAt_modGroup (Group.awake g.waitSplit) _ gid gid (fun g => { g with readied := z }) fun _ => by rfl).trans place, loads.trans ?_⟩
  rw [Device.home, homes, Device.home]
end

/-! Deadlines and tasks (R46, R48). -/

/-- What does not see the groups and the next number. -/
theorem of_rest {β : Type} (p : Device → β) (hp : ∀ d, p d.rest = p d) {d e : Device} (h : d.rest = e.rest) : p d = p e := by rw [← hp d, h, hp]
theorem rest_completeWait {d : Device} {gid : Nat} {x : Group} (w : RegWrites) (cl : Bool) (hx : Tbl.find d.groups gid = some x) : (completeWait d gid w cl).rest = (dropWait d gid).rest := by
  simp only [completeWait, hx]
  split <;> simp
/-- A completed wait leaves the generation of its drawer. -/
theorem completeWait_gen {d : Device} {gid : Nat} {x : Group} (w : RegWrites) (cl : Bool) (hx : Tbl.find d.groups gid = some x) (hd : x.savedDrawer = none) : ((completeWait d gid w cl).drawer x.core x.block).gen = (d.drawer x.core x.block).gen := by
  have cores : (completeWait d gid w cl).cores = (dropWait d gid).cores := of_rest Device.cores (fun _ => rfl) (rest_completeWait w cl hx)
  have drawer : (completeWait d gid w cl).drawer x.core x.block = (dropWait d gid).drawer x.core x.block := by rw [Device.drawer, Device.core, cores]; rfl
  rw [drawer, dropWait_eq hx hd, drawer_setDrawer]
theorem completeWait_mem {d : Device} {gid : Nat} {x : Group} (w : RegWrites) (cl : Bool) (hx : Tbl.find d.groups gid = some x) : (completeWait d gid w cl).mem = d.mem :=
  (of_rest Device.mem (fun _ => rfl) (rest_completeWait w cl hx)).trans (mem_of_beside (beside_dropWait d gid))

/-- A group's device once the deadline of its wait has passed (R46). -/
def timedOut (d : Device) (gid : Nat) (g : Group) : Device := removeWatches ((d.setDrawer g.core g.block (expire (d.drawer g.core g.block))).modGroup gid fun g => { g with waitSeq := g.waitSeq + 1 }) gid
theorem find_timedOut {d : Device} {gid : Nat} {g : Group} (hg : Tbl.find d.groups gid = some g) : Tbl.find (timedOut d gid g).groups gid = some { g with waitSeq := g.waitSeq + 1 } :=
  (find_modGroup_same (d.setDrawer g.core g.block (expire (d.drawer g.core g.block))) gid _).trans (by rw [show Tbl.find (d.setDrawer g.core g.block (expire (d.drawer g.core g.block))).groups gid = some g from hg]; rfl)
theorem drawer_timedOut (d : Device) (gid : Nat) (g : Group) : (timedOut d gid g).drawer g.core g.block = expire (d.drawer g.core g.block) := drawer_setDrawer _ _ _ _
/-- A wait that its deadline ends is finished with TIMEOUT. -/
theorem waitExpires_finishes (P : Platform) {d : Device} {gid : Nat} {g : Group} {w : WaitFor} (hg : Tbl.find d.groups gid = some g) (hid : g.id = gid) (hd : g.savedDrawer = none) (hs : g.state = .waiting) (hw : g.wait = some w) (ht : ∀ t, w ≠ .trap t)
    (hl : lockWait g = false) (hp : pastDeadline d g = true) : ∃ st, waitExpires gid P d = finishWait P (timedOut d gid g) gid st true := by
  have late : ∀ b : BitVec 8, ((b &&& 0x0F) ||| 2).getLsbD 1 = true := by decide
  have drawer : drawerOf (timedOut d gid g) { g with waitSeq := g.waitSeq + 1 } = expire (d.drawer g.core g.block) := by
    rw [drawerOf, hd]
    exact drawer_timedOut d gid g
  have ends := endWait_finishes P (find_timedOut hg) hs hw ht
  refine ⟨_, Eq.trans ?_ (ends.trans (by rw [drawer, expire, late]))⟩
  simp only [waitExpires, hg, hw, hp, hl, timeoutGroup, setDrawerOf, drawerOf, hd, hid, Option.getD_none, Bool.not_false, Bool.and_self, if_true, timedOut]
theorem landed_waitSeq (g : Group) (n k : Nat) (tr : Bool) (w : RegWrites) (rs : Nat) : ({ g with waitSeq := n } : Group).landed k tr w rs = g.landed k tr w rs := by
  cases tr <;> rfl
/-- What TIMEOUT leaves of a counter's or a step's wait. -/
theorem completeWait_timedOut {d e : Device} {gid : Nat} {g : Group} (w : RegWrites) (cl : Bool) (hg : Tbl.find d.groups gid = some g) (hd : g.savedDrawer = none) (hs : g.state = .waiting)
    (he : e.groups = (timedOut d gid g).groups) (hc : e.cores = (timedOut d gid g).cores) (hm : e.mem = d.mem) :
    regsOf (completeWait e gid w cl) gid = some (g.landed g.waitSplit false w 0) ∧ waitIn (completeWait e gid w cl) gid = none ∧ (Tbl.find (completeWait e gid w cl).groups gid).map (·.state) = some .live ∧
      ((completeWait e gid w cl).drawer g.core g.block).gen = (d.drawer g.core g.block).gen + 1 ∧ (completeWait e gid w cl).mem = d.mem := by
  have found : Tbl.find e.groups gid = some { g with waitSeq := g.waitSeq + 1 } := by rw [he, find_timedOut hg]
  have drawer : e.drawer g.core g.block = expire (d.drawer g.core g.block) := by
    rw [Device.drawer, Device.core, hc]
    exact drawer_timedOut d gid g
  obtain ⟨x, hx, hv⟩ := Option.map_eq_some_iff.1 (completeWait_awake w cl 0 found hd hs)
  simp only [Group.awake, Prod.mk.injEq, landed_waitSeq] at hv
  obtain ⟨hr, hw, hst, -⟩ := hv
  refine ⟨by rw [regsOf, hx, Option.map_some, hr], by rw [waitIn, hx, Option.bind_some, hw], by rw [hx, Option.map_some, hst], ?_, (completeWait_mem w cl found).trans hm⟩
  exact (completeWait_gen w cl found hd).trans (congrArg Drawer.gen drawer)

/-- A task's group stands at its entry with a full mask, its argument in s0. -/
def Group.begun (g : Group) : Nat × Nat × Nat × Nat × Nat × GroupState × Nat × Option DWord × List (Nat × DWord × Nat × Mask) :=
  (g.job, g.team, g.index, g.core, g.slot, g.state, g.h, g.s[0]?, g.splits.map fun e => (e.1, e.2.pc, e.2.index, e.2.mask))
theorem startValues_head {l : List DWord} (h : 0 < l.length) (a b c : DWord) : (listSet (listSet (listSet l 0 a) 1 b) 2 c)[0]? = some a := by
  cases l with
  | nil => simp at h
  | cons x l => rfl
/-- The scalar registers that a group of a job starts with, before its start values (R82). -/
def startScalars (d : Device) (core block job : Nat) : List DWord :=
  let ctl := Tbl.getD (d.core core).ctl block { job := none, s := [], p := [] }
  if ctl.job = some job && decide (ctl.s.length = 32) && decide (ctl.p.length = 8) then ctl.s else List.replicate 32 0
theorem startScalars_length (d : Device) (core block job : Nat) : (startScalars d core block job).length = 32 := by
  simp only [startScalars]
  split
  · rename_i h
    simp only [Bool.and_eq_true, decide_eq_true_eq] at h
    exact h.1.2
  · rfl
theorem startGroup_begun (d : Device) (x : GroupSeed) : viewAt Group.begun (startGroup d x) d.nextId = some (x.job, x.team, x.index, x.core, x.slot, .live, 0, some x.s0, [(0, x.entry, 0, x.lanes)]) := by
  have s0 : (listSet (listSet (listSet (startScalars d x.core (blockAt d x.core x.slot x.pos) x.job) 0 x.s0) 1 (BitVec.ofNat 64 x.index)) 2 x.s2)[0]? = some x.s0 :=
    startValues_head (by rw [startScalars_length]; decide) _ _ _
  refine (congrArg (Option.map Group.begun) (find_set_same _ _ _)).trans ?_
  rw [← s0]
  rfl
/-- What the start of a task asks for (R48). -/
def taskSeed (d : Device) (core slot : Nat) (x : Drawer) (t : Team) : GroupSeed :=
  { job := t.job, team := t.id, index := t.nextTask, task := true, core, slot, pos := (freePos d core slot).headD 0, lanes := BitVec.allOnes 32, entry := x.entry, s0 := x.arg, s2 := t.s2, step := t.step }
/-- The device without a task on the start queue of its core. -/
def taskTaken (d : Device) (core i : Nat) : Device := d.modCore core fun k => { k with startQueue := k.startQueue.filter fun e => e.1 != i }
/-- The device in which the group of a task has started, before its acquire. -/
def taskBegun (d : Device) (core slot i : Nat) (x : Drawer) (t : Team) : Device :=
  ((startGroup (taskTaken d core i) (taskSeed (taskTaken d core i) core slot x t)).freeDrawer core i).modTeam t.id fun t => { t with nextTask := t.nextTask + 1 }
theorem taskStarts_eq (P : Platform) {d : Device} {core i slot : Nat} {x : Drawer} {t : Team} (hn : nextTask d core = some (i, x, t)) (hf : firstSlot d core = some slot) :
    taskStarts core P d = acquire (taskBegun d core slot i x t) d.nextId := by
  simp only [taskStarts, hn, hf]
  rfl
theorem taskBegun_mem (d : Device) (core slot i : Nat) (x : Drawer) (t : Team) : (taskBegun d core slot i x t).mem = d.mem := rfl
theorem taskBegun_groups (d : Device) (core slot i : Nat) (x : Drawer) (t : Team) : (taskBegun d core slot i x t).groups = (startGroup (taskTaken d core i) (taskSeed (taskTaken d core i) core slot x t)).groups := rfl
/-- The core of a readied task has it last in its queue; its drawer stands. -/
theorem readyTask_core (d : Device) (c i : Nat) (x : Drawer) : (readyTask (d.setDrawer c i x) c i).drawer c i = x ∧ ((readyTask (d.setDrawer c i x) c i).core c).startQueue = (d.core c).startQueue ++ [(i, x)] := by
  have drawer := drawer_setDrawer d c i x
  rw [readyTask, drawer]
  exact ⟨(drawer_modCore (d.setDrawer c i x) c (fun k => { k with startQueue := k.startQueue ++ [(i, x)] }) (fun _ => rfl) c i).trans drawer, by rw [core_modCore_same, Device.setDrawer, core_modCore_same]⟩

end Sys2Proof.Machine

namespace Sys2Proof
open Machine

/-- Settles O23: a decrement's effect is that of the drawer it reaches; one that brings a waiting group's drawer to 0 finishes the wait, and each kind of wait has its own lemma. -/
theorem decrementsDeadlinesAndTasks : Obligations.decrements_deadlines_and_tasks := by
  unfold Obligations.decrements_deadlines_and_tasks
  refine ⟨?below, ?zero, ?task, ?deadline, ?start⟩
  case below =>
    intro core s y rest gid seq g ha hy hk hg hd hs hc hq hw hp x hn
    refine ⟨_, rfl, ?_⟩
    rw [decrementArrives_group s.plat ⟨ha, hq ▸ hy, hk, hg, hd, hs, hc, hp⟩]
    have below : decrement (s.dev.drawer core g.block) y.n.toNat y.status = ({ x with count := x.count - y.n }, false) := decrement_below y.status hn
    simp only [decrementGroup, setDrawerOf, drawerOf, hd, Option.getD_none, hc, drawer_arrivalTaken, below]
    rfl
  case zero =>
    intro core s y rest gid seq g sp ha hy hk hg hid hd hs hc hq hp hsp hcur x woken next h0 hn hf h16
    have reaches : y.Reaches s.dev core gid rest g := ⟨ha, hq ▸ hy, hk, hg, hd, hs, hc, hp⟩
    have ends : y.Ends (s.dev.drawer core g.block) := ⟨h0, hn, hf, h16⟩
    have resumes {r : Regs} {pos : DWord × Nat} {ls : List Nat} (h : Event (.decrementArrival core) s (wokenView gid g.waitSplit r pos ls)) : Event (.decrementArrival core) s (woken r pos) := by
      obtain ⟨d, he, hv⟩ := h
      exact ⟨d, he, (woken_of hv).1⟩
    refine ⟨fun p hw => ?_, fun tl n hw => ?_, fun n hw => ?_, fun line va sd pd since st hw => ?_, fun pa sd hw => ?_, fun sd hw => ?_, fun op o q hw ho hv => ?_, fun r hw => ?_, fun site job va hw => ?_⟩
    · exact resumes (arrival_wakes reaches hid ends hw (fun _ => WaitFor.noConfusion) fun e hx => finishWait_barrier hx hd hs hsp hcur _ _ hw)
    · exact resumes (arrival_wakes reaches hid ends hw (fun _ => WaitFor.noConfusion) fun e hx => finishWait_timeline hx hd hs hsp hcur _ _ hw)
    · exact resumes (arrival_wakes reaches hid ends hw (fun _ => WaitFor.noConfusion) fun e hx => finishWait_xacq hx hd hs hsp hcur _ _ hw)
    · obtain ⟨d, he, hv⟩ := arrival_wakes reaches hid ends hw (fun _ => WaitFor.noConfusion) fun e hx => finishWait_lock hx hd hs hsp hcur _ hw
      exact ⟨d, he, woken_of hv⟩
    · exact resumes (arrival_wakes reaches hid ends hw (fun _ => WaitFor.noConfusion) fun e hx => finishWait_counter hx hd hs hsp hcur _ hw)
    · exact resumes (arrival_wakes reaches hid ends hw (fun _ => WaitFor.noConfusion) fun e hx => finishWait_stepAdv hx hd hs hsp hcur _ hw)
    · obtain ⟨d, he, hv, loads⟩ := arrival_retries reaches hid ends hw (fun _ => WaitFor.noConfusion) rfl ho hv hsp
      exact ⟨d, he, (woken_of hv).1, loads⟩
    · exact resumes (arrival_wakes reaches hid ends hw (fun _ => WaitFor.noConfusion) fun e hx => finishWait_hold hx hd hs hsp _ _ hw)
    · exact resumes (arrival_wakes reaches hid ends hw (fun _ => WaitFor.noConfusion) fun e hx => finishWait_page hx hd hs hsp _ _ hw)
  case task =>
    intro core s y rest i ha hy hk hh x hkind hres hjob h0 hn
    have drawers := drawer_arrivalTaken s.dev core y rest
    have holder : findDrawer (arrivalTaken s.dev core y rest) y.handle = .core core i := (findDrawer_congr (d := s.dev) (e := arrivalTaken s.dev core y rest) rfl drawers y.handle).trans hh
    have job : drawerJob (arrivalTaken s.dev core y rest) x = some y.job := hjob
    let z := x.zeroed y.n.toNat y.status
    have readies : decrementArrives core s.plat s.dev = readyTask ((arrivalTaken s.dev core y rest).setDrawer core i z) core i := by
      rw [decrementArrives_handle s.plat ha hk hy]
      have dec : decrement (s.dev.drawer core i) y.n.toNat y.status = (z, true) := decrement_zero y.status h0 hn
      have kind : (s.dev.drawer core i).kind = 2 := hkind
      have live : (s.dev.drawer core i).reserved = false := hres
      simp only [decrementHandle, holder, drawers, kind, live, dec, show drawerJob (arrivalTaken s.dev core y rest) (s.dev.drawer core i) = some y.job from job, bne_self_eq_false, Bool.or_self, Bool.false_eq_true, if_false, if_true]
    refine ⟨_, rfl, ?_⟩
    rw [readies]
    obtain ⟨drawer, queue⟩ := readyTask_core (arrivalTaken s.dev core y rest) core i z
    exact ⟨rfl, rfl, z, rfl, rfl, rfl, rfl, drawer, queue.trans (by rw [core_arrivalTaken])⟩
  case deadline =>
    intro gid s g sd hg hid hd hs hw hp
    refine ⟨_, rfl, ?_⟩
    obtain ⟨pa, hw⟩ | hw := hw
    · obtain ⟨st, hr⟩ := waitExpires_finishes s.plat hg hid hd hs hw (fun _ => WaitFor.noConfusion) (by rw [lockWait, hw]) hp
      rw [hr]
      simp only [finishWait, find_timedOut hg, hw, if_true]
      exact completeWait_timedOut _ false hg hd hs rfl rfl rfl
    · obtain ⟨st, hr⟩ := waitExpires_finishes s.plat hg hid hd hs hw (fun _ => WaitFor.noConfusion) (by rw [lockWait, hw]) hp
      rw [hr]
      simp only [finishWait, find_timedOut hg, hw, if_true]
      exact completeWait_timedOut _ true hg hd hs rfl rfl rfl
  case start =>
    intro core s i x t slot hn hf
    refine ⟨_, rfl, ?_⟩
    rw [show taskStarts core s.plat s.dev = _ from taskStarts_eq s.plat hn hf]
    refine ⟨(acquire_mem _ _).trans (taskBegun_mem _ _ _ _ _ _), fun j hj => ?_, ?_⟩
    · exact (view_acquire Group.regs (fun _ _ => rfl) _ _ j).trans ((viewAt_groups Group.regs (taskBegun_groups _ _ _ _ _ _) j).trans (congrArg (Option.map Group.regs) (find_startGroup_other _ _ hj)))
    · have begun := (view_acquire Group.begun (fun _ _ => rfl) (taskBegun s.dev core slot i x t) s.dev.nextId s.dev.nextId).trans ((viewAt_groups Group.begun (taskBegun_groups _ _ _ _ _ _) _).trans (startGroup_begun _ _))
      obtain ⟨g, hg, hv⟩ := Option.map_eq_some_iff.1 begun
      simp only [Group.begun, taskSeed, Prod.mk.injEq] at hv
      obtain ⟨hjob, hteam, hindex, hcore, hslot, hstate, hh, hs0, hsplits⟩ := hv
      exact ⟨g, hg, hjob, hteam, hindex, hcore, hslot, hstate, hh, hs0, hsplits⟩

end Sys2Proof

/-! The register file after a result (R83). -/

namespace Sys2Proof.Machine
open Sys2Proof

/-! Writes of cells and lists. -/

theorem mem_lanesOf {m : Mask} {l : Nat} : l ∈ lanesOf m ↔ l < 32 ∧ m.getLsbD l = true := by simp [lanesOf]
/-- A list with one element replaced, as the library writes it. -/
theorem listSet_eq_set {α : Type} (l : List α) (k : Nat) (v : α) : listSet l k v = l.set k v := by
  induction l generalizing k with
  | nil => rfl
  | cons x t ih => cases k <;> simp [listSet, ih]
/-- A list with one element changed, as the library writes it. -/
theorem listMod_eq_modify {α : Type} (f : α → α) (l : List α) (k : Nat) : listMod f l k = l.modify k f := by
  induction l generalizing k with
  | nil => simp [listMod]
  | cons x t ih => cases k <;> simp [listMod, ih]
section
variable {α : Type} [DecidableEq α] {d : α} {ws : List (Nat × α)} {i : Nat}
/-- A cell that no write of a list names keeps its content. -/
theorem get_foldl_put_other (h : ∀ c ∈ ws, c.1 ≠ i) (m : Cells α) : Cells.get d (ws.foldl (fun m c => Cells.put d m c.1 c.2) m) i = Cells.get d m i := by
  induction ws generalizing m with
  | nil => rfl
  | cons c ws ih => rw [List.foldl_cons, ih fun x hx => h x (List.mem_cons_of_mem _ hx), get_put_other _ _ _ _ _ (h c List.mem_cons_self).symm]
/-- A cell that a write of a list names, and no other write gives another value, has that value. -/
theorem get_foldl_put_same {v : α} (hv : (i, v) ∈ ws) (h : ∀ c ∈ ws, c.1 = i → c.2 = v) (m : Cells α) : Cells.get d (ws.foldl (fun m c => Cells.put d m c.1 c.2) m) i = v := by
  induction ws generalizing m with
  | nil => simp at hv
  | cons c ws ih =>
    have rest : ∀ x ∈ ws, x.1 = i → x.2 = v := fun x hx => h x (List.mem_cons_of_mem _ hx)
    rw [List.foldl_cons]
    by_cases hl : (i, v) ∈ ws
    · exact ih hl rest _
    · obtain rfl : (i, v) = c := (List.mem_cons.1 hv).resolve_right hl
      rw [get_foldl_put_other fun x hx hi => hl (by rw [← hi, ← rest x hx hi]; exact hx), get_put_same]
end

/-! Results in the register file. -/

/-- A cell that a vector result writes: of an active lane, in one of its registers. -/
theorem mem_vecWrites {r n : Nat} {ls : List Nat} {f : Nat → Nat} {c : Nat × Word} :
    c ∈ (vecWrites r n ls f).vs ↔ ∃ l ∈ ls, ∃ j < n, c = (32 * (r + j) + l, BitVec.ofNat 32 (f l / 2 ^ (32 * j))) := by
  simp [vecWrites, cellsAt, eq_comm]
/-- A vector result at an active lane. -/
theorem get_vecWrites_active {r n l j : Nat} {m : Mask} (f : Nat → Nat) (v : Cells Word) (hl : l < 32) (hj : j < n) (ha : m.getLsbD l = true) :
    Cells.get 0 ((vecWrites r n (lanesOf m) f).vs.foldl (fun m c => Cells.put 0 m c.1 c.2) v) (32 * (r + j) + l) = BitVec.ofNat 32 (f l / 2 ^ (32 * j)) := by
  apply get_foldl_put_same
  · exact mem_vecWrites.2 ⟨l, mem_lanesOf.2 ⟨hl, ha⟩, j, hj, rfl⟩
  · intro c hc hi
    obtain ⟨l', hl', j', -, rfl⟩ := mem_vecWrites.1 hc
    have := (mem_lanesOf.1 hl').1
    obtain rfl : l' = l := by dsimp only at hi; omega
    obtain rfl : j' = j := by dsimp only at hi; omega
    rfl
/-- A vector result leaves each cell of an inactive lane and of another register. -/
theorem get_vecWrites_other {r n l y : Nat} {m : Mask} (f : Nat → Nat) (v : Cells Word) (hl : l < 32) (h : m.getLsbD l = false ∨ y < r ∨ r + n ≤ y) :
    Cells.get 0 ((vecWrites r n (lanesOf m) f).vs.foldl (fun m c => Cells.put 0 m c.1 c.2) v) (32 * y + l) = Cells.get 0 v (32 * y + l) := by
  apply get_foldl_put_other
  intro c hc hi
  obtain ⟨l', hl', j, hj, rfl⟩ := mem_vecWrites.1 hc
  obtain ⟨hlt, ha⟩ := mem_lanesOf.1 hl'
  obtain rfl : l' = l := by dsimp only at hi; omega
  obtain rfl : y = r + j := by dsimp only at hi; omega
  rcases h with h | h
  · rw [h] at ha
    cases ha
  · omega
/-- Two half-words make a lane value; a part that is not computed keeps the bits it had (R145). -/
theorem mergeElems_halves {t : Ty} {old : Nat} {f : Nat → Nat} (ht : t.is16 = true) (hf : ∀ e, f e < 2 ^ 16) :
    mergeElems t .full old f = f 0 + 2 ^ 16 * f 1 ∧ mergeElems t .lo old f = f 0 + 2 ^ 16 * (old / 2 ^ 16) ∧ mergeElems t .hi old f = old % 2 ^ 16 + 2 ^ 16 * f 1 := by
  have h0 := hf 0
  have h1 := hf 1
  refine ⟨?_, ?_, ?_⟩ <;> simp only [mergeElems, Part.elems, putElem, ht, List.foldl_cons, List.foldl_nil, if_true, one_ne_zero, if_false] <;> omega
theorem guardLanes_getLsbD (g : Group) (m : Mask) (q : Guard) {l : Nat} (hl : l < 32) : (guardLanes g m (some q)).getLsbD l = (m.getLsbD l && ((g.pred q.p).getLsbD l != q.neg)) := by
  cases h : q.neg <;> simp [guardLanes, h, hl]

end Sys2Proof.Machine

namespace Sys2Proof
open Machine

/-- Settles O58: a result in the register file is a list of writes of cells at the active lanes, or of one scalar or predicate. -/
theorem resultsReachTheActiveLanes : Obligations.results_reach_the_active_lanes := by
  unfold Obligations.results_reach_the_active_lanes
  refine ⟨?vector, ?predicate, ?scalar, ?half, ?guard⟩
  case vector =>
    intro g k r n m f rs _
    refine ⟨fun l j hl hj => ?_, fun y l hl h => get_vecWrites_other f g.v hl (.inr h), rfl, rfl, rfl⟩
    split
    · exact get_vecWrites_active f g.v hl hj ‹_›
    · exact get_vecWrites_other f g.v hl (.inl (Bool.eq_false_iff.2 ‹_›))
  case predicate =>
    intro g k n m v rs hn
    have hp : (g.landed k false (predWrite n m v) rs).p = g.p.modify n fun o => (o &&& ~~~m) ||| (v &&& m &&& m) := listMod_eq_modify _ _ _
    refine ⟨rfl, rfl, ?_, fun j hj => ?_⟩
    · simp [hp, hn, List.getD_eq_getElem?_getD, BitVec.and_assoc]
    · simp [hp, hj.symm]
  case scalar =>
    intro g k n v rs hn
    have hs : (g.landed k false (scaWrite n v) rs).s = g.s.set n (BitVec.ofNat 64 v) := listSet_eq_set _ _ _
    refine ⟨rfl, rfl, ?_, fun j hj => ?_⟩
    · rw [hs, List.getElem?_set_self hn]
    · rw [hs, List.getElem?_set_ne hj.symm]
  case half => exact fun t old f ht _ hf => mergeElems_halves ht hf
  case guard => exact fun g m p neg l hl => ⟨rfl, guardLanes_getLsbD g m { p, neg } hl⟩

end Sys2Proof

/-! Control registers, regions and extended blocks (R74, R75, R93, R119, R131, R191, R335, R366). -/

namespace Sys2Proof.Machine
open Sys2Proof

/-- The issuing context is of the state's platform and device, where its split stands at its instruction. -/
theorem ready_own {i : Instr} {gd : Option Guard} {s : State} {c : Ctx} (h : ready i gd s = some c) : c.P = s.plat ∧ c.d = s.dev ∧ c.stays c.d := by
  obtain ⟨hP, hd, -, -, -⟩ := ready_ctx h
  exact ⟨hP, hd, hd ▸ ready_stays h⟩

/-! Control registers. -/

/-- A control write leaves the issuing split where it is: of its group it changes only registers of the group's own. -/
theorem ctlWrite_stays {c : Ctx} (n : Nat) (v : DWord) (h : c.stays c.d) : c.stays (ctlWrite c n v).1 := by
  have own {f : Group → Group} (hf : ∀ g, (f g).splits = g.splits) : c.stays (c.d.modGroup c.gid f) := stays_modGroup hf h
  simp only [ctlWrite]
  repeat' split
  · exact own fun _ => rfl
  · exact h
  · exact stays_of rfl h
  · exact own fun _ => rfl
  · exact stays_of rfl h
  · exact stays_of rfl h
  · exact h
theorem sysWrBody_writable {n : Nat} {r : SReg} {c : Ctx} (h32 : ctlKind n ≠ some .ro32) (h64 : ctlKind n ≠ some .ro64) :
    okDone c (sysWrBody n r c) = some (.act (ctlWrite c n (writeValue c r)).1 RegWrites.none false (ctlWrite c n (writeValue c r)).2) := by
  unfold sysWrBody
  split
  · exact absurd ‹_› h32
  · exact absurd ‹_› h64
  · rfl

end Sys2Proof.Machine

namespace Sys2Proof
open Machine

/-- Settles O16: each write of a control register is one change of the device, and none of them moves the issuing split. -/
theorem controlRegistersComplete : Obligations.control_registers_complete := by
  unfold Obligations.control_registers_complete
  refine ⟨?read, ?write, ?translation, ?code, ?lead, ?member⟩
  case read => exact fun r n => lands_of (fun _ => rfl) rfl rfl rfl
  case write =>
    intro n r s c hr h32 h64
    obtain ⟨-, -, stands⟩ := ready_own hr
    exact completes_act hr rfl rfl rfl (.inl rfl) (sysWrBody_writable h32 h64) (ctlWrite_stays _ _ stands)
  case translation =>
    intro r s c hr
    obtain ⟨-, hd, stands⟩ := ready_own hr
    rw [← hd]
    exact completes_act hr rfl rfl rfl (.inl rfl) rfl (stays_of rfl stands)
  case code =>
    intro r s c hr
    obtain ⟨-, hd, stands⟩ := ready_own hr
    rw [← hd]
    exact completes_act hr rfl rfl rfl (.inl rfl) rfl (stays_of rfl stands)
  case lead =>
    intro r s c hr
    obtain ⟨hP, hd, stands⟩ := ready_own hr
    rw [← hP, ← hd]
    exact completes_act hr rfl rfl rfl (.inl rfl) rfl (stays_of (sbEvaluate_groups _ _ _) stands)
  case member =>
    intro i r s c hr
    obtain ⟨hP, hd, stands⟩ := ready_own hr
    rw [← hP, ← hd]
    exact completes_act hr rfl rfl rfl (.inl rfl) rfl (stays_of (sbEvaluate_groups _ _ _) stands)

end Sys2Proof

namespace Sys2Proof.Machine
open Sys2Proof

/-! Transfers and closing instructions that wait. -/

/-- A transfer to a clause start answers a next state whose split stands there, and whose group is as the transfer placed it but for the notes of the issue. -/
theorem completes_jump {i : Instr} {gd : Option Guard} {s : State} {c : Ctx} {body : Ctx → Except Stop (Ctx → Done)} {F : Group → Group} {target : DWord} (hr : ready i gd s = some c) (he : exec i s = runCode i gd s body)
    (h1 : closesFirst i = false) (h2 : closesEarly i = false) (h3 : isHeldEffect i = false) (hb : okDone c (body c) = some (.jump (c.d.modGroup c.gid F))) (hF : ∀ g, (F g).regs = g.regs) (ht : (F c.g).stands c.k = some (target, 0)) :
    Completes (exec i s) fun t => Jumped s c target t ∧ ∃ last y, Tbl.find t.dev.groups c.gid = some ((F c.g).noted c.k s.dev.clock last y) := by
  obtain ⟨f, hb, hf⟩ := okDone_spec hb
  obtain ⟨-, hd, hg, -, -⟩ := ready_ctx hr
  have placed : Tbl.find (c.d.modGroup c.gid F).groups c.gid = some (F c.g) := by rw [find_modGroup_same, hd, hg]; rfl
  refine ⟨_, he.trans (runCode_ok hr h1 h2 (.inl h3) hb), ?_, ?_⟩
  · rw [hf]
    exact retire_jump hd hF (by rw [hg, Option.map_some, ht])
  · rw [hf, ← hd]
    exact find_noted (k := c.k) i placed
/-- A closing instruction that waits. -/
theorem closing_wait {i : Instr} {gd : Option Guard} {s : State} {c : Ctx} {body : Ctx → Except Stop (Ctx → Done)} {f : Ctx → Done} {d : Device} {g : Group} {w : WaitFor} (hr : ready i gd s = some c) (he : exec i s = runCode i gd s body)
    (hi : ∀ d a, i ≠ .mig d a) (hi' : ∀ d a, i ≠ .migNear d a) (h1 : closesFirst i = true) (h2 : closesEarly i = false) (h3 : isHeldEffect i = false) (hc : c.clear = true) (hb : body c = .ok f) (hf : f c.reopened = .wait d)
    (hs : c.stays d) (hg : Tbl.find d.groups c.gid = some g) (hw : g.wait = some w) : Completes (exec i s) (Waits s c d w) := by
  refine ⟨_, he.trans (runCode_closing hr hi hi' h1 h2 h3 hc hb), ?_⟩
  rw [hf]
  exact retire_wait (c := c.reopened) hs hg hw

/-! Regions (R119, R127). -/

/-- The region that `rgn` opens at a clause start (R119). -/
def rgnRegion (f : RgnF) (clause rsCtr : DWord) (since : Nat) : Region :=
  { clause, index := 0, longs := 0, whole := false, vmask := f.vmask, smask := f.smask, xmask := f.xmask, pmask := f.pmask, rsCtr, since }
/-- A split of which `rgn` makes the next clause start its region. -/
def rgnMoved (f : RgnF) (rsCtr : DWord) (since : Nat) (sp : Split) : Split :=
  { gotoClause sp (nextClause sp) .fallThrough with noMatch := false, waitOver := false, region := rgnRegion f (nextClause sp) rsCtr since }
/-- A group whose split's region closes and gives way to the one that `rgn` names. -/
def rgnOpened (f : RgnF) (c : Ctx) (g : Group) : Group := modSplit (closeRegion c.d.clock (closing c.d g) g c.k) c.k (rgnMoved f g.rsCtr c.d.clock)
theorem rgnBody_ok {f : RgnF} {c : Ctx} (hx : ∀ e < 6, f.xmask.getLsbD e = true → e < c.g.h)
    (ht : ∀ k ∈ Tbl.keys c.g.transients, (if k < 32 then f.vmask.getLsbD k else if k < 224 then f.xmask.getLsbD ((k - 32) / 32) else f.smask.getLsbD (k - 224)) = false) :
    okDone c (rgnBody f c) = some (.jump (c.d.modGroup c.gid (rgnOpened f c))) := by
  have held : ((List.range 6).any fun e => f.xmask.getLsbD e && decide (c.g.h ≤ e)) = false := by
    rw [List.any_eq_false]
    intro e he
    simpa using hx e (List.mem_range.1 he)
  have kept := List.any_eq_false.2 fun k hk => Bool.eq_false_iff.1 (ht k hk)
  simp only [rgnBody, held, kept, Bool.false_eq_true, if_false]
  rfl
theorem splitOf_rgnOpened (f : RgnF) {c : Ctx} (hs : splitOf c.g c.k = some c.sp) :
    ∃ gone, splitOf (rgnOpened f c c.g) c.k = some { rgnMoved f c.g.rsCtr c.d.clock c.sp with gone } := by
  refine ⟨c.sp.gone || closing c.d c.g, ?_⟩
  rw [rgnOpened, splitOf_modSplit_same, splitOf_closeRegion_same, hs]
  rfl

/-! Extended blocks (R74, R75). -/

/-- Blocks that a group takes leave the issuing split where it is. -/
theorem takeChunks_stays {c : Ctx} {d : Device} (n : Nat) (h : c.stays d) : c.stays (takeChunks d c.gid n) :=
  stays_view (viewAt_takeChunks (fun _ _ _ _ => rfl) _ _ _ _) h
/-- So do blocks that it gives back, and what they serve. -/
theorem grantChunks_giveChunks_stays {c : Ctx} {d : Device} (core fuel n : Nat) (h : c.stays d) : c.stays (grantChunks core fuel (giveChunks d c.gid n)) :=
  stays_view ((viewAt_grantChunks (fun _ _ _ _ => rfl) _ _ _ _).trans (viewAt_giveChunks (fun _ _ _ _ => rfl) _ _ _ _)) h
/-- What `xacq` for blocks that the group may hold does: it takes them, or waits (R75). -/
def xacqDone (n : Nat) (c : Ctx) : Done :=
  if (c.d.core c.g.core).chunkQueue.isEmpty && decide (n ≤ freeChunks (c.d.core c.g.core)) then .act (takeChunks c.d c.gid n) RegWrites.none false 0
  else .wait (beginWait (c.d.modCore c.g.core fun x => { x with chunkQueue := x.chunkQueue ++ [(c.gid, n)] }) c.gid (.xacq n) 5 1 0 0 c.sp.here)
theorem xacqBody_ok {n : BitVec 8} {c : Ctx} (h0 : n.toNat ≠ 0) (h6 : c.g.h + n.toNat ≤ 6) : xacqBody n c = .ok (xacqDone n.toNat) := by
  have : ¬ 6 < c.g.h + n.toNat := by omega
  simp only [xacqBody, h0, this, decide_false, Bool.or_false, Bool.false_eq_true, if_false]
  rfl
theorem xacqDone_takes {n : Nat} {c : Ctx} (hq : (c.d.core c.g.core).chunkQueue = []) (hf : n ≤ freeChunks (c.d.core c.g.core)) : xacqDone n c = .act (takeChunks c.d c.gid n) RegWrites.none false 0 :=
  if_pos (by simp [hq, hf])
theorem xacqDone_waits {n : Nat} {c : Ctx} (h : ¬((c.d.core c.g.core).chunkQueue = [] ∧ n ≤ freeChunks (c.d.core c.g.core))) :
    xacqDone n c = .wait (beginWait (c.d.modCore c.g.core fun x => { x with chunkQueue := x.chunkQueue ++ [(c.gid, n)] }) c.gid (.xacq n) 5 1 0 0 c.sp.here) :=
  if_neg (by simpa using h)
theorem xrelBody_ok {n : BitVec 8} {c : Ctx} (h0 : n.toNat ≠ 0) (hh : n.toNat ≤ c.g.h) :
    okDone c (xrelBody n c) = some (.act (grantChunks c.g.core ((c.d.core c.g.core).chunkQueue.length + 1) (giveChunks c.d c.gid n.toNat)) RegWrites.none false 0) := by
  have : ¬ c.g.h < n.toNat := by omega
  simp only [xrelBody, h0, this, decide_false, Bool.or_false, Bool.false_eq_true, if_false]
  rfl

end Sys2Proof.Machine

namespace Sys2Proof
open Machine

/-- Settles O22: `rgn` is a transfer to the next clause that also opens its region there; `xacq` closes its region first and then takes or waits, by what the core has. -/
theorem regionsAndBlocksComplete : Obligations.regions_and_blocks_complete := by
  unfold Obligations.regions_and_blocks_complete
  refine ⟨?region, ?taken, ?waits, ?given⟩
  case region =>
    intro f s c hr hx ht
    obtain ⟨-, -, -, hk, -⟩ := ready_ctx hr
    obtain ⟨gone, opened⟩ := splitOf_rgnOpened f hk
    refine (completes_jump hr rfl rfl rfl rfl (rgnBody_ok hx ht) (fun _ => rfl) (by rw [Group.stands, opened]; rfl)).mono fun t ⟨jumped, last, y, found⟩ => ⟨jumped, ?_, ?_⟩
    · rw [found, Option.bind_some, splitOf_noted, opened, Option.map_some, if_pos rfl]
      rfl
    · rw [found]
      rfl
  case taken =>
    intro n s c hr hc h0 h6 hq hf
    obtain ⟨-, hd, -⟩ := ready_own hr
    rw [← hd] at hq hf
    exact closing_act hr rfl (fun _ _ => Instr.noConfusion) (fun _ _ => Instr.noConfusion) rfl rfl rfl hc (xacqBody_ok h0 h6) (xacqDone_takes hq hf) (takeChunks_stays _ (reopened_stays hr))
  case waits =>
    intro n s c hr hc h0 h6 hn
    obtain ⟨-, hd, -⟩ := ready_own hr
    rw [← hd] at hn
    let queued := c.reopened.d.modCore c.g.core fun x => { x with chunkQueue := x.chunkQueue ++ [(c.gid, n.toNat)] }
    obtain ⟨stays, g, hg, hw⟩ := beginWait_group (.xacq n.toNat) 5 1 0 0 c.sp.here (stays_of (e := queued) rfl (reopened_stays hr))
    exact closing_wait hr rfl (fun _ _ => Instr.noConfusion) (fun _ _ => Instr.noConfusion) rfl rfl rfl hc (xacqBody_ok h0 h6) (xacqDone_waits hn) stays hg hw
  case given =>
    intro n s c hr h0 hh
    obtain ⟨-, hd, stands⟩ := ready_own hr
    rw [← hd]
    exact completes_act hr rfl rfl rfl (.inl rfl) (xrelBody_ok h0 hh) (grantChunks_giveChunks_stays _ _ _ stands)

end Sys2Proof

/-! Matrix operations (R97, R298 to R304). -/

namespace Sys2Proof.Machine
open Sys2Proof

/-! The checks that pass. -/

theorem withTile_reserved {c : Ctx} {t : TileNo} (h : ownsTile c t = true) (r : Except Stop (Ctx → Done)) : withTile c t r = r := if_pos h
theorem orNothing_idle {c : Ctx} (h : c.lanes = 0) (r : Except Stop (Ctx → Done)) : okDone c (orNothing c r) = some (.act c.d RegWrites.none false 0) := by rw [orNothing, if_pos h]; rfl
/-- Reads through the caches leave the issuing split where it is. -/
theorem thruParts_stays {c : Ctx} {ps : List (Span × Place)} {d e : Device} {parts : List (Nat × List Byte)} (h : thruParts c ps d = some (parts, e)) (hs : c.stays d) : c.stays e :=
  stays_of (thruParts_groups h) hs

/-! `mma` (R298 to R302). -/

section
variable {f : MmaF} {c : Ctx} {m : MmaArgs} {sn : Option Snapshot}

/-- The ranges of the rows of an `mma`'s A operand (R299). -/
def mmaASpans (f : MmaF) (c : Ctx) (m : MmaArgs) (sn : Option Snapshot) : List Span :=
  (mmaRows c m sn).flatMap fun i => operandSpans f.bs f.pair.fa m.sa m.pa m.k some [i]
/-- The ranges of an `mma`'s operands in memory: an A operand in the window and a B operand on the shelf have none there (R298, R302). -/
def mmaSpans (f : MmaF) (c : Ctx) (m : MmaArgs) (sn : Option Snapshot) : List Span :=
  (if f.wa then [] else mmaASpans f c m sn) ++
  (if (shelfServes f c m (mmaCols m sn)).isSome then [] else (mmaCols m sn).flatMap fun j => operandSpans f.bs f.pair.fb m.sb m.pb m.k (fun _ => none) [j])
/-- Operands that pass their checks and have nothing to wait for are read through the caches. -/
theorem mmaFetch_ok {parts : List (Nat × List Byte)} {d : Device} (hone : f.one = true → mmaCrosses m sn (mmaRows c m sn) (mmaCols m sn) = false)
    (hw : f.wa = true → c.windowFree false (mmaASpans f c m sn) = true) (hp : c.rangesPass .load (fun _ => none) (mmaSpans f c m sn) = true)
    (hs : c.settled ((c.rangesAt .load (mmaSpans f c m sn)).map fun p => (p.2, p.1.len)) = true)
    (ht : thruParts c (c.rangesAt .load (mmaSpans f c m sn)) c.d = some (parts, d)) : ∃ x, mmaFetch f c m sn = .ok x ∧ x.d = d := by
  have crosses : ¬(f.one && mmaCrosses m sn (mmaRows c m sn) (mmaCols m sn)) = true := by
    cases hf : f.one with
    | false => simp
    | true => simp [hone hf]
  have window : (if f.wa then windowSpans c false (mmaASpans f c m sn) else none) = none := by
    split
    · exact windowSpans_none (hw ‹_›)
    · rfl
  have ranges := checkRanges_ok hp
  have waits := spansWait_none hs
  simp only [mmaASpans] at window
  simp only [mmaSpans, mmaASpans] at ranges waits ht
  simp only [mmaFetch, if_neg crosses, window, ranges, waits, ht]
  exact ⟨_, rfl, rfl⟩
theorem mmaBody_idle (ho : ownsTile c f.tile = true) (hn : mmaShape f c = .ok sn) (hf : mmaFault f (mmaArgs f c) = none) (h : c.lanes = 0) :
    okDone c (mmaBody f c) = some (.act c.d RegWrites.none false 0) := by
  simp only [mmaBody, withTile_reserved ho, hn, hf, if_pos h]
  rfl
theorem mmaBody_op {x : MmaIn} (ho : ownsTile c f.tile = true) (hn : mmaShape f c = .ok sn) (hf : mmaFault f (mmaArgs f c) = none) (h : c.lanes ≠ 0) (hx : mmaFetch f c (mmaArgs f c) sn = .ok x) :
    okDone c (mmaBody f c) = some (.op (mmaShelf f c (mmaArgs f c) x) (mmaOp f c (mmaArgs f c) sn x) 0) := by
  simp only [mmaBody, withTile_reserved ho, hn, hf, if_neg h, hx]
  rfl
end

/-! `acc.ld` (R304). -/

section
variable {f : AccMemF} {c : Ctx}

/-- The range of a lane's row (R304). -/
def accSpanAt (f : AccMemF) (c : Ctx) (i : Nat) : Span := ((accSpans f c).find? fun x => x.lane == some i).getD default
/-- The first poisoned row of the window, as its fault (R425). -/
def windowFault (c : Ctx) (ss : List Span) : Option Exc := (ss.find? fun x => windowBad c.team x.va.toNat x.len).map fun x => { code := .poisonedData, lane := x.lane, info := x.va }
/-- The first poisoned part in memory, as its fault (R425). -/
def partFault (d : Device) (ps : List (Span × Place)) : Option Exc := (ps.find? fun p => d.anyPoison p.2.pa p.1.len).map fun p => { code := .poisonedData, lane := p.1.lane, info := p.1.va }
theorem accLdBody_idle (ho : ownsTile c f.tile = true) (ha : accMisaligned f c = false) (h : c.lanes = 0) : okDone c (accLdBody f c) = some (.act c.d RegWrites.none false 0) := by
  simp only [accLdBody, withTile_reserved ho, ha, Bool.false_eq_true, if_false]
  exact orNothing_idle h _
theorem accLdBody_window (ho : ownsTile c f.tile = true) (ha : accMisaligned f c = false) (h : c.lanes ≠ 0) (hsp : f.sp = true) (hw : c.windowFree false (accSpans f c) = true) :
    okDone c (accLdBody f c) = some (.op c.d (accLoadOp f c (spanRanges (accSpans f c)) (fun i => windowBytes c.team (accSpanAt f c i).va.toNat (accSpanAt f c i).len) (windowFault c (accSpans f c))) 0) := by
  simp only [accLdBody, withTile_reserved ho, ha, Bool.false_eq_true, if_false, orNothing_lanes h, hsp, if_true, windowSpans_none hw]
  rfl
theorem accLdBody_memory {parts : List (Nat × List Byte)} {d : Device} (ho : ownsTile c f.tile = true) (ha : accMisaligned f c = false) (h : c.lanes ≠ 0) (hsp : f.sp = false)
    (hp : c.rangesPass .load (fun _ => none) (accSpans f c) = true) (hs : c.settled ((c.rangesAt .load (accSpans f c)).map fun p => (p.2, p.1.len)) = true) (ht : thruParts c (c.rangesAt .load (accSpans f c)) c.d = some (parts, d)) :
    okDone c (accLdBody f c) = some (.op d (accLoadOp f c [] (fun i => gather parts (accSpanAt f c i).va (accSpanAt f c i).len) (partFault d (c.rangesAt .load (accSpans f c)))) 0) := by
  simp only [accLdBody, withTile_reserved ho, ha, Bool.false_eq_true, if_false, orNothing_lanes h, hsp, checkRanges_ok hp, spansWait_none hs, ht]
  rfl

/-! `acc.st` (R304). -/

/-- The operation of an `acc.st`. -/
def accStoreOp (f : AccMemF) (win : List (Nat × Nat)) : Op := { Op.of .store RegWrites.none false with tileReads := [f.tile.val], win }
/-- A part of a row as its store has it, at the place its checks gave. -/
def accPart (f : AccMemF) (c : Ctx) (ps : List (Span × Place)) (x : Span) (y : DWord × Nat) : LaneStore :=
  let p := ((ps.find? fun q => q.1.lane == x.lane && q.1.va == y.1).map (·.2)).getD default
  { lane := x.lane.getD 0, va := y.1, pa := p.pa, page := if p.leaf.repl then some p.leaf.base else none, data := ((accStored f c (x.lane.getD 0)).drop (y.1.toNat - x.va.toNat)).take y.2 }
/-- The rows of an `acc.st`, each cut at its lines. -/
def accParts (f : AccMemF) (c : Ctx) (ps : List (Span × Place)) : List LaneStore := (accSpans f c).flatMap fun x => (chunks x.va x.len).map (accPart f c ps x)
/-- The device with an `acc.st` in the store buffer. -/
def accBuffered (c : Ctx) (lanes : List LaneStore) : Device :=
  let d := c.d.modGroup c.gid fun g => { g with sb := g.sb ++ [{ op := c.d.nextId, size := 4, lanes, marks := [] }] }
  dropLines (noteBlocks d c.gid (lanes.map (·.va))) c.g.core (lanes.map fun l => l.pa / 64)
/-- The device with an `acc.st` in the window. -/
def accInWindow (f : AccMemF) (c : Ctx) : Device := c.d.modTeam c.g.team fun t => (accSpans f c).foldl (fun t x => windowWrite t x.va.toNat (accStored f c (x.lane.getD 0))) t
theorem accBuffered_stays (lanes : List LaneStore) (h : c.stays c.d) : c.stays (accBuffered c lanes) := stays_of rfl (stays_noteBlocks (stays_modGroup (fun _ => rfl) h))
theorem accStBody_idle (ho : ownsTile c f.tile = true) (ha : accMisaligned f c = false) (h : c.lanes = 0) : okDone c (accStBody f c) = some (.act c.d RegWrites.none false (accUse f)) := by
  simp only [accStBody, withTile_reserved ho, ha, Bool.false_eq_true, if_false, if_pos h]
  rfl
theorem accStBody_window (ho : ownsTile c f.tile = true) (ha : accMisaligned f c = false) (h : c.lanes ≠ 0) (hsp : f.sp = true) (hw : c.windowFree true (accSpans f c) = true) :
    okDone c (accStBody f c) = some (.op (accInWindow f c) (accStoreOp f (spanRanges (accSpans f c))) (accUse f)) := by
  simp only [accStBody, withTile_reserved ho, ha, Bool.false_eq_true, if_false, if_neg h, hsp, if_true, windowSpans_none hw]
  rfl
theorem accStBody_memory (ho : ownsTile c f.tile = true) (ha : accMisaligned f c = false) (h : c.lanes ≠ 0) (hsp : f.sp = false) (hp : c.rangesPass .store notVersioned (accSpans f c) = true)
    (hr : ∀ p ∈ c.rangesAt .store (accSpans f c), pendingRed c.d c.g p.2.pa p.1.len = false) (hb : c.g.sb.length < 16) (hu : unacked c.g < 255) :
    okDone c (accStBody f c) = some (.op (accBuffered c (accParts f c (c.rangesAt .store (accSpans f c)))) (accStoreOp f []) (accUse f)) := by
  have reduced := List.any_eq_false.2 fun p hp => Bool.eq_false_iff.1 (hr p hp)
  have full : ¬(decide (16 ≤ c.g.sb.length) || decide (255 ≤ unacked c.g)) = true := by simpa using ⟨hb, hu⟩
  simp only [accStBody, withTile_reserved ho, ha, Bool.false_eq_true, if_false, if_neg h, hsp, checkRanges_ok hp, reduced, if_neg full]
  rfl
end

end Sys2Proof.Machine

namespace Sys2Proof
open Machine

/-- Settles O11: where its checks pass, each matrix operation has one outcome, from the device that its reads, or its writes, leave. -/
theorem matrixOperationsStart : Obligations.matrix_operations_start := by
  unfold Obligations.matrix_operations_start
  refine ⟨⟨?mmaIdle, ?mma⟩, ?ldIdle, ?ldWindow, ?ld, ?stIdle, ?stWindow, ?st⟩
  case mmaIdle =>
    intro f s c sn hr ho hn hf h
    obtain ⟨-, hd, stands⟩ := ready_own hr
    rw [← hd]
    exact completes_act hr rfl rfl rfl (.inl rfl) (mmaBody_idle ho hn hf h) stands
  case mma =>
    intro f s c sn hr ho hn hf h m rows cols aSpans bSpans ss ps hone hw hp hs ht
    obtain ⟨-, hd, stands⟩ := ready_own hr
    rw [← hd] at ht
    obtain ⟨⟨parts, d⟩, read⟩ := Option.isSome_iff_exists.1 ht
    obtain ⟨x, fetched, rfl⟩ := mmaFetch_ok hone hw hp hs read
    obtain ⟨t, next, started⟩ := completes_op hr rfl rfl rfl rfl (mmaBody_op ho hn hf h fetched) (stays_of (d := x.d) rfl (thruParts_stays read stands))
    exact ⟨t, next, x, fetched, started⟩
  case ldIdle =>
    intro f s c hr ho ha h
    obtain ⟨-, hd, stands⟩ := ready_own hr
    rw [← hd]
    exact completes_act hr rfl rfl rfl (.inl rfl) (accLdBody_idle ho ha h) stands
  case ldWindow =>
    intro f s c hr ho ha h hsp hw
    obtain ⟨-, hd, stands⟩ := ready_own hr
    rw [← hd]
    exact completes_op hr rfl rfl rfl rfl (accLdBody_window ho ha h hsp hw) stands
  case ld =>
    intro f s c hr ho ha h hsp ps hp hs ht at_
    obtain ⟨-, hd, stands⟩ := ready_own hr
    rw [← hd] at ht ⊢
    obtain ⟨⟨parts, d⟩, read⟩ := Option.isSome_iff_exists.1 ht
    obtain ⟨t, next, started⟩ := completes_op hr rfl rfl rfl rfl (accLdBody_memory ho ha h hsp hp hs read) (thruParts_stays read stands)
    exact ⟨t, next, parts, d, read, started⟩
  case stIdle =>
    intro f s c hr ho ha h
    obtain ⟨-, hd, stands⟩ := ready_own hr
    rw [← hd]
    exact completes_act hr rfl rfl rfl (.inl rfl) (accStBody_idle ho ha h) stands
  case stWindow =>
    intro f s c hr ho ha h hsp hw
    obtain ⟨-, hd, stands⟩ := ready_own hr
    rw [← hd]
    exact completes_op hr rfl rfl rfl rfl (accStBody_window ho ha h hsp hw) (stays_of (e := accInWindow f c) rfl stands)
  case st =>
    intro f s c hr ho ha h hsp ps hp hred hb hu part lanes d
    obtain ⟨-, hd, stands⟩ := ready_own hr
    have stored := completes_op hr rfl rfl rfl rfl (accStBody_memory ho ha h hsp hp hred hb hu) (accBuffered_stays _ stands)
    rw [accBuffered, hd] at stored
    exact stored

end Sys2Proof

/-! Words that decode (R111 to R122), traps of software (R134, R334), and long-latency operations (R107, R162, R175). -/

namespace Sys2Proof
open Machine

/-- Settles O46: the decoder is run on each list of words. -/
theorem wordsDecode : Obligations.words_decode := by
  unfold Obligations.words_decode
  refine ⟨?nop, ?add, ?addGuarded, ?addReused, ?ld, ?atom, ?mma, ?cp, ?sysRd, ?bra, ?brk, ?header, ?reserved, ?continuation, ?field, ?scalar⟩ <;> rfl

/-- Settles O17: the checks of `trap` and `brk` raise their exceptions whatever the context. -/
theorem softwareTrapsTaken : Obligations.software_traps_taken := by
  unfold Obligations.software_traps_taken
  refine ⟨?trap, ?brk⟩
  case trap => exact fun code s c hr => raises_of hr rfl rfl rfl
  case brk => exact fun span tag s c hr => raises_of hr rfl rfl rfl

/-- Settles O3: each meaning is one operation that holds the result, and closes no region. -/
theorem longLatencyBegins : Obligations.long_latency_begins := by
  unfold Obligations.long_latency_begins
  refine ⟨?rcp, ?rsq, ?sqrt, ?exp2, ?log2, ?tanh, ?sort⟩
  case sort => exact fun f down => begins_of (fun _ => rfl) rfl rfl rfl
  all_goals exact fun f => begins_of (fun _ => rfl) rfl rfl rfl

end Sys2Proof

/-! Atomics, reductions, locks, fences and barriers (R126, R128, R248 to R271). -/

namespace Sys2Proof.Machine
open Sys2Proof

/-! Where the issuing split stands. -/

theorem sendAtomics_stays {P : Platform} {core : Nat} {c : Ctx} {d : Device} (rs : List AgReq) (h : c.stays d) : c.stays (rs.foldl (sendAtomic P core) d) :=
  stays_of (foldl_groups (sendAtomic_groups P core) rs d) h
theorem acquire_stays {c : Ctx} {d : Device} (gid : Nat) (h : c.stays d) : c.stays (acquire d gid) :=
  stays_view (view_acquire (fun g => g.splits) (fun _ _ => rfl) d gid c.gid) h
theorem acquireFence_stays {c : Ctx} {d : Device} (gid : Nat) (h : c.stays d) : c.stays (acquireFence d gid) := by
  simp only [acquireFence]
  split
  · exact h
  · exact acquire_stays gid (stays_of rfl h)

/-! Held effects. -/

/-- The effects of the issuing group are in the device it issues from. -/
theorem ready_effects {i : Instr} {gd : Option Guard} {s : State} {c : Ctx} (h : ready i gd s = some c) : (Tbl.find c.d.groups c.gid).map (·.effects) = some c.g.effects := by
  obtain ⟨-, hd, hg, -, -⟩ := ready_ctx h
  rw [hd, hg]
  rfl
/-- An instruction whose meaning is to hold effects. -/
theorem holds_effects {i : Instr} {gd : Option Guard} {s : State} {c : Ctx} {body : Ctx → Except Stop (Ctx → Done)} {es : List Effect} (hr : ready i gd s = some c) (he : exec i s = runCode i gd s body)
    (h1 : closesFirst i = false) (h2 : closesEarly i = false) (h3 : closesAfter i = false) (room : room i c = true)
    (hb : okDone c (body c) = some (.act (c.d.modGroup c.gid fun g => { g with effects := g.effects ++ es }) RegWrites.none false 0)) : Completes (exec i s) (Held s c s.dev es) := by
  obtain ⟨-, hd, stands⟩ := ready_own hr
  rw [← hd]
  exact completes_held hr he h1 h2 h3 (.inr room) hb rfl stands (ready_effects hr)

/-! Atomics and reductions. -/

theorem heldRed_ok {opcode align : Nat} {kind : AgKind} {a : Reg} {off : MOff} {x : Ctx → Nat → Nat} {c : Ctx} (h : c.lanes ≠ 0) (hp : c.passes .store align notVersioned (c.addrs a off) = true) :
    let ps := (c.addrs a off).map (c.placeAt .store)
    okDone c (heldRed opcode align kind a off x c) =
      some (.act (c.d.modGroup c.gid fun g => { g with effects := g.effects ++ [c.entry opcode c.lanes ((ps.map (·.va)).headD 0) (ps.map (·.va)) (.red (ps.map (laneReq c kind (fun _ => .held c.gid) (x c) fun _ => 0)))] }) RegWrites.none false 0) := by
  rw [heldRed, orNothing_lanes h, placeLanes_ok hp]
  simp only [List.headD_eq_head?_getD]
  rfl
/-- What an atomic whose lanes stand at these places starts. -/
def atomStarts (f : AtomF) (ps : List Place) (c : Ctx) : Done :=
  let reqs := ps.map (laneReq c (.atomic f.op f.ty) (fun l => .atom c.gid c.d.nextId l) (fun l => c.rv f.ty l f.c.reg) (fun l => if f.op == .cas then casNew c f.ty l f.c.reg else 0))
  .op (dropLines (noteBlocks (reqs.foldl (sendAtomic c.P c.g.core) c.d) c.gid (ps.map (·.va))) c.g.core (ps.map fun p => p.pa / 64)) { Op.of .atomic RegWrites.none false with closing := some c.k, parts := ps.length } 0
theorem atomBody_ok {f : AtomF} {c : Ctx} (h : c.lanes ≠ 0) (hp : c.passes .store (4 * f.ty.regs) notVersioned (c.addrs f.a.reg f.off) = true)
    (hb : ∀ p ∈ (c.addrs f.a.reg f.off).map (c.placeAt .store), bufferedOver c.g p.pa (4 * f.ty.regs) = false) :
    atomBody f c = .ok (atomStarts f ((c.addrs f.a.reg f.off).map (c.placeAt .store))) := by
  have free : (((c.addrs f.a.reg f.off).map (c.placeAt .store)).any fun p => bufferedOver c.g p.pa (4 * f.ty.regs)) = false := List.any_eq_false.2 fun p m => by rw [hb p m]; exact Bool.false_ne_true
  rw [atomBody, orNothing_lanes h, placeLanes_ok hp]
  simp only [free, Bool.false_eq_true, if_false]
  rfl

/-! Locks. -/

/-- The place of an access that passes is at its address. -/
theorem placeAt_va {c : Ctx} {acc : Access} {align : Nat} {own : Leaf → Option ExcCode} {e : Nat × DWord} (h : c.passes acc align own [e] = true) : (c.placeAt acc e).va = e.2 := by
  simp only [Ctx.passes, List.all_cons, List.all_nil, Bool.and_true, Bool.and_eq_true] at h
  cases hx : xlat c.d c.g acc e.2 with
  | ok leaf pa => simp only [Ctx.placeAt, hx]
  | _ => simp [hx] at h
/-- `lk` and `lktry` wait where their meaning waits. -/
theorem locking_wait {i : Instr} {gd : Option Guard} {s : State} {c : Ctx} {body : Ctx → Except Stop (Ctx → Done)} {d : Device} {g : Group} {w : WaitFor} (hr : ready i gd s = some c) (he : exec i s = runCode i gd s body)
    (h1 : closesFirst i = true) (h2 : closesEarly i = true) (h3 : isHeldEffect i = false) (hc : c.clear = true) (hb : okDone c.reopened (body c.reopened) = some (.wait d)) (hs : c.stays d) (hg : Tbl.find d.groups c.gid = some g) (hw : g.wait = some w) :
    Completes (exec i s) (Waits s c d w) := by
  obtain ⟨f, hb, hf⟩ := okDone_spec hb
  refine ⟨_, he.trans (runCode_lock hr h1 h2 h3 hc hb), ?_⟩
  rw [hf]
  exact retire_wait (c := c.reopened) hs hg hw
/-- They complete where it completes. -/
theorem locking_act {i : Instr} {gd : Option Guard} {s : State} {c : Ctx} {body : Ctx → Except Stop (Ctx → Done)} {d : Device} {w : RegWrites} {tr : Bool} {rs : Nat} (hr : ready i gd s = some c) (he : exec i s = runCode i gd s body)
    (h1 : closesFirst i = true) (h2 : closesEarly i = true) (h3 : isHeldEffect i = false) (hc : c.clear = true) (hb : okDone c.reopened (body c.reopened) = some (.act d w tr rs)) (hs : c.stays d) : Completes (exec i s) (Acted s c d tr w rs) := by
  obtain ⟨f, hb, hf⟩ := okDone_spec hb
  refine ⟨_, he.trans (runCode_lock hr h1 h2 h3 hc hb), ?_⟩
  rw [hf]
  exact retire_act (c := c.reopened) _ _ _ hs
/-- Where the line of a lock instruction lies. -/
def lockAt (a : Reg) (c : Ctx) : Place := c.placeAt .store (0, globalEa c.g c.sp a (.none false) 0)
theorem lockPlace_reopened {ordered : Bool} {a : Reg} {c : Ctx} (h : c.mayLock ordered (globalEa c.g c.sp a (.none false) 0) = true) : lockPlace ordered a c.reopened = .ok (lockAt a c) :=
  lockPlace_ok ((mayLock_reopened c ordered a).trans h)
theorem lockAt_va {ordered : Bool} {a : Reg} {c : Ctx} (h : c.mayLock ordered (globalEa c.g c.sp a (.none false) 0) = true) : (lockAt a c).va = globalEa c.g c.sp a (.none false) 0 := by
  simp only [Ctx.mayLock, Bool.and_eq_true] at h
  exact placeAt_va h.2
theorem lkBody_ok {f : LkF} {sd : SReg} {c : Ctx} (hd : f.d = .s sd) (h : c.mayLock true (globalEa c.g c.sp f.a.reg (.none false) 0) = true) :
    let va := globalEa c.g c.sp f.a.reg (.none false) 0
    okDone c.reopened (lkBody f c.reopened) = some (.wait (beginWait c.reopened.d c.gid (.lock (lockAt f.a.reg c).pa va sd f.pd c.d.clock .sent) 2 1 (if (f.t.getD 0).toNat = 0 then 0 else c.d.clock + (f.t.getD 0).toNat) va c.sp.here)) := by
  simp only [lkBody, hd, lockPlace_reopened h, okDone, lockAt_va h]
  rfl
section
variable {P : Platform} {d : Device} {f : LkF} {c : Ctx} (hP : c.P = P) (hd : c.d = d) (h : c.mayLock false (globalEa c.g c.sp f.a.reg (.none false) 0) = true)
  (free : ((d.slice (homeSlice P (lockAt f.a.reg c).pa)).releases.any fun r => r.1 == (lockAt f.a.reg c).pa) = false)
include hP hd h free
/-- `lktry` takes a free line where its bench has room. -/
theorem lktryBody_takes :
    let p := lockAt f.a.reg c
    let b := d.slice (homeSlice P p.pa)
    let l := benchLine b p.pa
    l.holder = none → benchLines b < 256 → okDone c.reopened (lktryBody f c.reopened) =
      some (.act (takeLock (acquire ((c.reopened.d.modSlice (homeSlice P p.pa) fun b => setBench b p.pa { l with holder := some c.gid, poisoned := false }).mergeClock (c.g.core / 128) l.clock) c.gid) c.gid p.pa (globalEa c.g c.sp f.a.reg (.none false) 0))
        (lockWrites c f (if l.poisoned then 1 else 0)) false 0) := by
  subst hP hd
  intro p b l hn hroom
  have free' : ((c.reopened.d.slice (homeSlice c.reopened.P p.pa)).releases.any fun r => r.1 == p.pa) = false := free
  have taken : ((benchLine (c.reopened.d.slice (homeSlice c.reopened.P p.pa)) p.pa).holder.isNone && decide (benchLines (c.reopened.d.slice (homeSlice c.reopened.P p.pa)) < 256)) = true :=
    Bool.and_eq_true_iff.2 ⟨Option.isNone_iff_eq_none.2 hn, decide_eq_true hroom⟩
  simp only [lktryBody, lockPlace_reopened h, show lockAt f.a.reg c = p from rfl, free', taken, Bool.false_eq_true, if_false, if_true, okDone]
  rw [show p.va = _ from lockAt_va h]
  rfl
/-- It answers BUSY where the line is held or the bench full. -/
theorem lktryBody_busy :
    let p := lockAt f.a.reg c
    let b := d.slice (homeSlice P p.pa)
    (benchLine b p.pa).holder ≠ none ∨ 256 ≤ benchLines b → okDone c.reopened (lktryBody f c.reopened) = some (.act c.reopened.d (lockWrites c f 4) false 0) := by
  subst hP hd
  intro p b hbusy
  have free' : ((c.reopened.d.slice (homeSlice c.reopened.P p.pa)).releases.any fun r => r.1 == p.pa) = false := free
  have busy : ((benchLine (c.reopened.d.slice (homeSlice c.reopened.P p.pa)) p.pa).holder.isNone && decide (benchLines (c.reopened.d.slice (homeSlice c.reopened.P p.pa)) < 256)) = false := by
    rw [Bool.and_eq_false_iff, decide_eq_false_iff_not, not_lt]
    exact hbusy.imp_left fun hn => Option.isNone_eq_false_iff.2 (Option.isSome_iff_ne_none.2 hn)
  simp only [lktryBody, lockPlace_reopened h, show lockAt f.a.reg c = p from rfl, free', busy, Bool.false_eq_true, if_false, okDone]
  rfl
end
theorem unlkBody_ok {a : RegOpd} {c : Ctx} {x : Nat × DWord} (hx : (c.g.lockVas.find? fun y => y.2 == globalEa c.g c.sp a.reg (.none false) 0) = some x) (hn : ((c.g.effects ++ c.g.handed).any fun e => e.act == .unlk x.1) = false) :
    okDone c (unlkBody a c) = some (.act (c.d.modGroup c.gid fun g => { g with effects := g.effects ++ [c.entry 0x75 c.lanes (globalEa c.g c.sp a.reg (.none false) 0) [] (.unlk x.1)] }) RegWrites.none false 0) := by
  simp only [unlkBody, hx, hn, Bool.false_eq_true, if_false]
  rfl

/-! Fences and barriers. -/

/-- An instruction that goes on as a release starts it in the context in which its region has closed. -/
theorem starts_release {i : Instr} {s : State} {c : Ctx} {body : Ctx → Except Stop (Ctx → Done)} {f : Ctx → Done} {scope : Scope} {act : Nat → RelAct} (hr : ready i none s = some c) (he : exec i s = runCode i none s body)
    (hi : ∀ d a, i ≠ .mig d a) (hi' : ∀ d a, i ≠ .migNear d a) (h1 : closesFirst i = true) (h2 : closesEarly i = false) (h3 : isHeldEffect i = false) (hc : c.clear = true) (hb : body c = .ok f) (hf : f c.reopened = releaseOp scope act c.reopened) :
    Completes (exec i s) (Started s c (c.reopened.d.modGroup c.gid fun g => { g with releases := g.releases ++ [{ scope, posted := false, toArrive := [], toAck := [], act := act s.dev.nextId }] }) { Op.of .fence RegWrites.none false with closing := some c.k } 0) := by
  obtain ⟨-, hd, -⟩ := ready_own hr
  rw [← hd]
  exact closing_op hr he hi hi' h1 h2 h3 hc hb hf (stays_modGroup (fun _ => rfl) (reopened_stays hr))
/-- What a fence that does not wait for loads does. -/
def fenceDone (sem : FenceSem) (scope : Scope) (c : Ctx) : Done :=
  match sem with
  | .acq => .act (if scope == .grp then c.d else acquireFence c.d c.gid) RegWrites.none false 0
  | .rel => releaseOp scope (fun id => .fence id false) c
  | .ar => releaseOp scope (fun id => .fence id (scope != .grp)) c
theorem fenceBody_ok {sem : FenceSem} {scope : Scope} {c : Ctx} (h : sem = .rel ∨ (scope = .grp → loadsOut c.g = false)) : fenceBody sem scope c = .ok (fenceDone sem scope) := by
  refine if_neg fun hout => ?_
  simp only [Bool.and_eq_true, beq_iff_eq, bne_iff_ne, ne_eq] at hout
  obtain ⟨⟨hs, hsem⟩, hl⟩ := hout
  exact absurd (h.resolve_left hsem hs) (by simp [hl])
theorem arriveBody_ok {n : Ctx → Nat} {waits : Bool} {c : Ctx} (h : (liveSplits c.g).length ≤ 1) : arriveBody n waits c = .ok fun c => releaseOp .team (fun id => .arrive id (n c) waits) c :=
  if_neg (Nat.not_lt.2 h)

end Sys2Proof.Machine

namespace Sys2Proof
open Machine

/-- Settles O6: where its checks pass, an atomic's requests go out from the context in which its region has closed; a reduction is one held effect. -/
theorem atomicsStart : Obligations.atomics_start := by
  unfold Obligations.atomics_start
  refine ⟨?atom, ?red, ?redPair⟩
  case atom =>
    intro f s c hr hc hl es ps hp hb reqs d
    obtain ⟨hP, hd, -⟩ := ready_own hr
    have sent : c.stays (dropLines d c.g.core (ps.map fun p => p.pa / 64)) := stays_of rfl (stays_noteBlocks (sendAtomics_stays _ (reopened_stays hr)))
    refine closing_op hr rfl nofun nofun rfl rfl rfl hc (atomBody_ok hl hp hb) ?_ sent
    simp only [d, reqs, ← hP, ← hd]
    rfl
  case red =>
    intro f s c hr hroom hl es ps hp
    exact holds_effects hr rfl rfl rfl rfl hroom (heldRed_ok hl hp)
  case redPair =>
    intro f s c hr hroom hl es ps hp
    exact holds_effects hr rfl rfl rfl rfl hroom (heldRed_ok hl hp)

/-- Settles O7: `lk` and `lktry` are decided in the context in which their region has closed; `unlk` is one held effect; a release fence and an arrival go on as a release. -/
theorem locksAndFencesComplete : Obligations.locks_and_fences_complete := by
  unfold Obligations.locks_and_fences_complete
  refine ⟨⟨?lk, ?lktry, ?unlk⟩, ?acquire, ?release, ?both, ?bar, ?barWait, ?arrive, ?arriveOn⟩
  case lk =>
    intro f sd s c hr hc hsd va p hm t w
    obtain ⟨-, hd, -⟩ := ready_own hr
    obtain ⟨stands, g, hg, hw⟩ := beginWait_group w 2 1 (if t = 0 then 0 else s.dev.clock + t) va c.sp.here (reopened_stays hr)
    refine locking_wait hr rfl rfl rfl rfl hc ?_ stands hg hw
    simp only [w, ← hd]
    exact lkBody_ok hsd hm
  case lktry =>
    intro f s c hr hc va p k b l hm hfree
    obtain ⟨hP, hd, -⟩ := ready_own hr
    refine ⟨fun ⟨hn, hroom⟩ => ?_, fun hbusy => ?_⟩
    · exact locking_act hr rfl rfl rfl rfl hc (lktryBody_takes hP hd hm hfree hn hroom) (stays_modGroup (fun _ => rfl) (acquire_stays _ (stays_of rfl (reopened_stays hr))))
    · exact locking_act hr rfl rfl rfl rfl hc (lktryBody_busy hP hd hm hfree hbusy) (reopened_stays hr)
  case unlk =>
    intro a s c x hr hroom hx hn
    exact holds_effects hr rfl rfl rfl rfl hroom (unlkBody_ok hx hn)
  case acquire =>
    intro scope s c hr hl
    obtain ⟨-, hd, stands⟩ := ready_own hr
    rw [← hd]
    refine completes_act hr rfl rfl rfl (.inl rfl) (congrArg (okDone c) (fenceBody_ok (.inr hl))) ?_
    split
    · exact stands
    · exact acquireFence_stays c.gid stands
  case release => exact fun scope s c hr hc => starts_release (act := fun id => .fence id false) hr rfl nofun nofun rfl rfl rfl hc (fenceBody_ok (.inl rfl)) rfl
  case both => exact fun scope s c hr hc hl => starts_release (act := fun id => .fence id (scope != .grp)) hr rfl nofun nofun rfl rfl rfl hc (fenceBody_ok (.inr hl)) rfl
  case bar => exact fun s c hr hc hl => starts_release hr rfl nofun nofun rfl rfl rfl hc (arriveBody_ok hl) rfl
  case barWait => exact fun s c hr hc hl => starts_release hr rfl nofun nofun rfl rfl rfl hc (arriveBody_ok hl) rfl
  case arrive => exact fun n s c hr hc hl => starts_release hr rfl nofun nofun rfl rfl rfl hc (arriveBody_ok hl) rfl
  case arriveOn => exact fun n s c hr hc hl => starts_release hr rfl nofun nofun rfl rfl rfl hc (arriveBody_ok hl) rfl

end Sys2Proof

/-! Remote accesses and stores to a named register (R107, R126, R128, R277, R278, R285). -/

namespace Sys2Proof.Machine
open Sys2Proof

/-! Accesses that a peer answers (R278). -/

section
variable (a : Reg) (off : MOff) (n : Nat) (kind : RemoteKind) (dest : Reg) (pn : Option Nat) (closes : Bool) (x xn : Ctx → Nat → Nat)
/-- The request of a returning access to the lowest peer of its lanes, under the number of its operation. -/
def fetchRequest (id : Nat) (c : Ctx) : OutReq :=
  { seq := id, origin := .op c.gid id, job := c.g.job, kind := some kind, lanes := lanesFor c a off n (x c) (xn c) (firstPeer c a), rst := none, issued := 0 }
/-- Its operation. -/
def fetchOp (c : Ctx) : Op := { Op.of (.remote pn dest n) RegWrites.none false with closing := if closes then some c.k else none }
/-- The lanes of the other peers that it names. -/
def fetchRest (c : Ctx) : Mask := maskWhere c.lanes fun l => remotePeer c a l != firstPeer c a
/-- What a returning access whose lanes pass starts. -/
def remoteStarts (c : Ctx) : Done :=
  let d := sendRequest c.P c.d (firstPeer c a) (fetchRequest a off n kind x xn c.d.nextId c)
  if fetchRest a c = 0 then .op d (fetchOp n dest pn closes c) 0 else .part d (fetchOp n dest pn closes c) (fetchRest a c)
theorem remoteFetch_ok {c : Ctx} (h : c.lanes ≠ 0) (hp : c.remotePasses a off n = true) : remoteFetch a off n kind dest pn closes x xn c = .ok (remoteStarts a off n kind dest pn closes x xn) := by
  rw [remoteFetch, orNothing_lanes h, remoteCheck_none hp]
  rfl
/-- An operation for all the lanes of an instruction, or for some of them. -/
def startsFor (s : State) (c : Ctx) (d : Device) (o : Op) (rest : Mask) (t : State) : Prop := if rest = 0 then Started s c d o 0 t else StartedPart s c d o rest t
/-- A returning access that issues from a device starts its operation, for all of its lanes or for some, beside the request it sends. -/
theorem retire_remoteStarts {i : Instr} {s : State} {c : Ctx} {P : Platform} {e : Device} {id : Nat} (hP : c.P = P) (he : c.d = e) (hid : e.nextId = id) (stands : c.stays e) :
    startsFor s c (sendRequest P e (firstPeer c a) (fetchRequest a off n kind x xn id c)) (fetchOp n dest pn closes c) (fetchRest a c) { s with dev := retire i c (remoteStarts a off n kind dest pn closes x xn c) } := by
  subst hP he hid
  have sent := stays_of (sendRequest_groups c.P c.d (firstPeer c a) (fetchRequest a off n kind x xn c.d.nextId c)) stands
  by_cases hrest : fetchRest a c = 0
  · simp only [startsFor, remoteStarts, if_pos hrest]
    exact retire_op 0 sent
  · simp only [startsFor, remoteStarts, if_neg hrest]
    exact retire_part sent
end

/-! Accesses that are held (R278). -/

theorem modify_same {α : Type} {f : α → α} (h : ∀ x, f x = x) (t : Tbl α) (k : Nat) : Tbl.modify f t k = t := by
  induction t with
  | nil => rfl
  | cons e t ih => simp [Tbl.modify, h, ih]
/-- Effects that enter the buffer one after another. -/
theorem foldl_effects {α : Type} (gid : Nat) (F : α → Effect) (l : List α) (d : Device) :
    l.foldl (fun (d : Device) p => d.modGroup gid fun g => { g with effects := g.effects ++ [F p] }) d = d.modGroup gid fun g => { g with effects := g.effects ++ l.map F } := by
  induction l generalizing d with
  | nil =>
    rw [List.foldl_nil, Device.modGroup, modify_same fun g => by simp]
  | cons x l ih =>
    rw [List.foldl_cons, ih]
    simp only [Device.modGroup]
    congr 1
    exact modify_twice _ _ _ _ _ fun g => by simp
/-- The effect of a held access for the lanes of one peer. -/
def peerEntry (opcode : Nat) (a : Reg) (off : MOff) (n : Nat) (kind : RemoteKind) (x xn : Nat → Nat) (c : Ctx) (p : Nat) : Effect :=
  let ls := lanesFor c a off n x xn p
  c.entry opcode (maskOf (ls.map (·.lane))) ((ls.map (·.addr)).headD 0) [] (.remote p kind ls)
theorem remoteHeld_ok {opcode : Nat} {a : Reg} {off : MOff} {n : Nat} {kind : RemoteKind} {x xn : Ctx → Nat → Nat} {c : Ctx} (h : c.lanes ≠ 0) (hp : c.remotePasses a off n = true) :
    okDone c (remoteHeld opcode a off n kind x xn c) = some (.act (c.d.modGroup c.gid fun g => { g with effects := g.effects ++ (peersOf c a).map (peerEntry opcode a off n kind (x c) (xn c) c) }) RegWrites.none false 0) := by
  rw [remoteHeld, orNothing_lanes h, remoteCheck_none hp, ← foldl_effects]
  simp only [peerEntry, List.headD_eq_head?_getD]
  rfl
theorem rstBody_ok {a : RegOpd} {v : VReg} {b : MOff} {c : Ctx} (h : c.lanes ≠ 0) :
    let name : Word := BitVec.ofNat 32 (c.rv .b32 0 a.reg)
    okDone c (rstBody a v b c) = some (.act (c.d.modGroup c.gid fun g => { g with effects := g.effects ++
      [c.entry 0x83 c.lanes (name.zeroExtend 64) [] (.rst name v.val c.lanes ((List.range 32).map fun l => BitVec.ofNat 32 (mOff32 c.g c.sp l b)))] }) RegWrites.none false 0) := by
  rw [rstBody, orNothing_lanes h]
  rfl

end Sys2Proof.Machine

namespace Sys2Proof
open Machine

/-- Settles O9: a returning access starts its operation for the lanes of the lowest peer, the first issue of `ra.atom` in the context in which its region has closed; `ra.st`, `ra.red` and `rst` are held effects. -/
theorem remoteAccessesStart : Obligations.remote_accesses_start := by
  unfold Obligations.remote_accesses_start
  refine ⟨⟨?ld, ?atom⟩, ?st, ?red, ?rst⟩
  case ld =>
    intro f s c hr hl hp p rest d o
    obtain ⟨hP, hd, stands⟩ := ready_own hr
    exact ⟨_, runCode_ok hr rfl rfl (.inl rfl) (remoteFetch_ok _ _ _ _ _ _ _ _ _ hl hp), retire_remoteStarts _ _ _ _ _ _ _ _ _ hP hd rfl (hd ▸ stands)⟩
  case atom =>
    intro f s c hr hc hl hp p rest e d o
    obtain ⟨hP, hd, stands⟩ := ready_own hr
    by_cases hn : c.sp.rest = none
    · refine ⟨_, runCode_closing hr nofun nofun rfl rfl rfl (hc.resolve_right (not_not_intro hn)) (remoteFetch_ok _ _ _ _ _ _ _ _ _ hl hp), ?_⟩
      simp only [d, e, if_pos hn]
      exact retire_remoteStarts (c := c.reopened) _ _ _ _ _ _ _ _ _ hP rfl (show c.d.nextId = s.dev.nextId from congrArg Device.nextId hd) (reopened_stays hr)
    · refine ⟨_, runCode_rest hr rfl rfl hn (remoteFetch_ok _ _ _ _ _ _ _ _ _ hl hp), ?_⟩
      simp only [d, e, if_neg hn]
      exact retire_remoteStarts _ _ _ _ _ _ _ _ _ hP hd rfl (hd ▸ stands)
  case st =>
    intro f s c hr hroom hl hp
    exact holds_effects hr rfl rfl rfl rfl hroom (remoteHeld_ok hl hp)
  case red =>
    intro f s c hr hroom hl hp
    exact holds_effects hr rfl rfl rfl rfl hroom (remoteHeld_ok hl hp)
  case rst =>
    intro g a v b s c hr hroom hl
    exact holds_effects hr rfl rfl rfl rfl hroom (rstBody_ok hl)

end Sys2Proof

/-! The step: whose move it is, the entry into a clause, the issue, and the words a fetch finds (R108, R122, R135, R447). -/

namespace Sys2Proof.Machine
open Sys2Proof

/-! A split's turn. -/

/-- A move does not depend on the turn that named it: the next turn is free. -/
theorem finish_turned (s : State) (t : Turn) : ({ s with turn := t } : State).finish = s.finish := rfl
section
variable {s : State} {gid k : Nat} {g : Group} {sp : Split} (hg : Tbl.find s.dev.groups gid = some g) (hk : splitOf g k = some sp)
section
variable {i : Instr} {n : Nat} (hw : sp.index = 0 → waitClear g k (hdrWait sp.header) = true) (hi : decode (sp.code.drop sp.word) = .ok (i, n))
include hw hi
/-- A split that its clause's wait field does not hold issues the instruction that its words decode to. -/
theorem issueStep_decoded : issueStep s gid k g sp = exec i { s with turn := .issue gid k } := by
  have free : (decide (sp.index = 0) && !waitClear g k (hdrWait sp.header)) = false := by
    rw [Bool.and_eq_false_imp, decide_eq_true_eq]
    exact fun h0 => by rw [hw h0]; rfl
  simp only [issueStep, free, current, hi, Bool.false_eq_true, if_false]
end
include hg hk
/-- A split that may issue, in a clock in which one may, is past the checks of its turn. -/
theorem splitStep_entered (hm : mayIssue s.dev g k sp = true) (hc : issueClock s.plat s.dev = true) (he : sp.entry = none) : splitStep s gid k = issueStep s gid k g sp := by
  simp [splitStep, hg, hk, hm, hc, he]
theorem splitStep_enters {e : EntryKind} {d : Device} {g' : Group} {sp' : Split} (hm : mayIssue s.dev g k sp = true) (hc : issueClock s.plat s.dev = true) (he : sp.entry = some e)
    (hd : enterClause s.plat s.dev g k sp = .ok d) (hg' : Tbl.find d.groups gid = some g') (hk' : splitOf g' k = some sp') : splitStep s gid k = issueStep { s with dev := d } gid k g' sp' := by
  simp [splitStep, hg, hk, hm, hc, he, hd, hg', hk']
end
/-- In a clock in which nothing issues, a turn does nothing. -/
theorem splitStep_idle {s : State} (hc : issueClock s.plat s.dev = false) (gid k : Nat) : splitStep s gid k = .next s := by
  simp only [splitStep]
  split
  · rfl
  · split
    · rfl
    · simp [hc]
theorem step_issue {s : State} {gid k : Nat} (h : s.move = .issue gid k) : step s = finishOutcome (splitStep s gid k) := by simp only [step, h]
/-- An issue names its split itself. -/
theorem issueStep_turned (s : State) (t : Turn) (gid k : Nat) (g : Group) (sp : Split) : finishOutcome (issueStep { s with turn := t } gid k g sp) = finishOutcome (issueStep s gid k g sp) := by
  simp only [issueStep]
  repeat' split
  all_goals rfl
theorem splitStep_turned (s : State) (t : Turn) (gid k : Nat) : finishOutcome (splitStep { s with turn := t } gid k) = finishOutcome (splitStep s gid k) := by
  simp only [splitStep]
  split
  · rfl
  split
  · rfl
  split
  · rfl
  split
  · exact issueStep_turned s t _ _ _ _
  split
  · rfl
  · rfl
  · rfl
  split
  · exact issueStep_turned { s with dev := _ } t _ _ _ _
  · rfl

/-! The words of a fetch. -/

theorem readBytes_eq_map (d : Device) (a n : Nat) : d.readBytes a n = (List.range n).map fun i => d.readByte (a + i) := by
  induction n generalizing a with
  | zero => rfl
  | succ n ih =>
    rw [Device.readBytes, ih, List.range_succ_eq_map, List.map_cons, List.map_map]
    simp only [Function.comp_def, Nat.add_zero, Nat.add_succ, Nat.succ_add]
/-- What a use of a line leaves of memory and jobs. -/
theorem touchLine_jobs (P : Platform) (d : Device) (k a : Nat) : (touchLine P d k a).jobs = d.jobs :=
  (foldl_leaves Device.jobs (f := fun (d : Device) (l : Nat) => d.modDie k fun x => { x with visitors := Tbl.erase x.visitors l }) (fun _ _ => rfl) _ _).trans rfl
/-- A line of its own home is read as memory has it. -/
theorem l2Line_home (P : Platform) (d : Device) {k a : Nat} (h : homeDie a = k) : ∃ e, l2Line P d k a = some (d.readBytes (64 * (a / 64)) 64, e) ∧ e.mem = d.mem ∧ e.jobs = d.jobs :=
  ⟨_, if_pos h, (mergeClock_mem _ _ _).trans (touchLine_mem P d k a), (touchLine_jobs P d k a)⟩
/-- The bytes of a word within its line, each as the job's fetch sees it. -/
theorem codeLine_word (d : Device) {e : Device} (job : Nat) {pa : Nat} (hj : e.jobs = d.jobs) (h4 : pa % 4 = 0) :
    ((codeLine e job (pa / 64) (d.readBytes (64 * (pa / 64)) 64)).drop (pa % 64)).take 4 = (List.range 4).map fun i => codeByte (((d.job job).map (·.codeOld)).getD []) (pa + i, d.readByte (pa + i)) := by
  have hjob : e.job job = d.job job := congrArg (Tbl.find · job) hj
  refine List.ext_getElem (by simp [codeLine, readBytes_eq_map]; omega) fun i hi _ => ?_
  have hi4 : i < 4 := by simp at hi; omega
  simp only [codeLine, readBytes_eq_map, hjob, List.getElem_take, List.getElem_drop, List.getElem_map, List.getElem_zip, List.getElem_range]
  rw [show 64 * (pa / 64) + (pa % 64 + i) = pa + i by omega]

end Sys2Proof.Machine

namespace Sys2Proof
open Machine

/-- Settles O45: a split's turn is its issue, after its entry into the clause where it has not entered it. -/
theorem stepRunsTheDecodedInstruction : Obligations.step_runs_the_decoded_instruction := by
  unfold Obligations.step_runs_the_decoded_instruction
  refine ⟨?issues, ?enters, ?odd, ?clocks, ?fetch, ?free⟩
  case issues =>
    intro s gid k g sp i n hmove hg hk hm he hc hw hi
    rw [step_issue hmove, splitStep_entered hg hk hm hc he, issueStep_decoded hw hi]
  case enters =>
    intro s gid k g sp e d g' sp' i n hmove hg hk hm he hc hd hg' hk' hw hi
    rw [step_issue hmove, splitStep_enters hg hk hm hc he hd hg' hk', issueStep_decoded hw hi]
  case odd =>
    intro s gid k hmove h5 hodd
    rw [step_issue hmove, splitStep_idle (by simp [issueClock, h5, hodd])]
    rfl
  case clocks =>
    intro s h
    simpa [issueClock] using h
  case fetch =>
    intro P d g va idx l pa hmiss hx hclean hhome h4 old
    obtain ⟨e, hline, hmem, hjobs⟩ := l2Line_home P d hhome
    simp only [fetchWord, hmiss, hx, hclean, Bool.false_eq_true, if_false, hline]
    rw [codeLine_word d g.job hjobs h4]
    refine ⟨_, rfl, ?_⟩
    split <;> exact hmem
  case free =>
    intro s hfree
    have move : s.move = Config.nextMove s.tick := by simp only [State.move, hfree]
    cases hn : Config.nextMove s.tick with
    | issue gid k => exact (step_issue (move.trans hn)).trans (splitStep_turned s (.issue gid k) gid k).symm
    | event i => simp only [step, move, hn]
    | message port bytes => simp only [step, move, hn]

end Sys2Proof

/-! Operations that complete (R107, R237, R243, R300, R304, R310). -/

namespace Sys2Proof.Machine
open Sys2Proof

/-- An event whose change of the device is known. -/
theorem event_of {i : Instr} {s : State} {p : Device → Prop} {f : Platform → Device → Device} {d : Device} (he : exec i s = runEvent s f) (hf : f s.plat s.dev = d) (h : p d) : Event i s p :=
  ⟨d, by rw [he, runEvent, hf], h⟩

/-! An operation that has left its group. -/

/-- The split that an operation lands its result for. -/
def Op.lander (o : Op) : Nat := o.closing.getD (o.splits.headD 4)
theorem freeEntry_cores (d : Device) (core : Nat) : (freeEntry d core).cores = d.cores := foldl_leaves (f := retryStalls .table) Device.cores (fun _ _ => rfl) _ _
section
variable {α : Type} {r : Group → α}
/-- A view of groups that shows no stall and no split. -/
theorem viewAt_retried (hr : ∀ (g : Group) readyAt splits, r { g with readyAt, splits } = r g) (w : Stall) (d : Device) (gid j : Nat) : viewAt r (retryStalls w d gid) j = viewAt r d j := viewAt_modGroup r _ _ _ _ fun x => by
  split
  · exact hr x _ _
  · rfl
/-- A view of groups that shows no stall, no split and no saved tile is that of the group without its operation. -/
theorem viewAt_opEnded (hr : ∀ (g : Group) readyAt splits savedTiles, r { g with readyAt, splits, savedTiles } = r g) (d : Device) (gid id j : Nat) (g : Group) (o : Op) :
    viewAt r (opEnded d gid id g o) j = viewAt r (d.modGroup gid (Group.endOp id o)) j := by
  have retried (w : Stall) (e : Device) (i : Nat) : viewAt r (retryStalls w e i) j = viewAt r e j := viewAt_retried (fun x _ _ => hr x _ _ x.savedTiles) w e i j
  have written := ite_leaves (viewAt r · j) (c := (g.state == .halted) = true) (viewAt_modGroup r (d.modGroup gid (Group.endOp id o)) gid j (fun x => writeSaved x o.tileWrites) fun x => hr x x.readyAt x.splits _)
    (viewAt_groups r (writeTiles_groups (d.modGroup gid (Group.endOp id o)) g.core g.job o.tileWrites) j)
  rw [opEnded, unblock, retried]
  exact ite_leaves (viewAt r · j) ((viewAt_foldl j (fun e i => retried .table e i) _ _).trans written) written
variable {d : Device} {gid id : Nat} {g : Group} {o : Op} (hg : Tbl.find d.groups gid = some g) (ho : (g.ops.find? fun o => o.id == id) = some o)
include hg ho
/-- An operation that completes lands its result once it has left its group; what it may do to splits then is not seen by a view that shows none. -/
theorem finishOp_lands : ∃ cl, ((∀ {α : Type} (r : Group → α), (∀ g k f, r (modSplit g k f) = r g) → ∀ j, viewAt r (finishOp d gid id) j = viewAt r (landResult (opEnded d gid id g o) gid o.lander o.writes o.tr 0 cl) j) ∧
    (finishOp d gid id).cores = (opEnded d gid id g o).cores) := by
  have landed (cl : Bool) : (landResult (opEnded d gid id g o) gid o.lander o.writes o.tr 0 cl).cores = (opEnded d gid id g o).cores := of_rest Device.cores (fun _ => rfl) (rest_landResult _ _ _ _ _ _ _)
  refine ⟨(g.state == .live || g.state == .waiting) && (!o.tileWrites.isEmpty || o.kind == .matrix || o.kind == .take || o.kind == .pending), ?_⟩
  simp only [finishOp, hg, ho]
  split
  · split
    · refine ⟨fun r hr j => (view_reopen r (fun g k f _ => hr g k f) _ _ _ _).trans (viewAt_modGroup r _ _ _ _ fun x => hr _ _ _), ?_⟩
      exact (of_rest Device.cores (fun _ => rfl) (rest_reopen _ _ _)).trans (landed _)
    · exact ⟨fun _ _ _ => rfl, landed _⟩
  · exact ⟨fun _ _ _ => rfl, landed _⟩
end

/-! Registers, operations and memory. -/

theorem landed_endOp (id k : Nat) (o : Op) (g : Group) (tr : Bool) (w : RegWrites) (hs : o.shape = none) :
    (Group.endOp id o g).landed k tr w 0 = { g.landed k tr w 0 with verLast := match o.verLast with | some v => BitVec.ofNat 32 v | none => g.verLast } := by
  simp only [Group.endOp, hs]
  cases tr <;> rfl
section
variable {d : Device} {gid id : Nat} {g : Group} {o : Op} (hg : Tbl.find d.groups gid = some g) (ho : (g.ops.find? fun o => o.id == id) = some o)
include hg ho
/-- The registers of every group after an operation has completed. -/
theorem regsOf_finishOp (j : Nat) : regsOf (finishOp d gid id) j = if j = gid then some ((Group.endOp id o g).landed o.lander o.tr o.writes 0) else regsOf d j := by
  obtain ⟨cl, seen, -⟩ := finishOp_lands hg ho
  refine (seen Group.regs (fun _ _ _ => rfl) j).trans ((regsOf_landResult _ _ _ _ _ _ _ _).trans ?_)
  by_cases hj : j = gid
  · rw [if_pos hj, if_pos hj]
    have left := viewAt_opEnded (r := fun x => x.landed o.lander o.tr o.writes 0) (fun x _ _ _ => by cases o.tr <;> rfl) d gid id gid g o
    refine left.trans ?_
    rw [viewAt, find_modGroup_same, hg]
    rfl
  · rw [if_neg hj, if_neg hj]
    exact (viewAt_opEnded (r := Group.regs) (fun _ _ _ _ => rfl) d gid id j g o).trans (viewAt_modGroup_other _ _ _ hj)
theorem opsIn_finishOp : opsIn (finishOp d gid id) gid = some ((g.ops.filter fun x => x.id != id).map Op.unmarked) := by
  obtain ⟨cl, seen, -⟩ := finishOp_lands hg ho
  refine (seen (fun x => x.ops.map Op.unmarked) (fun _ _ _ => rfl) gid).trans ((ops_landResult _ _ _ _ _ _ _ _).trans ?_)
  refine (viewAt_opEnded (r := fun x => x.ops.map Op.unmarked) (fun _ _ _ _ => rfl) d gid id gid g o).trans ?_
  rw [viewAt, find_modGroup_same, hg]
  rfl
end
theorem finishOp_mem (d : Device) (gid id : Nat) : (finishOp d gid id).mem = d.mem := mem_of_beside (finishOp_leaves d gid id gid).2

/-! Tile elements. -/

/-- Element `k` of tile `t` of a core. -/
def tileCell (d : Device) (core t k : Nat) : Word := Cells.get 0 (tileOf d core t).cells k
/-- A tile without an owner and without contents. -/
def emptyTile : Tile := { owner := none, job := none, cells := [] }
/-- The tiles of a core after one element has been written for a job. -/
def putElement (job : Nat) (ts : Tbl Tile) (w : Nat × Nat × Word) : Tbl Tile :=
  Tbl.set ts w.1 { Tbl.getD ts w.1 emptyTile with job := some job, cells := Cells.put 0 (Tbl.getD ts w.1 emptyTile).cells w.2.1 w.2.2 }
/-- An element of tiles. -/
def elementOf (ts : Tbl Tile) (t k : Nat) : Word := Cells.get 0 (Tbl.getD ts t emptyTile).cells k
theorem elementOf_put_same (job : Nat) (ts : Tbl Tile) (w : Nat × Nat × Word) : elementOf (putElement job ts w) w.1 w.2.1 = w.2.2 := by
  rw [elementOf, putElement, Tbl.getD, find_set_same]
  exact get_put_same _ _ _ _
theorem elementOf_put_other (job : Nat) (ts : Tbl Tile) (w : Nat × Nat × Word) {t k : Nat} (h : ¬(w.1 = t ∧ w.2.1 = k)) : elementOf (putElement job ts w) t k = elementOf ts t k := by
  by_cases ht : t = w.1
  · subst ht
    rw [elementOf, putElement, Tbl.getD, find_set_same]
    exact get_put_other _ _ _ _ _ fun hk => h ⟨rfl, hk.symm⟩
  · rw [elementOf, putElement, Tbl.getD, find_set_other _ _ _ _ ht]
    rfl
theorem elementOf_puts_other (job : Nat) {t k : Nat} (ws : List (Nat × Nat × Word)) (h : ∀ u ∈ ws, ¬(u.1 = t ∧ u.2.1 = k)) (ts : Tbl Tile) : elementOf (ws.foldl (putElement job) ts) t k = elementOf ts t k := by
  induction ws generalizing ts with
  | nil => rfl
  | cons w ws ih => rw [List.foldl_cons, ih (fun u hu => h u (List.mem_cons_of_mem _ hu)), elementOf_put_other job ts w (h w List.mem_cons_self)]
/-- The last write of an element is what it holds. -/
theorem elementOf_puts_last (job : Nat) (pre : List (Nat × Nat × Word)) (w : Nat × Nat × Word) {post : List (Nat × Nat × Word)} (h : ∀ u ∈ post, ¬(u.1 = w.1 ∧ u.2.1 = w.2.1)) (ts : Tbl Tile) :
    elementOf ((pre ++ w :: post).foldl (putElement job) ts) w.1 w.2.1 = w.2.2 := by
  rw [List.foldl_append, List.foldl_cons, elementOf_puts_other job post h, elementOf_put_same]
theorem tiles_writeTiles (d : Device) (core job : Nat) (ws : List (Nat × Nat × Word)) : ((writeTiles d core job ws).core core).tiles = ws.foldl (putElement job) (d.core core).tiles := by
  cases ws with
  | nil => rfl
  | cons w ws =>
    simp only [writeTiles, List.isEmpty_cons, Bool.false_eq_true, if_false, core_modCore_same]
    rfl
/-- The tiles of its core after an operation of a group that runs has completed. -/
theorem tileCell_finishOp {d : Device} {gid id : Nat} {g : Group} {o : Op} (hg : Tbl.find d.groups gid = some g) (ho : (g.ops.find? fun o => o.id == id) = some o) (hs : g.state ≠ .halted) (t k : Nat) :
    tileCell (finishOp d gid id) g.core t k = elementOf (o.tileWrites.foldl (putElement g.job) (d.core g.core).tiles) t k := by
  obtain ⟨-, -, kept⟩ := finishOp_lands hg ho
  have written : (opEnded d gid id g o).cores = (writeTiles (d.modGroup gid (Group.endOp id o)) g.core g.job o.tileWrites).cores := by
    simp only [opEnded, if_neg (show ¬(g.state == .halted) = true by simpa using hs)]
    exact ite_leaves Device.cores (freeEntry_cores _ _) rfl
  have tiles := tiles_writeTiles (d.modGroup gid (Group.endOp id o)) g.core g.job o.tileWrites
  rw [Device.core, ← written, ← kept] at tiles
  exact congrArg (elementOf · t k) tiles

/-! What an `sh.ld` reads, and operations that fail. -/

theorem shapeWord_leaves {P : Platform} {d e : Device} {g : Group} {q : ShapeRead} {x : Option (Word × Bool)} (h : shapeWord P d g q = some (x, e)) : e.groups = d.groups ∧ e.mem = d.mem := by
  simp only [shapeWord] at h
  split at h
  · cases h
    exact ⟨rfl, rfl⟩
  · split at h
    · cases h
      exact ⟨rfl, rfl⟩
    · split at h
      · cases h
      · obtain ⟨r, hr, hx⟩ := Option.map_eq_some_iff.1 h
        cases hx
        exact ⟨l2Line_groups hr, l2Line_mem P d _ _ _ _ hr⟩
/-- An operation that is found has the number it was looked for by. -/
theorem id_of_find {l : List Op} {id : Nat} {o : Op} (h : (l.find? fun x => x.id == id) = some o) : o.id = id := by simpa using List.find?_some h
/-- A group without an operation that has failed, its shape register without a snapshot, and what stalled on the operation trying again. -/
def opFailed (d : Device) (gid id core : Nat) (o : Op) : Device :=
  unblock ((if o.entry then freeEntry d core else d).modGroup gid fun g => { g with ops := g.ops.filter (fun x => x.id != id), shapes := match o.shape with | some (m, _) => listSet g.shapes m none | none => g.shapes }) gid
theorem failOp_eq {P : Platform} {d : Device} {gid id : Nat} {g : Group} {o : Op} {e : Exc} (hg : Tbl.find d.groups gid = some g) (ho : o.id = id) : failOp P d gid o e = takeException P (opFailed d gid id g.core o) gid o.site e := by
  subst ho
  simp only [failOp, coreOf, hg]
  rfl

/-- A group whose operations of a number hold a snapshot for a shape register. -/
def Group.snapped (id sh : Nat) (x : Snapshot) (g : Group) : Group := { g with ops := g.ops.map fun o => if o.id == id then { o with shape := some (sh, some x) } else o }
/-- A change of the operations of a number that keeps their number, at the first of them. -/
theorem find?_changed {f : Op → Op} (hf : ∀ o, (f o).id = o.id) (l : List Op) (id : Nat) : ((l.map fun o => if o.id == id then f o else o).find? fun o => o.id == id) = (l.find? fun o => o.id == id).map f := by
  induction l with
  | nil => rfl
  | cons o l ih =>
    by_cases ho : o.id = id
    · simp [ho, hf]
    · simpa [ho] using ih
theorem find_snapped {g : Group} {id : Nat} {o : Op} (sh : Nat) (x : Snapshot) (ho : (g.ops.find? fun o => o.id == id) = some o) :
    ((g.snapped id sh x).ops.find? fun o => o.id == id) = some { o with shape := some (sh, some x) } := by
  rw [Group.snapped, find?_changed (f := fun o => { o with shape := some (sh, some x) }) fun _ => rfl, ho]
  rfl
theorem filter_snapped (g : Group) (id sh : Nat) (x : Snapshot) : ((g.snapped id sh x).ops.filter fun o => o.id != id) = g.ops.filter fun o => o.id != id := by
  simp only [Group.snapped]
  induction g.ops with
  | nil => rfl
  | cons y ys ih =>
    rw [List.map_cons, List.filter_cons, List.filter_cons, ih]
    by_cases hy : y.id = id <;> simp [hy]

end Sys2Proof.Machine

namespace Sys2Proof
open Machine

/-- Settles O26: an operation that completes leaves its group and lands its result; one that fails leaves it and raises its exception. -/
theorem operationsComplete : Obligations.operations_complete := by
  unfold Obligations.operations_complete
  refine ⟨?completes, ?raises, ?snapshot, ?bad⟩
  case completes =>
    intro gid op s g o hg ho hk he hs cell
    have done : operationCompletes gid op s.plat s.dev = finishOp s.dev gid op := by rcases hk with hk | hk | hk <;> simp only [operationCompletes, hg, ho, hk, he]
    refine event_of rfl done ⟨?_, opsIn_finishOp hg ho, finishOp_mem _ _ _, fun j hj => ?_, fun hh => ⟨fun pre w post hw hpost => ?_, fun t k hw => ?_⟩⟩
    · exact (regsOf_finishOp hg ho gid).trans ((if_pos rfl).trans (congrArg some (landed_endOp op o.lander o g o.tr o.writes hs)))
    · rw [regsOf_finishOp hg ho, if_neg hj]
    · refine (tileCell_finishOp hg ho hh _ _).trans ?_
      rw [hw, elementOf_puts_last _ _ _ hpost]
    · refine (tileCell_finishOp hg ho hh _ _).trans ?_
      rw [elementOf_puts_other _ _ hw]
      rfl
  case raises =>
    intro gid op s g o e hg ho hk he
    have failed : operationCompletes gid op s.plat s.dev = failOp s.plat s.dev gid o e := by rcases hk with hk | hk | hk <;> simp only [operationCompletes, hg, ho, hk, he]
    exact event_of rfl failed (failOp_eq hg (id_of_find ho))
  case snapshot =>
    intro gid op s g o q w x e hg hid ho hk hw hx
    obtain ⟨groups, mem⟩ := shapeWord_leaves hw
    have oid := id_of_find ho
    subst hid oid
    have hg' : Tbl.find (e.modGroup g.id (Group.snapped o.id q.sh x)).groups g.id = some (g.snapped o.id q.sh x) := by rw [find_modGroup_same, groups, hg]; rfl
    have done : operationCompletes g.id o.id s.plat s.dev = finishOp (e.modGroup g.id (Group.snapped o.id q.sh x)) g.id o.id := by
      simp only [operationCompletes, hg, ho, hk, readShape, hw, hx, Bool.false_eq_true, if_false]
      rfl
    have regs := regsOf_finishOp hg' (find_snapped q.sh x ho) g.id
    rw [if_pos rfl] at regs
    refine event_of rfl done ⟨?_, ?_, ?_⟩
    · have shapes := congrArg (Option.map Regs.shapes) regs
      rw [regsOf, Option.map_map] at shapes
      exact shapes.trans (congrArg some (by cases o.tr <;> rfl))
    · rw [opsIn_finishOp hg' (find_snapped q.sh x ho), filter_snapped]
    · exact (finishOp_mem _ _ _).trans mem
  case bad =>
    intro gid op s g o q w e hg hid ho hk hw hx
    obtain ⟨groups, -⟩ := shapeWord_leaves hw
    subst hid
    have failed : operationCompletes g.id op s.plat s.dev = failOp s.plat e g.id o { code := .shapeRecord, lane := none, info := q.va } := by simp only [operationCompletes, hg, ho, hk, readShape, hw, hx, Bool.false_eq_true, if_false]
    exact event_of rfl failed (failOp_eq (groups ▸ hg) (id_of_find ho))

end Sys2Proof

/-! Stores, atomic requests and watches at their homes (R127, R205, R207, R217, R232, R248 to R253, R273). -/

namespace Sys2Proof.Machine
open Sys2Proof

/-! Bytes of memory. -/

/-- A read sees no more of the device than memory. -/
theorem readBytes_mem_congr {d e : Device} (h : d.mem = e.mem) (a n : Nat) : d.readBytes a n = e.readBytes a n := by
  have same : d.readByte = e.readByte := funext fun x => congrArg (Cells.get Memory.unlisted · x) h
  rw [readBytes_eq_map, readBytes_eq_map, same]
theorem readByte_mem_congr {d e : Device} (h : d.mem = e.mem) (a : Nat) : d.readByte a = e.readByte a := congrArg (Cells.get Memory.unlisted · a) h
theorem readBytes_modGroup (d : Device) (gid : Nat) (f : Group → Group) (a n : Nat) : (d.modGroup gid f).readBytes a n = d.readBytes a n := readBytes_mem_congr (d := d.modGroup gid f) (e := d) rfl a n
theorem readByte_modGroup (d : Device) (gid : Nat) (f : Group → Group) (a : Nat) : (d.modGroup gid f).readByte a = d.readByte a := readByte_mem_congr rfl a
/-- Bytes that are written read back. -/
theorem readBytes_writeBytes_same (bs : List Byte) (d : Device) (a : Nat) : (d.writeBytes a bs).readBytes a bs.length = bs := by
  induction bs generalizing d a with
  | nil => rfl
  | cons b t ih =>
    rw [Device.writeBytes, List.length_cons, Device.readBytes, ih, readByte_writeBytes_other _ _ _ _ (.inl (Nat.lt_succ_self a)), readByte_writeByte_same]
theorem readByte_writeBytes_apart {d : Device} {a x : Nat} {bs : List Byte} (h : Apart x 1 a bs.length) : (d.writeBytes a bs).readByte x = d.readByte x := readByte_writeBytes_other bs d a x h
theorem writeBytes_append (x y : List Byte) (d : Device) (a : Nat) : d.writeBytes a (x ++ y) = (d.writeBytes a x).writeBytes (a + x.length) y := by
  induction x generalizing d a with
  | nil => rfl
  | cons b x ih =>
    rw [List.cons_append, Device.writeBytes, ih, Device.writeBytes, List.length_cons, Nat.add_assoc, Nat.add_comm 1]
/-- A write that goes line by line changes the bytes written and no other. -/
theorem writePhys_mem (P : Platform) (src n : Nat) (d : Device) (a : Nat) (bs : List Byte) (h : bs.length < n) : (writePhys P src n d a bs).1.mem = (d.writeBytes a bs).mem := by
  induction n generalizing d a bs with
  | zero => omega
  | succ n ih =>
    cases bs with
    | nil => rfl
    | cons b t =>
      have line : (writeLine P src d a ((b :: t).take (64 - a % 64))).1.mem = (d.writeBytes a ((b :: t).take (64 - a % 64))).mem := writeLineAt_mem P _ d a _
      have left : ((b :: t).drop (64 - a % 64)).length < n := by
        simp only [List.length_drop, List.length_cons] at h ⊢
        omega
      refine (ih _ _ _ left).trans ((writeBytes_mem_congr _ _ _ _ line).trans ?_)
      by_cases hk : 64 - a % 64 ≤ (b :: t).length
      · rw [← congrArg (d.writeBytes a) (List.take_append_drop (64 - a % 64) (b :: t)), writeBytes_append, List.length_take_of_le hk]
      · rw [List.drop_eq_nil_of_le (by omega), List.take_of_length_le (by omega)]
        rfl
theorem bytesOf_length (n v : Nat) : (bytesOf n v).length = n := by
  induction n generalizing v with
  | zero => rfl
  | succ n ih => rw [bytesOf, List.length_cons, ih]
theorem groups_of_unwritten {d e : Device} (h : d.unwritten = e.unwritten) : d.groups = e.groups := groups_of_works (works_of_unwritten h)

/-! Stores (R205, R207). -/

/-- A lane of a store changes its bytes, and no group. -/
theorem storeAt_leaves (P : Platform) (src : Nat) (tagged : Bool) (d : Device) (a : Nat) (bs : List Byte) : (storeAt P src tagged d a bs).1.mem = (d.writeBytes a bs).mem ∧ (storeAt P src tagged d a bs).1.groups = d.groups := by
  simp only [storeAt]
  refine ⟨(writePhys_mem P src _ _ a bs (Nat.lt_succ_self _)).trans (writeBytes_mem_congr _ _ _ _ ?_), (groups_of_unwritten (unwritten_writePhys P src _ _ a bs)).trans ?_⟩
  · exact ite_leaves Device.mem rfl rfl
  · exact ite_leaves Device.groups rfl rfl
/-- The bytes of lanes written one lane after another. -/
def putLanes (d : Device) (ls : List LaneStore) : Device := ls.foldl (fun d l => d.writeBytes l.pa l.data) d
theorem sendLanes_leaves (P : Platform) (g : Group) (op : Nat) {ls : List LaneStore} (h : ∀ l ∈ ls, l.page = none) (r : Device × List (Nat × Nat)) :
    (ls.foldl (sendLane P g op) r).1.mem = (putLanes r.1 ls).mem ∧ (ls.foldl (sendLane P g op) r).1.groups = r.1.groups := by
  induction ls generalizing r with
  | nil => exact ⟨rfl, rfl⟩
  | cons l ls ih =>
    obtain ⟨mem, groups⟩ := ih (fun m hm => h m (List.mem_cons_of_mem _ hm)) (sendLane P g op r l)
    have sent : (sendLane P g op r l).1 = (storeAt P (g.core / 128) g.released r.1 l.pa l.data).1 := by simp only [sendLane, h l List.mem_cons_self]
    obtain ⟨lmem, lgroups⟩ := storeAt_leaves P (g.core / 128) g.released r.1 l.pa l.data
    refine ⟨mem.trans ?_, groups.trans ((congrArg Device.groups sent).trans lgroups)⟩
    have congr (ms : List LaneStore) : ∀ d e : Device, d.mem = e.mem → (putLanes d ms).mem = (putLanes e ms).mem := by
      induction ms with
      | nil => exact fun _ _ h => h
      | cons m ms ih => exact fun d e h => ih _ _ (writeBytes_mem_congr _ _ _ _ h)
    exact congr ls _ _ ((congrArg Device.mem sent).trans lmem)
theorem readByte_putLanes_other {ls : List LaneStore} {a : Nat} (h : ∀ l ∈ ls, Apart a 1 l.pa l.data.length) (d : Device) : (putLanes d ls).readByte a = d.readByte a := by
  induction ls generalizing d with
  | nil => rfl
  | cons l ls ih => exact (ih (fun m hm => h m (List.mem_cons_of_mem _ hm)) _).trans (readByte_writeBytes_apart (h l List.mem_cons_self))
/-- A lane that no later lane overlaps reads back. -/
theorem readBytes_putLanes_last {pre post : List LaneStore} {l : LaneStore} (h : ∀ m ∈ post, Apart l.pa l.data.length m.pa m.data.length) (d : Device) :
    (putLanes d (pre ++ l :: post)).readBytes l.pa l.data.length = l.data := by
  have later : (putLanes d (pre ++ l :: post)).readBytes l.pa l.data.length = ((putLanes d pre).writeBytes l.pa l.data).readBytes l.pa l.data.length := by
    rw [putLanes, List.foldl_append, List.foldl_cons, readBytes_eq_map, readBytes_eq_map]
    refine List.map_congr_left fun i hi => readByte_putLanes_other (fun m hm => ?_) _
    have apart := h m hm
    have hi := List.mem_range.1 hi
    unfold Apart at apart ⊢
    omega
  rw [later, readBytes_writeBytes_same]
/-- The oldest buffered store is on its way. -/
def Group.sentStore (e : StoreEntry) (rest : List StoreEntry) (marks : List (Nat × Nat)) (g : Group) : Group := { g with sb := rest, sent := g.sent ++ [{ e with marks }] }
/-- What a group has sent and has still to send of its stores. -/
def Group.stores (g : Group) : List StoreEntry × List Nat := (g.sb, g.sent.map (·.op))

/-! Requests that enter a service group's queue (R248). -/

/-- A device without the queues of its service groups and the seed of its free values. -/
def Device.unqueued (d : Device) : Device := { d with clusters := [], seed := 0 }
theorem of_unqueued {β : Type} (p : Device → β) (hp : ∀ d, p d.unqueued = p d) {d e : Device} (h : e.unqueued = d.unqueued) : p e = p d := by rw [← hp e, h, hp]
@[simp] theorem cluster_modCluster_same (d : Device) (c : Nat) (f : Cluster → Cluster) : (d.modCluster c f).cluster c = f (d.cluster c) := by
  simp [Device.cluster, Device.modCluster, Tbl.getD]
theorem set_twice {α : Type} (t : Tbl α) (k : Nat) (v w : α) : Tbl.set (Tbl.set t k v) k w = Tbl.set t k w := by
  induction t with
  | nil => simp [Tbl.set]
  | cons e t ih =>
    obtain ⟨j, x⟩ := e
    by_cases hlt : k < j
    · simp [Tbl.set, hlt]
    · by_cases heq : k = j
      · simp [Tbl.set, heq]
      · simp [Tbl.set, hlt, heq, ih]
theorem modCluster_twice (d : Device) (c : Nat) (f f' : Cluster → Cluster) : (d.modCluster c f).modCluster c f' = d.modCluster c fun x => f' (f x) := by
  have read := cluster_modCluster_same d c f
  rw [Device.modCluster, read]
  simp only [Device.modCluster, set_twice]
/-- Requests have entered a queue: behind those it held, from those on their way to it, never past 512; the watches and all beside the service groups are as they were. -/
structure Admitted (cl : Nat) (d e : Device) : Prop where
  queue : ∃ more, (e.cluster cl).queue = (d.cluster cl).queue ++ more ∧ ∀ r ∈ more, ∃ k, (k, r) ∈ (d.cluster cl).sending
  sending : ∀ x ∈ (e.cluster cl).sending, x ∈ (d.cluster cl).sending
  bound : (d.cluster cl).queue.length ≤ 512 → (e.cluster cl).queue.length ≤ 512
  watches : (e.cluster cl).watches = (d.cluster cl).watches
  beside : e.unqueued = d.unqueued
theorem Admitted.refl (cl : Nat) (d : Device) : Admitted cl d d := ⟨⟨[], (List.append_nil _).symm, nofun⟩, fun _ h => h, id, rfl, rfl⟩
theorem Admitted.trans {cl : Nat} {d e f : Device} (h : Admitted cl d e) (h' : Admitted cl e f) : Admitted cl d f := by
  obtain ⟨more, hq, hm⟩ := h.queue
  obtain ⟨more', hq', hm'⟩ := h'.queue
  refine ⟨⟨more ++ more', by rw [hq', hq, List.append_assoc], fun r hr => ?_⟩, fun x hx => h.sending x (h'.sending x hx), fun hb => h'.bound (h.bound hb), h'.watches.trans h.watches, h'.beside.trans h.beside⟩
  rcases List.mem_append.1 hr with hr | hr
  · exact hm r hr
  · obtain ⟨k, hk⟩ := hm' r hr
    exact ⟨k, h.sending _ hk⟩
theorem Admitted.free (cl : Nat) (d : Device) : Admitted cl d d.free.2 := ⟨⟨[], (List.append_nil _).symm, nofun⟩, fun _ h => h, id, rfl, rfl⟩
theorem admitFrom_admits {cl sender : Nat} {d : Device} (h : (d.cluster cl).queue.length < 512) : Admitted cl d (admitFrom cl sender d) := by
  have at_ : (admitFrom cl sender d).cluster cl = match (d.cluster cl).sending.find? fun x => x.1 == sender with
    | some x => { d.cluster cl with sending := (d.cluster cl).sending.erase x, queue := (d.cluster cl).queue ++ [x.2] }
    | none => d.cluster cl := cluster_modCluster_same _ _ _
  cases hx : (d.cluster cl).sending.find? fun x => x.1 == sender with
  | none =>
    rw [hx] at at_
    replace at_ : (admitFrom cl sender d).cluster cl = d.cluster cl := at_
    exact ⟨⟨[], by rw [at_, List.append_nil], nofun⟩, fun x hx => by rwa [at_] at hx, fun hb => by rwa [at_], by rw [at_], rfl⟩
  | some x =>
    rw [hx] at at_
    refine ⟨⟨[x.2], by rw [at_], fun r hr => ⟨x.1, ?_⟩⟩, fun y hy => ?_, fun _ => ?_, by rw [at_], rfl⟩
    · rw [List.mem_singleton.1 hr]
      exact List.mem_of_find?_eq_some hx
    · rw [at_] at hy
      exact List.mem_of_mem_erase hy
    · rw [at_, List.length_append]
      exact h
theorem admitSome_admits (cl n : Nat) (d : Device) : Admitted cl d (admitSome cl n d) := by
  induction n generalizing d with
  | zero => exact .refl _ _
  | succ n ih =>
    simp only [admitSome]
    split
    · exact .refl _ _
    · split
      · exact (admitFrom_admits ‹_›).trans (ih _)
      · exact .refl _ _
    · split
      · exact (Admitted.free cl d).trans ((admitFrom_admits ‹_›).trans (ih _))
      · exact .refl _ _
theorem admitRequests_admits (cl : Nat) (d : Device) : Admitted cl d (admitRequests cl d) := by
  simp only [admitRequests]
  split
  · exact .refl _ _
  · split
    · exact admitSome_admits _ _ _
    · exact (Admitted.free cl d).trans (admitSome_admits _ _ _)

/-! A request is performed (R248, R250, R253). -/

/-- The requests that wait in a queue after a write of a line: those that waited. -/
theorem queue_writeLineAt (P : Platform) (clock : DieClock) (d : Device) (a : Nat) (bs : List Byte) (cl : Nat) : ((writeLineAt P clock d a bs).1.cluster cl).queue = (d.cluster cl).queue := by
  have woken (l : List (Nat × DWord × Nat)) (e : Device) : (l.foldl (fun d (w : Nat × DWord × Nat) => wakeWith d w.2.2 1 0 (d.valueClock w.1)) e).clusters = e.clusters :=
    foldl_leaves Device.clusters (fun d w => by simp only [wakeWith]; split <;> rfl) _ _
  have tested (e : Device) (c lo n : Nat) : ((testWatches e c lo n).cluster cl).queue = (e.cluster cl).queue := by
    simp only [testWatches]
    refine (congrArg (fun t => (Tbl.getD t cl Cluster.reset).queue) (woken _ _)).trans ?_
    refine ite_leaves (fun e => (e.cluster cl).queue) rfl ?_
    by_cases hc : cl = c
    · subst hc
      simp [Device.modCluster, Device.cluster, Tbl.getD]
    · simp [Device.modCluster, Device.cluster, Tbl.getD, find_set_other _ _ _ _ hc]
  have told (h : Nat) (m : Nat → HomeMsg) (e : Device) : ([0, 1, 2, 3].foldl (sendHome h m) e).clusters = e.clusters :=
    foldl_leaves (f := sendHome h m) Device.clusters (fun d k => ite_leaves Device.clusters rfl rfl) _ _
  have touched (k : Nat) : (touchLine P d k a).clusters = d.clusters := by
    simp only [touchLine]
    exact (foldl_leaves (f := fun (d : Device) (l : Nat) => d.modDie k fun x => { x with visitors := Tbl.erase x.visitors l }) Device.clusters (fun _ _ => rfl) _ _).trans rfl
  have cleared (e : Device) (n : Nat) : (e.clearPoison a n).clusters = e.clusters := foldl_leaves (f := fun d i => d.markWord false ((a + 3) / 4 + i)) Device.clusters (fun d i => ite_leaves Device.clusters rfl rfl) _ _
  have written (l : List Byte) : ∀ (e : Device) (x : Nat), (e.writeBytes x l).clusters = e.clusters := by
    induction l with
    | nil => exact fun _ _ => rfl
    | cons b l ih => exact fun e x => (ih _ _).trans rfl
  simp only [writeLineAt, tested]
  exact congrArg (fun t => (Tbl.getD t cl Cluster.reset).queue) ((told _ _ _).trans ((cleared _ _).trans ((written _ _ _).trans (touched _))))
/-- A request whose word is clean is performed: its bytes change to the new value, and no group and no queue does. -/
theorem performAtomic_leaves {P : Platform} {d : Device} {clock : DieClock} {tagged : Bool} {r : AgReq} {v : Nat} (hc : d.anyPoison r.pa r.kind.size = false) (hv : agNew r (d.readNat r.pa r.kind.size) = some v) :
    ∃ e, performAtomic P d clock tagged r = (e, d.readNat r.pa r.kind.size, false) ∧ e.mem = (d.writeBytes r.pa (bytesOf r.kind.size v)).mem ∧ e.groups = d.groups ∧ ∀ cl, (e.cluster cl).queue = (d.cluster cl).queue := by
  refine ⟨atomicWrite P clock tagged d r.pa (bytesOf r.kind.size v), ?_, ?_, ?_, fun cl => ?_⟩
  · simp only [performAtomic, hc, hv, Bool.false_eq_true, if_false]
  · exact (writeLineAt_mem P _ _ _ _).trans (writeBytes_mem_congr _ _ _ _ (ite_leaves Device.mem rfl rfl))
  · exact (groups_of_unwritten (unwritten_writeLineAt P _ _ _ _)).trans (ite_leaves Device.groups rfl rfl)
  · exact (queue_writeLineAt P _ _ _ _ cl).trans (ite_leaves (fun e => (e.cluster cl).queue) rfl rfl)
theorem groupAtomic_leaves {P : Platform} {d : Device} {gid : Nat} {r : AgReq} {v : Nat} (hc : d.anyPoison r.pa r.kind.size = false) (hv : agNew r (d.readNat r.pa r.kind.size) = some v) :
    ∃ e, groupAtomic P d gid r = (e, d.readNat r.pa r.kind.size, false) ∧ e.mem = (d.writeBytes r.pa (bytesOf r.kind.size v)).mem ∧ e.groups = d.groups ∧ ∀ cl, (e.cluster cl).queue = (d.cluster cl).queue := by
  simp only [groupAtomic]
  split
  · exact performAtomic_leaves hc hv
  · rename_i g hg
    obtain ⟨e, he, mem, groups, queue⟩ := performAtomic_leaves (P := P) (clock := r.clock) (tagged := g.released) hc hv
    rw [he]
    exact ⟨_, rfl, mem, groups, queue⟩
/-- The new bytes of a request, and the others. -/
theorem performed_bytes {d e : Device} {a n v : Nat} (h : e.mem = (d.writeBytes a (bytesOf n v)).mem) : e.readBytes a n = bytesOf n v ∧ ∀ x, Apart x 1 a n → e.readByte x = d.readByte x := by
  have len := bytesOf_length n v
  refine ⟨?_, fun x hx => ?_⟩
  · have same := readBytes_writeBytes_same (bytesOf n v) d a
    rw [len] at same
    rw [readBytes_mem_congr h, same]
  · rw [readByte_mem_congr h]
    exact readByte_writeBytes_apart (by rw [len]; exact hx)

/-! The event of a service group. -/

/-- The request at the head of a queue has left it. -/
def headServed (cl : Nat) (rest : List AgReq) (d : Device) : Device := (admitRequests cl d).modCluster cl fun c => { c with queue := rest }
section
variable {cl : Nat} {d : Device}
theorem admitted_eq {β : Type} (p : Device → β) (hp : ∀ d, p d.unqueued = p d) : p (admitRequests cl d) = p d := of_unqueued p hp (admitRequests_admits cl d).beside
theorem headServed_eq {β : Type} (rest : List AgReq) (p : Device → β) (hp : ∀ d, p d.unqueued = p d) : p (headServed cl rest d) = p d := of_unqueued p hp (admitRequests_admits cl d).beside
theorem headServed_queue (rest : List AgReq) : ((headServed cl rest d).cluster cl).queue = rest := by rw [headServed, cluster_modCluster_same]
variable {P : Platform} {r : AgReq} {rest : List AgReq} (hq : ((admitRequests cl d).cluster cl).queue = r :: rest)
include hq
theorem atomicServes_request (hs : ∀ gid, r.source ≠ .waiter gid) : atomicServes cl P d = serveRequest P (headServed cl rest d) r := by
  simp only [atomicServes, hq]
  rfl
theorem atomicServes_wakes {gid : Nat} {t : DWord} (hs : r.source = .waiter gid) (hk : r.kind = .watch t) (ht : t.toNat ≤ d.readNat r.pa 8) : atomicServes cl P d = wakeWith (headServed cl rest d) gid 1 0 (d.valueClock r.pa) := by
  have clock : (admitRequests cl d).valueClock r.pa = d.valueClock r.pa := admitted_eq (·.valueClock r.pa) fun _ => rfl
  have word : (admitRequests cl d).readNat r.pa 8 = d.readNat r.pa 8 := admitted_eq (·.readNat r.pa 8) fun _ => rfl
  simp only [atomicServes, hq, hs, hk, word, if_pos ht, clock]
  rfl
theorem atomicServes_keeps {gid : Nat} {t : DWord} (hs : r.source = .waiter gid) (hk : r.kind = .watch t) (ht : d.readNat r.pa 8 < t.toNat) (hw : (d.cluster cl).watches.length < 128) :
    atomicServes cl P d = (admitRequests cl d).modCluster cl fun c => { c with queue := rest, watches := c.watches ++ [(r.pa, t, gid)] } := by
  have word : (admitRequests cl d).readNat r.pa 8 = d.readNat r.pa 8 := admitted_eq (·.readNat r.pa 8) fun _ => rfl
  have room : ((admitRequests cl d).cluster cl).watches.length < 128 := by rw [(admitRequests_admits cl d).watches]; exact hw
  simp only [atomicServes, hq, hs, hk, word, if_neg (Nat.not_le.2 ht), if_pos room, modCluster_twice]
variable {v : Nat} (hc : d.anyPoison r.pa r.kind.size = false) (hv : agNew r (d.readNat r.pa r.kind.size) = some v)
include hc hv
omit hq in
/-- The request at the head is performed for a group: its bytes change to the new value, the request is out of the queue, and no group has changed yet. -/
theorem served_groupAtomic (gid : Nat) : ∃ e, groupAtomic P (headServed cl rest d) gid r = (e, d.readNat r.pa r.kind.size, false) ∧ e.readBytes r.pa r.kind.size = bytesOf r.kind.size v ∧
    (∀ a, Apart a 1 r.pa r.kind.size → e.readByte a = d.readByte a) ∧ (e.cluster cl).queue = rest ∧ e.groups = d.groups := by
  have word : (headServed cl rest d).readNat r.pa r.kind.size = d.readNat r.pa r.kind.size := headServed_eq rest (·.readNat r.pa r.kind.size) fun e => congrArg natOf (readBytes_mem_congr (d := e.unqueued) (e := e) rfl _ _)
  have clean : (headServed cl rest d).anyPoison r.pa r.kind.size = false := (headServed_eq rest (·.anyPoison r.pa r.kind.size) fun _ => rfl).trans hc
  obtain ⟨e, he, mem, groups, queue⟩ := groupAtomic_leaves (P := P) (gid := gid) clean (by rw [word]; exact hv)
  obtain ⟨bytes, others⟩ := performed_bytes mem
  refine ⟨e, by rw [he, word], bytes, fun a ha => ?_, (queue cl).trans (headServed_queue rest), groups.trans (headServed_eq rest Device.groups fun _ => rfl)⟩
  rw [others a ha]
  exact headServed_eq rest (·.readByte a) fun _ => rfl
end
/-- A returning lane's value has joined its operation. -/
def Op.joined (o : Op) (lane size old : Nat) : Op :=
  { o with writes := (match o.vDests with | r :: _ => { o.writes with vs := o.writes.vs ++ cellsAt r (size / 4) lane old } | [] => o.writes), parts := o.parts - 1, exc := o.exc <|> none }
theorem joined_vs (o : Op) (lane size old : Nat) : (o.joined lane size old).writes.vs = o.writes.vs ++ match o.vDests with | n :: _ => cellsAt n (size / 4) lane old | [] => [] := by
  simp only [Op.joined]
  split
  · rfl
  · exact (List.append_nil _).symm
def Group.laneJoined (op lane size old : Nat) (g : Group) : Group := { g with ops := g.ops.map fun o => if o.id == op then o.joined lane size old else o }
theorem find_laneJoined {op lane size old : Nat} {g : Group} {o : Op} (ho : (g.ops.find? fun x => x.id == op) = some o) : ((g.laneJoined op lane size old).ops.find? fun x => x.id == op) = some (o.joined lane size old) :=
  (find?_changed (f := fun o => o.joined lane size old) (fun _ => rfl) _ _).trans (congrArg (Option.map _) ho)
/-- A lane that is not the last joins its operation, and nothing else follows. -/
theorem returnLane_joins {P : Platform} {d : Device} {gid op lane size old : Nat} {g : Group} {o : Op} (hg : Tbl.find d.groups gid = some g) (ho : (g.ops.find? fun x => x.id == op) = some o) (hp : 1 < o.parts) :
    returnLane P d gid op lane size old none = d.modGroup gid (Group.laneJoined op lane size old) := by
  have hf : Tbl.find (d.modGroup gid (Group.laneJoined op lane size old)).groups gid = some (g.laneJoined op lane size old) := (find_modGroup_same _ _ _).trans (congrArg (Option.map _) hg)
  have found : ((Tbl.find (d.modGroup gid (Group.laneJoined op lane size old)).groups gid).bind fun g => g.ops.find? fun o => o.id == op) = some (o.joined lane size old) := (congrArg (Option.bind · _) hf).trans (find_laneJoined ho)
  have more : ((o.joined lane size old).parts != 0) = true := by simp only [Op.joined, bne_iff_ne, ne_eq]; omega
  show (match (Tbl.find (d.modGroup gid (Group.laneJoined op lane size old)).groups gid).bind fun g => g.ops.find? fun o => o.id == op with
    | none => _
    | some o => if o.parts != 0 then d.modGroup gid (Group.laneJoined op lane size old) else _) = _
  rw [found]
  exact if_pos more

end Sys2Proof.Machine

namespace Sys2Proof
open Machine

/-- Settles O27: a store's lanes write memory one after another; a service group's event takes requests in, and performs the one at the head of its queue. -/
theorem storesAndAtomicsPerformed : Obligations.stores_and_atomics_performed := by
  unfold Obligations.stores_and_atomics_performed
  refine ⟨⟨?away, ?send, ?ack⟩, ?enters, ?held, ?returning, ?wakes, ?watches⟩
  case away =>
    intro gid s g hg hs
    refine event_of rfl ?_ rfl
    have away : (g.state == .swapped || g.state == .migrating) = true := by rcases hs with hs | hs <;> rw [hs] <;> rfl
    simp only [storeSends, hg, if_pos away]
    split <;> rfl
  case send =>
    intro gid s g e rest hg hs hm hb hl
    have here : (g.state == .swapped || g.state == .migrating) = false := by simp [hs, hm]
    obtain ⟨mem, groups⟩ := sendLanes_leaves s.plat g e.op hl (s.dev, [])
    cases hsent : e.lanes.foldl (sendLane s.plat g e.op) (s.dev, []) with
    | mk d marks =>
    rw [hsent] at mem groups
    have done : storeSends gid s.plat s.dev = unblock (d.modGroup gid (Group.sentStore e rest marks)) gid := by
      simp only [storeSends, hg, hb, here, hsent, Bool.false_eq_true, if_false]
      rfl
    have mem' : (unblock (d.modGroup gid (Group.sentStore e rest marks)) gid).mem = (putLanes s.dev e.lanes).mem := mem
    refine event_of rfl done ⟨fun pre l post hls hpost => ?_, fun a ha => ?_, ?_, ?_⟩
    · rw [readBytes_mem_congr mem', hls]
      exact readBytes_putLanes_last hpost s.dev
    · exact (readByte_mem_congr mem' a).trans (readByte_putLanes_other ha s.dev)
    · refine (viewAt_retried (r := Group.regs) (fun _ _ _ => rfl) _ _ _ _).trans ((viewAt_modGroup Group.regs _ gid gid (Group.sentStore e rest marks) fun _ => rfl).trans ?_)
      rw [viewAt, groups, hg]
      rfl
    · have stores := viewAt_retried (r := Group.stores) (fun _ _ _ => rfl) .long (d.modGroup gid (Group.sentStore e rest marks)) gid gid
      rw [viewAt, viewAt, find_modGroup_same, groups, hg] at stores
      obtain ⟨x, hx, sx⟩ := Option.map_eq_some_iff.1 stores
      obtain ⟨hsb, hsent⟩ := Prod.mk.inj sx
      exact ⟨x, hx, hsb, hsent.trans List.map_append⟩
  case ack =>
    intro gid op s g hg ho hb hp hm
    obtain ⟨o, hf⟩ : ∃ o, (g.ops.find? fun o => o.id == op) = some o := by
      obtain ⟨o, hmem, hid⟩ := List.any_eq_true.1 ho
      exact Option.isSome_iff_exists.1 (List.find?_isSome.2 ⟨o, hmem, (Bool.and_eq_true_iff.1 hid).1⟩)
    cases hsent : g.sent.find? fun e => e.op == op with
    | none =>
      have done : storeAcks gid op s.plat s.dev = finishOp s.dev gid op := by simp only [storeAcks, hg, ho, hb, hp, hsent, Bool.not_true, Bool.or_self, Bool.false_eq_true, if_false]
      exact event_of rfl done ⟨finishOp_mem _ _ _, opsIn_finishOp hg hf⟩
    | some e =>
      let f (g : Group) : Group := { g with sent := g.sent.filter fun x => x.op != op }
      have done : storeAcks gid op s.plat s.dev = finishOp ((dropLines s.dev g.core (e.lanes.map fun l => l.pa / 64)).modGroup gid f) gid op := by
        simp only [storeAcks, hg, ho, hb, hp, hsent, hm e hsent, Bool.not_true, Bool.or_self, Bool.false_eq_true, if_false, if_true]
        rfl
      have hg' : Tbl.find ((dropLines s.dev g.core (e.lanes.map fun l => l.pa / 64)).modGroup gid f).groups gid = some (f g) := (find_modGroup_same _ _ _).trans (congrArg (Option.map f) hg)
      exact event_of rfl done ⟨finishOp_mem _ _ _, opsIn_finishOp (g := f g) hg' hf⟩
  case enters =>
    intro cl d
    have admitted := admitRequests_admits cl d
    obtain ⟨more, hq, hmore⟩ := admitted.queue
    exact ⟨more, hq, hmore, admitted.bound⟩
  case held =>
    intro cl s r rest gid v hq hs hc hv
    obtain ⟨e, he, bytes, others, queue, groups⟩ := served_groupAtomic (cl := cl) (P := s.plat) (rest := rest) hc hv gid
    have done : atomicServes cl s.plat s.dev = e.modGroup gid fun g => { g with outEff := g.outEff - 1 } := by
      rw [atomicServes_request hq (by simp [hs]), serveRequest, hs]
      simp only [he]
    refine event_of rfl done ⟨(readBytes_modGroup _ _ _ _ _).trans bytes, fun a ha => (readByte_modGroup _ _ _ a).trans (others a ha), queue, fun j => ?_, ?_⟩
    · refine (viewAt_modGroup Group.regs e gid j (fun g => { g with outEff := g.outEff - 1 }) fun _ => rfl).trans ?_
      rw [viewAt, groups, regsOf]
    · rw [find_modGroup_same, groups, Option.map_map]
      rfl
  case returning =>
    intro cl s r rest gid op lane v g o hq hs hc hv hg ho hp
    obtain ⟨e, he, bytes, others, queue, groups⟩ := served_groupAtomic (cl := cl) (P := s.plat) (rest := rest) hc hv gid
    have joins := returnLane_joins (P := s.plat) (d := e) (lane := lane) (size := r.kind.size) (old := s.dev.readNat r.pa r.kind.size) (groups ▸ hg) ho hp
    have done : atomicServes cl s.plat s.dev = returnLane s.plat e gid op lane r.kind.size (s.dev.readNat r.pa r.kind.size) none := by
      rw [atomicServes_request hq (by simp [hs]), serveRequest, hs]
      simp only [he, Bool.false_eq_true, if_false]
    refine event_of rfl (done.trans joins) ⟨(readBytes_modGroup _ _ _ _ _).trans bytes, fun a ha => (readByte_modGroup _ _ _ a).trans (others a ha), queue, fun j => ?_, ?_⟩
    · refine (viewAt_modGroup Group.regs e gid j (Group.laneJoined op lane r.kind.size (s.dev.readNat r.pa r.kind.size)) fun _ => rfl).trans ?_
      rw [viewAt, groups, regsOf]
    · rw [find_modGroup_same, groups, hg]
      exact (congrArg (Option.map _) (find_laneJoined ho)).trans (congrArg some (Prod.ext rfl (joined_vs o lane r.kind.size _)))
  case wakes => exact fun cl s r rest gid t hq hs hk ht => event_of rfl (atomicServes_wakes hq hs hk ht) rfl
  case watches => exact fun cl s r rest gid t hq hs hk ht hw => event_of rfl (atomicServes_keeps hq hs hk ht hw) rfl

end Sys2Proof

/-! What the instructions of rows 0x0_ to 0x5_ compute (R143 to R179). -/

namespace Sys2Proof
open Machine

/-- Settles O1: each meaning is one result for its lanes, and closes no region. -/
theorem arithmeticAndLogicComplete : Obligations.arithmetic_and_logic_complete := by
  unfold Obligations.arithmetic_and_logic_complete
  refine ⟨⟨?add, ?sub, ?mul, ?mulhi, ?mad, ?divstep, ?min, ?max, ?abs, ?neg, ?addc, ?subb, ?fma, ?addI32Short, ?subI32Short, ?addF32Short, ?mulF32Short⟩,
    ?lut3, ?andB32Short, ?orB32Short, ?xorB32Short, ?shl, ?shr, ?sra, ?rot, ?shlB32Short, ?shrB32Short, ?popc, ?clz, ?brev, ?bfe, ?bfi, ?bperm⟩
  case addc | subb => exact fun f pn => lands_of (fun _ => rfl) rfl rfl rfl
  all_goals exact fun f => lands_of (fun _ => rfl) rfl rfl rfl

/-- Settles O2: each meaning is one result for its lanes, of which `nop` and `yield` have none, and closes no region. -/
theorem conversionsAndLaneInstructionsComplete : Obligations.conversions_and_lane_instructions_complete := by
  unfold Obligations.conversions_and_lane_instructions_complete
  refine ⟨⟨?cvt, ?cvtPk, ?bsPack, ?bsUnpack, ?cmp, ?sel, ?classOf, ?plog, ?ptov, ?vtop⟩,
    ?shflIdx, ?shflUp, ?shflDn, ?shflXor, ?scan, ?scanx, ?rdc, ?vote, ?ballot, ?rnd, ?mov, ?movB32Short, ?rdlane, ?wrlane, ?nop, ?yield, ?yieldShort⟩
  case nop | yield | yieldShort => exact lands_of (fun _ => rfl) rfl rfl rfl
  case cvtPk | sel | movB32Short => exact fun f x => lands_of (fun _ => rfl) rfl rfl rfl
  case cvt => exact fun f src e => lands_of (fun _ => rfl) rfl rfl rfl
  case vtop => exact fun g pd a => lands_of (fun _ => rfl) rfl rfl rfl
  case ptov | vote | ballot => exact fun g m d a => lands_of (fun _ => rfl) rfl rfl rfl
  case rnd => exact fun g tr d a b => lands_of (fun _ => rfl) rfl rfl rfl
  all_goals exact fun f => lands_of (fun _ => rfl) rfl rfl rfl

end Sys2Proof

/-! Integer arithmetic (R84, R148, R151). -/

namespace Sys2Proof.Machine
open Sys2Proof

/-! Integers of a width (R84, R143, R151). -/

theorem width_pos (t : Ty) : 0 < Ty.width t := by cases t <;> decide
/-- The signed value of `n` bits, as the library writes it. -/
theorem sext_eq_toInt {n : Nat} (hn : 0 < n) (v : Nat) : sext n v = (BitVec.ofNat n v).toInt := by
  have half : 2 ^ n = 2 * 2 ^ (n - 1) := (mul_pow_sub_one hn.ne' 2).symm
  rw [sext, BitVec.toInt_eq_toNat_cond, BitVec.toNat_ofNat]
  split <;> split <;> omega
/-- The value of an encoding in an integer type, as the library writes it. -/
theorem intOf_eq (t : Ty) (x : Nat) : intOf t x = if Ty.signed t then (BitVec.ofNat (Ty.width t) x).toInt else (BitVec.ofNat (Ty.width t) x).toNat := by
  rw [intOf, sext_eq_toInt (width_pos t), BitVec.toNat_ofNat]
theorem wrapInt_eq (t : Ty) (v : Int) : wrapInt t v = (BitVec.ofInt (Ty.width t) v).toNat := (BitVec.toNat_ofInt v).symm
/-- Bringing a value into a range cuts it off below and above. -/
theorem clamp_eq {lo hi : Int} (h : lo ≤ hi) (v : Int) : (if v < lo then lo else if hi < v then hi else v) = max lo (min hi v) := by
  split
  · omega
  · split <;> omega
theorem intRange_signed {t : Ty} (h : Ty.signed t = true) : intRange t = (-2 ^ (Ty.width t - 1), 2 ^ (Ty.width t - 1) - 1) := by simp [intRange, h]
theorem intRange_unsigned {t : Ty} (h : Ty.signed t = false) : intRange t = (0, 2 ^ Ty.width t - 1) := by simp [intRange, h]
theorem intRange_le (t : Ty) : (intRange t).1 ≤ (intRange t).2 := by cases t <;> decide
/-- `sat` and `wrap` of an exact integer (R151). -/
theorem fitInt_eq (t : Ty) (sat : Bool) (v : Int) : fitInt t sat v = (BitVec.ofInt (Ty.width t) (if sat then max (intRange t).1 (min (intRange t).2 v) else v)).toNat := by
  cases sat
  · exact wrapInt_eq t v
  · exact (wrapInt_eq t _).trans (congrArg _ (congrArg _ (clamp_eq (intRange_le t) v)))

/-! Integer results (R151). -/

section
variable {t : Ty} (h : t.isInt = true)
include h

theorem isFloat_of_isInt : t.isFloat = false := by cases t <;> simp_all [Ty.isInt, Ty.isFloat]
theorem addElem_int (r : Rnd) (sat : Bool) : addElem t r sat = fun _ x y => fitInt t sat (intOf t x + intOf t y) := by simp [funext_iff, addElem, isFloat_of_isInt h]
theorem subElem_int (r : Rnd) (sat : Bool) : subElem t r sat = fun _ x y => fitInt t sat (intOf t x - intOf t y) := by simp [funext_iff, subElem, isFloat_of_isInt h]
theorem mulElem_int (r : Rnd) (sat : Bool) : mulElem t r sat = fun _ x y => fitInt t sat (intOf t x * intOf t y) := by simp [funext_iff, mulElem, isFloat_of_isInt h]
theorem minElem_int : minElem t = fun x y => fitInt t false (min (intOf t x) (intOf t y)) := by simp [funext_iff, minElem, fitInt, isFloat_of_isInt h]
theorem maxElem_int : maxElem t = fun x y => fitInt t false (max (intOf t x) (intOf t y)) := by simp [funext_iff, maxElem, fitInt, isFloat_of_isInt h]
theorem absElem_int (sat : Bool) : absElem t sat = fun x => fitInt t sat |intOf t x| := by simp [funext_iff, absElem, isFloat_of_isInt h]
theorem negElem_int (sat : Bool) : negElem t sat = fun x => fitInt t sat (-intOf t x) := by simp [funext_iff, negElem, isFloat_of_isInt h]
end
/-- The high half of the product of two elements. -/
theorem mulhiElem_eq (t : Ty) : mulhiElem t = fun x y => fitInt t false (intOf t x * intOf t y / 2 ^ Ty.width t) := by
  funext x y
  rw [mulhiElem, Int.fdiv_eq_ediv_of_nonneg _ (Int.natCast_nonneg _), Nat.cast_pow]
  rfl

end Sys2Proof.Machine

namespace Sys2Proof
open Machine

/-- Settles O53: the model's results of integer elements are these, where its values and its fitting are the library's. -/
theorem integerResults : Obligations.integer_results := by
  unfold Obligations.integer_results
  obtain ⟨⟨add, sub, mul, mulhi, mad, -, min, max, abs, neg, -⟩, -⟩ := arithmeticAndLogicComplete
  intro num lo hi fit
  have hnum : num = intOf := by
    funext t x
    exact (intOf_eq t x).symm
  have hfit : fit = fitInt := by
    funext t sat v
    have hlo : lo t = (intRange t).1 := by
      cases h : Ty.signed t <;> simp [lo, h, intRange_signed, intRange_unsigned]
    have hhi : hi t = (intRange t).2 := by
      cases h : Ty.signed t <;> simp [hi, h, intRange_signed, intRange_unsigned]
    rw [fitInt_eq, ← hlo, ← hhi]
  rw [hnum, hfit]
  refine ⟨fun f h => ?add, fun f h => ?sub, fun f h => ?mul, fun f h => ?mulhi, fun f h => ?mad, fun f h => ?min, fun f h => ?max, fun f h => ?abs, fun f h => ?neg⟩
  case add => exact addElem_int h f.rnd f.sat ▸ add f
  case sub => exact subElem_int h f.rnd f.sat ▸ sub f
  case mul => exact mulElem_int h f.rnd f.sat ▸ mul f
  case mulhi => exact mulhiElem_eq f.ty ▸ mulhi f
  case mad => exact mad f
  case min => exact minElem_int h ▸ min f
  case max => exact maxElem_int h ▸ max f
  case abs => exact absElem_int h f.sat ▸ abs f
  case neg => exact negElem_int h f.sat ▸ neg f

end Sys2Proof

namespace Sys2Proof.Machine
open Sys2Proof

/-! Shifts and the rotation (R156). -/

/-- A register operand's value has the width of its type. -/
theorem regVal_lt {t : Ty} (h : Ty.width t = if t.is64 then 64 else 32) (g : Group) (sp : Split) (l : Nat) (r : Reg) : regVal g sp t l r < 2 ^ Ty.width t := by
  have scalar (n : Nat) : readS g sp n < 2 ^ 64 := by
    unfold readS
    split <;> exact BitVec.isLt _
  have vector (n : Nat) : readV g sp n l < 2 ^ 32 := by
    unfold readV
    split <;> exact BitVec.isLt _
  cases r with
  | v n =>
    simp only [regVal, readV64, h]
    split
    · have := vector n
      have := vector (n + 1)
      omega
    · exact vector n
  | s n =>
    simp only [regVal, h]
    split
    · exact scalar n
    · exact Nat.mod_lt _ (by decide)
/-- A shift's results agree where they agree on the values of its width. -/
theorem shiftWrites_congr {f : Bin} {op op' : Nat → Nat → Nat} (hw : Ty.width f.ty = if f.ty.is64 then 64 else 32) (h : ∀ x n, x < 2 ^ Ty.width f.ty → op x n = op' x n) : shiftWrites f op = shiftWrites f op' := by
  funext c
  have : (fun l (_ : Nat) => op (c.rv f.ty l f.a.reg) (c.ov .b32 l f.b)) = fun l _ => op' (c.rv f.ty l f.a.reg) (c.ov .b32 l f.b) := by
    funext l _
    exact h _ _ (regVal_lt hw _ _ _ _)
  rw [shiftWrites, shiftWrites, this]
theorem shlElem_eq (t : Ty) (x n : Nat) : shlElem t x n = (BitVec.ofNat (Ty.width t) x <<< n).toNat := by
  rw [BitVec.toNat_shiftLeft, BitVec.toNat_ofNat, Nat.shiftLeft_eq, Nat.mod_mul_mod, shlElem]
  split
  · rfl
  · have hdvd : 2 ^ Ty.width t ∣ x * 2 ^ n := (pow_dvd_pow 2 (Nat.le_of_not_lt ‹_›)).mul_left x
    exact (Nat.mod_eq_zero_of_dvd hdvd).symm
theorem shrElem_eq {t : Ty} {x : Nat} (hx : x < 2 ^ Ty.width t) (n : Nat) : shrElem t x n = (BitVec.ofNat (Ty.width t) x >>> n).toNat := by
  rw [BitVec.toNat_ushiftRight, BitVec.toNat_ofNat, Nat.mod_eq_of_lt hx, Nat.shiftRight_eq_div_pow, shrElem]
  split
  · rfl
  · exact (Nat.div_eq_of_lt (hx.trans_le (Nat.pow_le_pow_right (by decide) (Nat.le_of_not_lt ‹_›)))).symm
/-- A signed value of `w` bits shifted by `w − 1` or more is its sign. -/
theorem shiftRight_sign {v : Int} {k n : Nat} (h1 : -2 ^ k ≤ v) (h2 : v < 2 ^ k) (hn : k ≤ n) : v / 2 ^ n = if v < 0 then -1 else 0 := by
  have hp : (2 : Int) ^ k ≤ 2 ^ n := pow_le_pow_right₀ (by decide) hn
  split
  · rw [Int.ediv_eq_iff_of_pos (by positivity)]
    omega
  · exact Int.ediv_eq_zero_of_lt (by omega) (by omega)
theorem sraElem_eq {t : Ty} (ht : Ty.signed t = true) (x n : Nat) : sraElem t x n = ((BitVec.ofNat (Ty.width t) x).sshiftRight n).toNat := by
  have hx : intOf t x = (BitVec.ofNat (Ty.width t) x).toInt := (intOf_eq t x).trans (if_pos ht)
  have h1 : -2 ^ (Ty.width t - 1) ≤ intOf t x := hx ▸ BitVec.le_toInt _
  have h2 : intOf t x < 2 ^ (Ty.width t - 1) := hx ▸ BitVec.toInt_lt
  have amount : Int.fdiv (intOf t x) (2 ^ min n (Ty.width t - 1) : Nat) = intOf t x / 2 ^ n := by
    rw [Int.fdiv_eq_ediv_of_nonneg _ (Int.natCast_nonneg _), Nat.cast_pow]
    rcases le_total n (Ty.width t - 1) with hn | hn
    · rw [min_eq_left hn]
      rfl
    · rw [min_eq_right hn, shiftRight_sign h1 h2 hn]
      exact shiftRight_sign h1 h2 le_rfl
  rw [sraElem, amount, wrapInt_eq, BitVec.sshiftRight, ← hx, Int.shiftRight_eq_div_pow]
  push_cast
  rfl
/-- A rotation's two parts have no bit in common. -/
theorem rotElem_eq {t : Ty} {x : Nat} (hx : x < 2 ^ Ty.width t) (n : Nat) : rotElem t x n = ((BitVec.ofNat (Ty.width t) x).rotateLeft n).toNat := by
  have hk : n % Ty.width t < Ty.width t := Nat.mod_lt _ (width_pos t)
  have hw : 2 ^ Ty.width t = 2 ^ (n % Ty.width t) * 2 ^ (Ty.width t - n % Ty.width t) := by rw [← pow_add, Nat.add_sub_cancel' hk.le]
  have low : x / 2 ^ (Ty.width t - n % Ty.width t) < 2 ^ (n % Ty.width t) := Nat.div_lt_of_lt_mul (by rw [mul_comm, ← hw]; exact hx)
  have high : x * 2 ^ (n % Ty.width t) % 2 ^ Ty.width t = (x % 2 ^ (Ty.width t - n % Ty.width t)) <<< (n % Ty.width t) := by
    rw [Nat.shiftLeft_eq, hw, mul_comm x, Nat.mul_mod_mul_left, mul_comm]
  rw [BitVec.toNat_rotateLeft, BitVec.toNat_ofNat, Nat.mod_eq_of_lt hx, Nat.shiftLeft_eq, Nat.shiftRight_eq_div_pow, high, ← Nat.shiftLeft_add_eq_or_of_lt low, ← high]
  rfl

end Sys2Proof.Machine

namespace Sys2Proof
open Machine

/-- Settles O55: each shift is the library's on the values of its width, for every amount. -/
theorem shiftResults : Obligations.shift_results := by
  unfold Obligations.shift_results
  obtain ⟨-, -, -, -, -, shl, shr, sra, rot, -⟩ := arithmeticAndLogicComplete
  refine ⟨fun f ht => ?shl, fun f ht => ?shr, fun f ht => ?sra, fun f ht => ?rot⟩
  all_goals have hw : Ty.width f.ty = if f.ty.is64 then 64 else 32 := by rcases ht with ht | ht <;> rw [ht] <;> rfl
  case shl => exact shiftWrites_congr hw (fun x n _ => shlElem_eq _ _ _) ▸ shl f
  case shr => exact shiftWrites_congr hw (fun x n hx => shrElem_eq hx _) ▸ shr f
  case sra =>
    have hs : Ty.signed f.ty = true := by rcases ht with ht | ht <;> rw [ht] <;> rfl
    exact shiftWrites_congr hw (fun x n _ => sraElem_eq hs _ _) ▸ sra f
  case rot => exact shiftWrites_congr hw (fun x n hx => rotElem_eq hx _) ▸ rot f

end Sys2Proof

namespace Sys2Proof.Machine
open Sys2Proof

/-! Bit counts, reversals and fields (R157, R158, R159). -/

/-- The set bits of a value, counted from below. -/
theorem popBits_eq (x n : Nat) : popBits x n = ((List.range n).filter fun i => x.testBit i).length := by
  induction n with
  | zero => rfl
  | succ n ih => cases h : x.testBit n <;> simp [popBits, ih, List.range_succ, h]
/-- `clz` leaves the highest set bit just below the zeros it counts. -/
theorem clzBits_spec {w x : Nat} (hx : x < 2 ^ w) : clzBits w x ≤ w ∧ (∀ i, w - clzBits w x ≤ i → x.testBit i = false) ∧ (clzBits w x < w → x.testBit (w - 1 - clzBits w x) = true) := by
  rcases eq_or_ne x 0 with rfl | h0
  · simp [clzBits]
  · have hlog : x.log2 < w := (Nat.log2_lt h0).2 hx
    rw [clzBits, if_neg h0]
    refine ⟨by omega, fun i hi => ?_, fun _ => ?_⟩
    · exact Nat.testBit_lt_two_pow ((Nat.log2_lt h0).1 (by omega))
    · rw [show w - 1 - (w - 1 - x.log2) = x.log2 by omega]
      exact Nat.testBit_log2 h0
/-- The lowest `n` bits of a value in reverse order are the highest of `w` bits. -/
theorem revBits_spec {w : Nat} (x : Nat) {n : Nat} (hn : n ≤ w) : 2 ^ (w - n) ∣ revBits w x n ∧ ∀ i, (revBits w x n).testBit i = (decide (w - n ≤ i ∧ i < w) && x.testBit (w - 1 - i)) := by
  induction n with
  | zero => exact ⟨dvd_zero _, fun i => by simp [revBits, show ¬ (w ≤ i ∧ i < w) by omega]⟩
  | succ n ih =>
    obtain ⟨⟨a, ha⟩, hbits⟩ := ih (by omega)
    have next : 2 ^ (w - n) = 2 ^ (w - (n + 1)) * 2 := by rw [← pow_succ]; congr 1; omega
    have place : w - 1 - n = w - (n + 1) := by omega
    have grows (i : Nat) (hi : i ≠ w - (n + 1)) : decide (w - (n + 1) ≤ i ∧ i < w) = decide (w - n ≤ i ∧ i < w) := decide_eq_decide.2 (by omega)
    rw [revBits, place]
    cases hx : x.testBit n with
    | false =>
      refine ⟨ha ▸ next ▸ dvd_mul_of_dvd_left (dvd_mul_right _ _) _, fun i => ?_⟩
      rw [if_neg Bool.false_ne_true, add_zero, hbits]
      rcases eq_or_ne i (w - (n + 1)) with rfl | hi
      · simp [show w - 1 - (w - (n + 1)) = n by omega, hx]
      · rw [grows i hi]
    | true =>
      refine ⟨(ha ▸ next ▸ dvd_mul_of_dvd_left (dvd_mul_right _ _) _).add (dvd_refl _), fun i => ?_⟩
      have join : revBits w x n + 2 ^ (w - (n + 1)) = revBits w x n ||| 2 ^ (w - (n + 1)) := by
        rw [ha, mul_comm, ← Nat.shiftLeft_eq]
        exact Nat.shiftLeft_add_eq_or_of_lt (Nat.pow_lt_pow_right (by decide) (by omega)) a
      rw [if_pos rfl, join, Nat.testBit_or, hbits, Nat.testBit_two_pow]
      rcases eq_or_ne i (w - (n + 1)) with rfl | hi
      · simp [show w - 1 - (w - (n + 1)) = n by omega, hx, show 0 < w by omega]
      · rw [decide_eq_false hi.symm, Bool.or_false, grows i hi]
theorem revBits_testBit (w x i : Nat) : (revBits w x w).testBit i = (decide (i < w) && x.testBit (w - 1 - i)) := by
  simpa using (revBits_spec x le_rfl).2 i
/-- A field of `n` bits. -/
theorem field_testBit (x o n i : Nat) : (x / 2 ^ o % 2 ^ n).testBit i = (decide (i < n) && x.testBit (o + i)) := by
  rw [Nat.testBit_mod_two_pow, Nat.testBit_div_two_pow, add_comm]
theorem bfeElem_testBit (x o w i : Nat) : (bfeElem .w32 x o w).testBit i = (decide (i < w) && decide (o + i < 32) && x.testBit (o + i)) := by
  simp only [bfeElem, Bool.or_eq_true, decide_eq_true_eq, ← Bool.decide_and]
  by_cases h : 32 ≤ o ∨ w = 0
  · rw [if_pos h, Nat.zero_testBit, decide_eq_false (by omega), Bool.false_and]
  · have bound : i < min w (32 - o) ↔ i < w ∧ o + i < 32 := by omega
    rw [if_neg h]
    exact (field_testBit x o _ i).trans (by simp only [bound])
/-- A field with its highest bit in every place above it. -/
theorem field_signed_testBit {n : Nat} (hn : 0 < n) (hn' : n ≤ 32) (x o i : Nat) : (wrapInt .i32 (sext n (x / 2 ^ o % 2 ^ n))).testBit i = if 32 ≤ i then false else x.testBit (o + min i (n - 1)) := by
  have word : wrapInt .i32 (sext n (x / 2 ^ o % 2 ^ n)) = ((BitVec.ofNat n (x / 2 ^ o % 2 ^ n)).signExtend 32).toNat := by rw [sext_eq_toInt hn]; exact wrapInt_eq _ _
  rw [word, BitVec.testBit_toNat, BitVec.getLsbD_signExtend, BitVec.getLsbD_ofNat, BitVec.msb_eq_getLsbD_last, BitVec.getLsbD_ofNat, field_testBit, field_testBit]
  by_cases h32 : 32 ≤ i
  · simp [h32, Nat.not_lt.2 h32]
  · rcases lt_or_ge i n with hi | hi
    · simp [h32, Nat.lt_of_not_le h32, hi, show min i (n - 1) = i by omega]
    · simp [h32, Nat.lt_of_not_le h32, hn, Nat.not_lt.2 hi, show min i (n - 1) = n - 1 by omega]
theorem bfeElem_i32_testBit (x o w i : Nat) : (bfeElem .i32 x o w).testBit i = if 32 ≤ i ∨ 32 ≤ o ∨ w = 0 then false else x.testBit (o + min i (min w (32 - o) - 1)) := by
  simp only [bfeElem, Bool.or_eq_true, decide_eq_true_eq]
  by_cases h : 32 ≤ o ∨ w = 0
  · rw [if_pos h, if_pos (.inr h), Nat.zero_testBit]
  · rw [if_neg h, if_pos (beq_self_eq_true _), field_signed_testBit (by omega) (by omega)]
    simp only [h, or_false]
theorem bfiElem_testBit (x base v i : Nat) : (bfiElem x base v).testBit i = if v % 256 ≤ i ∧ i < v % 256 + v / 256 % 256 ∧ i < 32 then x.testBit (i - v % 256) else base.testBit i := by
  simp only [bfiElem, Bool.or_eq_true, decide_eq_true_eq]
  generalize v % 256 = o
  generalize v / 256 % 256 = w
  by_cases h : w = 0 ∨ 32 ≤ o
  · rw [if_pos h, if_neg (by omega)]
  · rw [if_neg h]
    have bound : o ≤ i ∧ i < o + w ∧ i < 32 ↔ o ≤ i ∧ i < o + min w (32 - o) := by omega
    simp only [bound]
    generalize min w (32 - o) = n
    have inner : 2 ^ o * (x % 2 ^ n) + base % 2 ^ o < 2 ^ (o + n) := by
      have low : 2 ^ o * (x % 2 ^ n) + base % 2 ^ o < 2 ^ o * (x % 2 ^ n + 1) := Nat.add_lt_add_left (Nat.mod_lt _ (Nat.two_pow_pos o)) _
      exact low.trans_le (pow_add 2 o n ▸ Nat.mul_le_mul_left _ (Nat.mod_lt x (Nat.two_pow_pos n)))
    have parts : base % 2 ^ o + x % 2 ^ n * 2 ^ o + base / 2 ^ (o + n) * 2 ^ (o + n) = 2 ^ (o + n) * (base / 2 ^ (o + n)) + (2 ^ o * (x % 2 ^ n) + base % 2 ^ o) := by ring
    rw [parts, Nat.testBit_two_pow_mul_add _ inner, Nat.testBit_two_pow_mul_add _ (Nat.mod_lt _ (Nat.two_pow_pos _)), Nat.testBit_mod_two_pow, Nat.testBit_mod_two_pow, Nat.testBit_div_two_pow]
    rcases lt_or_ge i o with h1 | h1
    · simp [h1, show i < o + n by omega]
    · rcases lt_or_ge i (o + n) with h2 | h2
      · simp [h1, h2, show ¬ i < o by omega, show i - o < n by omega]
      · simp [show ¬ i < o + n by omega, Nat.sub_add_cancel h2]

/-! Restoring division (R153). -/

/-- One step of restoring division on a pair of 32-bit words. -/
theorem divStep_eq {q p d : Nat} (hq : q < 2 ^ 32) :
    divStep (q + 2 ^ 32 * p) d = if d ≤ 2 * p + q / 2 ^ 31 then (2 * q % 2 ^ 32 + 1) + 2 ^ 32 * ((2 * p + q / 2 ^ 31 - d) % 2 ^ 32) else 2 * q % 2 ^ 32 + 2 ^ 32 * ((2 * p + q / 2 ^ 31) % 2 ^ 32) := by
  have h1 : (q + 2 ^ 32 * p) % 2 ^ 32 = q := by omega
  have h2 : (q + 2 ^ 32 * p) / 2 ^ 32 = p := by omega
  rw [divStep, h1, h2]
  split <;> ring
/-- A division with `j` bits of the dividend to come: Q holds them above the quotient so far, and P the remainder so far. -/
def division (j bits quot rem : Nat) : Nat := bits * 2 ^ (32 - j) + quot + 2 ^ 32 * rem
theorem division_start (n : Nat) : division 32 n 0 0 = n := by simp [division]
/-- A step takes the highest of the bits to come into P, and the quotient's next bit enters Q. -/
theorem divStep_division {j bits quot rem d : Nat} (hj : j < 32) (hbits : bits < 2 ^ (j + 1)) (hquot : quot < 2 ^ (31 - j)) :
    divStep (division (j + 1) bits quot rem) d = if d ≤ 2 * rem + bits / 2 ^ j then division j (bits % 2 ^ j) (2 * quot + 1) ((2 * rem + bits / 2 ^ j - d) % 2 ^ 32) else division j (bits % 2 ^ j) (2 * quot) ((2 * rem + bits / 2 ^ j) % 2 ^ 32) := by
  have e31 : 2 ^ 31 = 2 ^ (31 - j) * 2 ^ j := by rw [← pow_add]; congr 1; omega
  have e32 : 2 ^ 32 = 2 ^ j * 2 ^ (32 - j) := by rw [← pow_add]; congr 1; omega
  have half : 2 ^ (32 - j) = 2 * 2 ^ (31 - j) := by rw [← pow_succ']; congr 1; omega
  have hq : bits * 2 ^ (31 - j) + quot < 2 ^ 32 := by
    have : (bits + 1) * 2 ^ (31 - j) ≤ 2 ^ (j + 1) * 2 ^ (31 - j) := Nat.mul_le_mul_right _ hbits
    rw [← pow_add, show j + 1 + (31 - j) = 32 by omega, add_one_mul] at this
    omega
  have top : (bits * 2 ^ (31 - j) + quot) / 2 ^ 31 = bits / 2 ^ j := by
    rw [e31, ← Nat.div_div_eq_div_mul, mul_comm, Nat.mul_add_div (Nat.two_pow_pos _), Nat.div_eq_of_lt hquot, add_zero]
  have shifted : 2 * (bits * 2 ^ (31 - j) + quot) % 2 ^ 32 = bits % 2 ^ j * 2 ^ (32 - j) + 2 * quot := by
    have hlt : bits % 2 ^ j * 2 ^ (32 - j) + 2 * quot < 2 ^ 32 := by
      have : (bits % 2 ^ j + 1) * 2 ^ (32 - j) ≤ 2 ^ j * 2 ^ (32 - j) := Nat.mul_le_mul_right _ (Nat.mod_lt _ (Nat.two_pow_pos j))
      rw [← e32, add_one_mul] at this
      omega
    have parts : 2 * (bits * 2 ^ (31 - j) + quot) = bits % 2 ^ j * 2 ^ (32 - j) + 2 * quot + 2 ^ 32 * (bits / 2 ^ j) := by
      calc 2 * (bits * 2 ^ (31 - j) + quot) = bits * 2 ^ (32 - j) + 2 * quot := by rw [half]; ring
        _ = (2 ^ j * (bits / 2 ^ j) + bits % 2 ^ j) * 2 ^ (32 - j) + 2 * quot := by rw [Nat.div_add_mod]
        _ = _ := by rw [e32]; ring
    rw [parts, Nat.add_mul_mod_self_left, Nat.mod_eq_of_lt hlt]
  rw [division, show 32 - (j + 1) = 31 - j by omega, divStep_eq hq, top, shifted]
  rfl
/-- The next bit of the dividend in the quotient and the remainder. -/
theorem div_mod_next (h b : Nat) {d : Nat} (hd : 0 < d) (hb : b < 2) :
    (2 * h + b) / d = 2 * (h / d) + (if d ≤ 2 * (h % d) + b then 1 else 0) ∧ (2 * h + b) % d = if d ≤ 2 * (h % d) + b then 2 * (h % d) + b - d else 2 * (h % d) + b := by
  have hmod := Nat.mod_lt h hd
  have hdm := Nat.div_add_mod h d
  rw [Nat.div_mod_unique hd]
  split
  · exact ⟨by rw [mul_add, mul_left_comm]; omega, by omega⟩
  · exact ⟨by rw [mul_add, mul_left_comm]; omega, by omega⟩
/-- The bits of the dividend that have passed, before and after a step. -/
theorem passed_next (n j : Nat) : n % 2 ^ (j + 1) / 2 ^ j = n / 2 ^ j % 2 ∧ n % 2 ^ (j + 1) % 2 ^ j = n % 2 ^ j ∧ n / 2 ^ j = 2 * (n / 2 ^ (j + 1)) + n / 2 ^ j % 2 := by
  refine ⟨?_, ?_, ?_⟩
  · rw [pow_succ, Nat.mod_mul_right_div_self]
  · rw [pow_succ, Nat.mod_mul_right_mod]
  · rw [pow_succ, ← Nat.div_div_eq_div_mul]; omega
/-- `j` steps by a divisor other than 0 end with the quotient and the remainder. -/
theorem divSteps_end {n d : Nat} (hn : n < 2 ^ 32) (hd : d < 2 ^ 32) (h0 : 0 < d) {j : Nat} (hj : j ≤ 32) :
    (fun x => divStep x d)^[j] (division j (n % 2 ^ j) (n / 2 ^ j / d) (n / 2 ^ j % d)) = n / d + 2 ^ 32 * (n % d) := by
  induction j with
  | zero => simp [division, Nat.mod_one]
  | succ j ih =>
    have hquot : n / 2 ^ (j + 1) / d < 2 ^ (31 - j) := by
      refine (Nat.div_le_self _ _).trans_lt (Nat.div_lt_of_lt_mul ?_)
      rwa [← pow_add, show j + 1 + (31 - j) = 32 by omega]
    obtain ⟨hbit, hrest, hpassed⟩ := passed_next n j
    have hb : n / 2 ^ j % 2 < 2 := Nat.mod_lt _ (by decide)
    obtain ⟨hq, hr⟩ := div_mod_next (n / 2 ^ (j + 1)) (n / 2 ^ j % 2) h0 hb
    rw [← hpassed] at hq hr
    have hmod := Nat.mod_lt (n / 2 ^ (j + 1)) h0
    rw [← ih (by omega), Function.iterate_succ_apply, divStep_division (by omega) (Nat.mod_lt _ (Nat.two_pow_pos _)) hquot, hbit, hrest]
    congr 1
    rw [hq, hr]
    split
    · have hlt : 2 * (n / 2 ^ (j + 1) % d) + n / 2 ^ j % 2 - d < 2 ^ 32 := by omega
      rw [Nat.mod_eq_of_lt hlt]
    · have hlt : 2 * (n / 2 ^ (j + 1) % d) + n / 2 ^ j % 2 < 2 ^ 32 := by omega
      rw [Nat.mod_eq_of_lt hlt, add_zero]
/-- By 0, each bit of the dividend passes into P and a 1 enters Q. -/
theorem divSteps_zero {n : Nat} (hn : n < 2 ^ 32) {j : Nat} (hj : j ≤ 32) :
    (fun x => divStep x 0)^[j] (division j (n % 2 ^ j) (2 ^ (32 - j) - 1) (n / 2 ^ j)) = 0xFFFFFFFF + 2 ^ 32 * n := by
  induction j with
  | zero => simp [division, Nat.mod_one]
  | succ j ih =>
    have hquot : 2 ^ (32 - (j + 1)) - 1 < 2 ^ (31 - j) := by
      rw [show 32 - (j + 1) = 31 - j by omega]
      have := Nat.two_pow_pos (31 - j)
      omega
    obtain ⟨hbit, hrest, hpassed⟩ := passed_next n j
    have hlt : n / 2 ^ j < 2 ^ 32 := (Nat.div_le_self _ _).trans_lt hn
    have ones : 2 * (2 ^ (32 - (j + 1)) - 1) + 1 = 2 ^ (32 - j) - 1 := by
      rw [show 32 - j = 32 - (j + 1) + 1 by omega, pow_succ]
      have := Nat.two_pow_pos (32 - (j + 1))
      omega
    rw [Function.iterate_succ_apply, divStep_division (by omega) (Nat.mod_lt _ (Nat.two_pow_pos _)) hquot, if_pos (Nat.zero_le _), hbit, hrest, ones, ← hpassed, Nat.sub_zero, Nat.mod_eq_of_lt hlt]
    exact ih (by omega)

end Sys2Proof.Machine

namespace Sys2Proof
open Machine

/-- Settles O56: the three counts and reversals are results at issue, and each count, reversal and field is known bit by bit. -/
theorem bitResults : Obligations.bit_results := by
  unfold Obligations.bit_results
  obtain ⟨-, -, -, -, -, -, -, -, -, -, -, popc, clz, brev, bfe, bfi, -⟩ := arithmeticAndLogicComplete
  refine ⟨fun f _ => ⟨?popc, clz f, brev f⟩, fun f _ => bfe f, fun f _ => bfi f, fun w x => clzBits_spec, revBits_testBit, bfeElem_testBit, bfeElem_i32_testBit, fun x base v i _ => bfiElem_testBit x base v i⟩
  case popc => simpa only [popBits_eq] using popc f

/-- Settles O57: after each step the bits that have passed into P stand divided, so after 32 of them the dividend does. -/
theorem divstepsDivide : Obligations.divsteps_divide := by
  unfold Obligations.divsteps_divide
  obtain ⟨⟨-, -, -, -, -, divstep, -⟩, -⟩ := arithmeticAndLogicComplete
  refine ⟨fun q p d hq _ _ => divStep_eq hq, divstep, fun n d hn hd h0 => ?quotient, fun n hn => ?zero⟩
  case quotient =>
    have start : division 32 (n % 2 ^ 32) (n / 2 ^ 32 / d) (n / 2 ^ 32 % d) = n := by
      rw [Nat.mod_eq_of_lt hn, Nat.div_eq_of_lt hn, Nat.zero_div, Nat.zero_mod, division_start]
    exact (congrArg _ start.symm).trans (divSteps_end hn hd (Nat.pos_of_ne_zero h0) le_rfl)
  case zero =>
    have start : division 32 (n % 2 ^ 32) (2 ^ (32 - 32) - 1) (n / 2 ^ 32) = n := by
      rw [Nat.mod_eq_of_lt hn, Nat.div_eq_of_lt hn]
      exact division_start n
    exact (congrArg _ start.symm).trans (divSteps_zero hn le_rfl)

end Sys2Proof

/-! `call`, `ret` and `jmp` (R186, R187). -/

namespace Sys2Proof.Machine
open Sys2Proof

/-! Masks of lanes. -/

theorem foldl_setBit_getLsbD (ls : List Nat) (m : Mask) (l : Nat) : (ls.foldl (fun m i => m ||| (1#32 <<< i)) m).getLsbD l = (m.getLsbD l || (decide (l < 32) && decide (l ∈ ls))) := by
  induction ls generalizing m with
  | nil => simp
  | cons i ls ih =>
    rw [List.foldl_cons, ih]
    have bit : (1#32 <<< i).getLsbD l = (decide (l < 32) && decide (l = i)) := by
      rw [BitVec.getLsbD_shiftLeft, BitVec.getLsbD_one]
      grind
    rw [BitVec.getLsbD_or, bit]
    grind
/-- The lanes of a mask where a condition holds. -/
theorem maskWhere_getLsbD (m : Mask) (p : Nat → Bool) {l : Nat} (hl : l < 32) : (maskWhere m p).getLsbD l = (m.getLsbD l && p l) := by
  rw [maskWhere, maskOf, foldl_setBit_getLsbD]
  simp [mem_lanesOf, hl, Bool.and_comm]
/-- A condition that every lane of a mask meets selects the mask. -/
theorem maskWhere_all {m : Mask} {p : Nat → Bool} (h : ∀ l ∈ lanesOf m, p l = true) : maskWhere m p = m := by
  refine BitVec.eq_of_getLsbD_eq fun l hl => ?_
  rw [maskWhere_getLsbD m p hl]
  cases hm : m.getLsbD l with
  | false => rfl
  | true => exact h l (mem_lanesOf.2 ⟨hl, hm⟩)
/-- A mask that is not 0 has a lowest lane. -/
theorem headD_mem_lanesOf {m : Mask} (h : m ≠ 0) : (lanesOf m).headD 0 ∈ lanesOf m := by
  cases hl : lanesOf m with
  | cons l ls => exact List.mem_cons_self
  | nil =>
    refine absurd (BitVec.eq_of_getLsbD_eq fun l hlt => ?_) h
    simpa using (List.filter_eq_nil_iff.1 hl) l (List.mem_range.2 hlt)

/-! Transfers. -/

/-- A split placed at a clause as a whole. -/
def Group.jumped (k : Nat) (target : DWord) (g : Group) : Group := modSplit g k fun sp => { gotoClause sp target .branch with noMatch := false, waitOver := false }
theorem jumpTo_eq (c : Ctx) (target : DWord) : jumpTo c target = .jump (c.d.modGroup c.gid (Group.jumped c.k target)) := rfl
theorem jumped_stands {g : Group} {k : Nat} {sp : Split} (hk : splitOf g k = some sp) (target : DWord) : (g.jumped k target).stands k = some (target, 0) := by
  rw [Group.stands, Group.jumped, splitOf_modSplit_same, hk]
  rfl
/-- An instruction whose body places the split at a clause. -/
theorem completes_jumpTo {i : Instr} {gd : Option Guard} {s : State} {c : Ctx} {body : Ctx → Except Stop (Ctx → Done)} {target : DWord} (hr : ready i gd s = some c) (he : exec i s = runCode i gd s body) (h1 : closesFirst i = false) (h2 : closesEarly i = false) (h3 : isHeldEffect i = false)
    (hb : okDone c (body c) = some (jumpTo c target)) : Completes (exec i s) (Jumped s c target) := by
  obtain ⟨-, -, -, hk, -⟩ := ready_ctx hr
  exact (completes_jump hr he h1 h2 h3 hb (fun _ => rfl) (jumped_stands hk target)).mono fun t h => h.1

/-- The lanes whose target is the lowest lane's (R187). -/
def computedPart (c : Ctx) (target : Nat → DWord) : Mask := maskWhere c.lanes fun l => target l == target ((lanesOf c.lanes).headD 0)
section
variable {target : Ctx → Nat → DWord} {c : Ctx}
/-- Lanes that agree on a target all go there. -/
theorem computedBody_agreed {t : DWord} (h0 : c.lanes ≠ 0) (h : ∀ l ∈ lanesOf c.lanes, target c l = t) : okDone c (computedBody target c) = some (jumpTo c t) := by
  have head : target c ((lanesOf c.lanes).headD 0) = t := h _ (headD_mem_lanesOf h0)
  have all : (maskWhere c.lanes fun l => target c l == t) = c.lanes := maskWhere_all fun l hl => by rw [h l hl, beq_self_eq_true]
  simp only [computedBody, head, if_pos all, okDone]
theorem computedBody_divides (hm : computedPart c (target c) ≠ c.lanes) (h4 : splitCount c.g < 4) :
    okDone c (computedBody target c) = some (.jump (c.d.modGroup c.gid fun g => divide c.d.clock (closing c.d g) g c.k (computedPart c (target c)) (target c ((lanesOf c.lanes).headD 0)) c.sp.merges fun sp => { sp with mergeWait := false })) := by
  rw [computedPart] at hm
  simp only [computedBody, if_neg hm, if_pos h4, okDone, computedPart]
theorem computedBody_overflows (hm : computedPart c (target c) ≠ c.lanes) (h4 : 4 ≤ splitCount c.g) : computedBody target c = .error (.raise (Exc.of .divergenceOverflow)) := by
  rw [computedPart] at hm
  simp only [computedBody, if_neg hm, if_neg (Nat.not_lt.2 h4)]
end
/-- What a computed transfer leaves whose lanes name different targets (R187). -/
theorem computed_divides {i : Instr} {gd : Option Guard} {s : State} {c : Ctx} {target : Ctx → Nat → DWord} (hr : ready i gd s = some c) (he : exec i s = runCode i gd s (computedBody target)) (h1 : closesFirst i = false) (h2 : closesEarly i = false) (h3 : isHeldEffect i = false)
    (hm : computedPart c (target c) ≠ c.lanes) :
    (splitCount c.g < 4 → Completes (exec i s) fun t =>
      regsOf t.dev c.gid = regsOf s.dev c.gid ∧ t.dev.mem = s.dev.mem ∧
      ((Tbl.find t.dev.groups c.gid).bind fun x => splitOf x c.k).map (fun sp => (sp.pc, sp.index, sp.mask, sp.merges)) = some (c.sp.pc, c.sp.index, c.sp.mask &&& ~~~computedPart c (target c), c.sp.merges) ∧
      ((Tbl.find t.dev.groups c.gid).bind fun x => splitOf x (freeSplit c.g)).map (fun sp => (sp.pc, sp.index, sp.mask, sp.merges)) = some (target c ((lanesOf c.lanes).headD 0), 0, computedPart c (target c), c.sp.merges)) ∧
    (4 ≤ splitCount c.g → exec i s = .next { s with dev := takeException s.plat s.dev c.gid c.site (Exc.of .divergenceOverflow) }) := by
  refine ⟨fun h4 => ?_, fun h4 => raises_of hr he h2 (computedBody_overflows hm h4)⟩
  obtain ⟨-, -, -, hk, -⟩ := ready_ctx hr
  refine (completes_transfer hr he h1 h2 h3 (computedBody_divides hm h4) (divide_regs _ _ _ _ _ _ _ _)).mono ?_
  rintro t ⟨hregs, hmem, last, y, ht⟩
  obtain ⟨stays, goes⟩ := divide_seats (clock := c.d.clock) (cl := closing c.d c.g) (t := computedPart c (target c)) (target := target c ((lanesOf c.lanes).headD 0)) (merges := c.sp.merges) (parent := fun sp => { sp with mergeWait := false }) hk h4
  refine ⟨hregs, hmem, ?_, ?_⟩
  · rw [bind_seat ht, seat_noted, stays]
    rfl
  · rw [bind_seat ht, seat_noted, goes]
/-- A call lands its link in the group whose split it has placed. -/
theorem callDone_eq (link : Reg) (off : BitVec 30) (c : Ctx) :
    callDone link off c = .jump (landResult (c.d.modGroup c.gid (Group.jumped c.k (branchTarget c.sp off))) c.gid c.k (linkWrites c link (nextClause c.sp).toNat) false 0 false) := rfl
theorem call_completes {link : Reg} {off : BitVec 30} {s : State} {c : Ctx} (hr : ready (.call link off) none s = some c) :
    Completes (exec (.call link off) s) fun t =>
      Beside s c s.dev t ∧ regsOf t.dev c.gid = (Tbl.find s.dev.groups c.gid).map (fun g => g.landed c.k false (linkWrites c link (nextClause c.sp).toNat) 0) ∧ standsAt t.dev c.gid c.k = some (branchTarget c.sp off, 0) := by
  obtain ⟨-, hd, hg, hk, -⟩ := ready_ctx hr
  refine ⟨_, (show exec (.call link off) s = _ from rfl).trans (runCode_ok hr rfl rfl (.inl rfl) rfl), ?_⟩
  rw [callDone_eq, retire, hd]
  refine ⟨⟨rfl, rfl, rfl, rest_eq ?_, fun j hj => ?_⟩, ?_, standsAt_of ?_⟩
  · simp
  · simp only [regsOf_noteIssue, regsOf_noteArrival, regsOf_landResult, if_neg hj, regsOf_modGroup_other _ _ _ _ hj]
  · simp only [regsOf_noteIssue, regsOf_noteArrival, regsOf_landResult, if_true, find_modGroup_same, Option.map_map]
    rfl
  · rw [view_noteIssue (fun g => g.stands c.k) (stands_modSplit c.k) fun _ _ _ => rfl, view_noteArrival (fun g => g.stands c.k) (stands_modSplit c.k), standsAt_landResult, find_modGroup_same, hg]
    exact congrArg some (jumped_stands hk _)

end Sys2Proof.Machine

namespace Sys2Proof
open Machine

/-- Settles O20: a call is a transfer and a result; `ret` and `jmp` are one computed transfer, whose lanes agree on a target or divide. -/
theorem callsComplete : Obligations.calls_complete := by
  unfold Obligations.calls_complete
  refine ⟨fun link off s c hr => call_completes hr, ?ret, ?retShort, ?jmp, ?retDivides, ?retShortDivides, ?jmpDivides⟩
  case ret => exact fun link s c target hr h0 h => completes_jumpTo hr rfl rfl rfl rfl (computedBody_agreed h0 h)
  case retShort => exact fun s c target hr h0 h => completes_jumpTo hr rfl rfl rfl rfl (computedBody_agreed h0 h)
  case jmp => exact fun r off s c target hr h0 h => completes_jumpTo hr rfl rfl rfl rfl (computedBody_agreed h0 h)
  case retDivides => exact fun link s c hr hm => computed_divides (target := fun c => linkValue c link) hr rfl rfl rfl rfl hm
  case retShortDivides => exact fun s c hr hm => computed_divides (target := fun c => linkValue c (.v 30)) hr rfl rfl rfl rfl hm
  case jmpDivides => exact fun r off s c hr hm => computed_divides (target := fun c l => linkValue c r l + BitVec.ofInt 64 (16 * off.toInt)) hr rfl rfl rfl rfl hm

end Sys2Proof

/-! The special cases of float arithmetic (R85, R86, R152, R161). -/

namespace Sys2Proof.Machine
open Sys2Proof

/-! Specials among exact values (R152). -/

/-- A value that is neither NaN nor an infinity. -/
def Val.Finite (v : Val) : Prop := v ≠ .nan ∧ ∀ a, v ≠ .inf a
/-- A value that is neither NaN nor a zero. -/
def Val.Nonzero (v : Val) : Prop := v ≠ .nan ∧ ∀ a, v ≠ .zero a

@[simp] theorem Val.add_nan (r : Rnd) (v : Val) : v.add r .nan = .nan := by cases v <;> rfl
@[simp] theorem Val.nan_add (r : Rnd) (v : Val) : Val.add r .nan v = .nan := by cases v <;> rfl
@[simp] theorem Val.mul_nan (v : Val) : v.mul .nan = .nan := by cases v <;> rfl
@[simp] theorem Val.nan_mul (v : Val) : Val.mul .nan v = .nan := by cases v <;> rfl
@[simp] theorem Val.neg_nan : Val.nan.neg = .nan := rfl
@[simp] theorem Val.neg_inf (a : Bool) : (Val.inf a).neg = .inf (!a) := rfl
theorem Val.inf_add_inf (r : Rnd) (a b : Bool) : (Val.inf a).add r (.inf b) = if a = b then .inf a else .nan := by cases a <;> cases b <;> rfl

section
variable {v : Val}
theorem Val.inf_add_finite (r : Rnd) (a : Bool) (h : v.Finite) : (Val.inf a).add r v = .inf a := by
  cases v with
  | nan => exact absurd rfl h.1
  | inf b => exact absurd rfl (h.2 b)
  | zero | num => rfl
theorem Val.finite_add_inf (r : Rnd) (a : Bool) (h : v.Finite) : v.add r (.inf a) = .inf a := by
  cases v with
  | nan => exact absurd rfl h.1
  | inf b => exact absurd rfl (h.2 b)
  | zero | num => rfl
theorem Val.inf_mul_nonzero (a : Bool) (h : v.Nonzero) : (Val.inf a).mul v = .inf (a != v.isNeg) := by
  cases v with
  | nan => exact absurd rfl h.1
  | zero b => exact absurd rfl (h.2 b)
  | inf | num => rfl
theorem Val.nonzero_mul_inf (a : Bool) (h : v.Nonzero) : v.mul (.inf a) = .inf (a != v.isNeg) := by
  cases v with
  | nan => exact absurd rfl h.1
  | zero b => exact absurd rfl (h.2 b)
  | inf | num => exact congrArg Val.inf (bne_comm)
theorem Val.Finite.neg (h : v.Finite) : v.neg.Finite := by
  cases v with
  | nan => exact absurd rfl h.1
  | inf b => exact absurd rfl (h.2 b)
  | zero | num => exact ⟨nofun, nofun⟩
theorem Val.Finite.mul {u : Val} (hu : u.Finite) (h : v.Finite) : (u.mul v).Finite := by
  cases u with
  | nan => exact absurd rfl hu.1
  | inf b => exact absurd rfl (hu.2 b)
  | zero | num =>
    cases v with
    | nan => exact absurd rfl h.1
    | inf b => exact absurd rfl (h.2 b)
    | zero | num => exact ⟨nofun, nofun⟩
end

/-! Encodings of f32, f16 and bf16 (R85, R86). -/

/-- The weight of the sign bit of a type. -/
def signWeight (t : Ty) : Nat := 2 ^ (Ty.width t - 1)
/-- The encoding of +∞ in a type's format. -/
def infBits (t : Ty) : Nat := (fmtOf t).inf.getD 0
/-- The canonical NaN of a type's format. -/
def nanBits (t : Ty) : Nat := (fmtOf t).nan.getD 0
/-- The sign bit of an encoding. -/
def signOf (t : Ty) (x : Nat) : Bool := decide (signWeight t ≤ x)
/-- The encoding of an infinity. -/
def infOf (t : Ty) (neg : Bool) : Nat := infBits t + if neg then signWeight t else 0

theorem scale_neg (n e : Int) : (Frac.scale n e).num < 0 ↔ n < 0 := by
  unfold Frac.scale
  split
  · exact ⟨fun h => neg_of_mul_neg_left h (by positivity), fun h => mul_neg_of_neg_of_pos h (by positivity)⟩
  · rfl
/-- A fraction of a sign and a magnitude that is not 0 has the sign. -/
theorem signed_scale_neg (s : Bool) {n : Int} (hn : 0 < n) (e : Int) : decide ((Frac.scale ((if s then -1 else 1) * n) e).num < 0) = s := by
  cases s <;> simp [scale_neg, hn, hn.le]

section
variable {t : Ty} (ht : t.isF = true)
include ht

theorem isFloat_of_isF : t.isFloat = true := by cases t <;> simp_all [Ty.isF, Ty.isFloat]
/-- Each of the three formats has an infinity just above its finite values, below the sign bit. -/
theorem fmt_isF : (fmtOf t).bits - 1 = Ty.width t - 1 ∧ (fmtOf t).inf = some (infBits t) ∧ (fmtOf t).maxBits + 1 = infBits t ∧ infBits t < signWeight t ∧ 2 ^ Ty.width t = 2 * signWeight t := by
  cases t <;> simp [Ty.isF] at ht <;> decide
/-- An encoding is its sign bit and its magnitude. -/
theorem eq_sign_add {x : Nat} (hx : x < 2 ^ Ty.width t) : x = x % signWeight t + if signOf t x then signWeight t else 0 := by
  obtain ⟨-, -, -, -, hw⟩ := fmt_isF ht
  have := Nat.mod_add_div x (signWeight t)
  by_cases h : signWeight t ≤ x
  · rw [signOf, decide_eq_true h, if_pos rfl, Nat.mod_eq_sub_mod h, Nat.mod_eq_of_lt (by omega)]
    omega
  · rw [signOf, decide_eq_false h, Nat.mod_eq_of_lt (by omega)]
    simp
theorem div_sign {x : Nat} (hx : x < 2 ^ Ty.width t) : x / signWeight t = (signOf t x).toNat := by
  obtain ⟨-, -, -, -, hw⟩ := fmt_isF ht
  by_cases h : signWeight t ≤ x
  · rw [signOf, decide_eq_true h, Nat.div_eq_of_lt_le (k := 1) (by omega) (by omega)]
    rfl
  · rw [signOf, decide_eq_false h, Nat.div_eq_of_lt (by omega)]
    rfl

/-! The value of an encoding. -/

/-- The value of an encoding, by its magnitude and its sign. -/
theorem valOf_eq {x : Nat} (hx : x < 2 ^ Ty.width t) :
    (infBits t < x % signWeight t → valOf t x = .nan) ∧ (x % signWeight t = infBits t → valOf t x = .inf (signOf t x)) ∧ (x % signWeight t = 0 → valOf t x = .zero (signOf t x)) ∧
    (0 < x % signWeight t → x % signWeight t < infBits t → ∃ q, valOf t x = .num q ∧ decide (q.num < 0) = signOf t x) := by
  obtain ⟨hbits, hinf, hmax, hlt, hw⟩ := fmt_isF ht
  have hs : (x / 2 ^ ((fmtOf t).bits - 1) % 2 == 1) = signOf t x := by
    rw [hbits, ← signWeight, div_sign ht hx]
    cases signOf t x <;> rfl
  have hm : x % 2 ^ ((fmtOf t).bits - 1) = x % signWeight t := by rw [hbits, signWeight]
  rw [valOf, Nat.mod_eq_of_lt hx, Val.ofBits]
  simp only [hs, hm, hinf, Option.some.injEq]
  refine ⟨fun h => ?nan, fun h => ?inf, fun h => ?zero, fun h0 h => ?num⟩
  case nan => rw [if_neg (by omega), if_pos (by omega), if_neg (by omega)]
  case inf => rw [if_neg (by omega), if_pos (by omega), if_pos h.symm]
  case zero => rw [if_pos h]
  case num =>
    rw [if_neg (by omega), if_neg (by omega)]
    split
    · next he =>
      have hpos : 0 < x % signWeight t % 2 ^ (fmtOf t).m := by
        have := Nat.div_add_mod (x % signWeight t) (2 ^ (fmtOf t).m)
        rw [he, mul_zero] at this
        omega
      exact ⟨_, rfl, signed_scale_neg _ (Int.natCast_pos.2 hpos) _⟩
    · exact ⟨_, rfl, signed_scale_neg _ (by positivity) _⟩
end

section
variable {t : Ty} (ht : t.isF = true) {x : Nat} (hx : x < 2 ^ Ty.width t)
include ht hx

theorem valOf_nan (h : infBits t < x % signWeight t) : valOf t x = .nan := (valOf_eq ht hx).1 h
theorem valOf_inf (h : x % signWeight t = infBits t) : valOf t x = .inf (signOf t x) := (valOf_eq ht hx).2.1 h
theorem valOf_zero (h : x % signWeight t = 0) : valOf t x = .zero (signOf t x) := (valOf_eq ht hx).2.2.1 h
/-- A magnitude below the infinity's is finite. -/
theorem valOf_finite (h : x % signWeight t < infBits t) : (valOf t x).Finite := by
  obtain ⟨-, -, hzero, hnum⟩ := valOf_eq ht hx
  rcases Nat.eq_zero_or_pos (x % signWeight t) with h0 | h0
  · rw [hzero h0]
    exact ⟨nofun, nofun⟩
  · obtain ⟨q, hq, -⟩ := hnum h0 h
    rw [hq]
    exact ⟨nofun, nofun⟩
/-- A magnitude that is neither 0 nor a NaN's is a nonzero value of its sign. -/
theorem valOf_nonzero (h : ¬ infBits t < x % signWeight t) (h0 : x % signWeight t ≠ 0) : (valOf t x).Nonzero ∧ (valOf t x).isNeg = signOf t x := by
  obtain ⟨-, hinf, -, hnum⟩ := valOf_eq ht hx
  rcases Nat.lt_or_ge (x % signWeight t) (infBits t) with hlt | hge
  · obtain ⟨q, hq, hneg⟩ := hnum (Nat.pos_of_ne_zero h0) hlt
    rw [hq]
    exact ⟨⟨nofun, nofun⟩, hneg⟩
  · rw [hinf (by omega)]
    exact ⟨⟨nofun, nofun⟩, rfl⟩
theorem valOf_ne_nan (h : ¬ infBits t < x % signWeight t) : valOf t x ≠ .nan := by
  rcases eq_or_ne (x % signWeight t) 0 with h0 | h0
  · rw [valOf_zero ht hx h0]
    nofun
  · exact (valOf_nonzero ht hx h h0).1.1
end

/-! The encodings of specials (R143). -/

section
variable {t : Ty} (ht : t.isF = true)

include ht
theorem fitFloat_inf (r : Rnd) (sat : Bool) (rb : Nat) (neg : Bool) : fitFloat t r sat rb (.inf neg) = infOf t neg := by
  obtain ⟨hbits, hinf, -⟩ := fmt_isF ht
  simp only [fitFloat, fround, hbits, hinf, Bool.and_false, Bool.false_eq_true, if_false, infOf, signWeight, add_comm]
theorem addElem_float (r : Rnd) (sat : Bool) (rb x y : Nat) : addElem t r sat rb x y = fitFloat t r sat rb ((valOf t x).add r (valOf t y)) := if_pos (isFloat_of_isF ht)
theorem subElem_float (r : Rnd) (sat : Bool) (rb x y : Nat) : subElem t r sat rb x y = fitFloat t r sat rb ((valOf t x).add r (valOf t y).neg) := if_pos (isFloat_of_isF ht)
theorem mulElem_float (r : Rnd) (sat : Bool) (rb x y : Nat) : mulElem t r sat rb x y = fitFloat t r sat rb ((valOf t x).mul (valOf t y)) := if_pos (isFloat_of_isF ht)
theorem minElem_float (x y : Nat) : minElem t x y = fminmax t false x y := if_pos (isFloat_of_isF ht)
theorem maxElem_float (x y : Nat) : maxElem t x y = fminmax t true x y := if_pos (isFloat_of_isF ht)
/-- The encoding of an infinity is an infinity. -/
theorem eq_infOf {x : Nat} (hx : x < 2 ^ Ty.width t) (h : x % signWeight t = infBits t) : x = infOf t (signOf t x) := by
  rw [infOf, ← h]
  exact eq_sign_add ht hx
/-- Another sign bit. -/
theorem infOf_not (neg : Bool) : infOf t (!neg) = if infOf t neg < signWeight t then infOf t neg + signWeight t else infOf t neg - signWeight t := by
  obtain ⟨-, -, -, hlt, -⟩ := fmt_isF ht
  cases neg <;> simp [infOf, hlt]
theorem infOf_inj {a b : Bool} : infOf t a = infOf t b ↔ a = b := by
  obtain ⟨-, -, -, hlt, -⟩ := fmt_isF ht
  cases a <;> cases b <;> simp [infOf] <;> omega
/-- The infinity of the product's sign. -/
theorem infOf_product {x y : Nat} (hx : x < 2 ^ Ty.width t) (hy : y < 2 ^ Ty.width t) : infOf t (signOf t x != signOf t y) = infBits t + if x / signWeight t = y / signWeight t then 0 else signWeight t := by
  rw [div_sign ht hx, div_sign ht hy, infOf]
  cases signOf t x <;> cases signOf t y <;> rfl
/-- The sum of an infinity and what is no NaN: NaN where that is the other infinity. -/
theorem fitFloat_inf_add {z : Nat} (hz : z < 2 ^ Ty.width t) (hn : ¬ infBits t < z % signWeight t) (r : Rnd) (sat : Bool) (rb : Nat) (neg : Bool) :
    fitFloat t r sat rb ((Val.inf neg).add r (valOf t z)) = if z % signWeight t = infBits t ∧ z ≠ infOf t neg then nanBits t else infOf t neg := by
  rcases Nat.lt_or_ge (z % signWeight t) (infBits t) with hlt | hge
  · rw [Val.inf_add_finite r _ (valOf_finite ht hz hlt), if_neg (fun h => hlt.ne h.1), fitFloat_inf ht]
  · have hinf : z % signWeight t = infBits t := by omega
    have other : z = infOf t neg ↔ neg = signOf t z := by
      conv_lhs => rw [eq_infOf ht hz hinf, infOf_inj ht, eq_comm]
    simp only [valOf_inf ht hz hinf, Val.inf_add_inf, hinf, true_and, ne_eq, other]
    by_cases e : neg = signOf t z
    · rw [if_pos e, if_neg (not_not_intro e), fitFloat_inf ht]
    · rw [if_neg e, if_pos e]
      rfl
theorem negElem_float (sat : Bool) {x : Nat} (hx : x < 2 ^ Ty.width t) : negElem t sat x = if x < signWeight t then x + signWeight t else x - signWeight t := by
  obtain ⟨-, -, -, -, hw⟩ := fmt_isF ht
  have hdiv := div_sign ht hx
  have rest : (x ^^^ signWeight t) % signWeight t = x % signWeight t := by rw [signWeight, Nat.xor_mod_two_pow, Nat.mod_self, Nat.xor_zero]
  have top : (x ^^^ signWeight t) / signWeight t = x / signWeight t ^^^ 1 := by rw [signWeight, Nat.xor_div_two_pow, Nat.div_self (Nat.two_pow_pos _)]
  have parts := Nat.div_add_mod (x ^^^ signWeight t) (signWeight t)
  have whole := Nat.div_add_mod x (signWeight t)
  rw [rest, top, hdiv] at parts
  rw [hdiv] at whole
  rw [negElem, if_pos (isFloat_of_isF ht)]
  refine parts.symm.trans ?_
  by_cases h : signWeight t ≤ x
  · have hs : signOf t x = true := decide_eq_true h
    rw [if_neg (Nat.not_lt.2 h)]
    simp only [hs, Bool.toNat_true, Nat.xor_self] at whole ⊢
    omega
  · have hs : signOf t x = false := decide_eq_false h
    rw [if_pos (Nat.lt_of_not_le h)]
    simp only [hs, Bool.toNat_false, Nat.zero_xor] at whole ⊢
    omega
end

theorem fminmax_nan {t : Ty} {x y : Nat} (isMax : Bool) (hx : valOf t x = .nan) (hy : valOf t y = .nan) : fminmax t isMax x y = nanBits t := by
  simp only [fminmax, hx, hy]
  rfl
theorem fminmax_nan_left {t : Ty} {x y : Nat} (isMax : Bool) (hx : valOf t x = .nan) (hy : valOf t y ≠ .nan) : fminmax t isMax x y = y := by
  simp only [fminmax, hx]
theorem fminmax_nan_right {t : Ty} {x y : Nat} (isMax : Bool) (hx : valOf t x ≠ .nan) (hy : valOf t y = .nan) : fminmax t isMax x y = x := by
  simp only [fminmax, hy]

/-! Results of specials: a NaN's magnitude lies above the infinity's, a finite value's below it. -/

section
variable {t : Ty} (ht : t.isF = true) (r : Rnd) (sat : Bool) (rb : Nat) {x y z : Nat} (hx : x < 2 ^ Ty.width t)
include ht hx

theorem infs_add_sub (hy : y < 2 ^ Ty.width t) (h : x % signWeight t = infBits t) (h' : y % signWeight t = infBits t) :
    (x = y → subElem t r sat rb x y = nanBits t ∧ addElem t r sat rb x y = x) ∧ (x ≠ y → addElem t r sat rb x y = nanBits t ∧ subElem t r sat rb x y = x) := by
  have same : x = y ↔ signOf t x = signOf t y := by
    conv_lhs => rw [eq_infOf ht hx h, eq_infOf ht hy h', infOf_inj ht]
  have hxs := eq_infOf ht hx h
  rw [addElem_float ht, subElem_float ht, valOf_inf ht hx h, valOf_inf ht hy h', Val.neg_inf, Val.inf_add_inf, Val.inf_add_inf]
  refine ⟨fun e => ?_, fun e => ?_⟩
  · have e := same.1 e
    rw [if_neg (by simp [e]), if_pos e, fitFloat_inf ht]
    exact ⟨rfl, hxs.symm⟩
  · have e := mt same.2 e
    rw [if_neg e, if_pos (Bool.eq_not.2 e), fitFloat_inf ht]
    exact ⟨rfl, hxs.symm⟩
theorem inf_add_sub_finite (hy : y < 2 ^ Ty.width t) (h : x % signWeight t = infBits t) (h' : y % signWeight t < infBits t) :
    addElem t r sat rb x y = x ∧ addElem t r sat rb y x = x ∧ subElem t r sat rb x y = x ∧ subElem t r sat rb y x = if x < signWeight t then x + signWeight t else x - signWeight t := by
  have hv := valOf_finite ht hy h'
  have hxs := eq_infOf ht hx h
  rw [addElem_float ht, addElem_float ht, subElem_float ht, subElem_float ht, valOf_inf ht hx h, Val.neg_inf, Val.inf_add_finite r _ hv, Val.finite_add_inf r _ hv, Val.inf_add_finite r _ hv.neg, Val.finite_add_inf r _ hv,
    fitFloat_inf ht, fitFloat_inf ht, infOf_not ht, ← hxs]
  exact ⟨rfl, rfl, rfl, rfl⟩
theorem inf_mul_zero (hy : y < 2 ^ Ty.width t) (h : x % signWeight t = infBits t) (h' : y % signWeight t = 0) : (valOf t x).mul (valOf t y) = .nan ∧ (valOf t y).mul (valOf t x) = .nan := by
  rw [valOf_inf ht hx h, valOf_zero ht hy h']
  exact ⟨rfl, rfl⟩
/-- The product of an infinity and what is neither NaN nor a zero is an infinity, on either side. -/
theorem inf_mul_nonzero (hy : y < 2 ^ Ty.width t) (h : x % signWeight t = infBits t) (h' : ¬ infBits t < y % signWeight t) (h0 : y % signWeight t ≠ 0) :
    (valOf t x).mul (valOf t y) = .inf (signOf t x != signOf t y) ∧ (valOf t y).mul (valOf t x) = .inf (signOf t x != signOf t y) := by
  obtain ⟨hv, hneg⟩ := valOf_nonzero ht hy h' h0
  rw [valOf_inf ht hx h, Val.inf_mul_nonzero _ hv, Val.nonzero_mul_inf _ hv, hneg]
  exact ⟨rfl, rfl⟩
end

end Sys2Proof.Machine

namespace Sys2Proof
open Machine

/-- Settles O54: the encodings are classified by their magnitudes, and the exact values follow the rules of the specials. -/
theorem floatSpecialCases : Obligations.float_special_cases := by
  unfold Obligations.float_special_cases
  intro t ht w F inf nan sign isNan isInf finite flip product r sat rb x y z hx hy hz
  have canonical : fitFloat t r sat rb .nan = nan := rfl
  refine ⟨?nan, ?fmaNan, infs_add_sub ht r sat rb hx hy, ?infZero, inf_add_sub_finite ht r sat rb hx hy, ?infNonzero, ?zeroInf, ?fmaInf, ?fmaFinite, ?minmaxNan, ?minmaxOne, ?sign⟩
  case nan =>
    rw [addElem_float ht, subElem_float ht, mulElem_float ht]
    rintro (h | h)
    · rw [valOf_nan ht hx h, Val.nan_add, Val.nan_add, Val.nan_mul]
      exact ⟨canonical, canonical, canonical⟩
    · rw [valOf_nan ht hy h, Val.neg_nan, Val.add_nan, Val.mul_nan]
      exact ⟨canonical, canonical, canonical⟩
  case fmaNan =>
    rintro (h | h | h)
    · rw [fmaElem, valOf_nan ht hx h, Val.nan_mul, Val.nan_add, canonical]
    · rw [fmaElem, valOf_nan ht hy h, Val.mul_nan, Val.nan_add, canonical]
    · rw [fmaElem, valOf_nan ht hz h, Val.add_nan, canonical]
  case infZero =>
    intro h h0
    obtain ⟨hxy, hyx⟩ := inf_mul_zero ht hx hy h h0
    rw [mulElem_float ht, mulElem_float ht, fmaElem, hxy, hyx, Val.nan_add]
    exact ⟨canonical, canonical, canonical⟩
  case infNonzero =>
    intro h h' h0
    obtain ⟨hxy, hyx⟩ := inf_mul_nonzero ht hx hy h h' h0
    rw [mulElem_float ht, mulElem_float ht, hxy, hyx, fitFloat_inf ht, infOf_product ht hx hy]
    exact ⟨rfl, rfl⟩
  case zeroInf =>
    intro h h0
    rw [fmaElem, (inf_mul_zero ht hx hy h h0).2, Val.nan_add, canonical]
  case fmaInf =>
    intro h h' h0 hn
    obtain ⟨hxy, hyx⟩ := inf_mul_nonzero ht hx hy h h' h0
    have sum := fitFloat_inf_add ht hz hn r sat rb (signOf t x != signOf t y)
    rw [infOf_product ht hx hy] at sum
    rw [fmaElem, fmaElem, hxy, hyx]
    exact ⟨sum, sum⟩
  case fmaFinite =>
    intro h h' hi
    rw [fmaElem, valOf_inf ht hz hi, Val.finite_add_inf r _ ((valOf_finite ht hx h).mul (valOf_finite ht hy h')), fitFloat_inf ht]
    exact (eq_infOf ht hz hi).symm
  case minmaxNan =>
    intro h h'
    have hv := valOf_nan ht hx h
    have hv' := valOf_nan ht hy h'
    rw [minElem_float ht, maxElem_float ht, fminmax_nan _ hv hv', fminmax_nan _ hv hv']
    exact ⟨rfl, rfl⟩
  case minmaxOne =>
    intro h h'
    have hv := valOf_nan ht hx h
    have hv' := valOf_ne_nan ht hy h'
    simp only [minElem_float ht, maxElem_float ht, fminmax_nan_left _ hv hv', fminmax_nan_right _ hv' hv, and_self]
  case sign => exact ⟨if_pos (isFloat_of_isF ht), negElem_float ht sat hx⟩

end Sys2Proof

/-! Writes of an engine, line by line (R199, R205). -/

namespace Sys2Proof.Machine
open Sys2Proof

/-- A write of an engine changes the bytes written and no other. -/
theorem engineWrite_mem (P : Platform) (src : Nat) (d : Device) (a : Nat) (bs : List Byte) : (engineWrite P src d a bs).mem = (d.writeBytes a bs).mem := by
  simp only [engineWrite]
  rw [foldl_mem _ (fun d m => mergeClock_mem d src (clockAt m))]
  exact writePhys_mem P src _ d a bs (Nat.lt_succ_self _)
theorem readBytes_engineWrite_same (P : Platform) (src : Nat) (d : Device) (a : Nat) (bs : List Byte) : (engineWrite P src d a bs).readBytes a bs.length = bs :=
  (readBytes_mem_congr (engineWrite_mem P src d a bs) a _).trans (readBytes_writeBytes_same bs d a)
theorem readByte_engineWrite_apart (P : Platform) (src : Nat) (d : Device) {a x : Nat} {bs : List Byte} (h : Apart x 1 a bs.length) :
    (engineWrite P src d a bs).readByte x = d.readByte x :=
  (readByte_mem_congr (engineWrite_mem P src d a bs) x).trans (readByte_writeBytes_apart h)

end Sys2Proof.Machine

namespace Sys2Proof
open Machine

/-- Settles O52: a write of an engine is the write of its bytes, whatever lines it is cut into. -/
theorem writesReadBack : Obligations.writes_read_back := by
  unfold Obligations.writes_read_back
  intro P src d a bs
  exact ⟨readBytes_engineWrite_same P src d a bs, fun x apart => readByte_engineWrite_apart P src d apart, engineWrite_wf P src d a bs⟩

end Sys2Proof

/-! Memory stays in its canonical form (log 1): one lemma for each function of the device, then each instruction and event, then the step. -/

namespace Sys2Proof.Machine
open Sys2Proof

/-- Memory of the device has its canonical form (log 1). -/
abbrev Device.canonical (d : Device) : Prop := Memory.wf d.mem = true
theorem canonical_of_mem {d e : Device} (he : e.mem = d.mem) (h : d.canonical) : e.canonical := by
  rw [Device.canonical, he]
  exact h
theorem canonical_ite {p : Prop} [Decidable p] {d e : Device} (hd : d.canonical) (he : e.canonical) : (if p then d else e).canonical := by
  split <;> assumption
/-- A fold of steps that each keep the form keeps it. -/
theorem canonical_foldl {α : Type} {f : Device → α → Device} (hf : ∀ d x, d.canonical → (f d x).canonical) {l : List α} {d : Device} (h : d.canonical) : (l.foldl f d).canonical :=
  List.foldlRecOn l f h fun d hd x _ => hf d x hd
theorem canonical_getD {o : Option Device} {d : Device} (ho : ∀ e, o = some e → e.canonical) (h : d.canonical) : (o.getD d).canonical := by
  cases o with
  | none => exact h
  | some e => exact ho e rfl
/-- A device that a stop carries has its memory in canonical form: the one a report has been written to (R255). -/
def Stop.canonical : Stop → Prop
  | .report d _ => d.canonical
  | _ => True
/-- The device that an instruction leaves has its memory in canonical form. -/
def Done.canonical : Done → Prop
  | .act d _ _ _ | .op d _ _ | .part d _ _ | .wait d | .jump d => d.canonical
/-- Whatever an instruction's meaning answers keeps memory in canonical form. -/
def Keeps (r : Except Stop (Ctx → Done)) : Prop := (∀ e, r = .error e → e.canonical) ∧ ∀ f, r = .ok f → ∀ c : Ctx, c.d.canonical → (f c).canonical
/-- An outcome leaves memory in canonical form. -/
def Ends (o : Host.Outcome State Fault Refusal) : Prop := ∀ t, o = .next t → t.dev.canonical

section
variable {P : Platform} {d : Device}

/-! Units, bytes of memory, writes and their marks (R199, R205, R220). -/

theorem free_canonical (h : d.canonical) : (Device.free d).2.canonical := h
theorem modCore_canonical {c : Nat} {f : Machine.Core → Machine.Core} (h : d.canonical) : (Device.modCore d c f).canonical := h
theorem modCluster_canonical {c : Nat} {f : Cluster → Cluster} (h : d.canonical) : (Device.modCluster d c f).canonical := h
theorem modSlice_canonical {k : Nat} {f : Slice → Slice} (h : d.canonical) : (Device.modSlice d k f).canonical := h
theorem modDie_canonical {k : Nat} {f : Die → Die} (h : d.canonical) : (Device.modDie d k f).canonical := h
theorem modGroup_canonical {g : Nat} {f : Machine.Group → Machine.Group} (h : d.canonical) : (Device.modGroup d g f).canonical := h
theorem modTeam_canonical {t : Nat} {f : Team → Team} (h : d.canonical) : (Device.modTeam d t f).canonical := h
theorem modJob_canonical {j : Nat} {f : Job → Job} (h : d.canonical) : (Device.modJob d j f).canonical := h
theorem modPeer_canonical {p : Nat} {f : Peer → Peer} (h : d.canonical) : (Device.modPeer d p f).canonical := h
theorem markWord_canonical {bad : Bool} {w : Nat} (h : d.canonical) : (Device.markWord d bad w).canonical := canonical_of_mem (markWord_mem d bad w) h
theorem setPoison_canonical {a : Nat} (h : d.canonical) : (Device.setPoison d a).canonical := markWord_canonical h
theorem mergeClock_canonical {k : Nat} {c : DieClock} (h : d.canonical) : (Device.mergeClock d k c).canonical := modDie_canonical h
theorem toCommand_canonical {k : Nat} (h : d.canonical) : (Device.toCommand d k).canonical := h
theorem fromCommand_canonical {k : Nat} (h : d.canonical) : (Device.fromCommand d k).canonical := mergeClock_canonical h
theorem wakeWith_canonical {g n status : Nat} {clock : DieClock} (h : d.canonical) : (wakeWith d g n status clock).canonical := canonical_of_mem (wakeWith_mem d g n status clock) h
theorem wakeGroup_canonical {g n status : Nat} (h : d.canonical) : (wakeGroup d g n status).canonical := wakeWith_canonical h
theorem tagClock_canonical {c : DieClock} {a : Nat} (h : d.canonical) : (tagClock d c a).canonical := h
theorem writeLineAt_canonical {carried : DieClock} {a : Nat} {bytes : List Byte} (h : d.canonical) : (writeLineAt P carried d a bytes).1.canonical := writeLineAt_wf P carried d a bytes h
theorem writePhys_canonical {src n n2 : Nat} {bs : List Byte} (h : d.canonical) : (writePhys P src n d n2 bs).1.canonical := writePhys_wf P src n d n2 bs h
theorem engineWrite_canonical {src a : Nat} {bytes : List Byte} (h : d.canonical) : (engineWrite P src d a bytes).canonical := engineWrite_wf P src d a bytes h
theorem l2Line_canonical {k a : Nat} {d1 : Device} {v : List Byte} (h : d.canonical) (he : l2Line P d k a = some (v, d1)) : d1.canonical := canonical_of_mem (l2Line_mem P d d1 k a v he) h
theorem writeSlot_canonical {r j : Nat} {s : Slot} (h : d.canonical) : (writeSlot P d r j s).canonical := engineWrite_canonical h
theorem chargeLate_canonical {r j : Nat} (h : d.canonical) : (chargeLate P d r j).canonical := writeSlot_canonical h
theorem parkWrite_canonical {job page die : Nat} {p : Parked} (h : d.canonical) : (parkWrite d job page die p).canonical := canonical_of_mem (parkWrite_mem d job page die p) h
theorem parkRaw_canonical {job : Nat} {l : Leaf} {die off : Nat} {bytes : List Byte} (h : d.canonical) : (parkRaw d job l die off bytes).canonical := parkWrite_canonical h
theorem jobWrite_canonical {job die : Nat} {va : DWord} {bytes : List Byte} {d1 : Device} (h : d.canonical) (he : jobWrite P d job die va bytes = some d1) : d1.canonical :=
  jobWrite_wf P d d1 job die va bytes h he
theorem hideCode_canonical {a n : Nat} (h : d.canonical) : (hideCode d a n).canonical := h
theorem jobWriteDrop_canonical {job die : Nat} {va : DWord} {bytes : List Byte} (h : d.canonical) : (jobWriteDrop P d job die va bytes).canonical :=
  canonical_getD (fun _ he => jobWrite_canonical h he) h
theorem monNote_canonical {source v : Nat} (h : d.canonical) : (Device.monNote P source v d).canonical := canonical_ite h h
theorem noticeAll_canonical {s : Signature} (h : d.canonical) : (noticeAll d s).canonical := by
  simp only [noticeAll]
  exact h

/-! Groups as their core holds them (R46, R74, R127). -/

theorem setDrawer_canonical {c i : Nat} {x : Drawer} (h : d.canonical) : (Device.setDrawer d c i x).canonical := modCore_canonical h
theorem freeDrawer_canonical {c i : Nat} (h : d.canonical) : (Device.freeDrawer d c i).canonical := setDrawer_canonical h
theorem takeChunk_canonical {gid e : Nat} (h : d.canonical) : (takeChunk d gid e).canonical := by
  simp only [takeChunk]
  split
  · exact h
  · split
    · exact h
    · exact modGroup_canonical (modCore_canonical h)
theorem takeChunks_canonical {gid n : Nat} (h : d.canonical) : (takeChunks d gid n).canonical := by
  induction n generalizing d with
  | zero => exact h
  | succ n ih =>
    simp only [takeChunks]
    split
    · exact h
    · exact ih (modGroup_canonical (takeChunk_canonical h))
theorem giveChunk_canonical {gid e : Nat} (h : d.canonical) : (giveChunk d gid e).canonical := by
  simp only [giveChunk]
  split
  · exact h
  · exact modCore_canonical h
theorem giveChunks_canonical {gid n : Nat} (h : d.canonical) : (giveChunks d gid n).canonical := by
  induction n generalizing d with
  | zero => exact h
  | succ n ih =>
    simp only [giveChunks]
    split
    · exact h
    · exact canonical_ite h (ih (modGroup_canonical (giveChunk_canonical h)))
theorem grantChunks_canonical {core n : Nat} (h : d.canonical) : (grantChunks core n d).canonical := by
  induction n generalizing d with
  | zero => exact h
  | succ n ih =>
    simp only [grantChunks]
    split
    · exact h
    · split
      · exact ih (modCore_canonical h)
      · exact canonical_ite h (canonical_ite (ih (wakeGroup_canonical (modGroup_canonical (modCore_canonical h)))) (ih (wakeGroup_canonical (takeChunks_canonical (modCore_canonical h)))))
theorem swapMap_canonical {core slot p q : Nat} (h : d.canonical) : (swapMap d core slot p q).canonical := modCore_canonical h
theorem startGroup_canonical {x : GroupSeed} (h : d.canonical) : (startGroup d x).canonical := setDrawer_canonical h
theorem beginWait_canonical {gid : Nat} {w : WaitFor} {kind : Nat} {count : Word} {deadline : Nat} {object entry : DWord} (h : d.canonical) : (beginWait d gid w kind count deadline object entry).canonical := by
  simp only [beginWait]
  split
  · exact h
  · exact setDrawer_canonical (modGroup_canonical h)
theorem setDrawerOf_canonical {g : Machine.Group} {x : Drawer} (h : d.canonical) : (setDrawerOf d g x).canonical := by
  simp only [setDrawerOf]
  split
  · exact modGroup_canonical h
  · exact setDrawer_canonical h
theorem dropWait_canonical {gid : Nat} (h : d.canonical) : (dropWait d gid).canonical := by
  simp only [dropWait]
  split
  · exact h
  · exact setDrawerOf_canonical (modGroup_canonical h)
theorem bumpDrawer_canonical {g : Machine.Group} (h : d.canonical) : (bumpDrawer d g).canonical := modGroup_canonical (setDrawerOf_canonical h)
theorem removeWatches_canonical {gid : Nat} (h : d.canonical) : (removeWatches d gid).canonical := h
theorem removeWaiter_canonical {gid : Nat} (h : d.canonical) : (removeWaiter d gid).canonical := h
theorem removeChunkReq_canonical {gid : Nat} (h : d.canonical) : (removeChunkReq d gid).canonical := h
theorem removeMisses_canonical {gid : Nat} (h : d.canonical) : (removeMisses d gid).canonical := h
theorem removeVerLoads_canonical {gid : Nat} (h : d.canonical) : (removeVerLoads d gid).canonical := h
theorem leaveWait_canonical {gid : Nat} (h : d.canonical) : (leaveWait d gid).canonical := removeMisses_canonical (removeChunkReq_canonical (removeWatches_canonical (dropWait_canonical h)))
theorem abandonWait_canonical {gid : Nat} (h : d.canonical) : (abandonWait d gid).canonical := removeWaiter_canonical (leaveWait_canonical h)
theorem releaseLock_canonical {die line : Nat} {poisoned : Bool} (h : d.canonical) : (releaseLock P d die line poisoned).canonical := modSlice_canonical h
theorem poisonLocks_canonical {gid : Nat} (h : d.canonical) : (poisonLocks P d gid).canonical := by
  simp only [poisonLocks]
  split
  · exact h
  · exact modGroup_canonical (canonical_foldl (fun _ _ h => releaseLock_canonical h) h)
theorem exitName_canonical {g : Machine.Group} (h : d.canonical) : (exitName d g).canonical := canonical_ite h h
theorem freeTiles_canonical {gid core : Nat} (h : d.canonical) : (freeTiles d gid core).canonical := modCore_canonical h
theorem freePosts_canonical {es : List Effect} (h : d.canonical) : (freePosts d es).canonical := by
  simp only [freePosts]
  refine canonical_foldl ?_ h
  intro d x h
  split
  · exact modCore_canonical (freeDrawer_canonical h)
  · exact h
theorem discardEffects_canonical {gid : Nat} (h : d.canonical) : (discardEffects d gid).canonical := by
  simp only [discardEffects]
  split
  · exact h
  · exact modGroup_canonical (freePosts_canonical h)
theorem clearMatches_canonical {core job : Nat} (h : d.canonical) : (clearMatches d core job).canonical := canonical_ite h (modCore_canonical h)
theorem depositRegs_canonical {gid : Nat} (h : d.canonical) : (depositRegs d gid).canonical := by
  simp only [depositRegs]
  split
  · exact h
  · exact freeTiles_canonical (modCore_canonical (canonical_foldl (fun _ _ h => giveChunk_canonical h) h))
theorem retryStalls_canonical {w : Stall} {gid : Nat} (h : d.canonical) : (retryStalls w d gid).canonical := modGroup_canonical h
theorem freeEntry_canonical {core : Nat} (h : d.canonical) : (freeEntry d core).canonical := canonical_foldl (fun _ _ h => retryStalls_canonical h) h
theorem freeEntries_canonical {core : Nat} {os : List Op} (h : d.canonical) : (freeEntries d core os).canonical := canonical_ite (freeEntry_canonical h) h
theorem freeGroup_canonical {gid : Nat} (h : d.canonical) : (freeGroup P d gid).canonical := by
  simp only [freeGroup]
  split
  · exact h
  · exact grantChunks_canonical (freeEntries_canonical (clearMatches_canonical (canonical_ite (discardEffects_canonical (exitName_canonical (poisonLocks_canonical (removeVerLoads_canonical (abandonWait_canonical h))))) (freeDrawer_canonical (depositRegs_canonical (discardEffects_canonical (exitName_canonical (poisonLocks_canonical (removeVerLoads_canonical (abandonWait_canonical h))))))))))
theorem haltAt_canonical {fatal : Bool} {gid : Nat} (h : d.canonical) : (haltAt fatal d gid).canonical := by
  simp only [haltAt]
  split
  · exact h
  · exact canonical_ite h (modGroup_canonical (freeEntries_canonical (freeTiles_canonical (freePosts_canonical (canonical_ite (leaveWait_canonical h) (abandonWait_canonical h))))))
theorem haltGroup_canonical {gid : Nat} (h : d.canonical) : (haltGroup d gid).canonical := haltAt_canonical h

/-! Jobs, phases, graphs, launches, and the records written for them (R343, R365, R375). -/

theorem commandWrite_canonical {job : Nat} {va : DWord} {bytes : List Byte} (h : d.canonical) : (commandWrite P d job va bytes).canonical := by
  simp only [commandWrite]
  split
  · refine noticeAll_canonical ?_
    split
    · exact tagClock_canonical (jobWrite_canonical (fromCommand_canonical h) ‹_›)
    · exact jobWrite_canonical (fromCommand_canonical h) ‹_›
  · exact fromCommand_canonical h
theorem completionMessage_canonical {job level : Nat} {done : DWord} {rec : List Byte} (h : d.canonical) : (completionMessage P d job level done rec).canonical := h
theorem checkJob_canonical {j : Nat} (h : d.canonical) : (checkJob P d j).canonical := by
  simp only [checkJob]
  split
  · exact h
  · exact canonical_ite (completionMessage_canonical (commandWrite_canonical (modJob_canonical h))) h
theorem checkPhase_canonical {p : Nat} (h : d.canonical) : (checkPhase P d p).canonical := by
  simp only [checkPhase]
  split
  · exact h
  · exact canonical_ite (checkJob_canonical (canonical_ite (modJob_canonical (completionMessage_canonical (commandWrite_canonical h))) (completionMessage_canonical (commandWrite_canonical h)))) h
theorem checkGraph_canonical {g : Nat} (h : d.canonical) : (checkGraph P d g).canonical := by
  simp only [checkGraph]
  split
  · exact h
  · exact canonical_ite (checkPhase_canonical (commandWrite_canonical h)) h
theorem queueTeams_canonical {l : Launch} {step : Word} {n n2 : Nat} (h : d.canonical) : (queueTeams l step n n2 d).canonical := by
  induction n generalizing n2 d with
  | zero => exact h
  | succ n ih => exact ih (modJob_canonical h)
theorem startLaunch_canonical {gid node : Nat} (h : d.canonical) : (startLaunch P d gid node).canonical := by
  simp only [startLaunch]
  split
  · exact h
  · exact canonical_ite (queueTeams_canonical h) (canonical_ite h (commandWrite_canonical h))
theorem startNode_canonical {gid node : Nat} (h : d.canonical) : (startNode P gid d node).canonical := by
  simp only [startNode]
  split
  · exact h
  · exact canonical_ite h (canonical_ite (startLaunch_canonical h) h)
theorem fireNode_canonical {gid e : Nat} (h : d.canonical) : (fireNode P gid d e).canonical := by
  simp only [fireNode]
  refine canonical_ite h (canonical_ite (startNode_canonical h) ?_)
  split
  · exact h
  · exact canonical_ite (startNode_canonical h) h
theorem beginGraph_canonical {gid : Nat} (h : d.canonical) : (beginGraph P d gid).canonical := by
  simp only [beginGraph]
  split
  · exact h
  · exact checkGraph_canonical (canonical_foldl (fun _ _ h => startNode_canonical h) h)
theorem submitGraph_canonical {job phase : Nat} {record done : DWord} {nodes : List Node} (h : d.canonical) : (submitGraph P d job phase record done nodes).canonical := by
  simp only [submitGraph]
  split
  · exact canonical_ite (beginGraph_canonical h) (checkGraph_canonical h)
  · exact h
theorem checkLaunch_canonical {lid : Nat} (h : d.canonical) : (checkLaunch P d lid).canonical := by
  simp only [checkLaunch]
  split
  · exact h
  · refine canonical_ite h ?_
    split
    · exact commandWrite_canonical h
    · exact checkGraph_canonical (canonical_ite (canonical_foldl (fun _ _ h => fireNode_canonical h) (commandWrite_canonical h)) (commandWrite_canonical h))
theorem markOrphan_canonical {l : Launch} (h : d.canonical) : (markOrphan d l).canonical := by
  simp only [markOrphan]
  refine modJob_canonical ?_
  split <;> split <;> exact h
theorem freeTeamUnits_canonical {t : Team} (h : d.canonical) : (freeTeamUnits d t).canonical := canonical_foldl (fun _ _ h => freeDrawer_canonical h) h
theorem completeTeam_canonical {tid : Nat} {how : TeamEnd} (h : d.canonical) : (completeTeam P d tid how).canonical := by
  simp only [completeTeam]
  split
  · exact h
  · split
    · exact checkJob_canonical (modJob_canonical (canonical_foldl (fun _ _ h => freeGroup_canonical h) (freeTeamUnits_canonical h)))
    · refine checkJob_canonical (checkLaunch_canonical ?_)
      split <;> exact canonical_ite (markOrphan_canonical (modJob_canonical (canonical_foldl (fun _ _ h => freeGroup_canonical h) (freeTeamUnits_canonical h)))) (modJob_canonical (canonical_foldl (fun _ _ h => freeGroup_canonical h) (freeTeamUnits_canonical h)))
theorem cancelTeam_canonical {tid : Nat} (h : d.canonical) : (cancelTeam P d tid).canonical := by
  simp only [cancelTeam]
  split
  · exact h
  · split
    · exact completeTeam_canonical h
    · exact completeTeam_canonical h
    · exact modTeam_canonical h
    · exact h
    · exact h
    · exact canonical_foldl (fun _ _ h => discardEffects_canonical (haltGroup_canonical h)) h
    · exact canonical_foldl (fun _ _ h => discardEffects_canonical (haltGroup_canonical h)) h
    · exact canonical_foldl (fun _ _ h => discardEffects_canonical (haltGroup_canonical h)) h
    · exact canonical_foldl (fun _ _ h => discardEffects_canonical (haltGroup_canonical h)) h
theorem cancelLaunch_canonical {esc : Bool} {lid : Nat} (h : d.canonical) : (cancelLaunch P esc d lid).canonical := by
  simp only [cancelLaunch]
  split
  · exact h
  · exact canonical_ite h (checkLaunch_canonical (canonical_foldl (fun _ _ h => cancelTeam_canonical h) h))
theorem cancelGraph_canonical {esc : Bool} {gid : Nat} (h : d.canonical) : (cancelGraph P esc d gid).canonical := by
  simp only [cancelGraph]
  split
  · exact h
  · exact canonical_ite h (checkGraph_canonical (canonical_foldl (fun _ _ h => cancelLaunch_canonical h) h))
theorem cancelPhase_canonical {esc : Bool} {p : Nat} (h : d.canonical) : (cancelPhase P esc d p).canonical := by
  simp only [cancelPhase]
  split
  · exact h
  · exact canonical_ite h (checkPhase_canonical (canonical_foldl (fun _ _ h => cancelGraph_canonical h) h))
theorem cancelJob_canonical {esc : Bool} {j : Nat} (h : d.canonical) : (cancelJob P esc d j).canonical := by
  simp only [cancelJob]
  split
  · exact h
  · exact canonical_ite h (checkJob_canonical (canonical_foldl (fun _ _ h => cancelTeam_canonical h) (canonical_foldl (fun _ _ h => cancelPhase_canonical h) (modJob_canonical h))))
theorem closeSweep_canonical (h : d.canonical) : (closeSweep d).canonical :=
  canonical_foldl (fun _ _ h => canonical_ite (discardEffects_canonical (haltGroup_canonical h)) (canonical_ite (haltGroup_canonical h) h)) h

/-! Messages to peers (R391, R393). -/

theorem emit_canonical {m : Posted} (h : d.canonical) : (Device.emit P m d).canonical := h

/-! The parts of issue and of completion (R51, R107, R128, R237). -/

theorem acquire_canonical {gid : Nat} (h : d.canonical) : (acquire d gid).canonical := by
  simp only [acquire]
  split
  · exact h
  · exact modCore_canonical (modGroup_canonical h)
theorem acquireFence_canonical {gid : Nat} (h : d.canonical) : (acquireFence d gid).canonical := by
  simp only [acquireFence]
  split
  · exact h
  · exact acquire_canonical (mergeClock_canonical h)
theorem setStatus_canonical {job off v : Nat} (h : d.canonical) : (setStatus P d job off v).canonical := by
  simp only [setStatus]
  split
  · exact commandWrite_canonical h
  · exact h
theorem bumpStatus_canonical {job off : Nat} (h : d.canonical) : (bumpStatus P d job off).canonical := setStatus_canonical h
theorem countStale_canonical {job : Nat} (h : d.canonical) : (countStale P d job).canonical := bumpStatus_canonical h
theorem countFatal_canonical {job : Nat} (h : d.canonical) : (countFatal P d job).canonical := bumpStatus_canonical h
theorem writeTrap_canonical {job : Nat} {rec_ : Nat → List Byte} {r : Device × Nat} (h : d.canonical) (he : writeTrap P d job rec_ = some r) : r.1.canonical := by
  simp only [writeTrap] at he
  split at he
  · cases he
  · obtain ⟨e, hw, rfl⟩ := Option.map_eq_some_iff.1 he
    exact setStatus_canonical (noticeAll_canonical (jobWrite_canonical h hw))
theorem queueDump_canonical {t : Team} (h : d.canonical) : (queueDump d t).canonical := modJob_canonical h
theorem noteFatal_canonical {g : Machine.Group} {site : Site} {e : Exc} {rec_ : Option Nat} {locks : List (Nat × Nat × Nat)} {alone : Bool} (h : d.canonical) : (noteFatal P d g site e rec_ locks alone).canonical := by
  simp only [noteFatal]
  split
  · exact h
  · split
    · exact modTeam_canonical (modTeam_canonical (queueDump_canonical h))
    · exact modTeam_canonical (queueDump_canonical h)
theorem takeFatalAs_canonical {alone : Bool} {gid : Nat} {site : Site} {idx : Nat} {e : Exc} (h : d.canonical) : (takeFatalAs alone P d gid site idx e).canonical := by
  simp only [takeFatalAs]
  split
  · exact h
  · next g _ =>
    have counted : (countFatal P (haltAt true d gid) g.job).canonical := countFatal_canonical (haltAt_canonical h)
    refine canonical_ite (cancelJob_canonical (noteFatal_canonical ?_)) (noteFatal_canonical ?_)
    all_goals
      split
      · exact writeTrap_canonical counted (Option.ite_none_left_eq_some.1 ‹_›).2
      · exact counted
theorem takeFatal_canonical {gid : Nat} {site : Site} {idx : Nat} {e : Exc} (h : d.canonical) : (takeFatal P d gid site idx e).canonical := takeFatalAs_canonical h
theorem startHandler_canonical {job : Job} {k : Nat} {step : Word} (h : d.canonical) : (startHandler d job k step).canonical := canonical_ite h (modJob_canonical h)
theorem takeTrap_canonical {gid : Nat} {site : Site} {idx : Nat} {e : Exc} {check : Bool} {ring : Option RingTrap} (h : d.canonical) : (takeTrap P d gid site idx e check ring).canonical := by
  simp only [takeTrap]
  split
  · refine canonical_ite (takeFatal_canonical h) ?_
    split
    · exact takeFatalAs_canonical h
    · exact startHandler_canonical (modGroup_canonical (beginWait_canonical (writeTrap_canonical h ‹_›)))
  · exact h
theorem takeException_canonical {gid : Nat} {site : Site} {e : Exc} (h : d.canonical) : (takeException P d gid site e).canonical :=
  canonical_ite h (canonical_ite (takeTrap_canonical h) (takeFatal_canonical h))
theorem takeCheck_canonical {gid : Nat} {site : Site} {idx : Nat} {e : Exc} (h : d.canonical) : (takeCheck P d gid site idx e).canonical := canonical_ite (takeTrap_canonical h) (takeFatal_canonical h)
theorem dropLeaf_canonical {job va : Nat} (h : d.canonical) : (dropLeaf d job va).canonical := h
theorem sendMiss_canonical {g : Machine.Group} {site : Site} {idx : Nat} {lane : Option Nat} {va : DWord} {acc : Access} (h : d.canonical) : (sendMiss d g site idx lane va acc).canonical :=
  canonical_ite h (modCore_canonical h)
theorem landResult_canonical {gid k : Nat} {w : RegWrites} {tr : Bool} {rs : Nat} {close : Bool} (h : d.canonical) : (landResult d gid k w tr rs close).canonical := by
  simp only [landResult]
  split
  · exact h
  · exact modGroup_canonical h
theorem reopen_canonical {gid k : Nat} (h : d.canonical) : (reopen d gid k).canonical := by
  simp only [reopen]
  split
  · exact h
  · exact modGroup_canonical h
theorem writeTiles_canonical {core job : Nat} {ws : List (Nat × Nat × Word)} (h : d.canonical) : (writeTiles d core job ws).canonical := canonical_ite h (modCore_canonical h)
theorem unblock_canonical {gid : Nat} (h : d.canonical) : (unblock d gid).canonical := retryStalls_canonical h
theorem dropOp_canonical {gid : Nat} {o : Op} (h : d.canonical) : (dropOp d gid o).canonical := unblock_canonical (freeEntries_canonical (modGroup_canonical h))
theorem finishOp_canonical {gid id : Nat} (h : d.canonical) : (finishOp d gid id).canonical := canonical_of_mem (finishOp_mem d gid _) h
theorem barrierCheck_canonical {tid : Nat} (h : d.canonical) : (barrierCheck d tid).canonical := by
  simp only [barrierCheck]
  split
  · exact h
  · exact canonical_ite (canonical_foldl (fun _ _ h => wakeWith_canonical h) (setDrawer_canonical h)) h
theorem leaveBarrier_canonical {tid : Nat} (h : d.canonical) : (leaveBarrier d tid).canonical := by
  simp only [leaveBarrier]
  split
  · exact h
  · exact barrierCheck_canonical (setDrawer_canonical h)
theorem arrive_canonical {gid k n : Nat} {waits : Bool} (h : d.canonical) : (arrive d gid k n waits).canonical := by
  simp only [arrive]
  split
  · exact h
  · split
    · exact h
    · exact barrierCheck_canonical (canonical_ite (modGroup_canonical (beginWait_canonical (setDrawer_canonical (modTeam_canonical h)))) (setDrawer_canonical (modTeam_canonical h)))
theorem sendAtomic_canonical {from_ : Nat} {r : AgReq} (h : d.canonical) : (sendAtomic P from_ d r).canonical := by
  simp only [sendAtomic]
  split
  · exact parkWrite_canonical h
  · exact modCluster_canonical h
theorem sendDecrement_canonical {x : Decrement} (h : d.canonical) : (sendDecrement d x).canonical := modCore_canonical h
theorem readyTask_canonical {core idx : Nat} (h : d.canonical) : (readyTask d core idx).canonical := modCore_canonical h
theorem livePost_canonical {core idx : Nat} (h : d.canonical) : (livePost d core idx).canonical :=
  canonical_ite (readyTask_canonical (modCore_canonical (setDrawer_canonical h))) (modCore_canonical (setDrawer_canonical h))
theorem completeRequest_canonical {peer : Nat} {r : OutReq} {as : List LaneAnswer} (h : d.canonical) : (completeRequest d peer r as).canonical := by
  simp only [completeRequest]
  split
  · exact modGroup_canonical h
  · exact modGroup_canonical h
  · split
    · exact h
    · split
      · exact finishOp_canonical (modGroup_canonical h)
      · exact h
theorem completeRst_canonical {peer : Nat} {r : OutReq} {cause : Nat} (h : d.canonical) : (completeRst d peer r cause).canonical := by
  simp only [completeRst]
  split
  · exact modGroup_canonical h
  · exact h
theorem failRequest_canonical {peer cause : Nat} {r : OutReq} (h : d.canonical) : (failRequest d peer cause r).canonical := by
  simp only [failRequest]
  split
  · exact completeRst_canonical h
  · exact completeRequest_canonical h
theorem takeCredit_canonical {peer cls : Nat} (h : d.canonical) : (takeCredit d peer cls).canonical := canonical_ite h (modPeer_canonical (free_canonical h))
theorem postTo_canonical {peer cls : Nat} {m : Posted} (h : d.canonical) : (postTo P d peer cls m).canonical :=
  canonical_ite h (canonical_ite (modPeer_canonical h) (takeCredit_canonical (emit_canonical h)))
theorem pumpPeer_canonical {peer n : Nat} (h : d.canonical) : (pumpPeer P peer n d).canonical := by
  induction n generalizing d with
  | zero => exact h
  | succ n ih =>
    simp only [pumpPeer]
    refine canonical_ite ?_ h
    split
    · exact h
    · exact ih (takeCredit_canonical (modPeer_canonical (canonical_foldl (fun _ _ h => emit_canonical h) h)))
theorem sendRequest_canonical {peer : Nat} {r : OutReq} (h : d.canonical) : (sendRequest P d peer r).canonical := canonical_ite (modPeer_canonical h) (modPeer_canonical h)
theorem settlePeer_canonical {peer : Nat} (h : d.canonical) : (settlePeer P d peer).canonical :=
  canonical_ite h (canonical_ite (canonical_foldl (fun _ _ h => failRequest_canonical h) (modPeer_canonical h)) (pumpPeer_canonical (canonical_foldl (fun _ _ h => failRequest_canonical h) (canonical_ite h (modPeer_canonical h)))))
theorem settlePeers_canonical (h : d.canonical) : (settlePeers P d).canonical := canonical_foldl (fun _ _ h => settlePeer_canonical h) h
theorem isolatePeer_canonical {peer : Nat} (h : d.canonical) : (isolatePeer d peer).canonical := canonical_foldl (fun _ _ h => failRequest_canonical h) (modPeer_canonical h)
theorem dropLines_canonical {core : Nat} {lines : List Nat} (h : d.canonical) : (dropLines d core lines).canonical := modCore_canonical h
theorem noteBlocks_canonical {gid : Nat} {vas : List DWord} (h : d.canonical) : (noteBlocks d gid vas).canonical := modGroup_canonical h
theorem dispatch_canonical {gid : Nat} {e : Effect} (h : d.canonical) : (dispatch P d gid e).canonical := by
  simp only [dispatch]
  split
  · exact h
  · split
    · exact modGroup_canonical (canonical_foldl (fun _ _ h => sendAtomic_canonical h) (dropLines_canonical (noteBlocks_canonical h)))
    · exact modGroup_canonical (modGroup_canonical (noteBlocks_canonical h))
    · exact modGroup_canonical (noteBlocks_canonical h)
    · exact canonical_foldl (fun _ _ h => modGroup_canonical h) (noteBlocks_canonical h)
    · exact modGroup_canonical (noteBlocks_canonical h)
    · exact modGroup_canonical (sendRequest_canonical h)
    · exact canonical_ite (modGroup_canonical h) (modGroup_canonical (sendRequest_canonical h))
    · exact noteBlocks_canonical h
    · exact modGroup_canonical h
theorem modHome_canonical {r : Nat} {f : Home → Home} (h : d.canonical) : (Device.modHome d r f).canonical := h
theorem submitLaunch_canonical {g : Machine.Group} {record : DWord} (h : d.canonical) : (submitLaunch P d g record).2.canonical := by
  simp only [submitLaunch]
  split
  · split
    · exact h
    · exact submitGraph_canonical (toCommand_canonical h)
  · exact h
theorem performRelease_canonical {gid : Nat} {a : RelAct} (h : d.canonical) : (performRelease P d gid a).canonical := by
  simp only [performRelease]
  split
  · exact finishOp_canonical (canonical_ite (acquireFence_canonical h) h)
  · exact modGroup_canonical (releaseLock_canonical h)
  · exact livePost_canonical (mergeClock_canonical h)
  · split
    · exact modGroup_canonical (sendDecrement_canonical h)
    · exact h
  · split
    · exact modGroup_canonical (modHome_canonical h)
    · exact h
  · exact canonical_ite (arrive_canonical (modGroup_canonical h)) (finishOp_canonical (arrive_canonical h))
  · split
    · exact finishOp_canonical (modGroup_canonical (submitLaunch_canonical h))
    · exact h
theorem pump_canonical {gid n : Nat} (h : d.canonical) : (pump P gid n d).canonical := by
  induction n generalizing d with
  | zero => exact h
  | succ n ih =>
    simp only [pump]
    split
    · exact h
    · split
      · exact canonical_ite (canonical_ite (ih (modGroup_canonical h)) h) (canonical_ite (ih (performRelease_canonical (modGroup_canonical h))) h)
      · split
        · exact h
        · split
          · exact h
          · exact canonical_ite (ih (dispatch_canonical (modGroup_canonical h))) h
          · exact ih (dispatch_canonical (modGroup_canonical h))
theorem pumpAll_canonical (h : d.canonical) : (pumpAll P d).canonical := canonical_foldl (fun _ _ h => pump_canonical h) h
theorem sendOwn_canonical {job : Nat} (h : d.canonical) : (sendOwn P d job).canonical := by
  simp only [sendOwn]
  split
  · exact h
  · exact modJob_canonical (canonical_foldl (fun _ _ h => postTo_canonical h) h)
theorem sbEvaluate_canonical {job : Nat} (h : d.canonical) : (sbEvaluate P d job).canonical := by
  simp only [sbEvaluate]
  split
  · exact modJob_canonical h
  · exact canonical_foldl (fun _ _ h => wakeGroup_canonical h) (modJob_canonical h)
theorem advanceStep_canonical {gid : Nat} (h : d.canonical) : (advanceStep P d gid).canonical := by
  simp only [advanceStep]
  split
  · exact h
  · split
    · exact canonical_ite (sbEvaluate_canonical (sendOwn_canonical (modJob_canonical (modGroup_canonical h)))) (modGroup_canonical h)
    · exact modGroup_canonical h
theorem completeWait_canonical {gid : Nat} {w : RegWrites} {isClosing : Bool} (h : d.canonical) : (completeWait d gid w isClosing).canonical := by
  simp only [completeWait]
  split
  · exact h
  · exact canonical_ite (reopen_canonical (landResult_canonical (modGroup_canonical (dropWait_canonical h)))) (landResult_canonical (modGroup_canonical (dropWait_canonical h)))
theorem fillLine_canonical {core line : Nat} {va : DWord} {bytes : List Byte} {stream : Bool} (h : d.canonical) : (fillLine d core line va bytes stream).canonical := h
theorem installLine_canonical {g : Machine.Group} {line : Nat} {va : DWord} {bytes : List Byte} (h : d.canonical) : (installLine d g line va bytes).canonical := fillLine_canonical h
theorem finishWait_canonical {gid status : Nat} {timeout : Bool} (h : d.canonical) : (finishWait P d gid status timeout).canonical := by
  simp only [finishWait]
  split
  · exact h
  · split
    · exact h
    · split
      · exact completeWait_canonical (acquire_canonical h)
      · refine completeWait_canonical ?_
        split
        · exact installLine_canonical (canonical_ite (modGroup_canonical (acquire_canonical h)) h)
        · exact canonical_ite (modGroup_canonical (acquire_canonical h)) h
      · exact completeWait_canonical (acquire_canonical h)
      · exact dropWait_canonical h
      · exact completeWait_canonical h
      · split
        · exact dropWait_canonical h
        · refine canonical_ite (takeTrap_canonical (dropOp_canonical (dropWait_canonical h))) ?_
          split
          · exact modHome_canonical (dropWait_canonical h)
          · exact dropWait_canonical h
      · exact completeWait_canonical (canonical_ite (removeWatches_canonical h) (acquire_canonical h))
      · exact completeWait_canonical (canonical_ite h (advanceStep_canonical h))
      · exact h
      · exact dropWait_canonical h
theorem refresh_canonical {c : Ctx} (h : d.canonical) : (c.refresh d).d.canonical := h
theorem markStall_canonical {gid k : Nat} {w : Stall} (h : d.canonical) : (markStall d gid k w).canonical := modGroup_canonical h
theorem onStop_canonical {c : Ctx} {x : Stop} {e : Device} (h : c.d.canonical) (hx : x.canonical) (he : onStop c x = some e) : e.canonical := by
  cases x <;> simp only [onStop, Option.some.injEq, reduceCtorEq] at he
  case stall => exact he ▸ markStall_canonical h
  case raise => exact he ▸ takeException_canonical h
  case report => exact he ▸ takeException_canonical hx
  case miss => exact he ▸ markStall_canonical (sendMiss_canonical h)
theorem noteIssue_canonical {i : Instr} {gid k : Nat} (h : d.canonical) : (noteIssue i d gid k).canonical := by
  simp only [noteIssue]
  split <;> exact h
theorem noteArrival_canonical {gid k : Nat} (h : d.canonical) : (noteArrival d gid k).canonical := modGroup_canonical h
theorem startOp_canonical {i : Instr} {c : Ctx} {o : Op} (h : d.canonical) : (startOp i c d o).canonical := modGroup_canonical h
theorem retire_canonical {i : Instr} {c : Ctx} {x : Done} (hx : x.canonical) : (retire i c x).canonical := by
  cases x with
  | act d => exact noteIssue_canonical (noteArrival_canonical (canonical_ite (reopen_canonical (landResult_canonical (modGroup_canonical hx))) (landResult_canonical (modGroup_canonical hx))))
  | op d => exact noteIssue_canonical (noteArrival_canonical (landResult_canonical (modGroup_canonical (startOp_canonical hx))))
  | part d => exact noteIssue_canonical (modGroup_canonical (startOp_canonical hx))
  | wait d => exact noteIssue_canonical (modGroup_canonical hx)
  | jump d => exact noteIssue_canonical (noteArrival_canonical hx)
theorem holdWait_canonical {i : Instr} {c : Ctx} {d1 : Device} (h : c.d.canonical) (he : holdWait i c = some d1) : d1.canonical := by
  obtain ⟨x, -, rfl⟩ := Option.map_eq_some_iff.1 he
  exact modGroup_canonical (beginWait_canonical h)
theorem closeHere_canonical {i : Instr} {c : Ctx} (h : c.d.canonical) : (closeHere i c).d.canonical := refresh_canonical (modGroup_canonical h)
theorem spillEffects_canonical {c : Ctx} (h : c.d.canonical) : (spillEffects c).canonical := modGroup_canonical h

/-! Values of loads, stores, versioned accesses (R206, R207, R218). -/

theorem lineFor_canonical {c : Ctx} {pol : Policy} {p : Place} {d1 : Device} {v : List Byte} {u : Bool} (h : d.canonical) (he : lineFor c pol p d = some (v, u, d1)) : d1.canonical := by
  simp only [lineFor] at he
  split at he
  · cases he
    exact h
  · split at he
    · cases he
    · cases he
      exact canonical_ite (fillLine_canonical (l2Line_canonical h ‹_›)) (l2Line_canonical h ‹_›)
theorem laneValue_canonical {c : Ctx} {pol : Policy} {n : Nat} {p : Place} {d1 : Device} {v : Nat} {u : Bool} (h : d.canonical) (he : laneValue c pol n p d = some (v, u, d1)) : d1.canonical := by
  simp only [laneValue] at he
  split at he
  · cases he
    exact h
  · split at he
    · cases he
    · cases he
      exact lineFor_canonical h ‹_›
theorem laneValues_canonical {c : Ctx} {pol : Policy} {n : Nat} {ps : List Place} {d d1 : Device} {v : List (Nat × Nat)} {u : Option Exc} (h : d.canonical) (he : laneValues c pol n ps d = some (v, u, d1)) : d1.canonical := by
  induction ps generalizing d v u with
  | nil =>
    cases he
    exact h
  | cons p t ih =>
    simp only [laneValues] at he
    split at he
    · cases he
    · split at he
      · cases he
      · cases he
        exact ih (laneValue_canonical h ‹_›) ‹_›
theorem openHome_canonical {job : Nat} {l : Leaf} {f : Home → Home} (h : d.canonical) : (Device.openHome d job l f).canonical := modHome_canonical h
theorem holdEffect_canonical {c : Ctx} {opcode : Nat} {where_ : DWord} {blocks : List DWord} {act : Act} (h : d.canonical) : (holdEffect c d opcode where_ blocks act).canonical := modGroup_canonical h

/-! Atomic requests, locks, waits (R248 to R273). -/

theorem lockReport_canonical {g : Machine.Group} {line : DWord} {kind hloc hname other : Nat} (h : d.canonical) : (lockReport P d g line kind hloc hname other).canonical := by
  simp only [lockReport]
  split
  · exact h
  · split
    · exact modJob_canonical (noticeAll_canonical (jobWrite_canonical h ‹_›))
    · exact h
theorem takeLock_canonical {gid line : Nat} {va : DWord} (h : d.canonical) : (takeLock d gid line va).canonical := modGroup_canonical h

/-! Tiles, and operands read line by line (R291, R302). -/

theorem thruPart_canonical {c : Ctx} {p : Span × Place} {d1 : Device} {v : List Byte} (h : d.canonical) (he : thruPart c d p = some (v, d1)) : d1.canonical := by
  simp only [thruPart] at he
  split at he
  · cases he
  · cases he
    exact lineFor_canonical h ‹_›
theorem thruParts_canonical {c : Ctx} {ps : List (Span × Place)} {d d1 : Device} {v : List (Nat × List Byte)} (h : d.canonical) (he : thruParts c ps d = some (v, d1)) : d1.canonical := by
  induction ps generalizing d v with
  | nil =>
    cases he
    exact h
  | cons p t ih =>
    simp only [thruParts] at he
    split at he
    · cases he
    · split at he
      · cases he
      · cases he
        exact ih (thruPart_canonical h ‹_›) ‹_›
theorem mmaShelf_canonical {f : MmaF} {c : Ctx} {m : MmaArgs} {x : MmaIn} (h : x.d.canonical) : (mmaShelf f c m x).canonical := modCore_canonical h
theorem readRange_canonical {c : Ctx} {va : DWord} {n : Nat} {v : List Byte} {u : List (Span × Place)} {d1 : Device} (h : c.d.canonical) (he : readRange c va n = .ok (v, u, d1)) : d1.canonical := by
  simp only [readRange] at he
  split at he
  · cases he
  · split at he <;> cases he
    exact thruParts_canonical h ‹_›
theorem shapeWord_canonical {g : Machine.Group} {q : ShapeRead} {d1 : Device} {v : Option (Word × Bool)} (h : d.canonical) (he : shapeWord P d g q = some (v, d1)) : d1.canonical :=
  canonical_of_mem (shapeWord_leaves he).2 h

/-! Collectives (R401 to R407). -/

theorem countDropped_canonical {job : Nat} (h : d.canonical) : (countDropped d job).canonical := modJob_canonical h
theorem countUnwritten_canonical {job : Nat} (h : d.canonical) : (countUnwritten d job).canonical := modJob_canonical h
theorem setChunk_canonical {key : Nat} {c : Chunk} (h : d.canonical) : (setChunk d key c).canonical := h
theorem writeVbase_canonical {c : Chunk} {b : Binding} {step : Nat} {data : List Word} (h : d.canonical) : (writeVbase d c b step data).canonical := by
  simp only [writeVbase]
  refine canonical_ite h ?_
  split
  · exact canonical_ite (countUnwritten_canonical h) (openHome_canonical h)
  · exact countUnwritten_canonical h
theorem sendResult_canonical {b : Binding} {m : ResultMsg} (h : d.canonical) : (sendResult P d b m).canonical := by
  refine canonical_foldl ?_ h
  intro d p h
  split
  · exact h
  · exact postTo_canonical (postTo_canonical h)
theorem closeChunk_canonical {key : Nat} {c : Chunk} {b : Binding} {timer : Bool} (h : d.canonical) : (closeChunk P d key c b timer).canonical :=
  canonical_ite (setChunk_canonical h) (sendResult_canonical (writeVbase_canonical (setChunk_canonical h)))
theorem closeDue_canonical {b : Binding} {key n : Nat} (h : d.canonical) : (closeDue P b key n d).canonical := by
  induction n generalizing d with
  | zero => exact h
  | succ n ih =>
    simp only [closeDue]
    split
    · exact h
    · split
      · exact h
      · exact ih (closeChunk_canonical h)
theorem returnCredit_canonical (h : d.canonical) : (returnCredit P d).canonical := canonical_ite h (canonical_foldl (fun _ _ h => emit_canonical h) h)
theorem evalChunk_canonical {key : Nat} {timers : Bool} (h : d.canonical) : (evalChunk P d key timers).canonical := by
  simp only [evalChunk]
  split
  · exact h
  · split
    · exact h
    · exact returnCredit_canonical (closeDue_canonical (setChunk_canonical h))
theorem evalCollective_canonical {job : Nat} {va : DWord} (h : d.canonical) : (evalCollective P d job va).canonical := canonical_foldl (fun _ _ h => evalChunk_canonical h) h
theorem countMany_canonical {job n : Nat} (h : d.canonical) : (countMany d job n).canonical := by
  induction n generalizing d with
  | zero => exact h
  | succ n ih => exact ih (countDropped_canonical h)
theorem contribute_canonical {m : Contribution} (h : d.canonical) : (contribute P m d).canonical := by
  simp only [contribute]
  refine canonical_ite h ?_
  split
  · exact countDropped_canonical h
  · exact canonical_ite (countDropped_canonical h) (canonical_ite h (canonical_ite (setChunk_canonical h) (evalChunk_canonical (countMany_canonical (setChunk_canonical h)))))
theorem sendContribution_canonical {b : Binding} {m : Contribution} (h : d.canonical) : (sendContribution P d b m).canonical := by
  simp only [sendContribution]
  exact canonical_ite h (postTo_canonical h)
theorem deliver_canonical {m : ResultMsg} (h : d.canonical) : (deliver P m d).canonical := by
  have noticed {d : Device} {s : Signature} {c : CollState} (h : d.canonical) : Device.canonical { noticeAll d s with coll := c } := by
    simp only [noticeAll]
    exact h
  simp only [deliver]
  split
  · exact h
  · split
    · exact h
    · split
      · exact h
      · split
        · exact h
        · exact noticed (jobWriteDrop_canonical (jobWriteDrop_canonical h))
theorem writeFound_canonical {job die : Nat} {x : DWord × Nat × Option Nat} {bytes : List Byte} (h : d.canonical) : (writeFound P d job die x bytes).canonical := by
  simp only [writeFound]
  split
  · exact engineWrite_canonical h
  · split
    · exact canonical_ite (parkRaw_canonical h) (engineWrite_canonical h)
    · exact h
theorem finishGet_canonical {w : CollGetWait} {sd : Nat} {data : Option (List Byte)} (h : d.canonical) : (finishGet P d w sd data).canonical := by
  simp only [finishGet]
  refine finishOp_canonical (modGroup_canonical ?_)
  split
  · exact acquire_canonical (noticeAll_canonical (canonical_foldl (fun _ _ h => writeFound_canonical h) h))
  · exact h
theorem settleGets_canonical (h : d.canonical) : (settleGets P d).canonical := by
  simp only [settleGets]
  refine canonical_foldl ?_ h
  intro d x h
  split
  · exact h
  · split
    · exact canonical_ite (finishGet_canonical h) h
    · exact h

/-! Timelines, migration and the engines behind instructions (R319, R332). -/

theorem timelineDone_canonical {die tid tl n code x : Nat} (h : d.canonical) : (timelineDone d die tid tl n code x).canonical := by
  simp only [timelineDone]
  split
  · exact h
  · exact canonical_foldl (fun _ _ h => wakeWith_canonical h) (modTeam_canonical h)
theorem tlAccept_canonical {tid tl : Nat} (h : d.canonical) : (tlAccept d tid tl).2.canonical := modTeam_canonical h
theorem collCloseNow_canonical {job : Nat} {va : DWord} {b : Binding} {n step : Nat} (h : d.canonical) : (collCloseNow P d job va b n step).canonical := by
  simp only [collCloseNow]
  refine canonical_ite h ?_
  split
  · exact h
  · split
    · exact h
    · exact canonical_ite h (evalChunk_canonical (setChunk_canonical h))
theorem claimChunk_canonical {gid core e : Nat} (h : d.canonical) : (claimChunk gid core d e).canonical := by
  simp only [claimChunk]
  split
  · exact modCore_canonical h
  · exact h
theorem departGroup_canonical {g : Machine.Group} {t : Nat} (h : d.canonical) : (departGroup d g t).canonical :=
  grantChunks_canonical (clearMatches_canonical (modCore_canonical (modGroup_canonical (setDrawer_canonical (canonical_foldl (fun _ _ h => claimChunk_canonical h) (freeDrawer_canonical (depositRegs_canonical h)))))))

/-! Control registers (R335, R366). -/

theorem ctlWrite_canonical {c : Ctx} {n : Nat} {v : DWord} (h : c.d.canonical) : (ctlWrite c n v).1.canonical := by
  simp only [ctlWrite]
  split
  · exact modGroup_canonical h
  · split
    · exact h
    · split
      · exact modCore_canonical h
      · split
        · exact modGroup_canonical h
        · split
          · exact modJob_canonical h
          · split
            · exact modJob_canonical h
            · exact h
theorem flushCode_canonical {job : Nat} (h : d.canonical) : (flushCode d job).canonical := modJob_canonical h

/-! Events of groups and splits (R46, R51, R66). -/

theorem trapAction_canonical {gid : Nat} {t : Trapped} {action : Nat} (h : d.canonical) : (trapAction P d gid t action).canonical := by
  simp only [trapAction]
  split
  · exact modGroup_canonical (canonical_foldl (fun _ _ h => modHome_canonical h) (dropWait_canonical h))
  · exact modGroup_canonical (dropWait_canonical h)
  · exact dropWait_canonical h
  · exact canonical_ite (takeFatal_canonical h) (modGroup_canonical (dropWait_canonical h))
  · exact takeFatal_canonical h
  · exact h
theorem endWait_canonical {gid : Nat} (h : d.canonical) : (endWait P d gid).canonical := by
  simp only [endWait]
  split
  · exact h
  · refine canonical_ite h ?_
    split
    · exact trapAction_canonical h
    · exact finishWait_canonical h
    · exact h
theorem decrementGroup_canonical {g : Machine.Group} {n status : Nat} (h : d.canonical) : (decrementGroup P d g n status).canonical :=
  canonical_ite (modGroup_canonical (endWait_canonical (setDrawerOf_canonical h))) (setDrawerOf_canonical h)
theorem timeoutGroup_canonical {g : Machine.Group} (h : d.canonical) : (timeoutGroup P d g).canonical := endWait_canonical (removeWatches_canonical (modGroup_canonical (setDrawerOf_canonical h)))
theorem settleForwards_canonical (h : d.canonical) : (settleForwards d).canonical := h
theorem learn_canonical {c : DieClock} (h : d.canonical) : (learn d c).canonical := h
theorem decrementHandle_canonical {core : Nat} {y : Decrement} (h : d.canonical) : (decrementHandle P d core y).canonical := by
  simp only [decrementHandle]
  split
  · split
    · exact modCore_canonical h
    · exact countStale_canonical h
  · split
    · exact canonical_ite (countStale_canonical h) (modTeam_canonical (learn_canonical h))
    · exact countStale_canonical h
  · exact canonical_ite (countStale_canonical h) (canonical_ite (modCore_canonical h) (canonical_ite (modCore_canonical h) (canonical_ite (readyTask_canonical (setDrawer_canonical h)) (setDrawer_canonical h))))
theorem decrementArrives_canonical {core : Nat} (h : d.canonical) : (decrementArrives core P d).canonical := by
  simp only [decrementArrives]
  split
  · exact h
  · split
    · refine decrementHandle_canonical ?_
      split
      · exact modGroup_canonical (mergeClock_canonical (modCore_canonical h))
      · exact mergeClock_canonical (modCore_canonical h)
    · split
      · refine countStale_canonical ?_
        split
        · exact modGroup_canonical (mergeClock_canonical (modCore_canonical h))
        · exact mergeClock_canonical (modCore_canonical h)
      · refine canonical_ite (modCore_canonical ?_) (canonical_ite (countStale_canonical ?_) (canonical_ite (countStale_canonical (timeoutGroup_canonical ?_)) (decrementGroup_canonical (canonical_ite (learn_canonical ?_) ?_))))
        · split
          · exact modGroup_canonical (mergeClock_canonical (modCore_canonical h))
          · exact mergeClock_canonical (modCore_canonical h)
        · split
          · exact modGroup_canonical (mergeClock_canonical (modCore_canonical h))
          · exact mergeClock_canonical (modCore_canonical h)
        · split
          · exact modGroup_canonical (mergeClock_canonical (modCore_canonical h))
          · exact mergeClock_canonical (modCore_canonical h)
        · split
          · exact modGroup_canonical (mergeClock_canonical (modCore_canonical h))
          · exact mergeClock_canonical (modCore_canonical h)
        · split
          · exact modGroup_canonical (mergeClock_canonical (modCore_canonical h))
          · exact mergeClock_canonical (modCore_canonical h)
theorem waitExpires_canonical {gid : Nat} (h : d.canonical) : (waitExpires gid P d).canonical := by
  simp only [waitExpires]
  split
  · exact h
  · split
    · exact h
    · exact canonical_ite (timeoutGroup_canonical h) h
theorem taskStarts_canonical {core : Nat} (h : d.canonical) : (taskStarts core P d).canonical := by
  simp only [taskStarts]
  split
  · exact acquire_canonical (modTeam_canonical (freeDrawer_canonical (startGroup_canonical (modCore_canonical h))))
  · exact h
theorem trapActs_canonical {kind : Nat} (h : d.canonical) : (trapActs kind P d).canonical := by
  simp only [trapActs]
  split
  · exact h
  · split
    · exact canonical_ite (decrementGroup_canonical (modJob_canonical h)) (countStale_canonical (modJob_canonical h))
    · exact countStale_canonical (modJob_canonical h)
theorem pendingTrap_canonical {gid : Nat} (h : d.canonical) : (pendingTrap gid P d).canonical := by
  simp only [pendingTrap]
  split
  · exact h
  · split
    · exact canonical_ite (takeTrap_canonical (modGroup_canonical h)) h
    · exact h

/-! Swaps and moves between the positions of a slot (R51, R52, R452). -/

theorem rebind_canonical {core slot p q : Nat} (h : d.canonical) : (rebind d core slot p q).canonical := modCore_canonical (swapMap_canonical h)
theorem exchange_canonical {core slot : Nat} {out into : Machine.Group} (h : d.canonical) : (exchange d core slot out into).canonical := rebind_canonical (modGroup_canonical (modGroup_canonical h))
theorem swapBlocked_canonical {core slot : Nat} (h : d.canonical) : (swapBlocked core slot P d).canonical := by
  simp only [swapBlocked]
  refine canonical_ite h ?_
  split
  · exact h
  · split
    · exact exchange_canonical (modCore_canonical h)
    · exact h
theorem pendingMoves_canonical {core slot : Nat} (h : d.canonical) : (pendingMoves core slot P d).canonical := by
  simp only [pendingMoves]
  split
  · exact canonical_ite (rebind_canonical (modGroup_canonical h)) h
  · exact h
theorem agedSwap_canonical {core slot : Nat} (h : d.canonical) : (agedSwap core slot P d).canonical := by
  simp only [agedSwap]
  split
  · exact canonical_ite (exchange_canonical h) h
  · exact h
theorem splitsMerge_canonical {gid : Nat} (h : d.canonical) : (splitsMerge gid P d).canonical := by
  simp only [splitsMerge]
  split
  · exact h
  · refine canonical_ite h ?_
    split
    · exact modGroup_canonical h
    · exact h
theorem deferralSteps_canonical {gid k : Nat} (h : d.canonical) : (deferralSteps gid k P d).canonical := by
  simp only [deferralSteps]
  split
  · exact h
  · split
    · exact canonical_ite (modGroup_canonical h) h
    · exact h
theorem failOp_canonical {gid : Nat} {o : Op} {e : Exc} (h : d.canonical) : (failOp P d gid o e).canonical :=
  takeException_canonical (unblock_canonical (modGroup_canonical (canonical_ite (freeEntry_canonical h) h)))
theorem readShape_canonical {g : Machine.Group} {o : Op} {q : ShapeRead} (h : d.canonical) : (readShape P d g o q).canonical := by
  simp only [readShape]
  split
  · exact h
  · exact failOp_canonical (shapeWord_canonical h ‹_›)
  · refine canonical_ite (failOp_canonical (shapeWord_canonical h ‹_›)) ?_
    split
    · exact modGroup_canonical (shapeWord_canonical h ‹_›)
    · exact failOp_canonical (shapeWord_canonical h ‹_›)
    · exact finishOp_canonical (modGroup_canonical (shapeWord_canonical h ‹_›))
theorem operationCompletes_canonical {gid op : Nat} (h : d.canonical) : (operationCompletes gid op P d).canonical := by
  simp only [operationCompletes]
  split
  · exact h
  · split
    · exact h
    · split
      · exact readShape_canonical h
      · split
        · exact finishOp_canonical h
        · exact failOp_canonical h
      · split
        · exact finishOp_canonical h
        · exact failOp_canonical h
      · split
        · exact finishOp_canonical h
        · exact failOp_canonical h
      · exact h
theorem groupExits_canonical {gid : Nat} (h : d.canonical) : (groupExits gid P d).canonical := by
  simp only [groupExits]
  split
  · exact h
  · refine canonical_ite h ?_
    split
    · exact canonical_ite (completeTeam_canonical (canonical_ite (freeGroup_canonical (noticeAll_canonical h)) (leaveBarrier_canonical (freeGroup_canonical (noticeAll_canonical h))))) (canonical_ite (freeGroup_canonical (noticeAll_canonical h)) (leaveBarrier_canonical (freeGroup_canonical (noticeAll_canonical h))))
    · exact canonical_ite (freeGroup_canonical (noticeAll_canonical h)) (leaveBarrier_canonical (freeGroup_canonical (noticeAll_canonical h)))
theorem migrationArrives_canonical {gid : Nat} (h : d.canonical) : (migrationArrives gid P d).canonical := by
  simp only [migrationArrives]
  split
  · exact h
  · refine canonical_ite h (modGroup_canonical ?_)
    split
    · exact finishOp_canonical h
    · exact h

/-! Stores, atomic requests and locks at their homes, collapses (R207, R222, R248, R256). -/

theorem modRelease_canonical {gid : Nat} {f : Release → Release} (h : d.canonical) : (modRelease d gid f).canonical := modGroup_canonical h
theorem noticeArrives_canonical {gid core : Nat} (h : d.canonical) : (noticeArrives gid core P d).canonical := by
  simp only [noticeArrives]
  split
  · exact h
  · split
    · exact canonical_ite (modRelease_canonical (modCore_canonical h)) h
    · exact h
theorem noticeAcked_canonical {gid core : Nat} (h : d.canonical) : (noticeAcked gid core P d).canonical := modRelease_canonical h
theorem homeWrite_canonical {die source : Nat} (h : d.canonical) : (homeWrite die source P d).canonical := by
  simp only [homeWrite]
  split
  · exact h
  · exact canonical_ite (modDie_canonical h) h
theorem storeAt_canonical {src : Nat} {tagged : Bool} {a : Nat} {bytes : List Byte} (h : d.canonical) : (storeAt P src tagged d a bytes).1.canonical :=
  writePhys_canonical (hideCode_canonical (canonical_ite (tagClock_canonical h) h))
theorem sendLane_canonical {g : Machine.Group} {op : Nat} {r : Device × List (Nat × Nat)} {l : LaneStore} (h : r.1.canonical) : (sendLane P g op r l).1.canonical := by
  have put {a : Nat} : (storeAt P (g.core / 128) g.released r.1 a l.data).1.canonical := storeAt_canonical h
  simp only [sendLane]
  split
  · exact put
  · split
    · split
      · exact parkWrite_canonical h
      · exact put
    · exact put
theorem storeSends_canonical {gid : Nat} (h : d.canonical) : (storeSends gid P d).canonical := by
  simp only [storeSends]
  split
  · exact h
  · split
    · exact h
    · have sent {g : Machine.Group} {e : StoreEntry} : (e.lanes.foldl (sendLane P g e.op) (d, [])).1.canonical :=
        List.foldlRecOn (motive := fun r : Device × List (Nat × Nat) => r.1.canonical) _ _ h fun _ hr _ _ => sendLane_canonical hr
      exact canonical_ite h (unblock_canonical (modGroup_canonical sent))
theorem storeAcks_canonical {gid op : Nat} (h : d.canonical) : (storeAcks gid op P d).canonical := by
  simp only [storeAcks]
  split
  · exact h
  · refine canonical_ite h ?_
    split
    · exact finishOp_canonical h
    · exact canonical_ite (finishOp_canonical (modGroup_canonical (dropLines_canonical h))) h
theorem returnLane_canonical {gid op lane size old : Nat} {bad : Option Exc} (h : d.canonical) : (returnLane P d gid op lane size old bad).canonical := by
  simp only [returnLane]
  split
  · exact modGroup_canonical h
  · refine canonical_ite (modGroup_canonical h) ?_
    split
    · exact finishOp_canonical (modGroup_canonical h)
    · exact failOp_canonical (modGroup_canonical h)
theorem atomicWrite_canonical {carried : DieClock} {tagged : Bool} {a : Nat} {bytes : List Byte} (h : d.canonical) : (atomicWrite P carried tagged d a bytes).canonical :=
  writeLineAt_canonical (hideCode_canonical (canonical_ite (tagClock_canonical h) h))
theorem performAtomic_canonical {carried : DieClock} {tagged : Bool} {r : AgReq} (h : d.canonical) : (performAtomic P d carried tagged r).1.canonical := by
  simp only [performAtomic]
  split
  · exact h
  · split
    · exact atomicWrite_canonical h
    · exact h
theorem admitFrom_canonical {cl sender : Nat} (h : d.canonical) : (admitFrom cl sender d).canonical := modCluster_canonical h
theorem admitSome_canonical {cl n : Nat} (h : d.canonical) : (admitSome cl n d).canonical := by
  induction n generalizing d with
  | zero => exact h
  | succ n ih =>
    simp only [admitSome]
    split
    · exact h
    · exact canonical_ite (ih (admitFrom_canonical h)) h
    · exact canonical_ite (ih (admitFrom_canonical (free_canonical h))) h
theorem admitRequests_canonical {cl : Nat} (h : d.canonical) : (admitRequests cl d).canonical := canonical_ite h (canonical_ite (admitSome_canonical h) (admitSome_canonical (free_canonical h)))
theorem groupAtomic_canonical {gid : Nat} {r : AgReq} (h : d.canonical) : (groupAtomic P d gid r).1.canonical := by
  simp only [groupAtomic]
  split
  · exact performAtomic_canonical h
  · exact dropLines_canonical (mergeClock_canonical (performAtomic_canonical h))
theorem portWrite_canonical {a : Nat} {write : Device → Device} (hw : ∀ d, d.canonical → (write d).canonical) (h : d.canonical) : (portWrite d a write).canonical :=
  hw _ (tagClock_canonical (mergeClock_canonical h))
theorem portAtomic_canonical {id lane : Nat} {r : AgReq} (h : d.canonical) : (portAtomic P d id lane r).canonical := by
  simp only [portAtomic]
  refine canonical_ite h (noticeAll_canonical (portWrite_canonical ?_ h))
  intro d h
  exact performAtomic_canonical ‹_›
theorem serveRequest_canonical {r : AgReq} (h : d.canonical) : (serveRequest P d r).canonical := by
  simp only [serveRequest]
  split
  · exact modGroup_canonical (groupAtomic_canonical h)
  · exact returnLane_canonical (groupAtomic_canonical h)
  · exact portAtomic_canonical h
  · exact h
theorem atomicServes_canonical {cl : Nat} (h : d.canonical) : (atomicServes cl P d).canonical := by
  simp only [atomicServes]
  split
  · exact admitRequests_canonical h
  · split
    · exact canonical_ite (wakeWith_canonical (modCluster_canonical (admitRequests_canonical h))) (canonical_ite (modCluster_canonical (modCluster_canonical (admitRequests_canonical h))) (admitRequests_canonical h))
    · exact serveRequest_canonical (modCluster_canonical (admitRequests_canonical h))
theorem setStage_canonical {gid : Nat} {st : LockStage} (h : d.canonical) : (setStage d gid st).canonical := modGroup_canonical h
theorem lockGranted_canonical {gid : Nat} {bytes : Option (List Byte)} (h : d.canonical) : (lockGranted P d gid bytes).canonical := setStage_canonical (monNote_canonical h)
theorem lockRequests_canonical {gid : Nat} (h : d.canonical) : (lockRequests gid P d).canonical := by
  simp only [lockRequests]
  split
  · exact canonical_ite (canonical_ite (wakeWith_canonical (lockGranted_canonical (modSlice_canonical h))) (setStage_canonical h)) (canonical_ite (setStage_canonical (modSlice_canonical h)) (setStage_canonical h))
  · exact h
theorem lockResends_canonical {gid : Nat} (h : d.canonical) : (lockResends gid P d).canonical := by
  simp only [lockResends]
  split
  · exact canonical_ite (setStage_canonical h) h
  · exact h
theorem passLock_canonical {k line : Nat} {poisoned : Bool} {n : Nat} (h : d.canonical) : (passLock P k line poisoned n d).canonical := by
  induction n generalizing d with
  | zero => exact h
  | succ n ih =>
    simp only [passLock]
    split
    · exact modSlice_canonical h
    · split
      · exact ih (modSlice_canonical h)
      · exact canonical_ite (canonical_ite (ih (wakeGroup_canonical (setStage_canonical (modSlice_canonical h)))) (ih (modSlice_canonical h))) (wakeWith_canonical (lockGranted_canonical (modSlice_canonical h)))
theorem lockReleases_canonical {k : Nat} (h : d.canonical) : (lockReleases k P d).canonical := by
  simp only [lockReleases]
  split
  · exact h
  · refine passLock_canonical (modSlice_canonical ?_)
    split
    · exact canonical_ite (modSlice_canonical h) (modGroup_canonical (modSlice_canonical h))
    · exact modSlice_canonical h
theorem lockExpires_canonical {gid : Nat} (h : d.canonical) : (lockExpires gid P d).canonical := by
  simp only [lockExpires]
  split
  · exact h
  · split
    · refine canonical_ite h ?_
      split
      · exact h
      · exact timeoutGroup_canonical (lockReport_canonical (modSlice_canonical h))
      · exact timeoutGroup_canonical (lockReport_canonical h)
      · exact timeoutGroup_canonical (lockReport_canonical h)
    · exact h
theorem rewriteLeaf_canonical {e frame : Nat} (h : d.canonical) : (rewriteLeaf P d e frame).canonical := engineWrite_canonical h
theorem replay_canonical {c : CollapseClaim} {p : Parked} (h : d.canonical) : (replay P c d p).canonical := by
  simp only [replay]
  split
  · split
    · exact modGroup_canonical (storeAt_canonical h)
    · exact engineWrite_canonical h
    · exact h
  · split
    · exact serveRequest_canonical h
    · exact h
  · split
    · exact noticeAll_canonical (engineWrite_canonical h)
    · exact h
theorem rehomeWatches_canonical {job : Nat} {l : Leaf} (h : d.canonical) : (rehomeWatches P d job l).canonical := by
  simp only [rehomeWatches]
  refine canonical_foldl ?_ h
  intro d x h
  split
  · split
    · exact sendAtomic_canonical (removeWatches_canonical h)
    · exact h
  · exact h
theorem rehomeGroups_canonical {job die page : Nat} (h : d.canonical) : (rehomeGroups d job die page).canonical := h
theorem collapseClaim_canonical {c : CollapseClaim} (h : d.canonical) : (collapseClaim P c d).canonical := by
  simp only [collapseClaim]
  refine canonical_foldl (fun _ _ h => replay_canonical h) ?_
  split
  · exact canonical_ite (rehomeGroups_canonical (rehomeWatches_canonical (dropLeaf_canonical (rewriteLeaf_canonical h)))) h
  · exact h
theorem collapseFor_canonical {die job : Nat} {va : DWord} (h : d.canonical) : (collapseFor P die d job va).canonical := by
  simp only [collapseFor]
  split
  · refine canonical_ite ?_ h
    split
    · exact collapseClaim_canonical (parkRaw_canonical h)
    · exact parkRaw_canonical h
  · exact h
theorem enginePlaces_canonical {die job : Nat} {xs : List (DWord × List Byte)} (h : d.canonical) : (enginePlaces P die d job xs).1.canonical := canonical_foldl (fun _ _ h => collapseFor_canonical h) h
theorem collapse_canonical {page : Nat} (h : d.canonical) : (collapse page P d).canonical := by
  simp only [collapse]
  split
  · exact h
  · exact collapseClaim_canonical h
  · exact collapseClaim_canonical h
  · exact collapseClaim_canonical (free_canonical h)

/-! Version homes (R224 to R228). -/

theorem openSlot_canonical {r j s : Nat} (h : d.canonical) : (openSlot P d r j s).canonical := modHome_canonical (writeSlot_canonical h)
theorem copyFrame_canonical {attr : BitVec 8} {src dst n : Nat} (h : d.canonical) : (copyFrame P attr src dst n d).canonical := by
  induction n generalizing d with
  | zero => exact h
  | succ n ih => exact canonical_foldl (fun _ _ h => canonical_ite (setPoison_canonical h) h) (engineWrite_canonical (ih h))
theorem moveHidden_canonical {attr : BitVec 8} {src dst n : Nat} (h : d.canonical) : (moveHidden d attr src dst n).canonical := h
theorem slotFills_canonical {r : Nat} (h : d.canonical) : (slotFills r P d).canonical := by
  simp only [slotFills]
  split
  · exact h
  · exact modHome_canonical (noticeAll_canonical (copyFrame_canonical (moveHidden_canonical h)))
theorem ackVersion_canonical {x : VerStore} {applied : Bool} (h : d.canonical) : (ackVersion d x applied).canonical := by
  simp only [ackVersion]
  split
  · exact canonical_ite (finishOp_canonical (modGroup_canonical h)) (modGroup_canonical h)
  · exact canonical_ite h (countUnwritten_canonical h)
  · exact h
  · exact h
theorem writeFrame_canonical {src : Nat} {code : Bool} {attr : BitVec 8} {frame n n2 : Nat} {bs : List Byte} (h : d.canonical) : (writeFrame P src code attr frame n n2 bs d).canonical := by
  induction n generalizing n2 bs d with
  | zero => exact h
  | succ n ih => exact canonical_ite h (ih (engineWrite_canonical (canonical_ite (hideCode_canonical h) h)))
theorem applyStore_canonical {r j : Nat} {x : VerStore} (h : d.canonical) : (applyStore P d r j x).canonical := by
  simp only [applyStore]
  refine ackVersion_canonical ?_
  split
  · exact noticeAll_canonical (writeFrame_canonical h)
  · exact writeFrame_canonical h
theorem ackSeal_canonical {x : VerSeal} (h : d.canonical) : (ackSeal d x).canonical := by
  simp only [ackSeal]
  split
  · exact modGroup_canonical h
  · exact h
theorem sealSlot_canonical {r j : Nat} {x : VerSeal} (h : d.canonical) : (sealSlot P d r j x).canonical := by
  have written : (writeSlot P (tagClock d x.clock r) r j { readSlot d r j with state := 2 }).canonical := writeSlot_canonical (tagClock_canonical h)
  simp only [sealSlot]
  generalize writeSlot P (tagClock d x.clock r) r j { readSlot d r j with state := 2 } = e at written
  exact canonical_foldl (fun _ _ h => wakeGroup_canonical h) (ackSeal_canonical written)
theorem sealImage_canonical {r j : Nat} {x : VerStore} (h : d.canonical) : (sealImage P d r j x).canonical := canonical_ite (canonical_ite (sealSlot_canonical h) (modHome_canonical h)) h
theorem storeRow_canonical {r : Nat} {x : VerStore} {d1 : Device} (h : d.canonical) (he : storeRow P d r x = some d1) : d1.canonical := by
  simp only [storeRow] at he
  split at he
  · cases he
    exact ackVersion_canonical h
  · split at he <;> cases he
    · exact sealImage_canonical (applyStore_canonical h)
    · exact ackVersion_canonical (chargeLate_canonical h)
    · exact modHome_canonical (openSlot_canonical h)
theorem versionStores_canonical {r : Nat} (h : d.canonical) : (versionStores r P d).canonical := by
  simp only [versionStores]
  refine canonical_ite h ?_
  split
  · refine canonical_getD (fun e he => storeRow_canonical ?_ he) h
    exact h
  · split
    · exact h
    · refine canonical_getD (fun e he => storeRow_canonical ?_ he) h
      exact h
theorem sealRow_canonical {d d1 : Device} {r : Nat} {x : VerSeal} (h : d.canonical) (he : sealRow P d r x = .done d1) : d1.canonical := by
  simp only [sealRow] at he
  split at he
  · cases he
  · split at he
    · cases he
      exact ackSeal_canonical h
    · split at he
      · split at he <;> cases he
        exact sealSlot_canonical h
      · cases he
        exact ackSeal_canonical (canonical_ite h (chargeLate_canonical h))
      · cases he
        exact modHome_canonical (openSlot_canonical h)
      · cases he
theorem versionSeals_canonical {r : Nat} (h : d.canonical) : (versionSeals r P d).canonical := by
  simp only [versionSeals]
  refine canonical_ite h ?_
  split
  · split
    · exact sealRow_canonical (modHome_canonical h) ‹_›
    · exact modHome_canonical h
  · split
    · exact h
    · split
      · exact sealRow_canonical (modHome_canonical h) ‹_›
      · exact modHome_canonical (modHome_canonical h)
theorem readLanes_canonical {gid k op : Nat} {q : VerLoad} {j : Nat} (h : d.canonical) : (readLanes d gid k op q j).canonical := modGroup_canonical (acquire_canonical (mergeClock_canonical h))
theorem versionLoads_canonical {r : Nat} (h : d.canonical) : (versionLoads r P d).canonical := by
  simp only [versionLoads]
  split
  · exact h
  · split
    · exact modHome_canonical h
    · split
      · refine canonical_ite (takeException_canonical (dropOp_canonical (modHome_canonical h))) ?_
        split
        · exact readLanes_canonical (monNote_canonical (modHome_canonical h))
        · exact canonical_ite (modGroup_canonical (beginWait_canonical (modHome_canonical h))) (canonical_ite (dropOp_canonical (modHome_canonical h)) (modHome_canonical h))
      · exact modHome_canonical h
theorem dropHeld_canonical {r : Nat} {x : VerStore} (h : d.canonical) : (dropHeld r d x).canonical := by
  simp only [dropHeld]
  split
  · split
    · exact h
    · exact ackVersion_canonical (modGroup_canonical h)
  · exact ackVersion_canonical h
theorem stalenessEnds_canonical {r : Nat} (h : d.canonical) : (stalenessEnds r P d).canonical := by
  simp only [stalenessEnds]
  refine canonical_foldl (fun _ _ h => timeoutGroup_canonical h) (canonical_foldl ?_ (canonical_foldl (fun _ _ h => dropHeld_canonical h) (modHome_canonical h)))
  intro d x h
  refine ackSeal_canonical ?_
  split
  · exact chargeLate_canonical h
  · exact h

/-! Misses and walks (R217, R366). -/

theorem parkGroup_canonical {m : Miss} (h : d.canonical) : (parkGroup d m).canonical := by
  simp only [parkGroup]
  split
  · exact h
  · exact canonical_ite (modGroup_canonical (beginWait_canonical h)) h
theorem missEnters_canonical {core : Nat} (h : d.canonical) : (missEnters core P d).canonical := by
  simp only [missEnters]
  split
  · exact h
  · split
    · exact canonical_ite (parkGroup_canonical (modSlice_canonical (modCore_canonical h))) (modSlice_canonical (modCore_canonical h))
    · exact canonical_ite (modSlice_canonical (modCore_canonical h)) h
theorem walkFound_canonical {slice : Nat} {e : MissEntry} {l : Leaf} (h : d.canonical) : (walkFound slice d e l).canonical :=
  canonical_foldl (fun _ _ h => wakeGroup_canonical h) (canonical_foldl (fun _ _ h => modCore_canonical h) (modCluster_canonical h))
theorem walkFatal_canonical {e : MissEntry} (h : d.canonical) : (walkFatal P d e).canonical := by
  simp only [walkFatal]
  refine canonical_foldl ?_ h
  intro d x h
  split
  · exact h
  · exact canonical_ite (wakeGroup_canonical h) (canonical_ite (takeFatal_canonical h) h)
theorem setMisses_canonical {slice : Nat} {es : List MissEntry} (h : d.canonical) : (setMisses d slice es).canonical := modSlice_canonical h
theorem walkEnds_canonical {slice i : Nat} {d d1 : Device} {e : MissEntry} (h : d.canonical) (he : walkEnds P slice d i e = some d1) : d1.canonical := by
  simp only [walkEnds] at he
  split at he
  · split at he
    · cases he
    · cases he
      exact walkFatal_canonical (walkFound_canonical (setMisses_canonical h))
  · cases he
    exact walkFatal_canonical (setMisses_canonical h)
  · cases he
  · cases he
    exact canonical_ite (setMisses_canonical h) (canonical_foldl (fun _ _ h => parkGroup_canonical h) (setMisses_canonical h))
theorem walkFirst_canonical {slice : Nat} {p : Device → MissEntry → Bool} {d1 : Device} (h : d.canonical) (he : walkFirst slice p P d = some d1) : d1.canonical := by
  simp only [walkFirst] at he
  split at he
  · exact walkEnds_canonical h he
  · cases he
    exact h
theorem missTimesOut_canonical {slice : Nat} (h : d.canonical) : (missTimesOut slice P d).canonical := by
  simp only [missTimesOut]
  split
  · exact walkFatal_canonical (setMisses_canonical h)
  · exact h

/-! Dumps (R376). -/

theorem writeRun_canonical {job die n : Nat} {x : DWord} {bs : List Byte} (h : d.canonical) : (writeRun P job die n x bs d).1.canonical := by
  induction n generalizing x bs d with
  | zero => exact h
  | succ n ih =>
    simp only [writeRun]
    split
    · exact h
    · split
      · exact h
      · exact ih (jobWrite_canonical h ‹_›)
theorem engineRun_canonical {job die : Nat} {va : DWord} {bytes : List Byte} (h : d.canonical) : (engineRun P job die d va bytes).1.canonical := noticeAll_canonical (writeRun_canonical h)
theorem dropCopy_canonical {o : CopyOp} (h : d.canonical) : (dropCopy d o).canonical := modTeam_canonical h
theorem endCopy_canonical {o : CopyOp} {code wrote : Nat} (h : d.canonical) : (endCopy d o code wrote).canonical :=
  timelineDone_canonical (dropCopy_canonical (canonical_ite h (noticeAll_canonical h)))
theorem endStalled_canonical {o : CopyOp} (h : d.canonical) : (endStalled d o).canonical := by
  simp only [endStalled]
  split
  · exact endCopy_canonical h
  · exact h
theorem fatalGoesOn_canonical {tid : Nat} (h : d.canonical) : (fatalGoesOn P d tid).canonical := by
  simp only [fatalGoesOn]
  split
  · exact h
  · exact canonical_ite h (canonical_ite (canonical_foldl (fun _ _ h => poisonLocks_canonical (removeWaiter_canonical h)) h) (modTeam_canonical (canonical_foldl (fun _ _ h => poisonLocks_canonical (removeWaiter_canonical h)) h)))
theorem fatalSpreads_canonical {gid : Nat} (h : d.canonical) : (fatalSpreads gid P d).canonical := by
  simp only [fatalSpreads]
  split
  · exact h
  · exact canonical_ite h (fatalGoesOn_canonical (modTeam_canonical (canonical_foldl (fun _ _ h => endStalled_canonical h) (canonical_foldl (fun _ _ h => haltAt_canonical h) h))))
theorem endDump_canonical {t : Team} {x : DumpState} (h : d.canonical) : (endDump P d t x).canonical := by
  simp only [endDump]
  refine completeTeam_canonical ?_
  split
  · exact cancelLaunch_canonical (setStatus_canonical (engineRun_canonical h))
  · exact setStatus_canonical (engineRun_canonical h)
theorem dumpNext_canonical {t : Team} {x : DumpState} (h : d.canonical) : (dumpNext P d t x).canonical := by
  simp only [dumpNext]
  split
  · exact endDump_canonical h
  · refine canonical_ite (endDump_canonical h) (canonical_ite (endDump_canonical h) (canonical_ite (endDump_canonical (engineRun_canonical h)) ?_))
    split
    · exact endDump_canonical (engineRun_canonical h)
    · split
      · exact endDump_canonical (countFatal_canonical (engineRun_canonical h))
      · exact modTeam_canonical (engineRun_canonical h)
theorem patchRecords_canonical {job offset : Nat} {ks : List Nat} (h : d.canonical) : (patchRecords P d job offset ks).canonical := by
  simp only [patchRecords]
  refine canonical_foldl ?_ h
  intro d x h
  split
  · exact noticeAll_canonical (jobWriteDrop_canonical h)
  · exact h
theorem dumpSteps_canonical {job : Nat} (h : d.canonical) : (dumpSteps job P d).canonical := by
  simp only [dumpSteps]
  split
  · exact h
  · split
    · exact h
    · refine canonical_ite (dumpNext_canonical h) ?_
      split
      · exact h
      · exact canonical_ite (completeTeam_canonical h) (canonical_ite (completeTeam_canonical h) (dumpNext_canonical (patchRecords_canonical h)))
theorem graceExpires_canonical {tid : Nat} (h : d.canonical) : (graceExpires tid P d).canonical := by
  simp only [graceExpires]
  split
  · exact h
  · split
    · exact canonical_ite (canonical_foldl (fun _ _ h => discardEffects_canonical (haltGroup_canonical h)) h) h
    · exact h
theorem cancelDiscards_canonical {tid : Nat} (h : d.canonical) : (cancelDiscards tid P d).canonical := by
  simp only [cancelDiscards]
  split
  · exact h
  · exact canonical_ite (completeTeam_canonical h) h

/-! The scheduler (R341 to R352). -/

theorem schedActs_canonical (h : d.canonical) : (schedActs d).canonical := h
theorem resetRot_canonical {S : List Nat} {but : Option Nat} (h : d.canonical) : (resetRot d S but).canonical := canonical_ite (canonical_foldl (fun _ _ h => modJob_canonical h) h) h
theorem served_canonical {j : Nat} (h : d.canonical) : (served d j).canonical := modJob_canonical h
theorem startGroups_canonical {t : Team} {cl i : Nat} (h : d.canonical) : (startGroups t cl d i).canonical := acquire_canonical (startGroup_canonical h)
theorem noteCluster_canonical {t : Team} {cl : Nat} (h : d.canonical) : (noteCluster P d t cl).canonical := canonical_ite h h
theorem placeTeam_canonical {t : Team} {cl : Nat} (h : d.canonical) : (placeTeam P d t cl).canonical :=
  modTeam_canonical (canonical_foldl (fun _ _ h => startGroups_canonical h) (modJob_canonical (modTeam_canonical (setDrawer_canonical (fromCommand_canonical (noteCluster_canonical h))))))
theorem teamPlaces_canonical (h : d.canonical) : (teamPlaces P d).canonical := by
  simp only [teamPlaces]
  split
  · split
    · exact canonical_ite (placeTeam_canonical (served_canonical (resetRot_canonical (schedActs_canonical h)))) h
    · exact h
  · exact h
theorem beginSwap_canonical {tid : Nat} (h : d.canonical) : (beginSwap d tid).canonical := by
  simp only [beginSwap]
  split
  · exact h
  · split
    · exact modTeam_canonical h
    · exact h
theorem displacementStarts_canonical (h : d.canonical) : (displacementStarts P d).canonical := by
  simp only [displacementStarts]
  split
  · exact canonical_ite h (resetRot_canonical (schedActs_canonical h))
  · exact h
theorem startSwaps_canonical {x : List Nat} (h : d.canonical) : (startSwaps x d).canonical := by
  induction x generalizing d with
  | nil => exact h
  | cons p t ih =>
    simp only [startSwaps]
    split
    · exact ih h
    · exact ih (canonical_ite (beginSwap_canonical h) h)
theorem schedSweep_canonical (h : d.canonical) : (schedSweep P d).canonical := startSwaps_canonical h
theorem preempt_canonical {gid : Nat} (h : d.canonical) : (preempt d gid).canonical := by
  simp only [preempt]
  split
  · exact h
  · exact modGroup_canonical (freeEntries_canonical (discardEffects_canonical (canonical_ite (bumpDrawer_canonical (canonical_ite (removeMisses_canonical h) (canonical_ite (abandonWait_canonical h) (removeVerLoads_canonical (removeMisses_canonical h))))) (canonical_ite (removeMisses_canonical h) (canonical_ite (abandonWait_canonical h) (removeVerLoads_canonical (removeMisses_canonical h)))))))
theorem saveGroup_canonical {gid : Nat} (h : d.canonical) : (saveGroup d gid).canonical := by
  simp only [saveGroup]
  split
  · exact h
  · exact grantChunks_canonical (clearMatches_canonical (modCore_canonical (modGroup_canonical (freeDrawer_canonical (depositRegs_canonical h)))))
theorem saveDrawers_canonical {t : Team} (h : d.canonical) : (saveDrawers d t).canonical := modTeam_canonical (canonical_foldl (fun _ _ h => freeDrawer_canonical h) h)
theorem writeContext_canonical {t : Team} (h : d.canonical) : (writeContext P d t).1.canonical := engineRun_canonical h
theorem swapsOut_canonical {tid : Nat} (h : d.canonical) : (swapsOut tid P d).canonical := by
  simp only [swapsOut]
  split
  · exact h
  · exact canonical_ite h (canonical_ite (modTeam_canonical (countFatal_canonical (writeContext_canonical (canonical_foldl (fun _ _ h => preempt_canonical h) h)))) (modJob_canonical (modTeam_canonical (canonical_foldl (fun _ _ h => saveGroup_canonical h) (saveDrawers_canonical (writeContext_canonical (canonical_foldl (fun _ _ h => preempt_canonical h) h)))))))
theorem backBlock_canonical {gid e : Nat} (h : d.canonical) : (backBlock gid d e).canonical := by
  simp only [backBlock]
  split
  · exact h
  · exact canonical_ite (claimChunk_canonical h) (takeChunk_canonical h)
theorem moveRequest_canonical {gid core : Nat} (h : d.canonical) : (moveRequest d gid core).canonical := canonical_ite h (canonical_ite h (modCore_canonical (removeChunkReq_canonical h)))
theorem imagePut_canonical {t : Team} {kind gid off : Nat} {bytes : List Byte} (h : d.canonical) : (imagePut P t kind gid off bytes d).canonical := engineRun_canonical h
theorem putPart_canonical {t : Team} {g : Machine.Group} {part : Nat} (h : d.canonical) : (putPart P t g d part).canonical := by
  simp only [putPart]
  split <;> exact imagePut_canonical h
theorem imageFollows_canonical {t : Team} (h : d.canonical) : (imageFollows P d t).canonical :=
  canonical_ite h (modTeam_canonical (canonical_foldl (fun _ _ h => modGroup_canonical (canonical_foldl (fun _ _ h => putPart_canonical h) h)) (canonical_foldl (fun _ _ h => imagePut_canonical h) h)))
theorem imagesFollow_canonical (h : d.canonical) : (imagesFollow P d).canonical := canonical_foldl (fun _ _ h => imageFollows_canonical h) h
theorem restoreGroup_canonical {cl : Nat} {g : Machine.Group} (h : d.canonical) : (restoreGroup P cl d g).canonical :=
  canonical_ite (endWait_canonical (grantChunks_canonical (moveRequest_canonical (modGroup_canonical (canonical_foldl (fun _ _ h => backBlock_canonical h) h))))) (grantChunks_canonical (moveRequest_canonical (modGroup_canonical (canonical_foldl (fun _ _ h => backBlock_canonical h) h))))
theorem restoreDrawers_canonical {tid cl : Nat} (h : d.canonical) : (restoreDrawers tid cl d).canonical := by
  simp only [restoreDrawers]
  split
  · exact h
  · refine canonical_foldl ?_ h
    intro d x h
    split
    · exact h
    · exact canonical_ite (readyTask_canonical (modTeam_canonical (setDrawer_canonical h))) (modTeam_canonical (setDrawer_canonical h))
theorem restoreTeam_canonical {t : Team} {cl : Nat} (h : d.canonical) : (restoreTeam P d t cl).canonical := by
  simp only [restoreTeam]
  refine canonical_ite ?_ (modTeam_canonical (canonical_foldl (fun _ _ h => restoreGroup_canonical h) (modTeam_canonical (restoreDrawers_canonical (fromCommand_canonical (noteCluster_canonical (canonical_foldl (fun _ _ h => modGroup_canonical h) (modTeam_canonical (modJob_canonical h)))))))))
  split
  · exact takeFatal_canonical (modJob_canonical h)
  · exact modJob_canonical h
theorem teamRestores_canonical (h : d.canonical) : (teamRestores P d).canonical := by
  simp only [teamRestores]
  split
  · split
    · exact canonical_ite (restoreTeam_canonical (served_canonical (resetRot_canonical (schedActs_canonical h)))) h
    · exact h
  · exact h
theorem quantumExpires_canonical {tid : Nat} (h : d.canonical) : (quantumExpires tid P d).canonical := by
  simp only [quantumExpires]
  split
  · exact canonical_ite (modTeam_canonical h) h
  · exact h
theorem ageExpires_canonical {job : Nat} (h : d.canonical) : (ageExpires job P d).canonical := by
  simp only [ageExpires]
  split
  · split
    · exact canonical_ite (modJob_canonical h) h
    · exact h
  · exact h
theorem submitNext_canonical (h : d.canonical) : (submitNext P d).canonical := by
  simp only [submitNext]
  split
  · exact h
  · split
    · exact h
    · split
      · exact h
      · refine canonical_ite h ?_
        split
        · exact submitGraph_canonical h
        · exact checkPhase_canonical h
theorem submitAll_canonical {n : Nat} (h : d.canonical) : (submitAll P n d).canonical := by
  induction n generalizing d with
  | zero => exact h
  | succ n ih => exact ih (submitNext_canonical h)
theorem phaseStarts_canonical {job : Nat} (h : d.canonical) : (phaseStarts job P d).canonical := by
  simp only [phaseStarts]
  split
  · exact h
  · split
    · exact canonical_ite h (submitAll_canonical h)
    · exact h
theorem fireCondition_canonical {gid node w : Nat} (h : d.canonical) : (fireCondition P d gid node w).canonical := by
  simp only [fireCondition]
  split
  · exact h
  · exact checkGraph_canonical (fireNode_canonical h)
theorem conditionReads_canonical {gid : Nat} (h : d.canonical) : (conditionReads gid P d).canonical := by
  simp only [conditionReads]
  split
  · exact h
  · split
    · exact h
    · refine canonical_ite h ?_
      split
      · exact canonical_ite (checkGraph_canonical h) (fireCondition_canonical h)
      · split
        · exact h
        · exact canonical_ite (checkGraph_canonical h) h
      · exact checkGraph_canonical h

/-! Index ranges (R356 to R358). -/

theorem setRanges_canonical {core l : Nat} {r : Ranges} (h : d.canonical) : (setRanges d core l r).canonical := modCore_canonical h
theorem finishTake_canonical {core : Nat} {t : TakeReq} {lo k : Nat} (h : d.canonical) : (finishTake d core t lo k).canonical := finishOp_canonical (modGroup_canonical (modCore_canonical h))
theorem serveTake_canonical {core n : Nat} (h : d.canonical) : (serveTake core n d).canonical := by
  induction n generalizing d with
  | zero => exact h
  | succ n ih =>
    simp only [serveTake]
    split
    · exact canonical_ite (ih (modCore_canonical h)) (canonical_ite (ih (finishTake_canonical h)) (canonical_ite (ih (finishTake_canonical (setRanges_canonical h))) (canonical_ite (ih (setRanges_canonical h)) (modCore_canonical h))))
    · exact h
theorem serveTakes_canonical (h : d.canonical) : (serveTakes d).canonical := canonical_foldl (fun _ _ h => canonical_ite h (serveTake_canonical h)) h
theorem grabs_canonical {core : Nat} (h : d.canonical) : (grabs core P d).canonical := by
  simp only [grabs]
  split
  · split
    · exact canonical_ite (modCore_canonical h) (modCore_canonical h)
    · exact modCore_canonical h
  · exact h
theorem installRange_canonical {core l lo hi : Nat} (h : d.canonical) : (installRange d core l lo hi).canonical := canonical_ite h (canonical_ite (setRanges_canonical h) (setRanges_canonical h))
theorem rangeArrives_canonical {core : Nat} (h : d.canonical) : (rangeArrives core P d).canonical := by
  simp only [rangeArrives]
  split
  · exact modCore_canonical (installRange_canonical h)
  · exact h
theorem askNext_canonical {core : Nat} {t : TakeReq} {x : List Nat} (h : d.canonical) : (askNext d core t x).canonical := by
  simp only [askNext]
  split
  · exact finishTake_canonical h
  · exact modCore_canonical (modCore_canonical h)
theorem poolEmpty_canonical {core : Nat} (h : d.canonical) : (poolEmpty core P d).canonical := by
  simp only [poolEmpty]
  split
  · exact askNext_canonical (modCore_canonical h)
  · exact h
theorem stealArrives_canonical {core : Nat} (h : d.canonical) : (stealArrives core P d).canonical := by
  simp only [stealArrives]
  split
  · exact h
  · exact canonical_ite (modCore_canonical (setRanges_canonical (modCore_canonical h))) (canonical_ite (modCore_canonical (setRanges_canonical (modCore_canonical h))) (modCore_canonical (modCore_canonical h)))
theorem giveArrives_canonical {core : Nat} (h : d.canonical) : (giveArrives core P d).canonical := by
  simp only [giveArrives]
  split
  · exact h
  · exact modCore_canonical (installRange_canonical h)
theorem noneArrives_canonical {core : Nat} (h : d.canonical) : (noneArrives core P d).canonical := by
  simp only [noneArrives]
  split
  · exact h
  · split
    · exact canonical_ite (askNext_canonical (modCore_canonical h)) (modCore_canonical h)
    · exact modCore_canonical h
theorem dryArrives_canonical {core : Nat} (h : d.canonical) : (dryArrives core P d).canonical := by
  simp only [dryArrives]
  split <;> exact h

/-! Requests between devices (R278 to R281, R391 to R399). -/

theorem rstIntoImage_canonical {gid : Nat} {m : RstMsg} (h : d.canonical) : (rstIntoImage P d gid m).canonical := by
  simp only [rstIntoImage]
  split
  · exact h
  · split
    · exact h
    · exact canonical_ite h (canonical_ite (modGroup_canonical (imagePut_canonical (imagePut_canonical h))) (canonical_foldl (fun _ _ h => imagePut_canonical h) (imagePut_canonical (imagePut_canonical h))))
theorem applyRst_canonical {m : RstMsg} (h : d.canonical) : (applyRst P d m).2.canonical := by
  simp only [applyRst]
  split
  · exact h
  · split
    · exact h
    · split
      · exact h
      · split
        · exact h
        · split
          · exact h
          · exact rstIntoImage_canonical (canonical_ite (wakeGroup_canonical (modGroup_canonical h)) (modGroup_canonical h))
theorem rstArrives_canonical {m : Option RstMsg} (h : d.canonical) : (rstArrives m P d).canonical := by
  simp only [rstArrives]
  split
  · split
    · exact h
    · exact modGroup_canonical (applyRst_canonical h)
  · exact canonical_ite h (canonical_ite (emit_canonical (applyRst_canonical h)) (applyRst_canonical h))
theorem serveLane_canonical {s : Served} {l : RemoteLane} (h : d.canonical) : (serveLane P s d l).2.canonical := by
  simp only [serveLane]
  split
  · split
    · exact canonical_ite (collapseFor_canonical h) h
    · split
      · split
        · split <;> exact collapseFor_canonical h
        · split <;> exact h
      · refine noticeAll_canonical (portWrite_canonical ?_ (canonical_ite (collapseFor_canonical h) h))
        intro d h
        exact storeAt_canonical ‹_›
      · split
        · exact canonical_ite (collapseFor_canonical h) h
        · exact sendAtomic_canonical (canonical_ite (collapseFor_canonical h) h)
  · exact canonical_ite (collapseFor_canonical h) h
theorem beginServed_canonical {s : Served} (h : d.canonical) : (beginServed P d s).canonical := by
  simp only [beginServed]
  refine canonical_ite h (canonical_foldl ?_ h)
  intro d l h
  have served := serveLane_canonical (P := P) (s := s) (l := l) h
  split
  all_goals
    rw [‹serveLane P s d l = _›] at served
    exact served
theorem takeRequest_canonical {peer seq : Nat} {d1 : Device} {v : OutReq} (h : d.canonical) (he : takeRequest d peer seq = some (v, d1)) : d1.canonical := by
  obtain ⟨x, -, hx⟩ := Option.map_eq_some_iff.1 he
  cases hx
  exact modPeer_canonical h
theorem answerServed_canonical {s : Served} (h : d.canonical) : (answerServed P d s).canonical := by
  have kept : Device.canonical { d with served := d.served.filter fun x => x.id != s.id } := h
  simp only [answerServed]
  split
  · split
    · exact completeRequest_canonical (takeRequest_canonical kept ‹_›)
    · exact h
  · split
    · exact emit_canonical kept
    · exact kept
theorem settleServed_canonical {n : Nat} (h : d.canonical) : (settleServed P n d).canonical := by
  induction n generalizing d with
  | zero => exact h
  | succ n ih =>
    simp only [settleServed]
    split
    · exact h
    · exact ih (canonical_ite (answerServed_canonical h) (beginServed_canonical h))
theorem serveAll_canonical (h : d.canonical) : (serveAll P d).canonical := settleServed_canonical h
theorem addServed_canonical {peer seq job : Nat} {kind : RemoteKind} {lanes : List RemoteLane} (h : d.canonical) : (addServed P d peer seq job kind lanes).canonical := serveAll_canonical h
theorem ualinkArrives_canonical {peer seq : Nat} {u : UaRequest} (h : d.canonical) : (ualinkArrives P d peer seq u).canonical := by
  simp only [ualinkArrives]
  refine canonical_ite h ?_
  split
  · exact canonical_ite (addServed_canonical h) (canonical_ite (emit_canonical h) h)
  · exact canonical_ite (emit_canonical h) h
theorem remoteArrives_canonical {m : RemoteReq} (h : d.canonical) : (remoteArrives m P d).canonical := by
  simp only [remoteArrives]
  refine canonical_ite ?_ (canonical_ite ?_ (canonical_ite h (addServed_canonical h)))
  · split
    · split
      · exact canonical_ite h (addServed_canonical h)
      · exact h
    · exact h
  · split
    · exact ualinkArrives_canonical h
    · exact h
theorem responseArrives_canonical {m : RemoteResp} (h : d.canonical) : (responseArrives m P d).canonical := by
  simp only [responseArrives]
  refine canonical_ite h ?_
  split
  · exact h
  · split
    · exact completeRst_canonical (monNote_canonical (takeRequest_canonical h ‹_›))
    · exact completeRequest_canonical (monNote_canonical (takeRequest_canonical h ‹_›))
theorem requestTimesOut_canonical {peer : Nat} (h : d.canonical) : (requestTimesOut peer P d).canonical := by
  simp only [requestTimesOut]
  refine canonical_ite h ?_
  split
  · exact h
  · split
    · exact isolatePeer_canonical (failRequest_canonical (takeRequest_canonical h ‹_›))
    · exact h
theorem beginProbing_canonical {peer : Nat} (h : d.canonical) : (beginProbing d peer).canonical := modPeer_canonical h
theorem isolatedExpires_canonical {peer : Nat} (h : d.canonical) : (isolatedExpires peer P d).canonical := canonical_ite (beginProbing_canonical h) h
theorem probeSends_canonical {peer : Nat} (h : d.canonical) : (probeSends peer P d).canonical := canonical_ite (modPeer_canonical (emit_canonical h)) h
theorem probeAnswered_canonical {peer : Nat} (h : d.canonical) : (probeAnswered peer P d).canonical := by
  simp only [probeAnswered]
  split
  · exact canonical_ite (canonical_ite (canonical_ite (modPeer_canonical (monNote_canonical h)) (emit_canonical (modPeer_canonical (monNote_canonical h)))) (modPeer_canonical (monNote_canonical h))) h
  · exact h
theorem probeTimesOut_canonical {peer : Nat} (h : d.canonical) : (probeTimesOut peer P d).canonical := by
  simp only [probeTimesOut]
  split
  · exact canonical_ite (isolatePeer_canonical h) h
  · exact h
theorem probeArrives_canonical {peer : Nat} (h : d.canonical) : (probeArrives peer P d).canonical := canonical_ite (emit_canonical h) h
theorem identityArrives_canonical {peer : Nat} {record : List Byte} (h : d.canonical) : (identityArrives peer record P d).canonical := modPeer_canonical h
theorem flitFails_canonical {peer channel : Nat} (h : d.canonical) : (flitFails peer channel P d).canonical :=
  canonical_ite h (canonical_ite (isolatePeer_canonical (modPeer_canonical (free_canonical h))) (modPeer_canonical (free_canonical h)))
theorem channelBack_canonical {peer channel : Nat} (h : d.canonical) : (channelBack peer channel P d).canonical := canonical_ite (modPeer_canonical h) h
theorem sendKept_canonical {peer cls n : Nat} (h : d.canonical) : (sendKept P peer cls n d).canonical := by
  induction n generalizing d with
  | zero => exact h
  | succ n ih =>
    simp only [sendKept]
    refine canonical_ite h ?_
    split
    · exact h
    · exact ih (takeCredit_canonical (modPeer_canonical (emit_canonical h)))
theorem creditArrives_canonical {peer cls : Nat} (h : d.canonical) : (creditArrives peer cls P d).canonical := sendKept_canonical (modPeer_canonical h)
theorem sideboardSends_canonical {job : Nat} (h : d.canonical) : (sideboardSends job P d).canonical := by
  simp only [sideboardSends]
  split
  · exact canonical_ite (sendOwn_canonical h) h
  · exact h
theorem sideboardArrives_canonical {job peer : Nat} {step : Word} (h : d.canonical) : (sideboardArrives job peer step P d).canonical := by
  simp only [sideboardArrives]
  split
  · exact h
  · exact canonical_ite h (sbEvaluate_canonical (modJob_canonical h))
theorem silenceEnds_canonical {job peer : Nat} (h : d.canonical) : (silenceEnds job peer P d).canonical := by
  simp only [silenceEnds]
  split
  · exact h
  · split
    · exact canonical_ite (sbEvaluate_canonical (modJob_canonical h)) h
    · exact h

/-! The sideboard and the members of collectives (R402 to R412). -/

theorem retain_canonical {s : CollSend} {die : Nat} {b : Binding} {data : List Byte} (h : d.canonical) : (retain P d s die b data).canonical :=
  canonical_ite (noticeAll_canonical (engineRun_canonical h)) (countUnwritten_canonical (engineRun_canonical h))
theorem contributionSends_canonical {die : Nat} (h : d.canonical) : (contributionSends die P d).canonical := by
  simp only [contributionSends]
  split
  · exact h
  · split
    · refine sendContribution_canonical (retain_canonical ?_)
      split
      · exact modGroup_canonical h
      · exact h
    · refine countUnwritten_canonical ?_
      split
      · exact modGroup_canonical h
      · exact h
theorem contributionArrives_canonical {m : Option Contribution} (h : d.canonical) : (contributionArrives m P d).canonical := by
  simp only [contributionArrives]
  split
  · exact canonical_ite h (canonical_ite (modPeer_canonical h) (contribute_canonical h))
  · split
    · exact contribute_canonical h
    · exact h
theorem resultArrives_canonical {m : Option ResultMsg} (h : d.canonical) : (resultArrives m P d).canonical := by
  simp only [resultArrives]
  split
  · exact deliver_canonical h
  · split
    · exact deliver_canonical h
    · exact h
theorem getsLost_canonical {gid op : Nat} (h : d.canonical) : (getsLost gid op P d).canonical := by
  simp only [getsLost]
  split
  · exact h
  · exact canonical_ite h (finishGet_canonical (free_canonical h))
theorem resends_canonical {id : Nat} (h : d.canonical) : (resends id P d).canonical := by
  simp only [resends]
  split
  · exact h
  · split
    · exact h
    · refine canonical_ite ?_ h
      split
      · exact sendContribution_canonical h
      · exact h

/-! Copies (R316 to R319). -/

theorem markRange_canonical {a n : Nat} (h : d.canonical) : (markRange d a n).canonical := canonical_foldl (fun _ _ h => setPoison_canonical h) h
theorem putUnit_canonical {o : CopyOp} {bad : Bool} {x : Nat × List Byte} (h : d.canonical) : (putUnit P o bad d x).canonical :=
  canonical_ite (markRange_canonical (engineWrite_canonical h)) (engineWrite_canonical h)
theorem putGranule_canonical {o : CopyOp} {bad : Bool} {off : Nat} {bs : List Byte} (h : d.canonical) : (putGranule P o bad d off bs).canonical :=
  canonical_ite (modTeam_canonical h) (canonical_foldl (fun _ _ h => putUnit_canonical h) (enginePlaces_canonical h))
theorem modCopy_canonical {id : Nat} {f : CopyOp → CopyOp} (h : d.canonical) : (modCopy d id f).canonical := h
theorem copyGoes_canonical {o : CopyOp} (h : d.canonical) : (copyGoes P d o).canonical := by
  simp only [copyGoes]
  refine canonical_ite (endCopy_canonical h) ?_
  split
  · exact canonical_ite (endCopy_canonical (putGranule_canonical h)) (modCopy_canonical (putGranule_canonical h))
  · exact endCopy_canonical h
  · exact canonical_ite (endCopy_canonical h) (modCopy_canonical h)
theorem copyCompletes_canonical {op : Nat} (h : d.canonical) : (copyCompletes op P d).canonical := by
  simp only [copyCompletes]
  split
  · exact copyGoes_canonical h
  · exact h

/-! Hutch operations (R417 to R426). -/

theorem modHutch_canonical {k : Nat} {f : Hutch → Hutch} (h : d.canonical) : (Device.modHutch d k f).canonical := h
theorem collapseDst_canonical {c : HutchCmd} (h : d.canonical) : (collapseDst P d c).1.canonical := canonical_foldl (fun _ _ h => canonical_ite (collapseFor_canonical h) h) h
theorem askSlot_canonical {step : Nat} {p : HutchPage} (h : d.canonical) : (askSlot P step d p).2.canonical := by
  have h : (d.modHome p.leaf.addr fun h => { h with pageSize := p.leaf.size, attr := p.leaf.attr }).canonical := h
  simp only [askSlot]
  split
  · exact h
  · split
    · exact h
    · dsimp only
      exact chargeLate_canonical h
    · split
      · exact h
      · dsimp only
        exact modHome_canonical (openSlot_canonical h)
    · exact h
theorem askSlots_canonical {step : Nat} {x : List HutchPage} (h : d.canonical) : (askSlots P step d x).2.2.canonical := by
  induction x generalizing d with
  | nil => exact h
  | cons p t ih =>
    simp only [askSlots]
    split
    · split
      · exact ih (askSlot_canonical h)
      · exact askSlot_canonical h
    · exact ih h
theorem placeCommand_canonical {c : HutchCmd} (h : d.canonical) : (placeCommand P d c).2.canonical := by
  simp only [placeCommand]
  split
  · split
    · exact askSlots_canonical h
    · exact askSlots_canonical (askSlots_canonical h)
  · split
    · exact askSlots_canonical h
    · exact askSlots_canonical (askSlots_canonical h)
  · split
    · exact askSlots_canonical h
    · exact askSlots_canonical (askSlots_canonical h)
  · split
    · exact askSlots_canonical h
    · exact askSlots_canonical (askSlots_canonical h)
theorem acceptCommand_canonical {gid : Nat} {c : HutchCmd} (h : d.canonical) : (acceptCommand P d gid c).canonical := by
  simp only [acceptCommand]
  refine canonical_ite h (canonical_ite h (modHutch_canonical ?_))
  split
  · exact tlAccept_canonical (modGroup_canonical h)
  · split
    · exact tlAccept_canonical (modGroup_canonical h)
    · exact placeCommand_canonical (collapseDst_canonical (tlAccept_canonical (modGroup_canonical h)))
theorem hutchEnqueues_canonical {op : Nat} (h : d.canonical) : (hutchEnqueues op P d).canonical := by
  simp only [hutchEnqueues]
  split
  · exact acceptCommand_canonical h
  · split
    · exact modHutch_canonical (placeCommand_canonical h)
    · exact h
theorem endCommand_canonical {c : HutchCmd} {code x touched : Nat} (h : d.canonical) : (endCommand d c code x touched).canonical := by
  simp only [endCommand]
  refine timelineDone_canonical (modHutch_canonical (noticeAll_canonical (canonical_foldl ?_ h)))
  intro d x h
  split
  · exact modHome_canonical h
  · exact h
theorem hutchWrite_canonical {w : Nat × Nat} (h : d.canonical) : (hutchWrite P d w).canonical := engineWrite_canonical h
theorem hutchElement_canonical {c : HutchCmd} (h : d.canonical) : (hutchElement P d c).canonical :=
  canonical_ite (endCommand_canonical (canonical_foldl (fun _ _ h => setPoison_canonical h) h)) (modHutch_canonical (canonical_foldl (fun _ _ h => hutchWrite_canonical h) h))
theorem hutchResult_canonical {c : HutchCmd} (h : d.canonical) : (hutchResult P d c).canonical := canonical_ite (mergeClock_canonical (engineWrite_canonical h)) h
theorem hutchRuns_canonical {op stack : Nat} (h : d.canonical) : (hutchRuns op stack P d).canonical := by
  simp only [hutchRuns]
  split
  · exact h
  · refine canonical_ite h ?_
    split
    · exact endCommand_canonical h
    · exact canonical_ite h (canonical_ite (hutchElement_canonical h) (endCommand_canonical (hutchResult_canonical h)))

/-! Mirrors, snapshots and fills (R427 to R435). -/

theorem endTransfer_canonical {record slot : Nat} (h : d.canonical) : (endTransfer d record slot).canonical := modHome_canonical h
theorem takeTransfer_canonical {mirror : Bool} {d1 : Device} {v : Transfer} (h : d.canonical) (he : takeTransfer d mirror = some (v, d1)) : d1.canonical := by
  simp only [takeTransfer] at he
  split at he <;> cases he <;> exact h
theorem mirrorSends_canonical (h : d.canonical) : (mirrorSends P d).2.canonical := by
  simp only [mirrorSends]
  split
  · exact h
  · split
    · exact endTransfer_canonical (takeTransfer_canonical h ‹_›)
    · split
      · exact postTo_canonical (free_canonical (endTransfer_canonical (takeTransfer_canonical h ‹_›)))
      · exact free_canonical (endTransfer_canonical (takeTransfer_canonical h ‹_›))
theorem writeMirror_canonical {job : Nat} {l : Leaf} {step : Nat} {image : List Byte} (h : d.canonical) : (writeMirror d job l step image).canonical := openHome_canonical h
theorem mirrorArrives_canonical {m : MirrorMsg} (h : d.canonical) : (mirrorArrives m P d).canonical := by
  simp only [mirrorArrives]
  split
  · exact h
  · refine canonical_ite h ?_
    split
    · exact writeMirror_canonical h
    · exact h
theorem holdCopyRead_canonical {m : HoldRead} (h : d.canonical) : (holdCopyRead m P d).canonical := canonical_ite (postTo_canonical h) h
theorem toStore_canonical {store : Option Nat} {kind off : Nat} {payload : List Byte} (h : d.canonical) : (toStore P d store kind off payload).canonical := h
theorem snapshotWrites_canonical (h : d.canonical) : (snapshotWrites P d).2.canonical := by
  simp only [snapshotWrites]
  split
  · exact h
  · split
    · exact takeTransfer_canonical h ‹_›
    · split
      · exact endTransfer_canonical (takeTransfer_canonical h ‹_›)
      · exact toStore_canonical (takeTransfer_canonical h ‹_›)
theorem snapAnswered_canonical {off : Nat} (h : d.canonical) : (snapAnswered off P d).2.canonical := by
  simp only [snapAnswered]
  split
  · exact h
  · split
    · exact h
    · split
      · exact endTransfer_canonical h
      · exact toStore_canonical h
theorem replyTo_canonical {tag : HostTag} {status : Nat} {payload : List Byte} (h : d.canonical) : (replyTo d tag status payload).canonical := h
theorem replyCmd_canonical {tag : HostTag} {code status : Nat} (h : d.canonical) : (replyCmd d tag code status).canonical := replyTo_canonical h
theorem addPhase_canonical {tag : HostTag} {job : Nat} {va : DWord} (h : d.canonical) : (addPhase d tag job va).canonical := by
  simp only [addPhase]
  split
  · split
    · exact canonical_ite (replyCmd_canonical h) (replyCmd_canonical (modJob_canonical h))
    · exact replyCmd_canonical h
  · exact replyCmd_canonical h
theorem whenReady_canonical {tag : HostTag} {busy : List Byte} {f : Platform → Device → Platform × Device} (hf : (f P d).2.canonical) (h : d.canonical) : (whenReady tag busy f P d).2.canonical := by
  simp only [whenReady]
  split
  · exact h
  · split
    · exact replyTo_canonical h
    · exact hf
theorem fillCommand_canonical {tag : HostTag} {peer store : Nat} (h : d.canonical) : (fillCommand tag peer store P d).2.canonical := by
  simp only [fillCommand]
  split
  · exact h
  · split
    · exact h
    · exact replyTo_canonical h
theorem writeImage_canonical {job : Nat} {l : Leaf} {step : Nat} {image : List Byte} (h : d.canonical) : (writeImage d job l step image).canonical := openHome_canonical h
theorem fillPage_canonical {k page step : Nat} {image : List Byte} (h : d.canonical) : (fillPage P d k page step image).2.canonical := by
  simp only [fillPage]
  split
  · exact h
  · split
    · exact h
    · split
      · dsimp only
        exact chargeLate_canonical h
      · dsimp only
        exact writeImage_canonical h
theorem fillReady_canonical {j : FillJob} (h : d.canonical) : (fillReady P d j).2.canonical := by
  simp only [fillReady]
  split <;> exact canonical_foldl (fun _ _ h => addPhase_canonical h) (replyTo_canonical h)
theorem askSource_canonical {j : FillJob} {k page : Nat} {e : ResEntry} (h : d.canonical) : (askSource P d j k page e).2.canonical := by
  simp only [askSource]
  split
  · exact postTo_canonical h
  · split
    · exact h
    · exact toStore_canonical h
theorem fillGoes_canonical {j0 : FillJob} (h : d.canonical) : (fillGoes P d j0).2.canonical := by
  simp only [fillGoes]
  split
  · split <;> exact h
  · split
    · exact fillReady_canonical h
    · split
      · exact h
      · split
        · exact askSource_canonical h
        · exact h
theorem fillImage_canonical {j : FillJob} {partner : Bool} {image : Option (Nat × List Byte)} (h : d.canonical) : (fillImage P d j partner image).2.canonical := by
  simp only [fillImage]
  split
  · split
    · exact h
    · split
      · exact fillPage_canonical h
      · exact h
  · exact h
theorem fillMoves_canonical {m : FillMove} (h : d.canonical) : (fillMoves m P d).2.canonical := by
  simp only [fillMoves]
  split
  · exact whenReady_canonical (fillCommand_canonical h) h
  · split
    · exact fillGoes_canonical h
    · exact h
  · split
    · split
      · exact fillImage_canonical h
      · exact h
    · exact h
theorem storeReplies_canonical {m : StoreReply} (h : d.canonical) : (storeReplies m P d).2.canonical := by
  simp only [storeReplies]
  split
  · exact h
  · split
    · split
      · exact h
      · split
        · split
          · exact h
          · split
            · exact fillImage_canonical h
            · exact h
        · exact h
    · exact snapAnswered_canonical h

/-! Host commands (R338). -/

theorem hostCommand_canonical {tag : HostTag} {code : Nat} {f : Platform → Device → Device} (hf : (f P d).canonical) (h : d.canonical) : (hostCommand tag code f P d).2.canonical :=
  whenReady_canonical hf h
theorem admits_canonical {tag : HostTag} {r : List Byte} (h : d.canonical) : (admits tag r P d).canonical := canonical_ite (replyCmd_canonical h) (replyCmd_canonical (sendOwn_canonical h))
theorem hostPieces_canonical {job : Nat} {ps : List (DWord × List Byte)} (h : d.canonical) : (hostPieces P job d ps).canonical :=
  canonical_foldl (fun _ _ h => engineWrite_canonical h) (enginePlaces_canonical h)
theorem hostWrites_canonical {tag : HostTag} {job : Nat} {va : DWord} {bytes : List Byte} (h : d.canonical) : (hostWrites tag job va bytes P d).canonical :=
  canonical_ite (replyCmd_canonical h) (replyCmd_canonical (toCommand_canonical (noticeAll_canonical (hostPieces_canonical h))))
theorem phaseCommand_canonical {tag : HostTag} {job : Nat} {va : DWord} (h : d.canonical) : (phaseCommand tag job va P d).2.canonical := by
  simp only [phaseCommand]
  split
  · exact h
  · exact addPhase_canonical h
theorem cancelOne_canonical {level : Sys2Proof.Level} {id : Nat} (h : d.canonical) : (cancelOne P level d id).canonical := by
  simp only [cancelOne]
  split
  · exact cancelLaunch_canonical h
  · exact cancelGraph_canonical h
  · exact cancelPhase_canonical h
  · exact cancelJob_canonical h
theorem cancels_canonical {tag : HostTag} {job : Nat} {level : Sys2Proof.Level} {va : DWord} (h : d.canonical) : (cancels tag job level va P d).canonical :=
  canonical_ite (replyCmd_canonical h) (canonical_ite (replyCmd_canonical h) (replyCmd_canonical (canonical_foldl (fun _ _ h => cancelOne_canonical h) h)))
theorem freeJob_canonical {n : Nat} (h : d.canonical) : (freeJob P d n).canonical := returnCredit_canonical h
theorem freeTeams_canonical {n : Nat} (h : d.canonical) : (freeTeams P d n).canonical := by
  refine canonical_foldl ?_ h
  intro d t h
  exact completeTeam_canonical h
theorem retires_canonical {tag : HostTag} {n : Nat} (h : d.canonical) : (retires tag n P d).canonical := by
  simp only [retires]
  split
  · exact replyCmd_canonical h
  · exact canonical_ite (replyCmd_canonical (freeJob_canonical h)) (canonical_ite (replyCmd_canonical (freeJob_canonical (completionMessage_canonical (commandWrite_canonical (freeTeams_canonical h))))) (replyCmd_canonical h))

/-! The platform: registers, start, power (R436 to R450). -/

theorem restartDevice_canonical {warm : Bool} (h : d.canonical) : (restartDevice d warm).canonical := by
  simp only [restartDevice]
  exact canonical_ite h reset_mem_wf
theorem fuseReads_canonical (h : d.canonical) : (fuseReads P d).2.canonical := by
  simp only [fuseReads]
  split <;> exact h
theorem signChecks_canonical {m : SignResult} (h : d.canonical) : (signChecks m P d).2.canonical := by
  simp only [signChecks]
  split
  · exact h
  · split
    · exact h
    · split
      · exact h
      · split <;> exact h
theorem poisonStacks_canonical {lost : BitVec 8} (h : d.canonical) : (poisonStacks d lost).canonical := h
theorem hbmTrains_canonical {m : HbmResult} (h : d.canonical) : (hbmTrains m P d).2.canonical := by
  simp only [hbmTrains]
  split
  · exact h
  · split
    · exact poisonStacks_canonical h
    · exact h
theorem bistTests_canonical {m : BistResult} (h : d.canonical) : (bistTests m P d).2.canonical := by
  simp only [bistTests]
  split <;> exact h
theorem fabricTrains_canonical {m : FabricResult} (h : d.canonical) : (fabricTrains m P d).2.canonical := by
  simp only [fabricTrains]
  split
  · exact canonical_foldl (fun _ _ h => modPeer_canonical h) h
  · exact h
theorem countErrors_canonical (h : d.canonical) : (countErrors P d).2.canonical := free_canonical h
theorem regReads_canonical {tag : HostTag} {off width : Nat} (h : d.canonical) : (regReads tag off width P d).2.canonical := by
  simp only [regReads]
  split
  · exact h
  · split
    · exact replyTo_canonical h
    · split
      · exact replyTo_canonical h
      · refine replyTo_canonical ?_
        split
        · exact countErrors_canonical h
        · exact h
theorem writeRemap_canonical {p : Nat} {w : Word} (h : d.canonical) : (writeRemap P d p w).2.canonical := by
  simp only [writeRemap]
  split
  · exact h
  · exact beginProbing_canonical (modPeer_canonical (isolatePeer_canonical h))
theorem writeMonCtl_canonical {v : Nat} (h : d.canonical) : (writeMonCtl P d v).2.canonical := by
  simp only [writeMonCtl]
  split <;> exact h
theorem writeWord_canonical {r : Platform × Device} {x : Nat × Nat} (h : r.2.canonical) : (writeWord r x).2.canonical := by
  simp only [writeWord]
  split
  · split
    · exact restartDevice_canonical h
    · split
      · exact restartDevice_canonical h
      · split <;> exact h
  · split
    · exact h
    · split
      · exact h
      · split
        · exact writeMonCtl_canonical h
        · split
          · exact h
          · split
            · exact writeRemap_canonical h
            · split <;> exact h
theorem regWrites_canonical {tag : HostTag} {off width data : Nat} (h : d.canonical) : (regWrites tag off width data P d).2.canonical := by
  simp only [regWrites]
  split
  · exact h
  · split
    · exact replyTo_canonical h
    · split
      · exact replyTo_canonical h
      · exact List.foldlRecOn (motive := fun r : Platform × Device => r.2.canonical) _ _ (replyTo_canonical h) fun _ hr _ _ => writeWord_canonical hr
theorem powerSampled_canonical {m : RailSample} (h : d.canonical) : (powerSampled m P d).2.canonical := monNote_canonical (monNote_canonical (monNote_canonical h))
theorem levelFalls_canonical (h : d.canonical) : (levelFalls P d).2.canonical := by
  simp only [levelFalls]
  split
  · split <;> exact h
  · exact h

/-! What follows every step inside the device. -/

theorem mismatchSweep_canonical (h : d.canonical) : (mismatchSweep P d).canonical := by
  simp only [mismatchSweep]
  refine canonical_foldl ?_ h
  intro d x h
  split
  · exact takeException_canonical (modGroup_canonical h)
  · exact h
theorem fatalSweep_canonical (h : d.canonical) : (fatalSweep P d).canonical := canonical_foldl (fun _ _ h => fatalGoesOn_canonical h) h
theorem sampleTimes_canonical {source n : Nat} (h : d.canonical) : (sampleTimes P source n d).canonical := by
  induction n generalizing d with
  | zero => exact h
  | succ n ih => exact ih (monNote_canonical (free_canonical h))
theorem freeSamples_canonical (h : d.canonical) : (freeSamples P d).canonical := canonical_ite (canonical_foldl (fun _ _ h => sampleTimes_canonical (free_canonical h)) h) h
theorem sweep_canonical (h : d.canonical) : (sweep P d).canonical :=
  schedSweep_canonical (imagesFollow_canonical (mismatchSweep_canonical (settleForwards_canonical (fatalSweep_canonical (closeSweep_canonical (serveTakes_canonical (settleGets_canonical (settlePeers_canonical (pumpAll_canonical (serveAll_canonical h))))))))))

end

/-! The checks of an instruction answer no report; only a lock's does (R255). -/

section
variable {c : Ctx} {e : Stop}

theorem placeLane_stop {acc : Access} {align lane : Nat} {own : Leaf → Option ExcCode} {va : DWord} (he : placeLane c acc align own lane va = .error e) : e.canonical := by
  simp only [placeLane] at he
  split at he
  · cases he
    trivial
  · split at he
    · cases he
      trivial
    · split at he
      · cases he
        trivial
      · cases he
        trivial
      · cases he
        trivial
      · split at he <;> cases he
        trivial
theorem placeLanes_stop {acc : Access} {align : Nat} {own : Leaf → Option ExcCode} {ls : List (Nat × DWord)} (he : placeLanes c acc align own ls = .error e) : e.canonical := by
  induction ls with
  | nil => cases he
  | cons l ls ih =>
    simp only [placeLanes] at he
    split at he
    · cases he
      exact placeLane_stop ‹_›
    · split at he <;> cases he
      exact ih ‹_›
theorem wholeGroup_stop {α : Type} {r : Except Stop α} (hr : ∀ e, r = .error e → e.canonical) (he : wholeGroup r = .error e) : e.canonical := by
  simp only [wholeGroup] at he
  split at he
  · cases he
    trivial
  · cases he
    trivial
  · exact hr e he
theorem windowLanes_stop {n : Nat} {ls : List (Nat × Nat)} (he : windowLanes c n ls = .error e) : e.canonical := by
  induction ls with
  | nil => cases he
  | cons l ls ih =>
    simp only [windowLanes] at he
    split at he
    · cases he
      trivial
    · split at he
      · cases he
        trivial
      · split at he <;> cases he
        exact ih ‹_›
theorem windowSpans_stop {store : Bool} {ss : List Span} (he : windowSpans c store ss = some e) : e.canonical := by
  simp only [windowSpans] at he
  split at he
  · cases he
    trivial
  · split at he <;> cases he
    trivial
theorem shape_stop {n : ShapeNo} (he : c.shape n = .error e) : e.canonical := by
  simp only [Ctx.shape] at he
  split at he <;> cases he
  trivial
theorem placeSpan_stop {acc : Access} {own : Leaf → Option ExcCode} {s : Span} (he : placeSpan c acc own s = .error e) : e.canonical := by
  simp only [placeSpan] at he
  split at he
  · cases he
    trivial
  · cases he
    trivial
  · exact placeLane_stop he
theorem checkSpans_stop {acc : Access} {own : Leaf → Option ExcCode} {ss : List Span} (he : checkSpans c acc own ss = .error e) : e.canonical := by
  induction ss with
  | nil => cases he
  | cons s ss ih =>
    simp only [checkSpans] at he
    split at he
    · cases he
      exact placeSpan_stop ‹_›
    · split at he <;> cases he
      exact ih ‹_›
theorem checkRanges_stop {acc : Access} {own : Leaf → Option ExcCode} {ss : List Span} (he : checkRanges c acc own ss = .error e) : e.canonical := checkSpans_stop he
theorem readRange_stop {va : DWord} {n : Nat} (he : readRange c va n = .error e) : e.canonical := by
  simp only [readRange] at he
  split at he
  · cases he
    exact checkRanges_stop ‹_›
  · split at he <;> cases he <;> trivial
theorem lockPlace_stop {ordered : Bool} {a : Reg} (h : c.d.canonical) (he : lockPlace ordered a c = .error e) : e.canonical := by
  simp only [lockPlace] at he
  split at he
  · cases he
    trivial
  · split at he
    · cases he
      trivial
    · split at he
      · split at he
        · cases he
          exact lockReport_canonical h
        · exact wholeGroup_stop (fun _ => placeLane_stop) he
      · exact wholeGroup_stop (fun _ => placeLane_stop) he
theorem mmaShape_stop {f : MmaF} (he : mmaShape f c = .error e) : e.canonical := by
  simp only [mmaShape] at he
  split at he
  · cases he
  · split at he <;> cases he
    exact shape_stop ‹_›
theorem mmaFetch_stop {f : MmaF} {m : MmaArgs} {s : Option Snapshot} (he : mmaFetch f c m s = .error e) : e.canonical := by
  simp only [mmaFetch] at he
  split at he
  · cases he
    trivial
  · split at he
    · next hw =>
      cases he
      split at hw
      · exact windowSpans_stop hw
      · cases hw
    · split at he
      · cases he
        exact checkRanges_stop ‹_›
      · split at he <;> cases he <;> trivial
/-- What an `mma` has read leaves memory (R298). -/
theorem mmaFetch_canonical {f : MmaF} {m : MmaArgs} {s : Option Snapshot} {x : MmaIn} (h : c.d.canonical) (he : mmaFetch f c m s = .ok x) : x.d.canonical := by
  simp only [mmaFetch] at he
  split at he
  · cases he
  · split at he
    · cases he
    · split at he
      · cases he
      · split at he <;> cases he
        exact thruParts_canonical h ‹_›
theorem collBinding_stop {sa : SReg} (he : collBinding c sa = .error e) : e.canonical := by
  simp only [collBinding] at he
  split at he
  · cases he
    trivial
  · split at he
    · cases he
      exact wholeGroup_stop (fun _ => placeLanes_stop) ‹_›
    · split at he <;> cases he
      trivial
theorem collChunk_stop {b : Binding} {k : SL} (he : collChunk c b k = .error e) : e.canonical := by
  simp only [collChunk] at he
  split at he <;> cases he
  trivial
theorem collRange_stop {acc : Access} {own : Leaf → Option ExcCode} {va : DWord} (he : collRange c acc own va = .error e) : e.canonical :=
  wholeGroup_stop (fun _ => placeLanes_stop) he
theorem hutchLeaf_stop {acc : Access} {va : DWord} (he : hutchLeaf c acc va = .error e) : e.canonical := by
  simp only [hutchLeaf] at he
  split at he
  · cases he
    trivial
  · split at he
    · cases he
      trivial
    · cases acc
      all_goals
        simp only at he
        split at he
        · cases he
          trivial
        · split at he <;> cases he
          trivial
theorem hutchPages_stop {get : DWord → Except Stop Leaf} (hg : ∀ va e, get va = .error e → e.canonical) {n a stop : Nat} (he : hutchPages get n a stop = .error e) : e.canonical := by
  induction n generalizing a with
  | zero => cases he
  | succ n ih =>
    simp only [hutchPages] at he
    split at he
    · cases he
      exact hg _ _ ‹_›
    · split at he
      · cases he
      · split at he <;> cases he
        exact ih ‹_›
theorem hutchTranslate_stop {rs : List (Nat × Nat × Nat × Access)} (he : hutchTranslate c rs = .error e) : e.canonical := by
  induction rs with
  | nil => cases he
  | cons r rs ih =>
    simp only [hutchTranslate] at he
    split at he
    · cases he
      exact hutchPages_stop (fun _ _ => hutchLeaf_stop) ‹_›
    · split at he <;> cases he
      exact ih ‹_›

end

/-! What an instruction's meaning answers. -/

section
variable {d : Device}

theorem act_canonical {w : RegWrites} {tr : Bool} {rs : Nat} (h : d.canonical) : (Done.act d w tr rs).canonical := h
theorem op_canonical {o : Op} {rs : Nat} (h : d.canonical) : (Done.op d o rs).canonical := h
theorem part_canonical {o : Op} {rest : Mask} (h : d.canonical) : (Done.part d o rest).canonical := h
theorem wait_canonical (h : d.canonical) : (Done.wait d).canonical := h
theorem jump_canonical (h : d.canonical) : (Done.jump d).canonical := h
theorem done_ite {p : Prop} [Decidable p] {x y : Done} (hx : x.canonical) (hy : y.canonical) : (if p then x else y).canonical := by
  split <;> assumption
theorem keeps_ok {f : Ctx → Done} (hf : ∀ c : Ctx, c.d.canonical → (f c).canonical) : Keeps (.ok f) := by
  refine ⟨fun _ he => ?_, fun g hg => ?_⟩
  · cases he
  · cases hg
    exact hf
theorem keeps_stop {e : Stop} (he : e.canonical) : Keeps (.error e) := by
  refine ⟨fun e' h => ?_, fun _ h => ?_⟩
  · cases h
    exact he
  · cases h
theorem keeps_raise {e : Exc} : Keeps (.error (.raise e)) := keeps_stop trivial
theorem keeps_stall {w : Stall} : Keeps (.error (.stall w)) := keeps_stop trivial
theorem keeps_ite {p : Prop} [Decidable p] {r r' : Except Stop (Ctx → Done)} (h : Keeps r) (h' : Keeps r') : Keeps (if p then r else r') := by
  split <;> assumption
theorem keeps_orNothing {c : Ctx} {r : Except Stop (Ctx → Done)} (h : Keeps r) : Keeps (orNothing c r) := keeps_ite (keeps_ok fun _ h => h) h
theorem keeps_withTile {c : Ctx} {t : TileNo} {r : Except Stop (Ctx → Done)} (h : Keeps r) : Keeps (withTile c t r) := keeps_ite h keeps_raise

end

section
variable {c : Ctx}
theorem longResult_keeps {w : Ctx → RegWrites} {tr : Bool} {rs : Ctx → Nat} : Keeps (longResult w tr rs c) := keeps_ok fun _ hc => op_canonical hc
theorem result_keeps {w : Ctx → RegWrites} {tr : Bool} {rs : Ctx → Nat} : Keeps (result w tr rs c) := keeps_ok fun _ hc => act_canonical hc
theorem loadPlaces_keeps {pol : Policy} {z : Size} {dest : Reg} {extra : List (Nat × Nat)} {ps : List Place} (h : c.d.canonical) : Keeps (loadPlaces c pol z dest extra ps) := by
  simp only [loadPlaces]
  split
  · exact keeps_stall
  · split
    · exact keeps_stall
    · split
      · exact keeps_stall
      · exact keeps_ok fun _ hc => op_canonical (laneValues_canonical h ‹_›)
theorem ldBody_keeps {f : LdF} (h : c.d.canonical) : Keeps (ldBody f c) := by
  simp only [ldBody]
  refine keeps_orNothing ?_
  split
  · exact keeps_stop (placeLanes_stop ‹_›)
  · exact loadPlaces_keeps h
theorem stBody_keeps {f : StF} : Keeps (stBody f c) := by
  simp only [stBody]
  refine keeps_orNothing ?_
  split
  · exact keeps_stop (placeLanes_stop ‹_›)
  · split
    · exact keeps_stall
    · split
      · exact keeps_stall
      · exact keeps_ok fun _ hc => op_canonical (dropLines_canonical (noteBlocks_canonical (modGroup_canonical hc)))
theorem ldSpBody_keeps {f : LdF} : Keeps (ldSpBody f c) := by
  simp only [ldSpBody]
  refine keeps_orNothing ?_
  split
  · exact keeps_stop (windowLanes_stop ‹_›)
  · split
    · exact keeps_stall
    · exact keeps_ok fun _ hc => op_canonical hc
theorem stSpBody_keeps {f : StF} : Keeps (stSpBody f c) := by
  simp only [stSpBody]
  refine keeps_orNothing ?_
  split
  · exact keeps_stop (windowLanes_stop ‹_›)
  · split
    · exact keeps_stall
    · exact keeps_ok fun _ hc => op_canonical (modTeam_canonical hc)
theorem ldVerBody_keeps {f : LdVerF} : Keeps (ldVerBody f c) := by
  simp only [ldVerBody]
  refine keeps_orNothing ?_
  split
  · exact keeps_stop (placeLanes_stop ‹_›)
  · split
    · exact keeps_stop (placeLanes_stop ‹_›)
    · exact keeps_ok fun _ hc => op_canonical (openHome_canonical hc)
theorem stVerBody_keeps {f : StF} : Keeps (stVerBody f c) := by
  simp only [stVerBody]
  refine keeps_orNothing ?_
  split
  · exact keeps_stop (placeLanes_stop ‹_›)
  · split
    · exact keeps_stall
    · exact keeps_ok fun _ hc => op_canonical (dropLines_canonical (noteBlocks_canonical (canonical_foldl (fun _ _ h => openHome_canonical h) hc)))
theorem sealBody_keeps {a : RegOpd} {off : MOff} : Keeps (sealBody a off c) := by
  simp only [sealBody]
  split
  · exact keeps_stop (wholeGroup_stop (fun _ => placeLanes_stop) ‹_›)
  · exact keeps_ok fun _ hc => act_canonical (holdEffect_canonical (openHome_canonical hc))
theorem ldRagBody_keeps {f : LdRagF} (h : c.d.canonical) : Keeps (ldRagBody f c) := by
  simp only [ldRagBody]
  refine keeps_orNothing ?_
  split
  · exact keeps_stop (shape_stop ‹_›)
  · split
    · exact keeps_stop (placeLanes_stop ‹_›)
    · split
      · exact keeps_raise
      · exact loadPlaces_keeps h
theorem atomBody_keeps {f : AtomF} : Keeps (atomBody f c) := by
  simp only [atomBody]
  refine keeps_orNothing ?_
  split
  · exact keeps_stop (placeLanes_stop ‹_›)
  · split
    · exact keeps_stall
    · exact keeps_ok fun _ hc => op_canonical (dropLines_canonical (noteBlocks_canonical (canonical_foldl (fun _ _ h => sendAtomic_canonical h) hc)))
theorem heldRed_keeps {opcode align : Nat} {kind : AgKind} {a : Reg} {off : MOff} {x : Ctx → Nat → Nat} : Keeps (heldRed opcode align kind a off x c) := by
  simp only [heldRed]
  refine keeps_orNothing ?_
  split
  · exact keeps_stop (placeLanes_stop ‹_›)
  · exact keeps_ok fun _ hc => act_canonical (holdEffect_canonical hc)
theorem lkBody_keeps {f : LkF} (h : c.d.canonical) : Keeps (lkBody f c) := by
  simp only [lkBody]
  split
  · exact keeps_ok fun _ hc => wait_canonical (beginWait_canonical hc)
  · exact keeps_stop (lockPlace_stop h ‹_›)
  · exact keeps_raise
theorem lktryBody_keeps {f : LkF} (h : c.d.canonical) : Keeps (lktryBody f c) := by
  simp only [lktryBody]
  split
  · exact keeps_stop (lockPlace_stop h ‹_›)
  · split
    · exact keeps_stall
    · exact keeps_ok fun _ hc => done_ite (act_canonical (takeLock_canonical (acquire_canonical (mergeClock_canonical (modSlice_canonical hc))))) (act_canonical hc)
theorem unlkBody_keeps {a : RegOpd} : Keeps (unlkBody a c) := by
  simp only [unlkBody]
  split
  · split
    · exact keeps_raise
    · exact keeps_ok fun _ hc => act_canonical (holdEffect_canonical hc)
  · exact keeps_raise
theorem releaseOp_canonical {scope : Scope} {act : Nat → RelAct} (h : c.d.canonical) : (releaseOp scope act c).canonical := op_canonical (modGroup_canonical h)
theorem fenceBody_keeps {sem : FenceSem} {scope : Scope} : Keeps (fenceBody sem scope c) := by
  simp only [fenceBody]
  split
  · exact keeps_stall
  · refine keeps_ok fun c hc => ?_
    split
    · exact act_canonical (canonical_ite hc (acquireFence_canonical hc))
    · exact releaseOp_canonical hc
    · exact releaseOp_canonical hc
theorem arriveBody_keeps {n : Ctx → Nat} {waits : Bool} : Keeps (arriveBody n waits c) := by
  simp only [arriveBody]
  split
  · exact keeps_raise
  · exact keeps_ok fun _ hc => releaseOp_canonical hc
theorem waitCtrBody_keeps {sd : SReg} {a v : RegOpd} {t : Option Word} : Keeps (waitCtrBody sd a v t c) := by
  simp only [waitCtrBody]
  split
  · exact keeps_stop (wholeGroup_stop (fun _ => placeLane_stop) ‹_›)
  · exact keeps_ok fun _ hc => wait_canonical (sendAtomic_canonical (beginWait_canonical hc))
theorem postBody_keeps {d : SReg} {a v : RegOpd} {n : MOff} : Keeps (postBody d a v n c) := by
  simp only [postBody]
  refine keeps_ok fun c hc => ?_
  split
  · exact act_canonical hc
  · exact act_canonical (holdEffect_canonical (setDrawer_canonical hc))
theorem dcntBody_keeps {a : RegOpd} {n : MOff} : Keeps (dcntBody a n c) := by
  simp only [dcntBody]
  refine keeps_orNothing ?_
  exact keeps_ok fun _ hc => act_canonical (holdEffect_canonical hc)
theorem remoteFetch_keeps {a : Reg} {off : MOff} {n : Nat} {kind : RemoteKind} {dest : Reg} {pn : Option Nat} {closes : Bool} {x xn : Ctx → Nat → Nat} : Keeps (remoteFetch a off n kind dest pn closes x xn c) := by
  simp only [remoteFetch]
  refine keeps_orNothing ?_
  split
  · exact keeps_raise
  · exact keeps_ok fun _ hc => done_ite (op_canonical (sendRequest_canonical hc)) (part_canonical (sendRequest_canonical hc))
theorem remoteHeld_keeps {opcode : Nat} {a : Reg} {off : MOff} {n : Nat} {kind : RemoteKind} {x xn : Ctx → Nat → Nat} : Keeps (remoteHeld opcode a off n kind x xn c) := by
  simp only [remoteHeld]
  refine keeps_orNothing ?_
  split
  · exact keeps_raise
  · exact keeps_ok fun _ hc => act_canonical (canonical_foldl (fun _ _ h => holdEffect_canonical h) hc)
theorem nameGetDone_canonical {sd : SReg} (h : c.d.canonical) : (nameGetDone sd c).canonical := by
  rw [nameGetDone]
  split
  · exact act_canonical h
  · split
    · exact act_canonical h
    · exact act_canonical (modGroup_canonical h)
theorem nameFreeDone_canonical (h : c.d.canonical) : (nameFreeDone c).canonical := done_ite (act_canonical h) (act_canonical (modGroup_canonical h))
theorem holdBody_keeps {vr : VReg} {n : MOff} : Keeps (holdBody vr n c) := by
  simp only [holdBody]
  split
  · exact keeps_raise
  · split
    · exact keeps_raise
    · exact keeps_ok fun _ hc => act_canonical (modGroup_canonical hc)
theorem rstBody_keeps {a : RegOpd} {vt : VReg} {b : MOff} : Keeps (rstBody a vt b c) := by
  simp only [rstBody]
  refine keeps_orNothing ?_
  exact keeps_ok fun _ hc => act_canonical (holdEffect_canonical hc)
theorem mresDone_canonical {pd : PReg} {m : SL} (h : c.d.canonical) : (mresDone pd m c).canonical := act_canonical (canonical_ite (canonical_foldl (fun _ _ h => modCore_canonical h) h) h)
theorem mrelBody_keeps {m : SL} : Keeps (mrelBody m c) := by
  simp only [mrelBody]
  split
  · exact keeps_stall
  · exact keeps_ok fun _ hc => act_canonical (modCore_canonical hc)
theorem mmaBody_keeps {f : MmaF} (h : c.d.canonical) : Keeps (mmaBody f c) := by
  simp only [mmaBody]
  refine keeps_withTile ?_
  split
  · exact keeps_stop (mmaShape_stop ‹_›)
  · split
    · exact keeps_raise
    · split
      · exact keeps_ok fun _ hc => act_canonical hc
      · split
        · exact keeps_stop (mmaFetch_stop ‹_›)
        · refine keeps_ok fun c hc => ?_
          refine op_canonical (mmaShelf_canonical ?_)
          exact mmaFetch_canonical h ‹_›
theorem accLdBody_keeps {f : AccMemF} (h : c.d.canonical) : Keeps (accLdBody f c) := by
  simp only [accLdBody]
  refine keeps_withTile ?_
  split
  · exact keeps_stop trivial
  · refine keeps_orNothing ?_
    split
    · split
      · exact keeps_stop (windowSpans_stop ‹_›)
      · exact keeps_ok fun _ hc => op_canonical hc
    · split
      · exact keeps_stop (checkRanges_stop ‹_›)
      · split
        · exact keeps_stall
        · exact keeps_stall
        · exact keeps_ok fun _ hc => op_canonical (thruParts_canonical h ‹_›)
theorem accStBody_keeps {f : AccMemF} : Keeps (accStBody f c) := by
  simp only [accStBody]
  refine keeps_withTile ?_
  split
  · exact keeps_stop trivial
  · split
    · exact keeps_ok fun _ hc => act_canonical hc
    · split
      · split
        · exact keeps_stop (windowSpans_stop ‹_›)
        · exact keeps_ok fun _ hc => op_canonical (modTeam_canonical hc)
      · split
        · exact keeps_stop (checkRanges_stop ‹_›)
        · split
          · exact keeps_stall
          · split
            · exact keeps_stall
            · exact keeps_ok fun _ hc => op_canonical (dropLines_canonical (noteBlocks_canonical (modGroup_canonical hc)))
theorem tileAct_canonical {ws : List (Nat × Nat × Word)} {w : RegWrites} (h : c.d.canonical) : (tileAct c ws w).canonical := act_canonical (writeTiles_canonical h)
theorem osmUpdDone_canonical {f : OsmF} (h : c.d.canonical) : (osmUpdDone f c).canonical := tileAct_canonical h
theorem osmFinDone_canonical {t : TileNo} {a : VReg} (h : c.d.canonical) : (osmFinDone t a c).canonical := tileAct_canonical h
theorem ragBody_keeps {sh : ShapeNo} {one : Bool} {row0 : SL} {w : Snapshot → Ctx → RegWrites} : Keeps (ragBody sh one row0 w c) := by
  simp only [ragBody]
  split
  · exact keeps_stop (shape_stop ‹_›)
  · split
    · exact keeps_raise
    · exact keeps_ok fun _ hc => act_canonical hc
theorem shLdBody_keeps {sh : ShapeNo} {a : SReg} : Keeps (shLdBody sh a c) := by
  simp only [shLdBody]
  split
  · exact keeps_stop (wholeGroup_stop (fun _ => placeLane_stop) ‹_›)
  · exact keeps_ok fun _ hc => op_canonical hc
theorem shChkBody_keeps {pd : PReg} {sh : ShapeNo} (h : c.d.canonical) : Keeps (shChkBody pd sh c) := by
  simp only [shChkBody]
  split
  · exact keeps_stop (shape_stop ‹_›)
  · split
    · exact keeps_stop (readRange_stop ‹_›)
    · split
      · exact keeps_raise
      · exact keeps_ok fun _ hc => act_canonical (readRange_canonical h ‹_›)
theorem acceptCopy_canonical {sd : Option SReg} {o : CopyOp} {bytes : Nat} (h : c.d.canonical) : (acceptCopy c sd o bytes).canonical := by
  have accepted := tlAccept_canonical (tid := c.g.team) (tl := o.tl) h
  simp only [acceptCopy]
  exact act_canonical (canonical_ite (timelineDone_canonical accepted) accepted)
theorem cpBody_keeps {f : CpF} : Keeps (cpBody f c) := by
  simp only [cpBody]
  split
  · exact keeps_raise
  · split
    · exact keeps_stall
    · exact keeps_ok fun _ hc => acceptCopy_canonical hc
theorem cpGatherBody_keeps {f : CpGatherF} : Keeps (cpGatherBody f c) := by
  simp only [cpGatherBody]
  split
  · exact keeps_raise
  · split
    · exact keeps_raise
    · split
      · exact keeps_raise
      · split
        · exact keeps_stall
        · exact keeps_ok fun _ hc => acceptCopy_canonical hc
theorem tlRdDone_canonical {d : SReg} {tl : TimelineNo} (h : c.d.canonical) : (tlRdDone d tl c).canonical := act_canonical (modGroup_canonical h)
theorem tlRdErrDone_canonical {sd : SReg} {tl : TimelineNo} (h : c.d.canonical) : (tlRdErrDone sd tl c).canonical := act_canonical (modTeam_canonical h)
theorem tlWaitDone_canonical {tl : TimelineNo} {n : SL} (h : c.d.canonical) : (tlWaitDone tl n c).canonical :=
  done_ite (act_canonical h) (done_ite (act_canonical (acquire_canonical (mergeClock_canonical h))) (wait_canonical (beginWait_canonical h)))
theorem collPutBody_keeps {sa : SReg} {k : SL} {ss : SReg} : Keeps (collPutBody sa k ss c) := by
  simp only [collPutBody]
  split
  · exact keeps_stop (collBinding_stop ‹_›)
  · split
    · exact keeps_stop (collChunk_stop ‹_›)
    · split
      · exact keeps_stop (collRange_stop ‹_›)
      · exact keeps_ok fun _ hc => act_canonical (holdEffect_canonical hc)
theorem collQuorumBody_keeps {sa : SReg} {qf : SL} : Keeps (collQuorumBody sa qf c) := by
  simp only [collQuorumBody]
  split
  · exact keeps_stop (collBinding_stop ‹_›)
  · split
    · exact keeps_raise
    · exact keeps_ok fun _ hc => act_canonical (evalCollective_canonical hc)
theorem collCloseBody_keeps {sa : SReg} {k : SL} : Keeps (collCloseBody sa k c) := by
  simp only [collCloseBody]
  split
  · exact keeps_stop (collBinding_stop ‹_›)
  · split
    · exact keeps_stop (collChunk_stop ‹_›)
    · exact keeps_ok fun _ hc => act_canonical (collCloseNow_canonical hc)
theorem collGetBody_keeps {sd sa : SReg} {k : SL} {sdst : SReg} : Keeps (collGetBody sd sa k sdst c) := by
  simp only [collGetBody]
  split
  · exact keeps_stop (collBinding_stop ‹_›)
  · split
    · exact keeps_stop (collChunk_stop ‹_›)
    · split
      · exact keeps_stop (collRange_stop ‹_›)
      · exact keeps_ok fun _ hc => op_canonical hc
theorem stepAdvDone_canonical {sd : SReg} {t : Option Word} (h : c.d.canonical) : (stepAdvDone sd t c).canonical := by
  unfold stepAdvDone
  split
  · generalize leadOk _ _ _ = ok
    cases ok
    · exact wait_canonical (beginWait_canonical h)
    · exact act_canonical (advanceStep_canonical h)
  · exact act_canonical (advanceStep_canonical h)
theorem stepRdBody_keeps {sd : SReg} {p : SL} : Keeps (stepRdBody sd p c) := by
  simp only [stepRdBody]
  split
  · exact keeps_raise
  · exact keeps_ok fun _ hc => act_canonical hc
theorem hcmdBody_keeps {tl : TimelineNo} {sn : SReg} : Keeps (hcmdBody tl sn c) := by
  simp only [hcmdBody]
  split
  · exact keeps_raise
  · split
    · exact keeps_stop (hutchTranslate_stop ‹_›)
    · split
      · exact keeps_stop trivial
      · split
        · exact keeps_raise
        · exact keeps_ok fun _ hc => act_canonical (holdEffect_canonical hc)
theorem takeBody_keeps {sd : SReg} {n : SL} : Keeps (takeBody sd n c) := by
  simp only [takeBody]
  split
  · exact keeps_raise
  · split
    · exact keeps_stall
    · exact keeps_ok fun _ hc => op_canonical (modCore_canonical hc)
theorem stealDone_canonical {k : SL} (h : c.d.canonical) : (stealDone k c).canonical := act_canonical (canonical_ite h (modCore_canonical h))
theorem gwLaunchBody_keeps {sd sa : SReg} : Keeps (gwLaunchBody sd sa c) := by
  simp only [gwLaunchBody]
  split
  · exact keeps_stall
  · split
    · exact keeps_stop (wholeGroup_stop (fun _ => placeLanes_stop) ‹_›)
    · exact keeps_ok fun _ hc => op_canonical (modGroup_canonical hc)
theorem migDone_canonical {sd : SReg} {t : Nat} (h : c.d.canonical) : (migDone sd t c).canonical :=
  done_ite (op_canonical (departGroup_canonical (modCore_canonical h))) (act_canonical (modCore_canonical h))
theorem migBody_keeps {sd : SReg} {k : SL} : Keeps (migBody sd k c) := by
  simp only [migBody]
  split
  · exact keeps_stall
  · exact keeps_ok fun _ hc => migDone_canonical hc
theorem migNearBody_keeps {sd sa : SReg} : Keeps (migNearBody sd sa c) := by
  simp only [migNearBody]
  split
  · exact keeps_stall
  · split
    · exact keeps_stop (wholeGroup_stop (fun _ => placeLane_stop) ‹_›)
    · exact keeps_ok fun _ hc => migDone_canonical hc
theorem jumpTo_canonical {target : DWord} (h : c.d.canonical) : (jumpTo c target).canonical := jump_canonical (modGroup_canonical h)
theorem braDone_canonical {g : Option Guard} {all : Bool} {off : BitVec 30} (h : c.d.canonical) : (braDone g all off c).canonical := done_ite (jumpTo_canonical h) (act_canonical h)
theorem defer_canonical {target merge : DWord} (h : c.d.canonical) : (defer c target merge).canonical := jump_canonical (modGroup_canonical h)
theorem brdBody_keeps {off : BitVec 30} {merge : Option Word} : Keeps (brdBody off merge c) := by
  simp only [brdBody]
  split
  · exact keeps_ok fun _ hc => act_canonical hc
  · split
    · exact keeps_ok fun _ hc => jumpTo_canonical hc
    · split
      · split
        · exact keeps_raise
        · exact keeps_ok fun _ hc => jump_canonical (modGroup_canonical hc)
      · split
        · exact keeps_raise
        · exact keeps_ok fun _ hc => defer_canonical hc
theorem mergeDone_canonical (h : c.d.canonical) : (mergeDone c).canonical := jump_canonical (modGroup_canonical h)
theorem callDone_canonical {link : Reg} {off : BitVec 30} (h : c.d.canonical) : (callDone link off c).canonical := jump_canonical (landResult_canonical (jumpTo_canonical h))
theorem computedBody_keeps {target : Ctx → Nat → DWord} : Keeps (computedBody target c) := by
  simp only [computedBody]
  split
  · exact keeps_ok fun _ hc => jumpTo_canonical hc
  · split
    · exact keeps_ok fun _ hc => jump_canonical (modGroup_canonical hc)
    · exact keeps_raise
theorem haltDone_canonical (h : c.d.canonical) : (haltDone c).canonical := done_ite (act_canonical h) (done_ite (jump_canonical (modGroup_canonical h)) (jump_canonical (modGroup_canonical h)))
theorem yieldDone_canonical (h : c.d.canonical) : (yieldDone c).canonical := act_canonical h
theorem rgnBody_keeps {f : RgnF} : Keeps (rgnBody f c) := by
  simp only [rgnBody]
  split
  · exact keeps_raise
  · split
    · exact keeps_raise
    · exact keeps_ok fun _ hc => jump_canonical (modGroup_canonical hc)
theorem xacqBody_keeps {n : BitVec 8} : Keeps (xacqBody n c) := by
  simp only [xacqBody]
  split
  · exact keeps_raise
  · exact keeps_ok fun _ hc => done_ite (act_canonical (takeChunks_canonical hc)) (wait_canonical (beginWait_canonical (modCore_canonical hc)))
theorem xrelBody_keeps {n : BitVec 8} : Keeps (xrelBody n c) := by
  simp only [xrelBody]
  split
  · exact keeps_raise
  · exact keeps_ok fun _ hc => act_canonical (grantChunks_canonical (giveChunks_canonical hc))
theorem sysWrBody_keeps {n : Nat} {sc : SReg} : Keeps (sysWrBody n sc c) := by
  simp only [sysWrBody]
  split
  · exact keeps_raise
  · exact keeps_raise
  · exact keeps_ok fun _ hc => act_canonical (ctlWrite_canonical hc)

end

/-! What an instruction that issues leaves (R107, R128). -/

/-- Every stop that may be answered is canonical. -/
def StopsKeep (o : Option Stop) : Prop := ∀ e, o = some e → e.canonical
theorem stopsKeep_none : StopsKeep none := by
  intro e he
  cases he
theorem stopsKeep_some {x : Stop} (hx : x.canonical) : StopsKeep (some x) := by
  intro e he
  cases he
  exact hx
theorem stopsKeep_ite {p : Prop} [Decidable p] {o o' : Option Stop} (h : StopsKeep o) (h' : StopsKeep o') : StopsKeep (if p then o else o') := by
  split <;> assumption
theorem gate_stop {i : Instr} {c : Ctx} : StopsKeep (gate i c) := by
  have stall {w : Stall} : StopsKeep (some (.stall w)) := stopsKeep_some trivial
  have raise {e : Exc} : StopsKeep (some (.raise e)) := stopsKeep_some trivial
  have raises := stopsKeep_ite (p := matchHit c = true) (@raise (Exc.of .breakpoint)) (stopsKeep_ite (p := (uses i).unheld c.g = true) (@raise (Exc.of .unheldRegister)) (stopsKeep_ite (p := (uses i).lost c.g c.sp = true) (@raise (Exc.of .transientLost)) stopsKeep_none))
  exact stopsKeep_ite stall (stopsKeep_ite stall (stopsKeep_ite stall (stopsKeep_ite stall (stopsKeep_ite stall (stopsKeep_ite stall (stopsKeep_ite stall (stopsKeep_ite stopsKeep_none raises)))))))
theorem issue_canonical {i : Instr} {c : Ctx} {body : Ctx → Except Stop (Ctx → Done)} {d : Device} (h : c.d.canonical) (hb : ∀ c : Ctx, c.d.canonical → Keeps (body c)) (he : issue i c body = some d) : d.canonical := by
  have early : (if closesEarly i then closeHere i c else c).d.canonical := by
    split
    · exact closeHere_canonical h
    · exact h
  simp only [issue] at he
  generalize (if closesEarly i then closeHere i c else c) = c' at early he
  split at he
  · exact onStop_canonical h (gate_stop _ ‹_›) he
  · split at he
    · cases he
      exact holdWait_canonical h ‹_›
    · split at he
      · cases he
        exact early
      · obtain ⟨stops, meets⟩ := hb c' early
        split at he
        · exact onStop_canonical early (stops _ ‹_›) he
        · split at he
          · cases he
            exact spillEffects_canonical early
          · split at he
            · split at he <;> cases he
              · exact closeHere_canonical early
              · exact retire_canonical (meets _ ‹_› _ (closeHere_canonical early))
            · cases he
              exact retire_canonical (meets _ ‹_› _ early)
theorem ctxOf_dev {P : Platform} {d : Device} {gid k : Nat} {g : Option Guard} {c : Ctx} (he : ctxOf P d gid k g = some c) : c.d = d := by
  simp only [ctxOf] at he
  split at he
  · cases he
  · obtain ⟨sp, -, rfl⟩ := Option.map_eq_some_iff.1 he
    rfl

/-! Outcomes. -/

section
variable {s : State}

theorem ends_next {t : State} (h : t.dev.canonical) : Ends (.next t) := by
  intro u he
  cases he
  exact h
theorem ends_fault {f : Fault} : Ends (.fault f) := by
  intro t he
  simp only [reduceCtorEq] at he
theorem ends_refused {r : Refusal} : Ends (.refused r) := by
  intro t he
  simp only [reduceCtorEq] at he
theorem ends_code {i : Instr} {g : Option Guard} {body : Ctx → Except Stop (Ctx → Done)} (h : s.dev.canonical) (hb : ∀ c : Ctx, c.d.canonical → Keeps (body c)) : Ends (runCode i g s body) := by
  simp only [runCode]
  split
  · exact ends_fault
  · split
    · exact ends_fault
    · next hc =>
      split
      · exact ends_next (issue_canonical (by rw [ctxOf_dev hc]; exact h) hb ‹_›)
      · exact ends_fault
theorem ends_event {f : Platform → Device → Device} (hf : (f s.plat s.dev).canonical) : Ends (runEvent s f) := ends_next hf
theorem ends_walk {f : Platform → Device → Option Device} (hf : ∀ d, f s.plat s.dev = some d → d.canonical) : Ends (runWalk s f) := by
  simp only [runWalk]
  split
  · exact ends_next (hf _ ‹_›)
  · exact ends_fault
theorem ends_platform {f : Platform → Device → Platform × Device} (hf : (f s.plat s.dev).2.canonical) : Ends (runPlatform s f) := ends_next hf
theorem ends_monitor {bit : Nat} {h : HostTag} {bits : Word} (hs : s.dev.canonical) : Ends (monWrite bit h bits s) := by
  refine ends_platform ?_
  split
  · exact regWrites_canonical hs
  · exact hs

end

/-! The fetch of a clause (R122, R131). -/

/-- The device that a fetch leaves has its memory in canonical form. -/
def Fetched.canonical : Fetched → Prop
  | .ok _ d => d.canonical
  | _ => True
/-- The device that an entry leaves has its memory in canonical form. -/
def Entered.canonical : Entered → Prop
  | .ok d | .miss _ _ d => d.canonical
  | _ => True

section
variable {P : Platform} {d : Device} {g : Machine.Group}

theorem fetchWord_canonical {va : DWord} {idx : Nat} (h : d.canonical) : (fetchWord P d g va idx).canonical := by
  simp only [fetchWord]
  split
  · exact h
  · split
    · trivial
    · trivial
    · trivial
    · split
      · trivial
      · split
        · trivial
        · next hl =>
          have line := l2Line_canonical h hl
          exact canonical_ite line (modCore_canonical line)
theorem fetchRun_canonical {idx n : Nat} {va : DWord} (h : d.canonical) : (fetchRun P g idx n d va).canonical := by
  induction n generalizing d va with
  | zero => exact h
  | succ n ih =>
    have word := fetchWord_canonical (P := P) (g := g) (va := va) (idx := idx) h
    simp only [fetchRun]
    split
    · rw [‹fetchWord P d g va idx = _›] at word
      have rest := ih (va := va + 4) word
      split
      · rw [‹fetchRun P g idx n _ _ = _›] at rest
        exact rest
      · exact rest
    · exact word
theorem fetchInstrs_canonical {idx n : Nat} {va : DWord} (h : d.canonical) : (fetchInstrs P g n idx d va).canonical := by
  induction n generalizing idx d va with
  | zero => exact h
  | succ n ih =>
    have word := fetchWord_canonical (P := P) (g := g) (va := va) (idx := idx) h
    simp only [fetchInstrs]
    split
    · next ws e he =>
      rw [he] at word
      have run := fetchRun_canonical (P := P) (g := g) (idx := idx) (n := wordsAt (ws.headD 0) - 1) (va := va + 4) word
      split
      · next vs e hv =>
        rw [hv] at run
        have rest := ih (idx := idx + 1) (va := va + BitVec.ofNat 64 (4 * (1 + vs.length))) run
        split
        · rw [‹fetchInstrs P g n _ _ _ = _›] at rest
          exact rest
        · exact rest
      · exact run
    · exact word
theorem enterClause_canonical {k : Nat} {sp : Split} (h : d.canonical) : (enterClause P d g k sp).canonical := by
  have header := fetchWord_canonical (P := P) (g := g) (va := sp.pc &&& ~~~(3#64)) (idx := 0) h
  simp only [enterClause]
  split
  · exact h
  · trivial
  · trivial
  · next ws e he =>
    rw [he] at header
    have instrs := fetchInstrs_canonical (P := P) (g := g) (n := hdrWords (ws.headD 0)) (idx := 1) (va := (sp.pc &&& ~~~(3#64)) + 4) header
    split
    · exact header
    · trivial
    · trivial
    · next is e hi =>
      rw [hi] at instrs
      split
      · trivial
      · split
        · trivial
        · split
          · trivial
          · exact modGroup_canonical instrs

end

section
variable {s : State}

theorem remapWrite_ends {h : HostTag} {peer : Nat} {data : RegData} (hs : s.dev.canonical) : Ends (execRemapWrite h peer data s) := by
  refine ends_platform ?_
  split
  · exact regWrites_canonical hs
  · exact hs
theorem resmapWrite_ends {h : HostTag} {entry off : Nat} {width : Word} {data : DWord} (hs : s.dev.canonical) : Ends (execResmapWrite h entry off width data s) := by
  refine ends_platform ?_
  split
  · exact regWrites_canonical hs
  · exact hs
theorem identMessage_ends {h : HostTag} (hs : s.dev.canonical) : Ends (execIdentMessage h s) := by
  refine ends_platform ?_
  exact canonical_ite (replyTo_canonical hs) hs
theorem powerOn_ends (hs : s.dev.canonical) : Ends (execPowerOn s) := by
  refine ends_platform ?_
  exact restartDevice_canonical hs
theorem closeTimerExpiry_ends {chunk : Nat} (hs : s.dev.canonical) : Ends (execCloseTimerExpiry chunk s) := by
  refine ends_event ?_
  exact evalChunk_canonical hs

end

/-- Every instruction and event leaves memory in canonical form. -/
theorem exec_ends {s : State} (h : s.dev.canonical) : ∀ i : Instr, Ends (exec i s)
  | .nop | .addI32Short _ | .subI32Short _ | .andB32Short _ | .orB32Short _ | .xorB32Short _ | .movB32Short _ _ | .addF32Short _ | .mulF32Short _
  | .shlB32Short _ | .shrB32Short _ | .add _ | .sub _ | .mul _ | .mulhi _ | .mad _ | .divstep _ | .min _ | .max _ | .abs _ | .neg _ | .addc _ _
  | .subb _ _ | .lut3 _ | .shl _ | .shr _ | .sra _ | .rot _ | .popc _ | .clz _ | .bfe _ | .bfi _ | .brev _ | .bperm _ | .fma _ | .cvt _ _ _
  | .cvtPk _ _ | .bsPack _ | .bsUnpack _ | .cmp _ | .sel _ _ | .classOf _ | .shflIdx _ | .shflUp _ | .shflDn _ | .shflXor _ | .scan _ | .scanx _
  | .rdc _ | .vote _ _ _ _ | .ballot _ _ _ _ | .rnd _ _ _ _ _ | .mov _ | .rdlane _ | .wrlane _ | .plog _ | .ptov _ _ _ _ | .vtop _ _ _ | .sysRd _ _ => ends_code h fun _ _ => result_keeps
  | .rcp _ | .rsq _ | .sqrt _ | .exp2 _ | .log2 _ | .tanh _ | .sort _ _ => ends_code h fun _ _ => longResult_keeps
  | .resultArrival _ => ends_event (resultArrives_canonical h)
  | .brk _ _ | .trapCode _ => ends_code h fun _ _ => keeps_raise
  | .haltShort | .halt _ => ends_code h fun _ _ => keeps_ok fun _ hc => haltDone_canonical hc
  | .retShort | .ret _ | .jmp _ _ => ends_code h fun _ _ => computedBody_keeps
  | .yieldShort | .yield => ends_code h fun _ _ => keeps_ok fun _ hc => yieldDone_canonical hc
  | .ld _ => ends_code h fun _ h => ldBody_keeps h
  | .st _ => ends_code h fun _ _ => stBody_keeps
  | .ldSp _ => ends_code h fun _ _ => ldSpBody_keeps
  | .stSp _ => ends_code h fun _ _ => stSpBody_keeps
  | .ldVer _ => ends_code h fun _ _ => ldVerBody_keeps
  | .stVer _ => ends_code h fun _ _ => stVerBody_keeps
  | .sealVer _ _ => ends_code h fun _ _ => sealBody_keeps
  | .ldRag _ => ends_code h fun _ h => ldRagBody_keeps h
  | .atom _ => ends_code h fun _ _ => atomBody_keeps
  | .red _ | .redAddCf32 _ => ends_code h fun _ _ => heldRed_keeps
  | .lk _ => ends_code h fun _ h => lkBody_keeps h
  | .lktry _ => ends_code h fun _ h => lktryBody_keeps h
  | .unlk _ => ends_code h fun _ _ => unlkBody_keeps
  | .fence _ _ => ends_code h fun _ _ => fenceBody_keeps
  | .bar | .barWait | .arriveN _ | .arriveNNw _ => ends_code h fun _ _ => arriveBody_keeps
  | .waitCtr _ _ _ _ => ends_code h fun _ _ => waitCtrBody_keeps
  | .post _ _ _ _ => ends_code h fun _ _ => postBody_keeps
  | .dcnt _ _ _ => ends_code h fun _ _ => dcntBody_keeps
  | .raLd _ | .raAtom _ => ends_code h fun _ _ => remoteFetch_keeps
  | .raSt _ | .raRed _ => ends_code h fun _ _ => remoteHeld_keeps
  | .rst _ _ _ _ => ends_code h fun _ _ => rstBody_keeps
  | .hold _ _ => ends_code h fun _ _ => holdBody_keeps
  | .nameGet _ => ends_code h fun _ _ => keeps_ok fun _ hc => nameGetDone_canonical hc
  | .nameFree => ends_code h fun _ _ => keeps_ok fun _ hc => nameFreeDone_canonical hc
  | .mres _ _ => ends_code h fun _ _ => keeps_ok fun _ hc => mresDone_canonical hc
  | .mrel _ => ends_code h fun _ _ => mrelBody_keeps
  | .mma _ => ends_code h fun _ h => mmaBody_keeps h
  | .accLd _ => ends_code h fun _ h => accLdBody_keeps h
  | .accSt _ => ends_code h fun _ _ => accStBody_keeps
  | .accZero _ _ | .accMovToTile _ => ends_code h fun _ _ => keeps_withTile (keeps_ok fun _ hc => tileAct_canonical hc)
  | .accMovToVec _ => ends_code h fun _ _ => keeps_withTile (keeps_ok fun _ hc => act_canonical hc)
  | .osmUpd _ => ends_code h fun _ _ => keeps_withTile (keeps_ite keeps_raise (keeps_ok fun _ hc => osmUpdDone_canonical hc))
  | .osmFin _ _ _ _ => ends_code h fun _ _ => keeps_withTile (keeps_ok fun _ hc => osmFinDone_canonical hc)
  | .ragRdc _ | .ragNorm _ => ends_code h fun _ _ => ragBody_keeps
  | .shLd _ _ => ends_code h fun _ _ => shLdBody_keeps
  | .shChk _ _ => ends_code h fun _ h => shChkBody_keeps h
  | .cp _ => ends_code h fun _ _ => cpBody_keeps
  | .cpGather _ => ends_code h fun _ _ => cpGatherBody_keeps
  | .tlRd _ _ => ends_code h fun _ _ => keeps_ok fun _ hc => tlRdDone_canonical hc
  | .tlRdErr _ _ => ends_code h fun _ _ => keeps_ok fun _ hc => tlRdErrDone_canonical hc
  | .tlWait _ _ => ends_code h fun _ _ => keeps_ok fun _ hc => tlWaitDone_canonical hc
  | .collPut _ _ _ => ends_code h fun _ _ => collPutBody_keeps
  | .collQuorum _ _ => ends_code h fun _ _ => collQuorumBody_keeps
  | .collClose _ _ => ends_code h fun _ _ => collCloseBody_keeps
  | .collGet _ _ _ _ => ends_code h fun _ _ => collGetBody_keeps
  | .stepAdv _ _ => ends_code h fun _ _ => keeps_ok fun _ hc => stepAdvDone_canonical hc
  | .stepRd _ _ => ends_code h fun _ _ => stepRdBody_keeps
  | .hcmd _ _ => ends_code h fun _ _ => hcmdBody_keeps
  | .take _ _ => ends_code h fun _ _ => takeBody_keeps
  | .steal _ => ends_code h fun _ _ => keeps_ok fun _ hc => stealDone_canonical hc
  | .gwLaunch _ _ => ends_code h fun _ _ => gwLaunchBody_keeps
  | .mig _ _ => ends_code h fun _ _ => migBody_keeps
  | .migNear _ _ => ends_code h fun _ _ => migNearBody_keeps
  | .sysWr _ _ => ends_code h fun _ _ => sysWrBody_keeps
  | .bra _ _ _ => ends_code h fun _ _ => keeps_ok fun _ hc => braDone_canonical hc
  | .brd _ _ _ => ends_code h fun _ _ => brdBody_keeps
  | .mergeWait => ends_code h fun _ _ => keeps_ok fun _ hc => mergeDone_canonical hc
  | .call _ _ => ends_code h fun _ _ => keeps_ok fun _ hc => callDone_canonical hc
  | .rgn _ => ends_code h fun _ _ => rgnBody_keeps
  | .xacq _ => ends_code h fun _ _ => xacqBody_keeps
  | .xrel _ => ends_code h fun _ _ => xrelBody_keeps
  | .pendingTrapTake _ => ends_event (pendingTrap_canonical h)
  | .trapActResume | .trapActSkip | .trapActHalt => ends_event (trapActs_canonical h)
  | .xltInv _ => ends_code h fun _ _ => keeps_ok fun _ hc => act_canonical (dropLeaf_canonical hc)
  | .dbgIflush _ => ends_code h fun _ _ => keeps_ok fun _ hc => act_canonical (flushCode_canonical hc)
  | .ctlLeadWrite _ | .sbMemWrite _ _ => ends_code h fun _ _ => keeps_ok fun _ hc => act_canonical (sbEvaluate_canonical (modJob_canonical hc))
  | .decrementArrival _ => ends_event (decrementArrives_canonical h)
  | .waitDeadline _ => ends_event (waitExpires_canonical h)
  | .taskStart _ => ends_event (taskStarts_canonical h)
  | .swapGroups _ _ => ends_event (swapBlocked_canonical h)
  | .pendingMove _ _ => ends_event (pendingMoves_canonical h)
  | .agedPendingSwap _ _ => ends_event (agedSwap_canonical h)
  | .splitMerge _ => ends_event (splitsMerge_canonical h)
  | .deferralStep _ _ => ends_event (deferralSteps_canonical h)
  | .operationComplete _ _ => ends_event (operationCompletes_canonical h)
  | .storeSend _ => ends_event (storeSends_canonical h)
  | .storeAck _ _ => ends_event (storeAcks_canonical h)
  | .groupExit _ => ends_event (groupExits_canonical h)
  | .migrationArrival _ => ends_event (migrationArrives_canonical h)
  | .noticeArrival _ _ => ends_event (noticeArrives_canonical h)
  | .homeWriteMessage _ _ => ends_event (homeWrite_canonical h)
  | .atomicService _ => ends_event (atomicServes_canonical h)
  | .lockRequest _ => ends_event (lockRequests_canonical h)
  | .lockResend _ => ends_event (lockResends_canonical h)
  | .lockRelease _ => ends_event (lockReleases_canonical h)
  | .lockDeadline _ => ends_event (lockExpires_canonical h)
  | .versionStore _ => ends_event (versionStores_canonical h)
  | .slotFill _ => ends_event (slotFills_canonical h)
  | .versionSeal _ => ends_event (versionSeals_canonical h)
  | .versionLoad _ => ends_event (versionLoads_canonical h)
  | .stalenessTimeout _ => ends_event (stalenessEnds_canonical h)
  | .collapsePage _ => ends_event (collapse_canonical h)
  | .translationMiss _ => ends_event (missEnters_canonical h)
  | .walkComplete _ | .rewalk _ => ends_walk fun _ he => walkFirst_canonical h he
  | .missTimeout _ => ends_event (missTimesOut_canonical h)
  | .fatalFault _ => ends_event (fatalSpreads_canonical h)
  | .dumpSection _ => ends_event (dumpSteps_canonical h)
  | .cancelGraceExpiry _ => ends_event (graceExpires_canonical h)
  | .cancelDiscarding _ => ends_event (cancelDiscards_canonical h)
  | .teamPlace => ends_event (teamPlaces_canonical h)
  | .teamRestore => ends_event (teamRestores_canonical h)
  | .displacementStart => ends_event (displacementStarts_canonical h)
  | .swapOut _ => ends_event (swapsOut_canonical h)
  | .quantumExpiry _ => ends_event (quantumExpires_canonical h)
  | .ageLimitExpiry _ => ends_event (ageExpires_canonical h)
  | .phaseStart _ => ends_event (phaseStarts_canonical h)
  | .graphSubmit => ends_event (submitNext_canonical h)
  | .conditionRead _ => ends_event (conditionReads_canonical h)
  | .grabMessage _ => ends_event (grabs_canonical h)
  | .rangeReply _ => ends_event (rangeArrives_canonical h)
  | .emptyPool _ => ends_event (poolEmpty_canonical h)
  | .stealMessage _ => ends_event (stealArrives_canonical h)
  | .giveReply _ => ends_event (giveArrives_canonical h)
  | .noneReply _ => ends_event (noneArrives_canonical h)
  | .dryMessage _ => ends_event (dryArrives_canonical h)
  | .rstArrival _ => ends_event (rstArrives_canonical h)
  | .remoteRequest _ => ends_event (remoteArrives_canonical h)
  | .remoteResponse _ => ends_event (responseArrives_canonical h)
  | .requestTimeout _ => ends_event (requestTimesOut_canonical h)
  | .isolatedExpiry _ => ends_event (isolatedExpires_canonical h)
  | .probeSend _ => ends_event (probeSends_canonical h)
  | .probeAnswer _ => ends_event (probeAnswered_canonical h)
  | .probeTimeout _ => ends_event (probeTimesOut_canonical h)
  | .flitCrcFail _ _ => ends_event (flitFails_canonical h)
  | .channelRetrained _ _ => ends_event (channelBack_canonical h)
  | .sideboardSend _ => ends_event (sideboardSends_canonical h)
  | .sideboardReceipt _ _ _ => ends_event (sideboardArrives_canonical h)
  | .silenceTimeout _ _ => ends_event (silenceEnds_canonical h)
  | .contributionSend _ => ends_event (contributionSends_canonical h)
  | .contributionArrival _ => ends_event (contributionArrives_canonical h)
  | .closeTimerExpiry _ => closeTimerExpiry_ends h
  | .collGetLost _ _ => ends_event (getsLost_canonical h)
  | .resend _ => ends_event (resends_canonical h)
  | .copyComplete _ => ends_event (copyCompletes_canonical h)
  | .hutchEnqueue _ => ends_event (hutchEnqueues_canonical h)
  | .hutchFupd _ | .hutchScale _ | .hutchFade _ | .hutchCopy _ | .hutchCksum _ => ends_event (hutchRuns_canonical h)
  | .mirrorSend => ends_platform (mirrorSends_canonical h)
  | .mirrorArrival _ => ends_event (mirrorArrives_canonical h)
  | .snapshotWrite => ends_platform (snapshotWrites_canonical h)
  | .fillPages _ => ends_platform (fillMoves_canonical h)
  | .admitJob _ _ => ends_platform (hostCommand_canonical (admits_canonical h) h)
  | .hostWrite _ _ _ _ => ends_platform (hostCommand_canonical (hostWrites_canonical h) h)
  | .appendPhase _ _ _ => ends_platform (whenReady_canonical (phaseCommand_canonical h) h)
  | .cancelObject _ _ _ _ => ends_platform (hostCommand_canonical (cancels_canonical h) h)
  | .retireJob _ _ => ends_platform (hostCommand_canonical (retires_canonical h) h)
  | .regRead _ _ _ => ends_platform (regReads_canonical h)
  | .regWrite _ _ _ _ | .warmStart _ | .coldStart _ | .fwCommit _ | .hostPortsWrite _ _ => ends_platform (regWrites_canonical h)
  | .identMessage _ => identMessage_ends h
  | .attestMessage _ _ => ends_platform (whenReady_canonical (replyTo_canonical h) h)
  | .storeReply _ => ends_platform (storeReplies_canonical h)
  | .monStart _ _ | .monStop _ _ | .monFreeze _ _ | .monClear _ _ => ends_monitor h
  | .remapWrite _ _ _ => remapWrite_ends h
  | .resmapWrite _ _ _ _ _ => resmapWrite_ends h
  | .powerOn => powerOn_ends h
  | .fuseDone => ends_platform (fuseReads_canonical h)
  | .signDone _ => ends_platform (signChecks_canonical h)
  | .hbmDone _ => ends_platform (hbmTrains_canonical h)
  | .bistDone _ => ends_platform (bistTests_canonical h)
  | .fabricDone _ => ends_platform (fabricTrains_canonical h)
  | .powerSample _ => ends_platform (powerSampled_canonical h)
  | .levelFall => ends_platform (levelFalls_canonical h)
  | .creditGrant _ _ => ends_event (creditArrives_canonical h)
  | .noticeAcknowledgement _ _ => ends_event (noticeAcked_canonical h)
  | .probeReceipt _ => ends_event (probeArrives_canonical h)
  | .identityRecordArrival _ _ => ends_event (identityArrives_canonical h)
  | .holdCopyRead _ => ends_event (holdCopyRead_canonical h)
  | .reservedHostMessage _ _ _ => ends_platform (whenReady_canonical (canonical_ite (replyTo_canonical h) h) h)

theorem takeCommand_ends {h : HostTag} {p : List Byte} {s : State} (hs : s.dev.canonical) : Ends (takeCommand h p s) := by
  simp only [takeCommand]
  split
  · split
    · exact ends_next hs
    · exact exec_ends hs (.admitJob h _)
  · split
    · exact exec_ends hs (.hostWrite h _ _ _)
    · exact ends_next hs
  · split
    · exact exec_ends hs (.appendPhase h _ _)
    · exact ends_next hs
  · split
    · split
      all_goals exact exec_ends hs (.cancelObject h _ _ _)
    · exact ends_next hs
  · split
    · exact exec_ends hs (.retireJob h _)
    · exact ends_next hs
  · exact exec_ends hs (.reservedHostMessage h _ _)
theorem takeMessage_ends {port : Nat} {bs : List Byte} {s : State} (hs : s.dev.canonical) : Ends (takeMessage port bs s) := by
  have pass {p : Prop} [Decidable p] {o : Host.Outcome State Fault Refusal} (ho : Ends o) : Ends (if p then .next s else o) := by
    split
    · exact ends_next hs
    · exact ho
  simp only [takeMessage]
  refine pass ?_
  split
  · exact pass (takeCommand_ends hs)
  · exact pass (exec_ends hs (.regRead _ _ _))
  · exact pass (exec_ends hs (.regWrite _ _ _ _))
  · exact exec_ends hs (.storeReply _)
  · exact ends_next hs
  · exact ends_next hs
  · exact ends_next hs
  · exact exec_ends hs (.identMessage _)
  · exact pass (exec_ends hs (.attestMessage _ _))
  · exact pass (exec_ends hs (.fillPages _))
  · exact exec_ends hs (.reservedHostMessage _ _ _)
theorem issueStep_ends {s : State} {gid k : Nat} {g : Machine.Group} {sp : Split} (h : s.dev.canonical) : Ends (issueStep s gid k g sp) := by
  simp only [issueStep]
  split
  · exact ends_next (markStall_canonical h)
  · split
    · exact exec_ends (s := { s with turn := .issue gid k }) h _
    · exact ends_next h
theorem splitStep_ends {s : State} {gid k : Nat} (h : s.dev.canonical) : Ends (splitStep s gid k) := by
  simp only [splitStep]
  split
  · exact ends_next h
  · next g _ =>
    split
    · exact ends_next h
    · next sp _ =>
      split
      · exact ends_next h
      · split
        · exact issueStep_ends h
        · have entered := enterClause_canonical (P := s.plat) (g := g) (k := k) (sp := sp) h
          split
          · exact ends_fault
          · rw [‹enterClause s.plat s.dev g k sp = _›] at entered
            exact ends_next (markStall_canonical (sendMiss_canonical entered))
          · exact ends_next (takeCheck_canonical h)
          · rw [‹enterClause s.plat s.dev g k sp = _›] at entered
            split
            · exact issueStep_ends entered
            · exact ends_next entered
/-- What follows a move keeps the form. -/
theorem finish_canonical {s : State} (h : s.dev.canonical) : s.finish.dev.canonical := freeSamples_canonical (sweep_canonical h)
theorem finishOutcome_ends {o : Host.Outcome State Fault Refusal} (h : Ends o) : Ends (finishOutcome o) := by
  cases o with
  | next s => exact ends_next (finish_canonical (h s rfl))
  | fault f => exact ends_fault
  | refused r => exact ends_refused
/-- Every step leaves memory in canonical form. -/
theorem step_ends {s : State} (h : s.dev.canonical) : Ends (step s) := by
  simp only [step]
  split
  · exact finishOutcome_ends (splitStep_ends h)
  · split
    · exact ends_next (finish_canonical h)
    · exact finishOutcome_ends (exec_ends h _)
  · exact finishOutcome_ends (takeMessage_ends h)

end Sys2Proof.Machine

namespace Sys2Proof
open Machine

/-- Settles O49: every move and what follows it leave memory in its canonical form, function by function. -/
theorem memoryStaysCanonical : Obligations.memory_stays_canonical := by
  unfold Obligations.memory_stays_canonical
  intro s t canonical stepped
  exact step_ends canonical t stepped

end Sys2Proof

/-! The sideboard, index ranges and launches (R211, R326 to R331, R358, R412). -/

namespace Sys2Proof.Machine
open Sys2Proof

/-! `step.adv` (R326, R412). -/

theorem advanceStep_stays {P : Platform} {c : Ctx} {d : Device} (h : c.stays d) : c.stays (advanceStep P d c.gid) := by
  obtain ⟨g, sp, hg, hk, hsp⟩ := h
  exact ⟨_, sp, find_advanceStep P hg, hk, hsp⟩
/-- A step that the job's rule allows is taken. -/
theorem stepAdvDone_allowed {r : SReg} {t : Option Word} {c : Ctx} (h : ((c.d.job c.g.job).all fun j => leadOk c.P j c.g.stepCur) = true) :
    stepAdvDone r t c = .act (advanceStep c.P c.d c.gid) (scaWrite r.val 0) false 0 := by
  unfold stepAdvDone
  cases hj : c.d.job c.g.job with
  | none => rfl
  | some j =>
    rw [hj, Option.all_some] at h
    exact if_pos h
/-- One that it does not allow waits. -/
theorem stepAdvDone_waits {r : SReg} {t : Option Word} {c : Ctx} {j : Job} (hj : c.d.job c.g.job = some j) (h : leadOk c.P j c.g.stepCur = false) :
    stepAdvDone r t c = .wait (beginWait c.d c.gid (.stepAdv r) 7 1 (if (t.getD 0).toNat = 0 then 0 else c.d.clock + (t.getD 0).toNat) 0 c.sp.here) := by
  unfold stepAdvDone
  rw [hj]
  exact if_neg (Bool.not_eq_true _ ▸ h)

/-! `step.rd` (R327). -/

theorem stepRdBody_ok {r : SReg} {p : SL} {c : Ctx} (h : slVal c.g c.sp p < 514) :
    okDone c (stepRdBody r p c) = some (.act c.d (scaWrite r.val (match c.d.job c.g.job with | some j => stepRead c.P j (slVal c.g c.sp p) | none => 0)) false 0) := by
  simp only [stepRdBody, if_neg (Nat.not_le.2 h)]
  rfl

/-! Index ranges (R329, R330, R358). -/

theorem takeBody_ok {r : SReg} {n : SL} {c : Ctx} (h1 : 1 ≤ slVal c.g c.sp n) (h2 : slVal c.g c.sp n ≤ 65536) (hl : takeLate c.d c.g = false) :
    okDone c (takeBody r n c) = some (.op (c.d.modCore c.g.core fun x =>
      { x with lastTake := some (c.d.clock, c.g.slot), takes := x.takes ++ [{ group := c.gid, op := c.d.nextId, launch := rangeLaunch c.d c.g, n := slVal c.g c.sp n, sd := r.val }] }) (Op.of .take RegWrites.none false) 0) := by
  have counts : ¬(slVal c.g c.sp n = 0 || decide (65536 < slVal c.g c.sp n)) = true := by simp; omega
  simp only [takeBody, if_neg counts, hl, Bool.false_eq_true, if_false]
  rfl
section
variable {k : SL} {c : Ctx}
/-- The request of a `steal` (R330). -/
def stealSent (k : SL) (c : Ctx) : Device := c.d.modCore (slVal c.g c.sp k) fun x => { x with steals := x.steals ++ [{ thief := c.g.core, launch := rangeLaunch c.d c.g, forTake := false, lo := 0, hi := 0 }] }
/-- R330 gives a `steal` an effect. -/
def mayStealAt (k : SL) (c : Ctx) : Prop :=
  slVal c.g c.sp k < 512 ∧ slVal c.g c.sp k ≠ c.g.core ∧ rangeLaunch c.d c.g ≠ 0 ∧ (rangesOf (c.d.core c.g.core) (rangeLaunch c.d c.g)).spareHi ≤ (rangesOf (c.d.core c.g.core) (rangeLaunch c.d c.g)).spareLo
theorem stealDone_sends (h : mayStealAt k c) : stealDone k c = .act (stealSent k c) RegWrites.none false 0 := by
  obtain ⟨h1, h2, h3, h4⟩ := h
  refine congrArg (Done.act · RegWrites.none false 0) (if_neg ?_)
  simp
  omega
theorem stealDone_nothing (h : ¬mayStealAt k c) : stealDone k c = .act c.d RegWrites.none false 0 := by
  refine congrArg (Done.act · RegWrites.none false 0) (if_pos ?_)
  simp only [mayStealAt] at h
  simp
  omega
end

/-! `gw.launch` (R331). -/

theorem gwLaunchBody_ok {r a : SReg} {c : Ctx} (hh : c.g.handed = []) (hr : c.g.releases = []) (hp : c.passes .load 1 (fun _ => none) [(0, BitVec.ofNat 64 (readS c.g c.sp a.val))] = true) :
    okDone c (gwLaunchBody r a c) = some (.op (c.d.modGroup c.gid fun g => { g with releases := g.releases ++
      [{ scope := .dev, posted := false, toArrive := [], toAck := [], act := .launch c.d.nextId r.val (BitVec.ofNat 64 (readS c.g c.sp a.val)) }] }) { Op.of .pending RegWrites.none false with closing := some c.k } 0) := by
  simp only [gwLaunchBody, hh, hr, placeLanes_ok hp]
  rfl

end Sys2Proof.Machine

namespace Sys2Proof
open Machine

/-- Settles O14: `step.adv` is decided in the context in which its region has closed; the others as they issue. -/
theorem sideboardRangesAndLaunchComplete : Obligations.sideboard_ranges_and_launch_complete := by
  unfold Obligations.sideboard_ranges_and_launch_complete
  refine ⟨⟨?advances, ?waits, ?read⟩, ?take, ?steal, ?launch⟩
  case advances =>
    intro r t s c hr hc hl
    obtain ⟨hP, hd, -⟩ := ready_own hr
    rw [← hP, ← hd] at hl
    rw [← hP]
    exact closing_act hr rfl nofun nofun rfl rfl rfl hc rfl (stepAdvDone_allowed (c := c.reopened) hl) (advanceStep_stays (reopened_stays hr))
  case waits =>
    intro r t s c j hr hc hj hl
    obtain ⟨hP, hd, -⟩ := ready_own hr
    rw [← hd] at hj
    rw [← hP] at hl
    obtain ⟨stands, g, hg, hw⟩ := beginWait_group (.stepAdv r) 7 1 (if (t.getD 0).toNat = 0 then 0 else s.dev.clock + (t.getD 0).toNat) 0 c.sp.here (reopened_stays hr)
    refine closing_wait hr rfl nofun nofun rfl rfl rfl hc rfl ?_ stands hg hw
    rw [← hd]
    exact stepAdvDone_waits (c := c.reopened) hj hl
  case read =>
    intro r p s c hr hn
    obtain ⟨hP, hd, stands⟩ := ready_own hr
    rw [← hP, ← hd]
    exact completes_act hr rfl rfl rfl (.inl rfl) (stepRdBody_ok hn) stands
  case take =>
    intro r n s c hr h1 h2 hl
    obtain ⟨-, hd, stands⟩ := ready_own hr
    rw [← hd] at hl ⊢
    exact completes_op hr rfl rfl rfl rfl (takeBody_ok h1 h2 hl) (stays_of rfl stands)
  case steal =>
    intro k s c hr
    obtain ⟨-, hd, stands⟩ := ready_own hr
    rw [← hd]
    exact ⟨fun h => completes_act hr rfl rfl rfl (.inl rfl) (congrArg some (stealDone_sends h)) (stays_of rfl stands),
      fun h => completes_act hr rfl rfl rfl (.inl rfl) (congrArg some (stealDone_nothing h)) stands⟩
  case launch =>
    intro r a s c hr hh hrel hp
    obtain ⟨-, hd, stands⟩ := ready_own hr
    rw [← hd]
    exact completes_op hr rfl rfl rfl rfl (gwLaunchBody_ok hh hrel hp) (stays_modGroup (fun _ => rfl) stands)

end Sys2Proof

/-! The benches of the slices (R256 to R260). -/

namespace Sys2Proof.Machine
open Sys2Proof

/-! Lines of a bench. -/

theorem slice_modSlice_same (d : Device) (k : Nat) (f : Slice → Slice) : (d.modSlice k f).slice k = f (d.slice k) := by
  simp [Device.slice, Device.modSlice, Tbl.getD]
theorem slice_modSlice_other (d : Device) {k j : Nat} (f : Slice → Slice) (h : j ≠ k) : (d.modSlice k f).slice j = d.slice j := by
  simp [Device.slice, Device.modSlice, Tbl.getD, find_set_other _ _ _ _ h]
/-- A line of a bench reads as it was written. -/
theorem benchLine_setBench_same (s : Slice) (a : Nat) (l : LockLine) : benchLine (setBench s a l) a = l := by
  simp only [benchLine, setBench, Tbl.getD]
  split
  · next free =>
    simp only [Bool.and_eq_true, Option.isNone_iff_eq_none, List.isEmpty_iff, Bool.not_eq_true', beq_iff_eq] at free
    obtain ⟨⟨⟨holder, queue⟩, poisoned⟩, clock⟩ := free
    rw [find_erase_same, Option.getD_none, ← holder, ← queue, ← poisoned, ← clock]
  · rw [find_set_same, Option.getD_some]
theorem benchLine_put (d : Device) (k line : Nat) (l : LockLine) : benchLine ((d.modSlice k fun s => setBench s line l).slice k) line = l := by
  rw [slice_modSlice_same, benchLine_setBench_same]

/-! What a write in a job's space leaves of the benches. -/

/-- The bench of a slice. -/
def Device.benchOf (k : Nat) (d : Device) : Tbl LockLine := (d.slice k).bench
theorem benchOf_slices {d e : Device} (k : Nat) (h : e.slices = d.slices) : e.benchOf k = d.benchOf k := by rw [Device.benchOf, Device.slice, h]; rfl
theorem benchOf_modSlice (d : Device) (j k : Nat) {f : Slice → Slice} (hf : ∀ s, (f s).bench = s.bench) : (d.modSlice j f).benchOf k = d.benchOf k := by
  by_cases h : k = j
  · subst h
    rw [Device.benchOf, slice_modSlice_same, hf]
    rfl
  · rw [Device.benchOf, slice_modSlice_other _ _ h]
    rfl
theorem wakeWith_slices (d : Device) (g n st : Nat) (c : DieClock) : (wakeWith d g n st c).slices = d.slices := by
  simp only [wakeWith]
  split <;> rfl
theorem testWatches_slices (d : Device) (cl lo n : Nat) : (testWatches d cl lo n).slices = d.slices := by
  simp only [testWatches]
  rw [foldl_leaves Device.slices fun d (w : Nat × DWord × Nat) => wakeWith_slices d w.2.2 1 0 (d.valueClock w.1)]
  split <;> rfl
theorem markWord_slices (d : Device) (b : Bool) (w : Nat) : (d.markWord b w).slices = d.slices := by
  simp only [Device.markWord]
  split <;> rfl
theorem clearPoison_slices (d : Device) (a n : Nat) : (d.clearPoison a n).slices = d.slices := foldl_leaves _ (fun d i => markWord_slices d false ((a + 3) / 4 + i)) _ _
theorem writeBytes_slices (bs : List Byte) (d : Device) (a : Nat) : (d.writeBytes a bs).slices = d.slices := by
  induction bs generalizing d a with
  | nil => rfl
  | cons b t ih => exact (ih _ _).trans rfl
theorem sendHome_slices (h : Nat) (m : Nat → HomeMsg) (d : Device) (k : Nat) : (sendHome h m d k).slices = d.slices := by
  simp only [sendHome]
  split <;> rfl
theorem touchLine_bench (P : Platform) (d : Device) (j a k : Nat) : (touchLine P d j a).benchOf k = d.benchOf k := by
  simp only [touchLine]
  rw [foldl_leaves (Device.benchOf k) fun (d : Device) l => (rfl : (d.modDie j fun x => { x with visitors := Tbl.erase x.visitors l }).benchOf k = d.benchOf k)]
  exact benchOf_modSlice _ _ _ fun _ => rfl
theorem writeLineAt_bench (P : Platform) (clock : DieClock) (d : Device) (a : Nat) (bs : List Byte) (k : Nat) : (writeLineAt P clock d a bs).1.benchOf k = d.benchOf k := by
  refine Eq.trans (benchOf_slices k ?_) (touchLine_bench P d (homeDie a) a k)
  simp only [writeLineAt]
  rw [testWatches_slices, foldl_leaves Device.slices fun d k => sendHome_slices _ _ d k]
  exact (clearPoison_slices _ _ _).trans (writeBytes_slices _ _ _)
theorem writePhys_bench (P : Platform) (src n : Nat) (d : Device) (a : Nat) (bs : List Byte) (k : Nat) : (writePhys P src n d a bs).1.benchOf k = d.benchOf k := by
  induction n generalizing d a bs with
  | zero => rfl
  | succ n ih => cases bs with
    | nil => rfl
    | cons b t => exact (ih _ _ _).trans (writeLineAt_bench P _ d a _ k)
theorem engineWrite_bench (P : Platform) (src : Nat) (d : Device) (a : Nat) (bs : List Byte) (k : Nat) : (engineWrite P src d a bs).benchOf k = d.benchOf k := by
  simp only [engineWrite]
  rw [foldl_leaves (Device.benchOf k) fun d m => (rfl : (d.mergeClock src (clockAt m)).benchOf k = d.benchOf k)]
  exact writePhys_bench P src _ d a bs k
theorem jobWrite_bench {P : Platform} {d e : Device} {job die : Nat} {va : DWord} {bs : List Byte} (h : jobWrite P d job die va bs = some e) (k : Nat) : e.benchOf k = d.benchOf k := by
  simp only [jobWrite] at h
  split at h
  · split at h
    · cases h
    · split at h <;> cases h
      · refine benchOf_slices k ?_
        simp only [parkRaw, parkWrite]
        split <;> rfl
      · exact engineWrite_bench P die d _ bs k
  · cases h
theorem cores_leave (d : Device) (x : Tbl Core) (k : Nat) : ({ d with cores := x } : Device).groups = d.groups ∧ ({ d with cores := x } : Device).benchOf k = d.benchOf k := ⟨rfl, rfl⟩
theorem noticeAll_groups (d : Device) (s : Signature) : (noticeAll d s).groups = d.groups := (cores_leave d _ 0).1
theorem noticeAll_bench (d : Device) (s : Signature) (k : Nat) : (noticeAll d s).benchOf k = d.benchOf k := (cores_leave d _ k).2
/-- A lock report changes no group and no bench. -/
theorem lockReport_leaves (P : Platform) (d : Device) (g : Group) (line : DWord) (kind hloc hname other k : Nat) :
    (lockReport P d g line kind hloc hname other).groups = d.groups ∧ (lockReport P d g line kind hloc hname other).benchOf k = d.benchOf k := by
  simp only [lockReport]
  split
  · exact ⟨rfl, rfl⟩
  · split
    · next j _ _ e written =>
      have groups := noticeAll_groups e (sigOfAll (blocksOf (j.lkring + BitVec.ofNat 64 (32 * (j.lockReports % 2 ^ j.lkcount))) 32))
      have bench := noticeAll_bench e (sigOfAll (blocksOf (j.lkring + BitVec.ofNat 64 (32 * (j.lockReports % 2 ^ j.lkcount))) 32)) k
      generalize noticeAll e _ = told at groups bench ⊢
      exact ⟨groups.trans (groups_of_unwritten (unwritten_jobWrite written)), bench.trans (jobWrite_bench written k)⟩
    · exact ⟨rfl, rfl⟩

/-! Requests (R256). -/

/-- The stage of the lock request that a group waits for. -/
def askStage : Option WaitFor → Option LockStage
  | some (.lock _ _ _ _ _ st) => some st
  | _ => none
theorem waitIn_setStage {d : Device} {gid line : Nat} {va : DWord} {sd : SReg} {pd : PSel} {since : Nat} {st st' : LockStage} (h : waitIn d gid = some (.lock line va sd pd since st)) :
    waitIn (setStage d gid st') gid = some (.lock line va sd pd since st') := by
  obtain ⟨g, hg, hw⟩ := Option.bind_eq_some_iff.1 h
  simp only [waitIn, setStage, find_modGroup_same, hg, Option.map_some, Option.bind_some, hw]
theorem waitIn_groups {d e : Device} (h : e.groups = d.groups) (gid : Nat) : waitIn e gid = waitIn d gid := by rw [waitIn, waitIn, h]
theorem monNote_leaves {β : Type} (p : Device → β) (hp : ∀ (d : Device) m, p { d with monitors := m } = p d) (P : Platform) (source v : Nat) (d : Device) : p (d.monNote P source v) = p d := ite_leaves p (hp d _) rfl
section
variable {P : Platform} {d : Device} {gid line : Nat} {va : DWord} {sd : SReg} {pd : PSel} {since : Nat} {st : LockStage}
/-- A grant is a stage of the waiting group's request, and changes no memory and no bench. -/
theorem lockGranted_spec (bytes : Option (List Byte)) (h : waitIn d gid = some (.lock line va sd pd since st)) :
    (lockGranted P d gid bytes).mem = d.mem ∧ (lockGranted P d gid bytes).slices = d.slices ∧ waitIn (lockGranted P d gid bytes) gid = some (.lock line va sd pd since (.granted bytes)) := by
  refine ⟨monNote_leaves Device.mem (fun _ _ => rfl) _ _ _ _, monNote_leaves Device.slices (fun _ _ => rfl) _ _ _ _, ?_⟩
  exact waitIn_setStage ((waitIn_groups (monNote_leaves Device.groups (fun _ _ => rfl) _ _ _ _) gid).trans h)
variable (h : waitIn d gid = some (.lock line va sd pd since .sent))
include h
theorem lockRequests_grants (hn : (benchLine (d.slice (homeSlice P line)) line).holder = none) (hr : benchLines (d.slice (homeSlice P line)) < 256) :
    (lockRequests gid P d).mem = d.mem ∧ (∃ clock, benchLine ((lockRequests gid P d).slice (homeSlice P line)) line = { benchLine (d.slice (homeSlice P line)) line with holder := some gid, poisoned := false, clock }) ∧
      askStage (waitIn (lockRequests gid P d) gid) = some (.granted none) := by
  let k := homeSlice P line
  let l := benchLine (d.slice k) line
  let put := d.modSlice k fun s => setBench s line { l with holder := some gid, poisoned := false }
  have taken : lockRequests gid P d = wakeWith (lockGranted P put gid none) gid 1 (if l.poisoned then 1 else 0) l.clock := by
    rw [waitIn] at h
    simp only [lockRequests, h, hn, hr, Option.isNone_none, if_true]
    rfl
  obtain ⟨mem, slices, wait⟩ := lockGranted_spec (P := P) (d := put) none h
  rw [taken]
  refine ⟨(wakeWith_mem _ _ _ _ _).trans mem, ⟨l.clock, ?_⟩, ?_⟩
  · rw [Device.slice, wakeWith_slices, slices]
    exact benchLine_put d k line _
  · rw [waitIn_groups (wakeWith_groups _ _ _ _ _), wait]
    rfl
theorem lockRequests_queues (hn : (benchLine (d.slice (homeSlice P line)) line).holder ≠ none) (hr : benchWaiters (d.slice (homeSlice P line)) < 256) :
    (lockRequests gid P d).mem = d.mem ∧
      benchLine ((lockRequests gid P d).slice (homeSlice P line)) line = { benchLine (d.slice (homeSlice P line)) line with queue := (benchLine (d.slice (homeSlice P line)) line).queue ++ [{ group := gid, marked := false }] } ∧
      askStage (waitIn (lockRequests gid P d) gid) = some .queued := by
  let k := homeSlice P line
  let l := benchLine (d.slice k) line
  let put := d.modSlice k fun s => setBench s line { l with queue := l.queue ++ [{ group := gid, marked := false }] }
  have queued : lockRequests gid P d = setStage put gid .queued := by
    rw [waitIn] at h
    simp only [lockRequests, h, Option.isNone_eq_false_iff.2 (Option.isSome_iff_ne_none.2 hn), hr, Bool.false_eq_true, if_true, if_false]
    rfl
  rw [queued]
  exact ⟨rfl, benchLine_put d k line _, congrArg askStage (waitIn_setStage (d := put) h)⟩
/-- A request that finds no room is refused, to be sent again after 1024 clocks (R256). -/
theorem lockRequests_refused (hr : if (benchLine (d.slice (homeSlice P line)) line).holder = none then 256 ≤ benchLines (d.slice (homeSlice P line)) else 256 ≤ benchWaiters (d.slice (homeSlice P line))) :
    (lockRequests gid P d).slices = d.slices ∧ askStage (waitIn (lockRequests gid P d) gid) = some (.refused (d.clock + 1024)) := by
  have refused : lockRequests gid P d = setStage d gid (.refused (d.clock + 1024)) := by
    have h' := h
    rw [waitIn] at h'
    simp only [lockRequests, h']
    split at hr
    · next hn => rw [hn, Option.isNone_none, if_pos rfl, if_neg (Nat.not_lt.2 hr)]
    · next hn => rw [if_neg (by simpa using hn), if_neg (Nat.not_lt.2 hr)]
  rw [refused]
  exact ⟨rfl, congrArg askStage (waitIn_setStage h)⟩
end
theorem lockResends_sent {P : Platform} {d : Device} {gid line : Nat} {va : DWord} {sd : SReg} {pd : PSel} {since again : Nat} (h : waitIn d gid = some (.lock line va sd pd since (.refused again))) (hc : again ≤ d.clock) :
    askStage (waitIn (lockResends gid P d) gid) = some .sent := by
  have sent : lockResends gid P d = setStage d gid .sent := by
    have h' := h
    rw [waitIn] at h'
    simp only [lockResends, h', hc, if_true]
  rw [sent]
  exact congrArg askStage (waitIn_setStage h)

/-! Releases (R257, R260). -/

/-- A holder whose line is released by its own `unlk` has one effect less on its way. -/
def effectDone (d : Device) (holder : Option Nat) (poisoned : Bool) : Device :=
  match holder with
  | some g => if poisoned then d else d.modGroup g fun g => { g with outEff := g.outEff - 1 }
  | none => d
theorem effectDone_leaves {β : Type} (p : Device → β) (hp : ∀ (d : Device) gs, p { d with groups := gs } = p d) (d : Device) (holder : Option Nat) (poisoned : Bool) : p (effectDone d holder poisoned) = p d := by
  cases holder with
  | none => rfl
  | some g => exact ite_leaves p rfl (hp d _)
theorem viewAt_effectDone {α : Type} {r : Group → α} (hr : ∀ (g : Group) n, r { g with outEff := n } = r g) (d : Device) (holder : Option Nat) (poisoned : Bool) (j : Nat) : viewAt r (effectDone d holder poisoned) j = viewAt r d j := by
  cases holder with
  | none => rfl
  | some g => exact ite_leaves (fun d => viewAt r d j) rfl (viewAt_modGroup r d g j _ fun g => hr g _)
/-- The device in which a slice has taken its oldest release: its line is free, with the clock of the release (R217, R257). -/
def lineReleased (d : Device) (k line : Nat) (poisoned : Bool) (clock : DieClock) (rest : List (Nat × Bool × DieClock)) : Device :=
  (effectDone (d.modSlice k fun s => { s with releases := rest }) (benchLine (d.slice k) line).holder poisoned).modSlice k fun s =>
    setBench s line { benchLine (d.slice k) line with holder := none, clock := clockMax (benchLine (d.slice k) line).clock clock }
section
variable {P : Platform} {d : Device} {k line : Nat} {poisoned : Bool} {clock : DieClock} {rest : List (Nat × Bool × DieClock)}
theorem lockReleases_eq (h : (d.slice k).releases = (line, poisoned, clock) :: rest) :
    lockReleases k P d = passLock P k line poisoned (2 * (benchLine (d.slice k) line).queue.length + 1) (lineReleased d k line poisoned clock rest) := by
  have taken : benchLine ((d.modSlice k fun s => { s with releases := rest }).slice k) line = benchLine (d.slice k) line := by
    rw [slice_modSlice_same]
    rfl
  simp only [lockReleases, h, lineReleased, taken]
  rfl
theorem lineReleased_leaves {β : Type} (p : Device → β) (hg : ∀ (d : Device) gs, p { d with groups := gs } = p d) (hs : ∀ (d : Device) ss, p { d with slices := ss } = p d) : p (lineReleased d k line poisoned clock rest) = p d :=
  (hs _ _).trans ((effectDone_leaves p hg _ _ _).trans (hs d _))
theorem lineReleased_releases : ((lineReleased d k line poisoned clock rest).slice k).releases = rest := by
  rw [lineReleased, slice_modSlice_same]
  refine (effectDone_leaves (fun d => (d.slice k).releases) (fun _ _ => rfl) _ _ _).trans ?_
  rw [slice_modSlice_same]
theorem lineReleased_line :
    benchLine ((lineReleased d k line poisoned clock rest).slice k) line = { benchLine (d.slice k) line with holder := none, clock := clockMax (benchLine (d.slice k) line).clock clock } := benchLine_put _ _ _ _
theorem viewAt_lineReleased {α : Type} {r : Group → α} (hr : ∀ (g : Group) n, r { g with outEff := n } = r g) (j : Nat) : viewAt r (lineReleased d k line poisoned clock rest) j = viewAt r d j :=
  viewAt_effectDone hr _ _ _ _
/-- A line that nobody waits for is free, with the mark it carries (R257, R260). -/
theorem passLock_frees (n : Nat) (hq : (benchLine (d.slice k) line).queue = []) :
    passLock P k line poisoned (n + 1) d = d.modSlice k fun s => setBench s line { holder := none, queue := [], poisoned, clock := (benchLine (d.slice k) line).clock } := by
  simp only [passLock, hq]
/-- The device in which a line has been put under its first waiter. -/
def linePassed (d : Device) (k line : Nat) (w : LockWaiter) (ws : List LockWaiter) : Device :=
  d.modSlice k fun s => setBench s line { holder := some w.group, queue := ws, poisoned := false, clock := (benchLine (d.slice k) line).clock }
/-- It passes to the first waiter whose team is not on its way out (R257). -/
theorem passLock_passes (n : Nat) {w : LockWaiter} {ws : List LockWaiter} {g : Group} (hq : (benchLine (d.slice k) line).queue = w :: ws) (hg : Tbl.find d.groups w.group = some g) (ht : teamAway d g = false) :
    ∃ bytes, passLock P k line poisoned (n + 1) d = wakeWith (lockGranted P (linePassed d k line w ws) w.group bytes) w.group 1 (if poisoned then 1 else 0) (benchLine (d.slice k) line).clock := by
  simp only [passLock, hq, hg, ht, Bool.false_eq_true, if_false]
  exact ⟨_, rfl⟩
theorem lockGranted_leaves {β : Type} (p : Device → β) (hg : ∀ (d : Device) gs, p { d with groups := gs } = p d) (hm : ∀ (d : Device) m, p { d with monitors := m } = p d) (P : Platform) (d : Device) (gid : Nat) (bytes : Option (List Byte)) : p (lockGranted P d gid bytes) = p d :=
  (hg _ _).trans (monNote_leaves p hm _ _ _ _)
theorem lockReleases_frees (h : (d.slice k).releases = (line, poisoned, clock) :: rest) (hq : (benchLine (d.slice k) line).queue = []) :
    (lockReleases k P d).mem = d.mem ∧ benchLine ((lockReleases k P d).slice k) line = { holder := none, queue := [], poisoned, clock := clockMax (benchLine (d.slice k) line).clock clock } ∧ ((lockReleases k P d).slice k).releases = rest := by
  have line' := lineReleased_line (d := d) (k := k) (line := line) (poisoned := poisoned) (clock := clock) (rest := rest)
  rw [lockReleases_eq h, passLock_frees _ (by rw [line', hq])]
  refine ⟨lineReleased_leaves (clock := clock) Device.mem (fun _ _ => rfl) fun _ _ => rfl, ?_, ?_⟩
  · rw [benchLine_put, line']
  · rw [slice_modSlice_same]
    exact lineReleased_releases
theorem lockReleases_passes {w : LockWaiter} {ws : List LockWaiter} {g : Group} (h : (d.slice k).releases = (line, poisoned, clock) :: rest) (hq : (benchLine (d.slice k) line).queue = w :: ws) (hg : Tbl.find d.groups w.group = some g) (ht : teamAway d g = false) :
    (lockReleases k P d).mem = d.mem ∧ benchLine ((lockReleases k P d).slice k) line = { holder := some w.group, queue := ws, poisoned := false, clock := clockMax (benchLine (d.slice k) line).clock clock } ∧ ((lockReleases k P d).slice k).releases = rest := by
  have line' := lineReleased_line (d := d) (k := k) (line := line) (poisoned := poisoned) (clock := clock) (rest := rest)
  have team : viewAt (fun g => g.team) (lineReleased d k line poisoned clock rest) w.group = some g.team := (viewAt_lineReleased (fun _ _ => rfl) _).trans (by rw [viewAt, hg]; rfl)
  obtain ⟨g', hg', hteam⟩ := Option.map_eq_some_iff.1 team
  have here : teamAway (lineReleased d k line poisoned clock rest) g' = false := by
    rw [← ht, teamAway, teamAway, hteam]
    exact congrArg (fun ts : Tbl Team => ((Tbl.find ts g.team).map fun t => t.state == .swappingOut || t.state == .swapped).getD false) (lineReleased_leaves Device.teams (fun _ _ => rfl) fun _ _ => rfl)
  obtain ⟨bytes, passed⟩ := passLock_passes (P := P) (poisoned := poisoned) (2 * (benchLine (d.slice k) line).queue.length) (by rw [line', hq]) hg' here
  have slices : (lockReleases k P d).slices = (linePassed (lineReleased d k line poisoned clock rest) k line w ws).slices := by
    rw [lockReleases_eq h, passed, wakeWith_slices]
    exact lockGranted_leaves Device.slices (fun _ _ => rfl) (fun _ _ => rfl) _ _ _ _
  refine ⟨?_, ?_, ?_⟩
  · rw [lockReleases_eq h, passed, wakeWith_mem]
    exact (lockGranted_leaves Device.mem (fun _ _ => rfl) (fun _ _ => rfl) _ _ _ _).trans (lineReleased_leaves (clock := clock) Device.mem (fun _ _ => rfl) fun _ _ => rfl)
  · rw [Device.slice, slices]
    exact (benchLine_put _ _ _ _).trans (by rw [line'])
  · rw [Device.slice, slices]
    exact (congrArg Slice.releases (slice_modSlice_same (lineReleased d k line poisoned clock rest) k _)).trans lineReleased_releases
end

/-! Deadlines (R259). -/

section
variable {P : Platform} {d : Device} {gid line : Nat} {g : Group} {va : DWord} {sd : SReg} {pd : PSel} {since : Nat}
/-- A lock's wait that its deadline ends completes its instruction with TIMEOUT, on a device with the group as it was. -/
theorem timeoutGroup_lock {e : Device} {stage : LockStage} (hg : Tbl.find e.groups gid = some g) (hid : g.id = gid) (hd : g.savedDrawer = none) (hs : g.state = .waiting) (hw : g.wait = some (.lock line va sd pd since stage)) :
    timeoutGroup P e g = completeWait (timedOut e gid g) gid (lockResult sd.val pd (((splitOf g g.waitSplit).map (·.mask)).getD 0) 2) true := by
  have late : ∀ b : BitVec 8, ((b &&& 0x0F) ||| 2).getLsbD 1 = true := by decide
  have found := find_timedOut hg
  have drawer : drawerOf (timedOut e gid g) { g with waitSeq := g.waitSeq + 1 } = expire (e.drawer g.core g.block) := by
    rw [drawerOf, hd]
    exact drawer_timedOut e gid g
  have ends := endWait_finishes P found hs hw nofun
  rw [drawer, expire, late] at ends
  refine Eq.trans ?_ (ends.trans ?_)
  · simp only [timeoutGroup, setDrawerOf, drawerOf, hd, hid, Option.getD_none]
    rfl
  · simp only [finishWait, found, hw]
    rfl
theorem completeWait_slices {e : Device} {x : Group} (w : RegWrites) (cl : Bool) (hx : Tbl.find e.groups gid = some x) (hd : x.savedDrawer = none) : (completeWait e gid w cl).slices = e.slices := by
  refine (of_rest Device.slices (fun _ => rfl) (rest_completeWait w cl hx)).trans ?_
  rw [dropWait_eq hx hd]
  rfl
/-- The deadline takes a waiter out of its line's queue and writes its report; its instruction completes with TIMEOUT (R259, R264). -/
theorem lockExpires_queued (hg : Tbl.find d.groups gid = some g) (hid : g.id = gid) (hd : g.savedDrawer = none) (hs : g.state = .waiting) (hw : g.wait = some (.lock line va sd pd since .queued)) (hp : pastDeadline d g = true) :
    regsOf (lockExpires gid P d) gid = some (g.landed g.waitSplit false (lockResult sd.val pd (((splitOf g g.waitSplit).map (·.mask)).getD 0) 2) 0) ∧ waitIn (lockExpires gid P d) gid = none ∧
      benchLine ((lockExpires gid P d).slice (homeSlice P line)) line = { benchLine (d.slice (homeSlice P line)) line with queue := (benchLine (d.slice (homeSlice P line)) line).queue.filter fun w => w.group != gid } := by
  let k := homeSlice P line
  let left := d.modSlice k fun s => setBench s line { benchLine (d.slice k) line with queue := (benchLine (d.slice k) line).queue.filter fun w => w.group != gid }
  obtain ⟨kind, h1, h2, other, expires⟩ : ∃ kind h1 h2 other, lockExpires gid P d = timeoutGroup P (lockReport P left g va kind h1 h2 other) g := by
    simp only [lockExpires, hg, hw, hp, Bool.not_true, Bool.false_eq_true, if_false]
    exact ⟨_, _, _, _, rfl⟩
  obtain ⟨groups, bench⟩ := lockReport_leaves P left g va kind h1 h2 other k
  have found : Tbl.find (lockReport P left g va kind h1 h2 other).groups gid = some g := by rw [groups]; exact hg
  rw [expires, timeoutGroup_lock found hid hd hs hw]
  obtain ⟨regs, wait, -⟩ := completeWait_timedOut (lockResult sd.val pd (((splitOf g g.waitSplit).map (·.mask)).getD 0) 2) true found hd hs rfl rfl rfl
  refine ⟨regs, wait, ?_⟩
  have slices := completeWait_slices (lockResult sd.val pd (((splitOf g g.waitSplit).map (·.mask)).getD 0) 2) true (find_timedOut found) hd
  have kept := (benchOf_slices k slices).trans bench
  refine (congrArg (fun b => Tbl.getD b line _) kept).trans (benchLine_put d k line _)
end

end Sys2Proof.Machine

namespace Sys2Proof
open Machine

/-- Settles O29: a request and a release each change one line of one bench; a deadline reports and completes the waiter's instruction. -/
theorem locksPass : Obligations.locks_pass := by
  unfold Obligations.locks_pass
  refine ⟨?granted, ?queued, ?linesFull, ?waitersFull, ?again, ?freed, ?passed, ?deadline⟩
  case granted =>
    intro gid line s ⟨va, sd, pd, since, hw⟩ hn hr
    obtain ⟨mem, ⟨clock, put⟩, stage⟩ := lockRequests_grants (P := s.plat) hw hn hr
    exact event_of rfl rfl ⟨mem, congrArg LockLine.holder put, congrArg LockLine.poisoned put, stage⟩
  case queued =>
    intro gid line s ⟨va, sd, pd, since, hw⟩ hn hr
    exact event_of rfl rfl (lockRequests_queues hw hn hr)
  case linesFull =>
    intro gid line s ⟨va, sd, pd, since, hw⟩ hn hr
    exact event_of rfl rfl (lockRequests_refused hw (by rw [if_pos hn]; exact hr))
  case waitersFull =>
    intro gid line s ⟨va, sd, pd, since, hw⟩ hn hr
    exact event_of rfl rfl (lockRequests_refused hw (by rw [if_neg hn]; exact hr))
  case again =>
    intro gid line va sd pd since again s hw hc
    exact event_of rfl rfl (lockResends_sent hw hc)
  case freed =>
    intro k line poisoned clock rest s h hq
    exact event_of rfl rfl (lockReleases_frees h hq)
  case passed =>
    intro k line poisoned clock rest s w ws g h hq hg ht
    exact event_of rfl rfl (lockReleases_passes h hq hg ht)
  case deadline =>
    intro gid s g line va sd pd since hg hid hd hs hw hp
    obtain ⟨regs, wait, left⟩ := lockExpires_queued (P := s.plat) hg hid hd hs hw hp
    refine event_of rfl rfl ⟨regs, wait, ?_⟩
    refine (congrArg (fun l : LockLine => l.queue.any fun w => w.group == gid) left).trans ?_
    simp

end Sys2Proof

/-! Loads, stores and versioned accesses start (R207, R241 to R247). -/

namespace Sys2Proof.Machine
open Sys2Proof

/-! What the meanings do where the checks pass. -/

section
variable {c : Ctx}

/-- Reads of the lanes through the caches leave the issuing split where it is. -/
theorem laneValues_stays {pol : Policy} {n : Nat} {ps : List Place} {d e : Device} {vs : List (Nat × Nat)} {x : Option Exc} (h : laneValues c pol n ps d = some (vs, x, e)) (hs : c.stays d) : c.stays e :=
  stays_of (laneValues_groups ps h) hs
theorem loadPlaces_op {pol : Policy} {z : Size} {dest : Reg} {extra vs : List (Nat × Nat)} {ps : List Place} {e : Option Exc} {d : Device} (hs : c.settled (ps.map fun p => (p, z.bytes)) = true) (hv : laneValues c pol z.bytes ps c.d = some (vs, e, d)) :
    okDone c (loadPlaces c pol z dest extra ps) = some (.op d { Op.of .load (loadWrites dest z (extra ++ vs)) false with exc := e } 0) := by
  simp only [Ctx.settled, List.all_map, List.all_eq_true, Function.comp_apply, Bool.and_eq_true, Bool.not_eq_true'] at hs
  have sent : (ps.any fun p => overlapsSent c.g p.pa z.bytes) = false := List.any_eq_false.2 fun p hp => Bool.eq_false_iff.1 (hs p hp).1
  have reduced : (ps.any fun p => pendingRed c.d c.g p.pa z.bytes) = false := List.any_eq_false.2 fun p hp => Bool.eq_false_iff.1 (hs p hp).2
  simp only [loadPlaces, sent, reduced, hv, Bool.false_eq_true, if_false]
  rfl
/-- The addresses an `ld` reads: one for a scalar destination (R241). -/
def loadAddrs (f : LdF) (c : Ctx) : List (Nat × DWord) := match f.d with | .v _ => c.addrs f.a.reg f.off | .s _ => (c.addrs f.a.reg f.off).take 1
theorem ldBody_ok {f : LdF} (h : c.lanes ≠ 0) (hp : c.passes .load f.size.bytes (fun _ => none) (loadAddrs f c) = true) : ldBody f c = loadPlaces c f.pol f.size f.d [] ((loadAddrs f c).map (c.placeAt .load)) := by
  rw [ldBody, orNothing_lanes h]
  change (match placeLanes c .load f.size.bytes (fun _ => none) (loadAddrs f c) with | .error e => Except.error e | .ok ps => loadPlaces c f.pol f.size f.d [] ps) = _
  rw [placeLanes_ok hp]
theorem ldRagBody_ok {f : LdRagF} {sn : Snapshot} {rows live : List (Nat × Nat)} {es : List (Nat × DWord)} (h : c.lanes ≠ 0) (hsn : c.shape f.sh = .ok sn) (hrows : rows = (lanesOf c.lanes).map fun l => (l, mOff32 c.g c.sp l f.row)) (hlive : live = rows.filter fun x => decide (x.2 < sn.rows))
    (hes : es = live.map fun x => (x.1, BitVec.ofNat 64 (base64 c.g c.sp 0 f.a.reg + x.2 * sn.pitch))) (hp : c.passes .load f.size.bytes (fun _ => none) es = true) (hone : f.one = true → sn.crosses (live.map (·.2)) = false) :
    ldRagBody f c = loadPlaces c f.pol f.size f.d ((rows.filter fun x => decide (sn.rows ≤ x.2)).map fun x => (x.1, 0)) (es.map (c.placeAt .load)) := by
  have crosses : ¬(f.one && sn.crosses (live.map (·.2))) = true := by simpa using hone
  have placed := placeLanes_ok hp
  subst hes hlive hrows
  simp only [ldRagBody, orNothing_lanes h, hsn, placed, if_neg crosses]
/-- No copy holds the window under the accesses (R354). -/
theorem window_free {store : Bool} {n : Nat} {ps : List (Nat × Nat)} (h : ∀ p ∈ ps, windowBusy c store p.2 n = false) : (ps.any fun p => windowBusy c store p.2 n) = false :=
  List.any_eq_false.2 fun p hp => Bool.eq_false_iff.1 (h p hp)
theorem ldSpBody_op {f : LdF} (h : c.lanes ≠ 0) (hw : c.inWindow f.size.bytes (c.offsets f.a.reg f.off) = true) (hb : ∀ p ∈ c.offsets f.a.reg f.off, windowBusy c false p.2 f.size.bytes = false) :
    okDone c (ldSpBody f c) = some (.op c.d { Op.of .load (loadWrites f.d f.size ((c.offsets f.a.reg f.off).map fun p => (p.1, natOf (windowBytes c.team p.2 f.size.bytes)))) false with
      win := (c.offsets f.a.reg f.off).map fun p => (p.2, p.2 + f.size.bytes)
      exc := ((c.offsets f.a.reg f.off).find? fun p => windowBad c.team p.2 f.size.bytes).map fun p => Exc.at_ .poisonedData p.1 (BitVec.ofNat 64 p.2) } 0) := by
  simp only [ldSpBody, orNothing_lanes h, windowLanes_ok hw, window_free hb, Bool.false_eq_true, if_false]
  rfl
theorem stSpBody_op {f : StF} (h : c.lanes ≠ 0) (hw : c.inWindow f.size.bytes (c.offsets f.a.reg f.off) = true) (hb : ∀ p ∈ c.offsets f.a.reg f.off, windowBusy c true p.2 f.size.bytes = false) :
    okDone c (stSpBody f c) = some (.op (c.d.modTeam c.g.team fun t => (c.offsets f.a.reg f.off).foldl (fun t p => windowWrite t p.2 (dataBytes c f.size p.1 f.c.reg)) t)
      { Op.of .store RegWrites.none false with win := (c.offsets f.a.reg f.off).map fun p => (p.2, p.2 + f.size.bytes) } 0) := by
  simp only [stSpBody, orNothing_lanes h, windowLanes_ok hw, window_free hb, Bool.false_eq_true, if_false]
  rfl
/-- The lanes of an `st` as the store buffer has them. -/
def storeLanes (f : StF) (c : Ctx) (ps : List Place) : List LaneStore :=
  ps.map fun p => { lane := p.lane, va := p.va, pa := p.pa, page := if p.leaf.repl then some p.leaf.base else none, data := dataBytes c f.size p.lane f.c.reg }
/-- The device with an `st` in the store buffer: its blocks are noted, its lines gone from the core's L1 (R207, R241). -/
def storeBuffered (f : StF) (c : Ctx) (ps : List Place) : Device :=
  let d := c.d.modGroup c.gid fun g => { g with sb := g.sb ++ [{ op := c.d.nextId, size := f.size.bytes, lanes := storeLanes f c ps, marks := [] }] }
  dropLines (noteBlocks d c.gid (ps.map (·.va))) c.g.core (ps.map fun p => p.pa / 64)
theorem storeBuffered_stays (f : StF) (ps : List Place) (h : c.stays c.d) : c.stays (storeBuffered f c ps) := stays_of rfl (stays_noteBlocks (stays_modGroup (fun _ => rfl) h))
theorem stBody_op {f : StF} (h : c.lanes ≠ 0) (hp : c.passes .store f.size.bytes notVersioned (c.addrs f.a.reg f.off) = true)
    (hred : ∀ p ∈ (c.addrs f.a.reg f.off).map (c.placeAt .store), pendingRed c.d c.g p.pa f.size.bytes = false) (hb : c.g.sb.length < 16) (hu : unacked c.g < 255) :
    okDone c (stBody f c) = some (.op (storeBuffered f c ((c.addrs f.a.reg f.off).map (c.placeAt .store))) (Op.of .store RegWrites.none false) 0) := by
  have reduced := List.any_eq_false.2 fun p hp => Bool.eq_false_iff.1 (hred p hp)
  have full : ¬(decide (16 ≤ c.g.sb.length) || decide (255 ≤ unacked c.g)) = true := by simpa using ⟨hb, hu⟩
  simp only [stBody, orNothing_lanes h, placeLanes_ok hp, reduced, if_neg full]
  rfl
/-- A lane of an `st.ver` on its way to the version home of its page (R244). -/
def sendVersion (f : StF) (c : Ctx) (d : Device) (p : Place) : Device :=
  d.openHome c.g.job p.leaf fun h => { h with stores := h.stores ++ [{ notice := none, source := .group c.gid c.d.nextId p.lane, offset := p.va.toNat - p.leaf.base, step := c.g.stepCur.toNat, data := dataBytes c f.size p.lane f.c.reg, since := c.d.clock }] }
theorem sendVersions_groups (f : StF) (ps : List Place) (d : Device) : (ps.foldl (sendVersion f c) d).groups = d.groups :=
  foldl_leaves Device.groups (f := sendVersion f c) (fun _ _ => rfl) ps d
/-- The device with an `st.ver` at its version homes. -/
def versionSent (f : StF) (c : Ctx) (ps : List Place) : Device := dropLines (noteBlocks (ps.foldl (sendVersion f c) c.d) c.gid (ps.map (·.va))) c.g.core (ps.flatMap (versionLines c.d))
theorem versionSent_stays (f : StF) (ps : List Place) (h : c.stays c.d) : c.stays (versionSent f c ps) := stays_of rfl (stays_noteBlocks (stays_of (sendVersions_groups f ps c.d) h))
theorem stVerBody_op {f : StF} (h : c.lanes ≠ 0) (hp : c.passes .store f.size.bytes mustVersioned (c.addrs f.a.reg f.off) = true) (hu : unacked c.g < 255) :
    okDone c (stVerBody f c) = some (.op (versionSent f c ((c.addrs f.a.reg f.off).map (c.placeAt .store))) { Op.of .verStore RegWrites.none false with parts := ((c.addrs f.a.reg f.off).map (c.placeAt .store)).length } 0) := by
  simp only [stVerBody, orNothing_lanes h, placeLanes_ok hp, if_neg (Nat.not_le.2 hu)]
  rfl
theorem sealBody_act {a : RegOpd} {off : MOff} (hp : c.passes .store 1 mustVersioned [(0, globalEa c.g c.sp a.reg off 0)] = true) :
    let p := c.placeAt .store (0, globalEa c.g c.sp a.reg off 0)
    okDone c (sealBody a off c) = some (.act ((c.d.openHome c.g.job p.leaf id).modGroup c.gid fun g => { g with effects := g.effects ++ [c.entry 0x66 c.lanes (globalEa c.g c.sp a.reg off 0) [] (.seal p.leaf.addr p.leaf.base c.g.stepCur.toNat)] }) RegWrites.none false 0) := by
  simp only [sealBody, placeLanes_ok hp]
  rfl
/-- Where the lanes pass with one more condition on their page, the lowest passes without it. -/
theorem passes_first {acc : Access} {align : Nat} {own more : Leaf → Option ExcCode} {es : List (Nat × DWord)} (h : c.passes acc align (fun x => own x <|> more x) es = true) : c.passes acc align own (es.take 1) = true := by
  refine List.all_eq_true.2 fun e he => ?_
  have passed := List.all_eq_true.1 h e (List.mem_of_mem_take he)
  cases hx : xlat c.d c.g acc e.2 with
  | ok leaf pa =>
    simp only [hx, Bool.and_eq_true] at passed ⊢
    exact ⟨passed.1, by cases hown : own leaf <;> simp_all⟩
  | _ => simp [hx] at passed
/-- The request of an `ld.ver` (R243). -/
def versionLoad (f : LdVerF) (c : Ctx) (ps : List Place) : VerLoad :=
  { record := (ps.headD default).leaf.addr, page := (ps.headD default).leaf.base, minStep := c.rv .b32 0 f.sm.reg, bytes := f.size.bytes, dest := f.d, lanes := ps.map fun x => (x.lane, x.va.toNat - (ps.headD default).leaf.base), since := c.d.clock }
theorem ldVerBody_op {f : LdVerF} {ps : List Place} (h : c.lanes ≠ 0) (hps : ps = (c.addrs f.a.reg f.off).map (c.placeAt .load))
    (hp : c.passes .load f.size.bytes (fun x => (mustVersioned x) <|> (if x.base != (ps.headD default).leaf.base then some .versionSpan else none)) (c.addrs f.a.reg f.off) = true) :
    okDone c (ldVerBody f c) = some (.op (c.d.openHome c.g.job (ps.headD default).leaf fun h => { h with loads := h.loads ++ [(c.gid, c.d.nextId)] }) { Op.of (.verLoad (versionLoad f c ps)) RegWrites.none false with closing := some c.k } 0) := by
  have first : (((c.addrs f.a.reg f.off).take 1).map (c.placeAt .load)).headD default = ps.headD default := by
    rw [hps]
    cases c.addrs f.a.reg f.off <;> rfl
  simp only [ldVerBody, orNothing_lanes h, placeLanes_ok (passes_first hp), first, placeLanes_ok hp, ← hps]
  rfl
end

end Sys2Proof.Machine

namespace Sys2Proof
open Machine

/-- Settles O4: where its checks pass, each access has one outcome, from the device that its reads, or its writes, leave. -/
theorem loadsAndStoresStart : Obligations.loads_and_stores_start := by
  unfold Obligations.loads_and_stores_start
  refine ⟨⟨?ld, ?ldRag, ?ldSp⟩, ?st, ?stSp, ?stVer, ?sealVer, ?ldVer⟩
  case ld =>
    intro f s c hr h es ps hp hs hv
    obtain ⟨-, hd, stands⟩ := ready_own hr
    rw [← hd] at hv ⊢
    obtain ⟨⟨vs, e, d⟩, read⟩ := Option.isSome_iff_exists.1 hv
    obtain ⟨t, next, started⟩ := completes_op hr rfl rfl rfl rfl ((congrArg (okDone c) (ldBody_ok h hp)).trans (loadPlaces_op hs read)) (laneValues_stays read stands)
    exact ⟨t, next, vs, e, d, read, started⟩
  case ldRag =>
    intro f s c sn hr h hsn rows live es ps hp hone hs hv
    obtain ⟨-, hd, stands⟩ := ready_own hr
    rw [← hd] at hv ⊢
    obtain ⟨⟨vs, e, d⟩, read⟩ := Option.isSome_iff_exists.1 hv
    obtain ⟨t, next, started⟩ := completes_op hr rfl rfl rfl rfl ((congrArg (okDone c) (ldRagBody_ok h hsn rfl rfl rfl hp hone)).trans (loadPlaces_op hs read)) (laneValues_stays read stands)
    exact ⟨t, next, vs, e, d, read, started⟩
  case ldSp =>
    intro f s c hr h ps hw hb
    obtain ⟨-, hd, stands⟩ := ready_own hr
    rw [← hd]
    exact completes_op hr rfl rfl rfl rfl (ldSpBody_op h hw hb) stands
  case st =>
    intro f s c hr h es ps hp hred hb hu lanes d
    obtain ⟨-, hd, stands⟩ := ready_own hr
    have stored := completes_op hr rfl rfl rfl rfl (stBody_op h hp hred hb hu) (storeBuffered_stays f _ stands)
    rw [storeBuffered, hd] at stored
    exact stored
  case stSp =>
    intro f s c hr h ps hw hb
    obtain ⟨-, hd, stands⟩ := ready_own hr
    rw [← hd]
    exact completes_op hr rfl rfl rfl rfl (stSpBody_op h hw hb) (stays_of rfl stands)
  case stVer =>
    intro f s c hr h es ps hp hu send
    obtain ⟨-, hd, stands⟩ := ready_own hr
    have sent := completes_op hr rfl rfl rfl rfl (stVerBody_op h hp hu) (versionSent_stays f _ stands)
    simp only [send, ← hd]
    exact sent
  case sealVer =>
    intro a off s c hr hroom va p hp
    obtain ⟨-, hd, stands⟩ := ready_own hr
    rw [← hd]
    exact completes_held hr rfl rfl rfl rfl (.inr hroom) (sealBody_act hp) rfl (stays_of rfl stands) (ready_effects hr)
  case ldVer =>
    intro f s c hr h es ps l hp q
    obtain ⟨-, hd, stands⟩ := ready_own hr
    simp only [q, ← hd]
    exact completes_op hr rfl rfl rfl rfl (ldVerBody_op h rfl hp) (stays_of rfl stands)

end Sys2Proof

/-! A copy among clusters that are out of order (R316). -/

namespace Sys2Proof.Machine
open Sys2Proof

/-- What an event answers has the property it is said to have. -/
theorem Event.answer {i : Instr} {s : State} {p : Device → Prop} {f : Platform → Device → Device} (h : Event i s p) (he : exec i s = runEvent s f) : p (f s.plat s.dev) := by
  obtain ⟨d, hd, hp⟩ := h
  rw [he] at hd
  rwa [show f s.plat s.dev = d from congrArg State.dev (Host.Outcome.next.inj hd)]
/-- A copy of the sixteen bytes at 0x2000 to 0x3000. -/
def unitCopy : CopyOp := { id := 9, job := 0, team := 1, group := 2, tl := 1, number := 8, gather := false, dir := .g2g, dst := 0x3000, src := 0x2000, len := 16, idx := 0, rows := 0, die := 0, at_ := 0, stalled := none }
/-- Three entries of translation, each the next one's table, of which the third grants the first 2 MiB (R369). -/
def unitTables : List Byte := bytesOf 8 (0x0001 * 2 ^ 48) ++ bytesOf 8 0x1010 ++ bytesOf 8 (0x0001 * 2 ^ 48) ++ bytesOf 8 0x1020 ++ bytesOf 8 (0x0117 * 2 ^ 48) ++ bytesOf 8 0
/-- A state whose clusters are listed as 200 and then 16: the copy is at cluster 200, and cluster 16 has one of the same number and, as home of 0x3000, a watch of the word there. A write of the copy that meets the watch moves cluster 16 to its place, before cluster 200. -/
def unorderedClusters : State :=
  { State.reset with
    dev := { Device.reset.writeBytes 0x1000 unitTables with
      jobs := [(0, { (default : Job) with xroot := 0x1000 })]
      clusters := [(200, { Cluster.reset with copies := [unitCopy] }), (16, { Cluster.reset with watches := [(0x3000, 0, 2)], copies := [{ unitCopy with number := 7 }] })] } }
/-- The copy that the device has first under the number. -/
def unitCopyOf (d : Device) : Option CopyOp := ((Tbl.vals d.clusters).flatMap fun c => c.copies).find? fun x => x.id == unitCopy.id
theorem unitCopy_source : ∃ l, engineXlat unorderedClusters.dev 0 .load 0 0x2000 = .ok l 0x2000 := ⟨{ base := 0, size := 2 ^ 21, addr := 0, frame := none, attr := 1, r := true, w := true, x := false }, by decide +kernel⟩
theorem unitCopy_place : ∃ l, engineXlat unorderedClusters.dev 0 .store 0 0x3000 = .ok l 0x3000 ∧ l.repl = false ∧ l.ver = false :=
  ⟨{ base := 0, size := 2 ^ 21, addr := 0, frame := none, attr := 1, r := true, w := true, x := false }, by decide +kernel⟩
theorem unitCopy_clean : unorderedClusters.dev.anyPoison 0x2000 16 = false := by decide +kernel
/-- The granule done, the other copy is first. -/
theorem unitCopy_overtaken : unitCopyOf (copyCompletes 9 Platform.reset unorderedClusters.dev) = some { unitCopy with number := 7, at_ := 16 } := by decide +kernel

end Sys2Proof.Machine

namespace Sys2Proof
open Machine

/-- Refutes O39: its states need not have their clusters in rising order, and then a copy's write that meets a watch can bring another copy of its number, of a cluster listed after its own, to the front, where the statement expects the copy itself. -/
theorem not_copiesMoveTheirGranules : ¬ Obligations.copies_move_their_granules := by
  unfold Obligations.copies_move_their_granules
  intro h
  obtain ⟨-, moves, -⟩ := h
  have source (i : Nat) (hi : i < 1) : engineXlat unorderedClusters.dev 0 .load 0 (unitCopy.src + BitVec.ofNat 64 (0 + 16 * i)) = engineXlat unorderedClusters.dev 0 .load 0 0x2000 := by
    obtain rfl := Nat.lt_one_iff.1 hi
    rfl
  have place (i : Nat) (hi : i < 1) : engineXlat unorderedClusters.dev 0 .store 0 (unitCopy.dst + BitVec.ofNat 64 (0 + 16 * i)) = engineXlat unorderedClusters.dev 0 .store 0 0x3000 := by
    obtain rfl := Nat.lt_one_iff.1 hi
    rfl
  obtain ⟨ls, read⟩ := unitCopy_source
  obtain ⟨lp, placed, repl, ver⟩ := unitCopy_place
  have moved := moves unorderedClusters unitCopy 1 (fun _ => unorderedClusters.dev.readBytes 0x2000 16) (fun _ => false) (fun _ => 0x3000)
    rfl (by decide) (by decide) (fun i hi => ⟨ls, 0x2000, (source i hi).trans read, rfl, unitCopy_clean.symm⟩) (fun _ _ => rfl)
    ⟨rfl, fun i hi => ⟨lp, (place i hi).trans placed, repl, ver, (by decide : 0x3000 % 16 = 0)⟩, fun i j hi hj hne => absurd ((Nat.lt_one_iff.1 hi).trans (Nat.lt_one_iff.1 hj).symm) hne⟩
  obtain ⟨-, first⟩ := moved.answer (f := copyCompletes 9) rfl
  exact absurd (unitCopy_overtaken.symm.trans first) (by decide)

end Sys2Proof

/-! Host messages as bytes (R443). -/

namespace Sys2Proof.Machine
open Sys2Proof

section
variable {x y z r p bs : List Byte} {k n m v : Nat}

/-! Numbers in lists of bytes. -/

theorem natOf_bytesOf (n v : Nat) : natOf (bytesOf n v) = v % 256 ^ n := by
  induction n generalizing v with
  | zero => simp [bytesOf, natOf, Nat.mod_one]
  | succ n ih =>
    have split : v % 256 ^ (n + 1) = v % 256 + 256 * (v / 256 % 256 ^ n) := by rw [Nat.pow_succ', Nat.mod_mul]
    rw [bytesOf, natOf, ih, split]
    rfl
theorem natOf_word (v : DWord) : natOf (bytesOf 8 v.toNat) = v.toNat := (natOf_bytesOf 8 _).trans (Nat.mod_eq_of_lt v.isLt)
theorem natOf_half (v : Word) : natOf (bytesOf 4 v.toNat) = v.toNat := (natOf_bytesOf 4 _).trans (Nat.mod_eq_of_lt v.isLt)
/-- The first byte of a message or of a command. -/
theorem field_byte (h : k < 256) (z : List Byte) : field ([BitVec.ofNat 8 k] ++ z) 0 1 = k := by
  change (BitVec.ofNat 8 k).toNat + 256 * 0 = k
  rw [BitVec.toNat_ofNat, Nat.mul_zero, Nat.add_zero]
  exact Nat.mod_eq_of_lt h
theorem field_append_next (h : x.length = k) : field (x ++ z) (k + n) m = field z n m := by
  subst h
  rw [field, List.drop_length_add_append]
  rfl
theorem field_append_first (h : x.length = n) : field (x ++ z) 0 n = natOf x := by
  subst h
  rw [field, List.drop_zero, List.take_left']
  rfl
theorem field_whole (h : x.length = n) : field x 0 n = natOf x := by
  rw [← List.append_nil x] at *
  exact (field_append_first (by simpa using h)).trans (by rw [List.append_nil])
theorem word64_append_next (h : x.length = k) : word64 (x ++ z) (k + n) = word64 z n := by
  have short : (x ++ z).length < k + n + 8 ↔ z.length < n + 8 := by
    rw [List.length_append]
    omega
  simp only [word64, short, field_append_next h]
theorem word64_first (v : DWord) (z : List Byte) : word64 (bytesOf 8 v.toNat ++ z) 0 = some v := by
  have long : ¬(bytesOf 8 v.toNat ++ z).length < 0 + 8 := by
    rw [List.length_append, bytesOf_length]
    omega
  rw [word64, if_neg long, field_append_first (bytesOf_length 8 _), natOf_word, BitVec.ofNat_toNat, BitVec.setWidth_eq]
theorem word64_whole (v : DWord) : word64 (bytesOf 8 v.toNat) 0 = some v := by
  have h := word64_first v []
  rwa [List.append_nil] at h

/-! A message and a host command as R443 lays them out. -/

/-- A message: its kind, three bytes that do not matter, the length of its payload, its tag and the payload. -/
def hostMessage (kind : Nat) (r : List Byte) (tag : DWord) (p : List Byte) : List Byte := [BitVec.ofNat 8 kind] ++ r ++ bytesOf 4 p.length ++ bytesOf 8 tag.toNat ++ p
/-- The payload of a HOST_CMD: its code, seven bytes that do not matter, its operands and record bytes. -/
def hostPayload (code : Nat) (y p : List Byte) : List Byte := [BitVec.ofNat 8 code] ++ y ++ p
theorem hostPayload_length (hy : y.length = 7) (code : Nat) (p : List Byte) : (hostPayload code y p).length = 8 + p.length := by
  simp only [hostPayload, List.length_append, List.length_singleton, hy]
theorem hostPayload_drop (hy : y.length = 7) (code : Nat) (p : List Byte) : (hostPayload code y p).drop 8 = p := by
  rw [hostPayload, List.drop_left' (by rw [List.length_append, hy, List.length_singleton])]
theorem hostPayload_code (y p : List Byte) {code : Nat} (h : code < 256) : field (hostPayload code y p) 0 1 = code := by
  rw [hostPayload, List.append_assoc, field_byte h]
theorem word64_hostPayload (hy : y.length = 7) (code : Nat) (p : List Byte) (n : Nat) : word64 (hostPayload code y p) (8 + n) = word64 p n :=
  word64_append_next (by rw [List.length_append, hy, List.length_singleton])

/-- A message laid out so is of its kind, with its tag and its payload. -/
theorem hostMessage_parts (hr : r.length = 3) (hp : p.length < 2 ^ 32) (hk : k < 256) (tag : DWord) :
    field (hostMessage k r tag p) 0 1 = k ∧ field (hostMessage k r tag p) 4 4 = p.length ∧ BitVec.ofNat 64 (field (hostMessage k r tag p) 8 8) = tag ∧
      ((hostMessage k r tag p).drop 16).take p.length = p ∧ (hostMessage k r tag p).length = 16 + p.length := by
  have head : ([BitVec.ofNat 8 k] ++ r).length = 4 := by rw [List.length_append, hr, List.length_singleton]
  have len : ([BitVec.ofNat 8 k] ++ r ++ bytesOf 4 p.length).length = 8 := by rw [List.length_append, head, bytesOf_length]
  have header : ([BitVec.ofNat 8 k] ++ r ++ bytesOf 4 p.length ++ bytesOf 8 tag.toNat).length = 16 := by rw [List.length_append, len, bytesOf_length]
  refine ⟨?kind, ?length, ?tag, ?payload, ?whole⟩
  case kind =>
    simp only [hostMessage, List.append_assoc]
    exact field_byte hk _
  case length =>
    rw [hostMessage, List.append_assoc, List.append_assoc]
    refine (field_append_next (n := 0) head).trans ?_
    rw [field_append_first (bytesOf_length 4 _), natOf_bytesOf]
    exact Nat.mod_eq_of_lt hp
  case tag =>
    rw [hostMessage, List.append_assoc]
    refine (congrArg (BitVec.ofNat 64) (field_append_next (n := 0) len)).trans ?_
    rw [field_append_first (bytesOf_length 8 _), natOf_word, BitVec.ofNat_toNat, BitVec.setWidth_eq]
  case payload => rw [hostMessage, List.drop_left' header, List.take_length]
  case whole => rw [hostMessage, List.length_append, header]
end

/-! Messages that are carried out. -/

/-- The offset and the width of a register access (R443). -/
theorem access_fields (a : DWord) (w : Word) (z : List Byte) : BitVec.ofNat 64 (field (bytesOf 8 a.toNat ++ (bytesOf 4 w.toNat ++ z)) 0 8) = a ∧ BitVec.ofNat 32 (field (bytesOf 8 a.toNat ++ (bytesOf 4 w.toNat ++ z)) 8 4) = w := by
  constructor
  · rw [field_append_first (bytesOf_length 8 _), natOf_word, BitVec.ofNat_toNat, BitVec.setWidth_eq]
  · refine (congrArg (BitVec.ofNat 32) (field_append_next (n := 0) (bytesOf_length 8 _))).trans ?_
    rw [field_append_first (bytesOf_length 4 _), natOf_half, BitVec.ofNat_toNat, BitVec.setWidth_eq]

section
variable {port : Nat} {tag a b c : DWord} {w : Word} {r y bs : List Byte} {s : State} (hr : r.length = 3) (hy : y.length = 7)
include hr

include hy in
theorem takeMessage_command {code : Nat} {p : List Byte} (hp : p.length < 2 ^ 32 - 8) : takeMessage port (hostMessage 0 r tag (hostPayload code y p)) s = takeCommand ⟨port, tag⟩ (hostPayload code y p) s := by
  have len := hostPayload_length hy code p
  obtain ⟨kind, length, id, payload, whole⟩ := hostMessage_parts (p := hostPayload code y p) (k := 0) hr (by omega) (by omega) tag
  have long : ¬ 16 + (hostPayload code y p).length < 16 + (hostPayload code y p).length := Nat.lt_irrefl _
  have full : (hostPayload code y p).isEmpty = false := rfl
  simp only [takeMessage, kind, length, id, payload, whole, if_neg long, full, Bool.false_eq_true, if_false]
include hy in
theorem takeMessage_admit (h : bs.length = 64) : takeMessage port (hostMessage 0 r tag (hostPayload 0 y bs)) s = exec (.admitJob ⟨port, tag⟩ bs) s := by
  have long : ¬(hostPayload 0 y bs).length < 72 := by rw [hostPayload_length hy, h]; omega
  rw [takeMessage_command hr hy (by omega)]
  simp only [takeCommand, hostPayload_code y bs (Nat.zero_lt_succ 255), if_neg long, hostPayload_drop hy, List.take_of_length_le h.le]
  rfl
include hy in
theorem takeMessage_write (h : bs.length < 2 ^ 31) : takeMessage port (hostMessage 0 r tag (hostPayload 1 y (bytesOf 8 a.toNat ++ bytesOf 8 b.toNat ++ bs))) s = exec (.hostWrite ⟨port, tag⟩ a.toNat b bs) s := by
  rw [takeMessage_command hr hy (by simp only [List.length_append, bytesOf_length]; omega)]
  have operands : (bytesOf 8 a.toNat ++ bytesOf 8 b.toNat).length = 16 := by simp only [List.length_append, bytesOf_length]
  have job : word64 (hostPayload 1 y (bytesOf 8 a.toNat ++ bytesOf 8 b.toNat ++ bs)) 8 = some a := (word64_hostPayload hy _ _ 0).trans (by rw [List.append_assoc, word64_first])
  have va : word64 (hostPayload 1 y (bytesOf 8 a.toNat ++ bytesOf 8 b.toNat ++ bs)) 16 = some b :=
    (word64_hostPayload hy _ _ 8).trans (by rw [List.append_assoc]; exact (word64_append_next (n := 0) (bytesOf_length 8 _)).trans (word64_first b bs))
  have data : (hostPayload 1 y (bytesOf 8 a.toNat ++ bytesOf 8 b.toNat ++ bs)).drop 24 = bs := by
    rw [show 24 = 8 + 16 from rfl, ← List.drop_drop, hostPayload_drop hy, List.drop_left' operands]
  simp only [takeCommand, hostPayload_code _ _ (by omega : 1 < 256), job, va, data]
  rfl
include hy in
theorem takeMessage_phase : takeMessage port (hostMessage 0 r tag (hostPayload 2 y (bytesOf 8 a.toNat ++ bytesOf 8 b.toNat))) s = exec (.appendPhase ⟨port, tag⟩ a.toNat b) s := by
  rw [takeMessage_command hr hy (by simp only [List.length_append, bytesOf_length]; omega)]
  have job : word64 (hostPayload 2 y (bytesOf 8 a.toNat ++ bytesOf 8 b.toNat)) 8 = some a := (word64_hostPayload hy _ _ 0).trans (word64_first a _)
  have va : word64 (hostPayload 2 y (bytesOf 8 a.toNat ++ bytesOf 8 b.toNat)) 16 = some b := (word64_hostPayload hy _ _ 8).trans ((word64_append_next (n := 0) (bytesOf_length 8 _)).trans (word64_whole b))
  simp only [takeCommand, hostPayload_code _ _ (by omega : 2 < 256), job, va]
  rfl
include hy in
theorem takeMessage_cancelPhase : takeMessage port (hostMessage 0 r tag (hostPayload 3 y (bytesOf 8 a.toNat ++ bytesOf 8 (2 : DWord).toNat ++ bytesOf 8 c.toNat))) s = exec (.cancelObject ⟨port, tag⟩ a.toNat .phase c) s := by
  rw [takeMessage_command hr hy (by simp only [List.length_append, bytesOf_length]; omega), List.append_assoc]
  have job : word64 (hostPayload 3 y (bytesOf 8 a.toNat ++ (bytesOf 8 (2 : DWord).toNat ++ bytesOf 8 c.toNat))) 8 = some a := (word64_hostPayload hy _ _ 0).trans (word64_first a _)
  have level : word64 (hostPayload 3 y (bytesOf 8 a.toNat ++ (bytesOf 8 (2 : DWord).toNat ++ bytesOf 8 c.toNat))) 16 = some 2 :=
    (word64_hostPayload hy _ _ 8).trans ((word64_append_next (n := 0) (bytesOf_length 8 _)).trans (word64_first 2 _))
  have va : word64 (hostPayload 3 y (bytesOf 8 a.toNat ++ (bytesOf 8 (2 : DWord).toNat ++ bytesOf 8 c.toNat))) 24 = some c :=
    (word64_hostPayload hy _ _ 16).trans ((word64_append_next (n := 8) (bytesOf_length 8 _)).trans ((word64_append_next (n := 0) (bytesOf_length 8 _)).trans (word64_whole c)))
  simp only [takeCommand, hostPayload_code _ _ (by omega : 3 < 256), job, level, va]
  rfl
include hy in
theorem takeMessage_retire : takeMessage port (hostMessage 0 r tag (hostPayload 4 y (bytesOf 8 a.toNat))) s = exec (.retireJob ⟨port, tag⟩ a.toNat) s := by
  rw [takeMessage_command hr hy (by rw [bytesOf_length]; omega)]
  have job : word64 (hostPayload 4 y (bytesOf 8 a.toNat)) 8 = some a := (word64_hostPayload hy _ _ 0).trans (word64_whole a)
  simp only [takeCommand, hostPayload_code _ _ (by omega : 4 < 256), job]
  rfl
theorem takeMessage_regRead : takeMessage port (hostMessage 1 r tag (bytesOf 8 a.toNat ++ bytesOf 4 w.toNat)) s = exec (.regRead ⟨port, tag⟩ a w) s := by
  have len : (bytesOf 8 a.toNat ++ bytesOf 4 w.toNat).length = 12 := by simp only [List.length_append, bytesOf_length]
  obtain ⟨kind, length, id, payload, whole⟩ := hostMessage_parts (p := bytesOf 8 a.toNat ++ bytesOf 4 w.toNat) (k := 1) hr (by omega) (by omega) tag
  obtain ⟨off, width⟩ := access_fields a w []
  rw [List.append_nil] at off width
  rw [len] at length whole payload
  simp only [takeMessage, kind, length, id, payload, whole, off, width, len, Nat.lt_irrefl, if_false]
  rfl
theorem takeMessage_regWrite : takeMessage port (hostMessage 2 r tag (bytesOf 8 a.toNat ++ bytesOf 4 w.toNat ++ bytesOf 8 b.toNat)) s = exec (.regWrite ⟨port, tag⟩ a w b) s := by
  have len : (bytesOf 8 a.toNat ++ bytesOf 4 w.toNat ++ bytesOf 8 b.toNat).length = 20 := by simp only [List.length_append, bytesOf_length]
  obtain ⟨kind, length, id, payload, whole⟩ := hostMessage_parts (p := bytesOf 8 a.toNat ++ bytesOf 4 w.toNat ++ bytesOf 8 b.toNat) (k := 2) hr (by omega) (by omega) tag
  obtain ⟨off, width⟩ := access_fields a w (bytesOf 8 b.toNat)
  rw [← List.append_assoc] at off width
  have access : (bytesOf 8 a.toNat ++ bytesOf 4 w.toNat).length = 12 := by simp only [List.length_append, bytesOf_length]
  have data : BitVec.ofNat 64 (field (bytesOf 8 a.toNat ++ bytesOf 4 w.toNat ++ bytesOf 8 b.toNat) 12 8) = b := by
    refine (congrArg (BitVec.ofNat 64) (field_append_next (n := 0) access)).trans ?_
    rw [field_whole (bytesOf_length 8 _), natOf_word, BitVec.ofNat_toNat, BitVec.setWidth_eq]
  rw [len] at length whole payload
  simp only [takeMessage, kind, length, id, payload, whole, off, width, data, len, Nat.lt_irrefl, if_false, if_neg (by omega : ¬ 20 < 12)]
  rfl
theorem takeMessage_ident : takeMessage port (hostMessage 7 r tag []) s = exec (.identMessage ⟨port, tag⟩) s := by
  obtain ⟨kind, length, id, -, whole⟩ := hostMessage_parts (p := []) (k := 7) hr (by simp) (by omega) tag
  simp only [takeMessage, kind, length, id, whole, Nat.lt_irrefl, if_false]
  rfl
theorem takeMessage_attest (h : bs.length = 32) : takeMessage port (hostMessage 8 r tag bs) s = exec (.attestMessage ⟨port, tag⟩ (BitVec.ofNat 256 (natOf bs))) s := by
  obtain ⟨kind, length, id, payload, whole⟩ := hostMessage_parts (p := bs) (k := 8) hr (by omega) (by omega) tag
  rw [h] at length whole payload
  simp only [takeMessage, kind, length, id, payload, whole, h, Nat.lt_irrefl, if_false, field_whole h]
  rfl
theorem takeMessage_fill (n : Nat) : takeMessage port (hostMessage 9 r tag (bytesOf 4 w.toNat ++ bytesOf 4 n)) s = exec (.fillPages (.command ⟨port, tag⟩ w.toNat (n % 2 ^ 32))) s := by
  have len : (bytesOf 4 w.toNat ++ bytesOf 4 n).length = 8 := by simp only [List.length_append, bytesOf_length]
  obtain ⟨kind, length, id, payload, whole⟩ := hostMessage_parts (p := bytesOf 4 w.toNat ++ bytesOf 4 n) (k := 9) hr (by omega) (by omega) tag
  have peer : field (bytesOf 4 w.toNat ++ bytesOf 4 n) 0 4 = w.toNat := by rw [field_append_first (bytesOf_length 4 _), natOf_half]
  have store : field (bytesOf 4 w.toNat ++ bytesOf 4 n) 4 4 = n % 2 ^ 32 := by
    refine (field_append_next (n := 0) (bytesOf_length 4 _)).trans ?_
    rw [field_whole (bytesOf_length 4 _), natOf_bytesOf]
    rfl
  rw [len] at length whole payload
  simp only [takeMessage, kind, length, id, payload, whole, peer, store, len, Nat.lt_irrefl, if_false]
  rfl
end

end Sys2Proof.Machine

/-! The host commands (R338). -/

namespace Sys2Proof.Machine
open Sys2Proof

/-- A message on a named port, at READY, is carried out. -/
theorem command_answered {i : Instr} {s : State} {h : HostTag} {busy : List Byte} {f : Platform → Device → Platform × Device} {p : Platform → Device → Prop} (he : exec i s = runPlatform s (whenReady h busy f)) (here : portNamed s.plat h = true ∧ s.plat.start = .ready)
    (hp : p (f s.plat s.dev).1 (f s.plat s.dev).2) : PlatformEvent i s p := by
  obtain ⟨named, ready⟩ := here
  have carried : whenReady h busy f s.plat s.dev = f s.plat s.dev := by simp [whenReady, named, ready]
  exact ⟨_, _, by rw [he, runPlatform, carried], hp⟩

/-- An answer leaves memory. -/
theorem readBytes_replyCmd (d : Device) (h : HostTag) (code status a n : Nat) : (replyCmd d h code status).readBytes a n = d.readBytes a n := readBytes_mem_congr (d := replyCmd d h code status) (e := d) rfl a n
theorem readByte_replyCmd (d : Device) (h : HostTag) (code status a : Nat) : (replyCmd d h code status).readByte a = d.readByte a := rfl

/-! ADMIT and RETIRE. -/

/-- What a host sees of a device: its memory, its jobs and the messages to it. -/
def Device.hosted (d : Device) : List Host.Cell × Tbl Job × List HostMsg := (d.mem, d.jobs, d.hostOut)
theorem hosted_postTo (P : Platform) (d : Device) (peer cls : Nat) (m : Posted) : (postTo P d peer cls m).hosted = d.hosted := by
  simp only [postTo, takeCredit]
  repeat' split
  all_goals rfl
theorem hosted_returnCredit (P : Platform) (d : Device) : (returnCredit P d).hosted = d.hosted := by
  simp only [returnCredit]
  split
  · rfl
  · exact (foldl_leaves Device.hosted (f := fun d (e : Nat × Peer) => d.emit P (.credit e.1 1)) (fun _ _ => rfl) _ _).trans rfl
/-- A job's own entry goes out, and the job notes the time (R410). -/
theorem hosted_sendOwn (P : Platform) {d : Device} {n : Nat} {j : Job} (h : d.job n = some j) : (sendOwn P d n).hosted = (d.mem, Tbl.modify (fun j => { j with sbSentAt := d.time }) d.jobs n, d.hostOut) := by
  have sent (ps : List Nat) (step : Word) : (ps.foldl (fun d p => postTo P d p 0 (Posted.sideboard p n step)) d).hosted = d.hosted :=
    foldl_leaves Device.hosted (f := fun d p => postTo P d p 0 (Posted.sideboard p n step)) (fun d p => hosted_postTo P d p 0 _) ps d
  simp only [sendOwn, h]
  generalize (List.range 512).filter _ = ps
  exact congrArg (fun x : List Host.Cell × Tbl Job × List HostMsg => (x.1, Tbl.modify (fun j => { j with sbSentAt := d.time }) x.2.1 n, x.2.2)) (sent ps _)
theorem admits_enters {h : HostTag} {r : List Byte} {P : Platform} {d : Device} (hr : jobRecordOk r = true) (hn : d.job (field r 0 1) = none) (hl : d.jobs.length < 64) :
    (admits h r P d).mem = d.mem ∧ (admits h r P d).hostOut = d.hostOut ++ [{ port := h.port, kind := 3, status := 0, tag := h.tag, payload := bytesOf 8 0 }] ∧
      ((admits h r P d).job (field r 0 1)).map (fun j => (j.state, j.prio, j.xroot)) = some (.running, field r 1 1, field r 16 8) := by
  let entered : Device := { d with jobs := Tbl.set d.jobs (field r 0 1) (newJob P d.time r) }
  have found : entered.job (field r 0 1) = some (newJob P d.time r) := find_set_same _ _ _
  have admitted : admits h r P d = replyCmd (sendOwn P entered (field r 0 1)) h 0 0 := if_neg (by simp [hr, hn, hl])
  have hosted := hosted_sendOwn P found
  simp only [Device.hosted, Prod.mk.injEq] at hosted
  obtain ⟨mem, jobs, out⟩ := hosted
  rw [admitted]
  refine ⟨mem, congrArg (· ++ _) out, ?_⟩
  change (Tbl.find (sendOwn P entered (field r 0 1)).jobs (field r 0 1)).map _ = _
  rw [jobs, find_modify_same]
  exact congrArg (Option.map _) (congrArg (Option.map _) found)
theorem retires_complete {h : HostTag} {n : Nat} {P : Platform} {d : Device} {j : Job} (hj : d.job n = some j) (hc : j.state = .complete) :
    (retires h n P d).mem = d.mem ∧ (retires h n P d).hostOut = d.hostOut ++ [{ port := h.port, kind := 3, status := 0, tag := h.tag, payload := bytesOf 8 4 }] ∧ (retires h n P d).job n = none := by
  have freed : (freeJob P d n).hosted = (d.mem, Tbl.erase d.jobs n, d.hostOut) := hosted_returnCredit P _
  simp only [Device.hosted, Prod.mk.injEq] at freed
  obtain ⟨mem, jobs, out⟩ := freed
  have retired : retires h n P d = replyCmd (freeJob P d n) h 4 0 := by simp only [retires, hj, hc, if_true]
  rw [retired]
  exact ⟨mem, congrArg (· ++ _) out, (congrArg (Tbl.find · n) jobs).trans (find_erase_same _ _)⟩

/-! WRITE. -/

/-- The pieces of a range are the range. -/
theorem linePieces_join {n : Nat} {va : DWord} {bs : List Byte} (h : bs.length < n) : (linePieces n va bs).flatMap (·.2) = bs := by
  induction n generalizing va bs with
  | zero => omega
  | succ n ih => cases bs with
    | nil => rfl
    | cons b t =>
      have rest : ((b :: t).drop (64 - va.toNat % 64)).length < n := by
        rw [List.length_drop, List.length_cons] at *
        omega
      rw [linePieces, if_neg (by simp), List.flatMap_cons, ih rest, List.take_append_drop]
/-- None of them crosses a line. -/
theorem linePieces_within {n : Nat} {va : DWord} {bs : List Byte} {x : DWord × List Byte} (hx : x ∈ linePieces n va bs) : x.1.toNat % 64 + x.2.length ≤ 64 := by
  induction n generalizing va bs with
  | zero => cases hx
  | succ n ih =>
    rw [linePieces] at hx
    split at hx
    · cases hx
    · obtain rfl | hx := List.mem_cons.1 hx
      · have short := List.length_take_le (64 - va.toNat % 64) bs
        dsimp only
        omega
      · exact ih hx
theorem linePieces_line {va : DWord} {bs : List Byte} (hb : bs ≠ []) (hl : va.toNat % 64 + bs.length ≤ 64) : linePieces (bs.length + 1) va bs = [(va, bs)] := by
  have short : bs.length ≤ 64 - va.toNat % 64 := by omega
  obtain ⟨n, hn⟩ : ∃ n, bs.length = n + 1 := Nat.exists_eq_add_one.2 (List.length_pos_iff.2 hb)
  simp only [hn, linePieces, List.isEmpty_eq_false_iff.2 hb, Bool.false_eq_true, if_false, List.take_of_length_le short, List.drop_eq_nil_of_le short, List.isEmpty_nil, if_true]

/-- The bytes of a range that lies apart from what is written stay. -/
theorem readBytes_congr {d e : Device} {a n : Nat} (h : ∀ i < n, d.readByte (a + i) = e.readByte (a + i)) : d.readBytes a n = e.readBytes a n := by
  rw [readBytes_eq_map, readBytes_eq_map]
  exact List.map_congr_left fun i hi => h i (List.mem_range.1 hi)
theorem apart_byte {a n b m i : Nat} (h : Apart a n b m) (hi : i < n) : Apart (a + i) 1 b m := by
  unfold Apart at *
  omega
section
variable {P : Platform} {src : Nat}

/-- Writes of an engine in turn. -/
def engineWrites (P : Platform) (src : Nat) (d : Device) (ws : List (Nat × List Byte)) : Device := ws.foldl (fun d w => engineWrite P src d w.1 w.2) d
theorem readByte_engineWrites_apart {ws : List (Nat × List Byte)} {d : Device} {a : Nat} (h : ∀ w ∈ ws, Apart a 1 w.1 w.2.length) : (engineWrites P src d ws).readByte a = d.readByte a := by
  induction ws generalizing d with
  | nil => rfl
  | cons w t ih => exact (ih fun x hx => h x (List.mem_cons_of_mem _ hx)).trans (readByte_engineWrite_apart P src d (h w List.mem_cons_self))
/-- Writes that have no byte in common all read back. -/
theorem readBytes_engineWrites_same {ws : List (Nat × List Byte)} {d : Device} (h : ws.Pairwise fun x y => Apart x.1 x.2.length y.1 y.2.length) : ∀ w ∈ ws, (engineWrites P src d ws).readBytes w.1 w.2.length = w.2 := by
  induction ws generalizing d with
  | nil => nofun
  | cons x t ih =>
    obtain ⟨first, rest⟩ := List.pairwise_cons.1 h
    intro w hw
    obtain rfl | hw := List.mem_cons.1 hw
    · have kept : (engineWrites P src (engineWrite P src d w.1 w.2) t).readBytes w.1 w.2.length = (engineWrite P src d w.1 w.2).readBytes w.1 w.2.length :=
        readBytes_congr fun i hi => readByte_engineWrites_apart fun y hy => apart_byte (first y hy) hi
      exact kept.trans (readBytes_engineWrite_same P src d w.1 w.2)
    · exact ih rest w hw
end
theorem collapseFor_plain {P : Platform} {die : Nat} {d : Device} {job : Nat} {va : DWord} {l : Leaf} {pa : Nat} (h : engineXlat d job .store die va = .ok l pa) (hl : l.repl = false) : collapseFor P die d job va = d := by
  simp only [collapseFor, h, hl, Bool.false_eq_true, if_false]
/-- Without a replicated page nothing collapses. -/
theorem collapses_plain {P : Platform} {die : Nat} {d : Device} {job : Nat} {xs : List (DWord × List Byte)} (h : ∀ x ∈ xs, ∃ l pa, engineXlat d job .store die x.1 = .ok l pa ∧ l.repl = false) :
    xs.foldl (fun d x => collapseFor P die d job x.1) d = d := by
  induction xs with
  | nil => rfl
  | cons x t ih =>
    obtain ⟨l, pa, at_, plain⟩ := h x List.mem_cons_self
    rw [List.foldl_cons, collapseFor_plain at_ plain]
    exact ih fun y hy => h y (List.mem_cons_of_mem _ hy)
/-- Where all pieces have their place once the pages have collapsed, each goes there. -/
theorem hostPieces_eq {P : Platform} {n : Nat} {d : Device} {xs : List (DWord × List Byte)} {pa : DWord → Nat} (h : ∀ x ∈ xs, ∃ l, engineXlat (xs.foldl (fun d x => collapseFor P 0 d n x.1) d) n .store 0 x.1 = .ok l (pa x.1)) :
    hostPieces P n d xs = engineWrites P 0 (xs.foldl (fun d x => collapseFor P 0 d n x.1) d) (xs.map fun x => (pa x.1, x.2)) := by
  have placed (e : Device) (ys : List (DWord × List Byte)) (hy : ∀ x ∈ ys, ∃ l, engineXlat e n .store 0 x.1 = .ok l (pa x.1)) :
      (ys.filterMap fun x => match engineXlat e n .store 0 x.1 with | .ok _ pa => some (pa, x.2) | _ => none) = ys.map fun x => (pa x.1, x.2) := by
    induction ys with
    | nil => rfl
    | cons y t ih =>
      obtain ⟨l, at_⟩ := hy y List.mem_cons_self
      simp only [List.filterMap_cons, at_, List.map_cons, ih fun z hz => hy z (List.mem_cons_of_mem _ hz)]
  exact congrArg (engineWrites P 0 _) (placed _ xs h)
section
variable {h : HostTag} {n : Nat} {va : DWord} {bs : List Byte} {P : Platform} {d : Device}

/-- The device once a WRITE has gone to memory: the notices are posted, and what the command engine starts next follows it. -/
def hostWritten (P : Platform) (d : Device) (n : Nat) (va : DWord) (bs : List Byte) : Device :=
  (noticeAll (hostPieces P n d (linePieces (bs.length + 1) va bs)) (sigOfAll (blocksOf va bs.length))).toCommand 0
theorem hostWritten_mem : (hostWritten P d n va bs).mem = (hostPieces P n d (linePieces (bs.length + 1) va bs)).mem := by
  have noticed := congrArg Device.mem (beside_noticeAll (hostPieces P n d (linePieces (bs.length + 1) va bs)) (sigOfAll (blocksOf va bs.length)))
  exact noticed
theorem hostWrites_goes (hj : (d.job n).isSome) (hb : bs ≠ []) (hl : bs.length ≤ 4096) (hw : ∀ x ∈ linePieces (bs.length + 1) va bs, hostWritable d n x.1 = true) :
    hostWrites h n va bs P d = replyCmd (hostWritten P d n va bs) h 1 0 := by
  have job : (d.job n).isNone = false := Option.isNone_eq_false_iff.2 hj
  have all : ((linePieces (bs.length + 1) va bs).all fun x => hostWritable d n x.1) = true := List.all_eq_true.2 hw
  refine if_neg ?_
  rw [job, List.isEmpty_eq_false_iff.2 hb, all, decide_eq_false (Nat.not_lt.2 hl)]
  exact Bool.false_ne_true
theorem hostWrites_refused (hw : ∃ x ∈ linePieces (bs.length + 1) va bs, hostWritable d n x.1 = false) : hostWrites h n va bs P d = replyCmd d h 1 2 := by
  obtain ⟨x, hx, bad⟩ := hw
  have refused : ((linePieces (bs.length + 1) va bs).all fun x => hostWritable d n x.1) = false := List.all_eq_false.2 ⟨x, hx, by rw [bad]; exact Bool.false_ne_true⟩
  refine if_pos ?_
  rw [refused]
  exact Bool.or_true _
theorem hostWritable_of {l : Leaf} {pa : Nat} (hx : engineXlat d n .store 0 va = .ok l pa) (hv : l.ver = false) : hostWritable d n va = true := by
  simp only [hostWritable, hx, hv, Bool.not_false]
/-- A WRITE within a line of a plain page. -/
theorem hostWritten_line {l : Leaf} {pa : Nat} (hb : bs ≠ []) (hl : va.toNat % 64 + bs.length ≤ 64) (hx : engineXlat d n .store 0 va = .ok l pa) (hr : l.repl = false) :
    (hostWritten P d n va bs).mem = (engineWrite P 0 d pa bs).mem ∧ (hostWritten P d n va bs).hostOut = d.hostOut := by
  have plain : [(va, bs)].foldl (fun d x => collapseFor P 0 d n x.1) d = d := collapses_plain (fun x hx' => ⟨l, pa, by rwa [List.mem_singleton.1 hx'], hr⟩)
  have gone : hostPieces P n d [(va, bs)] = engineWrite P 0 d pa bs := by
    rw [hostPieces_eq (pa := fun _ => pa) (fun x hx' => ⟨l, by rwa [plain, List.mem_singleton.1 hx']⟩), plain]
    rfl
  have out := congrArg Device.hostOut ((unwritten_noticeAll (engineWrite P 0 d pa bs) (sigOfAll (blocksOf va bs.length))).trans (unwritten_engineWrite P 0 d pa bs))
  refine ⟨by rw [hostWritten_mem, linePieces_line hb hl, gone], ?_⟩
  rw [hostWritten, linePieces_line hb hl, gone]
  exact out
end

/-! PHASE. -/

theorem addPhase_appends {d : Device} {h : HostTag} {n : Nat} {va : DWord} {j : Job} {r : List Byte} {gs : List DWord} (hj : d.job n = some j) (hs : j.state = .running) (hr : readRecord d n va 16 = some r) (hh : phaseHeaderOk r = true) (hg : phaseGraphs d n va (field r 4 2 % 257) = some gs) :
    (addPhase d h n va).mem = d.mem ∧ (addPhase d h n va).hostOut = d.hostOut ++ [{ port := h.port, kind := 3, status := 0, tag := h.tag, payload := bytesOf 8 2 }] ∧ ((addPhase d h n va).job n).map (·.phases) = some (j.phases ++ [d.nextId]) ∧
      (Tbl.find (addPhase d h n va).phases d.nextId).map (fun p => (p.job, p.record, p.started, p.graphs)) = some (n, va, false, gs) := by
  have runs : ¬(j.state != .running || !phaseHeaderOk r) = true := by simp [hs, hh]
  have found : Tbl.find d.jobs n = some j := hj
  simp only [addPhase, hj, hr, hg, if_neg runs]
  refine ⟨rfl, rfl, ?_, congrArg (Option.map _) (find_set_same _ _ _)⟩
  change (Tbl.find (Tbl.modify _ d.jobs n) n).map _ = _
  rw [find_modify_same, found]
  rfl

/-! CANCEL. -/

/-- A phase does not run. -/
def Device.idle (d : Device) (p : Nat) : Prop := (Tbl.find d.phases p).map (·.state) ≠ some .running
section
variable {P : Platform} {d e : Device} {p : Nat}

theorem idle_of (h : e.phases = d.phases) (hd : d.idle p) : e.idle p := by rwa [Device.idle, h]
theorem idle_of_unwritten (h : e.unwritten = d.unwritten) (hd : d.idle p) : e.idle p := by
  have phases := congrArg Device.phases h
  exact idle_of phases hd
theorem idle_of_beside (h : e.beside = d.beside) (hd : d.idle p) : e.idle p := by
  have phases := congrArg Device.phases h
  exact idle_of phases hd
theorem idle_ite {c : Prop} [Decidable c] (hd : d.idle p) (he : e.idle p) : (if c then d else e).idle p := by
  split <;> assumption
theorem idle_foldl {α : Type} {f : Device → α → Device} (hf : ∀ d x, d.idle p → (f d x).idle p) (l : List α) (hd : d.idle p) : (l.foldl f d).idle p := by
  induction l generalizing d with
  | nil => exact hd
  | cons x t ih => exact ih (hf d x hd)
/-- A phase that is set to a state other than running. -/
theorem idle_set {q : Nat} {x : Phase} (hx : x.state ≠ .running) (hd : d.idle p) : ({ d with phases := Tbl.set d.phases q x } : Device).idle p := by
  unfold Device.idle
  by_cases hq : p = q
  · subst hq
    rw [find_set_same]
    simpa using hx
  · rwa [find_set_other _ _ _ _ hq]
/-- A change that keeps the states of phases. -/
theorem idle_modify {q : Nat} {f : Phase → Phase} (hf : ∀ x, (f x).state = x.state) (hd : d.idle p) : ({ d with phases := Tbl.modify f d.phases q } : Device).idle p := by
  unfold Device.idle
  by_cases hq : p = q
  · subst hq
    rw [find_modify_same, Option.map_map, show Phase.state ∘ f = Phase.state from funext hf]
    exact hd
  · rwa [find_modify_other _ _ _ _ hq]
theorem idle_commandWrite {job : Nat} {va : DWord} {bs : List Byte} (h : d.idle p) : (commandWrite P d job va bs).idle p := idle_of_unwritten (unwritten_commandWrite _ _ _ _ _) h
theorem idle_checkJob {j : Nat} (h : d.idle p) : (checkJob P d j).idle p := by
  simp only [checkJob]
  split
  · exact h
  · split
    · exact idle_of rfl (idle_commandWrite (P := P) (d := d.modJob j fun x => { x with state := .complete }) (idle_of rfl h))
    · exact h
theorem idle_checkPhase {q : Nat} (h : d.idle p) : (checkPhase P d q).idle p := by
  simp only [checkPhase]
  split
  · exact h
  · rename_i x hx
    split
    · refine idle_checkJob ?_
      have written := idle_commandWrite (P := P) (job := x.job) (va := x.done) (bs := completionRecord x.count (endStatus (x.state == .cancelling) x.escalated x.failed) x.flags) (idle_set (q := q) (x := { x with state := .complete }) nofun h)
      split
      · exact idle_of rfl written
      · exact idle_of rfl written
    · exact h
theorem idle_checkGraph {g : Nat} (h : d.idle p) : (checkGraph P d g).idle p := by
  simp only [checkGraph]
  split
  · exact h
  · split
    · exact idle_checkPhase (idle_modify (fun _ => rfl) (idle_commandWrite (idle_of rfl h)))
    · exact h
theorem queueTeams_phases (l : Launch) (step : Word) (n i : Nat) (d : Device) : (queueTeams l step n i d).phases = d.phases := by
  induction n generalizing i d with
  | zero => rfl
  | succ n ih => exact (ih _ _).trans rfl
theorem idle_startLaunch {g node : Nat} (h : d.idle p) : (startLaunch P d g node).idle p := by
  simp only [startLaunch]
  split
  · exact h
  · exact idle_ite (idle_of (queueTeams_phases _ _ _ _ _) (idle_of rfl h)) (idle_ite (idle_of rfl h) (idle_commandWrite (idle_of rfl h)))
theorem idle_startNode {g node : Nat} (h : d.idle p) : (startNode P g d node).idle p := by
  simp only [startNode]
  split
  · exact h
  · split
    · exact h
    · split
      · exact idle_startLaunch h
      · exact idle_of rfl h
theorem idle_fireNode {g x : Nat} (h : d.idle p) : (fireNode P g d x).idle p := by
  simp only [fireNode]
  split
  · exact h
  · split
    · exact idle_startNode h
    · split
      · exact h
      · split
        · exact idle_startNode (idle_of rfl h)
        · exact idle_of rfl h
theorem idle_checkLaunch {l : Nat} (h : d.idle p) : (checkLaunch P d l).idle p := by
  simp only [checkLaunch]
  split
  · exact h
  · rename_i x hx
    split
    · exact h
    · have written := idle_commandWrite (P := P) (job := x.job) (va := x.done) (bs := completionRecord x.count (endStatus (x.state == .cancelling) x.escalated x.failed) x.flags)
        (idle_of (e := { d with launches := Tbl.set d.launches l { x with state := .complete, holders := [] }, cores := Tbl.mapVals (fun (c : Core) => { c with ranges := Tbl.erase c.ranges l }) d.cores }) rfl h)
      split
      · exact written
      · refine idle_checkGraph ?_
        split
        · exact idle_foldl (fun _ _ => idle_fireNode) _ (idle_of rfl written)
        · exact idle_of rfl written
theorem idle_teamGone {t : Team} {tid : Nat} (h : d.idle p) : (teamGone P d t tid).idle p := by
  have units : (freeTeamUnits d t).idle p := idle_of rfl (idle_foldl (f := fun d (e : Nat × Nat) => d.freeDrawer e.1 e.2) (fun _ _ h => idle_of rfl h) _ h)
  exact idle_of rfl (idle_foldl (f := fun d g => freeGroup P d g) (fun d g => idle_of_beside (beside_freeGroup P d g)) _ units)
theorem idle_markOrphan {l : Launch} (h : d.idle p) : (markOrphan d l).idle p := by
  have flagged (q : Nat) := idle_modify (q := q) (f := fun x : Phase => { x with flags := x.flags ||| 2 }) (fun _ => rfl) h
  unfold markOrphan
  cases l.phase with
  | none => cases l.graph <;> exact h
  | some q => cases l.graph <;> exact flagged q
theorem idle_teamCounted {t : Team} {how : TeamEnd} {orphan : Bool} {l : Launch} (h : d.idle p) : (teamCounted d t how orphan l).idle p := by
  have orphaned : (if orphan then markOrphan d l else d).idle p := by
    split
    · exact idle_markOrphan h
    · exact h
  have sent : (chunkSent (if orphan then markOrphan d l else d) t how l).idle p := by
    unfold chunkSent
    split
    · exact idle_of rfl orphaned
    · exact orphaned
  exact idle_of rfl sent
theorem idle_completeTeam {tid : Nat} {how : TeamEnd} (h : d.idle p) : (completeTeam P d tid how).idle p := by
  cases ht : Tbl.find d.teams tid with
  | none => simpa only [completeTeam, ht] using h
  | some t =>
    obtain ⟨orphan, e⟩ := completeTeam_eq (P := P) (how := how) ht
    rw [e]
    split
    · exact idle_checkJob (idle_teamGone h)
    · exact idle_checkJob (idle_checkLaunch (idle_teamCounted (idle_teamGone h)))
theorem idle_cancelTeam {tid : Nat} (h : d.idle p) : (cancelTeam P d tid).idle p := by
  have closed (d : Device) (g : Group) (h : d.idle p) : (discardEffects (haltGroup d g.id) g.id).idle p := idle_of_beside ((beside_discardEffects _ _).trans (beside_haltAt false d g.id)) h
  simp only [cancelTeam]
  split
  · exact h
  · split
    case h_1 | h_2 => exact idle_completeTeam h
    case h_3 => exact idle_of rfl h
    case h_4 | h_5 => exact h
    all_goals exact idle_foldl closed _ (idle_of rfl h)
theorem idle_cancelLaunch {esc : Bool} {l : Nat} (h : d.idle p) : (cancelLaunch P esc d l).idle p := by
  simp only [cancelLaunch]
  split
  · exact h
  · split
    · exact h
    · exact idle_checkLaunch (idle_foldl (fun _ _ => idle_cancelTeam) _ (idle_of rfl h))
theorem idle_cancelGraph {esc : Bool} {g : Nat} (h : d.idle p) : (cancelGraph P esc d g).idle p := by
  simp only [cancelGraph]
  split
  · exact h
  · split
    · exact h
    · exact idle_checkGraph (idle_foldl (fun _ _ => idle_cancelLaunch) _ (idle_of rfl h))
/-- A phase that is cancelled does not run any more. -/
theorem idle_cancelPhase (P : Platform) (esc : Bool) (d : Device) (p : Nat) : (cancelPhase P esc d p).idle p := by
  simp only [cancelPhase]
  split
  · rename_i hp
    simp [Device.idle, hp]
  · rename_i x hp
    split
    · rename_i hx
      simpa [Device.idle, hp] using hx
    · refine idle_checkPhase (idle_foldl (fun _ _ => idle_cancelGraph) _ ?_)
      simp [Device.idle, find_set_same]
end
theorem cancels_phase {h : HostTag} {n : Nat} {va : DWord} {P : Platform} {d : Device} {p : Nat} (hj : (d.job n).isSome) (hs : startedFrom d n .phase va = [(p, .running)]) : cancels h n .phase va P d = replyCmd (cancelPhase P false d p) h 3 0 := by
  have job : (d.job n).isNone = false := Option.isNone_eq_false_iff.2 hj
  simp only [cancels, hs, job]
  rfl
theorem cancels_nothing {h : HostTag} {n : Nat} {lv : Level} {va : DWord} {P : Platform} {d : Device} (hs : startedFrom d n lv va = []) : cancels h n lv va P d = replyCmd d h 3 2 := by
  simp only [cancels, hs, List.isEmpty_nil, Bool.or_true, if_true]

end Sys2Proof.Machine

namespace Sys2Proof
open Machine

/-- Settles O42: each command has one answer, from the device that it leaves; a message laid out as R443 has it is taken as what it is. -/
theorem hostCommandsCarriedOut : Obligations.host_commands_carried_out := by
  unfold Obligations.host_commands_carried_out
  refine ⟨?enters, ?line, ?pieces, ?refused, ?phase, ?cancel, ?nothing, ?retire, ?messages, ?reserved⟩
  case enters =>
    intro h r s here hr hn hl
    exact command_answered rfl here ⟨rfl, admits_enters hr hn hl⟩
  case line =>
    intro h n va bs s l pa here hj hb hl hx hv hr
    have writable : ∀ x ∈ linePieces (bs.length + 1) va bs, hostWritable s.dev n x.1 = true := by
      rw [linePieces_line hb hl]
      intro x hx'
      rw [List.mem_singleton.1 hx']
      exact hostWritable_of hx hv
    obtain ⟨mem, out⟩ := hostWritten_line (P := s.plat) hb hl hx hr
    refine command_answered rfl here ⟨rfl, ?_⟩
    dsimp only
    rw [hostWrites_goes hj hb (by omega) writable]
    refine ⟨?_, fun a apart => ?_, congrArg (· ++ _) out⟩
    · exact ((readBytes_replyCmd _ h 1 0 pa _).trans (readBytes_mem_congr mem pa _)).trans (readBytes_engineWrite_same s.plat 0 s.dev pa bs)
    · exact ((readByte_replyCmd _ h 1 0 a).trans (readByte_mem_congr mem a)).trans (readByte_engineWrite_apart s.plat 0 s.dev apart)
  case pieces =>
    intro pa h n va bs s here hj hb hl xs d0 hv hx hp _
    refine ⟨linePieces_join (Nat.lt_succ_self _), fun x hx' => linePieces_within hx', collapses_plain, ?_⟩
    have writable : ∀ x ∈ xs, hostWritable s.dev n x.1 = true := fun x hx' => by
      obtain ⟨l, p, at_, plain⟩ := hv x hx'
      exact hostWritable_of at_ plain
    have written : hostPieces s.plat n s.dev xs = engineWrites s.plat 0 d0 (xs.map fun x => (pa x.1, x.2)) := hostPieces_eq hx
    have mem : (hostWritten s.plat s.dev n va bs).mem = (engineWrites s.plat 0 d0 (xs.map fun x => (pa x.1, x.2))).mem := hostWritten_mem.trans (congrArg Device.mem written)
    refine command_answered rfl here ⟨rfl, ?_⟩
    dsimp only
    rw [hostWrites_goes hj hb hl writable]
    refine ⟨fun x hx' => ?_, fun a apart => ?_, List.mem_append_right _ (List.mem_singleton.2 rfl)⟩
    · exact ((readBytes_replyCmd _ h 1 0 _ _).trans (readBytes_mem_congr mem _ _)).trans (readBytes_engineWrites_same (List.pairwise_map.2 hp) _ (List.mem_map_of_mem hx'))
    · refine ((readByte_replyCmd _ h 1 0 a).trans (readByte_mem_congr mem a)).trans (readByte_engineWrites_apart fun w hw => ?_)
      obtain ⟨x, hx', rfl⟩ := List.mem_map.1 hw
      exact apart x hx'
  case refused =>
    intro h n va bs s here hb hw
    exact command_answered rfl here ⟨rfl, hostWrites_refused hw⟩
  case phase =>
    intro h n va s j r gs here held hj hs hr hh hg
    refine command_answered rfl here ?_
    rw [show phaseCommand h n va s.plat s.dev = (s.plat, addPhase s.dev h n va) from if_neg (Bool.eq_false_iff.1 held)]
    exact ⟨rfl, addPhase_appends hj hs hr hh hg⟩
  case cancel =>
    intro h n va s p here hj hs hp
    refine command_answered rfl here ⟨rfl, ?_⟩
    dsimp only
    rw [cancels_phase hj hs]
    exact ⟨List.mem_append_right _ (List.mem_singleton.2 rfl), idle_cancelPhase s.plat false s.dev p⟩
  case nothing =>
    intro h n lv va s here hs
    exact command_answered rfl here ⟨rfl, cancels_nothing hs⟩
  case retire =>
    intro h n s j here hj hc
    exact command_answered rfl here ⟨rfl, retires_complete hj hc⟩
  case messages =>
    intro msg cmd w port tag a b c x r y bs s hr hy hb
    exact ⟨takeMessage_admit hr hy, takeMessage_write hr hy hb, takeMessage_phase hr hy, takeMessage_cancelPhase hr hy, takeMessage_retire hr hy, takeMessage_regRead hr, takeMessage_regWrite hr, takeMessage_ident hr, takeMessage_attest hr, takeMessage_fill hr port⟩
  case reserved =>
    intro h kind code s here hk
    refine command_answered rfl here ?_
    have reserved : reservedMessage kind code = true := by simpa [reservedMessage] using hk
    exact ⟨rfl, if_pos reserved⟩

end Sys2Proof

/-! Version homes and the slots of their records (R224, R225). -/

namespace Sys2Proof.Machine
open Sys2Proof

/-! Bytes and numbers. -/

theorem natOf_lt (bs : List Byte) : natOf bs < 256 ^ bs.length := by
  induction bs with
  | nil => exact Nat.one_pos
  | cons b t ih =>
    have low := b.isLt
    rw [natOf, List.length_cons, Nat.pow_succ']
    omega
theorem readBytes_length (d : Device) (a n : Nat) : (d.readBytes a n).length = n := by rw [readBytes_eq_map, List.length_map, List.length_range]
theorem readNat_lt (d : Device) (a n : Nat) : d.readNat a n < 256 ^ n := by
  have low := natOf_lt (d.readBytes a n)
  rwa [readBytes_length] at low
theorem readBytes_append (d : Device) (a m n : Nat) : d.readBytes a (m + n) = d.readBytes a m ++ d.readBytes (a + m) n := by
  induction m generalizing a with
  | zero => simp [Device.readBytes]
  | succ m ih => rw [Nat.succ_add, Device.readBytes, Device.readBytes, ih, List.cons_append, Nat.add_assoc, Nat.add_comm 1 m]
/-- A byte apart from written bytes. -/
theorem apart_of_ne {a b n : Nat} (h : ∀ i < n, b ≠ a + i) : Apart b 1 a n := by
  unfold Apart
  by_contra hc
  exact h (b - a) (by omega) (by omega)
theorem ne_of_apart {a b n i : Nat} (h : Apart b 1 a n) (hi : i < n) : b ≠ a + i := by
  unfold Apart at h
  omega
theorem apart_symm {a n b m : Nat} (h : Apart a n b m) : Apart b m a n := Or.symm h

/-! Slots. -/

/-- The fields of a slot lie within their widths in the record. -/
def Slot.fits (s : Slot) : Prop := s.frame < 2 ^ 64 ∧ s.step < 2 ^ 32 ∧ s.state < 256 ∧ s.late < 2 ^ 16
section
variable {P : Platform} {d e : Device} {r j : Nat} {s : Slot}

theorem readSlot_fits (d : Device) (r j : Nat) : (readSlot d r j).fits := ⟨readNat_lt d _ 8, readNat_lt d _ 4, readNat_lt d _ 1, readNat_lt d _ 2⟩
/-- The bytes of a slot. -/
def slotBytes (s : Slot) : List Byte := bytesOf 8 s.frame ++ bytesOf 4 s.step ++ bytesOf 1 s.state ++ [0] ++ bytesOf 2 s.late
theorem slotBytes_length (s : Slot) : (slotBytes s).length = 16 := by simp only [slotBytes, List.length_append, bytesOf_length, List.length_singleton]
/-- The sixteen bytes of a slot are those of its fields, with one between. -/
theorem slot_fields {a : Nat} (h : d.readBytes a 16 = slotBytes s) : d.readBytes a 8 = bytesOf 8 s.frame ∧ d.readBytes (a + 8) 4 = bytesOf 4 s.step ∧ d.readBytes (a + 12) 1 = bytesOf 1 s.state ∧ d.readBytes (a + 14) 2 = bytesOf 2 s.late := by
  rw [slotBytes, show 16 = 8 + 4 + 1 + 1 + 2 from rfl, readBytes_append, readBytes_append, readBytes_append, readBytes_append] at h
  obtain ⟨h, late⟩ := List.append_inj' h (by rw [readBytes_length, bytesOf_length])
  obtain ⟨h, -⟩ := List.append_inj' h (by rw [readBytes_length, List.length_singleton])
  obtain ⟨h, state⟩ := List.append_inj' h (by rw [readBytes_length, bytesOf_length])
  obtain ⟨frame, step⟩ := List.append_inj' h (by rw [readBytes_length, bytesOf_length])
  exact ⟨frame, step, state, late⟩
/-- A slot reads as it was written. -/
theorem readSlot_writeSlot (P : Platform) (d : Device) (r j : Nat) (h : s.fits) : readSlot (writeSlot P d r j s) r j = s := by
  have written := readBytes_engineWrite_same P (homeDie r) d (r + 16 * j) (slotBytes s)
  rw [slotBytes_length] at written
  obtain ⟨frame, step, state, late⟩ := slot_fields written
  obtain ⟨hf, hs, ht, hl⟩ := h
  cases s
  simp only [writeSlot, readSlot, Device.readNat]
  simp only [slotBytes] at frame step state late
  rw [frame, step, state, late]
  simp only [natOf_bytesOf, Slot.mk.injEq]
  exact ⟨Nat.mod_eq_of_lt hf, Nat.mod_eq_of_lt hs, Nat.mod_eq_of_lt ht, Nat.mod_eq_of_lt hl⟩
theorem readByte_writeSlot_apart {b : Nat} (h : Apart b 1 (r + 16 * j) 16) : (writeSlot P d r j s).readByte b = d.readByte b :=
  readByte_engineWrite_apart P (homeDie r) d (bs := slotBytes s) (by rwa [slotBytes_length])
theorem unwritten_writeSlot (P : Platform) (d : Device) (r j : Nat) (s : Slot) : (writeSlot P d r j s).unwritten = d.unwritten := unwritten_engineWrite _ _ _ _ _
/-- Slots are read from memory. -/
theorem readSlot_mem (h : d.mem = e.mem) (r j : Nat) : readSlot d r j = readSlot e r j := by
  simp only [readSlot, Device.readNat, readBytes_mem_congr h]
theorem readSlots_mem (h : d.mem = e.mem) (r : Nat) : readSlots d r = readSlots e r := by simp only [readSlots, readSlot_mem h]
/-- A slot whose bytes stay, stays. -/
theorem readSlot_bytes (h : ∀ b, r + 16 * j ≤ b → b < r + 16 * j + 16 → d.readByte b = e.readByte b) : readSlot d r j = readSlot e r j := by
  have part (k n : Nat) (hk : k + n ≤ 16) : d.readBytes (r + 16 * j + k) n = e.readBytes (r + 16 * j + k) n := readBytes_congr fun i hi => h _ (by omega) (by omega)
  simp only [readSlot, Device.readNat, part 8 4 (by omega), part 12 1 (by omega), part 14 2 (by omega)]
  rw [show d.readBytes (r + 16 * j) 8 = e.readBytes (r + 16 * j) 8 from part 0 8 (by omega)]
end

/-! Homes. -/

theorem home_modHome (d : Device) (r : Nat) (f : Home → Home) : (d.modHome r f).home r = f (d.home r) := by
  rw [Device.home, Device.modHome, Tbl.getD, find_set_same, Option.getD_some]
theorem home_of {d e : Device} (h : e.homes = d.homes) (r : Nat) : e.home r = d.home r := by rw [Device.home, Device.home, h]
theorem homes_of_unwritten {d e : Device} (h : d.unwritten = e.unwritten) : d.homes = e.homes := by
  have h := congrArg Device.homes h
  exact h
/-- What a home keeps and what its record says settle which slot a step has (R225). -/
theorem chooseSlot_of {d e : Device} {r : Nat} (hm : e.mem = d.mem) (ht : (e.home r).transfers = (d.home r).transfers) (n : Nat) : chooseSlot e r n = chooseSlot d r n := by
  have busy : slotBusyAt (e.home r) = slotBusyAt (d.home r) := by
    funext j
    rw [slotBusyAt, ht, slotBusyAt]
  rw [chooseSlot, readSlots_mem hm, busy, chooseSlot]

/-! What completes does to the homes. -/

theorem homes_writeTiles (d : Device) (core job : Nat) (ws : List (Nat × Nat × Word)) : (writeTiles d core job ws).homes = d.homes := by
  simp only [writeTiles]
  split <;> rfl
theorem homes_freeEntry (d : Device) (core : Nat) : (freeEntry d core).homes = d.homes := foldl_leaves (f := retryStalls .table) Device.homes (fun _ _ => rfl) _ _
theorem homes_opEnded (d : Device) (gid id : Nat) (g : Group) (o : Op) : (opEnded d gid id g o).homes = d.homes := by
  have written : (if g.state == .halted then (d.modGroup gid (Group.endOp id o)).modGroup gid fun g => writeSaved g o.tileWrites else writeTiles (d.modGroup gid (Group.endOp id o)) g.core g.job o.tileWrites).homes = d.homes :=
    ite_leaves Device.homes rfl (homes_writeTiles _ _ _ _)
  exact ite_leaves Device.homes (a := freeEntry _ g.core) ((homes_freeEntry _ _).trans written) written
theorem homes_finishOp (d : Device) (gid id : Nat) : (finishOp d gid id).homes = d.homes := by
  cases hg : Tbl.find d.groups gid with
  | none => simp only [finishOp, hg]
  | some g => cases ho : g.ops.find? fun o => o.id == id with
    | none => simp only [finishOp, hg, ho]
    | some o =>
      obtain ⟨k, cl, h⟩ := finishOp_cases hg ho
      have landed : (landResult (opEnded d gid id g o) gid k o.writes o.tr 0 cl).homes = d.homes := (of_rest Device.homes (fun _ => rfl) (rest_landResult _ _ _ _ _ _ _)).trans (homes_opEnded d gid id g o)
      obtain h | ⟨l, h⟩ := h <;> rw [h]
      · exact landed
      · exact (of_rest Device.homes (fun _ => rfl) (rest_reopen _ _ _)).trans landed

end Sys2Proof.Machine

/-! Stores at a version home (R225). -/

namespace Sys2Proof.Machine
open Sys2Proof

/-! Bytes in a frame. -/

/-- Within a line, the bytes of a frame follow one another (R198). -/
theorem framePhys_add {attr : BitVec 8} {frame off i : Nat} (h : off % 64 + i < 64) : framePhys attr frame (off + i) = framePhys attr frame off + i := by
  have granule : (off + i) / 4096 = off / 4096 := by omega
  have within : (off + i) % 4096 = off % 4096 + i := by omega
  simp only [framePhys, granule, within]
  omega
theorem readByte_engineWrite_at (P : Platform) (src : Nat) (d : Device) (a : Nat) {bs : List Byte} {i : Nat} (h : i < bs.length) : some ((engineWrite P src d a bs).readByte (a + i)) = bs[i]? := by
  have written := readBytes_engineWrite_same P src d a bs
  rw [readBytes_eq_map] at written
  have at_ := congrArg (·[i]?) written
  rw [List.getElem?_map, List.getElem?_range h] at at_
  exact at_
section
variable {P : Platform} {src : Nat} {code : Bool} {attr : BitVec 8} {frame n off : Nat} {bs : List Byte} {d : Device}

/-- What a write of an engine and a hidden byte leave, a store into a frame leaves. -/
theorem writeFrame_leaves {β : Type} (p : Device → β) (hw : ∀ d a bs, p (engineWrite P src d a bs) = p d) (hh : ∀ d a n, p (hideCode d a n) = p d) : p (writeFrame P src code attr frame n off bs d) = p d := by
  induction n generalizing off bs d with
  | zero => rfl
  | succ n ih =>
    rw [writeFrame]
    refine ite_leaves p rfl (ih.trans ((hw _ _ _).trans (ite_leaves p (hh _ _ _) rfl)))
theorem readByte_hidden (code : Bool) (d : Device) (a n b : Nat) : (if code then hideCode d a n else d).readByte b = d.readByte b := ite_leaves (·.readByte b) rfl rfl
theorem readByte_writeFrame_other {b : Nat} (h : ∀ i < bs.length, b ≠ framePhys attr frame (off + i)) : (writeFrame P src code attr frame n off bs d).readByte b = d.readByte b := by
  induction n generalizing off bs d with
  | zero => rfl
  | succ n ih =>
    rw [writeFrame]
    split
    · rfl
    · have rest : ∀ i < (bs.drop (64 - off % 64)).length, b ≠ framePhys attr frame (off + (64 - off % 64) + i) := fun i hi => by
        rw [List.length_drop] at hi
        rw [Nat.add_assoc]
        exact h _ (by omega)
      have line : Apart b 1 (framePhys attr frame off) (bs.take (64 - off % 64)).length := apart_of_ne fun i hi => by
        rw [List.length_take] at hi
        rw [← framePhys_add (by omega)]
        exact h i (by omega)
      exact (ih rest).trans ((readByte_engineWrite_apart P src _ line).trans (readByte_hidden _ _ _ _ _))
/-- A store whose bytes lie at places of their own reads back. -/
theorem readByte_writeFrame_at (hn : bs.length < n) (hinj : ∀ i < bs.length, ∀ k < bs.length, framePhys attr frame (off + i) = framePhys attr frame (off + k) → i = k) {i : Nat} (hi : i < bs.length) :
    some ((writeFrame P src code attr frame n off bs d).readByte (framePhys attr frame (off + i))) = bs[i]? := by
  induction n generalizing off bs d i with
  | zero => omega
  | succ n ih =>
    have some_ : bs.isEmpty = false := List.isEmpty_eq_false_iff.2 (List.ne_nil_of_length_pos (by omega))
    have length := List.length_drop (l := bs) (i := 64 - off % 64)
    rw [writeFrame, some_, if_neg Bool.false_ne_true]
    by_cases line : i < 64 - off % 64
    · have later : ∀ k < (bs.drop (64 - off % 64)).length, framePhys attr frame (off + i) ≠ framePhys attr frame (off + (64 - off % 64) + k) := fun k hk same => by
        rw [Nat.add_assoc] at same
        have := hinj i hi _ (by omega) same
        omega
      have here : i < (bs.take (64 - off % 64)).length := by
        rw [List.length_take]
        omega
      rw [readByte_writeFrame_other later, framePhys_add (by omega), readByte_engineWrite_at _ _ _ _ here, List.getElem?_take_of_lt line]
    · have rest := ih (off := off + (64 - off % 64)) (bs := bs.drop (64 - off % 64)) (d := engineWrite P src (if code then hideCode d (framePhys attr frame off) (min (64 - off % 64) bs.length) else d) (framePhys attr frame off) (bs.take (64 - off % 64))) (by omega) (fun i hi k hk same => by
        rw [Nat.add_assoc, Nat.add_assoc] at same
        have := hinj _ (by omega) _ (by omega) same
        omega) (i := i - (64 - off % 64)) (by omega)
      rw [List.getElem?_drop] at rest
      rwa [show off + (64 - off % 64) + (i - (64 - off % 64)) = off + i by omega, show 64 - off % 64 + (i - (64 - off % 64)) = i by omega] at rest
/-- A store within a line is one write. -/
theorem writeFrame_line (h : off % 64 + bs.length ≤ 64) :
    (writeFrame P src code attr frame (bs.length + 1) off bs d).readBytes (framePhys attr frame off) bs.length = bs ∧ ∀ b, Apart b 1 (framePhys attr frame off) bs.length → (writeFrame P src code attr frame (bs.length + 1) off bs d).readByte b = d.readByte b := by
  have inLine {i : Nat} (hi : i < bs.length) : framePhys attr frame (off + i) = framePhys attr frame off + i := framePhys_add (by omega)
  refine ⟨?_, fun b hb => readByte_writeFrame_other fun i hi => by rw [inLine hi]; exact ne_of_apart hb hi⟩
  rw [readBytes_eq_map]
  refine List.ext_getElem? fun i => ?_
  by_cases hi : i < bs.length
  · rw [List.getElem?_map, List.getElem?_range hi, Option.map_some, ← inLine hi]
    refine readByte_writeFrame_at (Nat.lt_succ_self _) (fun i hi k hk same => ?_) hi
    rw [inLine hi, inLine hk] at same
    omega
  · rw [List.getElem?_eq_none (by simpa using hi), List.getElem?_eq_none (by omega)]
end

/-! Acknowledgements (R207). -/

section
variable (d : Device) (x : VerStore) (applied : Bool)

/-- A lane of the instruction's store has been acknowledged. -/
def laneAcked (d : Device) (gid op : Nat) : Device := d.modGroup gid fun g => { g with ops := g.ops.map fun o => if o.id == op then { o with parts := o.parts - 1 } else o }
theorem ackVersion_group (gid op lane : Nat) (h : x.source = .group gid op lane) : ackVersion d x applied = laneAcked d gid op ∨ ackVersion d x applied = finishOp (laneAcked d gid op) gid op := by
  simp only [ackVersion, h]
  split
  · exact .inr rfl
  · exact .inl rfl
/-- An acknowledgement changes no byte and no home. -/
theorem ackVersion_leaves : (ackVersion d x applied).mem = d.mem ∧ (ackVersion d x applied).homes = d.homes := by
  cases hs : x.source with
  | group gid op lane =>
    obtain h | h := ackVersion_group d x applied gid op lane hs <;> rw [h]
    · exact ⟨rfl, rfl⟩
    · exact ⟨(finishOp_mem _ _ _).trans rfl, (homes_finishOp _ _ _).trans rfl⟩
  | result job =>
    simp only [ackVersion, hs]
    cases applied <;> exact ⟨rfl, rfl⟩
  | mirror => simp [ackVersion, hs]
  | fill => simp [ackVersion, hs]
/-- It changes the registers of no group but the one that stored. -/
theorem regsOf_ackVersion (k : Nat) : regsOf (ackVersion d x applied) k = regsOf d k ∨ ∃ op lane, x.source = .group k op lane := by
  cases hs : x.source with
  | group gid op lane =>
    by_cases hk : k = gid
    · exact .inr ⟨op, lane, by rw [hk]⟩
    · have acked : regsOf (laneAcked d gid op) k = regsOf d k := viewAt_modGroup_other Group.regs d _ hk
      refine .inl ?_
      obtain h | h := ackVersion_group d x applied gid op lane hs <;> rw [h]
      · exact acked
      · cases hg : Tbl.find (laneAcked d gid op).groups gid with
        | none => simpa only [finishOp, hg] using acked
        | some g => cases ho : g.ops.find? fun o => o.id == op with
          | none => simpa only [finishOp, hg, ho] using acked
          | some o => rw [regsOf_finishOp hg ho, if_neg hk, acked]
  | result job =>
    simp only [ackVersion, hs]
    cases applied <;> exact .inl rfl
  | mirror => exact .inl (by simp only [ackVersion, hs])
  | fill => exact .inl (by simp only [ackVersion, hs])
end

/-! The next store. -/

/-- The store that a home takes next: a held one to which a row applies, or the one that arrived first, with those that stay held and those that stay queued. -/
def NextStore (d : Device) (r : Nat) (x : VerStore) (held rest : List VerStore) : Prop :=
  (d.home r).fill = none ∧ recordOk d r = true ∧
    (((d.home r).heldStores = x :: held ∧ (d.home r).stores = rest ∧ chooseSlot d r x.step ≠ .hold) ∨ ((d.home r).heldStores = held ∧ (∀ y ∈ held, chooseSlot d r y.step = .hold) ∧ (d.home r).stores = x :: rest))
/-- The device without it. -/
def storeTaken (d : Device) (r : Nat) (held rest : List VerStore) : Device := d.modHome r fun h => { h with heldStores := held, stores := rest }
section
variable {P : Platform} {d : Device} {r : Nat} {x : VerStore} {held rest : List VerStore}

theorem home_storeTaken (d : Device) (r : Nat) (held rest : List VerStore) : (storeTaken d r held rest).home r = { d.home r with heldStores := held, stores := rest } := home_modHome _ _ _
theorem chooseSlot_storeTaken (d : Device) (r : Nat) (held rest : List VerStore) (n : Nat) : chooseSlot (storeTaken d r held rest) r n = chooseSlot d r n := by
  have transfers : ((storeTaken d r held rest).home r).transfers = (d.home r).transfers := by rw [home_storeTaken]
  exact chooseSlot_of (d := d) (e := storeTaken d r held rest) rfl transfers n
theorem readSlot_storeTaken (d : Device) (r : Nat) (held rest : List VerStore) (j : Nat) : readSlot (storeTaken d r held rest) r j = readSlot d r j := readSlot_mem rfl r j
theorem firstHeld_none {l : List VerStore} (ho : recordOk d r = true) (h : ∀ y ∈ l, chooseSlot d r y.step = .hold) : firstHeld d r l = none := by
  induction l with
  | nil => rfl
  | cons y t ih =>
    have stays : ¬(!recordOk d r || chooseSlot d r y.step != .hold) = true := by simp [ho, h y List.mem_cons_self]
    rw [firstHeld, if_neg stays, ih fun z hz => h z (List.mem_cons_of_mem _ hz)]
    rfl
theorem storeRow_some {e : Device} (hc : chooseSlot e r x.step ≠ .hold) : (storeRow P e r x).isSome = true := by
  simp only [storeRow]
  split
  · rfl
  · split
    case h_4 h => exact absurd h hc
    all_goals rfl
/-- A home does with its next store what its row says, or holds it. -/
theorem versionStores_next (h : NextStore d r x held rest) :
    versionStores r P d = (storeRow P (storeTaken d r held rest) r x).getD ((storeTaken d r held rest).modHome r fun h => { h with heldStores := h.heldStores ++ [x] }) := by
  obtain ⟨fill, ok, next⟩ := h
  have idle : ¬(d.home r).fill.isSome = true := by rw [fill]; exact Bool.false_ne_true
  obtain ⟨first, arrived, row⟩ | ⟨first, waits, arrived⟩ := next
  · have taken : (d.modHome r fun h => { h with heldStores := held }) = storeTaken d r held rest := by
      rw [storeTaken, Device.modHome, ← arrived]
      rfl
    have applies : (!recordOk d r || chooseSlot d r x.step != .hold) = true := by simp [row]
    obtain ⟨e, he⟩ := Option.isSome_iff_exists.1 (storeRow_some (P := P) (e := storeTaken d r held rest) (by rwa [chooseSlot_storeTaken]))
    simp only [versionStores, if_neg idle, first, firstHeld, if_pos applies, taken, he, Option.getD_some]
  · have taken : (d.modHome r fun h => { h with stores := rest }) = storeTaken d r held rest := by
      rw [storeTaken, Device.modHome, ← first]
      rfl
    simp only [versionStores, if_neg idle, first, firstHeld_none ok waits, arrived, taken]
end

/-! The rows of R225. -/

/-- A fill is due, a held store is due, or a seal: the queues of a home. -/
def storesLeft (r : Nat) (held rest : List VerStore) (d : Device) : Prop := (d.home r).heldStores = held ∧ (d.home r).stores = rest
section
variable {P : Platform} {d : Device} {r j : Nat} {x : VerStore} {held rest : List VerStore}

theorem storesLeft_of {e : Device} (h : e.homes = (storeTaken d r held rest).homes) : storesLeft r held rest e := by
  rw [storesLeft, home_of h, home_storeTaken]
  exact ⟨rfl, rfl⟩
/-- Whether a store's bytes are kept from instruction fetch: a group's are. -/
def hidesCode (x : VerStore) : Bool := match x.source with | .group _ _ _ => true | _ => false
/-- A store's notice is posted. -/
def storeNoticed (d : Device) (x : VerStore) : Device := match x.notice with | some va => noticeAll d (sigOfAll (blocksOf va x.data.length)) | none => d
/-- A store written into a slot's frame. -/
def storeWritten (P : Platform) (d : Device) (r j : Nat) (x : VerStore) : Device :=
  writeFrame P (versionDie d r x) (hidesCode x) (d.home r).attr (readSlot d r j).frame (x.data.length + 1) x.offset x.data d
theorem applyStore_eq (P : Platform) (d : Device) (r j : Nat) (x : VerStore) : applyStore P d r j x = ackVersion (storeNoticed (storeWritten P d r j x) x) x true := rfl
theorem storeNoticed_leaves (d : Device) (x : VerStore) : (storeNoticed d x).mem = d.mem ∧ (storeNoticed d x).homes = d.homes ∧ (storeNoticed d x).groups = d.groups := by
  simp only [storeNoticed]
  split
  · exact ⟨mem_of_beside (beside_noticeAll _ _), homes_of_unwritten (unwritten_noticeAll _ _), noticeAll_groups _ _⟩
  · exact ⟨rfl, rfl, rfl⟩
theorem storeWritten_leaves (P : Platform) (d : Device) (r j : Nat) (x : VerStore) : (storeWritten P d r j x).homes = d.homes ∧ (storeWritten P d r j x).groups = d.groups :=
  ⟨writeFrame_leaves Device.homes (fun _ _ _ => homes_of_unwritten (unwritten_engineWrite _ _ _ _ _)) fun _ _ _ => rfl, writeFrame_leaves Device.groups (fun _ _ _ => groups_of_unwritten (unwritten_engineWrite _ _ _ _ _)) fun _ _ _ => rfl⟩
/-- What an applied store leaves of memory, homes and registers. -/
theorem applyStore_leaves (P : Platform) (d : Device) (r j : Nat) (x : VerStore) :
    (applyStore P d r j x).mem = (storeWritten P d r j x).mem ∧ (applyStore P d r j x).homes = d.homes ∧ ∀ k, regsOf (applyStore P d r j x) k = regsOf d k ∨ ∃ op lane, x.source = .group k op lane := by
  obtain ⟨mem, homes⟩ := ackVersion_leaves (storeNoticed (storeWritten P d r j x) x) x true
  obtain ⟨mem', homes', groups'⟩ := storeNoticed_leaves (storeWritten P d r j x) x
  obtain ⟨homes'', groups''⟩ := storeWritten_leaves P d r j x
  rw [applyStore_eq]
  refine ⟨mem.trans mem', homes.trans (homes'.trans homes''), fun k => (regsOf_ackVersion _ x true k).imp_left fun h => h.trans ?_⟩
  rw [regsOf, groups', groups'']
  rfl
/-- A store of a step whose slot is OPEN writes its bytes there. -/
theorem versionStores_applies (h : NextStore d r x held rest) (hc : chooseSlot d r x.step = .apply j) (hf : x.source ≠ .fill) (hl : x.offset % 64 + x.data.length ≤ 64) :
    let a := framePhys (d.home r).attr (readSlot d r j).frame x.offset
    (versionStores r P d).readBytes a x.data.length = x.data ∧ (∀ b, Apart b 1 a x.data.length → (versionStores r P d).readByte b = d.readByte b) ∧ storesLeft r held rest (versionStores r P d) ∧
      ∀ k, regsOf (versionStores r P d) k = regsOf d k ∨ ∃ op lane, x.source = .group k op lane := by
  have applied : versionStores r P d = applyStore P (storeTaken d r held rest) r j x := by
    have ok : recordOk (storeTaken d r held rest) r = true := h.2.1
    have row : sealImage P (applyStore P (storeTaken d r held rest) r j x) r j x = applyStore P (storeTaken d r held rest) r j x := if_neg hf
    rw [versionStores_next h, storeRow, ok]
    simp only [Bool.not_true, Bool.false_eq_true, if_false, chooseSlot_storeTaken, hc, Option.getD_some, row]
  obtain ⟨mem, homes, regs⟩ := applyStore_leaves P (storeTaken d r held rest) r j x
  have attr : ((storeTaken d r held rest).home r).attr = (d.home r).attr := by rw [home_storeTaken]
  have slot := readSlot_storeTaken d r held rest j
  rw [applied]
  obtain ⟨same, other⟩ := writeFrame_line (P := P) (src := versionDie (storeTaken d r held rest) r x) (code := hidesCode x) (attr := (d.home r).attr) (frame := (readSlot d r j).frame) (d := storeTaken d r held rest) hl
  rw [storeWritten, attr, slot] at mem
  exact ⟨(readBytes_mem_congr mem _ _).trans same, fun b hb => (readByte_mem_congr mem b).trans (other b hb), storesLeft_of homes, regs⟩
/-- One for a step that waits on no slot is held. -/
theorem versionStores_holds (h : NextStore d r x held rest) (hc : chooseSlot d r x.step = .hold) :
    (versionStores r P d).mem = d.mem ∧ (versionStores r P d).groups = d.groups ∧ storesLeft r (held ++ [x]) rest (versionStores r P d) := by
  have stays : versionStores r P d = (storeTaken d r held rest).modHome r fun h => { h with heldStores := h.heldStores ++ [x] } := by
    have ok : recordOk (storeTaken d r held rest) r = true := h.2.1
    rw [versionStores_next h, storeRow, ok]
    simp only [Bool.not_true, Bool.false_eq_true, if_false, chooseSlot_storeTaken, hc, Option.getD_none]
  rw [stays, storesLeft, home_modHome, home_storeTaken]
  exact ⟨rfl, rfl, rfl, rfl⟩
end

/-! Slots charged, opened and sealed. -/

section
variable {P : Platform} {d : Device} {r j : Nat}

/-- A late store or seal is counted with its slot. -/
def Slot.charged (s : Slot) : Slot := { s with late := min 0xFFFF (s.late + 1) }
/-- A slot is opened for a step. -/
def Slot.opened (s : Slot) (n : Nat) : Slot := { s with step := n, state := 1, late := 0 }
/-- A slot is sealed. -/
def Slot.sealed (s : Slot) : Slot := { s with state := 2 }
theorem Slot.fits_charged {s : Slot} (h : s.fits) : s.charged.fits := by
  obtain ⟨frame, step, state, late⟩ := h
  exact ⟨frame, step, state, by simp only [Slot.charged]; omega⟩
theorem Slot.fits_opened {s : Slot} {n : Nat} (h : s.fits) (hn : n < 2 ^ 32) : (s.opened n).fits := by
  obtain ⟨frame, step, state, late⟩ := h
  exact ⟨frame, hn, (by decide : 1 < 256), (by decide : 0 < 2 ^ 16)⟩
theorem Slot.fits_sealed {s : Slot} (h : s.fits) : s.sealed.fits := by
  obtain ⟨frame, step, state, late⟩ := h
  exact ⟨frame, step, (by decide : 2 < 256), late⟩
/-- A device whose memory is that of another with a slot written has that slot, and every other byte. -/
theorem slot_written {e : Device} {s : Slot} (hs : s.fits) (h : e.mem = (writeSlot P d r j s).mem) : readSlot e r j = s ∧ ∀ b, Apart b 1 (r + 16 * j) 16 → e.readByte b = d.readByte b :=
  ⟨(readSlot_mem h r j).trans (readSlot_writeSlot P d r j hs), fun b hb => (readByte_mem_congr h b).trans (readByte_writeSlot_apart hb)⟩
theorem chargeLate_eq (P : Platform) (d : Device) (r j : Nat) : chargeLate P d r j = writeSlot P d r j (readSlot d r j).charged := rfl
theorem openSlot_eq (P : Platform) (d : Device) (r j n : Nat) : openSlot P d r j n = (writeSlot P d r j ((readSlot d r j).opened n)).modHome r fun h => { h with fill := some (j, (newestSealed (readSlots d r)).getD 0), commands := listSet h.commands j 0 } := rfl
theorem openSlot_mem (P : Platform) (d : Device) (r j n : Nat) : (openSlot P d r j n).mem = (writeSlot P d r j ((readSlot d r j).opened n)).mem := by
  rw [openSlot_eq]
  rfl
theorem home_openSlot (P : Platform) (d : Device) (r j n : Nat) : (openSlot P d r j n).home r = { d.home r with fill := some (j, (newestSealed (readSlots d r)).getD 0), commands := listSet (d.home r).commands j 0 } := by
  rw [openSlot_eq, home_modHome, home_of (homes_of_unwritten (unwritten_writeSlot P d r j _))]
end
section
variable {P : Platform} {d : Device} {r j : Nat} {x : VerStore} {held rest : List VerStore}

/-- A store of a step that has passed is counted late. -/
theorem versionStores_late (h : NextStore d r x held rest) (hc : chooseSlot d r x.step = .late j) :
    readSlot (versionStores r P d) r j = (readSlot d r j).charged ∧ (∀ b, Apart b 1 (r + 16 * j) 16 → (versionStores r P d).readByte b = d.readByte b) ∧ storesLeft r held rest (versionStores r P d) := by
  have charged : versionStores r P d = ackVersion (chargeLate P (storeTaken d r held rest) r j) x false := by
    have ok : recordOk (storeTaken d r held rest) r = true := h.2.1
    rw [versionStores_next h, storeRow, ok]
    simp only [Bool.not_true, Bool.false_eq_true, if_false, chooseSlot_storeTaken, hc, Option.getD_some]
  obtain ⟨mem, homes⟩ := ackVersion_leaves (chargeLate P (storeTaken d r held rest) r j) x false
  obtain ⟨slot, other⟩ := slot_written (d := storeTaken d r held rest) (Slot.fits_charged (readSlot_fits d r j)) mem
  rw [charged]
  exact ⟨slot, other, storesLeft_of (homes.trans (homes_of_unwritten (unwritten_writeSlot _ _ _ _ _)))⟩
/-- A store of a new step opens a slot, and waits for its fill. -/
theorem versionStores_opens (h : NextStore d r x held rest) (hc : chooseSlot d r x.step = .fresh j) (hx : x.step < 2 ^ 32) :
    readSlot (versionStores r P d) r j = (readSlot d r j).opened x.step ∧ ((versionStores r P d).home r).fill ≠ none ∧ storesLeft r (x :: held) rest (versionStores r P d) ∧ ∀ b, Apart b 1 (r + 16 * j) 16 → (versionStores r P d).readByte b = d.readByte b := by
  have opened : versionStores r P d = (openSlot P (storeTaken d r held rest) r j x.step).modHome r fun h => { h with heldStores := x :: h.heldStores } := by
    have ok : recordOk (storeTaken d r held rest) r = true := h.2.1
    rw [versionStores_next h, storeRow, ok]
    simp only [Bool.not_true, Bool.false_eq_true, if_false, chooseSlot_storeTaken, hc, Option.getD_some]
  have mem : (versionStores r P d).mem = (writeSlot P (storeTaken d r held rest) r j ((readSlot d r j).opened x.step)).mem := by
    rw [opened, modHome_mem, openSlot_mem, readSlot_storeTaken]
  obtain ⟨slot, other⟩ := slot_written (d := storeTaken d r held rest) (Slot.fits_opened (readSlot_fits d r j) hx) mem
  refine ⟨slot, ?_, ?_, other⟩
  · rw [opened, home_modHome, home_openSlot]
    exact Option.some_ne_none _
  · rw [opened, storesLeft, home_modHome, home_openSlot, home_storeTaken]
    exact ⟨rfl, rfl⟩
end

end Sys2Proof.Machine

/-! Seals and fills at a version home (R225, R226). -/

namespace Sys2Proof.Machine
open Sys2Proof

/-! A slot is sealed. -/

section
variable {P : Platform} {d : Device} {r j : Nat}

theorem ackSeal_leaves (d : Device) (x : VerSeal) : (ackSeal d x).mem = d.mem ∧ (ackSeal d x).homes = d.homes ∧ ∀ {α : Type} (v : Group → α), (∀ (g : Group) n, v { g with outEff := n } = v g) → ∀ k, viewAt v (ackSeal d x) k = viewAt v d k := by
  simp only [ackSeal]
  split
  · exact ⟨rfl, rfl, fun v hv k => viewAt_modGroup v _ _ _ _ fun g => hv g _⟩
  · exact ⟨rfl, rfl, fun _ _ _ => rfl⟩
theorem homes_wakeGroup (d : Device) (g n st : Nat) : (wakeGroup d g n st).homes = d.homes := homes_of_unwritten (unwritten_wakeWith _ _ _ _ _)
/-- The device with transfers started from a slot. -/
def sendFrom (d : Device) (r j : Nat) (ts : List Transfer) : Device :=
  let n := (ts.filter fun t : Transfer => !t.skip).length
  { d with transfers := d.transfers ++ ts }.modHome r fun h => { h with transfers := listMod (· + n) h.transfers j }
/-- The device with a slot's record SEALED, and the transfers that the seal gives rise to. -/
def sealSent (P : Platform) (d : Device) (r j : Nat) (x : VerSeal) : Device :=
  sendFrom (writeSlot P (tagClock d x.clock r) r j (readSlot d r j).sealed) r j (transfersFor P (writeSlot P (tagClock d x.clock r) r j (readSlot d r j).sealed) r j x)
theorem sendFrom_leaves (d : Device) (r j : Nat) (ts : List Transfer) : (sendFrom d r j ts).mem = d.mem ∧ (∃ n, (sendFrom d r j ts).home r = { d.home r with transfers := n }) ∧ (sendFrom d r j ts).groups = d.groups :=
  ⟨rfl, ⟨_, home_modHome _ _ _⟩, rfl⟩
theorem sealSlot_eq (P : Platform) (d : Device) (r j : Nat) (x : VerSeal) : sealSlot P d r j x = (sealWaiters (sealSent P d r j x) r).foldl (fun d g => wakeGroup d g.id 1 0) (ackSeal (sealSent P d r j x) x) := rfl
theorem sealSent_leaves (P : Platform) (d : Device) (r j : Nat) (x : VerSeal) :
    (sealSent P d r j x).mem = (writeSlot P (tagClock d x.clock r) r j (readSlot d r j).sealed).mem ∧ (∃ ts, (sealSent P d r j x).home r = { d.home r with transfers := ts }) ∧ (sealSent P d r j x).groups = d.groups := by
  have unwritten := unwritten_writeSlot P (tagClock d x.clock r) r j (readSlot d r j).sealed
  unfold sealSent
  generalize transfersFor P (writeSlot P (tagClock d x.clock r) r j (readSlot d r j).sealed) r j x = ts
  obtain ⟨mem, ⟨n, home⟩, groups⟩ := sendFrom_leaves (writeSlot P (tagClock d x.clock r) r j (readSlot d r j).sealed) r j ts
  exact ⟨mem, ⟨n, home.trans (congrArg (fun h : Home => { h with transfers := n }) (home_of (homes_of_unwritten unwritten) r))⟩, groups.trans (groups_of_unwritten unwritten)⟩
/-- What the seal of a slot leaves: its record with the slot SEALED, its home but for the transfers under way, and the registers. -/
theorem sealSlot_leaves (P : Platform) (d : Device) (r j : Nat) (x : VerSeal) :
    (sealSlot P d r j x).mem = (writeSlot P (tagClock d x.clock r) r j (readSlot d r j).sealed).mem ∧ (∃ ts, (sealSlot P d r j x).home r = { d.home r with transfers := ts }) ∧ ∀ k, regsOf (sealSlot P d r j x) k = regsOf d k := by
  obtain ⟨mem, ⟨ts, home⟩, groups⟩ := sealSent_leaves P d r j x
  rw [sealSlot_eq]
  generalize sealSent P d r j x = sent at *
  obtain ⟨amem, homes, seen⟩ := ackSeal_leaves sent x
  refine ⟨?_, ⟨ts, ?_⟩, fun k => ?_⟩
  · exact (foldl_leaves Device.mem (fun d (g : Group) => wakeGroup_mem d g.id 1 0) _ _).trans (amem.trans mem)
  · exact (home_of ((foldl_leaves Device.homes (fun d (g : Group) => homes_wakeGroup d g.id 1 0) _ _).trans homes) r).trans home
  · have kept := (viewAt_groups Group.regs (foldl_leaves Device.groups (fun d (g : Group) => wakeGroup_groups d g.id 1 0) (sealWaiters sent r) (ackSeal sent x)) k).trans (seen Group.regs (fun _ _ => rfl) k)
    exact kept.trans (viewAt_groups Group.regs groups k)
/-- The record after a seal. -/
theorem slot_sealed (P : Platform) (d : Device) (r j : Nat) (x : VerSeal) : readSlot (sealSlot P d r j x) r j = (readSlot d r j).sealed ∧ ∀ b, Apart b 1 (r + 16 * j) 16 → (sealSlot P d r j x).readByte b = d.readByte b :=
  slot_written (d := tagClock d x.clock r) (Slot.fits_sealed (readSlot_fits d r j)) (sealSlot_leaves P d r j x).1
end

/-! A page's image (R435). -/

section
variable {P : Platform} {d : Device} {r j : Nat} {x : VerStore} {held rest : List VerStore}

/-- A fill's image is written and sealed with it. -/
theorem versionStores_image (h : NextStore d r x held rest) (hc : chooseSlot d r x.step = .apply j) (hf : x.source = .fill) (hz : (d.home r).commands.getD j 0 = 0) :
    let a (i : Nat) : Nat := framePhys (d.home r).attr (readSlot d r j).frame (x.offset + i)
    (∀ i < x.data.length, ∀ k < x.data.length, a i = a k → i = k) → (∀ i < x.data.length, Apart (a i) 1 (r + 16 * j) 16) →
    readSlot (versionStores r P d) r j = (readSlot d r j).sealed ∧ (∀ i < x.data.length, some ((versionStores r P d).readByte (a i)) = x.data[i]?) ∧
      (∀ b, Apart b 1 (r + 16 * j) 16 → (∀ i < x.data.length, b ≠ a i) → (versionStores r P d).readByte b = d.readByte b) ∧ storesLeft r held rest (versionStores r P d) ∧ ∀ k, regsOf (versionStores r P d) k = regsOf d k := by
  intro a inj apart
  let e := applyStore P (storeTaken d r held rest) r j x
  obtain ⟨mem, homes, regs⟩ := applyStore_leaves P (storeTaken d r held rest) r j x
  have attr : ((storeTaken d r held rest).home r).attr = (d.home r).attr := by rw [home_storeTaken]
  rw [storeWritten, attr, readSlot_storeTaken] at mem
  obtain ⟨y, sealed⟩ : ∃ y, versionStores r P d = sealSlot P e r j y := by
    have ok : recordOk (storeTaken d r held rest) r = true := h.2.1
    have commands : (e.home r).commands.getD j 0 = 0 := by rw [home_of homes, home_storeTaken]; exact hz
    rw [versionStores_next h, storeRow, ok]
    simp only [Bool.not_true, Bool.false_eq_true, if_false, chooseSlot_storeTaken, hc, Option.getD_some, sealImage, if_pos hf]
    exact ⟨_, if_pos commands⟩
  have image (b : Nat) (hb : ∀ i < x.data.length, b ≠ a i) : e.readByte b = d.readByte b := (readByte_mem_congr mem b).trans (readByte_writeFrame_other (d := storeTaken d r held rest) hb)
  have slot : readSlot e r j = readSlot d r j := readSlot_bytes fun b lo hi => image b fun i hi' => by
    have := apart i hi'
    unfold Apart at this
    omega
  obtain ⟨here, other⟩ := slot_sealed P e r j y
  obtain ⟨-, ⟨ts, home⟩, kept⟩ := sealSlot_leaves P e r j y
  rw [sealed]
  refine ⟨here.trans (congrArg Slot.sealed slot), fun i hi => ?_, fun b hb ha => (other b hb).trans (image b ha), ?_, fun k => (kept k).trans ((regs k).resolve_right fun ⟨op, lane, hs⟩ => ?_)⟩
  · rw [other _ (apart i hi), readByte_mem_congr mem]
    exact readByte_writeFrame_at (Nat.lt_succ_self _) inj hi
  · rw [storesLeft, home, home_of homes, home_storeTaken]
    exact ⟨rfl, rfl⟩
  · rw [hf] at hs
    cases hs
end

/-! A fill (R225). -/

section
variable {P : Platform} {attr : BitVec 8} {src dst n : Nat} {d : Device}

/-- The next line of a frame is copied. -/
theorem copyFrame_mem (P : Platform) (attr : BitVec 8) (src dst n : Nat) (d : Device) : ∃ home, (copyFrame P attr src dst (n + 1) d).mem =
    (engineWrite P home (copyFrame P attr src dst n d) (framePhys attr dst (64 * n)) ((copyFrame P attr src dst n d).readBytes (framePhys attr src (64 * n)) 64)).mem := by
  refine ⟨homeDie (framePhys attr dst (64 * n)), ?_⟩
  rw [copyFrame]
  exact foldl_leaves Device.mem (fun e i => ite_leaves Device.mem (setPoison_mem _ _) rfl) _ _
theorem readByte_copyFrame_other {b : Nat} (h : ∀ i < n, Apart b 1 (framePhys attr dst (64 * i)) 64) : (copyFrame P attr src dst n d).readByte b = d.readByte b := by
  induction n with
  | zero => rfl
  | succ n ih =>
    obtain ⟨home, mem⟩ := copyFrame_mem P attr src dst n d
    rw [readByte_mem_congr mem, readByte_engineWrite_apart _ _ _ (by rw [readBytes_length]; exact h n (Nat.lt_succ_self n))]
    exact ih fun i hi => h i (Nat.lt_succ_of_lt hi)
/-- Lines that have no byte in common with those they are copied from, nor with one another, are copied. -/
theorem readBytes_copyFrame (hs : ∀ i < n, ∀ k < n, Apart (framePhys attr src (64 * i)) 64 (framePhys attr dst (64 * k)) 64) (hd : ∀ i < n, ∀ k < n, i ≠ k → Apart (framePhys attr dst (64 * i)) 64 (framePhys attr dst (64 * k)) 64) :
    ∀ i < n, (copyFrame P attr src dst n d).readBytes (framePhys attr dst (64 * i)) 64 = d.readBytes (framePhys attr src (64 * i)) 64 := by
  induction n with
  | zero => omega
  | succ n ih =>
    intro i hi
    obtain ⟨home, mem⟩ := copyFrame_mem P attr src dst n d
    rw [readBytes_mem_congr mem]
    by_cases last : i = n
    · subst last
      have copied := readBytes_engineWrite_same P home (copyFrame P attr src dst i d) (framePhys attr dst (64 * i)) ((copyFrame P attr src dst i d).readBytes (framePhys attr src (64 * i)) 64)
      rw [readBytes_length] at copied
      rw [copied]
      exact readBytes_congr fun b hb => readByte_copyFrame_other fun k hk => apart_byte (hs i hi k (Nat.lt_succ_of_lt hk)) hb
    · refine (readBytes_congr fun b hb => ?_).trans (ih (fun i hi k hk => hs i (Nat.lt_succ_of_lt hi) k (Nat.lt_succ_of_lt hk)) (fun i hi k hk => hd i (Nat.lt_succ_of_lt hi) k (Nat.lt_succ_of_lt hk)) i (by omega))
      refine readByte_engineWrite_apart _ _ _ ?_
      rw [readBytes_length]
      exact apart_byte (hd i hi n (Nat.lt_succ_self n) last) hb
end
/-- A fill that is due copies the newest sealed slot's frame. -/
theorem slotFills_eq {P : Platform} {d : Device} {r j top : Nat} (h : (d.home r).fill = some (j, top)) :
    (slotFills r P d).mem = (copyFrame P (d.home r).attr (readSlot d r top).frame (readSlot d r j).frame ((d.home r).pageSize / 64) (moveHidden d (d.home r).attr (readSlot d r top).frame (readSlot d r j).frame (d.home r).pageSize)).mem ∧ ((slotFills r P d).home r).fill = none := by
  simp only [slotFills, h]
  generalize moveHidden d (d.home r).attr (readSlot d r top).frame (readSlot d r j).frame (d.home r).pageSize = e
  generalize copyFrame P (d.home r).attr (readSlot d r top).frame (readSlot d r j).frame ((d.home r).pageSize / 64) e = f
  refine ⟨?_, by rw [home_modHome]⟩
  rw [modHome_mem]
  exact mem_of_beside (beside_noticeAll f _)

/-! Seals (R226). -/

/-- The seal that a home takes next: a parked one to which a row applies, or the one that arrived first, with those that stay parked and those that stay queued. -/
def NextSeal (d : Device) (r : Nat) (x : VerSeal) (parked rest : List VerSeal) : Prop :=
  (d.home r).fill = none ∧ recordOk d r = true ∧ resultPending (d.home r) x = false ∧
    (((d.home r).parked = x :: parked ∧ (d.home r).seals = rest ∧ chooseSlot d r x.step ≠ .hold) ∨ ((d.home r).parked = [] ∧ parked = [] ∧ (d.home r).seals = x :: rest))
/-- The device without it. -/
def sealTaken (d : Device) (r : Nat) (parked rest : List VerSeal) : Device := d.modHome r fun h => { h with parked, seals := rest }
/-- What a home has left to seal. -/
def sealsLeft (r : Nat) (parked rest : List VerSeal) (d : Device) : Prop := (d.home r).parked = parked ∧ (d.home r).seals = rest
section
variable {P : Platform} {d : Device} {r j : Nat} {x : VerSeal} {parked rest : List VerSeal}

theorem home_sealTaken (d : Device) (r : Nat) (parked rest : List VerSeal) : (sealTaken d r parked rest).home r = { d.home r with parked, seals := rest } := home_modHome _ _ _
theorem readSlot_sealTaken (d : Device) (r : Nat) (parked rest : List VerSeal) (j : Nat) : readSlot (sealTaken d r parked rest) r j = readSlot d r j := readSlot_mem rfl r j
/-- A seal's row is that of its step and of the commands of the slot, whatever else is queued. -/
theorem sealRow_eq (ho : recordOk d r = true) (hp : resultPending (d.home r) x = false) : sealRow P d r x = match chooseSlot d r x.step with
    | .apply j => if (d.home r).commands.getD j 0 = 0 then .done (sealSlot P d r j x) else .wait
    | .late j => .done (ackSeal (if (readSlot d r j).step = x.step then d else chargeLate P d r j) x)
    | .fresh j => .done ((openSlot P d r j x.step).modHome r fun h => { h with seals := x :: h.seals })
    | .hold => .park := by
  simp only [sealRow, hp, ho, Bool.not_true, Bool.false_eq_true, if_false] <;> rfl
theorem sealRow_sealTaken (h : NextSeal d r x parked rest) : sealRow P (sealTaken d r parked rest) r x = match chooseSlot d r x.step with
    | .apply j => if (d.home r).commands.getD j 0 = 0 then .done (sealSlot P (sealTaken d r parked rest) r j x) else .wait
    | .late j => .done (ackSeal (if (readSlot d r j).step = x.step then sealTaken d r parked rest else chargeLate P (sealTaken d r parked rest) r j) x)
    | .fresh j => .done ((openSlot P (sealTaken d r parked rest) r j x.step).modHome r fun h => { h with seals := x :: h.seals })
    | .hold => .park := by
  obtain ⟨-, ok, result, -⟩ := h
  have transfers : ((sealTaken d r parked rest).home r).transfers = (d.home r).transfers := by rw [home_sealTaken]
  have commands : ((sealTaken d r parked rest).home r).commands = (d.home r).commands := by rw [home_sealTaken]
  have result' : resultPending ((sealTaken d r parked rest).home r) x = false := by rw [home_sealTaken]; exact result
  rw [sealRow_eq (d := sealTaken d r parked rest) ok result', chooseSlot_of (d := d) (e := sealTaken d r parked rest) rfl transfers, commands]
  simp only [readSlot_sealTaken]
/-- A home is done with its next seal where its row says so. -/
theorem versionSeals_done {e z : Device} (h : NextSeal d r x parked rest) (hd : sealRow P d r x = .done z) (he : sealRow P (sealTaken d r parked rest) r x = .done e) : versionSeals r P d = e := by
  obtain ⟨fill, -, -, next⟩ := h
  have idle : ¬(d.home r).fill.isSome = true := by rw [fill]; exact Bool.false_ne_true
  obtain ⟨first, arrived, -⟩ | ⟨first, none_, arrived⟩ := next
  · have taken : (d.modHome r fun h => { h with parked := parked }) = sealTaken d r parked rest := by
      rw [sealTaken, Device.modHome, ← arrived]
      rfl
    simp only [versionSeals, if_neg idle, first, firstSeal, hd, taken, he]
  · have taken : (d.modHome r fun h => { h with seals := rest }) = sealTaken d r parked rest := by
      rw [sealTaken, Device.modHome, none_, ← first]
      rfl
    simp only [versionSeals, if_neg idle, first, firstSeal, arrived, taken, he]
/-- A seal of an OPEN slot with no command left seals it. -/
theorem versionSeals_seals (h : NextSeal d r x parked rest) (hc : chooseSlot d r x.step = .apply j) (hz : (d.home r).commands.getD j 0 = 0) :
    readSlot (versionSeals r P d) r j = (readSlot d r j).sealed ∧ (∀ b, Apart b 1 (r + 16 * j) 16 → (versionSeals r P d).readByte b = d.readByte b) ∧ sealsLeft r parked rest (versionSeals r P d) := by
  have row : sealRow P d r x = .done (sealSlot P d r j x) := by rw [sealRow_eq h.2.1 h.2.2.1, hc]; exact if_pos hz
  have row' : sealRow P (sealTaken d r parked rest) r x = .done (sealSlot P (sealTaken d r parked rest) r j x) := by rw [sealRow_sealTaken h, hc]; exact if_pos hz
  rw [versionSeals_done h row row']
  obtain ⟨slot, other⟩ := slot_sealed P (sealTaken d r parked rest) r j x
  obtain ⟨-, ⟨ts, home⟩, -⟩ := sealSlot_leaves P (sealTaken d r parked rest) r j x
  refine ⟨slot.trans (by rw [readSlot_sealTaken]), other, ?_⟩
  rw [sealsLeft, home, home_sealTaken]
  exact ⟨rfl, rfl⟩
/-- What a seal of a step that has passed leaves. -/
theorem versionSeals_passed (h : NextSeal d r x parked rest) (hc : chooseSlot d r x.step = .late j) :
    versionSeals r P d = ackSeal (if (readSlot d r j).step = x.step then sealTaken d r parked rest else chargeLate P (sealTaken d r parked rest) r j) x := by
  have row : sealRow P d r x = .done (ackSeal (if (readSlot d r j).step = x.step then d else chargeLate P d r j) x) := by rw [sealRow_eq h.2.1 h.2.2.1, hc]
  have row' : sealRow P (sealTaken d r parked rest) r x = .done (ackSeal (if (readSlot d r j).step = x.step then sealTaken d r parked rest else chargeLate P (sealTaken d r parked rest) r j) x) := by rw [sealRow_sealTaken h, hc]
  exact versionSeals_done h row row'
theorem sealsLeft_of {e : Device} (h : e.homes = (sealTaken d r parked rest).homes) : sealsLeft r parked rest e := by
  rw [sealsLeft, home_of h, home_sealTaken]
  exact ⟨rfl, rfl⟩
/-- A seal of a SEALED slot changes nothing. -/
theorem versionSeals_again (h : NextSeal d r x parked rest) (hc : chooseSlot d r x.step = .late j) (hs : (readSlot d r j).step = x.step) : (versionSeals r P d).mem = d.mem ∧ sealsLeft r parked rest (versionSeals r P d) := by
  obtain ⟨mem, homes, -⟩ := ackSeal_leaves (sealTaken d r parked rest) x
  rw [versionSeals_passed h hc, if_pos hs]
  exact ⟨mem, sealsLeft_of homes⟩
/-- A seal of a step that has passed is counted late. -/
theorem versionSeals_late (h : NextSeal d r x parked rest) (hc : chooseSlot d r x.step = .late j) (hs : (readSlot d r j).step ≠ x.step) :
    readSlot (versionSeals r P d) r j = (readSlot d r j).charged ∧ (∀ b, Apart b 1 (r + 16 * j) 16 → (versionSeals r P d).readByte b = d.readByte b) ∧ sealsLeft r parked rest (versionSeals r P d) := by
  obtain ⟨mem, homes, -⟩ := ackSeal_leaves (chargeLate P (sealTaken d r parked rest) r j) x
  rw [versionSeals_passed h hc, if_neg hs]
  rw [chargeLate_eq, readSlot_sealTaken] at *
  obtain ⟨slot, other⟩ := slot_written (d := sealTaken d r parked rest) (Slot.fits_charged (readSlot_fits d r j)) mem
  exact ⟨slot, other, sealsLeft_of (homes.trans (homes_of_unwritten (unwritten_writeSlot _ _ _ _ _)))⟩
/-- A seal of a new step opens its slot, and waits for the fill. -/
theorem versionSeals_opens (h : NextSeal d r x parked rest) (hc : chooseSlot d r x.step = .fresh j) (hx : x.step < 2 ^ 32) :
    readSlot (versionSeals r P d) r j = (readSlot d r j).opened x.step ∧ ((versionSeals r P d).home r).fill ≠ none ∧ sealsLeft r parked (x :: rest) (versionSeals r P d) ∧ ∀ b, Apart b 1 (r + 16 * j) 16 → (versionSeals r P d).readByte b = d.readByte b := by
  have row : sealRow P d r x = .done ((openSlot P d r j x.step).modHome r fun h => { h with seals := x :: h.seals }) := by rw [sealRow_eq h.2.1 h.2.2.1, hc]
  have row' : sealRow P (sealTaken d r parked rest) r x = .done ((openSlot P (sealTaken d r parked rest) r j x.step).modHome r fun h => { h with seals := x :: h.seals }) := by rw [sealRow_sealTaken h, hc]
  have opened := versionSeals_done h row row'
  have mem : (versionSeals r P d).mem = (writeSlot P (sealTaken d r parked rest) r j ((readSlot d r j).opened x.step)).mem := by
    rw [opened, modHome_mem, openSlot_mem, readSlot_sealTaken]
  obtain ⟨slot, other⟩ := slot_written (d := sealTaken d r parked rest) (Slot.fits_opened (readSlot_fits d r j) hx) mem
  refine ⟨slot, ?_, ?_, other⟩
  · rw [opened, home_modHome, home_openSlot]
    exact Option.some_ne_none _
  · rw [opened, sealsLeft, home_modHome, home_openSlot, home_sealTaken]
    exact ⟨rfl, rfl⟩
/-- Another is parked. -/
theorem versionSeals_parks (h : NextSeal d r x parked rest) (hc : chooseSlot d r x.step = .hold) :
    (versionSeals r P d).mem = d.mem ∧ (versionSeals r P d).groups = d.groups ∧ sealsLeft r [x] rest (versionSeals r P d) := by
  have row' : sealRow P (sealTaken d r parked rest) r x = .park := by rw [sealRow_sealTaken h, hc]
  have parks : versionSeals r P d = (sealTaken d r parked rest).modHome r fun h => { h with parked := h.parked ++ [x] } := by
    obtain ⟨fill, -, -, next⟩ := h
    have idle : ¬(d.home r).fill.isSome = true := by rw [fill]; exact Bool.false_ne_true
    obtain ⟨first, none_, arrived⟩ := next.resolve_left fun ⟨_, _, row⟩ => row hc
    have taken : (d.modHome r fun h => { h with seals := rest }) = sealTaken d r parked rest := by
      rw [sealTaken, Device.modHome, none_, ← first]
      rfl
    simp only [versionSeals, if_neg idle, first, firstSeal, arrived, taken, row']
  have none_ : parked = [] := (h.2.2.2.resolve_left fun ⟨_, _, row⟩ => row hc).2.1
  rw [parks, sealsLeft, home_modHome, home_sealTaken, none_]
  exact ⟨rfl, rfl, rfl, rfl⟩
end

end Sys2Proof.Machine

/-! Loads at a version home (R227). -/

namespace Sys2Proof.Machine
open Sys2Proof

/-- What a versioned load of a page's bytes writes, where they stand at an offset's value. -/
def VerLoad.result (q : VerLoad) (value : Nat → Nat) : RegWrites :=
  match q.dest with
  | .v n => { RegWrites.none with vs := q.lanes.flatMap fun l => cellsAt n.val ((q.bytes + 3) / 4) l.1 (value l.2) }
  | .s n => scaWrite n.val ((q.lanes.head?.map fun l => value l.2).getD 0)
/-- The operation of a versioned load once its lanes are read from a slot. -/
def Op.answered (step : Nat) (w : RegWrites) (exc : Option Exc) (o : Op) : Op := { o with kind := .load, closing := none, writes := w, verLast := some step, exc }
/-- An operation found after a change of those of its number that keeps their number. -/
theorem find_changed {f : Op → Op} (hf : ∀ o, (f o).id = o.id) (op : Nat) (os : List Op) :
    ((os.map fun o => if o.id == op then f o else o).find? fun o => o.id == op) = (os.find? fun o => o.id == op).map f := by
  induction os with
  | nil => rfl
  | cons o os ih =>
    rw [List.map_cons, List.find?_cons, List.find?_cons, ih]
    cases h : o.id == op
    · simp only [Bool.false_eq_true, if_false, h]
    · simp only [if_true, hf, h, Option.map_some]
section
variable {P : Platform} {d : Device} {r gid op k j : Nat} {rest : List (Nat × Nat)} {g : Group} {o : Op} {q : VerLoad}

theorem homes_acquire (d : Device) (gid : Nat) : (acquire d gid).homes = d.homes := by
  simp only [acquire]
  split <;> rfl
/-- A group that begins to wait, and the deadline in its drawer. -/
theorem beginWait_spec (w : WaitFor) (kind : Nat) (n : Word) (t : Nat) (object entry : DWord) (hg : Tbl.find d.groups gid = some g) :
    (beginWait d gid w kind n t object entry).mem = d.mem ∧ (beginWait d gid w kind n t object entry).homes = d.homes ∧
      Tbl.find (beginWait d gid w kind n t object entry).groups gid = some { emptyBypass g with state := .waiting, wait := some w } ∧ ((beginWait d gid w kind n t object entry).drawer g.core g.block).deadline = BitVec.ofNat 64 t := by
  simp only [beginWait, hg]
  exact ⟨rfl, rfl, (find_modGroup_same d gid _).trans (by rw [hg]; rfl), congrArg Drawer.deadline (drawer_setDrawer _ _ _ _)⟩
/-- The group of a load whose lanes have been read. -/
def Group.loadRead (g : Group) (k op step : Nat) (w : RegWrites) (exc : Option Exc) : Group :=
  modSplit { g with ops := g.ops.map fun o => if o.id == op then o.answered step w exc else o } k advanceCur
theorem loadRead_op (g : Group) (c : Signature) (k op step : Nat) (w : RegWrites) (exc : Option Exc) :
    ((Group.loadRead { g with carry := c } k op step w exc).ops.find? fun o => o.id == op) = (g.ops.find? fun o => o.id == op).map (Op.answered step w exc) := find_changed (f := Op.answered step w exc) (fun _ => rfl) op g.ops
/-- The lanes of a load are read from one slot, whose values are its operation's result. -/
theorem readLanes_spec (hg : Tbl.find d.groups gid = some g) :
    (readLanes d gid k op q j).mem = d.mem ∧ (readLanes d gid k op q j).homes = d.homes ∧ ∃ c exc, Tbl.find (readLanes d gid k op q j).groups gid =
      some (Group.loadRead { g with carry := c } k op (readSlot d q.record j).step (q.result fun off => d.readNat (framePhys (d.home q.record).attr (readSlot d q.record j).frame off) q.bytes) exc) := by
  let e := d.mergeClock (((Tbl.find d.groups gid).map fun g => g.core / 128).getD 0) (q.lanes.foldl (fun c l => clockMax c (d.die (homeDie (framePhys (d.home q.record).attr (readSlot d q.record j).frame l.2))).applied) (d.valueClock q.record))
  let bad := q.lanes.find? fun l => d.anyPoison (framePhys (d.home q.record).attr (readSlot d q.record j).frame l.2) q.bytes
  obtain ⟨c, found⟩ := find_acquire (d := e) (gid := gid) hg
  have read : readLanes d gid k op q j = (acquire e gid).modGroup gid fun g => g.loadRead k op (readSlot d q.record j).step (q.result fun off => d.readNat (framePhys (d.home q.record).attr (readSlot d q.record j).frame off) q.bytes)
      (bad.map fun l => Exc.at_ .poisonedData l.1 (BitVec.ofNat 64 (q.page + l.2))) := by
    cases hq : q.dest <;> simp only [readLanes, VerLoad.result, hq, List.flatMap_map, List.head?_map, Option.map_map] <;> rfl
  rw [read]
  refine ⟨acquire_mem e gid, homes_acquire e gid, c, bad.map fun l => Exc.at_ .poisonedData l.1 (BitVec.ofNat 64 (q.page + l.2)), ?_⟩
  rw [find_modGroup_same, found]
  rfl
/-- A home without the load that it takes next. -/
def loadTaken (d : Device) (r : Nat) (rest : List (Nat × Nat)) : Device := d.modHome r fun h => { h with loads := rest }
/-- A load that stands first at a home, of a group's operation. -/
def NextLoad (d : Device) (r gid op : Nat) (rest : List (Nat × Nat)) (g : Group) (o : Op) (q : VerLoad) (k : Nat) : Prop :=
  (d.home r).loads = (gid, op) :: rest ∧ Tbl.find d.groups gid = some g ∧ (g.ops.find? fun o => o.id == op) = some o ∧ o.kind = .verLoad q ∧ o.closing = some k ∧ q.record = r ∧ recordOk d r = true
theorem versionLoads_reads (h : NextLoad d r gid op rest g o q k) (hs : loadSlot (readSlots d r) q.minStep = some j) :
    versionLoads r P d = readLanes ((loadTaken d r rest).monNote P 7 (d.clock - q.since)) gid k op q j := by
  obtain ⟨first, hg, ho, hk, hc, hr, ok⟩ := h
  subst hr
  simp only [versionLoads, first, hg, Option.bind_some, ho, Option.map_some, hk, hc, ok, hs, Bool.not_true, Bool.false_eq_true, if_false]
  rfl
theorem versionLoads_waits {jb : Job} (h : NextLoad d r gid op rest g o q k) (hs : loadSlot (readSlots d r) q.minStep = none) (hl : g.state = .live) (hj : d.job g.job = some jb) :
    versionLoads r P d = (beginWait (loadTaken d r rest) gid (.sealed op) 6 1 (q.since + 2 ^ jb.stale) (BitVec.ofNat 64 q.page) o.site.here).modGroup gid fun g => { g with waitSplit := k } := by
  obtain ⟨first, hg, ho, hk, hc, hr, ok⟩ := h
  subst hr
  simp only [versionLoads, first, hg, Option.bind_some, ho, Option.map_some, hk, hc, ok, hs, hl, hj, Bool.not_true, Bool.false_eq_true, if_false, beq_self_eq_true, if_true, Option.getD_some]
  rfl
/-- A load takes the values of its lanes from one sealed slot. -/
theorem versionLoads_answered (h : NextLoad d r gid op rest g o q k) (hs : loadSlot (readSlots d r) q.minStep = some j) :
    (versionLoads r P d).mem = d.mem ∧ regsOf (versionLoads r P d) gid = some g.regs ∧ ((versionLoads r P d).home r).loads = rest ∧
      ((Tbl.find (versionLoads r P d).groups gid).bind fun x => x.ops.find? fun o => o.id == op).map (fun o => (o.kind, o.closing, o.verLast, o.writes)) =
        some (.load, none, some (readSlot d r j).step, q.result fun off => d.readNat (framePhys (d.home r).attr (readSlot d r j).frame off) q.bytes) := by
  obtain ⟨first, hg, ho, hk, hc, hr, ok⟩ := id h
  let e := (loadTaken d r rest).monNote P 7 (d.clock - q.since)
  have homes : e.homes = (loadTaken d r rest).homes := monNote_leaves Device.homes (fun _ _ => rfl) _ _ _ _
  have mem : e.mem = d.mem := monNote_leaves Device.mem (fun _ _ => rfl) _ _ _ _
  have groups : e.groups = d.groups := monNote_leaves Device.groups (fun _ _ => rfl) _ _ _ _
  have home : e.home r = { d.home r with loads := rest } := (home_of homes r).trans (home_modHome _ _ _)
  obtain ⟨rmem, rhomes, c, exc, found⟩ := readLanes_spec (d := e) (k := k) (op := op) (q := q) (j := j) (by rw [groups]; exact hg)
  have value : (fun off => e.readNat (framePhys (e.home q.record).attr (readSlot e q.record j).frame off) q.bytes) = fun off => d.readNat (framePhys (d.home r).attr (readSlot d r j).frame off) q.bytes := by
    rw [hr, home, readSlot_mem mem]
    exact funext fun off => congrArg natOf (readBytes_mem_congr mem _ _)
  rw [value, hr, readSlot_mem mem] at found
  rw [versionLoads_reads h hs]
  refine ⟨rmem.trans mem, ?_, ?_, ?_⟩
  · rw [regsOf, found]
    rfl
  · rw [home_of rhomes, home]
  · rw [found, Option.bind_some, loadRead_op, ho]
    rfl
/-- A load for which no slot qualifies waits, past its time at most. -/
theorem versionLoads_begins {jb : Job} (h : NextLoad d r gid op rest g o q k) (hs : loadSlot (readSlots d r) q.minStep = none) (hl : g.state = .live) (hj : d.job g.job = some jb) :
    (versionLoads r P d).mem = d.mem ∧ regsOf (versionLoads r P d) gid = some g.regs ∧ ((versionLoads r P d).home r).loads = rest ∧ waitIn (versionLoads r P d) gid = some (.sealed op) ∧
      ((versionLoads r P d).drawer g.core g.block).deadline = BitVec.ofNat 64 (q.since + 2 ^ jb.stale) := by
  obtain ⟨first, hg, -⟩ := id h
  have hg' : Tbl.find (loadTaken d r rest).groups gid = some g := hg
  have begun := beginWait_spec (.sealed op) 6 1 (q.since + 2 ^ jb.stale) (BitVec.ofNat 64 q.page) o.site.here hg'
  obtain ⟨mem, homes, found, drawer⟩ := begun
  have seen := (find_modGroup_same (beginWait (loadTaken d r rest) gid (.sealed op) 6 1 (q.since + 2 ^ jb.stale) (BitVec.ofNat 64 q.page) o.site.here) gid fun g => { g with waitSplit := k }).trans (congrArg _ found)
  rw [versionLoads_waits h hs hl hj]
  refine ⟨mem, ?_, ?_, ?_, drawer⟩
  · rw [regsOf, seen]
    rfl
  · exact congrArg Home.loads ((home_of homes r).trans (home_modHome d r _))
  · rw [waitIn, seen]
    rfl
end
end Sys2Proof.Machine

/-! The staleness timeout at a version home (R228). -/

namespace Sys2Proof.Machine
open Sys2Proof

/-! Groups that wait for a sealed slot. -/

/-- What a wait and the operations behind it ask of a record's home. -/
def seeks (r : Nat) (p : Option WaitFor × List (Nat × OpKind)) : Bool :=
  match p.1 with
  | some (.sealed op) => p.2.any fun o => o.1 == op && (match o.2 with | .verLoad q => q.record == r | _ => false)
  | _ => false
/-- What a group waits on, and its operations. -/
def Group.seeking (g : Group) : Option WaitFor × List (Nat × OpKind) := (g.wait, g.ops.map fun o => (o.id, o.kind))
/-- No group waits for a sealed slot of a record. -/
def noneSeeks (r : Nat) (d : Device) : Prop := ∀ e ∈ d.groups, seeks r e.2.seeking = false
section
variable {d e : Device} {r gid : Nat} {g : Group}

theorem sealWaiters_nil : sealWaiters d r = [] ↔ noneSeeks r d := by
  have asks (g : Group) : seeks r g.seeking = (match g.wait with
      | some (.sealed op) => g.ops.any fun o => o.id == op && (match o.kind with | .verLoad q => q.record == r | _ => false)
      | _ => false) := by
    simp only [seeks, Group.seeking, List.any_map]
    rfl
  simp only [sealWaiters, List.filter_eq_nil_iff, Tbl.vals, List.forall_mem_map, noneSeeks, asks, Bool.not_eq_true] <;> rfl
theorem noneSeeks_groups (he : e.groups = d.groups) (h : noneSeeks r d) : noneSeeks r e := by rw [noneSeeks, he]; exact h
theorem noneSeeks_modGroup {f : Group → Group} (hf : ∀ g, seeks r g.seeking = false → seeks r (f g).seeking = false) (h : noneSeeks r d) : noneSeeks r (d.modGroup gid f) := fun x hx => by
  obtain ⟨y, hy, rfl | rfl⟩ := mem_modify hx
  · exact h _ hy
  · exact hf _ (h y hy)
theorem noneSeeks_kept {f : Group → Group} (hf : ∀ g, (f g).seeking = g.seeking) (h : noneSeeks r d) : noneSeeks r (d.modGroup gid f) := noneSeeks_modGroup (fun g hg => (congrArg (seeks r) (hf g)).trans hg) h
theorem noneSeeks_found (hg : Tbl.find d.groups gid = some g) (h : noneSeeks r d) : seeks r g.seeking = false := h _ (mem_of_find hg)
theorem noneSeeks_replaced {x : Group} (hg : Tbl.find d.groups gid = some g) (hx : x.seeking = g.seeking) (h : noneSeeks r d) : noneSeeks r (d.modGroup gid fun _ => x) :=
  noneSeeks_modGroup (fun _ _ => (congrArg (seeks r) hx).trans (noneSeeks_found hg h)) h
theorem noneSeeks_foldl {β : Type} {f : Device → β → Device} (hf : ∀ d x, noneSeeks r d → noneSeeks r (f d x)) (l : List β) (h : noneSeeks r d) : noneSeeks r (l.foldl f d) := by
  induction l generalizing d with
  | nil => exact h
  | cons x l ih => exact ih (hf d x h)
/-- A group whose operations are some of those it had asks for no more. -/
theorem seeks_filter (p : Op → Bool) (h : seeks r g.seeking = false) : seeks r ({ g with ops := g.ops.filter p } : Group).seeking = false := by
  revert h
  simp only [seeks, Group.seeking]
  split
  · simp only [List.any_map, List.any_eq_false, List.mem_filter]
    exact fun h o ho => h o ho.1
  · exact id
theorem noneSeeks_retried (w : Stall) (h : noneSeeks r d) : noneSeeks r (retryStalls w d gid) := noneSeeks_kept (fun g => by split <;> rfl) h
/-- A change of operations that keeps what they are asks for the same. -/
theorem seeking_changed {f : Op → Op} (p : Op → Bool) (hf : ∀ o, ((f o).id, (f o).kind) = (o.id, o.kind)) (os : List Op) : (os.map fun o => if p o then f o else o).map (fun o => (o.id, o.kind)) = os.map fun o => (o.id, o.kind) := by
  rw [List.map_map]
  refine List.map_congr_left fun o _ => ?_
  rw [Function.comp_apply, apply_ite (fun o : Op => (o.id, o.kind)), hf, ite_self]
theorem seeking_closeRegion (clock : Nat) (cl : Bool) (g : Group) (k : Nat) : (closeRegion clock cl g k).seeking = g.seeking :=
  congrArg (Prod.mk g.wait) (seeking_changed (f := fun o => { o with past := true }) (fun o => o.site.split == k) (fun _ => rfl) g.ops)
theorem seeking_landGroup (clock : Nat) (cl own : Bool) (g : Group) (k : Nat) (w : RegWrites) (tr : Bool) (rs : Nat) : (landGroup clock cl own g k w tr rs).seeking = g.seeking := by
  have waits : (landMid g k w tr rs).wait = g.wait := by cases tr <;> simp only [landMid] <;> split <;> rfl
  refine (view_landGroup Group.seeking seeking_closeRegion clock cl own g k w tr rs).trans ?_
  rw [Group.seeking, landMid_ops, waits, Group.seeking]
theorem noneSeeks_landResult (k : Nat) (w : RegWrites) (tr : Bool) (rs : Nat) (close : Bool) (h : noneSeeks r d) : noneSeeks r (landResult d gid k w tr rs close) := by
  obtain ⟨own, cl, eq⟩ := landResult_eq d gid k w tr rs close
  rw [eq]
  split
  · exact h
  · rename_i g hg
    exact noneSeeks_replaced hg (seeking_landGroup _ _ _ _ _ _ _ _) h
theorem noneSeeks_reopen (k : Nat) (h : noneSeeks r d) : noneSeeks r (reopen d gid k) := by
  simp only [reopen]
  split
  · exact h
  · rename_i g hg
    exact noneSeeks_replaced hg rfl h
theorem noneSeeks_opEnded (id : Nat) (g : Group) (o : Op) (h : noneSeeks r d) : noneSeeks r (opEnded d gid id g o) := by
  have left : noneSeeks r (d.modGroup gid (Group.endOp id o)) := noneSeeks_modGroup (fun g hg => seeks_filter (fun x => x.id != id) hg) h
  have written : noneSeeks r (if g.state == .halted then (d.modGroup gid (Group.endOp id o)).modGroup gid fun g => writeSaved g o.tileWrites else writeTiles (d.modGroup gid (Group.endOp id o)) g.core g.job o.tileWrites) := by
    split
    · exact noneSeeks_kept (fun _ => rfl) left
    · exact noneSeeks_groups (writeTiles_groups _ _ _ _) left
  refine noneSeeks_retried .long ?_
  split
  · exact noneSeeks_foldl (fun d i => noneSeeks_retried .table) _ written
  · exact written
theorem noneSeeks_finishOp (id : Nat) (h : noneSeeks r d) : noneSeeks r (finishOp d gid id) := by
  cases hg : Tbl.find d.groups gid with
  | none => simpa only [finishOp, hg] using h
  | some g => cases ho : g.ops.find? fun o => o.id == id with
    | none => simpa only [finishOp, hg, ho] using h
    | some o =>
      obtain ⟨k, cl, eq⟩ := finishOp_cases hg ho
      have landed := noneSeeks_landResult k o.writes o.tr 0 cl (noneSeeks_opEnded (gid := gid) id g o h) (gid := gid)
      obtain eq | ⟨j, eq⟩ := eq <;> rw [eq]
      · exact landed
      · exact noneSeeks_reopen j (noneSeeks_kept (fun _ => rfl) landed)
theorem noneSeeks_laneAcked (op : Nat) (h : noneSeeks r d) : noneSeeks r (laneAcked d gid op) :=
  noneSeeks_kept (fun g => congrArg (Prod.mk g.wait) (seeking_changed (f := fun o => { o with parts := o.parts - 1 }) (fun o => o.id == op) (fun _ => rfl) g.ops)) h
end

/-! What is left to a home that has nothing past its time but stores. -/

section
variable {P : Platform} {d e : Device} {r gid op lane : Nat} {x : VerStore} {g : Group} {o : Op}

/-- The held stores past their time. -/
def staleHeld (d : Device) (r : Nat) : List VerStore := (d.home r).heldStores.filter fun x => stale d (d.home r).job x.since && recordOk d r && chooseSlot d r x.step == .hold
/-- A home without the stores and seals past their time. -/
def staleTaken (d : Device) (r : Nat) (held : List VerStore) (parked : List VerSeal) : Device := d.modHome r fun h => { h with heldStores := held, parked }
theorem home_staleTaken (d : Device) (r : Nat) (held : List VerStore) (parked : List VerSeal) : (staleTaken d r held parked).home r = { d.home r with heldStores := held, parked } := home_modHome _ _ _
theorem noneSeeks_staleTaken (held : List VerStore) (parked : List VerSeal) (h : noneSeeks r d) : noneSeeks r (staleTaken d r held parked) := noneSeeks_groups rfl h
/-- What is past its time is taken out of its list. -/
theorem filter_taken {α : Type} [DecidableEq α] (p : α → Bool) (l : List α) : (l.filter fun x => !(l.filter p).contains x) = l.filter fun x => !p x := by
  refine List.filter_congr fun x hx => ?_
  congr 1
  rw [Bool.eq_iff_iff, List.contains_iff_mem, List.mem_filter]
  exact and_iff_right hx
/-- The parked seals past their time. -/
def staleSeals (P : Platform) (d : Device) (r : Nat) : List VerSeal := (d.home r).parked.filter fun x => stale d x.job x.since && (match sealRow P d r x with | .park => true | _ => false)
/-- A parked seal past its time is counted late. -/
def sealDropped (P : Platform) (r : Nat) (d : Device) (x : VerSeal) : Device := ackSeal (match newestSealed (readSlots d r) with | some j => chargeLate P d r j | none => d) x
/-- The device without the stores and seals of a home past their time. -/
def staleDropped (P : Platform) (d : Device) (r : Nat) : Device :=
  (staleSeals P d r).foldl (sealDropped P r) ((staleHeld d r).foldl (dropHeld r)
    (staleTaken d r ((d.home r).heldStores.filter fun x => !(staleHeld d r).contains x) ((d.home r).parked.filter fun x => !(staleSeals P d r).contains x)))
theorem stalenessEnds_eq : stalenessEnds r P d = ((sealWaiters (staleDropped P d r) r).filter (pastDeadline (staleDropped P d r))).foldl (timeoutGroup P) (staleDropped P d r) := rfl
theorem stalenessEnds_quiet (h : noneSeeks r (staleDropped P d r)) : stalenessEnds r P d = staleDropped P d r := by
  rw [stalenessEnds_eq, sealWaiters_nil.2 h]
  rfl
/-- With no seal parked, the stores past their time are dropped. -/
theorem staleDropped_stores (hp : (d.home r).parked = []) :
    staleDropped P d r = (staleHeld d r).foldl (dropHeld r) (staleTaken d r ((d.home r).heldStores.filter fun x => !(stale d (d.home r).job x.since && recordOk d r && chooseSlot d r x.step == .hold)) []) := by
  rw [staleDropped, staleSeals, hp]
  exact congrArg (fun l => (staleHeld d r).foldl (dropHeld r) (staleTaken d r l [])) (filter_taken _ _)
theorem dropHeld_engine (h : x.source = .mirror ∨ x.source = .fill) : dropHeld r d x = d := by
  obtain h | h := h <;> simp only [dropHeld, h, ackVersion]
/-- Stores of engines past their time leave no trace. -/
theorem stalenessEnds_engines (hp : (d.home r).parked = []) (hn : noneSeeks r d) (hx : ∀ x ∈ (d.home r).heldStores, x.source = .mirror ∨ x.source = .fill) :
    (stalenessEnds r P d).mem = d.mem ∧ (stalenessEnds r P d).groups = d.groups ∧
      ((stalenessEnds r P d).home r).heldStores = (d.home r).heldStores.filter fun x => !(stale d (d.home r).job x.since && recordOk d r && chooseSlot d r x.step == .hold) := by
  have engines : ∀ x ∈ staleHeld d r, x.source = .mirror ∨ x.source = .fill := fun x h => hx x (List.mem_of_mem_filter h)
  have dropped (e : Device) : (staleHeld d r).foldl (dropHeld r) e = e := by
    generalize staleHeld d r = l at engines
    induction l with
    | nil => rfl
    | cons x l ih => rw [List.foldl_cons, dropHeld_engine (engines x List.mem_cons_self), ih fun y h => engines y (List.mem_cons_of_mem x h)]
  have left := (staleDropped_stores (P := P) hp).trans (dropped _)
  rw [stalenessEnds_quiet (by rw [left]; exact noneSeeks_staleTaken _ _ hn), left]
  exact ⟨rfl, rfl, by rw [home_staleTaken]⟩

/-! A group's store past its time (R225, R453). -/

/-- The pending version-ring trap of a lane's store. -/
def laneTrap (r op lane : Nat) (x : VerStore) (o : Op) : RingTrap := { op, site := { o.site with lanes := 1#32 <<< lane }, step := x.step, lanes := [(r, lane, x.offset, x.data)] }
/-- A group with a pending trap more. -/
def Group.trapped (t : RingTrap) (g : Group) : Group := { g with ringTraps := g.ringTraps ++ [t] }
theorem dropHeld_group (hx : x.source = .group gid op lane) (hg : Tbl.find d.groups gid = some g) (hs : g.state ≠ .halted) (hn : (g.ringTraps.any fun t => t.op == op) = false) (ho : (g.ops.find? fun o => o.id == op) = some o) :
    dropHeld r d x = ackVersion (d.modGroup gid (Group.trapped (laneTrap r op lane x o))) x false := by
  have live : (g.state == .halted) = false := beq_eq_false_iff_ne.2 hs
  simp only [dropHeld, hx, hg, Option.bind_some, ho, Option.map_some, hn, Bool.false_eq_true, if_false]
  refine congrArg (fun gs => ackVersion { d with groups := gs } x false) (modify_congr hg ?_)
  rw [live]
  rfl
theorem landMid_ringTraps (g : Group) (k : Nat) (w : RegWrites) (tr : Bool) (rs : Nat) : (landMid g k w tr rs).ringTraps = g.ringTraps := by
  cases tr <;> simp only [landMid] <;> split <;> rfl
/-- An operation that writes nothing leaves the registers. -/
theorem endOp_plain (g : Group) (id k : Nat) (tr : Bool) (hw : o.writes = RegWrites.none) (hv : o.verLast = none) (hs : o.shape = none) : (Group.endOp id o g).landed k tr o.writes 0 = g.regs := by
  rw [landed_endOp id k o g tr o.writes hs, hv, hw, Group.landed, produce_plain g k tr RegWrites.none rfl]
  simp only [BitVec.add_zero]
  rfl
theorem ringTraps_finishOp (hg : Tbl.find d.groups gid = some g) (ho : (g.ops.find? fun o => o.id == op) = some o) : viewAt Group.ringTraps (finishOp d gid op) gid = some g.ringTraps := by
  obtain ⟨cl, seen, -⟩ := finishOp_lands hg ho
  have landed := view_landResult Group.ringTraps (fun _ _ _ _ => rfl) (opEnded d gid op g o) gid o.lander gid o.writes o.tr 0 cl
  simp only [landMid_ringTraps, ite_self] at landed
  refine (seen Group.ringTraps (fun _ _ _ => rfl) gid).trans (landed.trans ?_)
  refine (viewAt_opEnded (r := Group.ringTraps) (fun _ _ _ _ => rfl) d gid op gid g o).trans ?_
  rw [viewAt, find_modGroup_same, hg]
  rfl
/-- The registers and the pending traps of a group whose store, which writes none, is acknowledged. -/
theorem ackVersion_plain (hx : x.source = .group gid op lane) (hg : Tbl.find d.groups gid = some g) (ho : (g.ops.find? fun o => o.id == op) = some o)
    (hw : o.writes = RegWrites.none) (hv : o.verLast = none) (hsh : o.shape = none) :
    regsOf (ackVersion d x false) gid = some g.regs ∧ viewAt Group.ringTraps (ackVersion d x false) gid = some g.ringTraps := by
  let f : Op → Op := fun o => { o with parts := o.parts - 1 }
  let acked : Group := { g with ops := g.ops.map fun o => if o.id == op then f o else o }
  have found : Tbl.find (laneAcked d gid op).groups gid = some acked := (find_modGroup_same d gid _).trans (congrArg (Option.map _) hg)
  have first : (acked.ops.find? fun o => o.id == op) = some (f o) := (find_changed (f := f) (fun _ => rfl) op g.ops).trans (congrArg _ ho)
  obtain eq | eq := ackVersion_group d x false gid op lane hx <;> rw [eq]
  · exact ⟨congrArg (Option.map Group.regs) found, congrArg (Option.map Group.ringTraps) found⟩
  · refine ⟨?_, ringTraps_finishOp (g := acked) found first⟩
    rw [regsOf_finishOp found first, if_pos rfl]
    exact congrArg some (endOp_plain (o := f o) acked op _ _ hw hv hsh)
theorem noneSeeks_ackVersion (applied : Bool) (h : noneSeeks r d) (hx : x.source = .group gid op lane) : noneSeeks r (ackVersion d x applied) := by
  obtain eq | eq := ackVersion_group d x applied gid op lane hx <;> rw [eq]
  · exact noneSeeks_laneAcked op h
  · exact noneSeeks_finishOp op (noneSeeks_laneAcked op h)
/-- A group's store past its time leaves its lane as a pending version-ring trap. -/
theorem stalenessEnds_lane (hp : (d.home r).parked = []) (hn : noneSeeks r d) (hh : (d.home r).heldStores = [x]) (hst : stale d (d.home r).job x.since = true) (hok : recordOk d r = true) (hc : chooseSlot d r x.step = .hold)
    (hx : x.source = .group gid op lane) (hg : Tbl.find d.groups gid = some g) (hs : g.state ≠ .halted) (ht : (g.ringTraps.any fun t => t.op == op) = false) (ho : (g.ops.find? fun o => o.id == op) = some o)
    (hw : o.writes = RegWrites.none) (hv : o.verLast = none) (hsh : o.shape = none) :
    (stalenessEnds r P d).mem = d.mem ∧ ((stalenessEnds r P d).home r).heldStores = [] ∧ regsOf (stalenessEnds r P d) gid = some g.regs ∧
      viewAt Group.ringTraps (stalenessEnds r P d) gid = some (g.ringTraps ++ [laneTrap r op lane x o]) := by
  have old : staleHeld d r = [x] := by simp only [staleHeld, hh, List.filter_cons, hst, hok, hc, beq_self_eq_true, Bool.and_self, if_true, List.filter_nil]
  let e := (staleTaken d r [] []).modGroup gid (Group.trapped (laneTrap r op lane x o))
  have left : staleDropped P d r = ackVersion e x false := by
    rw [staleDropped_stores hp, old, hh]
    simp only [List.filter_cons, hst, hok, hc, beq_self_eq_true, Bool.and_self, Bool.not_true, Bool.false_eq_true, if_false, List.filter_nil, List.foldl_cons, List.foldl_nil]
    exact dropHeld_group hx hg hs ht ho
  have found : Tbl.find e.groups gid = some (g.trapped (laneTrap r op lane x o)) := (find_modGroup_same _ _ _).trans (congrArg (Option.map _) hg)
  have quiet : noneSeeks r e := noneSeeks_kept (d := staleTaken d r [] []) (fun _ => rfl) hn
  obtain ⟨mem, homes⟩ := ackVersion_leaves e x false
  obtain ⟨regs, traps⟩ := ackVersion_plain hx found ho hw hv hsh
  rw [stalenessEnds_quiet (by rw [left]; exact noneSeeks_ackVersion false quiet hx), left]
  refine ⟨mem, ?_, regs, traps⟩
  rw [home_of homes]
  exact congrArg Home.heldStores (home_staleTaken d r [] [])
end

/-! A parked seal past its time (R226). -/

section
variable {P : Platform} {d : Device} {r j : Nat} {x : VerSeal}

theorem waitIn_eq (d : Device) (k : Nat) : waitIn d k = (viewAt Group.wait d k).join := by
  rw [waitIn, viewAt]
  cases Tbl.find d.groups k <;> rfl
/-- A parked seal past its time is counted late. -/
theorem stalenessEnds_seal (hp : (d.home r).parked = [x]) (hn : noneSeeks r d) (hh : (d.home r).heldStores = []) (hst : stale d x.job x.since = true) (hok : recordOk d r = true) (hr : resultPending (d.home r) x = false)
    (hc : chooseSlot d r x.step = .hold) (hj : newestSealed (readSlots d r) = some j) :
    readSlot (stalenessEnds r P d) r j = (readSlot d r j).charged ∧ (∀ b, Apart b 1 (r + 16 * j) 16 → (stalenessEnds r P d).readByte b = d.readByte b) ∧ ((stalenessEnds r P d).home r).parked = [] ∧
      ∀ k, regsOf (stalenessEnds r P d) k = regsOf d k ∧ waitIn (stalenessEnds r P d) k = waitIn d k := by
  have row : sealRow P d r x = .park := by rw [sealRow_eq hok hr, hc]
  have old : staleSeals P d r = [x] := by simp only [staleSeals, hp, List.filter_cons, hst, row, Bool.and_self, if_true, List.filter_nil]
  let e := staleTaken d r [] []
  have left : staleDropped P d r = ackSeal (chargeLate P e r j) x := by
    have newest : newestSealed (readSlots e r) = some j := (congrArg newestSealed (readSlots_mem (d := e) (e := d) rfl r)).trans hj
    rw [staleDropped, staleHeld, old, hp, hh]
    simp only [List.filter_cons, List.filter_nil, List.foldl_nil, List.foldl_cons, List.contains_cons, beq_self_eq_true, Bool.true_or, Bool.not_true, Bool.false_eq_true, if_false]
    exact congrArg (fun n => ackSeal (match n with | some j => chargeLate P e r j | none => e) x) newest
  obtain ⟨mem, homes, seen⟩ := ackSeal_leaves (chargeLate P e r j) x
  have unwritten : (chargeLate P e r j).unwritten = e.unwritten := unwritten_writeSlot _ _ _ _ _
  have quiet : noneSeeks r (ackSeal (chargeLate P e r j) x) := by
    have charged : noneSeeks r (chargeLate P e r j) := noneSeeks_groups (groups_of_unwritten unwritten) (noneSeeks_staleTaken [] [] hn)
    simp only [ackSeal]
    split
    · exact noneSeeks_kept (fun _ => rfl) charged
    · exact charged
  rw [stalenessEnds_quiet (by rw [left]; exact quiet), left]
  rw [chargeLate_eq] at mem
  obtain ⟨slot, other⟩ := slot_written (d := e) (Slot.fits_charged (readSlot_fits e r j)) mem
  have kept {α : Type} (v : Group → α) (hv : ∀ (g : Group) n, v { g with outEff := n } = v g) (k : Nat) : viewAt v (ackSeal (chargeLate P e r j) x) k = viewAt v d k := (seen v hv k).trans (viewAt_groups v (groups_of_unwritten unwritten) k)
  refine ⟨slot.trans (congrArg Slot.charged (readSlot_mem rfl r j)), other, ?_, fun k => ⟨kept Group.regs (fun _ _ => rfl) k, ?_⟩⟩
  · rw [home_of (homes.trans (homes_of_unwritten unwritten))]
    exact congrArg Home.parked (home_staleTaken d r [] [])
  · rw [waitIn_eq, waitIn_eq, kept Group.wait fun _ _ => rfl]
end

/-! A load past its time (R228). -/

section
variable {P : Platform} {d e : Device} {r gid op : Nat} {g : Group} {o : Op}

/-- The device in which a load past its time leaves its group by the staleness trap: neither its wait nor its operation is left. -/
def loadDropped (d : Device) (gid : Nat) (g : Group) (o : Op) : Device := dropOp (dropWait (timedOut d gid g) gid) gid o
theorem timeoutGroup_sealed (hg : Tbl.find d.groups gid = some g) (hid : g.id = gid) (hd : g.savedDrawer = none) (hs : g.state = .waiting) (hw : g.wait = some (.sealed op)) (ho : (g.ops.find? fun o => o.id == op) = some o) :
    timeoutGroup P d g = takeTrap P (loadDropped d gid g o) gid o.site (1 + o.site.index) (Exc.of .staleness) false none := by
  have late : ∀ b : BitVec 8, ((b &&& 0x0F) ||| 2).getLsbD 1 = true := by decide
  have found := find_timedOut hg
  have drawer : drawerOf (timedOut d gid g) { g with waitSeq := g.waitSeq + 1 } = expire (d.drawer g.core g.block) := by
    rw [drawerOf, hd]
    exact drawer_timedOut d gid g
  have ends := endWait_finishes P found hs hw nofun
  rw [drawer, expire, late] at ends
  refine Eq.trans ?_ (ends.trans ?_)
  · simp only [timeoutGroup, setDrawerOf, drawerOf, hd, hid, Option.getD_none]
    rfl
  · simp only [finishWait, found, hw, ho, if_true]
    rfl
/-- What a dropped operation leaves of its group, in a view that shows no stall. -/
theorem viewAt_dropOp {α : Type} {v : Group → α} (hv : ∀ (g : Group) readyAt splits, v { g with readyAt, splits } = v g) (hg : Tbl.find d.groups gid = some g) :
    viewAt v (dropOp d gid o) gid = some (v { g with ops := g.ops.filter fun x => x.id != o.id }) := by
  have retried (w : Stall) (e : Device) (i : Nat) : viewAt v (retryStalls w e i) gid = viewAt v e gid := viewAt_retried hv w e i gid
  have found : Tbl.find (d.modGroup gid fun g => { g with ops := g.ops.filter fun x => x.id != o.id }).groups gid = some { g with ops := g.ops.filter fun x => x.id != o.id } := (find_modGroup_same d gid _).trans (congrArg (Option.map _) hg)
  rw [dropOp, unblock, retried]
  exact (ite_leaves (viewAt v · gid) (viewAt_foldl gid (fun e i => retried .table e i) _ _) rfl).trans (congrArg (Option.map v) found)
theorem dropOp_mem (d : Device) (gid : Nat) (o : Op) : (dropOp d gid o).mem = d.mem := by
  refine mem_of_beside ?_
  rw [dropOp, unblock, beside_retryStalls, beside_freeEntries]
  rfl
/-- What is left of a group whose load has been dropped: no wait, and its operation gone. -/
def Group.unloaded (g : Group) : Regs × Option WaitFor × List Op := (g.regs, g.wait, g.ops.map Op.unmarked)
theorem loadDropped_spec (hg : Tbl.find d.groups gid = some g) (hd : g.savedDrawer = none) :
    (loadDropped d gid g o).mem = d.mem ∧ viewAt Group.unloaded (loadDropped d gid g o) gid = some (g.regs, none, (g.ops.filter fun x => x.id != o.id).map Op.unmarked) := by
  have found := find_timedOut hg
  have awake : Tbl.find (dropWait (timedOut d gid g) gid).groups gid = some (Group.roused (timedOut d gid g).clock { g with waitSeq := g.waitSeq + 1 }) := by
    rw [dropWait_eq found hd]
    exact (find_modGroup_same _ _ _).trans (congrArg (Option.map _) found)
  refine ⟨?_, viewAt_dropOp (fun _ _ _ => rfl) awake⟩
  rw [loadDropped, dropOp_mem]
  exact mem_of_beside (beside_dropWait (timedOut d gid g) gid)
/-- A waiting load past its time leaves its group, without a result, by the staleness trap. -/
theorem stalenessEnds_load (hp : (d.home r).parked = []) (hh : (d.home r).heldStores = []) (hn : sealWaiters d r = [g]) (hl : pastDeadline d g = true) (hg : Tbl.find d.groups g.id = some g) (hs : g.state = .waiting) (hd : g.savedDrawer = none)
    (hw : g.wait = some (.sealed op)) (ho : (g.ops.find? fun o => o.id == op) = some o) :
    ∃ e, stalenessEnds r P d = takeTrap P e g.id o.site (1 + o.site.index) (Exc.of .staleness) false none ∧ e.mem = d.mem ∧ regsOf e g.id = some g.regs ∧ waitIn e g.id = none ∧
      opsIn e g.id = some ((g.ops.filter fun x => x.id != op).map Op.unmarked) := by
  let taken := staleTaken d r [] []
  have left : staleDropped P d r = taken := by
    rw [staleDropped_stores hp, staleHeld, hh]
    rfl
  have waiters : sealWaiters taken r = [g] := hn
  have late : pastDeadline taken g = true := hl
  have id : o.id = op := by simpa using List.find?_some ho
  obtain ⟨mem, view⟩ := loadDropped_spec (d := taken) (o := o) hg hd
  obtain ⟨x, hx, hv⟩ := Option.map_eq_some_iff.1 view
  simp only [Group.unloaded, Prod.mk.injEq, id] at hv
  obtain ⟨regs, wait, ops⟩ := hv
  refine ⟨loadDropped taken g.id g o, ?_, mem, ?_, ?_, ?_⟩
  · rw [stalenessEnds_eq, left, waiters, List.filter_cons, late, if_pos rfl]
    exact timeoutGroup_sealed hg rfl hd hs hw ho
  · rw [regsOf, hx, Option.map_some, regs]
  · rw [waitIn, hx, Option.bind_some, wait]
  · rw [opsIn, hx, Option.map_some, ops]
end

end Sys2Proof.Machine

/-! The homes' obligation. -/

namespace Sys2Proof
open Machine

/-- Settles O30: each event of a version home is what its row of R225 or R226 does to the home without what it took, on memory, the home and the groups. -/
theorem versionsAppliedSealedAndLoaded : Obligations.versions_applied_sealed_and_loaded := by
  unfold Obligations.versions_applied_sealed_and_loaded
  refine ⟨⟨⟨?applied, ?image, ?lateStore, ?openedByStore, ?held⟩, ?filled⟩, ⟨?sealed, ?sealedAgain, ?lateSeal, ?openedBySeal, ?parked⟩, ⟨?loaded, ?awaited⟩, ?engines, ?lane, ?staleSeal, ?staleLoad⟩
  case applied =>
    intro r s x held rest j h hc hf hl
    exact event_of rfl rfl (versionStores_applies h hc hf hl)
  case image =>
    intro r s x held rest j h hc hf hz _ inj apart
    exact event_of rfl rfl (versionStores_image h hc hf hz inj apart)
  case lateStore =>
    intro r s x held rest j h hc
    exact event_of rfl rfl (versionStores_late h hc)
  case openedByStore =>
    intro r s x held rest j h hc hx
    exact event_of rfl rfl (versionStores_opens h hc hx)
  case held =>
    intro r s x held rest h hc
    exact event_of rfl rfl (versionStores_holds h hc)
  case filled =>
    intro r s j top h n src dst hs hd
    obtain ⟨mem, fill⟩ := slotFills_eq (P := s.plat) h
    refine event_of rfl rfl ⟨fill, fun i hi => ?_, fun b hb => ?_⟩
    · rw [readBytes_mem_congr mem]
      exact readBytes_copyFrame hs hd i hi
    · rw [readByte_mem_congr mem]
      exact readByte_copyFrame_other hb
  case sealed =>
    intro r s x parked rest j h hc hz
    exact event_of rfl rfl (versionSeals_seals h hc hz)
  case sealedAgain =>
    intro r s x parked rest j h hc hs
    exact event_of rfl rfl (versionSeals_again h hc hs)
  case lateSeal =>
    intro r s x parked rest j h hc hs
    exact event_of rfl rfl (versionSeals_late h hc hs)
  case openedBySeal =>
    intro r s x parked rest j h hc hx
    exact event_of rfl rfl (versionSeals_opens h hc hx)
  case parked =>
    intro r s x parked rest h hc
    exact event_of rfl rfl (versionSeals_parks h hc)
  case loaded =>
    intro r s gid op rest g o q k j h hs
    exact event_of rfl rfl (versionLoads_answered h hs)
  case awaited =>
    intro r s gid op rest g o q k jb h hs hl hj
    exact event_of rfl rfl (versionLoads_begins h hs hl hj)
  case engines =>
    intro r s hp hn hx
    exact event_of rfl rfl (stalenessEnds_engines hp (sealWaiters_nil.1 hn) hx)
  case lane =>
    intro r s x gid op lane g o hp hn hh hst hok hc hx hg hs ht ho hw _ hv hsh
    exact event_of rfl rfl (stalenessEnds_lane hp (sealWaiters_nil.1 hn) hh hst hok hc hx hg hs ht ho hw hv hsh)
  case staleSeal =>
    intro r s x j hp hn hh hst hok hr hc hj
    exact event_of rfl rfl (stalenessEnds_seal hp (sealWaiters_nil.1 hn) hh hst hok hr hc hj)
  case staleLoad =>
    intro r s g op o hp hh hn hl hg hs hd hw ho
    exact event_of rfl rfl (stalenessEnds_load hp hh hn hl hg hs hd hw ho)

end Sys2Proof

/-! Accesses without a lane, counters, task drawers, holds and names (R238, R272 to R276, R282 to R285). -/

namespace Sys2Proof.Machine
open Sys2Proof

/-! Results beside a change that registers do not show. -/

/-- What a result makes of a group's registers depends on its registers alone. -/
theorem landed_congr {x g : Group} (h : x.regs = g.regs) (k : Nat) (tr : Bool) (w : RegWrites) (rs : Nat) : x.landed k tr w rs = g.landed k tr w rs := by
  simp only [Group.regs, Regs.mk.injEq] at h
  obtain ⟨hv, hh, hs, hp, hshapes, htr, hholds, hkey, hctr, hcnt, hlast, hstep, hver, hname⟩ := h
  cases tr <;> simp [Group.landed, Group.regs, produce, applyWrites, pushBypass, modSplit, *]
/-- Acting on a device that differs from another only where neither registers nor anything beside the groups shows it. -/
theorem Acted.of_regs {s : State} {c : Ctx} {d d' : Device} {tr : Bool} {w : RegWrites} {rs : Nat} {t : State} (h : Acted s c d' tr w rs t) (hr : d'.rest = d.rest) (hn : d'.nextId = d.nextId)
    (hg : ∀ j, regsOf d' j = regsOf d j) : Acted s c d tr w rs t := by
  refine h.of_same hr hn hg ?_
  have own := hg c.gid
  simp only [regsOf] at own
  cases hd : Tbl.find d.groups c.gid <;> cases hd' : Tbl.find d'.groups c.gid <;> simp only [hd, hd', Option.map_none, Option.map_some, Option.some.injEq, reduceCtorEq] at own ⊢
  exact landed_congr own c.k tr w rs
/-- A closed and reopened region does not show in the registers. -/
theorem regsOf_reopened (c : Ctx) (j : Nat) : regsOf c.reopened.d j = regsOf c.d j := view_modGroup Group.regs _ _ _ _ fun _ => rfl
/-- A closing instruction that completes in the context in which its region has closed has acted on the device as it was. -/
theorem closing_acted {i : Instr} {gd : Option Guard} {s : State} {c : Ctx} {body : Ctx → Except Stop (Ctx → Done)} {f : Ctx → Done} {w : RegWrites} (hr : ready i gd s = some c) (he : exec i s = runCode i gd s body)
    (hi : ∀ d a, i ≠ .mig d a) (hi' : ∀ d a, i ≠ .migNear d a) (h1 : closesFirst i = true) (h2 : closesEarly i = false) (h3 : isHeldEffect i = false) (hc : c.clear = true) (hb : body c = .ok f) (hf : f c.reopened = .act c.reopened.d w false 0) :
    Completes (exec i s) (Acted s c s.dev false w 0) := by
  obtain ⟨-, hd, -⟩ := ready_own hr
  rw [← hd]
  exact (closing_act hr he hi hi' h1 h2 h3 hc hb hf (reopened_stays hr)).mono fun t acted => acted.of_regs rfl rfl (regsOf_reopened c)

/-! Accesses without a lane (R238). -/

theorem orNothing_zero {c : Ctx} (h : c.lanes = 0) (r : Except Stop (Ctx → Done)) : orNothing c r = .ok fun c => .act c.d RegWrites.none false 0 := if_pos h
/-- An access without a lane that closes no region. -/
theorem idle_access {i : Instr} {gd : Option Guard} {s : State} {c : Ctx} {body : Ctx → Except Stop (Ctx → Done)} {r : Except Stop (Ctx → Done)} (hr : ready i gd s = some c) (h : c.lanes = 0) (he : exec i s = runCode i gd s body) (hb : body c = orNothing c r)
    (h1 : closesFirst i = false) (h2 : closesEarly i = false) (h3 : isHeldEffect i = false ∨ room i c = true) : Completes (exec i s) (Acted s c s.dev false RegWrites.none 0) := by
  obtain ⟨-, hd, stands⟩ := ready_own hr
  rw [← hd]
  exact completes_act hr he h1 h2 h3 (by rw [hb]; exact orNothing_idle h _) stands
/-- One that closes its region. -/
theorem idle_closing {i : Instr} {gd : Option Guard} {s : State} {c : Ctx} {body : Ctx → Except Stop (Ctx → Done)} {r : Except Stop (Ctx → Done)} (hr : ready i gd s = some c) (h : c.lanes = 0) (he : exec i s = runCode i gd s body) (hb : body c = orNothing c r)
    (hi : ∀ d a, i ≠ .mig d a) (hi' : ∀ d a, i ≠ .migNear d a) (h1 : closesFirst i = true) (h2 : closesEarly i = false) (h3 : isHeldEffect i = false) (hc : c.clear = true) : Completes (exec i s) (Acted s c s.dev false RegWrites.none 0) :=
  closing_acted hr he hi hi' h1 h2 h3 hc (hb.trans (orNothing_zero h _)) rfl

/-! Counters and task drawers (R272 to R274). -/

theorem waitCtrBody_ok {sd : SReg} {a v : RegOpd} {t : Option Word} {c : Ctx} (hp : c.passes .load 8 notVersioned [(0, globalEa c.g c.sp a.reg (.none false) 0)] = true) :
    let va := globalEa c.g c.sp a.reg (.none false) 0
    let p := c.placeAt .load (0, va)
    let n := (t.getD 0).toNat
    okDone c (waitCtrBody sd a v t c) = some (.wait (sendAtomic c.P c.g.core (beginWait c.d c.gid (.counter p.pa sd) 7 1 (if n = 0 then 0 else c.d.clock + n) p.va c.sp.here)
      { kind := .watch (BitVec.ofNat 64 (c.rv .b64 0 v.reg)), pa := p.pa, va := p.va, job := c.g.job, x := 0, xn := 0, source := .waiter c.gid, park := none })) := by
  simp only [waitCtrBody, placeLane_ok hp, wholeGroup]
  rfl
/-- The drawer that `post` reserves. -/
def postedDrawer (a v : RegOpd) (n : MOff) (c : Ctx) (i : Nat) : Drawer :=
  { Drawer.free (c.d.drawer c.g.core i).gen with kind := 2, count := BitVec.ofNat 32 (mOff32 c.g c.sp 0 n), team := c.g.team, ownerBlock := c.g.block, entry := BitVec.ofNat 64 (c.rv .b64 0 a.reg), arg := BitVec.ofNat 64 (c.rv .b64 0 v.reg), reserved := true }
/-- The handle that it answers. -/
def postedHandle (a v : RegOpd) (n : MOff) (c : Ctx) (i : Nat) : Word := handleOf c.g.core i (postedDrawer a v n c i).gen
theorem postBody_full {sd : SReg} {a v : RegOpd} {n : MOff} {c : Ctx} (h : c.d.poolDrawer c.g.core = none) : okDone c (postBody sd a v n c) = some (.act c.d (scaWrite sd.val 0) false 0) := by
  simp only [postBody, okDone, h]
theorem postBody_free {sd : SReg} {a v : RegOpd} {n : MOff} {c : Ctx} {i : Nat} (h : c.d.poolDrawer c.g.core = some i) :
    okDone c (postBody sd a v n c) = some (.act (holdEffect c (c.d.setDrawer c.g.core i (postedDrawer a v n c i)) 0x7A ((postedHandle a v n c i).zeroExtend 64) [] (.post c.g.core i)) (scaWrite sd.val (postedHandle a v n c i).toNat) false 0) := by
  simp only [postBody, okDone, h]
  rfl
/-- A group has an effect, in its buffer or handed over. -/
def Group.hasEffect (e : Effect) (g : Group) : Bool := decide (e ∈ g.effects ++ g.handed)
/-- A region that closes hands its effects over. -/
theorem hasEffect_closeRegion (e : Effect) (clock : Nat) (cl : Bool) (g : Group) (k : Nat) : (closeRegion clock cl g k).hasEffect e = g.hasEffect e := by
  simp only [Group.hasEffect, decide_eq_decide]
  show e ∈ g.effects.filter (fun x => x.split != k) ++ (g.handed ++ g.effects.filter fun x => x.split == k) ↔ _
  by_cases hk : e.split = k <;> simp [hk, or_comm]
theorem hasEffect_landMid (e : Effect) (g : Group) (k : Nat) (w : RegWrites) (rs : Nat) : (landMid g k w false rs).hasEffect e = g.hasEffect e := by
  simp only [landMid]
  split <;> rfl
/-- An instruction that completes at issue keeps the effects of its group. -/
theorem hasEffect_retire {i : Instr} {c : Ctx} {d : Device} {w : RegWrites} {rs : Nat} (e : Effect) (h : closesFirst i = false) :
    (Tbl.find (retire i c (.act d w false rs)).groups c.gid).map (Group.hasEffect e) = (Tbl.find d.groups c.gid).map (Group.hasEffect e) := by
  have split : ∀ (g : Group) (k : Nat) (f : Split → Split), (modSplit g k f).hasEffect e = g.hasEffect e := fun _ _ _ => rfl
  simp only [retire, h, Bool.false_eq_true, if_false]
  rw [view_noteIssue _ (fun g k f _ => split g k f) fun _ _ _ => rfl, view_noteArrival _ fun g k f _ => split g k f, view_landResult _ (hasEffect_closeRegion e)]
  simp only [if_true, hasEffect_landMid]
  exact view_modSplit _ split _ _ _ _ _
/-- An instruction that holds an effect beside its result. -/
theorem completes_holding {i : Instr} {gd : Option Guard} {s : State} {c : Ctx} {body : Ctx → Except Stop (Ctx → Done)} {d : Device} {w : RegWrites} {opcode : Nat} {at_ : DWord} {blocks : List DWord} {act : Act}
    (hr : ready i gd s = some c) (he : exec i s = runCode i gd s body) (h1 : closesFirst i = false) (h2 : closesEarly i = false) (hroom : room i c = true)
    (hb : okDone c (body c) = some (.act (holdEffect c d opcode at_ blocks act) w false 0)) (stands : c.stays d) :
    Completes (exec i s) fun t => Acted s c d false w 0 t ∧ (Tbl.find t.dev.groups c.gid).map (Group.hasEffect (c.entry opcode c.lanes at_ blocks act)) = some true := by
  obtain ⟨f, hb, hf⟩ := okDone_spec hb
  have held : c.stays (holdEffect c d opcode at_ blocks act) := stays_modGroup (fun _ => rfl) stands
  refine ⟨_, he.trans (runCode_ok hr h1 h2 (.inr hroom) hb), ?_, ?_⟩
  · rw [hf]
    exact (retire_act w false 0 held).of_regs rfl rfl fun j => view_modGroup Group.regs _ _ _ _ fun _ => rfl
  · obtain ⟨g, -, hg, -⟩ := stands
    rw [hf]
    refine (hasEffect_retire _ h1).trans ?_
    rw [holdEffect, find_modGroup_same, hg]
    simp [Group.hasEffect, Ctx.entry]

/-! Decrements (R276). -/

theorem dcntBody_ok {a : RegOpd} {n : MOff} {c : Ctx} (h : c.lanes ≠ 0) :
    let ls := match a.reg with | .v _ => lanesOf c.lanes | .s _ => (lanesOf c.lanes).take 1
    let ds : List (Word × Word) := ls.map fun l => (BitVec.ofNat 32 (c.rv .b32 l a.reg), BitVec.ofNat 32 (mOff32 c.g c.sp l n))
    okDone c (dcntBody a n c) = some (.act (c.d.modGroup c.gid fun g => { g with effects := g.effects ++ [c.entry 0x7B c.lanes ((ds.headD (0, 0)).1.zeroExtend 64) [] (.dcnt ds)] }) RegWrites.none false 0) := by
  rw [dcntBody, orNothing_lanes h]
  rfl

/-! Holds and names (R282 to R284). -/

theorem holdBody_ok {vr : VReg} {n : MOff} {c : Ctx} {hs : List Hold} (hu : unheldReg c.g vr.val = false) (ht : holdTable c.g.holds vr.val (sext 32 (mOff32 c.g c.sp 0 n)) = some hs) :
    okDone c (holdBody vr n c) = some (.act (c.d.modGroup c.gid fun g => { g with holds := hs }) RegWrites.none false 0) := by
  simp only [holdBody, hu, ht, Bool.false_eq_true, if_false]
  rfl
/-- A hold table takes what it has an entry or room for, and a count that is not positive. -/
theorem holdTable_some {hs : List Hold} {r : Nat} {n : Int} (h : (holdOf hs r).isSome = true ∨ n ≤ 0 ∨ hs.length < 4) : ∃ t, holdTable hs r n = some t := by
  simp only [holdTable]
  split
  · exact ⟨_, rfl⟩
  · split
    · exact ⟨_, rfl⟩
    · exact ⟨_, if_pos ((h.resolve_left (by simp [*])).resolve_left ‹_›)⟩
theorem nameGetDone_named {sd : SReg} {c : Ctx} (h : c.g.name ≠ 0) : nameGetDone sd c = .act c.d (scaWrite sd.val c.g.name.toNat) false 0 := if_pos h
theorem nameGetDone_full {sd : SReg} {c : Ctx} (h : c.g.name = 0) (hn : freeName c.d = none) : nameGetDone sd c = .act c.d (scaWrite sd.val 0) false 0 := by
  simp only [nameGetDone, h, ne_eq, not_true_eq_false, if_false, hn]
/-- The generation of an entry of the name table. -/
def nameGen (d : Device) (i : Nat) : Byte := ((Tbl.find d.names i).map (·.gen)).getD 0
/-- The name that an entry of the name table gives (R282). -/
def nameAt (P : Platform) (d : Device) (i : Nat) : Word := BitVec.ofNat 32 (P.own * 2 ^ 23 + i * 2 ^ 8 + (nameGen d i).toNat)
/-- A group takes an entry of the name table. -/
def takeName (P : Platform) (d : Device) (gid i : Nat) : Device :=
  { d with names := Tbl.set d.names i { gen := nameGen d i, holder := some gid, exited := false } }.modGroup gid fun g => { g with name := nameAt P d i }
theorem nameGetDone_taken {sd : SReg} {c : Ctx} {i : Nat} (h : c.g.name = 0) (hn : freeName c.d = some i) :
    nameGetDone sd c = .act (takeName c.P c.d c.gid i) (scaWrite sd.val (nameAt c.P c.d i).toNat) false 0 := by
  simp only [nameGetDone, h, ne_eq, not_true_eq_false, if_false, hn]
  rfl
/-- A name that is taken shows in the registers alike whether a region has closed or not. -/
theorem regsOf_takeName_reopened (P : Platform) (c : Ctx) (i j : Nat) : regsOf (takeName P c.reopened.d c.gid i) j = regsOf (takeName P c.d c.gid i) j := by
  by_cases hj : j = c.gid
  · subst hj
    show ((Tbl.find (Device.modGroup _ _ _).groups _).map Group.regs) = ((Tbl.find (Device.modGroup _ _ _).groups _).map Group.regs)
    rw [find_modGroup_same, find_modGroup_same]
    show ((Tbl.find (c.d.modGroup c.gid _).groups c.gid).map _).map _ = _
    rw [find_modGroup_same]
    cases Tbl.find c.d.groups c.gid <;> rfl
  · rw [takeName, takeName, regsOf_modGroup_other _ _ _ _ hj, regsOf_modGroup_other _ _ _ _ hj]
    exact regsOf_reopened c j
theorem nameFreeDone_none {c : Ctx} (h : c.g.name = 0) : nameFreeDone c = .act c.d RegWrites.none false 0 := if_pos h
theorem nameFreeDone_freed {c : Ctx} (h : c.g.name ≠ 0) :
    nameFreeDone c = .act ({ c.d with names := Tbl.modify (fun (e : NameEntry) => { gen := e.gen + 1, holder := none, exited := false }) c.d.names (c.g.name.toNat / 256 % 2 ^ 15) }.modGroup c.gid fun g => { g with name := 0 }) RegWrites.none false 0 := if_neg h

end Sys2Proof.Machine

namespace Sys2Proof
open Machine

/-- Settles O5: an instruction of these rows asks first whether its guard selects a lane; two of them close their region before they do nothing. -/
theorem noLaneNoEffect : Obligations.no_lane_no_effect := by
  unfold Obligations.no_lane_no_effect
  rintro i gd s c hr h (⟨f, rfl, rfl⟩ | ⟨f, rfl, rfl⟩ | ⟨f, rfl, rfl⟩ | ⟨f, rfl, rfl⟩ | ⟨f, rfl, rfl⟩ | ⟨f, rfl, rfl⟩ | ⟨f, rfl, rfl⟩ | ⟨f, rfl, rfl⟩ | ⟨hroom, held⟩ | ⟨hc, closes⟩)
  case inr.inr.inr.inr.inr.inr.inr.inr.inl =>
    obtain ⟨f, rfl, rfl⟩ | ⟨f, rfl, rfl⟩ | ⟨g, a, n, rfl, rfl⟩ | ⟨f, rfl, rfl⟩ | ⟨f, rfl, rfl⟩ | ⟨g, a, v, b, rfl, rfl⟩ := held
    all_goals exact idle_access hr h rfl rfl rfl rfl (.inr hroom)
  case inr.inr.inr.inr.inr.inr.inr.inr.inr =>
    obtain ⟨f, rfl, rfl⟩ | ⟨f, rfl, rfl⟩ := closes
    all_goals exact idle_closing hr h rfl rfl nofun nofun rfl rfl rfl hc
  all_goals exact idle_access hr h rfl rfl rfl rfl (.inl rfl)

/-- Settles O8: `wait.ctr` waits behind its watch; `post` and `dcnt` hold an effect; `hold` and `name.free` change one table, and `name.get` does in the context in which its region has closed. -/
theorem countersNamesAndHoldsComplete : Obligations.counters_names_and_holds_complete := by
  unfold Obligations.counters_names_and_holds_complete
  refine ⟨⟨?waits, ?poolFull, ?posted, ?decrements⟩, ?hold, ?named, ?namesFull, ?taken, ?nameless, ?freed⟩
  case waits =>
    intro sd a v t s c hr va p hp n w r
    obtain ⟨hP, hd, stands⟩ := ready_own hr
    rw [← hP, ← hd]
    obtain ⟨stays, g, hg, hw⟩ := beginWait_group w 7 1 (if n = 0 then 0 else c.d.clock + n) p.va c.sp.here stands
    have sent := sendAtomic_groups c.P c.g.core (beginWait c.d c.gid w 7 1 (if n = 0 then 0 else c.d.clock + n) p.va c.sp.here) r
    exact completes_wait hr rfl rfl rfl rfl (waitCtrBody_ok hp) (stays_of sent stays) (by rw [sent]; exact hg) hw
  case poolFull =>
    intro sd a v n s c hr hroom hn
    obtain ⟨-, hd, stands⟩ := ready_own hr
    rw [← hd] at hn ⊢
    exact completes_act hr rfl rfl rfl (.inr hroom) (postBody_full hn) stands
  case posted =>
    intro sd a v n s c i hr hroom hi
    obtain ⟨-, hd, stands⟩ := ready_own hr
    rw [← hd] at hi ⊢
    exact completes_holding hr rfl rfl rfl hroom (postBody_free hi) (stays_of rfl stands)
  case decrements => exact fun g a n s c hr hroom hl => holds_effects hr rfl rfl rfl rfl hroom (dcntBody_ok hl)
  case hold =>
    intro vr n s c hr hu ht
    obtain ⟨-, hd, stands⟩ := ready_own hr
    obtain ⟨hs, ht⟩ := holdTable_some ht
    rw [← hd]
    obtain ⟨t, ran, acted⟩ := completes_act hr rfl rfl rfl (.inl rfl) (holdBody_ok hu ht) (stays_modGroup (fun _ => rfl) stands)
    exact ⟨t, ran, hs, ht, acted⟩
  case named => exact fun sd s c hr hc hn => closing_acted hr rfl nofun nofun rfl rfl rfl hc rfl (nameGetDone_named (c := c.reopened) hn)
  case namesFull =>
    intro sd s c hr hc h0 hn
    obtain ⟨-, hd, -⟩ := ready_own hr
    rw [← hd] at hn
    exact closing_acted hr rfl nofun nofun rfl rfl rfl hc rfl (nameGetDone_full (c := c.reopened) h0 hn)
  case taken =>
    intro sd s c i hr hc h0 hi
    obtain ⟨hP, hd, -⟩ := ready_own hr
    rw [← hP, ← hd]
    rw [← hd] at hi
    have stands : c.stays (takeName c.P c.reopened.d c.gid i) := stays_modGroup (fun _ => rfl) (stays_of rfl (reopened_stays hr))
    exact (closing_act hr rfl nofun nofun rfl rfl rfl hc rfl (nameGetDone_taken (c := c.reopened) h0 hi) stands).mono fun t acted => acted.of_regs rfl rfl (regsOf_takeName_reopened c.P c i)
  case nameless =>
    intro s c hr h0
    obtain ⟨-, hd, stands⟩ := ready_own hr
    rw [← hd]
    exact completes_act hr rfl rfl rfl (.inl rfl) (congrArg some (nameFreeDone_none h0)) stands
  case freed =>
    intro s c hr h0
    obtain ⟨-, hd, stands⟩ := ready_own hr
    rw [← hd]
    exact completes_act hr rfl rfl rfl (.inl rfl) (congrArg some (nameFreeDone_freed h0)) (stays_modGroup (fun _ => rfl) (stays_of rfl stands))

end Sys2Proof

/-! Requests of peers, `rst` stores and answers (R239, R248, R278, R280, R284, R286, R394 to R397). -/

namespace Sys2Proof.Machine
open Sys2Proof

/-! A device while it serves requests. -/

/-- A device with other requests that it serves, another next number and another clock at its port. -/
def Device.atPort (d : Device) (n : Nat) (S : List Served) (port : DieClock) : Device := { d with nextId := n, served := S, port }
section
variable (d : Device) (n : Nat) (S : List Served) (port : DieClock)
theorem walkLevels_atPort (acc : Access) (va : Nat) (ls : List Nat) (table : Nat) : walkLevels (d.atPort n S port) acc va ls table = walkLevels d acc va ls table := by
  delta walkLevels
  rfl
/-- Translation does not depend on what is served. -/
theorem engineXlat_atPort (job : Nat) (acc : Access) (die : Nat) (va : DWord) : engineXlat (d.atPort n S port) job acc die va = engineXlat d job acc die va := by
  have same : walk (d.atPort n S port) job acc va = walk d job acc va := by
    simp only [walk, walkLevels_atPort]
    rfl
  simp only [engineXlat, same]
  rfl
theorem readNat_atPort (a k : Nat) : (d.atPort n S port).readNat a k = d.readNat a k := congrArg natOf (readBytes_mem_congr (d := d.atPort n S port) (e := d) rfl a k)
theorem anyPoison_atPort (a k : Nat) : (d.atPort n S port).anyPoison a k = d.anyPoison a k := rfl
theorem valueClock_atPort (a : Nat) : (d.atPort n S port).valueClock a = d.valueClock a := rfl
end
theorem nextServed_append (P : Platform) (x : Served) (S earlier : List Served) (h : nextServed P earlier S = none) : nextServed P earlier (S ++ [x]) = if servedDue P (S.reverse ++ earlier) x then some x else none := by
  induction S generalizing earlier with
  | nil => rfl
  | cons y S ih =>
    simp only [nextServed] at h
    split at h
    · cases h
    · rename_i hy
      rw [List.cons_append, nextServed, if_neg hy, ih _ h, List.reverse_cons, List.append_assoc, List.singleton_append]
theorem settleServed_idle {P : Platform} {d : Device} (h : nextServed P [] d.served = none) (n : Nat) : settleServed P n d = d := by
  cases n with
  | zero => rfl
  | succ n => simp only [settleServed, h]
theorem settleServed_due {P : Platform} {d : Device} {s : Served} (h : nextServed P [] d.served = some s) (n : Nat) : settleServed P (n + 1) d = settleServed P n (if s.begun then answerServed P d s else beginServed P d s) := by
  simp only [settleServed, h]
/-- The requests of a list are changed under a number that only the last of them has. -/
theorem modServed_last {d : Device} {S : List Served} {x : Served} {id : Nat} (h : d.served = S ++ [x]) (hx : x.id = id) (fresh : ∀ y ∈ S, y.id ≠ id) (f : Served → Served) : modServed d id f = { d with served := S ++ [f x] } := by
  have others : S.map (fun s => if s.id == id then f s else s) = S := by
    conv_rhs => rw [← List.map_id S]
    exact List.map_congr_left fun y hy => by simp [fresh y hy]
  simp only [modServed, h, List.map_append, others, List.map_cons, List.map_nil, hx, beq_self_eq_true, if_true]
/-- One lane of a request that is begun. -/
def serveNext (P : Platform) (s : Served) (d : Device) (l : RemoteLane) : Device :=
  match serveLane P s d l with
  | (some a, d) => modServed d s.id fun s => { s with answers := s.answers ++ [a] }
  | (none, d) => modServed d s.id fun s => { s with left := s.left + 1 }
section
variable {P : Platform} {s x : Served} {d e : Device} {l : RemoteLane} {S : List Served} (hs : e.served = S ++ [x]) (hx : x.id = s.id) (fresh : ∀ y ∈ S, y.id ≠ s.id)
include hs hx fresh
theorem serveNext_done {a : LaneAnswer} (h : serveLane P s d l = (some a, e)) : serveNext P s d l = { e with served := S ++ [{ x with answers := x.answers ++ [a] }] } := by
  rw [serveNext, h]
  exact modServed_last hs hx fresh _
theorem serveNext_queued (h : serveLane P s d l = (none, e)) : serveNext P s d l = { e with served := S ++ [{ x with left := x.left + 1 }] } := by
  rw [serveNext, h]
  exact modServed_last hs hx fresh _
end
theorem beginServed_lanes {P : Platform} {d : Device} {s : Served} (h : (d.job s.job).isSome = true) : beginServed P d s = s.lanes.foldl (serveNext P s) (modServed d s.id fun s => { s with begun := true }) :=
  if_neg (by rw [Option.isNone_eq_false_iff.2 h]; exact Bool.false_ne_true)

/-! A request that arrives. -/

section
variable (P : Platform) (d : Device) (peer seq job : Nat) (kind : RemoteKind) (lanes : List RemoteLane)
/-- A request as it joins those that are served. -/
def newServed : Served := { id := d.nextId, peer, seq, job, kind, lanes, begun := false, left := 0, answers := [] }
/-- The device that it has joined. -/
def joined : Device := { d with nextId := d.nextId + 1, served := d.served ++ [newServed d peer seq job kind lanes] }
variable {P d peer seq job kind lanes}
variable (idle : nextServed P [] d.served = none)
include idle
/-- Behind an earlier request of its peer it waits. -/
theorem addServed_waits (hp : peer ≠ P.own) {x : Served} (hx : x ∈ d.served) (hpeer : x.peer = peer) : addServed P d peer seq job kind lanes = joined d peer seq job kind lanes := by
  refine settleServed_idle ?_ _
  refine (nextServed_append P _ _ _ idle).trans (if_neg ?_)
  have behind : (d.served.reverse.any fun y => y.peer == peer) = true := List.any_eq_true.2 ⟨x, List.mem_reverse.2 hx, by simp [hpeer]⟩
  simp [servedDue, behind, hp]
variable (first : ∀ x ∈ d.served, x.peer ≠ peer ∧ x.id ≠ d.nextId)
include first
/-- The first of its peer is begun. -/
theorem addServed_begins : addServed P d peer seq job kind lanes = settleServed P (2 * d.served.length + 1) (beginServed P (joined d peer seq job kind lanes) (newServed d peer seq job kind lanes)) := by
  have due : nextServed P [] (d.served ++ [newServed d peer seq job kind lanes]) = some (newServed d peer seq job kind lanes) := by
    refine (nextServed_append P _ _ _ idle).trans (if_pos ?_)
    have alone : ((d.served.reverse ++ []).any fun x => x.peer == peer) = false := List.any_eq_false.2 fun x hx => by simpa using (first x (by simpa using hx)).1
    simp only [servedDue, newServed, alone]
    simp
  have fuel : 2 * (joined d peer seq job kind lanes).served.length = 2 * d.served.length + 1 + 1 := by simp [joined]; omega
  calc addServed P d peer seq job kind lanes
      = settleServed P (2 * (joined d peer seq job kind lanes).served.length) (joined d peer seq job kind lanes) := rfl
    _ = _ := by rw [fuel, settleServed_due (by exact due)]; rfl
variable {e : Device} {x : Served} (begun : beginServed P (joined d peer seq job kind lanes) (newServed d peer seq job kind lanes) = e) (hs : e.served = d.served ++ [x]) (hb : x.begun = true)
include begun hs hb
/-- One of whose lanes some are in a service group's queue stays. -/
theorem addServed_stays (hl : x.left ≠ 0) : addServed P d peer seq job kind lanes = e := by
  rw [addServed_begins idle first, begun]
  refine settleServed_idle ?_ _
  rw [hs]
  exact (nextServed_append P _ _ _ idle).trans (if_neg (by simp [servedDue, hb, hl]))
/-- One whose lanes are all done is answered. -/
theorem addServed_answers (hl : x.left = 0) (hid : x.id = d.nextId) (hpeer : x.peer = peer) (hseq : x.seq = seq) (hp : peer ≠ P.own) (hv : P.valid peer = true) (hup : (e.peer peer).state = .up) :
    addServed P d peer seq job kind lanes = Device.emit P (.answer peer seq x.answers) { e with served := d.served } := by
  have due : nextServed P [] e.served = some x := by
    rw [hs]
    exact (nextServed_append P _ _ _ idle).trans (if_pos (by simp [servedDue, hb, hl]))
  have gone : e.served.filter (fun y => y.id != x.id) = d.served := by
    rw [hs, List.filter_append, List.filter_eq_self.2 fun y hy => by simpa [hid] using (first y hy).2]
    simp
  have answered : answerServed P e x = Device.emit P (.answer peer seq x.answers) { e with served := d.served } := by
    have up : (P.valid peer && ({ e with served := d.served }.peer peer).state == .up) = true := by
      show (P.valid peer && (e.peer peer).state == .up) = true
      rw [hv, hup]
      rfl
    simp only [answerServed, gone, hpeer, hseq, if_neg hp, up, if_true]
  rw [addServed_begins idle first, begun, settleServed_due due, hb, if_pos rfl, answered]
  exact settleServed_idle (d := Device.emit P (.answer peer seq x.answers) { e with served := d.served }) idle _
end

/-! The lanes of a request (R220, R278, R280). -/

section
variable {P : Platform} {s : Served} {l : RemoteLane} {d : Device} {leaf : Leaf} {pa : Nat}
theorem serveLane_load (hk : s.kind = .load) (hx : engineXlat d s.job .load 0 l.addr = .ok leaf pa) (hc : d.anyPoison pa l.bytes = false) :
    serveLane P s d l = (some (doneLane l (d.readNat pa l.bytes)), { d with port := clockMax d.port (d.valueClock pa) }) := by
  simp only [serveLane, hk, remoteWrites, Bool.false_eq_true, if_false, hx, Bool.false_and, hc]
/-- The bytes of a remote store reach their home through the port (R217, R220). -/
def portStore (P : Platform) (pa : Nat) (bs : List Byte) (d : Device) : Device := portWrite d pa fun d => (storeAt P (homeDie pa) false d pa bs).1
/-- The bytes that a lane of a remote store brings. -/
def storedBytes (l : RemoteLane) : List Byte := bytesOf l.bytes (l.data.toNat + l.data2.toNat * 2 ^ 64)
section
variable (hx : engineXlat d s.job .store 0 l.addr = .ok leaf pa) (hr : leaf.repl = false) (hv : leaf.ver = false)
include hx hr hv
theorem serveLane_store (hk : s.kind = .store) : serveLane P s d l = (some (doneLane l 0), noticeAll (portStore P pa (storedBytes l) d) (sigOf l.addr)) := by
  simp only [serveLane, hk, remoteWrites, if_true, collapseFor_plain hx hr, hx, hv, Bool.and_false, Bool.false_eq_true, if_false]
  rfl
/-- The request of a lane of a remote atomic (R248). -/
def laneAtom (s : Served) (l : RemoteLane) (op : AtomOp) (ty : Ty) (pa : Nat) : AgReq :=
  { kind := .atomic op ty, pa, va := l.addr, job := s.job, x := l.data, xn := l.data2, source := .remote s.id l.lane, park := none }
theorem serveLane_atom {op : AtomOp} {ty : Ty} (hk : remoteAtom s.kind = some (op, ty)) : serveLane P s d l = (none, sendAtomic P fabricSender d (laneAtom s l op ty pa)) := by
  cases h : s.kind with
  | load => rw [h] at hk; cases hk
  | store => rw [h] at hk; cases hk
  | atomRet o t =>
    rw [h] at hk
    simp only [serveLane, h, remoteWrites, if_true, collapseFor_plain hx hr, hx, hv, Bool.and_false, Bool.false_eq_true, if_false, hk]
    rfl
  | atomNoRet o t =>
    rw [h] at hk
    simp only [serveLane, h, remoteWrites, if_true, collapseFor_plain hx hr, hx, hv, Bool.and_false, Bool.false_eq_true, if_false, hk]
    rfl
end
end

/-! What a write through the port leaves (R217, R218, R220). -/

/-- The parts of a device by which it answers: groups, what it has sent, what it serves, and its peers. -/
def Device.links (d : Device) : Tbl Group × List (Route × Posted) × List Served × Tbl Peer := (d.groups, d.fabricOut, d.served, d.peers)
theorem served_of_links {d e : Device} (h : d.links = e.links) : d.served = e.served := congrArg (·.2.2.1) h
theorem links_of_unwritten {d e : Device} (h : d.unwritten = e.unwritten) : d.links = e.links := by
  have h := congrArg Device.links h
  exact h
theorem links_noticeAll (d : Device) (s : Signature) : (noticeAll d s).links = d.links := links_of_unwritten (unwritten_noticeAll d s)
theorem links_storeAt (P : Platform) (src : Nat) (tagged : Bool) (d : Device) (a : Nat) (bs : List Byte) : (storeAt P src tagged d a bs).1.links = d.links := by
  simp only [storeAt]
  exact (links_of_unwritten (unwritten_writePhys P src _ _ a bs)).trans (ite_leaves Device.links rfl rfl)
theorem links_performAtomic (P : Platform) (d : Device) (clock : DieClock) (tagged : Bool) (r : AgReq) : (performAtomic P d clock tagged r).1.links = d.links := by
  simp only [performAtomic]
  split
  · rfl
  · split
    · exact (links_of_unwritten (unwritten_writeLineAt P _ _ _ _)).trans (ite_leaves Device.links rfl rfl)
    · rfl
section
variable {d : Device} {a : Nat} {write : Device → Device}
theorem links_portWrite (h : ∀ e, (write e).links = e.links) : (portWrite d a write).links = d.links := h (tagClock (d.mergeClock (homeDie a) d.port) d.port a)
/-- What a write does to memory it does through the port. -/
theorem portWrite_mem {bs : List Byte} (h : (write (tagClock (d.mergeClock (homeDie a) d.port) d.port a)).mem = ((tagClock (d.mergeClock (homeDie a) d.port) d.port a).writeBytes a bs).mem) : (portWrite d a write).mem = (d.writeBytes a bs).mem :=
  Eq.trans h (writeBytes_mem_congr bs (tagClock (d.mergeClock (homeDie a) d.port) d.port a) d a rfl)
end
theorem noticeAll_mem (d : Device) (s : Signature) : (noticeAll d s).mem = d.mem := by simp only [noticeAll]
theorem noticeAll_clusters (d : Device) (s : Signature) : (noticeAll d s).clusters = d.clusters := by simp only [noticeAll]
/-- A lane of a remote store changes its bytes, and nothing by which the device answers. -/
theorem serveLane_stores {P : Platform} {s : Served} {d : Device} {l : RemoteLane} {leaf : Leaf} {pa : Nat} (hk : s.kind = .store) (hx : engineXlat d s.job .store 0 l.addr = .ok leaf pa) (hr : leaf.repl = false) (hv : leaf.ver = false) :
    ∃ e, serveLane P s d l = (some (doneLane l 0), e) ∧ e.mem = (d.writeBytes pa (storedBytes l)).mem ∧ e.links = d.links :=
  ⟨_, serveLane_store hx hr hv hk, (noticeAll_mem _ _).trans (portWrite_mem (storeAt_leaves P _ false _ pa _).1), (links_noticeAll _ _).trans (links_portWrite fun e => links_storeAt P _ false e pa _)⟩

/-! Loads of a peer. -/

/-- The physical address of a lane of a remote load. -/
def loadAt (d : Device) (job : Nat) (l : RemoteLane) : Nat := match engineXlat d job .load 0 l.addr with | .ok _ pa => pa | _ => 0
/-- A lane of a remote load has a translation and no poison. -/
def laneReadable (d : Device) (job : Nat) (l : RemoteLane) : Prop := (∃ leaf, engineXlat d job .load 0 l.addr = .ok leaf (loadAt d job l)) ∧ d.anyPoison (loadAt d job l) l.bytes = false
/-- The answer to a lane of a remote load. -/
def loadAnswer (d : Device) (job : Nat) (l : RemoteLane) : LaneAnswer := doneLane l (d.readNat (loadAt d job l) l.bytes)
/-- The clock of the port after lanes of a remote load (R217, R218). -/
def loadClock (d : Device) (job : Nat) (ls : List RemoteLane) (port : DieClock) : DieClock := ls.foldl (fun c l => clockMax c (d.valueClock (loadAt d job l))) port
section
variable {P : Platform} {s : Served} {d : Device} {n : Nat} {S : List Served} (hk : s.kind = .load) (fresh : ∀ y ∈ S, y.id ≠ s.id)
include hk fresh
theorem serveNext_load {l : RemoteLane} (hl : laneReadable d s.job l) {x : Served} (hx : x.id = s.id) (port : DieClock) :
    serveNext P s (d.atPort n (S ++ [x]) port) l = d.atPort n (S ++ [{ x with answers := x.answers ++ [loadAnswer d s.job l] }]) (clockMax port (d.valueClock (loadAt d s.job l))) := by
  obtain ⟨⟨leaf, walked⟩, clean⟩ := hl
  have lane := serveLane_load (P := P) (d := d.atPort n (S ++ [x]) port) hk ((engineXlat_atPort d n (S ++ [x]) port s.job .load 0 l.addr).trans walked) ((anyPoison_atPort d n (S ++ [x]) port _ _).trans clean)
  rw [readNat_atPort, valueClock_atPort] at lane
  exact serveNext_done (e := d.atPort n (S ++ [x]) (clockMax port (d.valueClock (loadAt d s.job l)))) rfl hx fresh lane
theorem serveNext_loads {ls : List RemoteLane} (hl : ∀ l ∈ ls, laneReadable d s.job l) {x : Served} (hx : x.id = s.id) (port : DieClock) :
    ls.foldl (serveNext P s) (d.atPort n (S ++ [x]) port) = d.atPort n (S ++ [{ x with answers := x.answers ++ ls.map (loadAnswer d s.job) }]) (loadClock d s.job ls port) := by
  induction ls generalizing x port with
  | nil => simp [loadClock]
  | cons l ls ih =>
    rw [List.foldl_cons, serveNext_load hk fresh (hl l List.mem_cons_self) hx, ih (fun m hm => hl m (List.mem_cons_of_mem _ hm)) (by exact hx)]
    simp [loadClock]
end

section
variable {P : Platform} {d : Device} {peer seq job : Nat} {kind : RemoteKind} {lanes : List RemoteLane}
variable (idle : nextServed P [] d.served = none) (first : ∀ x ∈ d.served, x.peer ≠ peer ∧ x.id ≠ d.nextId)
include idle first
section
variable (hp : peer ≠ P.own) (hv : P.valid peer = true) (hup : (d.peer peer).state = .up)
include hp hv hup
/-- A load of a peer is answered with the bytes at its addresses. -/
theorem addServed_loads (hj : (d.job job).isSome = true) (hl : ∀ l ∈ lanes, laneReadable d job l) :
    addServed P d peer seq job .load lanes = { d with nextId := d.nextId + 1, port := loadClock d job lanes d.port, fabricOut := d.fabricOut ++ [(P.route peer 2, .answer peer seq (lanes.map (loadAnswer d job)))] } := by
  have fresh : ∀ y ∈ d.served, y.id ≠ d.nextId := fun y hy => (first y hy).2
  have begun : beginServed P (joined d peer seq job .load lanes) (newServed d peer seq job .load lanes) =
      d.atPort (d.nextId + 1) (d.served ++ [{ newServed d peer seq job .load lanes with begun := true, answers := lanes.map (loadAnswer d job) }]) (loadClock d job lanes d.port) := by
    rw [beginServed_lanes hj, modServed_last rfl rfl fresh]
    exact serveNext_loads (s := newServed d peer seq job .load lanes) (x := { newServed d peer seq job .load lanes with begun := true }) rfl fresh hl rfl d.port
  exact addServed_answers idle first begun rfl rfl rfl rfl rfl rfl hp hv hup
/-- A request for a job that is not admitted fails whole. -/
theorem addServed_refused (hj : d.job job = none) :
    addServed P d peer seq job kind lanes = { d with nextId := d.nextId + 1, fabricOut := d.fabricOut ++ [(P.route peer 2, .answer peer seq (lanes.map fun l => failLane l 3))] } := by
  have begun : beginServed P (joined d peer seq job kind lanes) (newServed d peer seq job kind lanes) =
      { d with nextId := d.nextId + 1, served := d.served ++ [{ newServed d peer seq job kind lanes with begun := true, answers := lanes.map fun l => failLane l 3 }] } :=
    (if_pos (by show (d.job job).isNone = true; rw [hj]; rfl)).trans (modServed_last rfl rfl (fun y hy => (first y hy).2) _)
  exact addServed_answers idle first begun rfl rfl rfl rfl rfl rfl hp hv hup
/-- A store of a peer writes its bytes and is answered. -/
theorem addServed_stores {l : RemoteLane} {leaf : Leaf} {pa : Nat} (hj : (d.job job).isSome = true) (hx : engineXlat d job .store 0 l.addr = .ok leaf pa) (hr : leaf.repl = false) (hv' : leaf.ver = false) :
    ∃ e, addServed P d peer seq job .store [l] = e ∧ e.mem = (d.writeBytes pa (storedBytes l)).mem ∧ e.groups = d.groups ∧ e.fabricOut = d.fabricOut ++ [(P.route peer 2, .answer peer seq [doneLane l 0])] := by
  have fresh : ∀ y ∈ d.served, y.id ≠ d.nextId := fun y hy => (first y hy).2
  let new := newServed d peer seq job .store [l]
  let at_ := d.atPort (d.nextId + 1) (d.served ++ [{ new with begun := true }]) d.port
  obtain ⟨e, lane, mem, links⟩ := serveLane_stores (P := P) (s := new) (d := at_) rfl ((engineXlat_atPort _ _ _ _ _ _ _ _).trans hx) hr hv'
  obtain ⟨groups, out, served, peers⟩ : _ ∧ _ ∧ _ ∧ _ := by simpa only [Device.links, Prod.mk.injEq] using links
  have begun : beginServed P (joined d peer seq job .store [l]) new = { e with served := d.served ++ [{ new with begun := true, answers := [doneLane l 0] }] } := by
    rw [beginServed_lanes hj, modServed_last rfl rfl fresh]
    exact serveNext_done (x := { new with begun := true }) served rfl fresh lane
  refine ⟨_, addServed_answers idle first begun rfl rfl rfl rfl rfl rfl hp hv ?_, ?_, groups, ?_⟩
  · exact (congrArg (fun ps => (Tbl.getD ps peer Peer.reset).state) peers).trans hup
  · exact mem.trans (writeBytes_mem_congr _ _ _ _ rfl)
  · exact congrArg (· ++ [(P.route peer 2, Posted.answer peer seq [doneLane l 0])]) out
end
/-- An atomic of a peer goes to the service group of its word's home. -/
theorem addServed_atom {l : RemoteLane} {leaf : Leaf} {pa : Nat} {op : AtomOp} {ty : Ty} (hj : (d.job job).isSome = true) (hx : engineXlat d job .store 0 l.addr = .ok leaf pa) (hr : leaf.repl = false) (hv : leaf.ver = false)
    (hk : remoteAtom kind = some (op, ty)) :
    addServed P d peer seq job kind [l] = sendAtomic P fabricSender { joined d peer seq job kind [l] with served := d.served ++ [{ newServed d peer seq job kind [l] with begun := true, left := 1 }] } (laneAtom (newServed d peer seq job kind [l]) l op ty pa) := by
  have fresh : ∀ y ∈ d.served, y.id ≠ d.nextId := fun y hy => (first y hy).2
  let new := newServed d peer seq job kind [l]
  let at_ := d.atPort (d.nextId + 1) (d.served ++ [{ new with begun := true }]) d.port
  have lane := serveLane_atom (P := P) (s := new) (d := at_) ((engineXlat_atPort _ _ _ _ _ _ _ _).trans hx) hr hv hk
  have begun : beginServed P (joined d peer seq job kind [l]) new = { sendAtomic P fabricSender at_ (laneAtom new l op ty pa) with served := d.served ++ [{ new with begun := true, left := 1 }] } := by
    rw [beginServed_lanes hj, modServed_last rfl rfl fresh]
    exact serveNext_queued (x := { new with begun := true }) rfl rfl fresh lane
  exact addServed_stays idle first begun rfl rfl Nat.one_ne_zero
end

/-! A request that a peer sends (R278, R395, R396). -/

/-- A UALink request of a peer that is an SX-4 is a memory request only where its address says so (R396). -/
theorem ualink_memory {P : Platform} {peer : Nat} {u : UaRequest} (may : u.addr.getLsbD 55 = false ∨ P.foreign peer = true) : (u.addr.getLsbD 55 && !P.foreign peer) = false := by
  rcases may with h | h
  · rw [h, Bool.false_and]
  · rw [h, Bool.not_true, Bool.and_false]
section
variable {P : Platform} {d : Device} {m : RemoteReq} (hp : m.peer ≠ P.own)
include hp
theorem remoteArrives_direct (h1 : P.mode m.peer ≠ 1) (hu : m.ualink = none) : remoteArrives m P d = addServed P d m.peer m.seq m.job m.kind m.lanes := by
  simp only [remoteArrives, if_neg hp, if_neg h1, hu, Option.isSome_none, Bool.false_eq_true, if_false]
variable (h1 : P.mode m.peer = 1) {u : UaRequest} (hu : m.ualink = some u) (may : u.addr.getLsbD 55 = false ∨ P.foreign m.peer = true)
include h1 hu may
theorem remoteArrives_ualink {job : Nat} {kind : RemoteKind} {ls : List RemoteLane} (ha : uaAccess u = some (job, kind, ls)) (hj : (d.job job).isSome = true) : remoteArrives m P d = addServed P d m.peer m.seq job kind ls := by
  simp only [remoteArrives, if_neg hp, h1, if_true, hu, ualinkArrives, ualink_memory may, Bool.false_eq_true, if_false, ha, hj]
/-- A UALink request that is not accepted is answered with the error completion. -/
theorem remoteArrives_error (ha : uaAccess u = none) (hv : P.valid m.peer = true) (hup : (d.peer m.peer).state = .up) : remoteArrives m P d = d.emit P (.answer m.peer m.seq [{ lane := 0, ok := false, cause := 3, value := 0 }]) := by
  simp only [remoteArrives, if_neg hp, h1, if_true, hu, ualinkArrives, ualink_memory may, Bool.false_eq_true, if_false, ha, hv, hup, beq_self_eq_true, Bool.and_self]
end

/-! A remote atomic at its home (R248, R251). -/

/-- A lane of a remote atomic is answered with the value its word had. -/
theorem portAtomic_performs {P : Platform} {d : Device} {id lane v : Nat} {r : AgReq} (hc : d.anyPoison r.pa r.kind.size = false) (hv : agNew r (d.readNat r.pa r.kind.size) = some v) :
    ∃ e, portAtomic P d id lane r = e ∧ e.mem = (d.writeBytes r.pa (bytesOf r.kind.size v)).mem ∧ (∀ cl, (e.cluster cl).queue = (d.cluster cl).queue) ∧
      e.served = d.served.map fun x => if x.id == id then { x with left := x.left - 1, answers := x.answers ++ [{ lane, ok := true, cause := 0, value := BitVec.ofNat 128 (d.readNat r.pa r.kind.size) }] } else x := by
  let tagged := tagClock (d.mergeClock (homeDie r.pa) d.port) d.port r.pa
  have word : tagged.readNat r.pa r.kind.size = d.readNat r.pa r.kind.size := congrArg natOf (readBytes_mem_congr (d := tagged) (e := d) rfl _ _)
  obtain ⟨e, he, mem, -, queue⟩ := performAtomic_leaves (P := P) (d := tagged) (clock := (tagged.die (homeDie r.pa)).causal) (tagged := false) hc (by rw [word]; exact hv)
  let write (d : Device) : Device := (performAtomic P d (d.die (homeDie r.pa)).causal false r).1
  have written : (write tagged) = e := congrArg Prod.fst he
  have links := links_portWrite (d := d) (a := r.pa) (write := write) fun e => links_performAtomic P e _ false r
  refine ⟨_, rfl, ?_, fun cl => ?_, ?_⟩
  · simp only [portAtomic, hc, Bool.false_eq_true, if_false]
    exact (noticeAll_mem _ _).trans (portWrite_mem (write := write) ((congrArg Device.mem written).trans mem))
  · simp only [portAtomic, hc, Bool.false_eq_true, if_false]
    have kept := congrArg (fun t => (Tbl.getD t cl Cluster.reset).queue) (noticeAll_clusters (portWrite d r.pa write) (sigOf r.va))
    exact kept.trans ((congrArg (fun e : Device => (e.cluster cl).queue) written).trans (queue cl))
  · simp only [portAtomic, hc, Bool.false_eq_true, if_false]
    exact congrArg (List.map _) (served_of_links ((links_noticeAll (portWrite d r.pa write) (sigOf r.va)).trans links))
/-- A service group performs the remote atomic at the head of its queue. -/
theorem atomicServes_remote {P : Platform} {cl : Nat} {d : Device} {r : AgReq} {rest : List AgReq} {id lane v : Nat} (hq : ((admitRequests cl d).cluster cl).queue = r :: rest) (hs : r.source = .remote id lane)
    (hc : d.anyPoison r.pa r.kind.size = false) (hv : agNew r (d.readNat r.pa r.kind.size) = some v) :
    ∃ e, atomicServes cl P d = e ∧ e.readBytes r.pa r.kind.size = bytesOf r.kind.size v ∧ (∀ a, Apart a 1 r.pa r.kind.size → e.readByte a = d.readByte a) ∧ (e.cluster cl).queue = rest ∧
      e.served = d.served.map fun x => if x.id == id then { x with left := x.left - 1, answers := x.answers ++ [{ lane, ok := true, cause := 0, value := BitVec.ofNat 128 (d.readNat r.pa r.kind.size) }] } else x := by
  have word : (headServed cl rest d).readNat r.pa r.kind.size = d.readNat r.pa r.kind.size := headServed_eq rest (·.readNat r.pa r.kind.size) fun e => congrArg natOf (readBytes_mem_congr (d := e.unqueued) (e := e) rfl _ _)
  have clean : (headServed cl rest d).anyPoison r.pa r.kind.size = false := (headServed_eq rest (·.anyPoison r.pa r.kind.size) fun _ => rfl).trans hc
  have waiting : (headServed cl rest d).served = d.served := headServed_eq rest Device.served fun _ => rfl
  obtain ⟨e, he, mem, queue, served⟩ := portAtomic_performs (P := P) (id := id) (lane := lane) clean (by rw [word]; exact hv)
  obtain ⟨bytes, others⟩ := performed_bytes mem
  rw [word, waiting] at served
  refine ⟨e, ?_, bytes, fun a ha => (others a ha).trans (headServed_eq rest (·.readByte a) fun _ => rfl), (queue cl).trans (headServed_queue rest), served⟩
  rw [atomicServes_request hq (by simp [hs]), serveRequest, hs]
  exact he

/-! `rst` stores at their target (R284, R286). -/

/-- The lanes that an `rst` store writes. -/
def rstWrites (m : RstMsg) : RegWrites := { RegWrites.none with vs := (lanesOf m.mask).map fun l => (32 * m.reg + l, m.values.getD l 0) }
/-- A group after an `rst` store. -/
def rstHeld (m : RstMsg) (g : Group) : Group :=
  { applyWrites g (rstWrites m) with holds := setHold g.holds m.reg (((holdOf g.holds m.reg).map (·.count)).getD 0 - 1), transients := Tbl.erase g.transients m.reg }
/-- What an `rst` store shows of a group. -/
def Group.rstView (g : Group) : List Hold × List DWord × List Mask × Cells Word := (g.holds, g.s, g.p, g.v)
theorem unwritten_imagePut (P : Platform) (t : Team) (kind gid off : Nat) (bs : List Byte) (d : Device) : (imagePut P t kind gid off bs d).unwritten = d.unwritten := by
  simp only [imagePut, engineRun, unwritten_noticeAll, unwritten_writeRun]
/-- What an `rst` store shows of a group of a device, the peers, and what has been sent. -/
def Device.rstSeen (gid : Nat) (d : Device) : Option (List Hold × List DWord × List Mask × Cells Word) × Tbl Peer × List (Route × Posted) := ((Tbl.find d.groups gid).map Group.rstView, d.peers, d.fabricOut)
theorem rstSeen_of_unwritten {d e : Device} (gid : Nat) (h : e.unwritten = d.unwritten) : e.rstSeen gid = d.rstSeen gid := by
  have h := congrArg (Device.rstSeen gid) h
  exact h
theorem rstSeen_modGroup {d : Device} {gid : Nat} {f : Group → Group} (h : ∀ g, (f g).rstView = g.rstView) : (d.modGroup gid f).rstSeen gid = d.rstSeen gid := congrArg (·, d.peers, d.fabricOut) (view_modGroup Group.rstView d gid gid f h)
/-- The saved context follows a store beside what is seen of it. -/
theorem rstSeen_rstIntoImage (P : Platform) (d : Device) (gid : Nat) (m : RstMsg) : (rstIntoImage P d gid m).rstSeen gid = d.rstSeen gid := by
  have holdsPut (t : Team) (bs drawer : List Byte) (at_ : Nat) : (imagePut P t 7 0 at_ drawer (imagePut P t 1 gid 0x150 bs d)).unwritten = d.unwritten := (unwritten_imagePut P t 7 0 at_ drawer _).trans (unwritten_imagePut P t 1 gid 0x150 bs d)
  simp only [rstIntoImage]
  split
  · rfl
  · split
    · rfl
    · split
      · rfl
      · split
        · exact (rstSeen_modGroup (f := fun x => { x with late := x.late ++ (lanesOf m.mask).map fun l => (32 * m.reg + l, m.values.getD l 0) }) fun _ => rfl).trans (rstSeen_of_unwritten gid (holdsPut _ _ _ _))
        · exact rstSeen_of_unwritten gid ((foldl_leaves Device.unwritten (fun d l => unwritten_imagePut P _ 2 gid _ _ d) _ _).trans (holdsPut _ _ _ _))
theorem rstIntoImage_resident {P : Platform} {d : Device} {gid : Nat} {m : RstMsg} {g : Group} (hg : Tbl.find d.groups gid = some g) (hs : g.state ≠ .swapped) : rstIntoImage P d gid m = d := by
  have resident : (g.state != .swapped) = true := by simpa using hs
  simp only [rstIntoImage, hg]
  split
  · rfl
  · rw [resident, Bool.true_or, if_pos rfl]
section
variable {P : Platform} {d : Device} {m : RstMsg} {e : NameEntry} {gid : Nat} {g : Group} (hn : Tbl.find d.names (m.name.toNat / 256 % 2 ^ 15) = some e) (hh : e.holder = some gid) (hg : Tbl.find d.groups gid = some g) (hid : g.id = gid)
  (hgen : e.gen.toNat = m.name.toNat % 256) (hu : unheldReg g m.reg = false) (room : holdOf g.holds m.reg ≠ none ∨ g.holds.length < 4)
include hn hh hg hid hgen hu room
/-- A store that names a register of a group is applied to the group, and then to its saved context; a wait on the register's hold may be woken between. -/
theorem applyRst_held : ∃ x : Device, applyRst P d m = (0, rstIntoImage P x gid m) ∧ x.unwritten = (d.modGroup gid (rstHeld m)).unwritten ∧ x.mem = d.mem := by
  have current : (e.gen.toNat != m.name.toNat % 256) = false := by simpa using hgen
  have free : ((holdOf g.holds m.reg).isNone && decide (4 ≤ g.holds.length)) = false := by
    rw [Bool.and_eq_false_iff, decide_eq_false_iff_not, not_le]
    exact room.imp_left fun h => Option.isNone_eq_false_iff.2 (Option.isSome_iff_ne_none.2 h)
  have same : d.modGroup gid (fun x => { applyWrites x (rstWrites m) with holds := setHold x.holds m.reg (((holdOf g.holds m.reg).map (·.count)).getD 0 - 1), transients := Tbl.erase x.transients m.reg }) = d.modGroup gid (rstHeld m) :=
    congrArg (fun t => ({ d with groups := t } : Device)) (modify_congr (f' := rstHeld m) hg rfl)
  simp only [applyRst, hn, hh, Option.bind_some, hg, current, hu, free, Bool.false_eq_true, if_false, hid]
  refine ⟨_, rfl, ?_, ?_⟩
  · rw [← same]
    exact ite_leaves Device.unwritten (unwritten_wakeWith _ gid 1 0 clockZero) rfl
  · exact ite_leaves Device.mem (wakeWith_mem _ gid 1 0 clockZero) rfl
variable (hp : m.peer ≠ P.own) (hv : P.valid m.peer = true) (hup : (d.peer m.peer).state = .up)
include hp hv hup
/-- It is answered, and the group shows it. -/
theorem rstArrives_held : ∃ x, rstArrives (some m) P d = x ∧ (g.state ≠ .swapped → x.mem = d.mem) ∧ x.fabricOut = d.fabricOut ++ [(P.route m.peer 0, .rstAnswer m.peer m.seq 0)] ∧
    (Tbl.find x.groups gid).map Group.rstView = some (rstHeld m g).rstView := by
  obtain ⟨x, applied, unwritten, mem⟩ := applyRst_held (P := P) hn hh hg hid hgen hu room
  have found : Tbl.find x.groups gid = some (rstHeld m g) := by rw [groups_of_unwritten unwritten, find_modGroup_same, hg]; rfl
  obtain ⟨view, peers, out⟩ : _ ∧ _ ∧ _ := by simpa only [Device.rstSeen, Prod.mk.injEq] using (rstSeen_rstIntoImage P x gid m).trans (rstSeen_of_unwritten gid unwritten)
  have up : (P.valid m.peer && ((rstIntoImage P x gid m).peer m.peer).state == .up) = true := by
    have state : ((rstIntoImage P x gid m).peer m.peer).state = .up := (congrArg (fun ps => (Tbl.getD ps m.peer Peer.reset).state) peers).trans hup
    rw [hv, state]
    rfl
  refine ⟨(rstIntoImage P x gid m).emit P (.rstAnswer m.peer m.seq 0), ?_, fun hs => ?_, ?_, ?_⟩
  · simp only [rstArrives, if_neg hp, applied, up, if_true]
  · exact (congrArg Device.mem (rstIntoImage_resident (P := P) (m := m) found hs)).trans mem
  · exact congrArg (· ++ [(P.route m.peer 0, Posted.rstAnswer m.peer m.seq 0)]) out
  · rw [find_modGroup_same, hg] at view
    exact view
end
/-- A store whose name no entry has is answered with cause 4. -/
theorem rstArrives_nameless {P : Platform} {d : Device} {m : RstMsg} (hp : m.peer ≠ P.own) (hv : P.valid m.peer = true) (hup : (d.peer m.peer).state = .up) (hn : Tbl.find d.names (m.name.toNat / 256 % 2 ^ 15) = none) :
    rstArrives (some m) P d = d.emit P (.rstAnswer m.peer m.seq 4) := by
  simp only [rstArrives, if_neg hp, applyRst, hn, hv, hup, beq_self_eq_true, Bool.and_self, if_true]
/-- Cells after writes of lanes of a register. -/
theorem get_putLanes (reg : Nat) (value : Nat → Word) (ls : List Nat) (h : ∀ l ∈ ls, l < 32) (v : Cells Word) (k : Nat) :
    Cells.get 0 ((ls.map fun l => (32 * reg + l, value l)).foldl (fun c x => Cells.put 0 c x.1 x.2) v) k = if k / 32 = reg ∧ k % 32 ∈ ls then value (k % 32) else Cells.get 0 v k := by
  induction ls generalizing v with
  | nil => simp
  | cons l ls ih =>
    have hl := h l List.mem_cons_self
    rw [List.map_cons, List.foldl_cons, ih fun x hx => h x (List.mem_cons_of_mem _ hx)]
    by_cases hk : k = 32 * reg + l
    · have quot : k / 32 = reg := by omega
      have rem : k % 32 = l := by omega
      subst hk
      simp [quot, rem, get_put_same]
    · rw [get_put_other _ _ _ _ _ hk]
      have miss : k / 32 = reg → k % 32 ≠ l := fun hq hr => hk (by omega)
      refine if_congr ?_ rfl rfl
      rw [List.mem_cons]
      exact ⟨fun ⟨hq, hm⟩ => ⟨hq, .inr hm⟩, fun ⟨hq, hm⟩ => ⟨hq, hm.resolve_left (miss hq)⟩⟩
/-- The register of an `rst` store holds the carried lanes, and every other cell what it held. -/
theorem get_rstHeld (m : RstMsg) (g : Group) (k : Nat) : Cells.get 0 (rstHeld m g).v k = if k / 32 = m.reg ∧ m.mask.getLsbD (k % 32) = true then m.values.getD (k % 32) 0 else Cells.get 0 g.v k := by
  refine (get_putLanes m.reg (fun l => m.values.getD l 0) (lanesOf m.mask) (fun l hl => (mem_lanesOf.1 hl).1) g.v k).trans (if_congr ?_ rfl rfl)
  rw [mem_lanesOf, and_iff_right (Nat.mod_lt k (by decide : 0 < 32))]

/-! Answers to requests of the device (R239, R280, R394). -/

theorem noteLanes_ok {peer : Nat} {lanes : List RemoteLane} {as : List LaneAnswer} (h : ∀ a ∈ as, a.ok = true) (g : Group) : noteLanes peer lanes as g = g := by
  induction as generalizing g with
  | nil => rfl
  | cons a as ih =>
    have step : noteLanes peer lanes (a :: as) g = noteLanes peer lanes as g := by simp only [noteLanes, List.foldl_cons, h a List.mem_cons_self, if_true]
    exact step.trans (ih (fun b hb => h b (List.mem_cons_of_mem _ hb)) g)
/-- The answers to the lanes of a request, as they are counted (R280, R393). -/
def laneAnswers (lanes : List RemoteLane) (as : List LaneAnswer) : List LaneAnswer := lanes.map fun l => (as.find? fun a => a.lane == l.lane).getD { lane := l.lane, ok := false, cause := 3, value := 0 }
theorem laneAnswers_ok {lanes : List RemoteLane} {as : List LaneAnswer} (all : ∀ l ∈ lanes, ∃ a ∈ as, a.lane = l.lane) (ok : ∀ a ∈ as, a.ok = true) : ∀ a ∈ laneAnswers lanes as, a.ok = true := by
  intro a ha
  obtain ⟨l, hl, rfl⟩ := List.mem_map.1 ha
  obtain ⟨b, hb, lane⟩ := all l hl
  obtain ⟨x, hx⟩ := Option.isSome_iff_exists.1 ((List.find?_isSome (p := fun a => a.lane == l.lane)).2 ⟨b, hb, beq_iff_eq.2 lane⟩)
  rw [hx]
  exact ok x (List.mem_of_find?_eq_some hx)
theorem regs_noteFailure (g : Group) (high : Word) (peer cause : Nat) : (noteFailure g high peer cause).regs = { g.regs with raFcnt := g.raFcnt + 1, raFlast := BitVec.ofNat 64 (high.toNat * 2 ^ 32 + peer % 512 * 2 ^ 23 + cause) } := by
  rw [noteFailure, noteImage_eq]
  rfl
/-- One lane that failed is kept in `ra.fcnt`. -/
theorem noteLanes_failed {peer : Nat} {l : RemoteLane} {a : LaneAnswer} (lane : a.lane = l.lane) (h : a.ok = false) (g : Group) : noteLanes peer [l] (laneAnswers [l] [a]) g = noteFailure g (l.addr.setWidth 32) peer a.cause := by
  simp [noteLanes, laneAnswers, lane, h]
@[simp] theorem peer_modPeer_same (d : Device) (p : Nat) (f : Peer → Peer) : (d.modPeer p f).peer p = f (d.peer p) := by
  simp [Device.peer, Device.modPeer, Tbl.getD]
/-- The requests to a peer without one. -/
def dropRequest (d : Device) (peer seq : Nat) : Device := d.modPeer peer fun p => { p with outstanding := p.outstanding.filter fun x => x.seq != seq }
theorem takeRequest_some {d : Device} {peer seq : Nat} {r : OutReq} (h : ((d.peer peer).outstanding.find? fun r => r.seq == seq) = some r) : takeRequest d peer seq = some (r, dropRequest d peer seq) := by
  rw [takeRequest, h]
  rfl
/-- A sample of a monitor is in the monitors alone. -/
theorem monNote_eq (P : Platform) (source v : Nat) (d : Device) : ∃ ms, d.monNote P source v = { d with monitors := ms } := by
  simp only [Device.monNote]
  split
  · exact ⟨_, rfl⟩
  · exact ⟨d.monitors, rfl⟩
/-- An answer to a held access of the device is counted off in its group. -/
theorem responseArrives_held {P : Platform} {d : Device} {m : RemoteResp} {r : OutReq} {gid : Nat} (hp : m.peer ≠ P.own) (hr : ((d.peer m.peer).outstanding.find? fun r => r.seq == m.seq) = some r) (hrst : r.rst = none) (ho : r.origin = .held gid) :
    ∃ ms, responseArrives m P d = { dropRequest d m.peer m.seq with monitors := ms }.modGroup gid fun g => noteLanes m.peer r.lanes (laneAnswers r.lanes m.answers) { g with outRemote := g.outRemote - 1 } := by
  obtain ⟨ms, noted⟩ := monNote_eq P (2 + r.cls) (fabricClocks (dropRequest d m.peer m.seq) r.issued) (dropRequest d m.peer m.seq)
  refine ⟨ms, ?_⟩
  simp only [responseArrives, if_neg hp, takeRequest_some hr, noted, hrst, completeRequest, ho]
  rfl
theorem finishOp_peers (d : Device) (gid id : Nat) : (finishOp d gid id).peers = d.peers := by
  have beside := congrArg Device.peers (finishOp_leaves d gid id 0).2
  exact beside
/-- A request that completes leaves the peers. -/
theorem completeRequest_peers (d : Device) (peer : Nat) (r : OutReq) (as : List LaneAnswer) : (completeRequest d peer r as).peers = d.peers := by
  simp only [completeRequest]
  split
  · rfl
  · rfl
  · split
    · rfl
    · split
      · exact finishOp_peers _ _ _
      · rfl
theorem failRequest_peers (d : Device) (peer cause : Nat) (r : OutReq) : (failRequest d peer cause r).peers = d.peers := by
  simp only [failRequest]
  split
  · simp only [completeRst]
    split <;> rfl
  · exact completeRequest_peers _ _ _ _
/-- A peer that is isolated has nothing outstanding and nothing waiting. -/
theorem isolatePeer_peer (d : Device) (p : Nat) : ((isolatePeer d p).peer p).state = .isolated ∧ ((isolatePeer d p).peer p).outstanding = [] ∧ ((isolatePeer d p).peer p).waiting = [] := by
  let cut (x : Peer) : Peer := { x with state := .isolated, since := d.time, outstanding := [], waiting := [], kept := [], answered := 0, probeOut := none }
  have peers : (isolatePeer d p).peers = (d.modPeer p cut).peers := foldl_leaves (f := fun d r => failRequest d p 2 r) Device.peers (fun d r => failRequest_peers d p 2 r) _ _
  have same : (isolatePeer d p).peer p = cut (d.peer p) := (congrArg (Tbl.getD · p Peer.reset) peers).trans (peer_modPeer_same d p cut)
  rw [same]
  exact ⟨rfl, rfl, rfl⟩
/-- A request that is too long without an answer isolates its peer (R394). -/
theorem requestTimesOut_isolates {P : Platform} {d : Device} {p : Nat} {r : OutReq} (hp : p ≠ P.own) (hup : (d.peer p).state = .up) (hr : ((d.peer p).outstanding.find? fun r => decide (r.issued + micros 20 < d.time)) = some r) :
    ∃ e, requestTimesOut p P d = isolatePeer e p := by
  obtain ⟨x, hx⟩ := Option.isSome_iff_exists.1 ((List.find?_isSome (p := fun x => x.seq == r.seq)).2 ⟨r, List.mem_of_find?_eq_some hr, beq_self_eq_true r.seq⟩)
  refine ⟨failRequest (dropRequest d p r.seq) p 1 x, ?_⟩
  have on : (decide (p = P.own) || (d.peer p).state != .up) = false := by simp [hp, hup]
  simp only [requestTimesOut, on, Bool.false_eq_true, if_false, hr, takeRequest_some hx]

end Sys2Proof.Machine

namespace Sys2Proof
open Machine

/-- Settles O36, through what each event makes of the device: `rstArrives_held`, `addServed_loads` and its companions, `atomicServes_remote`, `responseArrives_held` and `requestTimesOut_isolates`. -/
theorem remoteAndRstServed : Obligations.remote_and_rst_served := by
  unfold Obligations.remote_and_rst_served
  refine ⟨⟨?held, ?nameless⟩, ⟨?loads, ?uaLoads, ?uaError, ?stores, ?atom, ?atHome, ?waits, ?refused, ?answered, ?failed⟩, ?timeout⟩
  case held =>
    intro s m e gid g ⟨hp, hv, hup⟩ hn hh hg hid hgen hu room
    obtain ⟨d, arrives, mem, out, view⟩ := rstArrives_held hn hh hg hid hgen hu room hp hv hup
    obtain ⟨x, found, shown⟩ := Option.map_eq_some_iff.1 view
    obtain ⟨holds, scalars, preds, cells⟩ : _ ∧ _ ∧ _ ∧ _ := by simpa only [Group.rstView, Prod.mk.injEq] using shown
    refine event_of rfl arrives ⟨mem, out, x, found, holds, scalars, preds, fun l hl => ?_, fun k hk => ?_⟩
    · have quot : (32 * m.reg + l) / 32 = m.reg := by omega
      have rem : (32 * m.reg + l) % 32 = l := by omega
      rw [cells, get_rstHeld, quot, rem]
      exact if_congr (and_iff_right rfl) rfl rfl
    · rw [cells, get_rstHeld]
      exact if_neg fun h => hk h.1
  case nameless =>
    intro s m ⟨hp, hv, hup⟩ hn
    exact event_of rfl (rstArrives_nameless hp hv hup hn) rfl
  case loads =>
    intro s m ⟨hp, hv, hup⟩ ⟨idle, first⟩ ⟨hmode, hu⟩ hk hj hl
    exact event_of rfl ((remoteArrives_direct hp hmode hu).trans (hk ▸ addServed_loads idle first hp hv hup hj hl)) rfl
  case uaLoads =>
    intro s m u job ls ⟨hp, hv, hup⟩ ⟨idle, first⟩ hmode hu may ha hj hl
    exact event_of rfl ((remoteArrives_ualink hp hmode hu may ha hj).trans (addServed_loads idle first hp hv hup hj hl)) rfl
  case uaError =>
    intro s m u ⟨hp, hv, hup⟩ hmode hu may ha
    exact event_of rfl (remoteArrives_error hp hmode hu may ha hv hup) ⟨rfl, rfl, rfl⟩
  case stores =>
    intro s m l leaf pa ⟨hp, hv, hup⟩ ⟨idle, first⟩ ⟨hmode, hu⟩ hk hls hj hx hr hver
    obtain ⟨d, served, mem, groups, out⟩ := addServed_stores (seq := m.seq) idle first hp hv hup hj hx hr hver
    obtain ⟨bytes, others⟩ := performed_bytes mem
    rw [← hk, ← hls] at served
    exact event_of rfl ((remoteArrives_direct hp hmode hu).trans served) ⟨out, groups, bytes, others⟩
  case atom =>
    intro s m l leaf pa op ty ⟨hp, hv, hup⟩ ⟨idle, first⟩ ⟨hmode, hu⟩ hk hls hj hx hr hver
    have served := addServed_atom (seq := m.seq) idle first hj hx hr hver hk
    rw [← hls] at served
    refine event_of rfl ((remoteArrives_direct hp hmode hu).trans served) ⟨rfl, rfl, rfl, rfl, _, congrArg Cluster.sending (cluster_modCluster_same _ _ _), rfl, rfl, rfl, rfl, rfl⟩
  case atHome =>
    intro cl s r rest id lane v hq hs hc hv
    obtain ⟨d, served, bytes, others, queue, answers⟩ := atomicServes_remote hq hs hc hv
    exact event_of rfl served ⟨bytes, others, queue, answers⟩
  case waits =>
    intro s m x hp ⟨hmode, hu⟩ idle hx hpeer
    exact event_of rfl ((remoteArrives_direct hp hmode hu).trans (addServed_waits idle hp hx hpeer)) rfl
  case refused =>
    intro s m ⟨hp, hv, hup⟩ ⟨idle, first⟩ ⟨hmode, hu⟩ hj
    exact event_of rfl ((remoteArrives_direct hp hmode hu).trans (addServed_refused idle first hp hv hup hj)) rfl
  case answered =>
    intro s m r gid g hp hr hrst ho hg all ok
    obtain ⟨ms, arrives⟩ := responseArrives_held (P := s.plat) hp hr hrst ho
    have counted : Tbl.find (responseArrives m s.plat s.dev).groups gid = some { g with outRemote := g.outRemote - 1 } := by
      rw [arrives, find_modGroup_same]
      exact (congrArg (Option.map _) hg).trans (congrArg some (noteLanes_ok (laneAnswers_ok all ok) _))
    have left : (responseArrives m s.plat s.dev).peer m.peer = (dropRequest s.dev m.peer m.seq).peer m.peer := by
      rw [arrives]
      rfl
    refine event_of rfl rfl ⟨?_, ?_, ?_, ?_⟩
    · rw [arrives]
      rfl
    · rw [regsOf, counted]
      rfl
    · rw [counted]
      rfl
    · rw [left, dropRequest, peer_modPeer_same]
  case failed =>
    intro s m r gid g l a hp hr hrst ho hg hl ha lane hok
    obtain ⟨ms, arrives⟩ := responseArrives_held (P := s.plat) hp hr hrst ho
    let counted : Group := { g with outRemote := g.outRemote - 1 }
    have noted : Tbl.find (responseArrives m s.plat s.dev).groups gid = some (noteFailure counted (l.addr.setWidth 32) m.peer a.cause) := by
      rw [arrives, find_modGroup_same, hl, ha]
      exact (congrArg (Option.map _) hg).trans (congrArg some (noteLanes_failed lane hok _))
    refine event_of rfl rfl ?_
    rw [regsOf, noted]
    exact congrArg some (regs_noteFailure counted _ _ _)
  case timeout =>
    intro s p r hp hup hr
    obtain ⟨d, isolates⟩ := requestTimesOut_isolates hp hup hr
    exact event_of rfl isolates (isolatePeer_peer d p)

end Sys2Proof

/-! Tiles, shapes and ragged operations (R294, R295, R305 to R315). -/

namespace Sys2Proof.Machine
open Sys2Proof

/-! Tiles reserved and given up (R294, R295). -/

section
variable {c : Ctx}

/-- The tiles that an `mres` names (R294). -/
def namedTiles (m : SL) (c : Ctx) : List Nat := (List.range 16).filter fun t => (slVal c.g c.sp m % 2 ^ 16).testBit t
/-- A tile that no other group has reserved. -/
def tileFree (c : Ctx) (t : Nat) : Prop := (tileOf c.d c.g.core t).owner = none ∨ (tileOf c.d c.g.core t).owner = some c.gid
/-- A tile taken for the group; its elements stay where it last served the group's job (R294). -/
def takeTile (c : Ctx) (d : Device) (t : Nat) : Device := d.modCore c.g.core fun k =>
  let x := tileOf c.d c.g.core t
  { k with tiles := Tbl.set k.tiles t { owner := some c.gid, job := some c.g.job, cells := if x.job = some c.g.job then x.cells else [] } }
/-- A tile of an owner may be taken for a group. -/
def freeFor (gid : Nat) : Option Nat → Bool
  | none => true
  | some o => o == gid
/-- Every tile that an `mres` names is free. -/
def namedFree (m : SL) (c : Ctx) : Bool := (namedTiles m c).all fun t => freeFor c.gid (tileOf c.d c.g.core t).owner
theorem freeFor_iff (t : Nat) : freeFor c.gid (tileOf c.d c.g.core t).owner = true ↔ tileFree c t := by
  rw [tileFree]
  cases (tileOf c.d c.g.core t).owner <;> simp [freeFor]
theorem mresDone_eq (pd : PReg) (m : SL) (c : Ctx) : mresDone pd m c = .act (if namedFree m c then (namedTiles m c).foldl (takeTile c) c.d else c.d) (predWrite pd.val c.sp.mask (if namedFree m c then c.sp.mask else 0)) false 0 := rfl
theorem mresDone_takes {pd : PReg} {m : SL} (h : ∀ t ∈ namedTiles m c, tileFree c t) : mresDone pd m c = .act ((namedTiles m c).foldl (takeTile c) c.d) (predWrite pd.val c.sp.mask c.sp.mask) false 0 := by
  have free : namedFree m c = true := List.all_eq_true.2 fun t ht => (freeFor_iff t).2 (h t ht)
  rw [mresDone_eq, free, if_pos rfl, if_pos rfl]
theorem mresDone_refused {pd : PReg} {m : SL} (h : ∃ t ∈ namedTiles m c, ¬ tileFree c t) : mresDone pd m c = .act c.d (predWrite pd.val c.sp.mask 0) false 0 := by
  obtain ⟨t, ht, taken⟩ := h
  have free : namedFree m c = false := List.all_eq_false.2 ⟨t, ht, mt (freeFor_iff t).1 taken⟩
  rw [mresDone_eq, free, if_neg Bool.false_ne_true, if_neg Bool.false_ne_true]
/-- The tiles that an `mrel` gives up: those it names that the group has (R295). -/
def releasedTiles (m : SL) (c : Ctx) : List Nat := (List.range 16).filter fun t => (slVal c.g c.sp m % 2 ^ 16).testBit t && (tileOf c.d c.g.core t).owner == some c.gid
theorem mrelBody_ok {m : SL} (h : ∀ o ∈ c.g.ops, ∀ t ∈ o.tiles ++ o.tileReads, t ∉ releasedTiles m c) :
    okDone c (mrelBody m c) = some (.act (c.d.modCore c.g.core fun k => { k with tiles := k.tiles.map fun e => if (releasedTiles m c).contains e.1 then (e.1, { e.2 with owner := none }) else e }) RegWrites.none false 0) := by
  have unused : (c.g.ops.any fun o => (o.tiles ++ o.tileReads).any (releasedTiles m c).contains) = false :=
    List.any_eq_false.2 fun o ho used => by
      obtain ⟨t, ht, named⟩ := List.any_eq_true.1 used
      exact h o ho t ht (List.contains_iff_mem.1 named)
  rw [releasedTiles] at unused
  simp only [mrelBody, unused, Bool.false_eq_true, if_false]
  rfl

/-! Elements of reserved tiles (R305 to R307). -/

theorem reservedTile_ok {t : TileNo} (h : ownsTile c t = true) (f : Ctx → Done) : okDone c (withTile c t (.ok f)) = some (f c) := by
  rw [withTile_reserved h]
  rfl
theorem osmUpdBody_ok {f : OsmF} (hs : ownsTile c f.sTile = true) (ho : f.oEn = true → ownsTile c f.oTile = true) :
    okDone c (withTile c f.sTile (if f.oEn && !ownsTile c f.oTile then .error (.raise (Exc.of .unreservedTile)) else .ok (osmUpdDone f))) = some (osmUpdDone f c) := by
  have reserved : (f.oEn && !ownsTile c f.oTile) = false := by
    cases h : f.oEn
    · rfl
    · simp [ho h]
  rw [withTile_reserved hs, reserved]
  rfl
/-- Elements written leave the issuing split where it is. -/
theorem writeTiles_stays (ws : List (Nat × Nat × Word)) (h : c.stays c.d) : c.stays (writeTiles c.d c.g.core c.g.job ws) := stays_of (writeTiles_groups _ _ _ _) h

/-! Ragged reductions and shape records (R309 to R315). -/

variable {sh : ShapeNo} {sn : Snapshot}
theorem ragBody_ok {one : Bool} {row0 : SL} (w : Snapshot → Ctx → RegWrites) (hs : c.shape sh = .ok sn) (hone : one = true → sn.crosses ((ragLanes c sn (slVal c.g c.sp row0)).map (slVal c.g c.sp row0 + ·)) = false) :
    okDone c (ragBody sh one row0 w c) = some (.act c.d (w sn c) false 0) := by
  have crosses : ¬(one && sn.crosses ((ragLanes c sn (slVal c.g c.sp row0)).map (slVal c.g c.sp row0 + ·))) = true := by
    cases h : one
    · simp
    · simp [hone h]
  simp only [ragBody, hs, if_neg crosses]
  rfl
/-- The version word of a snapshot's record, as a range (R311). -/
def versionSpan (sn : Snapshot) : List Span := [{ lane := none, va := sn.addr, len := 4 }]
theorem shChkBody_ok {pd : PReg} {parts : List (Nat × List Byte)} {d : Device} (hs : c.shape sh = .ok sn) (hp : c.rangesPass .load (fun _ => none) (versionSpan sn) = true)
    (hw : c.settled ((c.rangesAt .load (versionSpan sn)).map fun p => (p.2, p.1.len)) = true) (ht : thruParts c (c.rangesAt .load (versionSpan sn)) c.d = some (parts, d)) (hb : rangeBad c.d (c.rangesAt .load (versionSpan sn)) = none) :
    okDone c (shChkBody pd sh c) = some (.act d (predWrite pd.val c.sp.mask (if natOf (gather parts sn.addr 4) = field sn.header 0 4 then c.sp.mask else 0)) false 0) := by
  have read : readRange c sn.addr 4 = .ok (gather parts sn.addr 4, c.rangesAt .load (versionSpan sn), d) := by
    have ranges := checkRanges_ok hp
    rw [versionSpan] at ranges hw ht ⊢
    simp only [readRange, ranges, spansWait_none hw, ht]
  simp only [shChkBody, hs, read, hb]
  rfl
theorem shLdBody_ok {a : SReg} (h : c.passes .load 64 (fun _ => none) [(0, BitVec.ofNat 64 (readS c.g c.sp a.val))] = true) :
    let va : DWord := BitVec.ofNat 64 (readS c.g c.sp a.val)
    okDone c (shLdBody sh a c) = some (.op c.d { Op.of (.shape { sh := sh.val, va, leaf := (c.placeAt .load (0, va)).leaf, tries := 0, words := [] }) RegWrites.none false with shape := some (sh.val, none) } 0) := by
  simp only [shLdBody, placeLane_ok h]
  rfl
end

end Sys2Proof.Machine

namespace Sys2Proof
open Machine

/-- Settles O10: where its checks pass, each instruction has one outcome, from the device as it is or with the core's tiles changed. -/
theorem tilesAndShapesComplete : Obligations.tiles_and_shapes_complete := by
  unfold Obligations.tiles_and_shapes_complete
  refine ⟨⟨?mres, ?mrel, ?zero, ?toVec, ?toTile, ?upd, ?fin⟩, ?rdc, ?norm, ?chk, ?ld⟩
  case mres =>
    intro pd m s c hr
    obtain ⟨-, hd, stands⟩ := ready_own hr
    rw [← hd]
    constructor
    · intro free
      exact completes_act hr rfl rfl rfl (.inl rfl) (congrArg some (mresDone_takes free)) (stays_of (foldl_groups (f := takeTile c) (fun _ _ => rfl) _ _) stands)
    · intro taken
      exact completes_act hr rfl rfl rfl (.inl rfl) (congrArg some (mresDone_refused taken)) stands
  case mrel =>
    intro m s c hr ts unused
    obtain ⟨-, hd, stands⟩ := ready_own hr
    subst ts
    rw [← hd] at unused ⊢
    exact completes_act hr rfl rfl rfl (.inl rfl) (mrelBody_ok unused) (stays_of rfl stands)
  case zero =>
    intro g t s c hr ho
    obtain ⟨-, hd, stands⟩ := ready_own hr
    rw [← hd]
    exact completes_act hr rfl rfl rfl (.inl rfl) (reservedTile_ok ho _) (writeTiles_stays _ stands)
  case toVec =>
    intro f s c hr ho
    obtain ⟨-, hd, stands⟩ := ready_own hr
    rw [← hd]
    exact completes_act hr rfl rfl rfl (.inl rfl) (reservedTile_ok ho _) stands
  case toTile =>
    intro f s c hr ho
    obtain ⟨-, hd, stands⟩ := ready_own hr
    rw [← hd]
    exact completes_act hr rfl rfl rfl (.inl rfl) (reservedTile_ok ho _) (writeTiles_stays _ stands)
  case upd =>
    intro f s c hr hs ho
    obtain ⟨-, hd, stands⟩ := ready_own hr
    rw [← hd]
    exact completes_act hr rfl rfl rfl (.inl rfl) (osmUpdBody_ok hs ho) (writeTiles_stays _ stands)
  case fin =>
    intro g t a r s c hr ho
    obtain ⟨-, hd, stands⟩ := ready_own hr
    rw [← hd]
    exact completes_act hr rfl rfl rfl (.inl rfl) (reservedTile_ok ho _) (writeTiles_stays _ stands)
  case rdc =>
    intro f s c sn hr hs hone
    obtain ⟨-, hd, stands⟩ := ready_own hr
    rw [← hd]
    exact completes_act hr rfl rfl rfl (.inl rfl) (ragBody_ok (ragRdcWrites f) hs hone) stands
  case norm =>
    intro f s c sn hr hs hone
    obtain ⟨-, hd, stands⟩ := ready_own hr
    rw [← hd]
    exact completes_act hr rfl rfl rfl (.inl rfl) (ragBody_ok (ragNormWrites f) hs hone) stands
  case chk =>
    intro pd sh s c sn hr hs ss ps hp hw ht hb
    obtain ⟨-, hd, stands⟩ := ready_own hr
    rw [← hd] at ht hb ⊢
    obtain ⟨⟨parts, d⟩, read⟩ := Option.isSome_iff_exists.1 ht
    obtain ⟨t, next, acted⟩ := completes_act hr rfl rfl rfl (.inl rfl) (shChkBody_ok hs hp hw read hb) (thruParts_stays read stands)
    exact ⟨t, next, parts, d, read, acted⟩
  case ld =>
    intro sh a s c hr va hp
    obtain ⟨-, hd, stands⟩ := ready_own hr
    rw [← hd]
    exact completes_op hr rfl rfl rfl rfl (shLdBody_ok hp) stands

end Sys2Proof

/-! Copies and timelines (R316 to R321, R354). -/

namespace Sys2Proof.Machine
open Sys2Proof

section
variable {c : Ctx}

/-! Copies that are accepted (R316, R317, R354). -/

/-- The number that a timeline of the group's team gives next (R319). -/
theorem tlAccept_number (c : Ctx) (tl : Nat) : (tlAccept c.d c.g.team tl).1 = (c.team.tl tl).accepted + 1 := by
  simp only [tlAccept, Ctx.team]
  cases Tbl.find c.d.teams c.g.team <;> rfl
/-- A copy as its timeline and its cluster's copy engine take it (R319, R354). -/
def acceptedCopy (c : Ctx) (o : CopyOp) : CopyOp :=
  let a := tlAccept c.d c.g.team o.tl
  { o with id := a.2.nextId, job := c.g.job, team := c.g.team, group := c.gid, number := a.1, die := c.team.cluster / 32 }
/-- The device that has accepted a copy: it waits at the engine with its ranges, or without bytes is complete (R316, R319, R354). -/
def copyAccepted (c : Ctx) (o : CopyOp) (n : Nat) : Device :=
  let a := tlAccept c.d c.g.team o.tl
  let op := acceptedCopy c o
  let d := { a.2 with nextId := a.2.nextId + 1 }
  if n = 0 then timelineDone d (c.team.cluster / 32) c.g.team o.tl a.1 0 0
  else (d.modTeam c.g.team fun t => { t with ranges := t.ranges ++ copyRanges op.id c.gid o.dir o.dst.toNat o.src.toNat n }).modCluster c.team.cluster fun k => { k with copies := k.copies ++ [op] }
/-- The number of a copy in its destination, where it has one. -/
def numberWrite (c : Ctx) (tl : Nat) (d : Option SReg) : RegWrites := match d with | some r => scaWrite r.val ((c.team.tl tl).accepted + 1) | none => RegWrites.none
theorem acceptCopy_eq (sd : Option SReg) (o : CopyOp) (n : Nat) : acceptCopy c sd o n = .act (copyAccepted c o n) (numberWrite c o.tl sd) false 0 := by
  cases sd with
  | none => rfl
  | some r => exact congrArg (fun x => Done.act (copyAccepted c o n) (scaWrite r.val x) false 0) (tlAccept_number c o.tl)
theorem copyAccepted_stays (o : CopyOp) (n : Nat) (h : c.stays c.d) : c.stays (copyAccepted c o n) := by
  refine stays_of ?_ h
  simp only [copyAccepted]
  split
  · exact timelineDone_groups _ _ _ _ _ _ _
  · rfl
theorem cpBody_ok {f : CpF} (hc : copyChecks c.team.windowSize f.dir (copyOperand (winDst f.dir) (readS c.g c.sp f.dst.val)) (copyOperand (winSrc f.dir) (readS c.g c.sp f.src.val)) (slVal c.g c.sp f.len % 2 ^ 32) = none)
    (hw : copyStall c f.dir (copyOperand (winDst f.dir) (readS c.g c.sp f.dst.val)) (copyOperand (winSrc f.dir) (readS c.g c.sp f.src.val)) (slVal c.g c.sp f.len % 2 ^ 32) = none) :
    okDone c (cpBody f c) = some (acceptCopy c f.d (copyOf f.tl false f.dir (copyOperand (winDst f.dir) (readS c.g c.sp f.dst.val)) (copyOperand (winSrc f.dir) (readS c.g c.sp f.src.val)) (slVal c.g c.sp f.len % 2 ^ 32) 0 0) (slVal c.g c.sp f.len % 2 ^ 32)) := by
  simp only [cpBody, hc, hw]
  rfl
/-- The second word of a `cp.gather`'s descriptor: the bytes of a row and the number of rows (R317). -/
def gatherWord (f : CpGatherF) (c : Ctx) : Nat := readS c.g c.sp (f.desc.val + 1)
/-- The bytes of a row. -/
def gatherRow (f : CpGatherF) (c : Ctx) : Nat := gatherWord f c % 2 ^ 24
/-- The rows. -/
def gatherRows (f : CpGatherF) (c : Ctx) : Nat := gatherWord f c / 2 ^ 24 % 2 ^ 24
/-- The destination. -/
def gatherDst (f : CpGatherF) (c : Ctx) : Nat := copyOperand (winDst f.dir) (readS c.g c.sp f.dst.val)
theorem cpGatherBody_ok {f : CpGatherF} (hi : readS c.g c.sp f.desc.val % 4 = 0) (h16 : gatherRow f c % 16 = 0) (hlo : 16 ≤ gatherRow f c) (hhi : gatherRow f c ≤ 65536) (hq : gatherWord f c / 2 ^ 48 = 0)
    (hc : copyChecks c.team.windowSize f.dir (gatherDst f c) (readS c.g c.sp f.src.val) (gatherRows f c * gatherRow f c) = none) (ha : readS c.g c.sp f.desc.val < 2 ^ 48)
    (hw : copyStall c f.dir (gatherDst f c) (readS c.g c.sp f.src.val) (gatherRows f c * gatherRow f c) = none) :
    okDone c (cpGatherBody f c) = some (acceptCopy c f.d (copyOf f.tl true f.dir (gatherDst f c) (readS c.g c.sp f.src.val) (gatherRow f c) (BitVec.ofNat 64 (readS c.g c.sp f.desc.val)) (gatherRows f c)) (gatherRows f c * gatherRow f c)) := by
  have low : ¬ 2 ^ 48 ≤ readS c.g c.sp f.desc.val := Nat.not_le.2 ha
  simp only [gatherRow, gatherRows, gatherWord, gatherDst] at h16 hlo hhi hq hc hw ⊢
  simp only [cpGatherBody, hc, if_neg low, hw]
  rw [if_neg (by simp [hi]; omega)]
  rfl

/-! Timelines that are read and waited for (R320, R321). -/

theorem tlWaitDone_zero {tl : TimelineNo} {n : SL} (h : slVal c.g c.sp n = 0) : tlWaitDone tl n c = .act c.d RegWrites.none false 0 := if_pos h
theorem tlWaitDone_reached {tl : TimelineNo} {n : SL} (h0 : slVal c.g c.sp n ≠ 0) (h : slVal c.g c.sp n ≤ (c.team.tl tl.val).counter) :
    tlWaitDone tl n c = .act (acquire (c.d.mergeClock (c.g.core / 128) (c.team.tl tl.val).clock) c.gid) RegWrites.none false 0 := by
  simp only [tlWaitDone, if_neg h0, if_pos h]
theorem tlWaitDone_waits {tl : TimelineNo} {n : SL} (h : (c.team.tl tl.val).counter < slVal c.g c.sp n) :
    tlWaitDone tl n c = .wait (beginWait c.d c.gid (.timeline tl.val (slVal c.g c.sp n)) 3 1 0 (BitVec.ofNat 64 tl.val) c.sp.here) := by
  have h0 : slVal c.g c.sp n ≠ 0 := by omega
  simp only [tlWaitDone, if_neg h0, if_neg (Nat.not_le.2 h)]
end

end Sys2Proof.Machine

namespace Sys2Proof
open Machine

/-- Settles O12: an accepted copy is one change of its team, its cluster's engine and the waiters that it wakes; the timeline instructions read the team's timeline as the context has it. -/
theorem copiesAndTimelinesComplete : Obligations.copies_and_timelines_complete := by
  unfold Obligations.copies_and_timelines_complete
  refine ⟨⟨?cp, ?gather⟩, ?read, ?error, ?zero, ?reached, ?waits⟩
  case cp =>
    intro f s c hr dst src len hc hw
    obtain ⟨-, hd, stands⟩ := ready_own hr
    beta_reduce
    rw [← hd]
    exact completes_act hr rfl rfl rfl (.inl rfl) ((cpBody_ok hc hw).trans (congrArg some (acceptCopy_eq _ _ _))) (copyAccepted_stays _ _ stands)
  case gather =>
    intro f s c hr dst src idx q w n hi h16 hlo hhi hq hc ha hw
    obtain ⟨-, hd, stands⟩ := ready_own hr
    beta_reduce
    rw [← hd]
    exact completes_act hr rfl rfl rfl (.inl rfl) ((cpGatherBody_ok hi h16 hlo hhi hq hc ha hw).trans (congrArg some (acceptCopy_eq _ _ _))) (copyAccepted_stays _ _ stands)
  case read =>
    intro r tl s c hr
    obtain ⟨-, hd, stands⟩ := ready_own hr
    rw [← hd]
    let seen (g : Group) : Group := { g with seen := clockMax g.seen (c.team.tl tl.val).clock }
    refine (completes_act (d := c.d.modGroup c.gid seen) hr rfl rfl rfl (.inl rfl) rfl (stays_modGroup (fun _ => rfl) stands)).mono fun t acted => ?_
    exact acted.of_regs rfl rfl fun j => view_modGroup Group.regs _ _ _ seen fun _ => rfl
  case error =>
    intro r tl s c hr t
    obtain ⟨-, hd, stands⟩ := ready_own hr
    rw [← hd]
    exact completes_act hr rfl rfl rfl (.inl rfl) rfl (stays_of rfl stands)
  case zero =>
    intro tl n s c hr h
    obtain ⟨-, hd, stands⟩ := ready_own hr
    rw [← hd]
    exact completes_act hr rfl rfl rfl (.inl rfl) (congrArg some (tlWaitDone_zero h)) stands
  case reached =>
    intro tl n s c hr h0 h
    obtain ⟨-, hd, stands⟩ := ready_own hr
    rw [← hd]
    exact completes_act hr rfl rfl rfl (.inl rfl) (congrArg some (tlWaitDone_reached h0 h)) (acquire_stays _ (stays_of rfl stands))
  case waits =>
    intro tl n s c hr h
    obtain ⟨-, hd, stands⟩ := ready_own hr
    rw [← hd]
    obtain ⟨stays, g, hg, hw⟩ := beginWait_group (.timeline tl.val (slVal c.g c.sp n)) 3 1 0 (BitVec.ofNat 64 tl.val) c.sp.here stands
    exact completes_wait hr rfl rfl rfl rfl (congrArg some (tlWaitDone_waits h)) stays hg hw

end Sys2Proof

/-! Collective and hutch instructions (R322 to R325, R328, R417 to R421). -/

namespace Sys2Proof.Machine
open Sys2Proof

section
variable {c : Ctx} {a : SReg} {k : SL} {va : DWord} {b : Binding} {n : Nat}

/-! Collectives (R322 to R325). -/

/-- The 64 lines of an operand of 4 KiB (R322). -/
def collLines (va : DWord) : List (Nat × DWord) := (List.range 64).map fun i => (0, va + BitVec.ofNat 64 (64 * i))
theorem collRange_ok {acc : Access} {own : Leaf → Option ExcCode} (h : c.passes acc 64 own (collLines va) = true) : collRange c acc own va = .ok ((collLines va).map (c.placeAt acc)) := by
  have places := placeLanes_ok h
  rw [collLines] at places ⊢
  simp only [collRange, places]
  rfl
theorem collPutBody_ok {r : SReg} (hb : collBinding c a = .ok (va, b)) (hk : collChunk c b k = .ok n) (hp : c.passes .load 64 (fun _ => none) (collLines (BitVec.ofNat 64 (readS c.g c.sp r.val))) = true) :
    okDone c (collPutBody a k r c) = some (.act (holdEffect c c.d 0xB4 (BitVec.ofNat 64 (readS c.g c.sp r.val)) [] (.coll va n c.g.stepCur.toNat (BitVec.ofNat 64 (readS c.g c.sp r.val)))) RegWrites.none false 0) := by
  simp only [collPutBody, hb, hk, collRange_ok hp]
  rfl
/-- A quorum and a floor at most 512 are read back from the word that holds them (R324). -/
theorem quorum_fields {q f : Nat} (hq : q ≤ 512) (hf : f ≤ q) : (q + f * 2 ^ 16) % 1024 = q ∧ (q + f * 2 ^ 16) / 2 ^ 16 % 1024 = f := by omega
/-- The device in which a collective of the group's job has a quorum and a floor from the group's step on (R324). -/
def quorumSet (c : Ctx) (va : DWord) (q f : Nat) : Device := { c.d with coll := { c.d.coll with quorums := c.d.coll.quorums ++ [(c.g.job, va, c.g.stepCur.toNat, q, f)] } }
theorem collQuorumBody_ok {qf : SL} {q f : Nat} (hb : collBinding c a = .ok (va, b)) (hv : slVal c.g c.sp qf = q + f * 2 ^ 16) (h1 : 1 ≤ q) (h2 : q ≤ 512) (hf : f ≤ q) :
    okDone c (collQuorumBody a qf c) = some (.act (evalCollective c.P (quorumSet c va q f) c.g.job va) RegWrites.none false 0) := by
  obtain ⟨low, high⟩ := quorum_fields h2 hf
  have legal : ¬(decide (q = 0) || decide (512 < q) || decide (q < f) || q + f * 2 ^ 16 != q + f * 2 ^ 16) = true := by
    simp [Nat.not_lt.2 h2, Nat.not_lt.2 hf, Nat.ne_of_gt h1]
  simp only [collQuorumBody, hb, hv, low, high, if_neg legal]
  rfl
theorem collCloseBody_ok (hb : collBinding c a = .ok (va, b)) (hk : collChunk c b k = .ok n) : okDone c (collCloseBody a k c) = some (.act (collCloseNow c.P c.d c.g.job va b n c.g.stepCur.toNat) RegWrites.none false 0) := by
  simp only [collCloseBody, hb, hk]
  rfl
/-- A `coll.get` that waits for its result, with the places of its destination (R325). -/
def getWait (c : Ctx) (sd : SReg) (va dst : DWord) (n : Nat) : CollGetWait :=
  { group := c.gid, op := c.d.nextId, job := c.g.job, binding := va, chunk := n, step := c.g.stepCur.toNat, dst := ((collLines dst).map (c.placeAt .store)).map fun p => (p.va, p.pa, if p.leaf.repl then some p.leaf.base else none), sd := sd.val, issued := c.d.time }
theorem collGetBody_ok {sd t : SReg} (hb : collBinding c a = .ok (va, b)) (hk : collChunk c b k = .ok n) (hp : c.passes .store 64 notVersioned (collLines (BitVec.ofNat 64 (readS c.g c.sp t.val))) = true) :
    okDone c (collGetBody sd a k t c) = some (.op { c.d with coll := { c.d.coll with gets := c.d.coll.gets ++ [getWait c sd va (BitVec.ofNat 64 (readS c.g c.sp t.val)) n] } } (Op.of .collGet RegWrites.none false) 0) := by
  simp only [collGetBody, hb, hk, collRange_ok hp]
  rfl

/-! Hutch commands (R328, R421). -/

/-- The four words of a command (R417). -/
def hcmdWords (sn : SReg) (c : Ctx) : List DWord := (List.range 4).map fun i => BitVec.ofNat 64 (readS c.g c.sp (sn.val + i))
/-- One of them. -/
def hcmdWord (sn : SReg) (c : Ctx) (i : Nat) : Nat := ((hcmdWords sn c).getD i 0).toNat
/-- The pages of one operand of a command. -/
def operandPages (r : List (Nat × List HutchPage)) (k : Nat) : List HutchPage := ((r.find? fun e => e.1 == k).map (·.2)).getD []
/-- The stacks that a command's operands lie on (R421). -/
def hcmdStacks (sn : SReg) (c : Ctx) (r : List (Nat × List HutchPage)) : List Nat :=
  let n := 4 * (hcmdWord sn c 0 / 256 % 2 ^ 24)
  (hutchStacks c.d (c.g.core / 128) (hcmdWord sn c 1) n (operandPages r 0) ++ hutchStacks c.d (c.g.core / 128) (hcmdWord sn c 2) n (operandPages r 1)).eraseDups
/-- The stack of the first element of D. -/
def hcmdFirst (sn : SReg) (c : Ctx) (r : List (Nat × List HutchPage)) : Nat :=
  ((operandPages r 0).head?.bind fun p => (hutchFrames c.d (c.g.core / 128) p.leaf).head?.map fun f => p.leaf.phys f (hcmdWord sn c 1 - p.leaf.base) / 2 ^ 36).getD 0
/-- A command as its instruction gives it (R417, R421). -/
def hcmdCommand (tl : TimelineNo) (sn : SReg) (c : Ctx) (r : List (Nat × List HutchPage)) : HutchCmd :=
  { id := c.d.nextId, words := hcmdWords sn c, job := c.g.job, team := c.g.team, group := c.gid, tl := tl.val, number := 0, die := c.g.core / 128, stack := (hcmdStacks sn c r).headD (hcmdFirst sn c r), dst := operandPages r 0, src := operandPages r 1, aux := operandPages r 2,
    mPages := [], mAddr := 0, hyper := [], err := none, ready := false, since := 0, at_ := 0, sums := (0, 0) }
theorem hcmdBody_ok {tl : TimelineNo} {sn : SReg} {r : List (Nat × List HutchPage)} (hw : hutchWordsOk (hcmdWords sn c) = true) (ht : hutchTranslate c (hutchRanges (hcmdWords sn c)) = .ok r)
    (hp : ∀ p ∈ operandPages r 0 ++ operandPages r 1 ++ operandPages r 2, (p.leaf.ver = true → recordOk c.d p.leaf.addr = true) ∧ ∀ f ∈ hutchFrames c.d (c.g.core / 128) p.leaf, physOk f = true)
    (hv : hcmdWord sn c 0 / 2 ^ 32 ≠ 0 → ∃ p ∈ operandPages r 0, p.leaf.ver = true) (hs : (hcmdStacks sn c r).length ≤ 1) (ho : ∀ p ∈ operandPages r 1 ++ operandPages r 2, p.leaf.ver = false ∧ p.leaf.repl = false) :
    okDone c (hcmdBody tl sn c) = some (.act (holdEffect c { c.d with nextId := c.d.nextId + 1 } 0xBA ((hcmdWords sn c).getD 1 0) [] (.hcmd tl.val (hcmdCommand tl sn c r))) RegWrites.none false 0) := by
  have present : ((operandPages r 0 ++ operandPages r 1 ++ operandPages r 2).any fun p => (!p.leaf.ver || recordOk c.d p.leaf.addr) && (hutchFrames c.d (c.g.core / 128) p.leaf).any fun f => !physOk f) = false := by
    refine List.any_eq_false.2 fun p hm => ?_
    have frames : ((hutchFrames c.d (c.g.core / 128) p.leaf).any fun f => !physOk f) = false := List.any_eq_false.2 fun f hf => by simp [(hp p hm).2 f hf]
    simp [frames]
  have records : ((operandPages r 0 ++ operandPages r 1 ++ operandPages r 2).any fun p => p.leaf.ver && !recordOk c.d p.leaf.addr) = false := by
    refine List.any_eq_false.2 fun p hm => ?_
    cases h : p.leaf.ver
    · simp
    · simp [(hp p hm).1 h]
  have step : (hcmdWord sn c 0 / 2 ^ 32 != 0 && !(operandPages r 0).any fun p => p.leaf.ver) = false := by
    by_cases h : hcmdWord sn c 0 / 2 ^ 32 = 0
    · simp only [h, bne_self_eq_false, Bool.false_and]
    · rw [List.any_eq_true.2 (hv h)]
      simp
  have sources : (operandPages r 1 ++ operandPages r 2).any (fun p => p.leaf.ver || p.leaf.repl) = false := List.any_eq_false.2 fun p hm => by simp [ho p hm]
  simp only [operandPages, hcmdStacks, hcmdWord, hcmdWords] at hw ht hs present records step sources
  simp only [hcmdBody, hw, ht, present, records, step, sources, Bool.not_true, Bool.false_or, Bool.or_false, Bool.false_eq_true, if_false]
  rw [if_neg (by simpa using hs)]
  rfl
end

end Sys2Proof.Machine

namespace Sys2Proof
open Machine

/-- Settles O13: with its operands checked, each instruction has one outcome, a held effect, a change of the collective, or a wait for a result. -/
theorem collectivesAndHutchCommandsComplete : Obligations.collectives_and_hutch_commands_complete := by
  unfold Obligations.collectives_and_hutch_commands_complete
  refine ⟨⟨?put, ?quorum, ?close, ?get⟩, ?hcmd⟩
  case put =>
    intro a k r s c va b n hr hroom hb hk src hp
    obtain ⟨-, hd, stands⟩ := ready_own hr
    obtain ⟨-, -, hg, -⟩ := ready_ctx hr
    rw [← hd] at hg ⊢
    exact completes_held hr rfl rfl rfl rfl (.inr hroom) (collPutBody_ok hb hk hp) rfl stands (congrArg (Option.map _) hg)
  case quorum =>
    intro a qf s c va b q f hr hb hv h1 h2 hf
    obtain ⟨hP, hd, stands⟩ := ready_own hr
    rw [← hP, ← hd]
    exact completes_act hr rfl rfl rfl (.inl rfl) (collQuorumBody_ok hb hv h1 h2 hf) (stays_of (evalCollective_groups _ _ _ _) stands)
  case close =>
    intro a k s c va b n hr hb hk
    obtain ⟨hP, hd, stands⟩ := ready_own hr
    rw [← hP, ← hd]
    exact completes_act hr rfl rfl rfl (.inl rfl) (collCloseBody_ok hb hk) (stays_of (collCloseNow_groups _ _ _ _ _ _ _) stands)
  case get =>
    intro r a k t s c va b n hr hb hk es ps hp w
    obtain ⟨-, hd, stands⟩ := ready_own hr
    have started := completes_op hr rfl rfl rfl rfl (collGetBody_ok (sd := r) hb hk hp) (stays_of rfl stands)
    rw [getWait, hd] at started
    exact started
  case hcmd =>
    intro tl sn s c r hr hroom ws w pages die n sts first hw ht hp hv hs ho cmd
    obtain ⟨-, hd, stands⟩ := ready_own hr
    obtain ⟨-, -, hg, -⟩ := ready_ctx hr
    rw [← hd] at hg
    have held := completes_held hr rfl rfl rfl rfl (.inr hroom) (hcmdBody_ok (tl := tl) hw ht (by rw [hd]; exact hp) hv (by rw [hcmdStacks, hd]; exact hs) ho) rfl (stays_of rfl stands) (congrArg (Option.map _) hg)
    rw [hcmdCommand, hcmdStacks, hcmdFirst, hd] at held
    exact held

end Sys2Proof

/-! Migration (R66, R128, R332, R333). -/

namespace Sys2Proof.Machine
open Sys2Proof

/-! Regions that close before a closing instruction (R128). -/

/-- A group in which the regions of some splits have closed, in turn. -/
def Group.closedAt (d : Device) (ks : List Nat) (g : Group) : Group := ks.foldl (fun g k => closeRegion d.clock (closing d g) g k) g
/-- Closing regions changes of a group its effects, what it hands over, its operations' marks and its splits. -/
theorem closedAt_group (d : Device) (ks : List Nat) (g : Group) : ∃ effects handed ops splits, g.closedAt d ks = { g with effects, handed, ops, splits } := by
  induction ks generalizing g with
  | nil => exact ⟨_, _, _, _, rfl⟩
  | cons j ks ih =>
    obtain ⟨effects, handed, ops, splits, h⟩ := ih (closeRegion d.clock (closing d g) g j)
    exact ⟨effects, handed, ops, splits, h⟩
/-- Of a split it changes the region, and whether the split goes. -/
theorem closedAt_split {d : Device} {k : Nat} (ks : List Nat) {g : Group} {sp : Split} (h : splitOf g k = some sp) : ∃ region gone, splitOf (g.closedAt d ks) k = some { sp with region, gone } := by
  induction ks generalizing g sp with
  | nil => exact ⟨_, _, h⟩
  | cons j ks ih =>
    by_cases hj : k = j
    · subst hj
      obtain ⟨region, gone, closed⟩ := ih ((splitOf_closeRegion_same d.clock (closing d g) g k).trans (congrArg _ h))
      exact ⟨region, gone, closed⟩
    · exact ih ((splitOf_closeRegion_other d.clock (closing d g) g hj).trans h)
/-- The context of a closing instruction once regions have closed: its group and its split have changed by that alone. -/
theorem closeHere_spec (i : Instr) {c : Ctx} (hg : Tbl.find c.d.groups c.gid = some c.g) (hk : splitOf c.g c.k = some c.sp) :
    (∃ F : Group → Group, (∀ g, (F g).regs = g.regs) ∧ (closeHere i c).d = c.d.modGroup c.gid F) ∧
    (∃ effects handed ops splits, (closeHere i c).g = { c.g with effects, handed, ops, splits }) ∧ (∃ region gone, (closeHere i c).sp = { c.sp with region, gone }) ∧
    Tbl.find (closeHere i c).d.groups c.gid = some (closeHere i c).g ∧ splitOf (closeHere i c).g c.k = some (closeHere i c).sp := by
  obtain ⟨ks, he⟩ : ∃ ks, closeHere i c = c.refresh (c.d.modGroup c.gid fun g => g.closedAt c.d ks) := by
    exact ⟨_, rfl⟩
  obtain ⟨region, gone, split⟩ := closedAt_split (d := c.d) ks hk
  have found : Tbl.find (c.d.modGroup c.gid fun g => g.closedAt c.d ks).groups c.gid = some (c.g.closedAt c.d ks) := by
    rw [find_modGroup_same, hg]
    rfl
  have group : (closeHere i c).g = c.g.closedAt c.d ks := by
    rw [he]
    simp only [Ctx.refresh, found, Option.getD_some]
  have own : (closeHere i c).sp = { c.sp with region, gone } := by
    rw [he]
    simp only [Ctx.refresh, found, Option.getD_some, split]
  refine ⟨⟨_, fun g => ?_, congrArg Ctx.d he⟩, ?_, ⟨region, gone, own⟩, ?_, ?_⟩
  · obtain ⟨effects, handed, ops, splits, h⟩ := closedAt_group c.d ks g
    rw [h]
    rfl
  · rw [group]
    exact closedAt_group _ _ _
  · rw [group, he]
    exact found
  · rw [group, own]
    exact split
/-- A closing instruction issues from the context in which the regions have closed, where nothing of the group is on its way out. -/
theorem runCode_closed {i : Instr} {gd : Option Guard} {s : State} {c : Ctx} {body : Ctx → Except Stop (Ctx → Done)} {f : Ctx → Done} (hr : ready i gd s = some c) (h1 : closesFirst i = true) (h2 : closesEarly i = false) (h3 : isHeldEffect i = false)
    (hrest : c.sp.rest = none) (hgone : (closeHere i c).sp.gone = false) (hhanded : (closeHere i c).g.handed = []) (hreleases : (closeHere i c).g.releases = []) (hb : body c = .ok f) :
    runCode i gd s body = .next { s with dev := retire i (closeHere i c) (f (closeHere i c)) } := by
  obtain ⟨ht, hx, hg, hw⟩ := ready_spec hr
  simp [runCode, ht, hx, issue, hg, hw, h1, h2, h3, hb, hrest, hgone, hhanded, hreleases]

/-! Requests for blocks (R75). -/

/-- The requests for blocks that wait at a core. -/
def Device.asks (d : Device) (core : Nat) : List (Nat × Nat) := (d.core core).chunkQueue
theorem asks_modCore {d : Device} {k : Nat} {f : Core → Core} (h : ∀ x, (f x).chunkQueue = x.chunkQueue) (core : Nat) : (d.modCore k f).asks core = d.asks core := by
  by_cases hk : core = k
  · rw [hk, Device.asks, core_modCore_same, h, Device.asks]
  · rw [Device.asks, core_modCore_other d f hk, Device.asks]
theorem asks_modGroup (d : Device) (g : Nat) (f : Group → Group) (core : Nat) : (d.modGroup g f).asks core = d.asks core := rfl
theorem asks_wakeGroup (d : Device) (g n st core : Nat) : (wakeGroup d g n st).asks core = d.asks core := by
  simp only [wakeGroup, wakeWith]
  split
  · rfl
  · exact asks_modCore (fun _ => by rfl) core
theorem asks_setDrawer (d : Device) (k b : Nat) (x : Drawer) (core : Nat) : (d.setDrawer k b x).asks core = d.asks core := asks_modCore (fun _ => by rfl) core
theorem asks_takeChunk (d : Device) (gid e core : Nat) : (takeChunk d gid e).asks core = d.asks core := by
  simp only [takeChunk]
  split
  · rfl
  · split
    · rfl
    · exact (asks_modGroup _ _ _ _).trans (asks_modCore (fun _ => by rfl) core)
theorem asks_takeChunks (gid core n : Nat) (d : Device) : (takeChunks d gid n).asks core = d.asks core := by
  induction n generalizing d with
  | zero => rfl
  | succ n ih =>
    simp only [takeChunks]
    split
    · rfl
    · exact (ih _).trans (asks_takeChunk d gid _ core)
theorem asks_giveChunk (d : Device) (gid e core : Nat) : (giveChunk d gid e).asks core = d.asks core := by
  simp only [giveChunk]
  split
  · rfl
  · exact asks_modCore (fun x => by split <;> rfl) core
theorem asks_depositRegs (d : Device) (gid core : Nat) : (depositRegs d gid).asks core = d.asks core := by
  simp only [depositRegs]
  split
  · rfl
  · rename_i g hg
    have given : ((List.range g.h).foldl (fun d e => giveChunk d gid e) d).asks core = d.asks core := foldl_leaves (Device.asks · core) (fun d e => asks_giveChunk d gid e core) _ d
    exact (asks_modCore (fun _ => by rfl) core).trans ((asks_modCore (fun _ => by rfl) core).trans given)
theorem asks_claimChunk (gid t : Nat) (d : Device) (e core : Nat) : (claimChunk gid t d e).asks core = d.asks core := by
  simp only [claimChunk]
  split
  · exact asks_modCore (fun _ => by rfl) core
  · rfl
theorem asks_clearMatches (d : Device) (k job core : Nat) : (clearMatches d k job).asks core = d.asks core := by
  simp only [clearMatches]
  split
  · rfl
  · exact asks_modCore (fun _ => by rfl) core
section
variable {α : Type} (r : Group → α) {j : Nat}
theorem viewAt_takeChunk_other (d : Device) {gid : Nat} (e : Nat) (h : j ≠ gid) : viewAt r (takeChunk d gid e) j = viewAt r d j := by
  simp only [takeChunk]
  split
  · rfl
  · split
    · rfl
    · exact viewAt_modGroup_other r _ _ h
theorem viewAt_takeChunks_other {gid : Nat} (h : j ≠ gid) (n : Nat) (d : Device) : viewAt r (takeChunks d gid n) j = viewAt r d j := by
  induction n generalizing d with
  | zero => rfl
  | succ n ih =>
    simp only [takeChunks]
    split
    · rfl
    · exact (ih _).trans ((viewAt_modGroup_other r _ _ h).trans (viewAt_takeChunk_other r d _ h))
/-- Blocks granted at a core leave a group that asks for none there as it is. -/
theorem viewAt_grantChunks_other (core n : Nat) {d : Device} (h : ∀ e ∈ d.asks core, e.1 ≠ j) : viewAt r (grantChunks core n d) j = viewAt r d j := by
  induction n generalizing d with
  | zero => rfl
  | succ n ih =>
    simp only [grantChunks]
    split
    · rfl
    · rename_i gid m rest hq
      have asked : d.asks core = (gid, m) :: rest := hq
      rw [asked] at h
      have hj : j ≠ gid := (h _ List.mem_cons_self).symm
      let popped : Device := d.modCore core fun k => { k with chunkQueue := rest }
      have left : popped.asks core = rest := by rw [Device.asks, core_modCore_same]
      have others : ∀ e ∈ rest, e.1 ≠ j := fun e he => h e (List.mem_cons_of_mem _ he)
      split
      · exact ih (d := popped) (by rwa [left])
      · split
        · rfl
        · split
          · refine (ih ?_).trans ((viewAt_groups r (wakeGroup_groups _ _ _ _) j).trans (viewAt_modGroup_other r popped _ hj))
            rw [asks_wakeGroup, asks_modGroup, left]
            exact others
          · refine (ih ?_).trans ((viewAt_groups r (wakeGroup_groups _ _ _ _) j).trans (viewAt_takeChunks_other r hj m popped))
            rw [asks_wakeGroup, asks_takeChunks, left]
            exact others
end

/-! A group that leaves its core (R66). -/

/-- A group on its way to a core. -/
def Group.departed (t slot pos block : Nat) (g : Group) : Group := { emptyBypass g with state := .migrating, core := t, slot, pos, block, yielded := none }
/-- A change of a group stands while its core drops matches and grants blocks that the group does not ask for. -/
theorem find_grantChunks_modGroup {d : Device} {gid core : Nat} (n job : Nat) {f : Group → Group} {h : Core → Core} (hh : ∀ x, (h x).chunkQueue = x.chunkQueue) (ha : ∀ e ∈ d.asks core, e.1 ≠ gid) :
    Tbl.find (grantChunks core n (clearMatches ((d.modGroup gid f).modCore core h) core job)).groups gid = (Tbl.find d.groups gid).map f := by
  have asks : (clearMatches ((d.modGroup gid f).modCore core h) core job).asks core = d.asks core := (asks_clearMatches _ _ _ _).trans (asks_modCore hh core)
  have same := viewAt_grantChunks_other id core n (asks ▸ ha)
  rw [viewAt_groups id (clearMatches_groups _ _ _)] at same
  simp only [viewAt, Option.map_id_fun, id_eq] at same
  exact same.trans (find_modGroup_same d gid f)
theorem splitOf_departed {t slot pos block k : Nat} {g : Group} {sp : Split} (h : splitOf g k = some sp) : splitOf (g.departed t slot pos block) k = some { sp with bypass := [] } := by
  simp only [splitOf] at h
  simp [splitOf, Group.departed, emptyBypass, h]
/-- A group that asks for no blocks at its core is on its way as its departure has made it. -/
theorem find_departGroup {d : Device} {g : Group} (t : Nat) (hg : Tbl.find d.groups g.id = some g) (ha : ∀ e ∈ d.asks g.core, e.1 ≠ g.id) :
    ∃ slot pos block, Tbl.find (departGroup d g t).groups g.id = some (g.departed t slot pos block) := by
  have claims (e : Device) (k : Nat) : (claimChunk g.id t e k).groups = e.groups := by
    simp only [claimChunk]
    split <;> rfl
  have groups : ((List.range g.h).foldl (claimChunk g.id t) ((depositRegs d g.id).freeDrawer g.core g.block)).groups = d.groups := (foldl_groups claims _ _).trans (depositRegs_groups d g.id)
  have asks : ((List.range g.h).foldl (claimChunk g.id t) ((depositRegs d g.id).freeDrawer g.core g.block)).asks g.core = d.asks g.core :=
    (foldl_leaves (Device.asks · g.core) (fun e k => asks_claimChunk g.id t e k g.core) _ _).trans ((asks_modCore (fun _ => by rfl) _).trans (asks_depositRegs d g.id _))
  simp only [departGroup]
  generalize (List.range g.h).foldl (claimChunk g.id t) ((depositRegs d g.id).freeDrawer g.core g.block) = claimed at groups asks ⊢
  generalize (firstSlot ((depositRegs d g.id).freeDrawer g.core g.block) t).getD 0 = slot
  generalize (freePos ((depositRegs d g.id).freeDrawer g.core g.block) t slot).headD 0 = pos
  generalize blockAt ((depositRegs d g.id).freeDrawer g.core g.block) t slot pos = block
  refine ⟨slot, pos, block, (find_grantChunks_modGroup _ _ (fun _ => by rfl) fun e he => ha e ?_).trans ?_⟩
  · rwa [asks_setDrawer, asks] at he
  · exact congrArg (Option.map (Group.departed t slot pos block)) ((congrArg (Tbl.find · g.id) groups).trans hg)
theorem departGroup_mem (d : Device) (g : Group) (t : Nat) : (departGroup d g t).mem = d.mem := by
  have claims (e : Device) (k : Nat) : (claimChunk g.id t e k).beside = e.beside := by
    simp only [claimChunk]
    split <;> rfl
  refine mem_of_beside ?_
  simp only [departGroup, beside_grantChunks, beside_clearMatches, beside_modCore, beside_modGroup, beside_setDrawer]
  rw [foldl_leaves Device.beside claims, beside_freeDrawer, beside_depositRegs]

/-! A migration (R332). -/

theorem place_retire_op (i : Instr) (c : Ctx) (d : Device) (o : Op) (rs j : Nat) : viewAt Group.place (retire i c (.op d o rs)) j = viewAt Group.place d j := by
  simp only [retire]
  refine (view_noteIssue Group.place (fun _ _ _ _ => rfl) (fun _ _ _ => rfl) _ _ _ _ _).trans ?_
  refine (view_noteArrival Group.place (fun _ _ _ _ => rfl) _ _ _ _).trans ?_
  refine (place_landResult _ _ _ _ _ _ _ _).trans ?_
  exact (view_modSplit Group.place (fun _ _ _ => rfl) _ _ _ _ _).trans (view_startOp Group.place (fun _ _ => rfl) _ _ _ _ _)
/-- Regions that have closed do not show in what a migration reads of the issuing context, nor in registers or memory. -/
theorem closeHere_keeps (i : Instr) {s : State} {c : Ctx} (hd : c.d = s.dev) (hg : Tbl.find c.d.groups c.gid = some c.g) (hk : splitOf c.g c.k = some c.sp) :
    (closeHere i c).g.core = c.g.core ∧ (closeHere i c).g.id = c.g.id ∧ (∀ k, slVal (closeHere i c).g (closeHere i c).sp k = slVal c.g c.sp k) ∧ (closeHere i c).here = c.here ∧ (closeHere i c).next = c.next ∧
    (closeHere i c).d.cores = s.dev.cores ∧ (closeHere i c).d.mem = s.dev.mem ∧ (closeHere i c).g.regs = c.g.regs := by
  obtain ⟨⟨F, -, device⟩, ⟨effects, handed, ops, splits, group⟩, ⟨region, gone, own⟩, -, -⟩ := closeHere_spec i hg hk
  refine ⟨by rw [group], by rw [group], fun k => ?_, ?_, ?_, ?_, ?_, by rw [group]; rfl⟩
  · rw [group, own]
    rfl
  · rw [Ctx.here, own]
    rfl
  · rw [Ctx.next, own]
    rfl
  · rw [device, ← hd]
    rfl
  · rw [device, ← hd]
    rfl

/-- The device in which a migration takes a group's reservations off its core's shelf. -/
def unshelved (i : Instr) (c : Ctx) : Device := (closeHere i c).d.modCore c.g.core fun k => { k with shelf := dropShelf c.gid k.shelf }
/-- The last operation of a group that has started one. -/
theorem Started.lastOp {s : State} {c : Ctx} {d : Device} {o : Op} {rs : Nat} {t : State} (h : Started s c d o rs t) (hd : (Tbl.find d.groups c.gid).isSome) :
    ((Tbl.find t.dev.groups c.gid).bind fun g => g.ops.getLast?).map (fun x => (x.kind, x.writes, x.closing)) = some (o.kind, o.writes, o.closing) := by
  obtain ⟨-, -, -, ⟨x, ops, -, -, -, kind, writes, -, -, -, -, -, -, -, -, closing⟩, -⟩ := h
  obtain ⟨g, hg⟩ := Option.isSome_iff_exists.1 hd
  simp only [opsIn, hg, Option.map_some] at ops
  obtain ⟨g', hg', hops⟩ := Option.map_eq_some_iff.1 ops
  have last : (g'.ops.getLast?).map Op.unmarked = some x := by rw [← List.getLast?_map, hops, List.getLast?_concat]
  obtain ⟨y, hy, rfl⟩ := Option.map_eq_some_iff.1 last
  rw [hg', Option.bind_some, hy, ← kind, ← writes, ← closing]
  rfl
/-- The group of an instruction is on its way to a core with the registers it had, its status to be written. -/
def Departed (r : SReg) (t : Nat) (s : State) (c : Ctx) (u : State) : Prop :=
  (Tbl.find u.dev.groups c.gid).map (fun g => (g.state, g.core, (splitOf g c.k).map fun sp => (sp.pc, sp.index))) = some (.migrating, t, some c.here) ∧
  regsOf u.dev c.gid = regsOf s.dev c.gid ∧ u.dev.mem = s.dev.mem ∧
  ((Tbl.find u.dev.groups c.gid).bind fun g => g.ops.getLast?).map (fun o => (o.kind, o.writes, o.closing)) = some (.pending, scaWrite r.val 0, some c.k)
/-- The operation of a migration under way, whose status is to be written. -/
def statusOp (r : SReg) (k : Nat) : Op := { Op.of .pending (scaWrite r.val 0) false with closing := some k }
section
variable {i : Instr} {s : State} {c : Ctx} {r : SReg} {t : Nat} (hr : ready i none s = some c)
include hr
/-- What a migration does, in the device and with the group that its closed regions leave. -/
theorem migDone_eq : migDone r t (closeHere i c) =
    if migStatus s.plat (unshelved i c) (closeHere i c).g t = 0 then .op (departGroup (unshelved i c) (closeHere i c).g t) (statusOp r c.k) 0
    else .act (unshelved i c) (scaWrite r.val (migStatus s.plat (unshelved i c) (closeHere i c).g t)) false 0 := by
  obtain ⟨hP, hd, hg, hk, -⟩ := ready_ctx hr
  obtain ⟨core, -⟩ := closeHere_keeps i hd (hd ▸ hg) hk
  simp only [migDone, core, ← hP]
  rfl
/-- The group on its way, as it stands in the device that its departure leaves. -/
theorem find_departed (hid : c.g.id = c.gid) (ha : ∀ e ∈ (s.dev.core c.g.core).chunkQueue, e.1 ≠ c.gid) :
    ∃ slot pos block, Tbl.find (departGroup (unshelved i c) (closeHere i c).g t).groups c.gid = some ((closeHere i c).g.departed t slot pos block) := by
  obtain ⟨-, hd, hg, hk, -⟩ := ready_ctx hr
  rw [← hd] at hg
  obtain ⟨core, id, -, -, -, cores, -, -⟩ := closeHere_keeps i hd hg hk
  obtain ⟨-, -, -, found, -⟩ := closeHere_spec i hg hk
  rw [hid] at id
  have asks : (unshelved i c).asks (closeHere i c).g.core = (s.dev.core c.g.core).chunkQueue := by
    rw [core, unshelved, asks_modCore (fun _ => by rfl), Device.asks, Device.core, cores, Device.core]
  have departs := find_departGroup (d := unshelved i c) (g := (closeHere i c).g) t (by rw [id]; exact found) (by rwa [id, asks])
  rwa [id] at departs
/-- A migration that R332 grants: the group is on its way, with its status to be written. -/
theorem migration_departs (hid : c.g.id = c.gid) (ha : ∀ e ∈ (s.dev.core c.g.core).chunkQueue, e.1 ≠ c.gid) (u : State) (hu : u = { s with dev := retire i (closeHere i c) (.op (departGroup (unshelved i c) (closeHere i c).g t) (statusOp r c.k) 0) }) : Departed r t s c u := by
  obtain ⟨-, hd, hg, hk, -⟩ := ready_ctx hr
  obtain ⟨-, -, -, here, -, -, mem, regs⟩ := closeHere_keeps i hd (hd ▸ hg) hk
  obtain ⟨-, -, -, -, split⟩ := closeHere_spec i (hd ▸ hg) hk
  obtain ⟨slot, pos, block, gone⟩ := find_departed (t := t) hr hid ha
  have started : Started s (closeHere i c) (departGroup (unshelved i c) (closeHere i c).g t) (statusOp r c.k) 0 u := hu ▸ retire_op 0 ⟨_, _, gone, splitOf_departed split, rfl, rfl, rfl⟩
  have place : viewAt Group.place u.dev c.gid = some ((closeHere i c).g.departed t slot pos block).place := by
    rw [hu, place_retire_op, viewAt, gone, Option.map_some]
  refine ⟨?_, ?_, ?_, started.lastOp (Option.isSome_iff_exists.2 ⟨_, gone⟩)⟩
  · obtain ⟨-, -, -, -, placed⟩ := started
    obtain ⟨x, hx, at_⟩ := Option.map_eq_some_iff.1 place
    have stands : (splitOf x c.k).map (fun sp => (sp.pc, sp.index)) = some c.here := by
      rw [standsAt, show (closeHere i c).gid = c.gid from rfl, hx] at placed
      exact here ▸ placed
    simp only [Group.place, Prod.mk.injEq] at at_
    obtain ⟨state, core, -⟩ := at_
    rw [hx, Option.map_some, state, core, stands]
    rfl
  · obtain ⟨-, -, registers, -, -⟩ := started
    rw [show regsOf u.dev c.gid = _ from registers, show Tbl.find _ (closeHere i c).gid = _ from gone, regsOf, hg, Option.map_some, Option.map_some, ← regs]
    simp
    rfl
  · obtain ⟨⟨-, -, -, beside, -⟩, -, -, -, -⟩ := started
    rw [beside]
    exact (departGroup_mem _ _ _).trans mem
/-- One that it does not: the status is in its register, and the group stays. -/
theorem migration_refused : Acted s c (unshelved i c) false (scaWrite r.val (migStatus s.plat (unshelved i c) (closeHere i c).g t)) 0 { s with dev := retire i (closeHere i c) (.act (unshelved i c) (scaWrite r.val (migStatus s.plat (unshelved i c) (closeHere i c).g t)) false 0) } := by
  obtain ⟨-, hd, hg, hk, -⟩ := ready_ctx hr
  obtain ⟨-, -, -, -, next, -⟩ := closeHere_keeps i hd (hd ▸ hg) hk
  obtain ⟨-, -, -, found, split⟩ := closeHere_spec i (hd ▸ hg) hk
  obtain ⟨beside, number, registers, stands⟩ := retire_act (i := i) (s := s) (c := closeHere i c) (d := unshelved i c) (scaWrite r.val (migStatus s.plat (unshelved i c) (closeHere i c).g t)) false 0 ⟨_, _, found, split, rfl, rfl, rfl⟩
  exact ⟨beside, number, registers, next ▸ stands⟩
/-- The status of R332 decides which. -/
theorem migration_moves (run : exec i s = .next { s with dev := retire i (closeHere i c) (migDone r t (closeHere i c)) }) :
    (migStatus s.plat (unshelved i c) (closeHere i c).g t = 0 → c.g.id = c.gid → (∀ e ∈ (s.dev.core c.g.core).chunkQueue, e.1 ≠ c.gid) → Completes (exec i s) (Departed r t s c)) ∧
    (migStatus s.plat (unshelved i c) (closeHere i c).g t ≠ 0 → Completes (exec i s) (Acted s c (unshelved i c) false (scaWrite r.val (migStatus s.plat (unshelved i c) (closeHere i c).g t)) 0)) := by
  rw [migDone_eq hr] at run
  refine ⟨fun granted hid ha => ⟨_, run, ?_⟩, fun refused => ⟨_, run, ?_⟩⟩
  · exact migration_departs hr hid ha _ (by rw [if_pos granted])
  · rw [if_neg refused]
    exact migration_refused hr
end

/-! Its arrival (R66). -/

/-- The registers of a group after its arrival are those that its outstanding status makes. -/
theorem regsOf_migrationArrives {P : Platform} {d : Device} {gid : Nat} {g : Group} {o : Op} (hg : Tbl.find d.groups gid = some g) (hs : g.state = .migrating) (ho : (g.ops.find? fun o => o.kind == .pending) = some o)
    (only : ∀ x ∈ g.ops, x.id = o.id → x = o) (hv : o.verLast = none) (hh : o.shape = none) : regsOf (migrationArrives gid P d) gid = some (g.landed o.lander o.tr o.writes 0) := by
  let live (g : Group) : Group := { g with state := .live, arrivedAt := d.nextId, readyAt := d.clock, issueFrom := d.clock }
  have eq : migrationArrives gid P d = (finishOp { d.modGroup gid live with nextId := d.nextId + 1 } gid o.id).modGroup gid fun g => { g with splits := Tbl.mapVals Split.resumed g.splits } := by
    simp only [migrationArrives, hg, hs, bne_self_eq_false, Bool.false_eq_true, if_false, ho]
    rfl
  have found : ((live g).ops.find? fun x => x.id == o.id) = some o := by
    obtain ⟨x, hx⟩ := Option.isSome_iff_exists.1 (List.find?_isSome.2 ⟨o, List.mem_of_find?_eq_some ho, beq_self_eq_true o.id⟩ : (g.ops.find? fun x => x.id == o.id).isSome)
    rw [← only x (List.mem_of_find?_eq_some hx) (id_of_find hx)]
    rwa [← only x (List.mem_of_find?_eq_some hx) (id_of_find hx)] at hx
  have here : Tbl.find ({ d.modGroup gid live with nextId := d.nextId + 1 } : Device).groups gid = some (live g) := (find_modGroup_same d gid live).trans (by rw [hg]; rfl)
  rw [eq]
  refine (viewAt_modGroup Group.regs _ _ _ (fun g => { g with splits := Tbl.mapVals Split.resumed g.splits }) fun _ => rfl).trans ?_
  refine (regsOf_finishOp here found gid).trans ((if_pos rfl).trans (congrArg some ?_))
  rw [landed_endOp _ _ _ _ _ _ hh, hv, landed_congr (x := live g) (g := g) rfl]
  cases o.tr <;> rfl

end Sys2Proof.Machine

namespace Sys2Proof
open Machine

/-- Settles O15: a migration runs in the context in which every region has closed; its status decides whether the group departs, and at the arrival the pending status lands. -/
theorem migrationCompletes : Obligations.migration_completes := by
  unfold Obligations.migration_completes
  refine ⟨⟨?mig, ?migNear⟩, ?arrival⟩
  case mig =>
    intro r k s c hr ⟨hrest, hothers, hgone, hhanded, hreleases⟩
    obtain ⟨-, hd, hg, hk, -⟩ := ready_ctx hr
    obtain ⟨-, -, value, -⟩ := closeHere_keeps (.mig r k) hd (hd ▸ hg) hk
    have body : migBody r k c = .ok fun c => migDone r (slVal c.g c.sp k) c := by simp only [migBody, hothers, Bool.false_eq_true, if_false]
    have run := runCode_closed hr rfl rfl rfl hrest hgone hhanded hreleases body
    rw [value] at run
    exact migration_moves hr run
  case migNear =>
    intro r a s c hr ⟨hrest, hothers, hgone, hhanded, hreleases⟩ e hp
    obtain ⟨hP, -, -, -, -⟩ := ready_ctx hr
    have body : migNearBody r a c = .ok fun x => migDone r (homeSlice x.P (c.placeAt .load e).pa) x := by
      simp only [migNearBody, hothers, Bool.false_eq_true, if_false, placeLane_ok hp, wholeGroup, e]
    exact migration_moves hr (hP ▸ runCode_closed hr rfl rfl rfl hrest hgone hhanded hreleases body)
  case arrival =>
    intro gid s g o hg hs ho only _ hv hh
    obtain ⟨mem, x, hx, place, -⟩ := migrationArrives_spec (P := s.plat) hg hs
    simp only [Group.place, Prod.mk.injEq] at place
    obtain ⟨state, core, -⟩ := place
    refine event_of rfl rfl ⟨regsOf_migrationArrives hg hs ho only hv hh, mem, ?_⟩
    rw [hx, Option.map_some, state, core]

end Sys2Proof

/-! The sideboard and the collective engines (R323 to R325, R402 to R413). -/

namespace Sys2Proof.Machine
open Sys2Proof

/-! A device's own step goes out (R411). -/

/-- A peer is UP, with credit in every class and nothing kept. -/
def Device.open_ (d : Device) (p : Nat) : Prop := (d.peer p).state = .up ∧ (d.peer p).noCredit = 0 ∧ (d.peer p).kept = []
theorem peer_modPeer_other (d : Device) {p q : Nat} (f : Peer → Peer) (h : q ≠ p) : (d.modPeer p f).peer q = d.peer q := by
  simp [Device.peer, Device.modPeer, Tbl.getD, find_set_other _ _ _ _ h]
theorem postTo_open {P : Platform} {d : Device} {p cls : Nat} (m : Posted) (hv : P.valid p = true) (ho : d.open_ p) : postTo P d p cls m = takeCredit (d.emit P m) p cls := by
  obtain ⟨up, credit, kept⟩ := ho
  simp [postTo, hv, up, credit, kept]
section
variable (P : Platform) (d : Device) (q : Nat) (m : Posted)
theorem takeCredit_zero : takeCredit d q 0 = d := rfl
/-- What has gone out stays. -/
theorem mem_fabricOut_postTo {x : Route × Posted} (h : x ∈ d.fabricOut) : x ∈ (postTo P d q 0 m).fabricOut := by
  simp only [postTo, takeCredit_zero]
  split
  · exact h
  · split
    · exact h
    · exact List.mem_append_left _ h
/-- A message of class 0 leaves a peer with credit as it is. -/
theorem open_postTo {p : Nat} (h : d.open_ p) : (postTo P d q 0 m).open_ p := by
  obtain ⟨up, credit, kept⟩ := h
  simp only [postTo, takeCredit_zero]
  split
  · exact ⟨up, credit, kept⟩
  · split
    · rename_i held
      have other : p ≠ q := by
        rintro rfl
        simp [credit, kept] at held
      rw [Device.open_, peer_modPeer_other d _ other]
      exact ⟨up, credit, kept⟩
    · exact ⟨up, credit, kept⟩
end
theorem mem_fabricOut_posts (P : Platform) (m : Nat → Posted) (ps : List Nat) {d : Device} {x : Route × Posted} (h : x ∈ d.fabricOut) : x ∈ (ps.foldl (fun d p => postTo P d p 0 (m p)) d).fabricOut := by
  induction ps generalizing d with
  | nil => exact h
  | cons q ps ih => exact ih (mem_fabricOut_postTo P d q (m q) h)
/-- Of messages to several peers, one that has credit gets its own. -/
theorem posts_open {P : Platform} (m : Nat → Posted) {ps : List Nat} {p : Nat} {d : Device} (hp : p ∈ ps) (hv : P.valid p = true) (ho : d.open_ p) :
    (P.route (m p).peer (m p).cls, m p) ∈ (ps.foldl (fun d p => postTo P d p 0 (m p)) d).fabricOut := by
  induction ps generalizing d with
  | nil => cases hp
  | cons q ps ih =>
    rcases List.mem_cons.1 hp with rfl | hp
    · refine mem_fabricOut_posts P m ps ?_
      rw [show (fun d p => postTo P d p 0 (m p)) d p = _ from postTo_open (m p) hv ho]
      exact List.mem_append_right _ (List.mem_singleton_self _)
    · exact ih hp (open_postTo P d q (m q) ho)
theorem sendOwn_sends {P : Platform} {d : Device} {n p : Nat} {j : Job} (hj : d.job n = some j) (hp : p < 512) (hm : sbMember P j p = true) (hv : P.valid p = true) (ho : d.open_ p) :
    (P.route p 0, Posted.sideboard p n (((Tbl.find j.sideboard P.own).map (·.step)).getD j.step0)) ∈ (sendOwn P d n).fabricOut := by
  have listed : p ∈ (List.range 512).filter fun p => j.sbMem.getLsbD p && p != P.own && P.valid p && !P.foreign p := by
    simp only [sbMember, Bool.and_eq_true] at hm
    obtain ⟨⟨member, near⟩, other⟩ := hm
    simp only [List.mem_filter, List.mem_range, Bool.and_eq_true]
    exact ⟨hp, ⟨⟨member, other⟩, hv⟩, near⟩
  simp only [sendOwn, hj, modJob_fabricOut]
  generalize (List.range 512).filter _ = ps at listed
  exact posts_open (fun p => Posted.sideboard p n (((Tbl.find j.sideboard P.own).map (·.step)).getD j.step0)) listed hv ho

/-! An entry of the sideboard, and its evaluation (R411 to R413). -/

theorem jobs_wakeGroup (d : Device) (g n st : Nat) : (wakeGroup d g n st).jobs = d.jobs := by
  have jobs := congrArg Device.jobs (unwritten_wakeWith d g n st clockZero)
  exact jobs
theorem job_sbEvaluate (P : Platform) (d : Device) (n : Nat) : (sbEvaluate P d n).job n = (d.job n).map (sbRejoin P) := by
  have found : (d.modJob n (sbRejoin P)).job n = (d.job n).map (sbRejoin P) := find_modify_same _ _ _
  simp only [sbEvaluate]
  split
  · exact found
  · rename_i j hj
    refine (congrArg (Tbl.find · n) ?_).trans found
    exact foldl_leaves Device.jobs (f := fun d (g : Machine.Group) => wakeGroup d g.id 1 0) (fun d g => jobs_wakeGroup d g.id 1 0) _ _
/-- A change of entries that hangs on their keys and themselves. -/
theorem find_mapEntries {α : Type} (f : Nat → α → α) (t : Tbl α) (k : Nat) : Tbl.find (t.map fun e => (e.1, f e.1 e.2)) k = (Tbl.find t k).map (f k) := by
  induction t with
  | nil => rfl
  | cons e t ih =>
    by_cases he : e.1 = k
    · subst he
      simp [Tbl.find]
    · simp [Tbl.find, Ne.symm he, ih]
/-- An entry after the evaluation: a member that is absent and not behind the least entry is present again. -/
def rejoined (P : Platform) (j : Job) (l : Word) (p : Nat) (e : SbEntry) : SbEntry := if j.sbMem.getLsbD p && !P.foreign p && !e.present && decide (0 ≤ stepDiff e.step l) then { e with present := true } else e
theorem rejoined_entry (P : Platform) (j : Job) (l : Word) (p : Nat) (e : SbEntry) : (rejoined P j l p e).step = e.step ∧ (rejoined P j l p e).heard = e.heard := by
  simp only [rejoined]
  split <;> exact ⟨rfl, rfl⟩
theorem rejoined_behind {P : Platform} {j : Job} {l : Word} {p : Nat} {e : SbEntry} (h : stepDiff e.step l < 0) : rejoined P j l p e = e := by
  simp [rejoined, Int.not_le.2 h]
theorem find_sbRejoin (P : Platform) (j : Job) (p : Nat) : Tbl.find (sbRejoin P j).sideboard p = (Tbl.find j.sideboard p).map fun e => ((sbLeast P j).map fun l => rejoined P j l p e).getD e := by
  have entries (l : Word) : (fun e : Nat × SbEntry => if j.sbMem.getLsbD e.1 && !P.foreign e.1 && !e.2.present && decide (0 ≤ stepDiff e.2.step l) then (e.1, { e.2 with present := true }) else e) = fun e => (e.1, rejoined P j l e.1 e.2) := by
    funext e
    simp only [rejoined]
    split <;> rfl
  delta sbRejoin
  generalize sbLeast P j = least
  cases least with
  | none => exact Option.map_id'.symm
  | some l => exact (congrArg (fun f => Tbl.find (j.sideboard.map f) p) (entries l)).trans (find_mapEntries (rejoined P j l) j.sideboard p)
/-- The entry of a peer that a job's sideboard has taken, after the evaluation. -/
theorem entry_sbEvaluate {P : Platform} {d : Device} {n p : Nat} {j : Job} {x : SbEntry} (hj : d.job n = some j) :
    ((sbEvaluate P (d.modJob n fun j => { j with sideboard := Tbl.set j.sideboard p x }) n).job n).bind (fun y => Tbl.find y.sideboard p) =
      some (((sbLeast P { j with sideboard := Tbl.set j.sideboard p x }).map fun l => rejoined P { j with sideboard := Tbl.set j.sideboard p x } l p x).getD x) := by
  have taken : (d.modJob n fun j => { j with sideboard := Tbl.set j.sideboard p x }).job n = some { j with sideboard := Tbl.set j.sideboard p x } := (find_modify_same _ _ _).trans (congrArg (Option.map _) hj)
  rw [job_sbEvaluate, taken, Option.map_some, Option.bind_some, find_sbRejoin, find_set_same, Option.map_some]
theorem sideboardArrives_entry {P : Platform} {d : Device} {n p : Nat} {step : Word} {j : Job} {e : SbEntry} (hj : d.job n = some j) (hm : sbMember P j p = true) (he : Tbl.find j.sideboard p = some e) :
    (((sideboardArrives n p step P d).job n).bind fun x => Tbl.find x.sideboard p).map (fun x => (x.step, x.heard)) = some (if 0 < stepDiff step e.step then step else e.step, d.time) := by
  simp only [sideboardArrives, hj, hm, he, Bool.not_true, Bool.false_eq_true, if_false, Option.getD_some]
  rw [entry_sbEvaluate hj, Option.map_some]
  generalize sbLeast P _ = least
  cases least with
  | none => rfl
  | some l =>
    obtain ⟨step, heard⟩ := rejoined_entry P _ l p _
    rw [Option.map_some, Option.getD_some, step, heard]
theorem silenceEnds_absent {P : Platform} {d : Device} {n p : Nat} {j : Job} {e : SbEntry} {l : Word} (hj : d.job n = some j) (he : Tbl.find j.sideboard p = some e) (hm : sbMember P j p = true) (hp : e.present = true) (ht : e.heard + micros j.sbAbsent.toNat < d.time)
    (hl : sbLeast P { j with sideboard := Tbl.set j.sideboard p { e with present := false } } = some l) (hs : stepDiff e.step l < 0) : (((silenceEnds n p P d).job n).bind fun x => Tbl.find x.sideboard p).map (·.present) = some false := by
  simp only [silenceEnds, hj, he, hm, hp, ht, Bool.true_and, decide_true, if_true]
  rw [entry_sbEvaluate hj, hl, Option.map_some, Option.map_some, Option.getD_some, rejoined_behind (e := { e with present := false }) hs]

/-! What the collective engines read (R363, R401). -/

section
variable (d : Device) (gs : Tbl Machine.Group) (co : CollState)
/-- Translation hangs on neither the groups nor the collective engines. -/
theorem engineXlat_withColl (job : Nat) (acc : Access) (die : Nat) (va : DWord) : engineXlat { d with groups := gs, coll := co } job acc die va = engineXlat d job acc die va := by
  have levels (acc : Access) (va : Nat) (ls : List Nat) (table : Nat) : walkLevels { d with groups := gs, coll := co } acc va ls table = walkLevels d acc va ls table := by
    delta walkLevels
    rfl
  have same : walk { d with groups := gs, coll := co } job acc va = walk d job acc va := by
    simp only [walk, levels]
  simp only [engineXlat, same]
  rfl
theorem jobRead_withColl (job die : Nat) (va : DWord) (n : Nat) : jobRead { d with groups := gs, coll := co } job die va n = jobRead d job die va n := by
  have bytes (pa : Nat) : ({ d with groups := gs, coll := co } : Device).readBytes pa n = d.readBytes pa n := readBytes_mem_congr (d := { d with groups := gs, coll := co }) (e := d) rfl pa n
  have poison (pa : Nat) : ({ d with groups := gs, coll := co } : Device).anyPoison pa n = d.anyPoison pa n := rfl
  simp only [jobRead, engineXlat_withColl, bytes, poison]
theorem readBinding_withColl (P : Platform) (job : Nat) (va : DWord) : readBinding P { d with groups := gs, coll := co } job va = readBinding P d job va := by
  simp only [readBinding, jobRead_withColl]
theorem readSource_withColl (job die : Nat) (va : DWord) : readSource { d with groups := gs, coll := co } job die va = readSource d job die va := by
  have lines (n : Nat) (va : DWord) : jobReadLines { d with groups := gs, coll := co } job die va n = jobReadLines d job die va n := by
    induction n generalizing va with
    | zero => rfl
    | succ n ih => simp only [jobReadLines, jobRead_withColl, ih]
  exact lines 64 va
end
/-- A retained copy leaves the sends and arrivals of the engines. -/
theorem retain_queues (P : Platform) (d : Device) (s : CollSend) (die : Nat) (b : Binding) (data : List Byte) : (retain P d s die b data).coll.sends = d.coll.sends ∧ (retain P d s die b data).coll.arrivals = d.coll.arrivals := by
  have written : (engineRun P s.job die d (b.kbase + BitVec.ofNat 64 (4096 * s.chunk)) data).1.coll = d.coll := by
    have coll := congrArg Device.coll (unwritten_writeRun P s.job die (data.length + 1) (b.kbase + BitVec.ofNat 64 (4096 * s.chunk)) data d)
    exact coll
  simp only [retain]
  generalize engineRun P s.job die d (b.kbase + BitVec.ofNat 64 (4096 * s.chunk)) data = r at written ⊢
  rw [← written]
  split <;> exact ⟨rfl, rfl⟩
/-- The oldest send of a die's engine goes to the device itself, where that owns the chunk. -/
theorem contributionSends_own {P : Platform} {d : Device} {die i : Nat} {x : CollSend} {b : Binding} {data : List Byte} (hf : findWhere (fun (e : Nat × CollSend) => e.1 == die) d.coll.sends 0 = some (i, die, x))
    (hb : readBinding P d x.job x.binding = some b) (hs : readSource d x.job die x.src = some data) (ho : b.owner x.chunk = P.own) :
    (contributionSends die P d).coll.sends = d.coll.sends.eraseIdx i ∧
      (contributionSends die P d).coll.arrivals = d.coll.arrivals ++ [{ job := x.job, binding := x.binding, chunk := x.chunk, step := x.step, member := P.own, resend := false, data := bytesWords 1024 data }] := by
  obtain ⟨gs, sent⟩ : ∃ gs, contributionSends die P d = sendContribution P (retain P { d with groups := gs, coll := { d.coll with sends := d.coll.sends.eraseIdx i } } x die b data) b { job := x.job, binding := x.binding, chunk := x.chunk, step := x.step, member := P.own, resend := false, data := bytesWords 1024 data } := by
    cases hx : x.group with
    | none => exact ⟨d.groups, by simp only [contributionSends, hf, hx, readBinding_withColl d d.groups, readSource_withColl d d.groups, hb, hs]⟩
    | some g => exact ⟨Tbl.modify (fun g => { g with outEff := g.outEff - 1 }) d.groups g, by simp only [contributionSends, hf, hx, Device.modGroup, readBinding_withColl, readSource_withColl, hb, hs]⟩
  obtain ⟨sends, arrivals⟩ := retain_queues P { d with groups := gs, coll := { d.coll with sends := d.coll.sends.eraseIdx i } } x die b data
  rw [sent, sendContribution, if_pos ho]
  exact ⟨sends, congrArg (· ++ _) arrivals⟩

/-! A contribution arrives, and a chunk closes (R404 to R407). -/

/-- A contribution on time joins the staging of its chunk. -/
theorem contribute_onTime {P : Platform} {d : Device} {m : Contribution} {b : Binding} {key n : Nat} {c : Chunk} (hj : (d.job m.job).isSome) (hb : readBinding P d m.job m.binding = some b) (hc : m.chunk < b.nchunk) (ho : b.owner m.chunk = P.own)
    (hm : b.members.contains m.member = true) (hf : findChunk d m.job m.binding m.chunk = some (key, c)) (hi : alreadyIn c m = false) (hr : m.resend = false) (hn : c.open_ = some n) (ht : n ≤ m.step) :
    contribute P m d = evalChunk P (setChunk { d with nextId := d.nextId + 1 } key { c with staged := c.staged ++ [{ shift := 0, late := false, step := m.step, member := m.member, since := d.time, data := m.data }] }) key false := by
  have known : (d.job m.job).isNone = false := by simpa using hj
  simp only [contribute, known, hb, hc, ho, hm, hf, hi, hr, hn, decide_true, Bool.not_true, bne_self_eq_false, Bool.or_self, Bool.false_eq_true, Bool.false_and, if_false, Option.getD_some, Option.isNone_some]
  simp [classifyOne, hn, ht, countMany]
section
variable {P : Platform} {d : Device} {key n : Nat} {c : Chunk} {b : Binding} {x : Staged}
/-- The weighted result of a step that one contribution makes. -/
def resultOf (d : Device) (b : Binding) (c : Chunk) (n : Nat) (x : Staged) : ResultMsg :=
  { job := c.job, binding := c.binding, chunk := c.chunk, step := n, count := 1, status := if (quorumOf d b c.job c.binding n).2 ≤ 1 then 1 else 2, data := (List.range 1024).map (closeElem [x]) }
/-- The timer closes a step of the device's own with one contribution: the result goes to itself. -/
theorem closeChunk_single (ho : c.open_ = some n) (hs : c.staged = [x]) (hl : x.late = false) (hn : x.step = n) (hv : b.vbase = 0) (hm : b.members = [P.own]) :
    ∃ y : Chunk, (y.open_, y.staged, y.ready) = (some (n + 1), [], c.ready.filter fun r => r.1 != n) ∧
      closeChunk P d key c b true = { setChunk d key y with coll := { (setChunk d key y).coll with results := d.coll.results ++ [resultOf d b c n x] } } := by
  subst hn
  have one : forClose c x.step = [x] := by simp [forClose, hs, hl]
  have timely : onTime c x.step = [x] := by simp [onTime, hs, hl]
  have sorted (le : Staged → Staged → Bool) : sortBy le [x] = [x] := rfl
  refine ⟨{ c with open_ := some (x.step + 1), staged := [], closes := (c.closes ++ [[(x.member, x.step)]]).drop (c.closes.length - 3), ready := c.ready.filter fun r => r.1 != x.step }, rfl, ?_⟩
  simp [closeChunk, ho, one, timely, sorted, hs, writeVbase, hv, sendResult, hm]
  exact ⟨rfl, rfl⟩
theorem returnCredit_coll : (returnCredit P d).coll = d.coll := by
  simp only [returnCredit]
  split
  · rfl
  · exact foldl_leaves Device.coll (f := fun d (e : Nat × Peer) => d.emit P (.credit e.1 1)) (fun _ _ => rfl) _ _
/-- The evaluation of a chunk at its timer, where one step of it is due. -/
theorem evalChunk_single (hc : Tbl.find d.coll.chunks key = some c) (hb : readBinding P d c.job c.binding = some b) (hv : b.vbase = 0) (hm : b.members = [P.own]) {c' : Chunk} (hc' : noteQuorum d b (noteTimers d b c) = c')
    (ho : c'.open_ = some n) (hr : c'.ready = [(n, 1)]) (hs : c'.staged = [x]) (hl : x.late = false) (hn : x.step = n) :
    (Tbl.find (evalChunk P d key true).coll.chunks key).map (fun y => (y.open_, y.staged, y.ready)) = some (some (n + 1), [], []) ∧ (evalChunk P d key true).coll.results = d.coll.results ++ [resultOf d b c' n x] := by
  obtain ⟨y, seen, closed⟩ := closeChunk_single (d := setChunk d key c') (key := key) ho hs hl hn hv hm
  have seen : (y.open_, y.staged, y.ready) = (some (n + 1), [], []) := by
    rw [seen, hr]
    simp
  have due : closeDue P b key 2 (setChunk d key c') = closeChunk P (setChunk d key c') key c' b true := by
    have first : Tbl.find (setChunk d key c').coll.chunks key = some c' := find_set_same _ _ _
    have then_ : Tbl.find (closeChunk P (setChunk d key c') key c' b true).coll.chunks key = some y := by
      rw [closed]
      exact find_set_same _ _ _
    simp only [Prod.mk.injEq] at seen
    obtain ⟨-, -, ready⟩ := seen
    simp [closeDue, first, hr, ho, then_, ready]
  have eval : (evalChunk P d key true).coll = (closeChunk P (setChunk d key c') key c' b true).coll := by
    simp only [evalChunk, hc, hb, if_true, hc', hr, List.length_singleton]
    rw [returnCredit_coll, due]
  rw [eval, closed]
  refine ⟨?_, rfl⟩
  exact (congrArg (Option.map _) (find_set_same _ key y)).trans (congrArg some seen)
end
theorem noteQuorum_names (d : Device) (b : Binding) (c : Chunk) : (noteQuorum d b (noteTimers d b c)).job = c.job ∧ (noteQuorum d b (noteTimers d b c)).binding = c.binding ∧ (noteQuorum d b (noteTimers d b c)).chunk = c.chunk := by
  have timers : (noteTimers d b c).job = c.job ∧ (noteTimers d b c).binding = c.binding ∧ (noteTimers d b c).chunk = c.chunk := by
    simp only [noteTimers]
    split <;> exact ⟨rfl, rfl, rfl⟩
  simp only [noteQuorum]
  split <;> exact timers

/-! A result is delivered, or lost (R407, R408). -/

theorem jobWriteDrop_coll (P : Platform) (d : Device) (job die : Nat) (va : DWord) (bs : List Byte) : (jobWriteDrop P d job die va bs).coll = d.coll := by
  simp only [jobWriteDrop]
  cases h : jobWrite P d job die va bs with
  | none => rfl
  | some e =>
    have coll := congrArg Device.coll (unwritten_jobWrite h)
    exact coll
theorem deliver_writes {P : Platform} {d : Device} {m : ResultMsg} {b : Binding} {r : Nat × Nat × Nat} (hb : readBinding P d m.job m.binding = some b) (hc : m.chunk < b.nchunk) (hr : resultRecord d m.job b m.chunk = some r) (hs : r.1 ≤ m.step) :
    (deliver P m d).coll.retained = d.coll.retained.filter (fun x => !(x.job == m.job && x.binding == m.binding && x.chunk == m.chunk && decide (x.step ≤ m.step))) ∧
      (deliver P m d).mem = (jobWriteDrop P (jobWriteDrop P d m.job (engineOf m.chunk) (b.rbase + BitVec.ofNat 64 (4096 * m.chunk)) (wordBytes m.data)) m.job (engineOf m.chunk) (recordAt b m.chunk) (bytesOf 4 m.step ++ bytesOf 4 m.count ++ bytesOf 4 m.status ++ bytesOf 4 0)).mem := by
  simp only [deliver, hb, hr, hc, decide_true, Bool.not_true, Bool.false_eq_true, if_false, Nat.not_lt.2 hs]
  have written := (jobWriteDrop_coll P (jobWriteDrop P d m.job (engineOf m.chunk) (b.rbase + BitVec.ofNat 64 (4096 * m.chunk)) (wordBytes m.data)) m.job (engineOf m.chunk) (recordAt b m.chunk) (bytesOf 4 m.step ++ bytesOf 4 m.count ++ bytesOf 4 m.status ++ bytesOf 4 0)).trans (jobWriteDrop_coll P d m.job _ _ _)
  generalize jobWriteDrop P (jobWriteDrop P d m.job (engineOf m.chunk) (b.rbase + BitVec.ofNat 64 (4096 * m.chunk)) (wordBytes m.data)) m.job (engineOf m.chunk) (recordAt b m.chunk) (bytesOf 4 m.step ++ bytesOf 4 m.count ++ bytesOf 4 m.status ++ bytesOf 4 0) = e at written ⊢
  rw [← written]
  exact ⟨rfl, noticeAll_mem e _⟩

/-- An operation that ends leaves its group's others; one that the group does not have leaves all of them. -/
theorem opsIn_finishOp_any {d : Device} {gid : Nat} {g : Machine.Group} (id : Nat) (hg : Tbl.find d.groups gid = some g) : opsIn (finishOp d gid id) gid = some ((g.ops.filter fun o => o.id != id).map Op.unmarked) := by
  cases ho : g.ops.find? fun o => o.id == id with
  | some o => exact opsIn_finishOp hg ho
  | none =>
    have others : (g.ops.filter fun o => o.id != id) = g.ops := List.filter_eq_self.2 fun o h => by simpa using List.find?_eq_none.1 ho o h
    have same : finishOp d gid id = d := by simp only [finishOp, hg, ho]
    rw [same, others, opsIn, hg]
    rfl
/-- A change of the operations of a number leaves the others. -/
theorem filter_changedOps {f : Op → Op} (hf : ∀ o, (f o).id = o.id) (id : Nat) (l : List Op) : (l.map fun o => if o.id == id then f o else o).filter (fun o => o.id != id) = l.filter fun o => o.id != id := by
  induction l with
  | nil => rfl
  | cons o l ih =>
    rw [List.map_cons, List.filter_cons, List.filter_cons, ih]
    by_cases h : o.id = id
    · simp [h, hf]
    · simp [h]
/-- The device in which a `coll.get` no longer waits, its operation to write what it is given. -/
def getEnded (d : Device) (w : CollGetWait) (sd : Nat) : Device :=
  ({ d with coll := { d.coll with gets := d.coll.gets.filter fun x => !(x.group == w.group && x.op == w.op) } } : Device).modGroup w.group fun g => { g with ops := g.ops.map fun o => if o.id == w.op then { o with writes := scaWrite w.sd sd } else o }
/-- A `coll.get` without a result has left its group and the engines. -/
theorem finishGet_none {P : Platform} {d : Device} {w : CollGetWait} {g : Machine.Group} (sd : Nat) (hg : Tbl.find d.groups w.group = some g) :
    (finishGet P d w sd none).mem = d.mem ∧ opsIn (finishGet P d w sd none) w.group = some ((g.ops.filter fun o => o.id != w.op).map Op.unmarked) ∧
      (finishGet P d w sd none).coll.gets = d.coll.gets.filter fun x => !(x.group == w.group && x.op == w.op) := by
  have eq : finishGet P d w sd none = finishOp (getEnded d w sd) w.group w.op := rfl
  have found : Tbl.find (getEnded d w sd).groups w.group = some { g with ops := g.ops.map fun o => if o.id == w.op then { o with writes := scaWrite w.sd sd } else o } := (find_modGroup_same _ _ _).trans (congrArg _ hg)
  obtain ⟨-, beside⟩ := finishOp_leaves (getEnded d w sd) w.group w.op 0
  have coll := congrArg Device.coll beside
  rw [eq]
  refine ⟨finishOp_mem _ _ _, ?_, congrArg CollState.gets coll⟩
  rw [opsIn_finishOp_any w.op found]
  exact congrArg (fun l => some (l.map Op.unmarked)) (filter_changedOps (f := fun o => { o with writes := scaWrite w.sd sd }) (fun _ => rfl) w.op g.ops)
theorem getsLost_ends {P : Platform} {d : Device} {gid op : Nat} {w : CollGetWait} {b : Binding} {g : Machine.Group} (hw : (d.coll.gets.find? fun w => w.group == gid && w.op == op) = some w) (hb : readBinding P d w.job w.binding = some b) (hl : getLost P d w b = true) (hg : Tbl.find d.groups gid = some g) :
    (getsLost gid op P d).mem = d.mem ∧ opsIn (getsLost gid op P d) gid = some ((g.ops.filter fun o => o.id != op).map Op.unmarked) ∧ (getsLost gid op P d).coll.gets = d.coll.gets.filter fun x => !(x.group == gid && x.op == op) := by
  obtain ⟨rfl, rfl⟩ : w.group = gid ∧ w.op = op := by simpa using List.find?_some hw
  simp only [getsLost, hw, hb, hl, Bool.not_true, Bool.false_eq_true, if_false]
  exact finishGet_none _ hg
/-- A retained copy goes out once more to the device itself. -/
theorem resends_own {P : Platform} {d : Device} {id : Nat} {x : Retained} {b : Binding} {data : List Byte} (hx : (d.coll.retained.find? fun x => x.id == id) = some x) (hb : readBinding P d x.job x.binding = some b) (ho : b.owner x.chunk = P.own)
    (hl : x.lost = true) (hc : x.copy = true) (hr : x.resent = false) (hs : readSource d x.job 0 (b.kbase + BitVec.ofNat 64 (4096 * x.chunk)) = some data) :
    resends id P d = { d with coll := { d.coll with
      retained := d.coll.retained.map fun y => if y.id == id then { y with resent := true } else y
      arrivals := d.coll.arrivals ++ [{ job := x.job, binding := x.binding, chunk := x.chunk, step := x.step, member := P.own, resend := true, data := bytesWords 1024 data }] } } := by
  simp [resends, hx, hb, ho, hl, hc, hr, hs, sendContribution]

end Sys2Proof.Machine

namespace Sys2Proof
open Machine

/-- Settles O38: each event has one branch under its premises, and what it sends, stages, closes or writes is read off there. -/
theorem sideboardAndCollectivesExchanged : Obligations.sideboard_and_collectives_exchanged := by
  unfold Obligations.sideboard_and_collectives_exchanged
  refine ⟨⟨?send, ?receipt, ?silence⟩, ?contribution, ?arrival, ?full, ?close, ?result, ?lost, ?resend⟩
  case send =>
    intro n s j hj ht
    have due : sideboardSends n s.plat s.dev = sendOwn s.plat s.dev n := by simp only [sideboardSends, hj, if_pos ht]
    have hosted := hosted_sendOwn s.plat hj
    simp only [Device.hosted, Prod.mk.injEq] at hosted
    obtain ⟨mem, jobs, -⟩ := hosted
    refine event_of rfl due ⟨?_, mem, sendOwn_groups _ _ _, fun p hp hm hv up credit kept => sendOwn_sends hj hp hm hv ⟨up, credit, kept⟩⟩
    rw [Device.job, jobs, find_modify_same, show Tbl.find s.dev.jobs n = some j from hj]
    rfl
  case receipt => exact fun n p step s j e hj hm he => event_of rfl rfl (sideboardArrives_entry hj hm he)
  case silence => exact fun n p s j e l hj he hm hp ht hl hs => event_of rfl rfl (silenceEnds_absent hj he hm hp ht hl hs)
  case contribution => exact fun s die i x b data hf hb hs ho => event_of rfl rfl (contributionSends_own hf hb hs ho)
  case arrival =>
    intro s m b key c hm hj hb hc ho hmem hf hi hr ⟨n, hn, ht⟩ hw hfull
    refine event_of rfl ?_ rfl
    simp only [contributionArrives, hm, hw, hfull, Bool.false_eq_true, if_false]
    exact contribute_onTime hj hb hc ho hmem hf hi hr hn ht
  case full =>
    intro s m hm hw hfull
    refine event_of rfl ?_ rfl
    simp [contributionArrives, hm, hw, hfull]
  case close =>
    intro s key c b hc hb hv hm c' n x ho hr hs hl hn
    obtain ⟨job, binding, chunk⟩ := noteQuorum_names s.dev b c
    have closed := evalChunk_single hc hb hv hm rfl ho hr hs hl hn
    rw [resultOf, job, binding, chunk] at closed
    exact event_of (f := fun P d => evalChunk P d key true) rfl rfl closed
  case result => exact fun s m b r hb hc hr hs => event_of rfl rfl (deliver_writes hb hc hr hs)
  case lost => exact fun s gid op w b g hw hb hl hg => event_of rfl rfl (getsLost_ends hw hb hl hg)
  case resend => exact fun s id x b data hx hb ho hl hc hr hs => event_of rfl (resends_own hx hb ho hl hc hr hs) rfl

end Sys2Proof

/-! A checksum whose timeline its team does not have (R420). -/

namespace Sys2Proof.Machine
open Sys2Proof

/-- A checksum of no element that has gone over its elements, of timeline 0 of team 0. -/
def unitChecksum : HutchCmd :=
  { id := 9, words := [5, 0, 0, 0], job := 0, team := 0, group := 2, tl := 0, number := 1, die := 0, stack := 0, dst := [], src := [], aux := [], mPages := [], mAddr := 0, hyper := [], err := none, ready := true, since := 0, at_ := 0, sums := (0, 0) }
/-- A state whose team 0 has no timelines: the checksum is alone in the queue of stack 0. -/
def teamWithoutTimelines : State :=
  { State.reset with dev := { Device.reset with hutches := [(0, { queue := [unitChecksum] })], teams := [(0, { (default : Team) with tls := [] })] } }
/-- The timeline that the command completes on. -/
def unitTimeline (d : Device) : Option Timeline := (Tbl.find d.teams unitChecksum.team).map fun x => { x.tl unitChecksum.tl with clock := clockZero }
/-- The command ends without its timeline: what the team answers for it is as at the start. -/
theorem unitTimeline_kept : unitTimeline (hutchRuns 5 0 Platform.reset teamWithoutTimelines.dev) = some { Timeline.start with clock := clockZero } := by decide +kernel

end Sys2Proof.Machine

namespace Sys2Proof
open Machine

/-- Refutes O40: its states may have a team without the timeline a command names. A checksum that ends then moves no timeline, where the statement expects the counter to reach its number. -/
theorem not_hutchCommandsRun : ¬ Obligations.hutch_commands_run := by
  unfold Obligations.hutch_commands_run
  intro h
  obtain ⟨-, -, -, -, -, ⟨-, -, -, ends⟩, -⟩ := h
  have ended := ends teamWithoutTimelines 0 unitChecksum [] ⟨rfl, rfl, rfl⟩ rfl rfl rfl (by decide)
  obtain ⟨-, -, -, moved⟩ := ended.answer (f := hutchRuns 5 0) rfl
  have counted := moved { (default : Team) with tls := [] } rfl
  exact absurd (unitTimeline_kept.symm.trans counted) (by decide)

end Sys2Proof
